-- ==== Sys2Proof/Word.lean ====
section
/-! DEFINITION. The word types of the Y4 (R47, R145). -/
namespace Sys2Proof

/-- A scalar register, a program counter, an element's bits, an instruction word (R47, R145). -/
abbrev Word := BitVec 64

/-- The smallest addressable unit of memory (R4). -/
abbrev Byte := BitVec 8

end Sys2Proof
end

