-- ==== Sys2Proof/Syntax.lean ====
section
/-! DEFINITION. The instruction set of the Y4 as syntax: one constructor for each row of spec/opcode_table.json.
The first 320 constructors are the opcode points of R163, those an Anchor may run before those only a Pacer may; their
operands are the fields R156 to R165 give. The last 63 are the table's events: steps of the device that no instruction word causes; their operands say where the step happens. -/
namespace Sys2Proof

/-- A 5-bit register field: a scalar of the executing thread, or a value register (R47, R147). -/
abbrev Reg := Fin 32
/-- A mask of the executing thread, m0 to m11 (R56, R147). -/
abbrev MaskReg := Fin 12
/-- A mask selector: none, or a mask (R148). -/
abbrev MaskSel := Option (Fin 12)
/-- A topology register, k0 to k7 (R55). -/
abbrev TopoReg := Fin 8
/-- A tile, t0 to t7 (R57). -/
abbrev Tile := Fin 8

/-- The element types of R50; dead (0) and the reserved code 15 are no types an instruction can name (R148). -/
inductive ElemType where
  | i8 | n8 | i16 | n16 | i32 | n32 | i64 | n64 | f16 | bf16 | f32 | f64 | qn4 | idx16
deriving DecidableEq, Repr, Inhabited

/-- The scalar float formats (R173). -/
inductive FloatFmt where
  | f16 | bf16 | f32 | f64
deriving DecidableEq, Repr, Inhabited

/-- The scopes of R110. -/
inductive Scope where
  | hart | core | die | package | system
deriving DecidableEq, Repr, Inhabited

/-- Ordering of a scalar memory access with its scope (R148, R157). -/
inductive MemOrder where
  | plain
  | acq (s : Scope)
  | rel (s : Scope)
  | acqRel (s : Scope)
deriving DecidableEq, Repr, Inhabited

/-- The scalar baton queues (R15). -/
inductive ScalarQueue where
  | qa | qc
deriving DecidableEq, Repr, Inhabited

/-- The two threads of a hart (R14). -/
inductive Thread where
  | pacer | anchor
deriving DecidableEq, Repr, Inhabited

/-- A pointer slot of LAP: register and size code, 0 to 3 for 1, 2, 4 and 8 bytes (R159). -/
structure LapPtr where
  reg : Reg
  size : Fin 4
deriving DecidableEq, Repr, Inhabited

/-- The V form's C bit, mask selector and z (R149, R151). -/
structure Pred where
  joined : Bool
  sel : MaskSel
  z : Bool
deriving DecidableEq, Repr, Inhabited

/-- A vector source of role v: a value register with its chain bit, a load queue, or vf (R150, R152). -/
inductive VSrc where
  | reg (r : Reg) (chain : Bool)
  | lq (q : Fin 4)
  | vf
deriving DecidableEq, Repr, Inhabited

/-- A vector destination of role v: a value register or a store queue (R150). -/
inductive VDst where
  | reg (r : Reg)
  | sq (q : Fin 2)
deriving DecidableEq, Repr, Inhabited

/-- The fill of a slide (R210): zero, the identity of code 0 to 5 (sum, max, min, and, or, xor), or a scalar. -/
inductive Fill where
  | zero
  | identity (code : Fin 6)
  | scalar (r : Reg)
deriving DecidableEq, Repr, Inhabited

/-- The forest masks field of imm16 (R164, R224). -/
structure ForestMasks where
  cyc : MaskSel
  cut : MaskSel
deriving DecidableEq, Repr, Inhabited

/-- The operations of VAMO (R244). -/
inductive VAmoOp where
  | add | swap | min | max | and | or | xor | minn | maxn
deriving DecidableEq, Repr, Inhabited

/-- The tile types MLDT names (R161, R262). -/
inductive TileType where
  | f32 | i32
deriving DecidableEq, Repr, Inhabited

/-- A PCI Express function: the PF, or VF p of partition p (R368). -/
inductive Fn where
  | pf
  | vf (p : Fin 8)
deriving DecidableEq, Repr, Inhabited

/-- What a peer asks of this device over a span link (R102, R235, R331): a store, a Shuttle copy's read, or an atomic
(op is the j of R234, width 4 or 8). -/
inductive PeerReq where
  | store (loc : Nat) (data : List (BitVec 8))
  | copyRead (loc : Nat) (n : Nat)
  | atomic (loc : Nat) (op : Fin 10) (wide : Bool) (operand expected : BitVec 64)
deriving DecidableEq, Repr, Inhabited

/-- The units that recovery fences (R403). -/
inductive ErrUnit where
  | nearRow (core row : Nat)
  | nearBank (core bank : Nat)
  | hbmRow (stack row : Nat)
  | track (core track : Nat)
deriving DecidableEq, Repr, Inhabited

/-- Where an error is met, and whether it can be corrected (R402). -/
inductive ErrorEvent where
  | memory (unit : ErrUnit) (correctable : Bool) (loc : Nat)
  | l1Line (core : Nat) (correctable : Bool) (line : Nat)
  | farLine (die : Nat) (correctable : Bool) (line : Nat)
  | vectorReg (h : Nat) (correctable : Bool) (v : Reg) (word : Nat)
  | scalarReg (h : Nat) (correctable : Bool) (t : Thread) (r : Reg)
  | tile (h : Nat) (correctable : Bool) (t : Tile)
deriving DecidableEq, Repr, Inhabited

/-- The instruction points of R163 and the event rows of the opcode table. -/
inductive Instr where
  /-- Writes s1 + s2 modulo 2^64 to d. (R169) -/
  | add (d : Reg) (s1 : Reg) (s2 : Reg)
  /-- Writes s1 - s2 modulo 2^64 to d. (R169) -/
  | sub (d : Reg) (s1 : Reg) (s2 : Reg)
  /-- Writes the low 64 bits of s1 × s2 to d. (R169) -/
  | mul (d : Reg) (s1 : Reg) (s2 : Reg)
  /-- Writes the high 64 bits of the signed product to d. (R169) -/
  | mulh (d : Reg) (s1 : Reg) (s2 : Reg)
  /-- Writes the high 64 bits of the natural product to d. (R169) -/
  | mulhn (d : Reg) (s1 : Reg) (s2 : Reg)
  /-- Signed division rounded toward zero, with no trap, using the boundary results of R170. (R170) -/
  | div (d : Reg) (s1 : Reg) (s2 : Reg)
  /-- Natural division, with no trap on a zero divisor. (R170) -/
  | divn (d : Reg) (s1 : Reg) (s2 : Reg)
  /-- Signed remainder, which takes the sign of x. (R170) -/
  | rem (d : Reg) (s1 : Reg) (s2 : Reg)
  /-- Natural remainder. (R170) -/
  | remn (d : Reg) (s1 : Reg) (s2 : Reg)
  /-- Bitwise AND of two registers. (R169) -/
  | and (d : Reg) (s1 : Reg) (s2 : Reg)
  /-- Bitwise OR of two registers. (R169) -/
  | or (d : Reg) (s1 : Reg) (s2 : Reg)
  /-- Bitwise XOR of two registers. (R169) -/
  | xor (d : Reg) (s1 : Reg) (s2 : Reg)
  /-- Writes x AND NOT y. (R169) -/
  | andn (d : Reg) (s1 : Reg) (s2 : Reg)
  /-- Shifts left by the amount y[5:0]. (R169) -/
  | shl (d : Reg) (s1 : Reg) (s2 : Reg)
  /-- Logical right shift by y[5:0]. (R169) -/
  | shr (d : Reg) (s1 : Reg) (s2 : Reg)
  /-- Arithmetic right shift by y[5:0]. (R169) -/
  | sra (d : Reg) (s1 : Reg) (s2 : Reg)
  /-- Rotates x left by y[5:0]. (R169) -/
  | rot (d : Reg) (s1 : Reg) (s2 : Reg)
  /-- Signed minimum. (R169) -/
  | min (d : Reg) (s1 : Reg) (s2 : Reg)
  /-- Signed maximum. (R169) -/
  | max (d : Reg) (s1 : Reg) (s2 : Reg)
  /-- Natural minimum. (R169) -/
  | minn (d : Reg) (s1 : Reg) (s2 : Reg)
  /-- Natural maximum. (R169) -/
  | maxn (d : Reg) (s1 : Reg) (s2 : Reg)
  /-- Writes 1 if x < y signed, otherwise 0. (R169) -/
  | slt (d : Reg) (s1 : Reg) (s2 : Reg)
  /-- Writes 1 if x < y natural, otherwise 0. (R169) -/
  | sltn (d : Reg) (s1 : Reg) (s2 : Reg)
  /-- Writes 1 if x = y, otherwise 0. (R169) -/
  | seq (d : Reg) (s1 : Reg) (s2 : Reg)
  /-- Writes x if s3 is nonzero, otherwise y. (R169) -/
  | cmov (d : Reg) (s1 : Reg) (s2 : Reg) (s3 : Reg)
  /-- Counts the leading zeros of x, giving 64 for 0. (R169) -/
  | clz (d : Reg) (s1 : Reg)
  /-- Counts the trailing zeros of x, giving 64 for 0. (R169) -/
  | ctz (d : Reg) (s1 : Reg)
  /-- Counts the set bits of x. (R169) -/
  | popc (d : Reg) (s1 : Reg)
  /-- ADD with a sign-extended imm32 as second operand. (R171) -/
  | addImm (d : Reg) (s1 : Reg) (imm : BitVec 32)
  /-- SUB with a sign-extended imm32. (R171) -/
  | subImm (d : Reg) (s1 : Reg) (imm : BitVec 32)
  /-- MUL with a sign-extended imm32. (R171) -/
  | mulImm (d : Reg) (s1 : Reg) (imm : BitVec 32)
  /-- MULH with a sign-extended imm32. (R171) -/
  | mulhImm (d : Reg) (s1 : Reg) (imm : BitVec 32)
  /-- MULHN with the sign-extended imm32 read as unsigned. (R171) -/
  | mulhnImm (d : Reg) (s1 : Reg) (imm : BitVec 32)
  /-- DIV with a sign-extended imm32. (R171) -/
  | divImm (d : Reg) (s1 : Reg) (imm : BitVec 32)
  /-- DIVN with the sign-extended imm32 read as unsigned. (R171) -/
  | divnImm (d : Reg) (s1 : Reg) (imm : BitVec 32)
  /-- REM with a sign-extended imm32. (R171) -/
  | remImm (d : Reg) (s1 : Reg) (imm : BitVec 32)
  /-- REMN with the sign-extended imm32 read as unsigned. (R171) -/
  | remnImm (d : Reg) (s1 : Reg) (imm : BitVec 32)
  /-- AND with a sign-extended imm32. (R171) -/
  | andImm (d : Reg) (s1 : Reg) (imm : BitVec 32)
  /-- OR with a sign-extended imm32. (R171) -/
  | orImm (d : Reg) (s1 : Reg) (imm : BitVec 32)
  /-- XOR with a sign-extended imm32. (R171) -/
  | xorImm (d : Reg) (s1 : Reg) (imm : BitVec 32)
  /-- ANDN with a sign-extended imm32. (R171) -/
  | andnImm (d : Reg) (s1 : Reg) (imm : BitVec 32)
  /-- Left shift by an immediate from 0 to 63. (R171) -/
  | shlImm (d : Reg) (s1 : Reg) (sh : Fin 64)
  /-- Logical right shift by an immediate from 0 to 63. (R171) -/
  | shrImm (d : Reg) (s1 : Reg) (sh : Fin 64)
  /-- Arithmetic right shift by an immediate from 0 to 63. (R171) -/
  | sraImm (d : Reg) (s1 : Reg) (sh : Fin 64)
  /-- Left rotate by an immediate from 0 to 63. (R171) -/
  | rotImm (d : Reg) (s1 : Reg) (sh : Fin 64)
  /-- Signed minimum with an immediate. (R171) -/
  | minImm (d : Reg) (s1 : Reg) (imm : BitVec 32)
  /-- Signed maximum with an immediate. (R171) -/
  | maxImm (d : Reg) (s1 : Reg) (imm : BitVec 32)
  /-- Natural minimum with an immediate. (R171) -/
  | minnImm (d : Reg) (s1 : Reg) (imm : BitVec 32)
  /-- Natural maximum with an immediate. (R171) -/
  | maxnImm (d : Reg) (s1 : Reg) (imm : BitVec 32)
  /-- Signed less-than against an immediate. (R171) -/
  | sltImm (d : Reg) (s1 : Reg) (imm : BitVec 32)
  /-- Natural less-than against the sign-extended immediate. (R171) -/
  | sltnImm (d : Reg) (s1 : Reg) (imm : BitVec 32)
  /-- Equality test against an immediate. (R171) -/
  | seqImm (d : Reg) (s1 : Reg) (imm : BitVec 32)
  /-- Writes imm32 sign-extended to d. (R172) -/
  | li (d : Reg) (imm : BitVec 32)
  /-- Replaces bits [63:32] of d with imm32 and keeps bits [31:0]. (R172) -/
  | lih (d : Reg) (imm : BitVec 32)
  /-- Scalar float add, rounded once by frm. (R174) -/
  | fadd (d : Reg) (s1 : Reg) (s2 : Reg) (f : FloatFmt)
  /-- Scalar float subtract, rounded once. (R174) -/
  | fsub (d : Reg) (s1 : Reg) (s2 : Reg) (f : FloatFmt)
  /-- Scalar float multiply, rounded once. (R174) -/
  | fmul (d : Reg) (s1 : Reg) (s2 : Reg) (f : FloatFmt)
  /-- Scalar fused multiply-add with a single rounding. (R174) -/
  | ffma (d : Reg) (s1 : Reg) (s2 : Reg) (s3 : Reg) (f : FloatFmt)
  /-- Scalar float divide, with the DZ and NV cases of R174. (R174) -/
  | fdiv (d : Reg) (s1 : Reg) (s2 : Reg) (f : FloatFmt)
  /-- Scalar square root, as VSQRT in R79. (R174) -/
  | fsqrt (d : Reg) (s1 : Reg) (s2 : Reg) (f : FloatFmt)
  /-- Scalar float minimum, with -0 below +0 and a canonical NaN. (R174) -/
  | fmin (d : Reg) (s1 : Reg) (s2 : Reg) (f : FloatFmt)
  /-- Scalar float maximum. (R174) -/
  | fmax (d : Reg) (s1 : Reg) (s2 : Reg) (f : FloatFmt)
  /-- Converts between scalar types under R80. (R175) -/
  | fcvt (d : Reg) (s1 : Reg) (s2 : Reg) (dst : ElemType) (src : ElemType)
  /-- Quiet equality compare, writing 0 or 1. (R174) -/
  | fcmpEq (d : Reg) (s1 : Reg) (s2 : Reg) (f : FloatFmt)
  /-- Signalling less-than compare. (R174) -/
  | fcmpLt (d : Reg) (s1 : Reg) (s2 : Reg) (f : FloatFmt)
  /-- Signalling less-or-equal compare. (R174) -/
  | fcmpLe (d : Reg) (s1 : Reg) (s2 : Reg) (f : FloatFmt)
  /-- Unordered test, giving 1 if either operand is NaN. (R174) -/
  | fcmpUn (d : Reg) (s1 : Reg) (s2 : Reg) (f : FloatFmt)
  /-- Reads a control register into d, waiting as R26 and R68 require. (R176) -/
  | getc (d : Reg) (num : Fin 4096)
  /-- Writes s1 to a control register, with the limits of R60 and R62. (R176) -/
  | setc (num : Fin 4096) (s1 : Reg)
  /-- Grants the thread a vector length for a type and sets the grant type in force. (R188) -/
  | setvl (d : Reg) (s1 : Reg) (ty : ElemType)
  /-- Sets the Anchor's vl from a mask under R35, after the mask's producer commits. (R183) -/
  | setvlm (d : Reg) (m : MaskReg)
  /-- Appends a scalar to qa or qc, waiting while the queue is full. (R246) -/
  | qpush (q : ScalarQueue) (s1 : Reg)
  /-- Removes the oldest scalar from qa or qc, waiting while the queue is empty. (R246) -/
  | qpop (d : Reg) (q : ScalarQueue)
  /-- Branches if s1 = s2. (R178) -/
  | beq (s1 : Reg) (s2 : Reg) (off : BitVec 39)
  /-- Branches if s1 ≠ s2. (R178) -/
  | bne (s1 : Reg) (s2 : Reg) (off : BitVec 39)
  /-- Branches if s1 < s2 signed. (R178) -/
  | blt (s1 : Reg) (s2 : Reg) (off : BitVec 39)
  /-- Branches if s1 ≥ s2 signed. (R178) -/
  | bge (s1 : Reg) (s2 : Reg) (off : BitVec 39)
  /-- Branches if s1 < s2 natural. (R178) -/
  | bltn (s1 : Reg) (s2 : Reg) (off : BitVec 39)
  /-- Branches if s1 ≥ s2 natural. (R178) -/
  | bgen (s1 : Reg) (s2 : Reg) (off : BitVec 39)
  /-- Writes PC + 8 to d and jumps to the target. (R178) -/
  | jal (d : Reg) (off : BitVec 39)
  /-- Jumps to s1 + off × 8 with bits [2:0] cleared, and links in d. (R178) -/
  | jalr (d : Reg) (s1 : Reg) (off : BitVec 39)
  /-- Branches when any bit of an Anchor mask below vl is set, after the mask's producer commits. (R180) -/
  | bmskAny (m : MaskReg) (off : BitVec 39)
  /-- Branches when no bit of the mask below vl is set. (R180) -/
  | bmskNone (m : MaskReg) (off : BitVec 39)
  /-- Ends a strip: decrements the count, advances pointers, grants the next vl and branches back while the count is nonzero. (R181) -/
  | lap (n : Reg) (ty : ElemType) (p0 : Option LapPtr) (p1 : Option LapPtr) (p2 : Option LapPtr) (p3 : Option LapPtr) (off : BitVec 17)
  /-- Starts atomic instruction blocks per element and runs passes until every element is stopped. (R185) -/
  | vfetch (sel : MaskSel) (off : BitVec 39)
  /-- Directs the undirected elements of the pass group to a block. (R186) -/
  | tfetch (sel : MaskSel) (off : BitVec 39)
  /-- Directs the undirected elements of the pass group to 0, stopping them. (R186) -/
  | tstop (sel : MaskSel)
  /-- Captures the next n Anchor instructions as a loop body replayed until vl is 0. (R184) -/
  | vloop (n : Fin 32)
  /-- Modulo-scheduled loop: runs T + S - 1 passes with rotating stage predicates. (R36) -/
  | vloopS (n : Fin 32) (trip : Reg) (stages : Fin 32)
  /-- Element-wise add of two vector sources. (R196) -/
  | vadd (p : Pred) (d : VDst) (s1 : VSrc) (s2 : VSrc)
  /-- Element-wise subtract. (R196) -/
  | vsub (p : Pred) (d : VDst) (s1 : VSrc) (s2 : VSrc)
  /-- Element-wise multiply. (R196) -/
  | vmul (p : Pred) (d : VDst) (s1 : VSrc) (s2 : VSrc)
  /-- High half of the exact integer product. (R196) -/
  | vmulh (p : Pred) (d : VDst) (s1 : VSrc) (s2 : VSrc)
  /-- Fused x × y + z. (R196) -/
  | vfma (p : Pred) (d : VDst) (s1 : VSrc) (s2 : VSrc) (s3 : VSrc)
  /-- Fused x × y - z. (R196) -/
  | vfms (p : Pred) (d : VDst) (s1 : VSrc) (s2 : VSrc) (s3 : VSrc)
  /-- Element-wise float divide. (R196) -/
  | vdiv (p : Pred) (d : VDst) (s1 : VSrc) (s2 : VSrc)
  /-- Correctly rounded square root. (R79) -/
  | vsqrt (p : Pred) (d : VDst) (s1 : VSrc)
  /-- Correctly rounded reciprocal. (R79) -/
  | vrcp (p : Pred) (d : VDst) (s1 : VSrc)
  /-- Correctly rounded reciprocal square root. (R79) -/
  | vrsq (p : Pred) (d : VDst) (s1 : VSrc)
  /-- Correctly rounded 2^x. (R79) -/
  | vexp2 (p : Pred) (d : VDst) (s1 : VSrc)
  /-- Correctly rounded log2 x. (R79) -/
  | vlog2 (p : Pred) (d : VDst) (s1 : VSrc)
  /-- Element-wise minimum. (R196) -/
  | vmin (p : Pred) (d : VDst) (s1 : VSrc) (s2 : VSrc)
  /-- Element-wise maximum. (R196) -/
  | vmax (p : Pred) (d : VDst) (s1 : VSrc) (s2 : VSrc)
  /-- Element-wise absolute value. (R196) -/
  | vabs (p : Pred) (d : VDst) (s1 : VSrc)
  /-- Element-wise negation. (R196) -/
  | vneg (p : Pred) (d : VDst) (s1 : VSrc)
  /-- Element-wise bitwise AND. (R196) -/
  | vand (p : Pred) (d : VDst) (s1 : VSrc) (s2 : VSrc)
  /-- Element-wise bitwise OR. (R196) -/
  | vor (p : Pred) (d : VDst) (s1 : VSrc) (s2 : VSrc)
  /-- Element-wise bitwise XOR. (R196) -/
  | vxor (p : Pred) (d : VDst) (s1 : VSrc) (s2 : VSrc)
  /-- Element-wise bitwise NOT of s1. (R196) -/
  | vnot (p : Pred) (d : VDst) (s1 : VSrc)
  /-- Element-wise left shift. (R196) -/
  | vshl (p : Pred) (d : VDst) (s1 : VSrc) (s2 : VSrc)
  /-- Element-wise right shift, arithmetic for I tags. (R196) -/
  | vshr (p : Pred) (d : VDst) (s1 : VSrc) (s2 : VSrc)
  /-- Rounding right shift, with halves rounded away from zero. (R73) -/
  | vsrr (p : Pred) (d : VDst) (s1 : VSrc) (s2 : VSrc)
  /-- Saturating add that sets vsat on a clamp. (R196) -/
  | vadds (p : Pred) (d : VDst) (s1 : VSrc) (s2 : VSrc)
  /-- Saturating subtract. (R196) -/
  | vsubs (p : Pred) (d : VDst) (s1 : VSrc) (s2 : VSrc)
  /-- Adds two I16 products into an I32 accumulator with one saturation. (R74) -/
  | vmac2 (p : Pred) (d : VDst) (s1 : VSrc) (s2 : VSrc) (s3 : VSrc)
  /-- Selects s1 or s2 per element by a mask operand. (R198) -/
  | vsel (p : Pred) (d : VDst) (s1 : VSrc) (s2 : VSrc)
  /-- Sets mask bits where s1 = s2. (R197) -/
  | vcmpEq (p : Pred) (m : MaskReg) (s1 : VSrc) (s2 : VSrc)
  /-- Sets mask bits where s1 ≠ s2. (R197) -/
  | vcmpNe (p : Pred) (m : MaskReg) (s1 : VSrc) (s2 : VSrc)
  /-- Sets mask bits where s1 < s2. (R197) -/
  | vcmpLt (p : Pred) (m : MaskReg) (s1 : VSrc) (s2 : VSrc)
  /-- Sets mask bits where s1 ≤ s2. (R197) -/
  | vcmpLe (p : Pred) (m : MaskReg) (s1 : VSrc) (s2 : VSrc)
  /-- Sets mask bits where s1 > s2. (R197) -/
  | vcmpGt (p : Pred) (m : MaskReg) (s1 : VSrc) (s2 : VSrc)
  /-- Sets mask bits where s1 ≥ s2. (R197) -/
  | vcmpGe (p : Pred) (m : MaskReg) (s1 : VSrc) (s2 : VSrc)
  /-- Sets mask bits where either float operand is NaN. (R197) -/
  | vcmpUn (p : Pred) (m : MaskReg) (s1 : VSrc) (s2 : VSrc)
  /-- Sets mask bits where neither float operand is NaN. (R197) -/
  | vcmpOd (p : Pred) (m : MaskReg) (s1 : VSrc) (s2 : VSrc)
  /-- VADD with a scalar second source captured at VIQ entry. (R192) -/
  | vaddScalar (p : Pred) (d : VDst) (s1 : VSrc) (c : Reg)
  /-- VSUB with a scalar second source. (R192) -/
  | vsubScalar (p : Pred) (d : VDst) (s1 : VSrc) (c : Reg)
  /-- VMUL with a scalar second source. (R192) -/
  | vmulScalar (p : Pred) (d : VDst) (s1 : VSrc) (c : Reg)
  /-- VMULH with a scalar second source. (R192) -/
  | vmulhScalar (p : Pred) (d : VDst) (s1 : VSrc) (c : Reg)
  /-- VFMA with a scalar multiplier. (R192) -/
  | vfmaScalar (p : Pred) (d : VDst) (s1 : VSrc) (c : Reg) (s3 : VSrc)
  /-- VFMS with a scalar multiplier. (R192) -/
  | vfmsScalar (p : Pred) (d : VDst) (s1 : VSrc) (c : Reg) (s3 : VSrc)
  /-- VDIV with a scalar divisor. (R192) -/
  | vdivScalar (p : Pred) (d : VDst) (s1 : VSrc) (c : Reg)
  /-- VMIN with a scalar second source. (R192) -/
  | vminScalar (p : Pred) (d : VDst) (s1 : VSrc) (c : Reg)
  /-- VMAX with a scalar second source. (R192) -/
  | vmaxScalar (p : Pred) (d : VDst) (s1 : VSrc) (c : Reg)
  /-- VAND with a scalar second source. (R192) -/
  | vandScalar (p : Pred) (d : VDst) (s1 : VSrc) (c : Reg)
  /-- VOR with a scalar second source. (R192) -/
  | vorScalar (p : Pred) (d : VDst) (s1 : VSrc) (c : Reg)
  /-- VXOR with a scalar second source. (R192) -/
  | vxorScalar (p : Pred) (d : VDst) (s1 : VSrc) (c : Reg)
  /-- VSHL by a scalar amount. (R192) -/
  | vshlScalar (p : Pred) (d : VDst) (s1 : VSrc) (c : Reg)
  /-- VSHR by a scalar amount. (R192) -/
  | vshrScalar (p : Pred) (d : VDst) (s1 : VSrc) (c : Reg)
  /-- VSRR by a scalar amount. (R192) -/
  | vsrrScalar (p : Pred) (d : VDst) (s1 : VSrc) (c : Reg)
  /-- VADDS with a scalar second source. (R192) -/
  | vaddsScalar (p : Pred) (d : VDst) (s1 : VSrc) (c : Reg)
  /-- VSUBS with a scalar second source. (R192) -/
  | vsubsScalar (p : Pred) (d : VDst) (s1 : VSrc) (c : Reg)
  /-- VMAC2 with a scalar packed pair. (R192) -/
  | vmac2Scalar (p : Pred) (d : VDst) (s1 : VSrc) (c : Reg) (s3 : VSrc)
  /-- VSEL with a scalar s2. (R198) -/
  | vselScalar (p : Pred) (d : VDst) (s1 : VSrc) (c : Reg)
  /-- VCMP.eq against a scalar. (R197) -/
  | vcmpEqScalar (p : Pred) (m : MaskReg) (s1 : VSrc) (c : Reg)
  /-- VCMP.ne against a scalar. (R197) -/
  | vcmpNeScalar (p : Pred) (m : MaskReg) (s1 : VSrc) (c : Reg)
  /-- VCMP.lt against a scalar. (R197) -/
  | vcmpLtScalar (p : Pred) (m : MaskReg) (s1 : VSrc) (c : Reg)
  /-- VCMP.le against a scalar. (R197) -/
  | vcmpLeScalar (p : Pred) (m : MaskReg) (s1 : VSrc) (c : Reg)
  /-- VCMP.gt against a scalar. (R197) -/
  | vcmpGtScalar (p : Pred) (m : MaskReg) (s1 : VSrc) (c : Reg)
  /-- VCMP.ge against a scalar. (R197) -/
  | vcmpGeScalar (p : Pred) (m : MaskReg) (s1 : VSrc) (c : Reg)
  /-- VCMP.un against a scalar. (R197) -/
  | vcmpUnScalar (p : Pred) (m : MaskReg) (s1 : VSrc) (c : Reg)
  /-- VCMP.od against a scalar. (R197) -/
  | vcmpOdScalar (p : Pred) (m : MaskReg) (s1 : VSrc) (c : Reg)
  /-- VADD with a sign-extended imm16, integer tags only. (R192) -/
  | vaddImm (p : Pred) (d : VDst) (s1 : VSrc) (imm : BitVec 16)
  /-- VSUB with an immediate. (R192) -/
  | vsubImm (p : Pred) (d : VDst) (s1 : VSrc) (imm : BitVec 16)
  /-- VMUL with an immediate. (R192) -/
  | vmulImm (p : Pred) (d : VDst) (s1 : VSrc) (imm : BitVec 16)
  /-- VMIN with an immediate. (R192) -/
  | vminImm (p : Pred) (d : VDst) (s1 : VSrc) (imm : BitVec 16)
  /-- VMAX with an immediate. (R192) -/
  | vmaxImm (p : Pred) (d : VDst) (s1 : VSrc) (imm : BitVec 16)
  /-- VAND with an immediate. (R192) -/
  | vandImm (p : Pred) (d : VDst) (s1 : VSrc) (imm : BitVec 16)
  /-- VOR with an immediate. (R192) -/
  | vorImm (p : Pred) (d : VDst) (s1 : VSrc) (imm : BitVec 16)
  /-- VXOR with an immediate. (R192) -/
  | vxorImm (p : Pred) (d : VDst) (s1 : VSrc) (imm : BitVec 16)
  /-- VSHL by an immediate. (R192) -/
  | vshlImm (p : Pred) (d : VDst) (s1 : VSrc) (imm : BitVec 16)
  /-- VSHR by an immediate. (R192) -/
  | vshrImm (p : Pred) (d : VDst) (s1 : VSrc) (imm : BitVec 16)
  /-- VSRR by an immediate. (R192) -/
  | vsrrImm (p : Pred) (d : VDst) (s1 : VSrc) (imm : BitVec 16)
  /-- VADDS with an immediate. (R192) -/
  | vaddsImm (p : Pred) (d : VDst) (s1 : VSrc) (imm : BitVec 16)
  /-- VSUBS with an immediate. (R192) -/
  | vsubsImm (p : Pred) (d : VDst) (s1 : VSrc) (imm : BitVec 16)
  /-- VCMP.eq against an immediate. (R197) -/
  | vcmpEqImm (p : Pred) (m : MaskReg) (s1 : VSrc) (imm : BitVec 16)
  /-- VCMP.ne against an immediate. (R197) -/
  | vcmpNeImm (p : Pred) (m : MaskReg) (s1 : VSrc) (imm : BitVec 16)
  /-- VCMP.lt against an immediate. (R197) -/
  | vcmpLtImm (p : Pred) (m : MaskReg) (s1 : VSrc) (imm : BitVec 16)
  /-- VCMP.le against an immediate. (R197) -/
  | vcmpLeImm (p : Pred) (m : MaskReg) (s1 : VSrc) (imm : BitVec 16)
  /-- VCMP.gt against an immediate. (R197) -/
  | vcmpGtImm (p : Pred) (m : MaskReg) (s1 : VSrc) (imm : BitVec 16)
  /-- VCMP.ge against an immediate. (R197) -/
  | vcmpGeImm (p : Pred) (m : MaskReg) (s1 : VSrc) (imm : BitVec 16)
  /-- Makes a register live with a named type, zero contents and valid length 0. (R189) -/
  | vtag (j : Bool) (v : Reg) (ty : ElemType)
  /-- Changes a live register's type code without converting it. (R189) -/
  | vretag (j : Bool) (v : Reg) (ty : ElemType)
  /-- Writes a scalar's low bits into every active element under the grant type. (R190) -/
  | vsplat (p : Pred) (d : VDst) (c : Reg)
  /-- Pushes a row of vl elements of s1 into a store queue at commit. (R247) -/
  | vpush (p : Pred) (q : Fin 2) (s1 : VSrc)
  /-- Converts each active element to the target type under R80. (R200) -/
  | vcvt (p : Pred) (d : VDst) (s1 : VSrc) (ty : ElemType)
  /-- Saturating integer-to-integer conversion. (R200) -/
  | vcvtS (p : Pred) (d : VDst) (s1 : VSrc) (ty : ElemType)
  /-- Quantises F32 values to QN4 codes and block scales with an error-feedback carry. (R201) -/
  | vqcvt (p : Pred) (d : VDst) (s1 : VSrc) (c : Reg) (s3 : Reg) (k : Fin 32)
  /-- Decodes QN4 elements to F32 or BF16. (R202) -/
  | vdq (p : Pred) (d : VDst) (s1 : VSrc) (c : Reg) (s3 : VSrc) (ty : ElemType)
  /-- Performs one Hadamard butterfly stage per 64-element group. (R203) -/
  | vbfly (p : Pred) (d : VDst) (s1 : VSrc) (dist : Fin 6)
  /-- Butterfly stage forwarded as vf to the next convoy member. (R203) -/
  | vbflyF (j : Bool) (s1 : VSrc) (dist : Fin 6)
  /-- Fills active elements with counter-based draws and advances rngctr by vl. (R204) -/
  | vrand (p : Pred) (d : VDst)
  /-- Decodes UTF-8 bytes to code-point elements with a carried state. (R206) -/
  | vutf8 (j : Bool) (d : VDst) (s1 : VSrc) (s2 : Reg) (h2 : Bool)
  /-- Mask AND. (R199) -/
  | mand (j : Bool) (m : MaskReg) (a : MaskReg) (b : MaskReg)
  /-- Mask OR. (R199) -/
  | mor (j : Bool) (m : MaskReg) (a : MaskReg) (b : MaskReg)
  /-- Mask XOR. (R199) -/
  | mxor (j : Bool) (m : MaskReg) (a : MaskReg) (b : MaskReg)
  /-- Mask NOT. (R199) -/
  | mnot (j : Bool) (m : MaskReg) (a : MaskReg)
  /-- Sets mask bits in [vstart, vl) to imm16[0]. (R199) -/
  | mset (j : Bool) (m : MaskReg) (b : Bool)
  /-- Slides elements up by a scalar amount with fill. (R209) -/
  | vslideup (p : Pred) (d : VDst) (s1 : VSrc) (amt : Reg) (fill : Fill)
  /-- Slides elements down by a scalar amount with fill. (R209) -/
  | vslidedn (p : Pred) (d : VDst) (s1 : VSrc) (amt : Reg) (fill : Fill)
  /-- Slides elements up by an immediate amount. (R209) -/
  | vslideupImm (p : Pred) (d : VDst) (s1 : VSrc) (amt : Fin 1024) (fill : Fill)
  /-- Slides elements down by an immediate amount. (R209) -/
  | vslidednImm (p : Pred) (d : VDst) (s1 : VSrc) (amt : Fin 1024) (fill : Fill)
  /-- Selects elements of s1 by an index vector. (R211) -/
  | vrgather (p : Pred) (d : VDst) (s1 : VSrc) (s2 : VSrc)
  /-- Selects from a two-register table by an index vector. (R212) -/
  | vrgather2 (p : Pred) (d : VDst) (s1 : VSrc) (s2 : VSrc) (s3 : VSrc)
  /-- Packs masked elements to the front and sets vl to their count. (R213) -/
  | vcompress (p : Pred) (d : VDst) (s1 : VSrc)
  /-- Scatters consecutive elements to masked positions. (R214) -/
  | vexpand (p : Pred) (d : VDst) (s1 : VSrc)
  /-- Writes the count of set mask bits below each element. (R215) -/
  | viota (p : Pred) (d : VDst) (m : MaskReg)
  /-- Writes the element at a scalar index to a scalar register. (R216) -/
  | vextr (j : Bool) (d : Reg) (s1 : VSrc) (idx : Reg)
  /-- Writes the element at an immediate index to a scalar register. (R216) -/
  | vextrImm (j : Bool) (d : Reg) (s1 : VSrc) (idx : BitVec 16)
  /-- Writes a scalar into the element at a scalar index. (R217) -/
  | vins (j : Bool) (d : VDst) (c : Reg) (idx : Reg)
  /-- Writes a scalar into the element at an immediate index. (R217) -/
  | vinsImm (j : Bool) (d : VDst) (c : Reg) (idx : BitVec 16)
  /-- Folds active elements into a scalar sum by the canonical tree. (R218) -/
  | vredsum (j : Bool) (sel : MaskSel) (d : Reg) (s1 : VSrc) (acc : Reg)
  /-- Maximum reduction into a scalar. (R218) -/
  | vredmax (j : Bool) (sel : MaskSel) (d : Reg) (s1 : VSrc) (acc : Reg)
  /-- Minimum reduction into a scalar. (R218) -/
  | vredmin (j : Bool) (sel : MaskSel) (d : Reg) (s1 : VSrc) (acc : Reg)
  /-- Bitwise AND reduction. (R219) -/
  | vredbitAnd (j : Bool) (sel : MaskSel) (d : Reg) (s1 : VSrc) (acc : Reg)
  /-- Bitwise OR reduction. (R219) -/
  | vredbitOr (j : Bool) (sel : MaskSel) (d : Reg) (s1 : VSrc) (acc : Reg)
  /-- Bitwise XOR reduction. (R219) -/
  | vredbitXor (j : Bool) (sel : MaskSel) (d : Reg) (s1 : VSrc) (acc : Reg)
  /-- Inclusive running sum with a scalar carry. (R220) -/
  | vscanSum (p : Pred) (d : VDst) (s1 : VSrc) (cin : Reg) (cout : Reg)
  /-- Inclusive running maximum. (R220) -/
  | vscanMax (p : Pred) (d : VDst) (s1 : VSrc) (cin : Reg) (cout : Reg)
  /-- Inclusive running minimum. (R220) -/
  | vscanMin (p : Pred) (d : VDst) (s1 : VSrc) (cin : Reg) (cout : Reg)
  /-- Exclusive running sum. (R220) -/
  | vscanSumX (p : Pred) (d : VDst) (s1 : VSrc) (cin : Reg) (cout : Reg)
  /-- Exclusive running maximum. (R220) -/
  | vscanMaxX (p : Pred) (d : VDst) (s1 : VSrc) (cin : Reg) (cout : Reg)
  /-- Exclusive running minimum. (R220) -/
  | vscanMinX (p : Pred) (d : VDst) (s1 : VSrc) (cin : Reg) (cout : Reg)
  /-- Writes the index of the greatest active element. (R221) -/
  | vargmax (j : Bool) (sel : MaskSel) (d : Reg) (s1 : VSrc)
  /-- Writes the index of the least active element. (R221) -/
  | vargmin (j : Bool) (sel : MaskSel) (d : Reg) (s1 : VSrc)
  /-- Counts set active mask bits below vl. (R222) -/
  | mpopc (j : Bool) (sel : MaskSel) (d : Reg) (m : MaskReg)
  /-- Writes the lowest set active mask bit, or all ones. (R222) -/
  | mfirst (j : Bool) (sel : MaskSel) (d : Reg) (m : MaskReg)
  /-- Writes IDX16 parents into a topology register. (R225) -/
  | kset (p : Pred) (k : TopoReg) (s1 : VSrc)
  /-- Reads a topology register into a value register as IDX16. (R225) -/
  | kget (p : Pred) (d : VDst) (k : TopoReg)
  /-- Sums each node's subtree by doubling. (R227) -/
  | kupSum (p : Pred) (d : VDst) (s1 : VSrc) (k : TopoReg) (fm : ForestMasks)
  /-- Maximum over each node's subtree. (R227) -/
  | kupMax (p : Pred) (d : VDst) (s1 : VSrc) (k : TopoReg) (fm : ForestMasks)
  /-- Minimum over each node's subtree. (R227) -/
  | kupMin (p : Pred) (d : VDst) (s1 : VSrc) (k : TopoReg) (fm : ForestMasks)
  /-- Root-to-node inclusive path sum by doubling. (R226) -/
  | kdownSum (p : Pred) (d : VDst) (s1 : VSrc) (k : TopoReg) (fm : ForestMasks)
  /-- Root-to-node path maximum. (R226) -/
  | kdownMax (p : Pred) (d : VDst) (s1 : VSrc) (k : TopoReg) (fm : ForestMasks)
  /-- Root-to-node path minimum. (R226) -/
  | kdownMin (p : Pred) (d : VDst) (s1 : VSrc) (k : TopoReg) (fm : ForestMasks)
  /-- Gives each node its root's value. (R228) -/
  | kbcast (p : Pred) (d : VDst) (s1 : VSrc) (k : TopoReg) (fm : ForestMasks)
  /-- Gives each node its depth. (R228) -/
  | kdepth (p : Pred) (d : VDst) (k : TopoReg) (fm : ForestMasks)
  /-- Gives each node its c-th ancestor. (R228) -/
  | kanc (p : Pred) (d : VDst) (c : Reg) (k : TopoReg) (fm : ForestMasks)
  /-- Sets mask bits where an indexed node is the element or its ancestor. (R228) -/
  | kancIs (p : Pred) (m : MaskReg) (s1 : VSrc) (k : TopoReg) (fm : ForestMasks)
  /-- Relinks every node to its first kept proper ancestor. (R229) -/
  | kcontract (p : Pred) (kd : TopoReg) (k : TopoReg) (fm : ForestMasks)
  /-- Gives each node its root's index. (R228) -/
  | kroot (p : Pred) (d : VDst) (k : TopoReg) (fm : ForestMasks)
  /-- Sets mask bits for cyclic nodes. (R230) -/
  | kcheck (p : Pred) (m : MaskReg) (k : TopoReg)
  /-- Grants a matrix block shape and sets mshape. (R257) -/
  | settl (c1 : Reg) (c2 : Reg) (c3 : Reg)
  /-- Empties a tile. (R262) -/
  | mzero (t : Tile)
  /-- Stages a value register as bit planes of operand A. (R258) -/
  | mstageA (c1 : Reg) (v : Reg) (planes : Fin 32)
  /-- Stages a value register as bit planes of operand B. (R258) -/
  | mstageB (c1 : Reg) (v : Reg) (planes : Fin 32)
  /-- Adds the staged block product into a tile. (R260) -/
  | mma (t : Tile) (c1 : Reg) (c2 : Reg)
  /-- Loads a tile from near memory. (R262) -/
  | mldt (t : Tile) (c1 : Reg) (tt : TileType)
  /-- Stores a tile to near memory. (R262) -/
  | mstt (t : Tile) (c1 : Reg)
  /-- Copies rl tile rows into a value register. (R263) -/
  | mtov (v : Reg) (t : Tile) (c1 : Reg)
  /-- Raises trap 0x0D, to the user handler when enabled. (R278) -/
  | trap (imm : BitVec 20)
  /-- Raises trap 0x0D with the BRK bit set. (R278) -/
  | brk (imm : BitVec 20)
  /-- Raises host call 0x0E after a system-scope fence and release. (R280) -/
  | hcall (imm : BitVec 20)
  /-- Reads a supervisor control register. (R282) -/
  | sgetc (d : Reg) (num : Fin 4096)
  /-- Writes a supervisor control register. (R282) -/
  | ssetc (num : Fin 4096) (s1 : Reg)
  /-- Does nothing. (R176) -/
  | nop
  /-- Claims a matrix context of the core, waiting at commit until one is free. (R256) -/
  | mclaim
  /-- Ends the claim and frees the context after earlier matrix work completes. (R256) -/
  | mrel
  /-- Arrives at the gang barrier with a package-scope release. (R270) -/
  | gbar
  /-- Ends the thread's part in the current arbitration round. (R272) -/
  | yield
  /-- Ends a thread's use of vector state, freeing the track share when both threads have done so. (R44) -/
  | vrel
  /-- Ends a thread, acting as VREL first. (R45) -/
  | hexit
  /-- Sets the thread's PC to sepc. (R283) -/
  | eret
  /-- Loads a contiguous row into a load queue. (R237) -/
  | vld (sel : MaskSel) (q : Fin 4) (base : Reg) (off : BitVec 16)
  /-- Strided vector load into a load queue. (R237) -/
  | vlds (sel : MaskSel) (q : Fin 4) (base : Reg) (stride : Reg)
  /-- Indexed vector load into a load queue. (R237) -/
  | vldx (sel : MaskSel) (q : Fin 4) (base : Reg) (list : Reg) (sc : Fin 4)
  /-- First-fault load that trims vl at the first failing element. (R241) -/
  | vldff (sel : MaskSel) (q : Fin 4) (base : Reg) (m : MaskReg) (off : BitVec 16)
  /-- Pops a store-queue entry and writes it contiguously. (R240) -/
  | vst (sel : MaskSel) (q : Fin 2) (base : Reg) (off : BitVec 16)
  /-- Strided vector store. (R240) -/
  | vsts (sel : MaskSel) (q : Fin 2) (base : Reg) (stride : Reg)
  /-- Indexed vector store. (R240) -/
  | vstx (sel : MaskSel) (q : Fin 2) (base : Reg) (list : Reg) (sc : Fin 4)
  /-- Reads a lane-layout image and pushes the entry it holds. (R242) -/
  | vldw (q : Fin 4) (base : Reg) (off : BitVec 16)
  /-- Pops an entry and writes it as a lane-layout image. (R242) -/
  | vstw (q : Fin 2) (base : Reg) (off : BitVec 16)
  /-- Pops an entry and writes it as an element-order image. (R243) -/
  | vspl (q : Fin 2) (base : Reg) (off : BitVec 16)
  /-- Reads an element-order image and pushes its entry. (R243) -/
  | vfil (q : Fin 4) (base : Reg) (off : BitVec 16)
  /-- Performs one atomic per active element, optionally returning old values. (R244) -/
  | vamo (sel : MaskSel) (q : Fin 2) (base : Reg) (list : Reg) (sc : Fin 4) (op : VAmoOp) (ret : Option (Fin 4))
  /-- Loads a sign-extended byte. (R232) -/
  | ldB (d : Reg) (s1 : Reg) (ord : MemOrder) (off : BitVec 32)
  /-- Loads a sign-extended halfword. (R232) -/
  | ldH (d : Reg) (s1 : Reg) (ord : MemOrder) (off : BitVec 32)
  /-- Loads a sign-extended word. (R232) -/
  | ldW (d : Reg) (s1 : Reg) (ord : MemOrder) (off : BitVec 32)
  /-- Loads 8 bytes. (R232) -/
  | ldD (d : Reg) (s1 : Reg) (ord : MemOrder) (off : BitVec 32)
  /-- Loads a zero-extended byte. (R232) -/
  | ldBn (d : Reg) (s1 : Reg) (ord : MemOrder) (off : BitVec 32)
  /-- Loads a zero-extended halfword. (R232) -/
  | ldHn (d : Reg) (s1 : Reg) (ord : MemOrder) (off : BitVec 32)
  /-- Loads a zero-extended word. (R232) -/
  | ldWn (d : Reg) (s1 : Reg) (ord : MemOrder) (off : BitVec 32)
  /-- Stores a byte. (R232) -/
  | stB (d : Reg) (s1 : Reg) (ord : MemOrder) (off : BitVec 32)
  /-- Stores a halfword. (R232) -/
  | stH (d : Reg) (s1 : Reg) (ord : MemOrder) (off : BitVec 32)
  /-- Stores a word. (R232) -/
  | stW (d : Reg) (s1 : Reg) (ord : MemOrder) (off : BitVec 32)
  /-- Stores 8 bytes. (R232) -/
  | stD (d : Reg) (s1 : Reg) (ord : MemOrder) (off : BitVec 32)
  /-- Atomic 4-byte add. (R234) -/
  | amoaddW (d : Reg) (s1 : Reg) (s2 : Reg) (ord : MemOrder) (off : BitVec 32)
  /-- Atomic 8-byte add. (R234) -/
  | amoaddD (d : Reg) (s1 : Reg) (s2 : Reg) (ord : MemOrder) (off : BitVec 32)
  /-- Atomic 4-byte swap. (R234) -/
  | amoswapW (d : Reg) (s1 : Reg) (s2 : Reg) (ord : MemOrder) (off : BitVec 32)
  /-- Atomic 8-byte swap. (R234) -/
  | amoswapD (d : Reg) (s1 : Reg) (s2 : Reg) (ord : MemOrder) (off : BitVec 32)
  /-- Atomic 4-byte compare and swap. (R234) -/
  | amocasW (d : Reg) (s1 : Reg) (s2 : Reg) (ord : MemOrder) (off : BitVec 32)
  /-- Atomic 8-byte compare and swap. (R234) -/
  | amocasD (d : Reg) (s1 : Reg) (s2 : Reg) (ord : MemOrder) (off : BitVec 32)
  /-- Atomic 4-byte signed minimum. (R234) -/
  | amominW (d : Reg) (s1 : Reg) (s2 : Reg) (ord : MemOrder) (off : BitVec 32)
  /-- Atomic 8-byte signed minimum. (R234) -/
  | amominD (d : Reg) (s1 : Reg) (s2 : Reg) (ord : MemOrder) (off : BitVec 32)
  /-- Atomic 4-byte signed maximum. (R234) -/
  | amomaxW (d : Reg) (s1 : Reg) (s2 : Reg) (ord : MemOrder) (off : BitVec 32)
  /-- Atomic 8-byte signed maximum. (R234) -/
  | amomaxD (d : Reg) (s1 : Reg) (s2 : Reg) (ord : MemOrder) (off : BitVec 32)
  /-- Atomic 4-byte AND. (R234) -/
  | amoandW (d : Reg) (s1 : Reg) (s2 : Reg) (ord : MemOrder) (off : BitVec 32)
  /-- Atomic 8-byte AND. (R234) -/
  | amoandD (d : Reg) (s1 : Reg) (s2 : Reg) (ord : MemOrder) (off : BitVec 32)
  /-- Atomic 4-byte OR. (R234) -/
  | amoorW (d : Reg) (s1 : Reg) (s2 : Reg) (ord : MemOrder) (off : BitVec 32)
  /-- Atomic 8-byte OR. (R234) -/
  | amoorD (d : Reg) (s1 : Reg) (s2 : Reg) (ord : MemOrder) (off : BitVec 32)
  /-- Atomic 4-byte XOR. (R234) -/
  | amoxorW (d : Reg) (s1 : Reg) (s2 : Reg) (ord : MemOrder) (off : BitVec 32)
  /-- Atomic 8-byte XOR. (R234) -/
  | amoxorD (d : Reg) (s1 : Reg) (s2 : Reg) (ord : MemOrder) (off : BitVec 32)
  /-- Atomic 4-byte natural minimum. (R234) -/
  | amominWn (d : Reg) (s1 : Reg) (s2 : Reg) (ord : MemOrder) (off : BitVec 32)
  /-- Atomic 8-byte natural minimum. (R234) -/
  | amominDn (d : Reg) (s1 : Reg) (s2 : Reg) (ord : MemOrder) (off : BitVec 32)
  /-- Atomic 4-byte natural maximum. (R234) -/
  | amomaxWn (d : Reg) (s1 : Reg) (s2 : Reg) (ord : MemOrder) (off : BitVec 32)
  /-- Atomic 8-byte natural maximum. (R234) -/
  | amomaxDn (d : Reg) (s1 : Reg) (s2 : Reg) (ord : MemOrder) (off : BitVec 32)
  /-- Adds an F32 to a reproducible accumulator atomically at its home. (R236) -/
  | rsadd (d : Reg) (s1 : Reg) (ord : MemOrder) (off : BitVec 32)
  /-- Reads a reproducible accumulator atomically and returns its F32 value. (R236) -/
  | rsfin (d : Reg) (s1 : Reg) (ord : MemOrder) (off : BitVec 32)
  /-- Queues a Shuttle copy of n bytes on a tag. (R117) -/
  | cpy (tag : Fin 64) (dst : Reg) (src : Reg) (n : Reg)
  /-- Queues a Shuttle pitched 2-D copy, optionally swizzled. (R117) -/
  | cpy2 (tag : Fin 64) (dst : Reg) (src : Reg) (rows : Reg) (rowBytes : Reg) (spitch : Reg) (dpitch : Reg) (sw : Bool)
  /-- Queues a Shuttle indexed row gather, optionally swizzled. (R117) -/
  | cpyx (tag : Fin 64) (dst : Reg) (dpitch : Reg) (base : Reg) (tpitch : Reg) (rowBytes : Reg) (list : Reg) (count : Reg) (limit : Reg) (sw : Bool)
  /-- Queues a Photo-finish top-k command read from a parameter block. (R121) -/
  | pftopk (tag : Fin 64) (blk : Reg)
  /-- Queues a Photo-finish threshold scan command. (R121) -/
  | pfscan (tag : Fin 64) (blk : Reg)
  /-- Queues a Seam in-memory reduction of up to 16 buffers. (R125) -/
  | seam (tag : Fin 64) (blk : Reg)
  /-- Queues a write-back and invalidation of a range in the L1 and the die's far cache. (R109) -/
  | fcinv (e1 : Reg) (e2 : Reg)
  /-- Queues a write-back of dirty L1 lines in a range. (R109) -/
  | fcwb (e1 : Reg) (e2 : Reg)
  /-- Waits until at least one masked tag is set, observing it. (R252) -/
  | twany (e1 : Reg)
  /-- Waits until every masked tag is set, observing them. (R252) -/
  | twall (e1 : Reg)
  /-- Writes the lowest set tag in the mask, or 64. (R252) -/
  | tfirst (e1 : Reg) (e2 : Reg)
  /-- Clears the tagmap and tagerr bits of masked tags. (R253) -/
  | tclr (e1 : Reg)
  /-- Waits until earlier operations in the selected engine queues complete. (R254) -/
  | qfence (qmask : Fin 16)
  /-- Orders scalar-side accesses before vector-side ones at a scope. (R269) -/
  | fenceSv (scope : Scope)
  /-- Orders vector-side accesses and observed engine writes before scalar-side ones. (R269) -/
  | fenceVs (scope : Scope)
  /-- Orders vector-side accesses among themselves. (R269) -/
  | fenceVv (scope : Scope)
  /-- Orders both sides before both sides and later engine commands. (R269) -/
  | fenceAll (scope : Scope)
  /-- Sleeps until the watched word may equal s2. (R271) -/
  | waitmEq (s1 : Reg) (s2 : Reg)
  /-- Sleeps until the watched word may differ from s2. (R271) -/
  | waitmNe (s1 : Reg) (s2 : Reg)
  /-- Submits a launch packet to a queue of the partition and writes a status. (R273) -/
  | glaunch (d : Reg) (s1 : Reg) (s2 : Reg)
  /-- Invalidates one page's translations in a partition and waits. (R284) -/
  | ktlbiVa (s1 : Reg) (s2 : Reg)
  /-- Invalidates every translation of a partition. (R284) -/
  | ktlbiPart (s2 : Reg)
  /-- Invalidates every translation in the device. (R284) -/
  | ktlbiAll
  /-- Event. The oldest VIQ entry commits in program order once its writes and flags are final. (R23) -/
  | viqCommit (h : Nat)
  /-- Event. Runs one block on the group with the lowest xpc and commits the pass whole. (R31) -/
  | vfetchPass (h : Nat)
  /-- Event. The matrix engine performs the oldest instruction of the matrix queue. (R27) -/
  | matrixQueuePerform (h : Nat)
  /-- Event. A waiting MCLAIM is granted a context once one of the core's contexts becomes free. (R256) -/
  | mclaimGrant (h : Nat)
  /-- Event. A vector load in flight delivers its whole entry to its load queue. (R239) -/
  | vectorLoadDelivery (h : Nat) (q : Fin 4)
  /-- Event. A queued engine command starts after earlier accesses of its Pacer have performed. (R135) -/
  | engineCommandStart (h : Nat) (q : Fin 4)
  /-- Event. A Shuttle command completes, setting its tagmap bit and any tagerr bit. (R117) -/
  | shuttleComplete (h : Nat)
  /-- Event. A Photo-finish command writes its result and header, then sets its tag. (R122) -/
  | photoFinishComplete (h : Nat)
  /-- Event. Seam writes DST, releases the flag at SCOPE and sets the tag. (R127) -/
  | seamComplete (h : Nat)
  /-- Event. An FCWB or FCINV completes in engine queue 3. (R109) -/
  | cacheOpComplete (h : Nat)
  /-- Event. The memory-side unit carries whole multiples of 2^40 between accumulator bins without changing V. (R96) -/
  | rsaddRenormalise (loc : Nat)
  /-- Event. A dirty scalar L1 line is written back to its home on eviction. (R107) -/
  | dirtyLineWriteback (core : Nat) (line : Nat)
  /-- Event. A hart in queue deadlock takes 0x0A within 256 cycles. (R22) -/
  | queueDeadlockTrap (h : Nat)
  /-- Event. The barrier completes when every thread of the gang has arrived or exited, with a package-scope acquire. (R43) -/
  | gbarComplete (p : Fin 8) (gang : BitVec 32)
  /-- Event. A sleeping WAITM returns on a write to its line or on pre-emption. (R271) -/
  | waitmWake (h : Nat)
  /-- Event. A sleeping WAITM returns after at most 65,536 cycles. (R271) -/
  | waitmTimeout (h : Nat)
  /-- Event. The hart retires once both threads exited, no tag is outstanding and the matrix queue has drained. (R45) -/
  | hartRetire (h : Nat)
  /-- Event. A 64-byte aperture write is checked and enqueued, or dropped and counted. (R376) -/
  | launchPacketWrite (fn : Fn) (p : Fin 8) (q : Fin 64) (off : Nat) (data : List (BitVec 8))
  /-- Event. Writes a queue's EN, CLASS, WEIGHT and DLINE, effective for acceptance at once. (R370) -/
  | qcfgWrite (fn : Fn) (p : Fin 8) (q : Fin 64) (v : BitVec 64)
  /-- Event. Sets the round length, clamped to 1,024 to 2^20 cycles. (R370) -/
  | pquantWrite (fn : Fn) (p : Fin 8) (v : BitVec 64)
  /-- Event. A packet reaching the head has its entry record, arguments and wait word read and checked. (R374) -/
  | headPacketCheck (p : Fin 8) (q : Fin 64)
  /-- Event. A write to the watched line makes the Starter reread the head's wait word. (R382) -/
  | headWaitRecheck (p : Fin 8) (q : Fin 64)
  /-- Event. Every QUANTUM cycles the deficits are credited and a scheduling pass runs. (R379) -/
  | starterRound (p : Fin 8)
  /-- Event. Begins the boundary save of every resident hart of a selected gang. (R385) -/
  | preemptionStart (p : Fin 8) (gang : BitVec 32)
  /-- Event. The deadline expires and harts not yet drained stop hard before saving. (R386) -/
  | preemptDeadlineExpiry (p : Fin 8) (gang : BitVec 32) (elems : List Nat)
  /-- Event. The state is written to the save area, the tracks freed and the gang requeued. (R385) -/
  | saveComplete (h : Nat)
  /-- Event. The Starter checks a save area, restores the hart and continues at the trap point. (R393) -/
  | hartResume (h : Nat)
  /-- Event. A GFORCE write with END 0 pre-empts the named gang with its deadline. (R384) -/
  | gforcePreempt (fn : Fn) (p : Fin 8) (v : BitVec 64)
  /-- Event. A GFORCE write with END 1 ends the named gang at a hard stop without a save. (R384) -/
  | gforceEnd (fn : Fn) (p : Fin 8) (v : BitVec 64)
  /-- Event. TLBINV OP 1 invalidates one page's translations of the partition. (R397) -/
  | tlbinvPage (fn : Fn) (p : Fin 8) (v : BitVec 64)
  /-- Event. TLBINV OP 2 invalidates every translation of the partition. (R397) -/
  | tlbinvPartition (fn : Fn) (p : Fin 8) (v : BitVec 64)
  /-- Event. The invalidation finishes and BUSY clears. (R397) -/
  | tlbinvComplete (p : Fin 8)
  /-- Event. REPLAY ACT 1 makes the waiter holding TOKEN walk again. (R400) -/
  | replayRetry (fn : Fn) (p : Fin 8) (token : BitVec 32)
  /-- Event. REPLAY ACT 2 declines, ending the waiter with its fault outcome. (R400) -/
  | replayDecline (fn : Fn) (p : Fin 8) (token : BitVec 32)
  /-- Event. Moving HEAD frees ring space and lets waiting records post. (R398) -/
  | fqptrWrite (fn : Fn) (p : Fin 8) (v : BitVec 64)
  /-- Event. The host grants or refuses a PRI page request, retrying or failing the access. (R396) -/
  | priResponse (p : Fin 8) (page : Nat) (granted : Bool)
  /-- Event. A host write to device memory performs at the home. (R331) -/
  | hostDeviceWrite (fn : Fn) (loc : Nat) (data : List (BitVec 8))
  /-- Event. A host read of device memory is served at the home. (R331) -/
  | hostDeviceRead (fn : Fn) (loc : Nat) (n : Nat)
  /-- Event. An AtomicOp sent to the device completes with Unsupported Request. (R368) -/
  | hostAtomicop (fn : Fn) (loc : Nat)
  /-- Event. A peer's span-link access performs at this device's home. (R331) -/
  | peerRequest (peer : Fin 16) (req : PeerReq)
  /-- Event. An error in a row, bank or track starts fencing, copy and march test. (R403) -/
  | errorDetected (err : ErrorEvent)
  /-- Event. The march test ends, the unit is restored or retired and unfenced, and an outcome record posted. (R403) -/
  | recoveryComplete (unit : ErrUnit) (passed : Bool)
  /-- Event. Stops every gang, blocks launches, sets FATAL and starts the dump. (R406) -/
  | fatalError (cause : BitVec 8) (die : Fin 16)
  /-- Event. The firmware finishes the dump region and sets DUMP. (R407) -/
  | dumpComplete
  /-- Event. A junction temperature of 115 °C causes a fatal thermal trip. (R418) -/
  | thermalTrip
  /-- Event. TJ at or above 100 °C makes the device lower issue rates. (R418) -/
  | thermalThrottle (tj : BitVec 8)
  /-- Event. Sets the power cap, clamped to 1,400 to 2,800 W. (R418) -/
  | plimitWrite (fn : Fn) (v : BitVec 64)
  /-- Event. Sets a partition's dies when no gang or packet is affected, otherwise ignored. (R413) -/
  | pshapeWrite (fn : Fn) (p : Fin 8) (v : BitVec 64)
  /-- Event. Sets the fault ring, storing at most 11 in LOGN. (R384) -/
  | fqbaseWrite (fn : Fn) (p : Fin 8) (v : BitVec 64)
  /-- Event. Sets the error-log ring, storing at most 11 in LOGN. (R405) -/
  | elbaseWrite (fn : Fn) (v : BitVec 64)
  /-- Event. A TSGO write captures every die's cycle counter. (R417) -/
  | telemetrySnapshot (fn : Fn) (v : BitVec 64)
  /-- Event. The snapshot record is written and TSSTAT released. (R417) -/
  | telemetrySnapshotDone
  /-- Event. A write of 1 to the mailbox starts a signed attestation report. (R411) -/
  | attestationRequest (fn : Fn) (v : BitVec 64)
  /-- Event. The report is written and the status released at system scope. (R411) -/
  | attestationDone
  /-- Event. The boot ROM verifies slots A and B and runs the first accepted image, or sets RECOV. (R409) -/
  | firmwareBoot (slotA : List (BitVec 8)) (slotB : List (BitVec 8))
  /-- Event. Discards a partition's packets, ends its gangs and resets its counts. (R383) -/
  | vfFunctionLevelReset (p : Fin 8)
  /-- Event. Resets the whole device. (R406) -/
  | pfFunctionLevelReset
  /-- Event. A write to a device register with no behaviour of its own stores its RW fields. (R5) -/
  | registerWrite (fn : Fn) (off : Nat) (v : BitVec 64)
  /-- Event. A load, store or atomic in flight becomes performed at a point of coherence, fixing its value or reaching the home. (R323) -/
  | accessPerformed (h : Nat) (idx : Nat)
  /-- Event. A die's far cache evicts a line, so a later load refills it from the home. (R334) -/
  | farCacheLineEviction (die : Nat) (line : Nat)
  /-- Event. At each millisecond window the device compares average power with WATTS and lowers or restores issue rates, setting THROT. (R418) -/
  | powerCapThrottle (watts : Nat)
  /-- Event. Supply power is lost, stopping the device while keeping a leaf counter that has already advanced. (R412) -/
  | powerLoss
  /-- Event. The driver resumes a hart stopped at a supervisor trap or host call, or marks it to resume when its gang next starts. (R276) -/
  | trappedHartResume (p : Fin 8) (gang : BitVec 32) (hart : Nat)
deriving DecidableEq, Repr, Inhabited

/-- Who moves in a step: a thread of a hart (by its index in the state), or an event. -/
inductive Agent where
  | pacer (h : Nat)
  | anchor (h : Nat)
  | event (i : Instr)
deriving DecidableEq, Repr, Inhabited

/-- One turn of the device: how many cycles pass before it, and who moves. -/
structure Turn where
  dt : Nat
  who : Agent
deriving DecidableEq, Repr, Inhabited

end Sys2Proof
end

