-- ==== Sys2Proof/WellFormed.lean ====
section
/-! DEFINITION. Which instructions are well formed: the limits of R147 to R166 and of the instructions' own entries
that their operand types do not already carry. The decoder refuses what fails here (R166 step 2). -/
namespace Sys2Proof

/-- The types a float holds (R50). -/
def ElemType.isFloat : ElemType → Bool
  | .f16 | .bf16 | .f32 | .f64 => true
  | _ => false

/-- The integer types of R195's INT, IDX16 included. -/
def ElemType.isInteger : ElemType → Bool
  | .f16 | .bf16 | .f32 | .f64 | .qn4 => false
  | _ => true

/-- The types FCVT names, codes 5 to 12 (R156). -/
def ElemType.isScalarCvt : ElemType → Bool
  | .i32 | .n32 | .i64 | .n64 | .f16 | .bf16 | .f32 | .f64 => true
  | _ => false

/-- FCVT converts between two of the codes 5 to 12, at least one of them a float (R175). -/
def cvtTypesOk (dst src : ElemType) : Bool :=
  dst.isScalarCvt && src.isScalarCvt && (dst.isFloat || src.isFloat)

/-- Zeroing needs a mask (R151). -/
def Pred.ok (p : Pred) : Bool := !p.z || p.sel.isSome

/-- The selected mask is an operand: it must be named, and z must be 0 (R151). -/
def Pred.operandMask (p : Pred) : Bool := p.sel.isSome && !p.z

/-- The registers of LAP's enabled pointer slots. -/
def lapRegs (p0 p1 p2 p3 : Option LapPtr) : List Reg :=
  (p0.map (·.reg)).toList ++ (p1.map (·.reg)).toList ++ (p2.map (·.reg)).toList ++ (p3.map (·.reg)).toList

/-- No two enabled slots name one register, and none names the count register or register 0 (R182). -/
def lapPtrsOk (n : Reg) (p0 p1 p2 p3 : Option LapPtr) : Bool :=
  let rs := lapRegs p0 p1 p2 p3
  decide rs.Nodup && !rs.contains n && !rs.contains 0

/-- VQCVT's d, s1 and s3 name three different registers (R85, R201). -/
def quantRegsOk (d : VDst) (s1 : VSrc) (s3 : Reg) : Bool :=
  (match d with | .reg r => r != s3 | .sq _ => true) &&
  (match s1 with | .reg r _ => r != s3 | _ => true) &&
  (match d, s1 with | .reg r, .reg r' _ => r != r' | _, _ => true)

/-- VUTF8's d, s1 and s2 name three different registers (R205). -/
def utf8RegsOk (d : VDst) (s1 : VSrc) (s2 : Reg) : Bool := quantRegsOk d s1 s2

/-- The two output masks of a forest instruction differ from each other and from a mask destination (R224). -/
def ForestMasks.ok (f : ForestMasks) (dst : Option MaskReg) : Bool :=
  (f.cyc.isNone || f.cyc != f.cut) &&
  (dst.isNone || (f.cyc != dst && f.cut != dst))

/-- ord is 0 or 1 for loads and RSFIN (R157). -/
def MemOrder.loadOk : MemOrder → Bool
  | .plain | .acq _ => true
  | _ => false

/-- ord is 0 or 2 for stores and RSADD (R157). -/
def MemOrder.storeOk : MemOrder → Bool
  | .plain | .rel _ => true
  | _ => false

/-- The instruction is one its encoding and its entry allow (R147 to R166). Events have no word: they are well formed. -/
def Instr.wf : Instr → Bool
  | .add _ _ _ => true
  | .sub _ _ _ => true
  | .mul _ _ _ => true
  | .mulh _ _ _ => true
  | .mulhn _ _ _ => true
  | .div _ _ _ => true
  | .divn _ _ _ => true
  | .rem _ _ _ => true
  | .remn _ _ _ => true
  | .and _ _ _ => true
  | .or _ _ _ => true
  | .xor _ _ _ => true
  | .andn _ _ _ => true
  | .shl _ _ _ => true
  | .shr _ _ _ => true
  | .sra _ _ _ => true
  | .rot _ _ _ => true
  | .min _ _ _ => true
  | .max _ _ _ => true
  | .minn _ _ _ => true
  | .maxn _ _ _ => true
  | .slt _ _ _ => true
  | .sltn _ _ _ => true
  | .seq _ _ _ => true
  | .cmov _ _ _ _ => true
  | .clz _ _ => true
  | .ctz _ _ => true
  | .popc _ _ => true
  | .addImm _ _ _ => true
  | .subImm _ _ _ => true
  | .mulImm _ _ _ => true
  | .mulhImm _ _ _ => true
  | .mulhnImm _ _ _ => true
  | .divImm _ _ _ => true
  | .divnImm _ _ _ => true
  | .remImm _ _ _ => true
  | .remnImm _ _ _ => true
  | .andImm _ _ _ => true
  | .orImm _ _ _ => true
  | .xorImm _ _ _ => true
  | .andnImm _ _ _ => true
  | .shlImm _ _ _ => true
  | .shrImm _ _ _ => true
  | .sraImm _ _ _ => true
  | .rotImm _ _ _ => true
  | .minImm _ _ _ => true
  | .maxImm _ _ _ => true
  | .minnImm _ _ _ => true
  | .maxnImm _ _ _ => true
  | .sltImm _ _ _ => true
  | .sltnImm _ _ _ => true
  | .seqImm _ _ _ => true
  | .li _ _ => true
  | .lih _ _ => true
  | .fadd _ _ _ _ => true
  | .fsub _ _ _ _ => true
  | .fmul _ _ _ _ => true
  | .ffma _ _ _ _ _ => true
  | .fdiv _ _ _ _ => true
  | .fsqrt _ _ _ _ => true
  | .fmin _ _ _ _ => true
  | .fmax _ _ _ _ => true
  | .fcvt _ _ _ dst src => cvtTypesOk dst src
  | .fcmpEq _ _ _ _ => true
  | .fcmpLt _ _ _ _ => true
  | .fcmpLe _ _ _ _ => true
  | .fcmpUn _ _ _ _ => true
  | .getc _ _ => true
  | .setc _ _ => true
  | .nop => true
  | .setvl _ _ _ => true
  | .setvlm _ _ => true
  | .qpush _ _ => true
  | .qpop _ _ => true
  | .beq _ _ _ => true
  | .bne _ _ _ => true
  | .blt _ _ _ => true
  | .bge _ _ _ => true
  | .bltn _ _ _ => true
  | .bgen _ _ _ => true
  | .jal _ _ => true
  | .jalr _ _ _ => true
  | .bmskAny _ _ => true
  | .bmskNone _ _ => true
  | .lap n _ p0 p1 p2 p3 _ => lapPtrsOk n p0 p1 p2 p3
  | .vfetch _ _ => true
  | .tfetch _ _ => true
  | .tstop _ => true
  | .vloop _ => true
  | .vloopS _ _ st => decide (2 ≤ st.val) && decide (st.val ≤ 4)
  | .vadd p _ _ _ => p.ok
  | .vsub p _ _ _ => p.ok
  | .vmul p _ _ _ => p.ok
  | .vmulh p _ _ _ => p.ok
  | .vfma p _ _ _ _ => p.ok
  | .vfms p _ _ _ _ => p.ok
  | .vdiv p _ _ _ => p.ok
  | .vsqrt p _ _ => p.ok
  | .vrcp p _ _ => p.ok
  | .vrsq p _ _ => p.ok
  | .vexp2 p _ _ => p.ok
  | .vlog2 p _ _ => p.ok
  | .vmin p _ _ _ => p.ok
  | .vmax p _ _ _ => p.ok
  | .vabs p _ _ => p.ok
  | .vneg p _ _ => p.ok
  | .vand p _ _ _ => p.ok
  | .vor p _ _ _ => p.ok
  | .vxor p _ _ _ => p.ok
  | .vnot p _ _ => p.ok
  | .vshl p _ _ _ => p.ok
  | .vshr p _ _ _ => p.ok
  | .vsrr p _ _ _ => p.ok
  | .vadds p _ _ _ => p.ok
  | .vsubs p _ _ _ => p.ok
  | .vmac2 p _ _ _ _ => p.ok
  | .vsel p _ _ _ => p.operandMask
  | .vcmpEq p _ _ _ => p.ok
  | .vcmpNe p _ _ _ => p.ok
  | .vcmpLt p _ _ _ => p.ok
  | .vcmpLe p _ _ _ => p.ok
  | .vcmpGt p _ _ _ => p.ok
  | .vcmpGe p _ _ _ => p.ok
  | .vcmpUn p _ _ _ => p.ok
  | .vcmpOd p _ _ _ => p.ok
  | .vaddScalar p _ _ _ => p.ok
  | .vsubScalar p _ _ _ => p.ok
  | .vmulScalar p _ _ _ => p.ok
  | .vmulhScalar p _ _ _ => p.ok
  | .vfmaScalar p _ _ _ _ => p.ok
  | .vfmsScalar p _ _ _ _ => p.ok
  | .vdivScalar p _ _ _ => p.ok
  | .vminScalar p _ _ _ => p.ok
  | .vmaxScalar p _ _ _ => p.ok
  | .vandScalar p _ _ _ => p.ok
  | .vorScalar p _ _ _ => p.ok
  | .vxorScalar p _ _ _ => p.ok
  | .vshlScalar p _ _ _ => p.ok
  | .vshrScalar p _ _ _ => p.ok
  | .vsrrScalar p _ _ _ => p.ok
  | .vaddsScalar p _ _ _ => p.ok
  | .vsubsScalar p _ _ _ => p.ok
  | .vmac2Scalar p _ _ _ _ => p.ok
  | .vselScalar p _ _ _ => p.operandMask
  | .vcmpEqScalar p _ _ _ => p.ok
  | .vcmpNeScalar p _ _ _ => p.ok
  | .vcmpLtScalar p _ _ _ => p.ok
  | .vcmpLeScalar p _ _ _ => p.ok
  | .vcmpGtScalar p _ _ _ => p.ok
  | .vcmpGeScalar p _ _ _ => p.ok
  | .vcmpUnScalar p _ _ _ => p.ok
  | .vcmpOdScalar p _ _ _ => p.ok
  | .vaddImm p _ _ _ => p.ok
  | .vsubImm p _ _ _ => p.ok
  | .vmulImm p _ _ _ => p.ok
  | .vminImm p _ _ _ => p.ok
  | .vmaxImm p _ _ _ => p.ok
  | .vandImm p _ _ _ => p.ok
  | .vorImm p _ _ _ => p.ok
  | .vxorImm p _ _ _ => p.ok
  | .vshlImm p _ _ _ => p.ok
  | .vshrImm p _ _ _ => p.ok
  | .vsrrImm p _ _ _ => p.ok
  | .vaddsImm p _ _ _ => p.ok
  | .vsubsImm p _ _ _ => p.ok
  | .vcmpEqImm p _ _ _ => p.ok
  | .vcmpNeImm p _ _ _ => p.ok
  | .vcmpLtImm p _ _ _ => p.ok
  | .vcmpLeImm p _ _ _ => p.ok
  | .vcmpGtImm p _ _ _ => p.ok
  | .vcmpGeImm p _ _ _ => p.ok
  | .vtag _ _ _ => true
  | .vretag _ _ _ => true
  | .vsplat p _ _ => p.ok
  | .vpush p _ _ => p.ok
  | .vcvt p _ _ ty => p.ok && ty != .qn4
  | .vcvtS p _ _ ty => p.ok && ty != .qn4 && ty.isInteger
  | .vqcvt p d s1 _ s3 _ => p.ok && quantRegsOk d s1 s3
  | .vdq p _ _ _ _ ty => p.ok && (ty == .bf16 || ty == .f32)
  | .vbfly p _ _ _ => p.ok
  | .vbflyF _ _ _ => true
  | .vrand p _ => p.ok
  | .vutf8 _ d s1 s2 _ => utf8RegsOk d s1 s2
  | .mand _ _ _ _ => true
  | .mor _ _ _ _ => true
  | .mxor _ _ _ _ => true
  | .mnot _ _ _ => true
  | .mset _ _ _ => true
  | .vslideup p _ _ _ _ => p.ok
  | .vslidedn p _ _ _ _ => p.ok
  | .vslideupImm p _ _ _ _ => p.ok
  | .vslidednImm p _ _ _ _ => p.ok
  | .vrgather p _ _ _ => p.ok
  | .vrgather2 p _ _ _ _ => p.ok
  | .vcompress p _ _ => p.operandMask
  | .vexpand p _ _ => p.operandMask
  | .viota p _ _ => p.ok
  | .vextr _ _ _ _ => true
  | .vextrImm _ _ _ _ => true
  | .vins _ _ _ _ => true
  | .vinsImm _ _ _ _ => true
  | .vredsum _ _ _ _ _ => true
  | .vredmax _ _ _ _ _ => true
  | .vredmin _ _ _ _ _ => true
  | .vredbitAnd _ _ _ _ _ => true
  | .vredbitOr _ _ _ _ _ => true
  | .vredbitXor _ _ _ _ _ => true
  | .vscanSum p _ _ _ _ => p.ok
  | .vscanMax p _ _ _ _ => p.ok
  | .vscanMin p _ _ _ _ => p.ok
  | .vscanSumX p _ _ _ _ => p.ok
  | .vscanMaxX p _ _ _ _ => p.ok
  | .vscanMinX p _ _ _ _ => p.ok
  | .vargmax _ _ _ _ => true
  | .vargmin _ _ _ _ => true
  | .mpopc _ _ _ _ => true
  | .mfirst _ _ _ _ => true
  | .kset p _ _ => p.ok
  | .kget p _ _ => p.ok
  | .kupSum p _ _ _ fm => p.ok && fm.ok none
  | .kupMax p _ _ _ fm => p.ok && fm.ok none
  | .kupMin p _ _ _ fm => p.ok && fm.ok none
  | .kdownSum p _ _ _ fm => p.ok && fm.ok none
  | .kdownMax p _ _ _ fm => p.ok && fm.ok none
  | .kdownMin p _ _ _ fm => p.ok && fm.ok none
  | .kbcast p _ _ _ fm => p.ok && fm.ok none
  | .kdepth p _ _ fm => p.ok && fm.ok none
  | .kanc p _ _ _ fm => p.ok && fm.ok none
  | .kancIs p m _ _ fm => p.ok && fm.ok (some m)
  | .kcontract p _ _ fm => p.operandMask && fm.ok none
  | .kroot p _ _ fm => p.ok && fm.ok none
  | .kcheck p _ _ => p.ok
  | .vld _ _ _ _ => true
  | .vlds _ _ _ _ => true
  | .vldx _ _ _ _ _ => true
  | .vldff _ _ _ _ _ => true
  | .vst _ _ _ _ => true
  | .vsts _ _ _ _ => true
  | .vstx _ _ _ _ _ => true
  | .vldw _ _ _ => true
  | .vstw _ _ _ => true
  | .vspl _ _ _ => true
  | .vfil _ _ _ => true
  | .vamo _ _ _ _ _ _ _ => true
  | .ldB _ _ o _ => o.loadOk
  | .ldH _ _ o _ => o.loadOk
  | .ldW _ _ o _ => o.loadOk
  | .ldD _ _ o _ => o.loadOk
  | .ldBn _ _ o _ => o.loadOk
  | .ldHn _ _ o _ => o.loadOk
  | .ldWn _ _ o _ => o.loadOk
  | .stB _ _ o _ => o.storeOk
  | .stH _ _ o _ => o.storeOk
  | .stW _ _ o _ => o.storeOk
  | .stD _ _ o _ => o.storeOk
  | .amoaddW _ _ _ _ _ => true
  | .amoaddD _ _ _ _ _ => true
  | .amoswapW _ _ _ _ _ => true
  | .amoswapD _ _ _ _ _ => true
  | .amocasW _ _ _ _ _ => true
  | .amocasD _ _ _ _ _ => true
  | .amominW _ _ _ _ _ => true
  | .amominD _ _ _ _ _ => true
  | .amomaxW _ _ _ _ _ => true
  | .amomaxD _ _ _ _ _ => true
  | .amoandW _ _ _ _ _ => true
  | .amoandD _ _ _ _ _ => true
  | .amoorW _ _ _ _ _ => true
  | .amoorD _ _ _ _ _ => true
  | .amoxorW _ _ _ _ _ => true
  | .amoxorD _ _ _ _ _ => true
  | .amominWn _ _ _ _ _ => true
  | .amominDn _ _ _ _ _ => true
  | .amomaxWn _ _ _ _ _ => true
  | .amomaxDn _ _ _ _ _ => true
  | .rsadd _ _ o _ => o.storeOk
  | .rsfin _ _ o _ => o.loadOk
  | .cpy _ _ _ _ => true
  | .cpy2 _ _ _ _ _ _ _ _ => true
  | .cpyx _ _ _ _ _ _ _ _ _ _ => true
  | .pftopk _ _ => true
  | .pfscan _ _ => true
  | .seam _ _ => true
  | .fcinv _ _ => true
  | .fcwb _ _ => true
  | .twany _ => true
  | .twall _ => true
  | .tfirst _ _ => true
  | .tclr _ => true
  | .qfence _ => true
  | .settl c1 c2 c3 => c1 != c2 && c1 != c3 && c2 != c3
  | .mclaim => true
  | .mrel => true
  | .mzero _ => true
  | .mstageA _ _ pl => decide (1 ≤ pl.val) && decide (pl.val ≤ 16)
  | .mstageB _ _ pl => decide (1 ≤ pl.val) && decide (pl.val ≤ 16)
  | .mma _ _ _ => true
  | .mldt _ _ _ => true
  | .mstt _ _ => true
  | .mtov _ _ _ => true
  | .fenceSv _ => true
  | .fenceVs _ => true
  | .fenceVv _ => true
  | .fenceAll _ => true
  | .gbar => true
  | .waitmEq _ _ => true
  | .waitmNe _ _ => true
  | .yield => true
  | .vrel => true
  | .hexit => true
  | .glaunch _ _ _ => true
  | .trap _ => true
  | .brk _ => true
  | .hcall _ => true
  | .eret => true
  | .sgetc _ _ => true
  | .ssetc _ _ => true
  | .ktlbiVa _ _ => true
  | .ktlbiPart _ => true
  | .ktlbiAll => true
  | .viqCommit _ => true
  | .vfetchPass _ => true
  | .matrixQueuePerform _ => true
  | .mclaimGrant _ => true
  | .vectorLoadDelivery _ _ => true
  | .engineCommandStart _ _ => true
  | .shuttleComplete _ => true
  | .photoFinishComplete _ => true
  | .seamComplete _ => true
  | .cacheOpComplete _ => true
  | .rsaddRenormalise _ => true
  | .dirtyLineWriteback _ _ => true
  | .queueDeadlockTrap _ => true
  | .gbarComplete _ _ => true
  | .waitmWake _ => true
  | .waitmTimeout _ => true
  | .hartRetire _ => true
  | .launchPacketWrite _ _ _ _ _ => true
  | .qcfgWrite _ _ _ _ => true
  | .pquantWrite _ _ _ => true
  | .headPacketCheck _ _ => true
  | .headWaitRecheck _ _ => true
  | .starterRound _ => true
  | .preemptionStart _ _ => true
  | .preemptDeadlineExpiry _ _ _ => true
  | .saveComplete _ => true
  | .hartResume _ => true
  | .gforcePreempt _ _ _ => true
  | .gforceEnd _ _ _ => true
  | .tlbinvPage _ _ _ => true
  | .tlbinvPartition _ _ _ => true
  | .tlbinvComplete _ => true
  | .replayRetry _ _ _ => true
  | .replayDecline _ _ _ => true
  | .fqptrWrite _ _ _ => true
  | .priResponse _ _ _ => true
  | .hostDeviceWrite _ _ _ => true
  | .hostDeviceRead _ _ _ => true
  | .hostAtomicop _ _ => true
  | .peerRequest _ _ => true
  | .errorDetected _ => true
  | .recoveryComplete _ _ => true
  | .fatalError _ _ => true
  | .dumpComplete => true
  | .thermalTrip => true
  | .thermalThrottle _ => true
  | .plimitWrite _ _ => true
  | .pshapeWrite _ _ _ => true
  | .fqbaseWrite _ _ _ => true
  | .elbaseWrite _ _ => true
  | .telemetrySnapshot _ _ => true
  | .telemetrySnapshotDone => true
  | .attestationRequest _ _ => true
  | .attestationDone => true
  | .firmwareBoot _ _ => true
  | .vfFunctionLevelReset _ => true
  | .pfFunctionLevelReset => true
  | .registerWrite _ _ _ => true
  | .accessPerformed _ _ => true
  | .farCacheLineEviction _ _ => true
  | .powerCapThrottle _ => true
  | .powerLoss => true
  | .trappedHartResume _ _ _ => true

end Sys2Proof
end

