-- ==== Sys2Proof/Decode.lean ====
section
/-! DEFINITION. The decoder and, after it, the encoder: the forms of R149 to R165 and the opcode map of R163. Words are
read as numbers; every field is taken out here, once. -/
namespace Sys2Proof

/-- Why a word is no instruction (R166): no point of R163; a reserved field that is not 0; a field value that R147, R148
or a role does not allow; operands the instruction's entry does not allow; too few bytes. -/
inductive Reject where
  | noPoint | reserved | badField | illFormed | tooShort
deriving DecidableEq, Repr, Inhabited

/-! ### Codes -/

/-- The codes of R50. -/
def ElemType.code : ElemType → Nat
  | .i8 => 1 | .n8 => 2 | .i16 => 3 | .n16 => 4 | .i32 => 5 | .n32 => 6 | .i64 => 7 | .n64 => 8
  | .f16 => 9 | .bf16 => 10 | .f32 => 11 | .f64 => 12 | .qn4 => 13 | .idx16 => 14

/-- The type of a code (R50); 0 and 15 name none. -/
def ElemType.ofCode : Nat → Option ElemType
  | 1 => some .i8 | 2 => some .n8 | 3 => some .i16 | 4 => some .n16 | 5 => some .i32 | 6 => some .n32
  | 7 => some .i64 | 8 => some .n64 | 9 => some .f16 | 10 => some .bf16 | 11 => some .f32 | 12 => some .f64
  | 13 => some .qn4 | 14 => some .idx16 | _ => none

def FloatFmt.code : FloatFmt → Nat
  | .f16 => 9 | .bf16 => 10 | .f32 => 11 | .f64 => 12

def FloatFmt.ofCode : Nat → Option FloatFmt
  | 9 => some .f16 | 10 => some .bf16 | 11 => some .f32 | 12 => some .f64 | _ => none

/-- The scope codes of R148. -/
def Scope.code : Scope → Nat
  | .hart => 0 | .core => 1 | .die => 2 | .package => 3 | .system => 4

def Scope.ofCode : Nat → Option Scope
  | 0 => some .hart | 1 => some .core | 2 => some .die | 3 => some .package | 4 => some .system | _ => none

/-- ord and scope of a scalar memory word; scope is 0 when ord is 0 (R157). -/
def MemOrder.ordCode : MemOrder → Nat
  | .plain => 0 | .acq _ => 1 | .rel _ => 2 | .acqRel _ => 3

def MemOrder.scopeCode : MemOrder → Nat
  | .plain => 0 | .acq s => s.code | .rel s => s.code | .acqRel s => s.code

def MemOrder.ofCodes (ord scope : Nat) : Option MemOrder :=
  match ord with
  | 0 => if scope = 0 then some .plain else none
  | 1 => (Scope.ofCode scope).map .acq
  | 2 => (Scope.ofCode scope).map .rel
  | 3 => (Scope.ofCode scope).map .acqRel
  | _ => none

/-- The operation codes of VAMO (R244). -/
def VAmoOp.code : VAmoOp → Nat
  | .add => 0 | .swap => 1 | .min => 2 | .max => 3 | .and => 4 | .or => 5 | .xor => 6 | .minn => 7 | .maxn => 8

def VAmoOp.ofCode : Nat → Option VAmoOp
  | 0 => some .add | 1 => some .swap | 2 => some .min | 3 => some .max | 4 => some .and | 5 => some .or
  | 6 => some .xor | 7 => some .minn | 8 => some .maxn | _ => none

def TileType.code : TileType → Nat
  | .f32 => 1 | .i32 => 2

def TileType.ofCode : Nat → Option TileType
  | 1 => some .f32 | 2 => some .i32 | _ => none

/-- Mask selector codes: 0 none, 1 to 12 m0 to m11 (R148). -/
def selCode : MaskSel → Nat
  | none => 0
  | some m => m.val + 1

def VSrc.field : VSrc → Nat
  | .reg r _ => r.val | .lq q => q.val | .vf => 4

def VSrc.chainBit : VSrc → Nat
  | .reg _ true => 1 | _ => 0

def VSrc.qBit : VSrc → Nat
  | .reg _ _ => 0 | _ => 1

def VDst.field : VDst → Nat
  | .reg r => r.val | .sq q => q.val

def VDst.qBit : VDst → Nat
  | .reg _ => 0 | .sq _ => 1

/-! ### Fields of the forms -/

/-- The S form (R156). -/
structure SFields where
  d : Nat
  s1 : Nat
  s2 : Nat
  s3 : Nat
  minor : Nat
  imm : Nat
deriving DecidableEq, Repr

def SFields.ofWord (w : Nat) : SFields where
  d := w / 2 ^ 53 % 32
  s1 := w / 2 ^ 48 % 32
  s2 := w / 2 ^ 43 % 32
  s3 := w / 2 ^ 38 % 32
  minor := w / 2 ^ 32 % 64
  imm := w % 2 ^ 32

def SFields.toWord (f : SFields) (major minor : Nat) : Nat :=
  major * 2 ^ 58 + f.d * 2 ^ 53 + f.s1 * 2 ^ 48 + f.s2 * 2 ^ 43 + f.s3 * 2 ^ 38 + minor * 2 ^ 32 + f.imm

/-- The B form (R158). -/
structure BFields where
  d : Nat
  s1 : Nat
  s2 : Nat
  minor : Nat
  off : Nat
deriving DecidableEq, Repr

def BFields.ofWord (w : Nat) : BFields where
  d := w / 2 ^ 53 % 32
  s1 := w / 2 ^ 48 % 32
  s2 := w / 2 ^ 43 % 32
  minor := w / 2 ^ 39 % 16
  off := w % 2 ^ 39

def BFields.toWord (f : BFields) (major minor : Nat) : Nat :=
  major * 2 ^ 58 + f.d * 2 ^ 53 + f.s1 * 2 ^ 48 + f.s2 * 2 ^ 43 + minor * 2 ^ 39 + f.off

/-- The layout of LAP (R159). -/
structure LapFields where
  n : Nat
  ty : Nat
  pm : Nat
  p0 : Nat
  p1 : Nat
  p2 : Nat
  p3 : Nat
  off : Nat
deriving DecidableEq, Repr

def LapFields.ofWord (w : Nat) : LapFields where
  n := w / 2 ^ 53 % 32
  ty := w / 2 ^ 49 % 16
  pm := w / 2 ^ 45 % 16
  p0 := w / 2 ^ 38 % 128
  p1 := w / 2 ^ 31 % 128
  p2 := w / 2 ^ 24 % 128
  p3 := w / 2 ^ 17 % 128
  off := w % 2 ^ 17

def LapFields.toWord (f : LapFields) : Nat :=
  9 * 2 ^ 58 + f.n * 2 ^ 53 + f.ty * 2 ^ 49 + f.pm * 2 ^ 45 + f.p0 * 2 ^ 38 + f.p1 * 2 ^ 31 + f.p2 * 2 ^ 24
    + f.p3 * 2 ^ 17 + f.off

/-- The V form (R149). -/
structure VFields where
  c : Nat
  d : Nat
  s1 : Nat
  h1 : Nat
  s2 : Nat
  h2 : Nat
  s3 : Nat
  h3 : Nat
  mask : Nat
  z : Nat
  minor : Nat
  q : Nat
  imm : Nat
deriving DecidableEq, Repr

def VFields.ofWord (w : Nat) : VFields where
  c := w / 2 ^ 57 % 2
  d := w / 2 ^ 52 % 32
  s1 := w / 2 ^ 47 % 32
  h1 := w / 2 ^ 46 % 2
  s2 := w / 2 ^ 41 % 32
  h2 := w / 2 ^ 40 % 2
  s3 := w / 2 ^ 35 % 32
  h3 := w / 2 ^ 34 % 2
  mask := w / 2 ^ 30 % 16
  z := w / 2 ^ 29 % 2
  minor := w / 2 ^ 20 % 512
  q := w / 2 ^ 16 % 16
  imm := w % 2 ^ 16

def VFields.toWord (f : VFields) (major minor : Nat) : Nat :=
  major * 2 ^ 58 + f.c * 2 ^ 57 + f.d * 2 ^ 52 + f.s1 * 2 ^ 47 + f.h1 * 2 ^ 46 + f.s2 * 2 ^ 41 + f.h2 * 2 ^ 40
    + f.s3 * 2 ^ 35 + f.h3 * 2 ^ 34 + f.mask * 2 ^ 30 + f.z * 2 ^ 29 + minor * 2 ^ 20 + f.q * 2 ^ 16 + f.imm

/-- The E form (R160). -/
structure EFields where
  tag : Nat
  e1 : Nat
  e2 : Nat
  e3 : Nat
  e4 : Nat
  e5 : Nat
  e6 : Nat
  e7 : Nat
  e8 : Nat
  minor : Nat
  sw : Nat
  rest : Nat
deriving DecidableEq, Repr

def EFields.ofWord (w : Nat) : EFields where
  tag := w / 2 ^ 52 % 64
  e1 := w / 2 ^ 47 % 32
  e2 := w / 2 ^ 42 % 32
  e3 := w / 2 ^ 37 % 32
  e4 := w / 2 ^ 32 % 32
  e5 := w / 2 ^ 27 % 32
  e6 := w / 2 ^ 22 % 32
  e7 := w / 2 ^ 17 % 32
  e8 := w / 2 ^ 12 % 32
  minor := w / 2 ^ 8 % 16
  sw := w / 2 ^ 7 % 2
  rest := w % 128

def EFields.toWord (f : EFields) (major minor : Nat) : Nat :=
  major * 2 ^ 58 + f.tag * 2 ^ 52 + f.e1 * 2 ^ 47 + f.e2 * 2 ^ 42 + f.e3 * 2 ^ 37 + f.e4 * 2 ^ 32 + f.e5 * 2 ^ 27
    + f.e6 * 2 ^ 22 + f.e7 * 2 ^ 17 + f.e8 * 2 ^ 12 + minor * 2 ^ 8 + f.sw * 2 ^ 7 + f.rest

/-- The M form (R161). -/
structure MFields where
  c1 : Nat
  c2 : Nat
  c3 : Nat
  v : Nat
  t : Nat
  minor : Nat
  p : Nat
  tt : Nat
  rest : Nat
deriving DecidableEq, Repr

def MFields.ofWord (w : Nat) : MFields where
  c1 := w / 2 ^ 53 % 32
  c2 := w / 2 ^ 48 % 32
  c3 := w / 2 ^ 43 % 32
  v := w / 2 ^ 38 % 32
  t := w / 2 ^ 35 % 8
  minor := w / 2 ^ 31 % 16
  p := w / 2 ^ 26 % 32
  tt := w / 2 ^ 24 % 4
  rest := w % 2 ^ 24

def MFields.toWord (f : MFields) (major minor : Nat) : Nat :=
  major * 2 ^ 58 + f.c1 * 2 ^ 53 + f.c2 * 2 ^ 48 + f.c3 * 2 ^ 43 + f.v * 2 ^ 38 + f.t * 2 ^ 35 + minor * 2 ^ 31
    + f.p * 2 ^ 26 + f.tt * 2 ^ 24 + f.rest

/-- The Y form (R162). -/
structure YFields where
  d : Nat
  s1 : Nat
  s2 : Nat
  minor : Nat
  scope : Nat
  rest : Nat
  num : Nat
  imm : Nat
deriving DecidableEq, Repr

def YFields.ofWord (w : Nat) : YFields where
  d := w / 2 ^ 53 % 32
  s1 := w / 2 ^ 48 % 32
  s2 := w / 2 ^ 43 % 32
  minor := w / 2 ^ 38 % 32
  scope := w / 2 ^ 35 % 8
  rest := w / 2 ^ 32 % 8
  num := w / 2 ^ 20 % 4096
  imm := w % 2 ^ 20

def YFields.toWord (f : YFields) (major minor : Nat) : Nat :=
  major * 2 ^ 58 + f.d * 2 ^ 53 + f.s1 * 2 ^ 48 + f.s2 * 2 ^ 43 + minor * 2 ^ 38 + f.scope * 2 ^ 35 + f.rest * 2 ^ 32
    + f.num * 2 ^ 20 + f.imm

/-! ### Reading fields -/

/-- A reserved field holds 0 (R166). -/
def reserved0 (n : Nat) : Except Reject Unit := if n = 0 then .ok () else .error .reserved

/-- A field value in a role's range (R147). -/
def finOf (k n : Nat) : Except Reject (Fin k) := if h : n < k then .ok ⟨n, h⟩ else .error .badField

/-- A code that names something (R148). -/
def named {α : Type} (o : Option α) : Except Reject α :=
  match o with
  | some a => .ok a
  | none => .error .badField

/-- A mask selector (R148). -/
def selOf (n : Nat) : Except Reject MaskSel :=
  if n = 0 then .ok none else (finOf 12 (n - 1)).map some

/-- A source field of role v with its chain and Q bits (R150, R152). -/
def vsrcOf (field h q : Nat) : Except Reject VSrc :=
  if q = 0 then (finOf 32 field).map (fun r => .reg r (h == 1))
  else if h = 0 then
    if field = 4 then .ok .vf else (finOf 4 field).map .lq
  else .error .reserved

/-- A destination field of role v with its Q bit (R150). -/
def vdstOf (field q : Nat) : Except Reject VDst :=
  if q = 0 then (finOf 32 field).map .reg else (finOf 2 field).map .sq

/-- C, mask selector and z (R149). -/
def predOf (f : VFields) : Except Reject Pred := do
  let s ← selOf f.mask
  .ok ⟨f.c == 1, s, f.z == 1⟩

/-- Q[16] for s1, Q[17] for s2, Q[18] for s3, Q[19] for d (R149). -/
def VFields.q1 (f : VFields) : Nat := f.q % 2
def VFields.q2 (f : VFields) : Nat := f.q / 2 % 2
def VFields.q3 (f : VFields) : Nat := f.q / 4 % 2
def VFields.qd (f : VFields) : Nat := f.q / 8 % 2

def VFields.dst (f : VFields) : Except Reject VDst := vdstOf f.d f.qd
def VFields.src1 (f : VFields) : Except Reject VSrc := vsrcOf f.s1 f.h1 f.q1
def VFields.src2 (f : VFields) : Except Reject VSrc := vsrcOf f.s2 f.h2 f.q2
def VFields.src3 (f : VFields) : Except Reject VSrc := vsrcOf f.s3 f.h3 f.q3

/-- A d, s1, s2 or s3 field of a role other than v: its chain and Q bits are 0 (R150, R152). -/
def VFields.plainD (k : Nat) (f : VFields) : Except Reject (Fin k) := do reserved0 f.qd; finOf k f.d
def VFields.plain1 (k : Nat) (f : VFields) : Except Reject (Fin k) := do reserved0 (f.h1 + f.q1); finOf k f.s1
def VFields.plain2 (k : Nat) (f : VFields) : Except Reject (Fin k) := do reserved0 (f.h2 + f.q2); finOf k f.s2
def VFields.plain3 (k : Nat) (f : VFields) : Except Reject (Fin k) := do reserved0 (f.h3 + f.q3); finOf k f.s3

/-- A field of role none (R147). -/
def VFields.noD (f : VFields) : Except Reject Unit := reserved0 (f.d + f.qd)
def VFields.no1 (f : VFields) : Except Reject Unit := reserved0 (f.s1 + f.h1 + f.q1)
def VFields.no2 (f : VFields) : Except Reject Unit := reserved0 (f.s2 + f.h2 + f.q2)
def VFields.no3 (f : VFields) : Except Reject Unit := reserved0 (f.s3 + f.h3 + f.q3)
def VFields.noSel (f : VFields) : Except Reject Unit := reserved0 (f.mask + f.z)
def VFields.noImm (f : VFields) : Except Reject Unit := reserved0 f.imm

def bit (b : Bool) : Nat := if b then 1 else 0

/-- The fields of a V word from its parts. -/
def mkV (p : Pred) (d qd s1 h1 q1 s2 h2 q2 s3 h3 q3 imm : Nat) : VFields where
  c := bit p.joined
  d := d
  s1 := s1
  h1 := h1
  s2 := s2
  h2 := h2
  s3 := s3
  h3 := h3
  mask := selCode p.sel
  z := bit p.z
  minor := 0
  q := q1 + 2 * q2 + 4 * q3 + 8 * qd
  imm := imm

def justC (j : Bool) : Pred := ⟨j, none, false⟩

/-! ### S form shapes -/

def decRRR (k : Reg → Reg → Reg → Instr) (f : SFields) : Except Reject Instr := do
  reserved0 f.s3; reserved0 f.imm
  .ok (k (← finOf 32 f.d) (← finOf 32 f.s1) (← finOf 32 f.s2))
def encRRR (d s1 s2 : Reg) : SFields := ⟨d, s1, s2, 0, 0, 0⟩

def decRRRR (k : Reg → Reg → Reg → Reg → Instr) (f : SFields) : Except Reject Instr := do
  reserved0 f.imm
  .ok (k (← finOf 32 f.d) (← finOf 32 f.s1) (← finOf 32 f.s2) (← finOf 32 f.s3))
def encRRRR (d s1 s2 s3 : Reg) : SFields := ⟨d, s1, s2, s3, 0, 0⟩

def decRR (k : Reg → Reg → Instr) (f : SFields) : Except Reject Instr := do
  reserved0 f.s2; reserved0 f.s3; reserved0 f.imm
  .ok (k (← finOf 32 f.d) (← finOf 32 f.s1))
def encRR (d s1 : Reg) : SFields := ⟨d, s1, 0, 0, 0, 0⟩

def decRRI (k : Reg → Reg → BitVec 32 → Instr) (f : SFields) : Except Reject Instr := do
  reserved0 f.s2; reserved0 f.s3
  .ok (k (← finOf 32 f.d) (← finOf 32 f.s1) (BitVec.ofNat 32 f.imm))
def encRRI (d s1 : Reg) (imm : BitVec 32) : SFields := ⟨d, s1, 0, 0, 0, imm.toNat⟩

def decRRSH (k : Reg → Reg → Fin 64 → Instr) (f : SFields) : Except Reject Instr := do
  reserved0 f.s2; reserved0 f.s3
  .ok (k (← finOf 32 f.d) (← finOf 32 f.s1) (← finOf 64 f.imm))
def encRRSH (d s1 : Reg) (sh : Fin 64) : SFields := ⟨d, s1, 0, 0, 0, sh⟩

def decRI (k : Reg → BitVec 32 → Instr) (f : SFields) : Except Reject Instr := do
  reserved0 f.s1; reserved0 f.s2; reserved0 f.s3
  .ok (k (← finOf 32 f.d) (BitVec.ofNat 32 f.imm))
def encRI (d : Reg) (imm : BitVec 32) : SFields := ⟨d, 0, 0, 0, 0, imm.toNat⟩

/-- Three registers and a format (R156). `FSQRT` names no second source in R174 while R156's row lists s2: any s2 is taken, and its
value has no effect (log 68). -/
def decF3 (k : Reg → Reg → Reg → FloatFmt → Instr) (f : SFields) : Except Reject Instr := do
  reserved0 f.s3
  .ok (k (← finOf 32 f.d) (← finOf 32 f.s1) (← finOf 32 f.s2) (← named (FloatFmt.ofCode f.imm)))
def encF3 (d s1 s2 : Reg) (f : FloatFmt) : SFields := ⟨d, s1, s2, 0, 0, f.code⟩

def decF4 (k : Reg → Reg → Reg → Reg → FloatFmt → Instr) (f : SFields) : Except Reject Instr := do
  .ok (k (← finOf 32 f.d) (← finOf 32 f.s1) (← finOf 32 f.s2) (← finOf 32 f.s3) (← named (FloatFmt.ofCode f.imm)))
def encF4 (d s1 s2 s3 : Reg) (f : FloatFmt) : SFields := ⟨d, s1, s2, s3, 0, f.code⟩

/-- `FCVT` (R156, R175). R175 names no second source while R156's row lists s2: any s2 is taken, and its value has no effect
(log 68). -/
def decFCVT (k : Reg → Reg → Reg → ElemType → ElemType → Instr) (f : SFields) : Except Reject Instr := do
  reserved0 f.s3; reserved0 (f.imm / 256)
  .ok (k (← finOf 32 f.d) (← finOf 32 f.s1) (← finOf 32 f.s2) (← named (ElemType.ofCode (f.imm % 16)))
    (← named (ElemType.ofCode (f.imm / 16 % 16))))
def encFCVT (d s1 s2 : Reg) (dst src : ElemType) : SFields := ⟨d, s1, s2, 0, 0, dst.code + 16 * src.code⟩

def decGETC (k : Reg → Fin 4096 → Instr) (f : SFields) : Except Reject Instr := do
  reserved0 f.s1; reserved0 f.s2; reserved0 f.s3
  .ok (k (← finOf 32 f.d) (← finOf 4096 f.imm))
def encGETC (d : Reg) (num : Fin 4096) : SFields := ⟨d, 0, 0, 0, 0, num⟩

def decSETC (k : Fin 4096 → Reg → Instr) (f : SFields) : Except Reject Instr := do
  reserved0 f.d; reserved0 f.s2; reserved0 f.s3
  .ok (k (← finOf 4096 f.imm) (← finOf 32 f.s1))
def encSETC (num : Fin 4096) (s1 : Reg) : SFields := ⟨0, s1, 0, 0, 0, num⟩

def decNONE_S (k : Instr) (f : SFields) : Except Reject Instr := do
  reserved0 f.d; reserved0 f.s1; reserved0 f.s2; reserved0 f.s3; reserved0 f.imm
  .ok k
def encNONE_S : SFields := ⟨0, 0, 0, 0, 0, 0⟩

def decSETVL (k : Reg → Reg → ElemType → Instr) (f : SFields) : Except Reject Instr := do
  reserved0 f.s2; reserved0 f.s3
  .ok (k (← finOf 32 f.d) (← finOf 32 f.s1) (← named (ElemType.ofCode f.imm)))
def encSETVL (d s1 : Reg) (ty : ElemType) : SFields := ⟨d, s1, 0, 0, 0, ty.code⟩

def decSETVLM (k : Reg → MaskReg → Instr) (f : SFields) : Except Reject Instr := do
  reserved0 f.s2; reserved0 f.s3; reserved0 f.imm
  .ok (k (← finOf 32 f.d) (← finOf 12 f.s1))
def encSETVLM (d : Reg) (m : MaskReg) : SFields := ⟨d, m, 0, 0, 0, 0⟩

/-- imm32[0] names the queue: 0 qa, 1 qc (R156). -/
def queueOf (n : Nat) : Except Reject ScalarQueue :=
  match n with
  | 0 => .ok .qa
  | 1 => .ok .qc
  | _ => .error .reserved
def ScalarQueue.code : ScalarQueue → Nat
  | .qa => 0 | .qc => 1

def decQPUSH (k : ScalarQueue → Reg → Instr) (f : SFields) : Except Reject Instr := do
  reserved0 f.d; reserved0 f.s2; reserved0 f.s3
  .ok (k (← queueOf f.imm) (← finOf 32 f.s1))
def encQPUSH (q : ScalarQueue) (s1 : Reg) : SFields := ⟨0, s1, 0, 0, 0, q.code⟩

def decQPOP (k : Reg → ScalarQueue → Instr) (f : SFields) : Except Reject Instr := do
  reserved0 f.s1; reserved0 f.s2; reserved0 f.s3
  .ok (k (← finOf 32 f.d) (← queueOf f.imm))
def encQPOP (d : Reg) (q : ScalarQueue) : SFields := ⟨d, 0, 0, 0, 0, q.code⟩

/-! ### Scalar memory (R157) -/

/-- s3 holds scope in its high three bits and ord in its low two (R157). -/
def orderOf (f : SFields) : Except Reject MemOrder := named (MemOrder.ofCodes (f.s3 % 4) (f.s3 / 4))
def MemOrder.s3 (o : MemOrder) : Nat := o.ordCode + 4 * o.scopeCode

def decLD (k : Reg → Reg → MemOrder → BitVec 32 → Instr) (f : SFields) : Except Reject Instr := do
  reserved0 f.s2
  .ok (k (← finOf 32 f.d) (← finOf 32 f.s1) (← orderOf f) (BitVec.ofNat 32 f.imm))
def encLD (d s1 : Reg) (ord : MemOrder) (off : BitVec 32) : SFields := ⟨d, s1, 0, ord.s3, 0, off.toNat⟩

def decST (k : Reg → Reg → MemOrder → BitVec 32 → Instr) (f : SFields) : Except Reject Instr := decLD k f
def encST (d s1 : Reg) (ord : MemOrder) (off : BitVec 32) : SFields := encLD d s1 ord off

def decAMO (k : Reg → Reg → Reg → MemOrder → BitVec 32 → Instr) (f : SFields) : Except Reject Instr := do
  .ok (k (← finOf 32 f.d) (← finOf 32 f.s1) (← finOf 32 f.s2) (← orderOf f) (BitVec.ofNat 32 f.imm))
def encAMO (d s1 s2 : Reg) (ord : MemOrder) (off : BitVec 32) : SFields := ⟨d, s1, s2, ord.s3, 0, off.toNat⟩

/-! ### B form shapes (R158) and LAP (R159) -/

def decBR (k : Reg → Reg → BitVec 39 → Instr) (f : BFields) : Except Reject Instr := do
  reserved0 f.d
  .ok (k (← finOf 32 f.s1) (← finOf 32 f.s2) (BitVec.ofNat 39 f.off))
def encBR (s1 s2 : Reg) (off : BitVec 39) : BFields := ⟨0, s1, s2, 0, off.toNat⟩

def decJAL (k : Reg → BitVec 39 → Instr) (f : BFields) : Except Reject Instr := do
  reserved0 f.s1; reserved0 f.s2
  .ok (k (← finOf 32 f.d) (BitVec.ofNat 39 f.off))
def encJAL (d : Reg) (off : BitVec 39) : BFields := ⟨d, 0, 0, 0, off.toNat⟩

def decJALR (k : Reg → Reg → BitVec 39 → Instr) (f : BFields) : Except Reject Instr := do
  reserved0 f.s2
  .ok (k (← finOf 32 f.d) (← finOf 32 f.s1) (BitVec.ofNat 39 f.off))
def encJALR (d s1 : Reg) (off : BitVec 39) : BFields := ⟨d, s1, 0, 0, off.toNat⟩

def decBMSK (k : MaskReg → BitVec 39 → Instr) (f : BFields) : Except Reject Instr := do
  reserved0 f.d; reserved0 f.s2
  .ok (k (← finOf 12 f.s1) (BitVec.ofNat 39 f.off))
def encBMSK (m : MaskReg) (off : BitVec 39) : BFields := ⟨0, m, 0, 0, off.toNat⟩

def decFETCH (k : MaskSel → BitVec 39 → Instr) (f : BFields) : Except Reject Instr := do
  reserved0 f.d; reserved0 f.s2
  .ok (k (← selOf f.s1) (BitVec.ofNat 39 f.off))
def encFETCH (sel : MaskSel) (off : BitVec 39) : BFields := ⟨0, selCode sel, 0, 0, off.toNat⟩

def decTSTOP (k : MaskSel → Instr) (f : BFields) : Except Reject Instr := do
  reserved0 f.d; reserved0 f.s2; reserved0 f.off
  .ok (k (← selOf f.s1))
def encTSTOP (sel : MaskSel) : BFields := ⟨0, selCode sel, 0, 0, 0⟩

def decVLOOP (k : Fin 32 → Instr) (f : BFields) : Except Reject Instr := do
  reserved0 f.s1; reserved0 f.s2; reserved0 f.off
  .ok (k (← finOf 32 f.d))
def encVLOOP (n : Fin 32) : BFields := ⟨n, 0, 0, 0, 0⟩

def decVLOOPS (k : Fin 32 → Reg → Fin 32 → Instr) (f : BFields) : Except Reject Instr := do
  reserved0 f.off
  .ok (k (← finOf 32 f.d) (← finOf 32 f.s1) (← finOf 32 f.s2))
def encVLOOPS (n : Fin 32) (trip : Reg) (stages : Fin 32) : BFields := ⟨n, trip, stages, 0, 0⟩

/-- A pointer slot: register in bits 6 to 2, size code in bits 1 and 0; 0 when its pm bit is clear (R159). -/
def slotOf (pm n : Nat) : Except Reject (Option LapPtr) := do
  if pm % 2 = 1 then
    let r ← finOf 32 (n / 4)
    let s ← finOf 4 (n % 4)
    .ok (some ⟨r, s⟩)
  else
    reserved0 n
    .ok none
def slotCode : Option LapPtr → Nat
  | none => 0
  | some p => 4 * p.reg.val + p.size.val

def decLAP (f : LapFields) : Except Reject Instr := do
  .ok (.lap (← finOf 32 f.n) (← named (ElemType.ofCode f.ty)) (← slotOf f.pm f.p0) (← slotOf (f.pm / 2) f.p1)
    (← slotOf (f.pm / 4) f.p2) (← slotOf (f.pm / 8) f.p3) (BitVec.ofNat 17 f.off))
def encLAP (n : Reg) (ty : ElemType) (p0 p1 p2 p3 : Option LapPtr) (off : BitVec 17) : LapFields :=
  ⟨n, ty.code, bit p0.isSome + 2 * bit p1.isSome + 4 * bit p2.isSome + 8 * bit p3.isSome, slotCode p0, slotCode p1,
    slotCode p2, slotCode p3, off.toNat⟩

/-! ### V form shapes (R164) -/

def decV2 (k : Pred → VDst → VSrc → VSrc → Instr) (f : VFields) : Except Reject Instr := do
  f.no3; f.noImm
  .ok (k (← predOf f) (← f.dst) (← f.src1) (← f.src2))
def encV2 (p : Pred) (d : VDst) (s1 s2 : VSrc) : VFields :=
  mkV p d.field d.qBit s1.field s1.chainBit s1.qBit s2.field s2.chainBit s2.qBit 0 0 0 0

def decVSEL (k : Pred → VDst → VSrc → VSrc → Instr) (f : VFields) : Except Reject Instr := decV2 k f
def encVSEL (p : Pred) (d : VDst) (s1 s2 : VSrc) : VFields := encV2 p d s1 s2

def decV3 (k : Pred → VDst → VSrc → VSrc → VSrc → Instr) (f : VFields) : Except Reject Instr := do
  f.noImm
  .ok (k (← predOf f) (← f.dst) (← f.src1) (← f.src2) (← f.src3))
def encV3 (p : Pred) (d : VDst) (s1 s2 s3 : VSrc) : VFields :=
  mkV p d.field d.qBit s1.field s1.chainBit s1.qBit s2.field s2.chainBit s2.qBit s3.field s3.chainBit s3.qBit 0

def decV1 (k : Pred → VDst → VSrc → Instr) (f : VFields) : Except Reject Instr := do
  f.no2; f.no3; f.noImm
  .ok (k (← predOf f) (← f.dst) (← f.src1))
def encV1 (p : Pred) (d : VDst) (s1 : VSrc) : VFields :=
  mkV p d.field d.qBit s1.field s1.chainBit s1.qBit 0 0 0 0 0 0 0

def decV1M (k : Pred → VDst → VSrc → Instr) (f : VFields) : Except Reject Instr := decV1 k f
def encV1M (p : Pred) (d : VDst) (s1 : VSrc) : VFields := encV1 p d s1

def decVCMP (k : Pred → MaskReg → VSrc → VSrc → Instr) (f : VFields) : Except Reject Instr := do
  f.no3; f.noImm
  .ok (k (← predOf f) (← f.plainD 12) (← f.src1) (← f.src2))
def encVCMP (p : Pred) (m : MaskReg) (s1 s2 : VSrc) : VFields :=
  mkV p m 0 s1.field s1.chainBit s1.qBit s2.field s2.chainBit s2.qBit 0 0 0 0

def decV2S (k : Pred → VDst → VSrc → Reg → Instr) (f : VFields) : Except Reject Instr := do
  f.no3; f.noImm
  .ok (k (← predOf f) (← f.dst) (← f.src1) (← f.plain2 32))
def encV2S (p : Pred) (d : VDst) (s1 : VSrc) (c : Reg) : VFields :=
  mkV p d.field d.qBit s1.field s1.chainBit s1.qBit c 0 0 0 0 0 0

def decVSELS (k : Pred → VDst → VSrc → Reg → Instr) (f : VFields) : Except Reject Instr := decV2S k f
def encVSELS (p : Pred) (d : VDst) (s1 : VSrc) (c : Reg) : VFields := encV2S p d s1 c

def decV3S (k : Pred → VDst → VSrc → Reg → VSrc → Instr) (f : VFields) : Except Reject Instr := do
  f.noImm
  .ok (k (← predOf f) (← f.dst) (← f.src1) (← f.plain2 32) (← f.src3))
def encV3S (p : Pred) (d : VDst) (s1 : VSrc) (c : Reg) (s3 : VSrc) : VFields :=
  mkV p d.field d.qBit s1.field s1.chainBit s1.qBit c 0 0 s3.field s3.chainBit s3.qBit 0

def decVCMPS (k : Pred → MaskReg → VSrc → Reg → Instr) (f : VFields) : Except Reject Instr := do
  f.no3; f.noImm
  .ok (k (← predOf f) (← f.plainD 12) (← f.src1) (← f.plain2 32))
def encVCMPS (p : Pred) (m : MaskReg) (s1 : VSrc) (c : Reg) : VFields :=
  mkV p m 0 s1.field s1.chainBit s1.qBit c 0 0 0 0 0 0

def decV2I (k : Pred → VDst → VSrc → BitVec 16 → Instr) (f : VFields) : Except Reject Instr := do
  f.no2; f.no3
  .ok (k (← predOf f) (← f.dst) (← f.src1) (BitVec.ofNat 16 f.imm))
def encV2I (p : Pred) (d : VDst) (s1 : VSrc) (imm : BitVec 16) : VFields :=
  mkV p d.field d.qBit s1.field s1.chainBit s1.qBit 0 0 0 0 0 0 imm.toNat

def decVCMPI (k : Pred → MaskReg → VSrc → BitVec 16 → Instr) (f : VFields) : Except Reject Instr := do
  f.no2; f.no3
  .ok (k (← predOf f) (← f.plainD 12) (← f.src1) (BitVec.ofNat 16 f.imm))
def encVCMPI (p : Pred) (m : MaskReg) (s1 : VSrc) (imm : BitVec 16) : VFields :=
  mkV p m 0 s1.field s1.chainBit s1.qBit 0 0 0 0 0 0 imm.toNat

def decVTAG (k : Bool → Reg → ElemType → Instr) (f : VFields) : Except Reject Instr := do
  f.no1; f.no2; f.no3; f.noSel
  .ok (k (f.c == 1) (← f.plainD 32) (← named (ElemType.ofCode f.imm)))
def encVTAG (j : Bool) (v : Reg) (ty : ElemType) : VFields := mkV (justC j) v 0 0 0 0 0 0 0 0 0 0 ty.code

def decVSPLAT (k : Pred → VDst → Reg → Instr) (f : VFields) : Except Reject Instr := do
  f.no2; f.no3; f.noImm
  .ok (k (← predOf f) (← f.dst) (← f.plain1 32))
def encVSPLAT (p : Pred) (d : VDst) (c : Reg) : VFields := mkV p d.field d.qBit c 0 0 0 0 0 0 0 0 0

def decVPUSH (k : Pred → Fin 2 → VSrc → Instr) (f : VFields) : Except Reject Instr := do
  f.no2; f.no3; f.noImm
  if f.qd = 1 then .ok (k (← predOf f) (← finOf 2 f.d) (← f.src1)) else .error .badField
def encVPUSH (p : Pred) (q : Fin 2) (s1 : VSrc) : VFields := mkV p q 1 s1.field s1.chainBit s1.qBit 0 0 0 0 0 0 0

def decVCVT (k : Pred → VDst → VSrc → ElemType → Instr) (f : VFields) : Except Reject Instr := do
  f.no2; f.no3
  .ok (k (← predOf f) (← f.dst) (← f.src1) (← named (ElemType.ofCode f.imm)))
def encVCVT (p : Pred) (d : VDst) (s1 : VSrc) (ty : ElemType) : VFields :=
  mkV p d.field d.qBit s1.field s1.chainBit s1.qBit 0 0 0 0 0 0 ty.code

def decVQCVT (k : Pred → VDst → VSrc → Reg → Reg → Fin 32 → Instr) (f : VFields) : Except Reject Instr := do
  .ok (k (← predOf f) (← f.dst) (← f.src1) (← f.plain2 32) (← f.plain3 32) (← finOf 32 f.imm))
def encVQCVT (p : Pred) (d : VDst) (s1 : VSrc) (c s3 : Reg) (k : Fin 32) : VFields :=
  mkV p d.field d.qBit s1.field s1.chainBit s1.qBit c 0 0 s3 0 0 k

def decVDQ (k : Pred → VDst → VSrc → Reg → VSrc → ElemType → Instr) (f : VFields) : Except Reject Instr := do
  .ok (k (← predOf f) (← f.dst) (← f.src1) (← f.plain2 32) (← f.src3) (← named (ElemType.ofCode f.imm)))
def encVDQ (p : Pred) (d : VDst) (s1 : VSrc) (c : Reg) (s3 : VSrc) (ty : ElemType) : VFields :=
  mkV p d.field d.qBit s1.field s1.chainBit s1.qBit c 0 0 s3.field s3.chainBit s3.qBit ty.code

def decVBFLY (k : Pred → VDst → VSrc → Fin 6 → Instr) (f : VFields) : Except Reject Instr := do
  f.no2; f.no3
  .ok (k (← predOf f) (← f.dst) (← f.src1) (← finOf 6 f.imm))
def encVBFLY (p : Pred) (d : VDst) (s1 : VSrc) (dist : Fin 6) : VFields :=
  mkV p d.field d.qBit s1.field s1.chainBit s1.qBit 0 0 0 0 0 0 dist

def decVBFLYF (k : Bool → VSrc → Fin 6 → Instr) (f : VFields) : Except Reject Instr := do
  f.noD; f.no2; f.no3; f.noSel
  .ok (k (f.c == 1) (← f.src1) (← finOf 6 f.imm))
def encVBFLYF (j : Bool) (s1 : VSrc) (dist : Fin 6) : VFields :=
  mkV (justC j) 0 0 s1.field s1.chainBit s1.qBit 0 0 0 0 0 0 dist

def decVRAND (k : Pred → VDst → Instr) (f : VFields) : Except Reject Instr := do
  f.no1; f.no2; f.no3; f.noImm
  .ok (k (← predOf f) (← f.dst))
def encVRAND (p : Pred) (d : VDst) : VFields := mkV p d.field d.qBit 0 0 0 0 0 0 0 0 0 0

def decVUTF8 (k : Bool → VDst → VSrc → Reg → Bool → Instr) (f : VFields) : Except Reject Instr := do
  f.no3; f.noImm; f.noSel; reserved0 f.q2
  .ok (k (f.c == 1) (← f.dst) (← f.src1) (← finOf 32 f.s2) (f.h2 == 1))
def encVUTF8 (j : Bool) (d : VDst) (s1 : VSrc) (s2 : Reg) (h2 : Bool) : VFields :=
  mkV (justC j) d.field d.qBit s1.field s1.chainBit s1.qBit s2 (bit h2) 0 0 0 0 0

def decMM (k : Bool → MaskReg → MaskReg → MaskReg → Instr) (f : VFields) : Except Reject Instr := do
  f.no3; f.noImm; f.noSel
  .ok (k (f.c == 1) (← f.plainD 12) (← f.plain1 12) (← f.plain2 12))
def encMM (j : Bool) (m a b : MaskReg) : VFields := mkV (justC j) m 0 a 0 0 b 0 0 0 0 0 0

def decMNOT (k : Bool → MaskReg → MaskReg → Instr) (f : VFields) : Except Reject Instr := do
  f.no2; f.no3; f.noImm; f.noSel
  .ok (k (f.c == 1) (← f.plainD 12) (← f.plain1 12))
def encMNOT (j : Bool) (m a : MaskReg) : VFields := mkV (justC j) m 0 a 0 0 0 0 0 0 0 0 0

def decMSET (k : Bool → MaskReg → Bool → Instr) (f : VFields) : Except Reject Instr := do
  f.no1; f.no2; f.no3; f.noSel; reserved0 (f.imm / 2)
  .ok (k (f.c == 1) (← f.plainD 12) (f.imm % 2 == 1))
def encMSET (j : Bool) (m : MaskReg) (b : Bool) : VFields := mkV (justC j) m 0 0 0 0 0 0 0 0 0 0 (bit b)

/-- The fill of a slide: kind in imm16[11:10], identity in [15:12], scalar in s3 (R164, R210). -/
def fillOf (f : VFields) : Except Reject Fill := do
  let s3 ← f.plain3 32
  match f.imm / 1024 % 4 with
  | 0 => do
    reserved0 (f.imm / 4096); reserved0 s3.val
    .ok .zero
  | 1 => do
    reserved0 s3.val
    .ok (.identity (← finOf 6 (f.imm / 4096)))
  | 2 => do
    reserved0 (f.imm / 4096)
    .ok (.scalar s3)
  | _ => .error .badField
def Fill.imm : Fill → Nat
  | .zero => 0
  | .identity c => 1024 + 4096 * c.val
  | .scalar _ => 2048
def Fill.s3 : Fill → Nat
  | .scalar r => r.val
  | _ => 0

def decSLIDE (k : Pred → VDst → VSrc → Reg → Fill → Instr) (f : VFields) : Except Reject Instr := do
  reserved0 (f.imm % 1024)
  .ok (k (← predOf f) (← f.dst) (← f.src1) (← f.plain2 32) (← fillOf f))
def encSLIDE (p : Pred) (d : VDst) (s1 : VSrc) (amt : Reg) (fill : Fill) : VFields :=
  mkV p d.field d.qBit s1.field s1.chainBit s1.qBit amt 0 0 fill.s3 0 0 fill.imm

def decSLIDEI (k : Pred → VDst → VSrc → Fin 1024 → Fill → Instr) (f : VFields) : Except Reject Instr := do
  f.no2
  .ok (k (← predOf f) (← f.dst) (← f.src1) (← finOf 1024 (f.imm % 1024)) (← fillOf f))
def encSLIDEI (p : Pred) (d : VDst) (s1 : VSrc) (amt : Fin 1024) (fill : Fill) : VFields :=
  mkV p d.field d.qBit s1.field s1.chainBit s1.qBit 0 0 0 fill.s3 0 0 (fill.imm + amt)

def decVIOTA (k : Pred → VDst → MaskReg → Instr) (f : VFields) : Except Reject Instr := do
  f.no2; f.no3; f.noImm
  .ok (k (← predOf f) (← f.dst) (← f.plain1 12))
def encVIOTA (p : Pred) (d : VDst) (m : MaskReg) : VFields := mkV p d.field d.qBit m 0 0 0 0 0 0 0 0 0

def decVEXTR (k : Bool → Reg → VSrc → Reg → Instr) (f : VFields) : Except Reject Instr := do
  f.no3; f.noImm; f.noSel
  .ok (k (f.c == 1) (← f.plainD 32) (← f.src1) (← f.plain2 32))
def encVEXTR (j : Bool) (d : Reg) (s1 : VSrc) (idx : Reg) : VFields :=
  mkV (justC j) d 0 s1.field s1.chainBit s1.qBit idx 0 0 0 0 0 0

def decVEXTRI (k : Bool → Reg → VSrc → BitVec 16 → Instr) (f : VFields) : Except Reject Instr := do
  f.no2; f.no3; f.noSel
  .ok (k (f.c == 1) (← f.plainD 32) (← f.src1) (BitVec.ofNat 16 f.imm))
def encVEXTRI (j : Bool) (d : Reg) (s1 : VSrc) (idx : BitVec 16) : VFields :=
  mkV (justC j) d 0 s1.field s1.chainBit s1.qBit 0 0 0 0 0 0 idx.toNat

def decVINS (k : Bool → VDst → Reg → Reg → Instr) (f : VFields) : Except Reject Instr := do
  f.no3; f.noImm; f.noSel
  .ok (k (f.c == 1) (← f.dst) (← f.plain1 32) (← f.plain2 32))
def encVINS (j : Bool) (d : VDst) (c idx : Reg) : VFields := mkV (justC j) d.field d.qBit c 0 0 idx 0 0 0 0 0 0

def decVINSI (k : Bool → VDst → Reg → BitVec 16 → Instr) (f : VFields) : Except Reject Instr := do
  f.no2; f.no3; f.noSel
  .ok (k (f.c == 1) (← f.dst) (← f.plain1 32) (BitVec.ofNat 16 f.imm))
def encVINSI (j : Bool) (d : VDst) (c : Reg) (idx : BitVec 16) : VFields :=
  mkV (justC j) d.field d.qBit c 0 0 0 0 0 0 0 0 idx.toNat

def decVRED (k : Bool → MaskSel → Reg → VSrc → Reg → Instr) (f : VFields) : Except Reject Instr := do
  f.no3; f.noImm; reserved0 f.z
  .ok (k (f.c == 1) (← selOf f.mask) (← f.plainD 32) (← f.src1) (← f.plain2 32))
def encVRED (j : Bool) (sel : MaskSel) (d : Reg) (s1 : VSrc) (acc : Reg) : VFields :=
  mkV ⟨j, sel, false⟩ d 0 s1.field s1.chainBit s1.qBit acc 0 0 0 0 0 0

def decVSCAN (k : Pred → VDst → VSrc → Reg → Reg → Instr) (f : VFields) : Except Reject Instr := do
  f.noImm
  .ok (k (← predOf f) (← f.dst) (← f.src1) (← f.plain2 32) (← f.plain3 32))
def encVSCAN (p : Pred) (d : VDst) (s1 : VSrc) (cin cout : Reg) : VFields :=
  mkV p d.field d.qBit s1.field s1.chainBit s1.qBit cin 0 0 cout 0 0 0

def decVARG (k : Bool → MaskSel → Reg → VSrc → Instr) (f : VFields) : Except Reject Instr := do
  f.no2; f.no3; f.noImm; reserved0 f.z
  .ok (k (f.c == 1) (← selOf f.mask) (← f.plainD 32) (← f.src1))
def encVARG (j : Bool) (sel : MaskSel) (d : Reg) (s1 : VSrc) : VFields :=
  mkV ⟨j, sel, false⟩ d 0 s1.field s1.chainBit s1.qBit 0 0 0 0 0 0 0

def decMCNT (k : Bool → MaskSel → Reg → MaskReg → Instr) (f : VFields) : Except Reject Instr := do
  f.no2; f.no3; f.noImm; reserved0 f.z
  .ok (k (f.c == 1) (← selOf f.mask) (← f.plainD 32) (← f.plain1 12))
def encMCNT (j : Bool) (sel : MaskSel) (d : Reg) (m : MaskReg) : VFields :=
  mkV ⟨j, sel, false⟩ d 0 m 0 0 0 0 0 0 0 0 0

def decKSET (k : Pred → TopoReg → VSrc → Instr) (f : VFields) : Except Reject Instr := do
  f.no2; f.no3; f.noImm
  .ok (k (← predOf f) (← f.plainD 8) (← f.src1))
def encKSET (p : Pred) (k : TopoReg) (s1 : VSrc) : VFields :=
  mkV p k 0 s1.field s1.chainBit s1.qBit 0 0 0 0 0 0 0

def decKGET (k : Pred → VDst → TopoReg → Instr) (f : VFields) : Except Reject Instr := do
  f.no2; f.no3; f.noImm
  .ok (k (← predOf f) (← f.dst) (← f.plain1 8))
def encKGET (p : Pred) (d : VDst) (k : TopoReg) : VFields := mkV p d.field d.qBit k 0 0 0 0 0 0 0 0 0

/-- The forest masks field: enables in bits 0 and 1, numbers in [7:4] and [11:8], the rest 0 (R164). -/
def fmaskOf (en n : Nat) : Except Reject MaskSel := do
  if en % 2 = 1 then (finOf 12 n).map some
  else
    reserved0 n
    .ok none
def forestOf (f : VFields) : Except Reject ForestMasks := do
  reserved0 (f.imm / 4 % 4); reserved0 (f.imm / 4096)
  .ok ⟨← fmaskOf f.imm (f.imm / 16 % 16), ← fmaskOf (f.imm / 2) (f.imm / 256 % 16)⟩
def fmaskNum : MaskSel → Nat
  | none => 0
  | some m => m.val
def ForestMasks.imm (fm : ForestMasks) : Nat :=
  bit fm.cyc.isSome + 2 * bit fm.cut.isSome + 16 * fmaskNum fm.cyc + 256 * fmaskNum fm.cut

def decKVAL (k : Pred → VDst → VSrc → TopoReg → ForestMasks → Instr) (f : VFields) : Except Reject Instr := do
  f.no3
  .ok (k (← predOf f) (← f.dst) (← f.src1) (← f.plain2 8) (← forestOf f))
def encKVAL (p : Pred) (d : VDst) (s1 : VSrc) (k : TopoReg) (fm : ForestMasks) : VFields :=
  mkV p d.field d.qBit s1.field s1.chainBit s1.qBit k 0 0 0 0 0 fm.imm

def decKLNK (k : Pred → VDst → TopoReg → ForestMasks → Instr) (f : VFields) : Except Reject Instr := do
  f.no1; f.no3
  .ok (k (← predOf f) (← f.dst) (← f.plain2 8) (← forestOf f))
def encKLNK (p : Pred) (d : VDst) (k : TopoReg) (fm : ForestMasks) : VFields :=
  mkV p d.field d.qBit 0 0 0 k 0 0 0 0 0 fm.imm

def decKANC (k : Pred → VDst → Reg → TopoReg → ForestMasks → Instr) (f : VFields) : Except Reject Instr := do
  f.no3
  .ok (k (← predOf f) (← f.dst) (← f.plain1 32) (← f.plain2 8) (← forestOf f))
def encKANC (p : Pred) (d : VDst) (c : Reg) (k : TopoReg) (fm : ForestMasks) : VFields :=
  mkV p d.field d.qBit c 0 0 k 0 0 0 0 0 fm.imm

def decKANCIS (k : Pred → MaskReg → VSrc → TopoReg → ForestMasks → Instr) (f : VFields) : Except Reject Instr := do
  f.no3
  .ok (k (← predOf f) (← f.plainD 12) (← f.src1) (← f.plain2 8) (← forestOf f))
def encKANCIS (p : Pred) (m : MaskReg) (s1 : VSrc) (k : TopoReg) (fm : ForestMasks) : VFields :=
  mkV p m 0 s1.field s1.chainBit s1.qBit k 0 0 0 0 0 fm.imm

def decKCON (k : Pred → TopoReg → TopoReg → ForestMasks → Instr) (f : VFields) : Except Reject Instr := do
  f.no1; f.no3
  .ok (k (← predOf f) (← f.plainD 8) (← f.plain2 8) (← forestOf f))
def encKCON (p : Pred) (kd k : TopoReg) (fm : ForestMasks) : VFields := mkV p kd 0 0 0 0 k 0 0 0 0 0 fm.imm

def decKCHK (k : Pred → MaskReg → TopoReg → Instr) (f : VFields) : Except Reject Instr := do
  f.no1; f.no3; f.noImm
  .ok (k (← predOf f) (← f.plainD 12) (← f.plain2 8))
def encKCHK (p : Pred) (m : MaskReg) (k : TopoReg) : VFields := mkV p m 0 0 0 0 k 0 0 0 0 0 0

/-! ### Pacer vector memory shapes (R165): C, chain bits, z and Q are 0 (R149) -/

def VFields.pacer (f : VFields) : Except Reject MaskSel := do
  reserved0 (f.c + f.h1 + f.h2 + f.h3 + f.z + f.q)
  selOf f.mask

def mkP (sel : MaskSel) (d s1 s2 s3 imm : Nat) : VFields := mkV ⟨false, sel, false⟩ d 0 s1 0 0 s2 0 0 s3 0 0 imm

def decVLD (k : MaskSel → Fin 4 → Reg → BitVec 16 → Instr) (f : VFields) : Except Reject Instr := do
  let sel ← f.pacer
  reserved0 f.s2; reserved0 f.s3
  .ok (k sel (← finOf 4 f.d) (← finOf 32 f.s1) (BitVec.ofNat 16 f.imm))
def encVLD (sel : MaskSel) (q : Fin 4) (base : Reg) (off : BitVec 16) : VFields := mkP sel q base 0 0 off.toNat

def decVST (k : MaskSel → Fin 2 → Reg → BitVec 16 → Instr) (f : VFields) : Except Reject Instr := do
  let sel ← f.pacer
  reserved0 f.s2; reserved0 f.s3
  .ok (k sel (← finOf 2 f.d) (← finOf 32 f.s1) (BitVec.ofNat 16 f.imm))
def encVST (sel : MaskSel) (q : Fin 2) (base : Reg) (off : BitVec 16) : VFields := mkP sel q base 0 0 off.toNat

def decIMGL (k : Fin 4 → Reg → BitVec 16 → Instr) (f : VFields) : Except Reject Instr := do
  let _ ← f.pacer
  reserved0 f.mask; reserved0 f.s2; reserved0 f.s3
  .ok (k (← finOf 4 f.d) (← finOf 32 f.s1) (BitVec.ofNat 16 f.imm))
def encIMGL (q : Fin 4) (base : Reg) (off : BitVec 16) : VFields := mkP none q base 0 0 off.toNat

def decIMGS (k : Fin 2 → Reg → BitVec 16 → Instr) (f : VFields) : Except Reject Instr := do
  let _ ← f.pacer
  reserved0 f.mask; reserved0 f.s2; reserved0 f.s3
  .ok (k (← finOf 2 f.d) (← finOf 32 f.s1) (BitVec.ofNat 16 f.imm))
def encIMGS (q : Fin 2) (base : Reg) (off : BitVec 16) : VFields := mkP none q base 0 0 off.toNat

def decVLDFF (k : MaskSel → Fin 4 → Reg → MaskReg → BitVec 16 → Instr) (f : VFields) : Except Reject Instr := do
  let sel ← f.pacer
  reserved0 f.s2
  .ok (k sel (← finOf 4 f.d) (← finOf 32 f.s1) (← finOf 12 f.s3) (BitVec.ofNat 16 f.imm))
def encVLDFF (sel : MaskSel) (q : Fin 4) (base : Reg) (m : MaskReg) (off : BitVec 16) : VFields :=
  mkP sel q base 0 m off.toNat

def decVLDS (k : MaskSel → Fin 4 → Reg → Reg → Instr) (f : VFields) : Except Reject Instr := do
  let sel ← f.pacer
  reserved0 f.s3; reserved0 f.imm
  .ok (k sel (← finOf 4 f.d) (← finOf 32 f.s1) (← finOf 32 f.s2))
def encVLDS (sel : MaskSel) (q : Fin 4) (base stride : Reg) : VFields := mkP sel q base stride 0 0

def decVSTS (k : MaskSel → Fin 2 → Reg → Reg → Instr) (f : VFields) : Except Reject Instr := do
  let sel ← f.pacer
  reserved0 f.s3; reserved0 f.imm
  .ok (k sel (← finOf 2 f.d) (← finOf 32 f.s1) (← finOf 32 f.s2))
def encVSTS (sel : MaskSel) (q : Fin 2) (base stride : Reg) : VFields := mkP sel q base stride 0 0

def decVLDX (k : MaskSel → Fin 4 → Reg → Reg → Fin 4 → Instr) (f : VFields) : Except Reject Instr := do
  let sel ← f.pacer
  reserved0 f.s3
  .ok (k sel (← finOf 4 f.d) (← finOf 32 f.s1) (← finOf 32 f.s2) (← finOf 4 f.imm))
def encVLDX (sel : MaskSel) (q : Fin 4) (base list : Reg) (sc : Fin 4) : VFields := mkP sel q base list 0 sc

def decVSTX (k : MaskSel → Fin 2 → Reg → Reg → Fin 4 → Instr) (f : VFields) : Except Reject Instr := do
  let sel ← f.pacer
  reserved0 f.s3
  .ok (k sel (← finOf 2 f.d) (← finOf 32 f.s1) (← finOf 32 f.s2) (← finOf 4 f.imm))
def encVSTX (sel : MaskSel) (q : Fin 2) (base list : Reg) (sc : Fin 4) : VFields := mkP sel q base list 0 sc

def decVAMO (k : MaskSel → Fin 2 → Reg → Reg → Fin 4 → VAmoOp → Option (Fin 4) → Instr) (f : VFields) :
    Except Reject Instr := do
  let sel ← f.pacer
  reserved0 (f.imm / 64 % 512)
  let ret ← if f.imm / 32768 % 2 = 1 then (finOf 4 f.s3).map some else (reserved0 f.s3).map (fun _ => none)
  .ok (k sel (← finOf 2 f.d) (← finOf 32 f.s1) (← finOf 32 f.s2) (← finOf 4 (f.imm % 4))
    (← named (VAmoOp.ofCode (f.imm / 4 % 16))) ret)
def retField : Option (Fin 4) → Nat
  | none => 0
  | some q => q.val
def encVAMO (sel : MaskSel) (q : Fin 2) (base list : Reg) (sc : Fin 4) (op : VAmoOp) (ret : Option (Fin 4)) : VFields :=
  mkP sel q base list (retField ret) (sc + 4 * op.code + 32768 * bit ret.isSome)

/-! ### E form shapes (R160) -/

def decCPY (k : Fin 64 → Reg → Reg → Reg → Instr) (f : EFields) : Except Reject Instr := do
  reserved0 (f.e4 + f.e5 + f.e6 + f.e7 + f.e8 + f.sw + f.rest)
  .ok (k (← finOf 64 f.tag) (← finOf 32 f.e1) (← finOf 32 f.e2) (← finOf 32 f.e3))
def encCPY (tag : Fin 64) (dst src n : Reg) : EFields := ⟨tag, dst, src, n, 0, 0, 0, 0, 0, 0, 0, 0⟩

def decCPY2 (k : Fin 64 → Reg → Reg → Reg → Reg → Reg → Reg → Bool → Instr) (f : EFields) : Except Reject Instr := do
  reserved0 (f.e7 + f.e8 + f.rest)
  .ok (k (← finOf 64 f.tag) (← finOf 32 f.e1) (← finOf 32 f.e2) (← finOf 32 f.e3) (← finOf 32 f.e4) (← finOf 32 f.e5)
    (← finOf 32 f.e6) (f.sw == 1))
def encCPY2 (tag : Fin 64) (dst src rows rowBytes spitch dpitch : Reg) (sw : Bool) : EFields :=
  ⟨tag, dst, src, rows, rowBytes, spitch, dpitch, 0, 0, 0, bit sw, 0⟩

def decCPYX (k : Fin 64 → Reg → Reg → Reg → Reg → Reg → Reg → Reg → Reg → Bool → Instr) (f : EFields) :
    Except Reject Instr := do
  reserved0 f.rest
  .ok (k (← finOf 64 f.tag) (← finOf 32 f.e1) (← finOf 32 f.e2) (← finOf 32 f.e3) (← finOf 32 f.e4) (← finOf 32 f.e5)
    (← finOf 32 f.e6) (← finOf 32 f.e7) (← finOf 32 f.e8) (f.sw == 1))
def encCPYX (tag : Fin 64) (dst dpitch base tpitch rowBytes list count limit : Reg) (sw : Bool) : EFields :=
  ⟨tag, dst, dpitch, base, tpitch, rowBytes, list, count, limit, 0, bit sw, 0⟩

def decBLK (k : Fin 64 → Reg → Instr) (f : EFields) : Except Reject Instr := do
  reserved0 (f.e2 + f.e3 + f.e4 + f.e5 + f.e6 + f.e7 + f.e8 + f.sw + f.rest)
  .ok (k (← finOf 64 f.tag) (← finOf 32 f.e1))
def encBLK (tag : Fin 64) (blk : Reg) : EFields := ⟨tag, blk, 0, 0, 0, 0, 0, 0, 0, 0, 0, 0⟩

def decE2 (k : Reg → Reg → Instr) (f : EFields) : Except Reject Instr := do
  reserved0 (f.tag + f.e3 + f.e4 + f.e5 + f.e6 + f.e7 + f.e8 + f.sw + f.rest)
  .ok (k (← finOf 32 f.e1) (← finOf 32 f.e2))
def encE2 (e1 e2 : Reg) : EFields := ⟨0, e1, e2, 0, 0, 0, 0, 0, 0, 0, 0, 0⟩

def decE1 (k : Reg → Instr) (f : EFields) : Except Reject Instr := do
  reserved0 (f.tag + f.e2 + f.e3 + f.e4 + f.e5 + f.e6 + f.e7 + f.e8 + f.sw + f.rest)
  .ok (k (← finOf 32 f.e1))
def encE1 (e1 : Reg) : EFields := ⟨0, e1, 0, 0, 0, 0, 0, 0, 0, 0, 0, 0⟩

/-- The queue mask lies in bits [55:52], the low four bits of the tag field (R160). -/
def decQF (k : Fin 16 → Instr) (f : EFields) : Except Reject Instr := do
  reserved0 (f.e1 + f.e2 + f.e3 + f.e4 + f.e5 + f.e6 + f.e7 + f.e8 + f.sw + f.rest)
  .ok (k (← finOf 16 f.tag))
def encQF (qmask : Fin 16) : EFields := ⟨qmask, 0, 0, 0, 0, 0, 0, 0, 0, 0, 0, 0⟩

/-! ### M form shapes (R161) -/

def decC3 (k : Reg → Reg → Reg → Instr) (f : MFields) : Except Reject Instr := do
  reserved0 (f.v + f.t + f.p + f.tt + f.rest)
  .ok (k (← finOf 32 f.c1) (← finOf 32 f.c2) (← finOf 32 f.c3))
def encC3 (c1 c2 c3 : Reg) : MFields := ⟨c1, c2, c3, 0, 0, 0, 0, 0, 0⟩

def decM0 (k : Instr) (f : MFields) : Except Reject Instr := do
  reserved0 (f.c1 + f.c2 + f.c3 + f.v + f.t + f.p + f.tt + f.rest)
  .ok k
def encM0 : MFields := ⟨0, 0, 0, 0, 0, 0, 0, 0, 0⟩

def decMT (k : Tile → Instr) (f : MFields) : Except Reject Instr := do
  reserved0 (f.c1 + f.c2 + f.c3 + f.v + f.p + f.tt + f.rest)
  .ok (k (← finOf 8 f.t))
def encMT (t : Tile) : MFields := ⟨0, 0, 0, 0, t, 0, 0, 0, 0⟩

def decSTG (k : Reg → Reg → Fin 32 → Instr) (f : MFields) : Except Reject Instr := do
  reserved0 (f.c2 + f.c3 + f.t + f.tt + f.rest)
  .ok (k (← finOf 32 f.c1) (← finOf 32 f.v) (← finOf 32 f.p))
def encSTG (c1 v : Reg) (planes : Fin 32) : MFields := ⟨c1, 0, 0, v, 0, 0, planes, 0, 0⟩

def decMMA (k : Tile → Reg → Reg → Instr) (f : MFields) : Except Reject Instr := do
  reserved0 (f.c3 + f.v + f.p + f.tt + f.rest)
  .ok (k (← finOf 8 f.t) (← finOf 32 f.c1) (← finOf 32 f.c2))
def encMMA (t : Tile) (c1 c2 : Reg) : MFields := ⟨c1, c2, 0, 0, t, 0, 0, 0, 0⟩

def decMLDT (k : Tile → Reg → TileType → Instr) (f : MFields) : Except Reject Instr := do
  reserved0 (f.c2 + f.c3 + f.v + f.p + f.rest)
  .ok (k (← finOf 8 f.t) (← finOf 32 f.c1) (← named (TileType.ofCode f.tt)))
def encMLDT (t : Tile) (c1 : Reg) (tt : TileType) : MFields := ⟨c1, 0, 0, 0, t, 0, 0, tt.code, 0⟩

def decMSTT (k : Tile → Reg → Instr) (f : MFields) : Except Reject Instr := do
  reserved0 (f.c2 + f.c3 + f.v + f.p + f.tt + f.rest)
  .ok (k (← finOf 8 f.t) (← finOf 32 f.c1))
def encMSTT (t : Tile) (c1 : Reg) : MFields := ⟨c1, 0, 0, 0, t, 0, 0, 0, 0⟩

def decMTOV (k : Reg → Tile → Reg → Instr) (f : MFields) : Except Reject Instr := do
  reserved0 (f.c2 + f.c3 + f.p + f.tt + f.rest)
  .ok (k (← finOf 32 f.v) (← finOf 8 f.t) (← finOf 32 f.c1))
def encMTOV (v : Reg) (t : Tile) (c1 : Reg) : MFields := ⟨c1, 0, 0, v, t, 0, 0, 0, 0⟩

/-! ### Y form shapes (R162) -/

def decFEN (k : Scope → Instr) (f : YFields) : Except Reject Instr := do
  reserved0 (f.d + f.s1 + f.s2 + f.rest + f.num + f.imm)
  .ok (k (← named (Scope.ofCode f.scope)))
def encFEN (scope : Scope) : YFields := ⟨0, 0, 0, 0, scope.code, 0, 0, 0⟩

def decY0 (k : Instr) (f : YFields) : Except Reject Instr := do
  reserved0 (f.d + f.s1 + f.s2 + f.scope + f.rest + f.num + f.imm)
  .ok k
def encY0 : YFields := ⟨0, 0, 0, 0, 0, 0, 0, 0⟩

def decWM (k : Reg → Reg → Instr) (f : YFields) : Except Reject Instr := do
  reserved0 (f.d + f.scope + f.rest + f.num + f.imm)
  .ok (k (← finOf 32 f.s1) (← finOf 32 f.s2))
def encWM (s1 s2 : Reg) : YFields := ⟨0, s1, s2, 0, 0, 0, 0, 0⟩

def decGL (k : Reg → Reg → Reg → Instr) (f : YFields) : Except Reject Instr := do
  reserved0 (f.scope + f.rest + f.num + f.imm)
  .ok (k (← finOf 32 f.d) (← finOf 32 f.s1) (← finOf 32 f.s2))
def encGL (d s1 s2 : Reg) : YFields := ⟨d, s1, s2, 0, 0, 0, 0, 0⟩

def decIMM20 (k : BitVec 20 → Instr) (f : YFields) : Except Reject Instr := do
  reserved0 (f.d + f.s1 + f.s2 + f.scope + f.rest + f.num)
  .ok (k (BitVec.ofNat 20 f.imm))
def encIMM20 (imm : BitVec 20) : YFields := ⟨0, 0, 0, 0, 0, 0, 0, imm.toNat⟩

def decSG (k : Reg → Fin 4096 → Instr) (f : YFields) : Except Reject Instr := do
  reserved0 (f.s1 + f.s2 + f.scope + f.rest + f.imm)
  .ok (k (← finOf 32 f.d) (← finOf 4096 f.num))
def encSG (d : Reg) (num : Fin 4096) : YFields := ⟨d, 0, 0, 0, 0, 0, num, 0⟩

def decSS (k : Fin 4096 → Reg → Instr) (f : YFields) : Except Reject Instr := do
  reserved0 (f.d + f.s2 + f.scope + f.rest + f.imm)
  .ok (k (← finOf 4096 f.num) (← finOf 32 f.s1))
def encSS (num : Fin 4096) (s1 : Reg) : YFields := ⟨0, s1, 0, 0, 0, 0, num, 0⟩

def decKP (k : Reg → Instr) (f : YFields) : Except Reject Instr := do
  reserved0 (f.d + f.s1 + f.scope + f.rest + f.num + f.imm)
  .ok (k (← finOf 32 f.s2))
def encKP (s2 : Reg) : YFields := ⟨0, 0, s2, 0, 0, 0, 0, 0⟩

/-! ### The opcode map (R163) -/

/-! ### The points an Anchor may run (R14, R163) -/

/-- The points of major 0x01 (R163). -/
def decodeAnchor01 (f : SFields) : Except Reject Instr :=
  match f.minor with
  | 0 => decRRR .add f
  | 1 => decRRR .sub f
  | 2 => decRRR .mul f
  | 3 => decRRR .mulh f
  | 4 => decRRR .mulhn f
  | 5 => decRRR .div f
  | 6 => decRRR .divn f
  | 7 => decRRR .rem f
  | 8 => decRRR .remn f
  | 9 => decRRR .and f
  | 10 => decRRR .or f
  | 11 => decRRR .xor f
  | 12 => decRRR .andn f
  | 13 => decRRR .shl f
  | 14 => decRRR .shr f
  | 15 => decRRR .sra f
  | 16 => decRRR .rot f
  | 17 => decRRR .min f
  | 18 => decRRR .max f
  | 19 => decRRR .minn f
  | 20 => decRRR .maxn f
  | 21 => decRRR .slt f
  | 22 => decRRR .sltn f
  | 23 => decRRR .seq f
  | 24 => decRRRR .cmov f
  | 25 => decRR .clz f
  | 26 => decRR .ctz f
  | 27 => decRR .popc f
  | _ => .error .noPoint

/-- The points of major 0x02 (R163). -/
def decodeAnchor02 (f : SFields) : Except Reject Instr :=
  match f.minor with
  | 0 => decRRI .addImm f
  | 1 => decRRI .subImm f
  | 2 => decRRI .mulImm f
  | 3 => decRRI .mulhImm f
  | 4 => decRRI .mulhnImm f
  | 5 => decRRI .divImm f
  | 6 => decRRI .divnImm f
  | 7 => decRRI .remImm f
  | 8 => decRRI .remnImm f
  | 9 => decRRI .andImm f
  | 10 => decRRI .orImm f
  | 11 => decRRI .xorImm f
  | 12 => decRRI .andnImm f
  | 13 => decRRSH .shlImm f
  | 14 => decRRSH .shrImm f
  | 15 => decRRSH .sraImm f
  | 16 => decRRSH .rotImm f
  | 17 => decRRI .minImm f
  | 18 => decRRI .maxImm f
  | 19 => decRRI .minnImm f
  | 20 => decRRI .maxnImm f
  | 21 => decRRI .sltImm f
  | 22 => decRRI .sltnImm f
  | 23 => decRRI .seqImm f
  | _ => .error .noPoint

/-- The points of major 0x03 (R163). -/
def decodeAnchor03 (f : SFields) : Except Reject Instr :=
  match f.minor with
  | 0 => decRI .li f
  | 1 => decRI .lih f
  | _ => .error .noPoint

/-- The points of major 0x04 (R163). -/
def decodeAnchor04 (f : SFields) : Except Reject Instr :=
  match f.minor with
  | 0 => decF3 .fadd f
  | 1 => decF3 .fsub f
  | 2 => decF3 .fmul f
  | 3 => decF4 .ffma f
  | 4 => decF3 .fdiv f
  | 5 => decF3 .fsqrt f
  | 6 => decF3 .fmin f
  | 7 => decF3 .fmax f
  | 8 => decFCVT .fcvt f
  | 9 => decF3 .fcmpEq f
  | 10 => decF3 .fcmpLt f
  | 11 => decF3 .fcmpLe f
  | 12 => decF3 .fcmpUn f
  | _ => .error .noPoint

/-- The points of major 0x05 (R163). -/
def decodeAnchor05 (f : SFields) : Except Reject Instr :=
  match f.minor with
  | 0 => decGETC .getc f
  | 1 => decSETC .setc f
  | 2 => decNONE_S .nop f
  | _ => .error .noPoint

/-- The points of major 0x06 (R163). -/
def decodeAnchor06 (f : SFields) : Except Reject Instr :=
  match f.minor with
  | 0 => decSETVL .setvl f
  | 1 => decSETVLM .setvlm f
  | _ => .error .noPoint

/-- The points of major 0x07 (R163). -/
def decodeAnchor07 (f : SFields) : Except Reject Instr :=
  match f.minor with
  | 0 => decQPUSH .qpush f
  | 1 => decQPOP .qpop f
  | _ => .error .noPoint

/-- The points of major 0x08 (R163). -/
def decodeAnchor08 (f : BFields) : Except Reject Instr :=
  match f.minor with
  | 0 => decBR .beq f
  | 1 => decBR .bne f
  | 2 => decBR .blt f
  | 3 => decBR .bge f
  | 4 => decBR .bltn f
  | 5 => decBR .bgen f
  | 6 => decJAL .jal f
  | 7 => decJALR .jalr f
  | 8 => decBMSK .bmskAny f
  | 9 => decBMSK .bmskNone f
  | _ => .error .noPoint

/-- The points of major 0x0A (R163). -/
def decodeAnchor0A (f : BFields) : Except Reject Instr :=
  match f.minor with
  | 0 => decFETCH .vfetch f
  | 1 => decFETCH .tfetch f
  | 2 => decTSTOP .tstop f
  | 3 => decVLOOP .vloop f
  | 4 => decVLOOPS .vloopS f
  | _ => .error .noPoint

/-- The points of major 0x10 (R163). -/
def decodeAnchor10 (f : VFields) : Except Reject Instr :=
  match f.minor with
  | 0 => decV2 .vadd f
  | 1 => decV2 .vsub f
  | 2 => decV2 .vmul f
  | 3 => decV2 .vmulh f
  | 4 => decV3 .vfma f
  | 5 => decV3 .vfms f
  | 6 => decV2 .vdiv f
  | 7 => decV1 .vsqrt f
  | 8 => decV1 .vrcp f
  | 9 => decV1 .vrsq f
  | 10 => decV1 .vexp2 f
  | 11 => decV1 .vlog2 f
  | 12 => decV2 .vmin f
  | 13 => decV2 .vmax f
  | 14 => decV1 .vabs f
  | 15 => decV1 .vneg f
  | 16 => decV2 .vand f
  | 17 => decV2 .vor f
  | 18 => decV2 .vxor f
  | 19 => decV1 .vnot f
  | 20 => decV2 .vshl f
  | 21 => decV2 .vshr f
  | 22 => decV2 .vsrr f
  | 23 => decV2 .vadds f
  | 24 => decV2 .vsubs f
  | 25 => decV3 .vmac2 f
  | 26 => decVSEL .vsel f
  | 32 => decVCMP .vcmpEq f
  | 33 => decVCMP .vcmpNe f
  | 34 => decVCMP .vcmpLt f
  | 35 => decVCMP .vcmpLe f
  | 36 => decVCMP .vcmpGt f
  | 37 => decVCMP .vcmpGe f
  | 38 => decVCMP .vcmpUn f
  | 39 => decVCMP .vcmpOd f
  | _ => .error .noPoint

/-- The points of major 0x11 (R163). -/
def decodeAnchor11 (f : VFields) : Except Reject Instr :=
  match f.minor with
  | 0 => decV2S .vaddScalar f
  | 1 => decV2S .vsubScalar f
  | 2 => decV2S .vmulScalar f
  | 3 => decV2S .vmulhScalar f
  | 4 => decV3S .vfmaScalar f
  | 5 => decV3S .vfmsScalar f
  | 6 => decV2S .vdivScalar f
  | 12 => decV2S .vminScalar f
  | 13 => decV2S .vmaxScalar f
  | 16 => decV2S .vandScalar f
  | 17 => decV2S .vorScalar f
  | 18 => decV2S .vxorScalar f
  | 20 => decV2S .vshlScalar f
  | 21 => decV2S .vshrScalar f
  | 22 => decV2S .vsrrScalar f
  | 23 => decV2S .vaddsScalar f
  | 24 => decV2S .vsubsScalar f
  | 25 => decV3S .vmac2Scalar f
  | 26 => decVSELS .vselScalar f
  | 32 => decVCMPS .vcmpEqScalar f
  | 33 => decVCMPS .vcmpNeScalar f
  | 34 => decVCMPS .vcmpLtScalar f
  | 35 => decVCMPS .vcmpLeScalar f
  | 36 => decVCMPS .vcmpGtScalar f
  | 37 => decVCMPS .vcmpGeScalar f
  | 38 => decVCMPS .vcmpUnScalar f
  | 39 => decVCMPS .vcmpOdScalar f
  | _ => .error .noPoint

/-- The points of major 0x12 (R163). -/
def decodeAnchor12 (f : VFields) : Except Reject Instr :=
  match f.minor with
  | 0 => decV2I .vaddImm f
  | 1 => decV2I .vsubImm f
  | 2 => decV2I .vmulImm f
  | 12 => decV2I .vminImm f
  | 13 => decV2I .vmaxImm f
  | 16 => decV2I .vandImm f
  | 17 => decV2I .vorImm f
  | 18 => decV2I .vxorImm f
  | 20 => decV2I .vshlImm f
  | 21 => decV2I .vshrImm f
  | 22 => decV2I .vsrrImm f
  | 23 => decV2I .vaddsImm f
  | 24 => decV2I .vsubsImm f
  | 32 => decVCMPI .vcmpEqImm f
  | 33 => decVCMPI .vcmpNeImm f
  | 34 => decVCMPI .vcmpLtImm f
  | 35 => decVCMPI .vcmpLeImm f
  | 36 => decVCMPI .vcmpGtImm f
  | 37 => decVCMPI .vcmpGeImm f
  | _ => .error .noPoint

/-- The points of major 0x13 (R163). -/
def decodeAnchor13 (f : VFields) : Except Reject Instr :=
  match f.minor with
  | 0 => decVTAG .vtag f
  | 1 => decVTAG .vretag f
  | 2 => decVSPLAT .vsplat f
  | 3 => decVPUSH .vpush f
  | _ => .error .noPoint

/-- The points of major 0x14 (R163). -/
def decodeAnchor14 (f : VFields) : Except Reject Instr :=
  match f.minor with
  | 0 => decVCVT .vcvt f
  | 1 => decVCVT .vcvtS f
  | 2 => decVQCVT .vqcvt f
  | 3 => decVDQ .vdq f
  | 4 => decVBFLY .vbfly f
  | 5 => decVBFLYF .vbflyF f
  | 6 => decVRAND .vrand f
  | 7 => decVUTF8 .vutf8 f
  | _ => .error .noPoint

/-- The points of major 0x15 (R163). -/
def decodeAnchor15 (f : VFields) : Except Reject Instr :=
  match f.minor with
  | 0 => decMM .mand f
  | 1 => decMM .mor f
  | 2 => decMM .mxor f
  | 3 => decMNOT .mnot f
  | 4 => decMSET .mset f
  | _ => .error .noPoint

/-- The points of major 0x16 (R163). -/
def decodeAnchor16 (f : VFields) : Except Reject Instr :=
  match f.minor with
  | 0 => decSLIDE .vslideup f
  | 1 => decSLIDE .vslidedn f
  | 2 => decSLIDEI .vslideupImm f
  | 3 => decSLIDEI .vslidednImm f
  | 4 => decV2 .vrgather f
  | 5 => decV3 .vrgather2 f
  | 6 => decV1M .vcompress f
  | 7 => decV1M .vexpand f
  | 8 => decVIOTA .viota f
  | 9 => decVEXTR .vextr f
  | 10 => decVEXTRI .vextrImm f
  | 11 => decVINS .vins f
  | 12 => decVINSI .vinsImm f
  | _ => .error .noPoint

/-- The points of major 0x17 (R163). -/
def decodeAnchor17 (f : VFields) : Except Reject Instr :=
  match f.minor with
  | 0 => decVRED .vredsum f
  | 1 => decVRED .vredmax f
  | 2 => decVRED .vredmin f
  | 3 => decVRED .vredbitAnd f
  | 4 => decVRED .vredbitOr f
  | 5 => decVRED .vredbitXor f
  | 6 => decVSCAN .vscanSum f
  | 7 => decVSCAN .vscanMax f
  | 8 => decVSCAN .vscanMin f
  | 9 => decVSCAN .vscanSumX f
  | 10 => decVSCAN .vscanMaxX f
  | 11 => decVSCAN .vscanMinX f
  | 12 => decVARG .vargmax f
  | 13 => decVARG .vargmin f
  | 14 => decMCNT .mpopc f
  | 15 => decMCNT .mfirst f
  | _ => .error .noPoint

/-- The points of major 0x18 (R163). -/
def decodeAnchor18 (f : VFields) : Except Reject Instr :=
  match f.minor with
  | 0 => decKSET .kset f
  | 1 => decKGET .kget f
  | 2 => decKVAL .kupSum f
  | 3 => decKVAL .kupMax f
  | 4 => decKVAL .kupMin f
  | 5 => decKVAL .kdownSum f
  | 6 => decKVAL .kdownMax f
  | 7 => decKVAL .kdownMin f
  | 8 => decKVAL .kbcast f
  | 9 => decKLNK .kdepth f
  | 10 => decKANC .kanc f
  | 11 => decKANCIS .kancIs f
  | 12 => decKCON .kcontract f
  | 13 => decKLNK .kroot f
  | 14 => decKCHK .kcheck f
  | _ => .error .noPoint

/-- The points of major 0x28 (R163). -/
def decodeAnchor28 (f : MFields) : Except Reject Instr :=
  match f.minor with
  | 0 => decC3 .settl f
  | 1 => decM0 .mclaim f
  | 2 => decM0 .mrel f
  | 3 => decMT .mzero f
  | 4 => decSTG .mstageA f
  | 5 => decSTG .mstageB f
  | 6 => decMMA .mma f
  | 7 => decMLDT .mldt f
  | 8 => decMSTT .mstt f
  | 9 => decMTOV .mtov f
  | _ => .error .noPoint

/-- The points of major 0x30 (R163), but for those only a Pacer runs. -/
def decodeAnchor30 (f : YFields) : Except Reject Instr :=
  match f.minor with
  | 4 => decY0 .gbar f
  | 7 => decY0 .yield f
  | 8 => decY0 .vrel f
  | 9 => decY0 .hexit f
  | 11 => decIMM20 .trap f
  | 12 => decIMM20 .brk f
  | 13 => decIMM20 .hcall f
  | 14 => decY0 .eret f
  | 15 => decSG .sgetc f
  | 16 => decSS .ssetc f
  | _ => .error .noPoint

/-- The point of a word, of those an Anchor may run: it lies apart because the Anchor's words are decoded inside exec too
(loop bodies, a resumed instruction queue), and Lean's compiler cannot build the later constructors. -/
def decodeAnchorPoint (w : Nat) : Except Reject Instr :=
  match w / 2 ^ 58 % 64 with
  | 1 => decodeAnchor01 (SFields.ofWord w)
  | 2 => decodeAnchor02 (SFields.ofWord w)
  | 3 => decodeAnchor03 (SFields.ofWord w)
  | 4 => decodeAnchor04 (SFields.ofWord w)
  | 5 => decodeAnchor05 (SFields.ofWord w)
  | 6 => decodeAnchor06 (SFields.ofWord w)
  | 7 => decodeAnchor07 (SFields.ofWord w)
  | 8 => decodeAnchor08 (BFields.ofWord w)
  | 9 => decLAP (LapFields.ofWord w)
  | 10 => decodeAnchor0A (BFields.ofWord w)
  | 16 => decodeAnchor10 (VFields.ofWord w)
  | 17 => decodeAnchor11 (VFields.ofWord w)
  | 18 => decodeAnchor12 (VFields.ofWord w)
  | 19 => decodeAnchor13 (VFields.ofWord w)
  | 20 => decodeAnchor14 (VFields.ofWord w)
  | 21 => decodeAnchor15 (VFields.ofWord w)
  | 22 => decodeAnchor16 (VFields.ofWord w)
  | 23 => decodeAnchor17 (VFields.ofWord w)
  | 24 => decodeAnchor18 (VFields.ofWord w)
  | 40 => decodeAnchor28 (MFields.ofWord w)
  | 48 => decodeAnchor30 (YFields.ofWord w)
  | _ => .error .noPoint

/-- The decoder on the words an Anchor may run; every other word is refused (R14, R166). -/
def decodeAnchorWord (w : Word) : Except Reject Instr := do
  let i ← decodeAnchorPoint w.toNat
  if i.wf then .ok i else .error .illFormed

/-! ### All points (R163). Lean's compiler builds at most 244 constructors with operands, so these definitions are
marked noncomputable: they are plain terms that the kernel evaluates. -/

/-- The points of major 0x20 (R163). -/
noncomputable def decodeMajor20 (f : VFields) : Except Reject Instr :=
  match f.minor with
  | 0 => decVLD .vld f
  | 1 => decVLDS .vlds f
  | 2 => decVLDX .vldx f
  | 3 => decVLDFF .vldff f
  | 4 => decVST .vst f
  | 5 => decVSTS .vsts f
  | 6 => decVSTX .vstx f
  | 7 => decIMGL .vldw f
  | 8 => decIMGS .vstw f
  | 9 => decIMGS .vspl f
  | 10 => decIMGL .vfil f
  | 11 => decVAMO .vamo f
  | _ => .error .noPoint

/-- The points of major 0x21 (R163). -/
noncomputable def decodeMajor21 (f : SFields) : Except Reject Instr :=
  match f.minor with
  | 0 => decLD .ldB f
  | 1 => decLD .ldH f
  | 2 => decLD .ldW f
  | 3 => decLD .ldD f
  | 4 => decLD .ldBn f
  | 5 => decLD .ldHn f
  | 6 => decLD .ldWn f
  | _ => .error .noPoint

/-- The points of major 0x22 (R163). -/
noncomputable def decodeMajor22 (f : SFields) : Except Reject Instr :=
  match f.minor with
  | 0 => decST .stB f
  | 1 => decST .stH f
  | 2 => decST .stW f
  | 3 => decST .stD f
  | _ => .error .noPoint

/-- The points of major 0x23 (R163). -/
noncomputable def decodeMajor23 (f : SFields) : Except Reject Instr :=
  match f.minor with
  | 0 => decAMO .amoaddW f
  | 1 => decAMO .amoaddD f
  | 2 => decAMO .amoswapW f
  | 3 => decAMO .amoswapD f
  | 4 => decAMO .amocasW f
  | 5 => decAMO .amocasD f
  | 6 => decAMO .amominW f
  | 7 => decAMO .amominD f
  | 8 => decAMO .amomaxW f
  | 9 => decAMO .amomaxD f
  | 10 => decAMO .amoandW f
  | 11 => decAMO .amoandD f
  | 12 => decAMO .amoorW f
  | 13 => decAMO .amoorD f
  | 14 => decAMO .amoxorW f
  | 15 => decAMO .amoxorD f
  | 16 => decAMO .amominWn f
  | 17 => decAMO .amominDn f
  | 18 => decAMO .amomaxWn f
  | 19 => decAMO .amomaxDn f
  | 20 => decST .rsadd f
  | 21 => decLD .rsfin f
  | _ => .error .noPoint

/-- The points of major 0x24 (R163). -/
noncomputable def decodeMajor24 (f : EFields) : Except Reject Instr :=
  match f.minor with
  | 0 => decCPY .cpy f
  | 1 => decCPY2 .cpy2 f
  | 2 => decCPYX .cpyx f
  | 3 => decBLK .pftopk f
  | 4 => decBLK .pfscan f
  | 5 => decBLK .seam f
  | 6 => decE2 .fcinv f
  | 7 => decE2 .fcwb f
  | _ => .error .noPoint

/-- The points of major 0x25 (R163). -/
noncomputable def decodeMajor25 (f : EFields) : Except Reject Instr :=
  match f.minor with
  | 0 => decE1 .twany f
  | 1 => decE1 .twall f
  | 2 => decE2 .tfirst f
  | 3 => decE1 .tclr f
  | 4 => decQF .qfence f
  | _ => .error .noPoint

/-- The points of major 0x30 (R163). -/
noncomputable def decodeMajor30 (f : YFields) : Except Reject Instr :=
  match f.minor with
  | 0 => decFEN .fenceSv f
  | 1 => decFEN .fenceVs f
  | 2 => decFEN .fenceVv f
  | 3 => decFEN .fenceAll f
  | 5 => decWM .waitmEq f
  | 6 => decWM .waitmNe f
  | 10 => decGL .glaunch f
  | 17 => decWM .ktlbiVa f
  | 18 => decKP .ktlbiPart f
  | 19 => decY0 .ktlbiAll f
  | _ => decodeAnchor30 f

/-- The instruction a word's fields name, before the well-formedness check (R145, R163). -/
noncomputable def decodePoint (w : Nat) : Except Reject Instr :=
  match w / 2 ^ 58 % 64 with
  | 32 => decodeMajor20 (VFields.ofWord w)
  | 33 => decodeMajor21 (SFields.ofWord w)
  | 34 => decodeMajor22 (SFields.ofWord w)
  | 35 => decodeMajor23 (SFields.ofWord w)
  | 36 => decodeMajor24 (EFields.ofWord w)
  | 37 => decodeMajor25 (EFields.ofWord w)
  | 48 => decodeMajor30 (YFields.ofWord w)
  | _ => decodeAnchorPoint w

/-- The decoder: total on any word, refusing by name (R166 steps 1 and 2). -/
noncomputable def decodeWord (w : Word) : Except Reject Instr := do
  let i ← decodePoint w.toNat
  if i.wf then .ok i else .error .illFormed

/-- The little-endian value of a list of bytes (R4). -/
def leNat : List Byte → Nat
  | [] => 0
  | b :: bs => b.toNat + 256 * leNat bs

/-- The n low bytes of a number, little-endian (R4). -/
def leBytes : Nat → Nat → List Byte
  | 0, _ => []
  | n + 1, x => BitVec.ofNat 8 x :: leBytes n (x / 256)

/-- The decoder on the bytes in memory: eight bytes, little-endian, make one instruction (R145); the rest is returned. -/
noncomputable def decodeBytes (bs : List Byte) : Except Reject (Instr × List Byte) := do
  if bs.length < 8 then .error .tooShort
  else
    let i ← decodeWord (BitVec.ofNat 64 (leNat (bs.take 8)))
    .ok (i, bs.drop 8)

/-- The instruction the decoder reads from a word whose bits are w, bit 0 least significant; bits above nbits are 0. -/
noncomputable def decodeTableWord (nbits w : Nat) : Option Instr :=
  match decodeBytes (leBytes 8 (w % 2 ^ nbits)) with
  | .ok (i, _) => some i
  | .error _ => none

/-! ### The encoder -/

/-- The word of an instruction point; events have none (R149 to R165). -/
def encodeNat : Instr → Option Nat
  | .add d s1 s2 => some ((encRRR d s1 s2 : SFields).toWord 1 0)
  | .sub d s1 s2 => some ((encRRR d s1 s2 : SFields).toWord 1 1)
  | .mul d s1 s2 => some ((encRRR d s1 s2 : SFields).toWord 1 2)
  | .mulh d s1 s2 => some ((encRRR d s1 s2 : SFields).toWord 1 3)
  | .mulhn d s1 s2 => some ((encRRR d s1 s2 : SFields).toWord 1 4)
  | .div d s1 s2 => some ((encRRR d s1 s2 : SFields).toWord 1 5)
  | .divn d s1 s2 => some ((encRRR d s1 s2 : SFields).toWord 1 6)
  | .rem d s1 s2 => some ((encRRR d s1 s2 : SFields).toWord 1 7)
  | .remn d s1 s2 => some ((encRRR d s1 s2 : SFields).toWord 1 8)
  | .and d s1 s2 => some ((encRRR d s1 s2 : SFields).toWord 1 9)
  | .or d s1 s2 => some ((encRRR d s1 s2 : SFields).toWord 1 10)
  | .xor d s1 s2 => some ((encRRR d s1 s2 : SFields).toWord 1 11)
  | .andn d s1 s2 => some ((encRRR d s1 s2 : SFields).toWord 1 12)
  | .shl d s1 s2 => some ((encRRR d s1 s2 : SFields).toWord 1 13)
  | .shr d s1 s2 => some ((encRRR d s1 s2 : SFields).toWord 1 14)
  | .sra d s1 s2 => some ((encRRR d s1 s2 : SFields).toWord 1 15)
  | .rot d s1 s2 => some ((encRRR d s1 s2 : SFields).toWord 1 16)
  | .min d s1 s2 => some ((encRRR d s1 s2 : SFields).toWord 1 17)
  | .max d s1 s2 => some ((encRRR d s1 s2 : SFields).toWord 1 18)
  | .minn d s1 s2 => some ((encRRR d s1 s2 : SFields).toWord 1 19)
  | .maxn d s1 s2 => some ((encRRR d s1 s2 : SFields).toWord 1 20)
  | .slt d s1 s2 => some ((encRRR d s1 s2 : SFields).toWord 1 21)
  | .sltn d s1 s2 => some ((encRRR d s1 s2 : SFields).toWord 1 22)
  | .seq d s1 s2 => some ((encRRR d s1 s2 : SFields).toWord 1 23)
  | .cmov d s1 s2 s3 => some ((encRRRR d s1 s2 s3 : SFields).toWord 1 24)
  | .clz d s1 => some ((encRR d s1 : SFields).toWord 1 25)
  | .ctz d s1 => some ((encRR d s1 : SFields).toWord 1 26)
  | .popc d s1 => some ((encRR d s1 : SFields).toWord 1 27)
  | .addImm d s1 imm => some ((encRRI d s1 imm : SFields).toWord 2 0)
  | .subImm d s1 imm => some ((encRRI d s1 imm : SFields).toWord 2 1)
  | .mulImm d s1 imm => some ((encRRI d s1 imm : SFields).toWord 2 2)
  | .mulhImm d s1 imm => some ((encRRI d s1 imm : SFields).toWord 2 3)
  | .mulhnImm d s1 imm => some ((encRRI d s1 imm : SFields).toWord 2 4)
  | .divImm d s1 imm => some ((encRRI d s1 imm : SFields).toWord 2 5)
  | .divnImm d s1 imm => some ((encRRI d s1 imm : SFields).toWord 2 6)
  | .remImm d s1 imm => some ((encRRI d s1 imm : SFields).toWord 2 7)
  | .remnImm d s1 imm => some ((encRRI d s1 imm : SFields).toWord 2 8)
  | .andImm d s1 imm => some ((encRRI d s1 imm : SFields).toWord 2 9)
  | .orImm d s1 imm => some ((encRRI d s1 imm : SFields).toWord 2 10)
  | .xorImm d s1 imm => some ((encRRI d s1 imm : SFields).toWord 2 11)
  | .andnImm d s1 imm => some ((encRRI d s1 imm : SFields).toWord 2 12)
  | .shlImm d s1 sh => some ((encRRSH d s1 sh : SFields).toWord 2 13)
  | .shrImm d s1 sh => some ((encRRSH d s1 sh : SFields).toWord 2 14)
  | .sraImm d s1 sh => some ((encRRSH d s1 sh : SFields).toWord 2 15)
  | .rotImm d s1 sh => some ((encRRSH d s1 sh : SFields).toWord 2 16)
  | .minImm d s1 imm => some ((encRRI d s1 imm : SFields).toWord 2 17)
  | .maxImm d s1 imm => some ((encRRI d s1 imm : SFields).toWord 2 18)
  | .minnImm d s1 imm => some ((encRRI d s1 imm : SFields).toWord 2 19)
  | .maxnImm d s1 imm => some ((encRRI d s1 imm : SFields).toWord 2 20)
  | .sltImm d s1 imm => some ((encRRI d s1 imm : SFields).toWord 2 21)
  | .sltnImm d s1 imm => some ((encRRI d s1 imm : SFields).toWord 2 22)
  | .seqImm d s1 imm => some ((encRRI d s1 imm : SFields).toWord 2 23)
  | .li d imm => some ((encRI d imm : SFields).toWord 3 0)
  | .lih d imm => some ((encRI d imm : SFields).toWord 3 1)
  | .fadd d s1 s2 f => some ((encF3 d s1 s2 f : SFields).toWord 4 0)
  | .fsub d s1 s2 f => some ((encF3 d s1 s2 f : SFields).toWord 4 1)
  | .fmul d s1 s2 f => some ((encF3 d s1 s2 f : SFields).toWord 4 2)
  | .ffma d s1 s2 s3 f => some ((encF4 d s1 s2 s3 f : SFields).toWord 4 3)
  | .fdiv d s1 s2 f => some ((encF3 d s1 s2 f : SFields).toWord 4 4)
  | .fsqrt d s1 s2 f => some ((encF3 d s1 s2 f : SFields).toWord 4 5)
  | .fmin d s1 s2 f => some ((encF3 d s1 s2 f : SFields).toWord 4 6)
  | .fmax d s1 s2 f => some ((encF3 d s1 s2 f : SFields).toWord 4 7)
  | .fcvt d s1 s2 dst src => some ((encFCVT d s1 s2 dst src : SFields).toWord 4 8)
  | .fcmpEq d s1 s2 f => some ((encF3 d s1 s2 f : SFields).toWord 4 9)
  | .fcmpLt d s1 s2 f => some ((encF3 d s1 s2 f : SFields).toWord 4 10)
  | .fcmpLe d s1 s2 f => some ((encF3 d s1 s2 f : SFields).toWord 4 11)
  | .fcmpUn d s1 s2 f => some ((encF3 d s1 s2 f : SFields).toWord 4 12)
  | .getc d num => some ((encGETC d num : SFields).toWord 5 0)
  | .setc num s1 => some ((encSETC num s1 : SFields).toWord 5 1)
  | .nop => some ((encNONE_S : SFields).toWord 5 2)
  | .setvl d s1 ty => some ((encSETVL d s1 ty : SFields).toWord 6 0)
  | .setvlm d m => some ((encSETVLM d m : SFields).toWord 6 1)
  | .qpush q s1 => some ((encQPUSH q s1 : SFields).toWord 7 0)
  | .qpop d q => some ((encQPOP d q : SFields).toWord 7 1)
  | .beq s1 s2 off => some ((encBR s1 s2 off : BFields).toWord 8 0)
  | .bne s1 s2 off => some ((encBR s1 s2 off : BFields).toWord 8 1)
  | .blt s1 s2 off => some ((encBR s1 s2 off : BFields).toWord 8 2)
  | .bge s1 s2 off => some ((encBR s1 s2 off : BFields).toWord 8 3)
  | .bltn s1 s2 off => some ((encBR s1 s2 off : BFields).toWord 8 4)
  | .bgen s1 s2 off => some ((encBR s1 s2 off : BFields).toWord 8 5)
  | .jal d off => some ((encJAL d off : BFields).toWord 8 6)
  | .jalr d s1 off => some ((encJALR d s1 off : BFields).toWord 8 7)
  | .bmskAny m off => some ((encBMSK m off : BFields).toWord 8 8)
  | .bmskNone m off => some ((encBMSK m off : BFields).toWord 8 9)
  | .lap n ty p0 p1 p2 p3 off => some ((encLAP n ty p0 p1 p2 p3 off).toWord)
  | .vfetch sel off => some ((encFETCH sel off : BFields).toWord 10 0)
  | .tfetch sel off => some ((encFETCH sel off : BFields).toWord 10 1)
  | .tstop sel => some ((encTSTOP sel : BFields).toWord 10 2)
  | .vloop n => some ((encVLOOP n : BFields).toWord 10 3)
  | .vloopS n trip stages => some ((encVLOOPS n trip stages : BFields).toWord 10 4)
  | .vadd p d s1 s2 => some ((encV2 p d s1 s2 : VFields).toWord 16 0)
  | .vsub p d s1 s2 => some ((encV2 p d s1 s2 : VFields).toWord 16 1)
  | .vmul p d s1 s2 => some ((encV2 p d s1 s2 : VFields).toWord 16 2)
  | .vmulh p d s1 s2 => some ((encV2 p d s1 s2 : VFields).toWord 16 3)
  | .vfma p d s1 s2 s3 => some ((encV3 p d s1 s2 s3 : VFields).toWord 16 4)
  | .vfms p d s1 s2 s3 => some ((encV3 p d s1 s2 s3 : VFields).toWord 16 5)
  | .vdiv p d s1 s2 => some ((encV2 p d s1 s2 : VFields).toWord 16 6)
  | .vsqrt p d s1 => some ((encV1 p d s1 : VFields).toWord 16 7)
  | .vrcp p d s1 => some ((encV1 p d s1 : VFields).toWord 16 8)
  | .vrsq p d s1 => some ((encV1 p d s1 : VFields).toWord 16 9)
  | .vexp2 p d s1 => some ((encV1 p d s1 : VFields).toWord 16 10)
  | .vlog2 p d s1 => some ((encV1 p d s1 : VFields).toWord 16 11)
  | .vmin p d s1 s2 => some ((encV2 p d s1 s2 : VFields).toWord 16 12)
  | .vmax p d s1 s2 => some ((encV2 p d s1 s2 : VFields).toWord 16 13)
  | .vabs p d s1 => some ((encV1 p d s1 : VFields).toWord 16 14)
  | .vneg p d s1 => some ((encV1 p d s1 : VFields).toWord 16 15)
  | .vand p d s1 s2 => some ((encV2 p d s1 s2 : VFields).toWord 16 16)
  | .vor p d s1 s2 => some ((encV2 p d s1 s2 : VFields).toWord 16 17)
  | .vxor p d s1 s2 => some ((encV2 p d s1 s2 : VFields).toWord 16 18)
  | .vnot p d s1 => some ((encV1 p d s1 : VFields).toWord 16 19)
  | .vshl p d s1 s2 => some ((encV2 p d s1 s2 : VFields).toWord 16 20)
  | .vshr p d s1 s2 => some ((encV2 p d s1 s2 : VFields).toWord 16 21)
  | .vsrr p d s1 s2 => some ((encV2 p d s1 s2 : VFields).toWord 16 22)
  | .vadds p d s1 s2 => some ((encV2 p d s1 s2 : VFields).toWord 16 23)
  | .vsubs p d s1 s2 => some ((encV2 p d s1 s2 : VFields).toWord 16 24)
  | .vmac2 p d s1 s2 s3 => some ((encV3 p d s1 s2 s3 : VFields).toWord 16 25)
  | .vsel p d s1 s2 => some ((encVSEL p d s1 s2 : VFields).toWord 16 26)
  | .vcmpEq p m s1 s2 => some ((encVCMP p m s1 s2 : VFields).toWord 16 32)
  | .vcmpNe p m s1 s2 => some ((encVCMP p m s1 s2 : VFields).toWord 16 33)
  | .vcmpLt p m s1 s2 => some ((encVCMP p m s1 s2 : VFields).toWord 16 34)
  | .vcmpLe p m s1 s2 => some ((encVCMP p m s1 s2 : VFields).toWord 16 35)
  | .vcmpGt p m s1 s2 => some ((encVCMP p m s1 s2 : VFields).toWord 16 36)
  | .vcmpGe p m s1 s2 => some ((encVCMP p m s1 s2 : VFields).toWord 16 37)
  | .vcmpUn p m s1 s2 => some ((encVCMP p m s1 s2 : VFields).toWord 16 38)
  | .vcmpOd p m s1 s2 => some ((encVCMP p m s1 s2 : VFields).toWord 16 39)
  | .vaddScalar p d s1 c => some ((encV2S p d s1 c : VFields).toWord 17 0)
  | .vsubScalar p d s1 c => some ((encV2S p d s1 c : VFields).toWord 17 1)
  | .vmulScalar p d s1 c => some ((encV2S p d s1 c : VFields).toWord 17 2)
  | .vmulhScalar p d s1 c => some ((encV2S p d s1 c : VFields).toWord 17 3)
  | .vfmaScalar p d s1 c s3 => some ((encV3S p d s1 c s3 : VFields).toWord 17 4)
  | .vfmsScalar p d s1 c s3 => some ((encV3S p d s1 c s3 : VFields).toWord 17 5)
  | .vdivScalar p d s1 c => some ((encV2S p d s1 c : VFields).toWord 17 6)
  | .vminScalar p d s1 c => some ((encV2S p d s1 c : VFields).toWord 17 12)
  | .vmaxScalar p d s1 c => some ((encV2S p d s1 c : VFields).toWord 17 13)
  | .vandScalar p d s1 c => some ((encV2S p d s1 c : VFields).toWord 17 16)
  | .vorScalar p d s1 c => some ((encV2S p d s1 c : VFields).toWord 17 17)
  | .vxorScalar p d s1 c => some ((encV2S p d s1 c : VFields).toWord 17 18)
  | .vshlScalar p d s1 c => some ((encV2S p d s1 c : VFields).toWord 17 20)
  | .vshrScalar p d s1 c => some ((encV2S p d s1 c : VFields).toWord 17 21)
  | .vsrrScalar p d s1 c => some ((encV2S p d s1 c : VFields).toWord 17 22)
  | .vaddsScalar p d s1 c => some ((encV2S p d s1 c : VFields).toWord 17 23)
  | .vsubsScalar p d s1 c => some ((encV2S p d s1 c : VFields).toWord 17 24)
  | .vmac2Scalar p d s1 c s3 => some ((encV3S p d s1 c s3 : VFields).toWord 17 25)
  | .vselScalar p d s1 c => some ((encVSELS p d s1 c : VFields).toWord 17 26)
  | .vcmpEqScalar p m s1 c => some ((encVCMPS p m s1 c : VFields).toWord 17 32)
  | .vcmpNeScalar p m s1 c => some ((encVCMPS p m s1 c : VFields).toWord 17 33)
  | .vcmpLtScalar p m s1 c => some ((encVCMPS p m s1 c : VFields).toWord 17 34)
  | .vcmpLeScalar p m s1 c => some ((encVCMPS p m s1 c : VFields).toWord 17 35)
  | .vcmpGtScalar p m s1 c => some ((encVCMPS p m s1 c : VFields).toWord 17 36)
  | .vcmpGeScalar p m s1 c => some ((encVCMPS p m s1 c : VFields).toWord 17 37)
  | .vcmpUnScalar p m s1 c => some ((encVCMPS p m s1 c : VFields).toWord 17 38)
  | .vcmpOdScalar p m s1 c => some ((encVCMPS p m s1 c : VFields).toWord 17 39)
  | .vaddImm p d s1 imm => some ((encV2I p d s1 imm : VFields).toWord 18 0)
  | .vsubImm p d s1 imm => some ((encV2I p d s1 imm : VFields).toWord 18 1)
  | .vmulImm p d s1 imm => some ((encV2I p d s1 imm : VFields).toWord 18 2)
  | .vminImm p d s1 imm => some ((encV2I p d s1 imm : VFields).toWord 18 12)
  | .vmaxImm p d s1 imm => some ((encV2I p d s1 imm : VFields).toWord 18 13)
  | .vandImm p d s1 imm => some ((encV2I p d s1 imm : VFields).toWord 18 16)
  | .vorImm p d s1 imm => some ((encV2I p d s1 imm : VFields).toWord 18 17)
  | .vxorImm p d s1 imm => some ((encV2I p d s1 imm : VFields).toWord 18 18)
  | .vshlImm p d s1 imm => some ((encV2I p d s1 imm : VFields).toWord 18 20)
  | .vshrImm p d s1 imm => some ((encV2I p d s1 imm : VFields).toWord 18 21)
  | .vsrrImm p d s1 imm => some ((encV2I p d s1 imm : VFields).toWord 18 22)
  | .vaddsImm p d s1 imm => some ((encV2I p d s1 imm : VFields).toWord 18 23)
  | .vsubsImm p d s1 imm => some ((encV2I p d s1 imm : VFields).toWord 18 24)
  | .vcmpEqImm p m s1 imm => some ((encVCMPI p m s1 imm : VFields).toWord 18 32)
  | .vcmpNeImm p m s1 imm => some ((encVCMPI p m s1 imm : VFields).toWord 18 33)
  | .vcmpLtImm p m s1 imm => some ((encVCMPI p m s1 imm : VFields).toWord 18 34)
  | .vcmpLeImm p m s1 imm => some ((encVCMPI p m s1 imm : VFields).toWord 18 35)
  | .vcmpGtImm p m s1 imm => some ((encVCMPI p m s1 imm : VFields).toWord 18 36)
  | .vcmpGeImm p m s1 imm => some ((encVCMPI p m s1 imm : VFields).toWord 18 37)
  | .vtag j v ty => some ((encVTAG j v ty : VFields).toWord 19 0)
  | .vretag j v ty => some ((encVTAG j v ty : VFields).toWord 19 1)
  | .vsplat p d c => some ((encVSPLAT p d c : VFields).toWord 19 2)
  | .vpush p q s1 => some ((encVPUSH p q s1 : VFields).toWord 19 3)
  | .vcvt p d s1 ty => some ((encVCVT p d s1 ty : VFields).toWord 20 0)
  | .vcvtS p d s1 ty => some ((encVCVT p d s1 ty : VFields).toWord 20 1)
  | .vqcvt p d s1 c s3 k => some ((encVQCVT p d s1 c s3 k : VFields).toWord 20 2)
  | .vdq p d s1 c s3 ty => some ((encVDQ p d s1 c s3 ty : VFields).toWord 20 3)
  | .vbfly p d s1 dist => some ((encVBFLY p d s1 dist : VFields).toWord 20 4)
  | .vbflyF j s1 dist => some ((encVBFLYF j s1 dist : VFields).toWord 20 5)
  | .vrand p d => some ((encVRAND p d : VFields).toWord 20 6)
  | .vutf8 j d s1 s2 h2 => some ((encVUTF8 j d s1 s2 h2 : VFields).toWord 20 7)
  | .mand j m a b => some ((encMM j m a b : VFields).toWord 21 0)
  | .mor j m a b => some ((encMM j m a b : VFields).toWord 21 1)
  | .mxor j m a b => some ((encMM j m a b : VFields).toWord 21 2)
  | .mnot j m a => some ((encMNOT j m a : VFields).toWord 21 3)
  | .mset j m b => some ((encMSET j m b : VFields).toWord 21 4)
  | .vslideup p d s1 amt fill => some ((encSLIDE p d s1 amt fill : VFields).toWord 22 0)
  | .vslidedn p d s1 amt fill => some ((encSLIDE p d s1 amt fill : VFields).toWord 22 1)
  | .vslideupImm p d s1 amt fill => some ((encSLIDEI p d s1 amt fill : VFields).toWord 22 2)
  | .vslidednImm p d s1 amt fill => some ((encSLIDEI p d s1 amt fill : VFields).toWord 22 3)
  | .vrgather p d s1 s2 => some ((encV2 p d s1 s2 : VFields).toWord 22 4)
  | .vrgather2 p d s1 s2 s3 => some ((encV3 p d s1 s2 s3 : VFields).toWord 22 5)
  | .vcompress p d s1 => some ((encV1M p d s1 : VFields).toWord 22 6)
  | .vexpand p d s1 => some ((encV1M p d s1 : VFields).toWord 22 7)
  | .viota p d m => some ((encVIOTA p d m : VFields).toWord 22 8)
  | .vextr j d s1 idx => some ((encVEXTR j d s1 idx : VFields).toWord 22 9)
  | .vextrImm j d s1 idx => some ((encVEXTRI j d s1 idx : VFields).toWord 22 10)
  | .vins j d c idx => some ((encVINS j d c idx : VFields).toWord 22 11)
  | .vinsImm j d c idx => some ((encVINSI j d c idx : VFields).toWord 22 12)
  | .vredsum j sel d s1 acc => some ((encVRED j sel d s1 acc : VFields).toWord 23 0)
  | .vredmax j sel d s1 acc => some ((encVRED j sel d s1 acc : VFields).toWord 23 1)
  | .vredmin j sel d s1 acc => some ((encVRED j sel d s1 acc : VFields).toWord 23 2)
  | .vredbitAnd j sel d s1 acc => some ((encVRED j sel d s1 acc : VFields).toWord 23 3)
  | .vredbitOr j sel d s1 acc => some ((encVRED j sel d s1 acc : VFields).toWord 23 4)
  | .vredbitXor j sel d s1 acc => some ((encVRED j sel d s1 acc : VFields).toWord 23 5)
  | .vscanSum p d s1 cin cout => some ((encVSCAN p d s1 cin cout : VFields).toWord 23 6)
  | .vscanMax p d s1 cin cout => some ((encVSCAN p d s1 cin cout : VFields).toWord 23 7)
  | .vscanMin p d s1 cin cout => some ((encVSCAN p d s1 cin cout : VFields).toWord 23 8)
  | .vscanSumX p d s1 cin cout => some ((encVSCAN p d s1 cin cout : VFields).toWord 23 9)
  | .vscanMaxX p d s1 cin cout => some ((encVSCAN p d s1 cin cout : VFields).toWord 23 10)
  | .vscanMinX p d s1 cin cout => some ((encVSCAN p d s1 cin cout : VFields).toWord 23 11)
  | .vargmax j sel d s1 => some ((encVARG j sel d s1 : VFields).toWord 23 12)
  | .vargmin j sel d s1 => some ((encVARG j sel d s1 : VFields).toWord 23 13)
  | .mpopc j sel d m => some ((encMCNT j sel d m : VFields).toWord 23 14)
  | .mfirst j sel d m => some ((encMCNT j sel d m : VFields).toWord 23 15)
  | .kset p k s1 => some ((encKSET p k s1 : VFields).toWord 24 0)
  | .kget p d k => some ((encKGET p d k : VFields).toWord 24 1)
  | .kupSum p d s1 k fm => some ((encKVAL p d s1 k fm : VFields).toWord 24 2)
  | .kupMax p d s1 k fm => some ((encKVAL p d s1 k fm : VFields).toWord 24 3)
  | .kupMin p d s1 k fm => some ((encKVAL p d s1 k fm : VFields).toWord 24 4)
  | .kdownSum p d s1 k fm => some ((encKVAL p d s1 k fm : VFields).toWord 24 5)
  | .kdownMax p d s1 k fm => some ((encKVAL p d s1 k fm : VFields).toWord 24 6)
  | .kdownMin p d s1 k fm => some ((encKVAL p d s1 k fm : VFields).toWord 24 7)
  | .kbcast p d s1 k fm => some ((encKVAL p d s1 k fm : VFields).toWord 24 8)
  | .kdepth p d k fm => some ((encKLNK p d k fm : VFields).toWord 24 9)
  | .kanc p d c k fm => some ((encKANC p d c k fm : VFields).toWord 24 10)
  | .kancIs p m s1 k fm => some ((encKANCIS p m s1 k fm : VFields).toWord 24 11)
  | .kcontract p kd k fm => some ((encKCON p kd k fm : VFields).toWord 24 12)
  | .kroot p d k fm => some ((encKLNK p d k fm : VFields).toWord 24 13)
  | .kcheck p m k => some ((encKCHK p m k : VFields).toWord 24 14)
  | .vld sel q base off => some ((encVLD sel q base off : VFields).toWord 32 0)
  | .vlds sel q base stride => some ((encVLDS sel q base stride : VFields).toWord 32 1)
  | .vldx sel q base list sc => some ((encVLDX sel q base list sc : VFields).toWord 32 2)
  | .vldff sel q base m off => some ((encVLDFF sel q base m off : VFields).toWord 32 3)
  | .vst sel q base off => some ((encVST sel q base off : VFields).toWord 32 4)
  | .vsts sel q base stride => some ((encVSTS sel q base stride : VFields).toWord 32 5)
  | .vstx sel q base list sc => some ((encVSTX sel q base list sc : VFields).toWord 32 6)
  | .vldw q base off => some ((encIMGL q base off : VFields).toWord 32 7)
  | .vstw q base off => some ((encIMGS q base off : VFields).toWord 32 8)
  | .vspl q base off => some ((encIMGS q base off : VFields).toWord 32 9)
  | .vfil q base off => some ((encIMGL q base off : VFields).toWord 32 10)
  | .vamo sel q base list sc op ret => some ((encVAMO sel q base list sc op ret : VFields).toWord 32 11)
  | .ldB d s1 ord off => some ((encLD d s1 ord off : SFields).toWord 33 0)
  | .ldH d s1 ord off => some ((encLD d s1 ord off : SFields).toWord 33 1)
  | .ldW d s1 ord off => some ((encLD d s1 ord off : SFields).toWord 33 2)
  | .ldD d s1 ord off => some ((encLD d s1 ord off : SFields).toWord 33 3)
  | .ldBn d s1 ord off => some ((encLD d s1 ord off : SFields).toWord 33 4)
  | .ldHn d s1 ord off => some ((encLD d s1 ord off : SFields).toWord 33 5)
  | .ldWn d s1 ord off => some ((encLD d s1 ord off : SFields).toWord 33 6)
  | .stB d s1 ord off => some ((encST d s1 ord off : SFields).toWord 34 0)
  | .stH d s1 ord off => some ((encST d s1 ord off : SFields).toWord 34 1)
  | .stW d s1 ord off => some ((encST d s1 ord off : SFields).toWord 34 2)
  | .stD d s1 ord off => some ((encST d s1 ord off : SFields).toWord 34 3)
  | .amoaddW d s1 s2 ord off => some ((encAMO d s1 s2 ord off : SFields).toWord 35 0)
  | .amoaddD d s1 s2 ord off => some ((encAMO d s1 s2 ord off : SFields).toWord 35 1)
  | .amoswapW d s1 s2 ord off => some ((encAMO d s1 s2 ord off : SFields).toWord 35 2)
  | .amoswapD d s1 s2 ord off => some ((encAMO d s1 s2 ord off : SFields).toWord 35 3)
  | .amocasW d s1 s2 ord off => some ((encAMO d s1 s2 ord off : SFields).toWord 35 4)
  | .amocasD d s1 s2 ord off => some ((encAMO d s1 s2 ord off : SFields).toWord 35 5)
  | .amominW d s1 s2 ord off => some ((encAMO d s1 s2 ord off : SFields).toWord 35 6)
  | .amominD d s1 s2 ord off => some ((encAMO d s1 s2 ord off : SFields).toWord 35 7)
  | .amomaxW d s1 s2 ord off => some ((encAMO d s1 s2 ord off : SFields).toWord 35 8)
  | .amomaxD d s1 s2 ord off => some ((encAMO d s1 s2 ord off : SFields).toWord 35 9)
  | .amoandW d s1 s2 ord off => some ((encAMO d s1 s2 ord off : SFields).toWord 35 10)
  | .amoandD d s1 s2 ord off => some ((encAMO d s1 s2 ord off : SFields).toWord 35 11)
  | .amoorW d s1 s2 ord off => some ((encAMO d s1 s2 ord off : SFields).toWord 35 12)
  | .amoorD d s1 s2 ord off => some ((encAMO d s1 s2 ord off : SFields).toWord 35 13)
  | .amoxorW d s1 s2 ord off => some ((encAMO d s1 s2 ord off : SFields).toWord 35 14)
  | .amoxorD d s1 s2 ord off => some ((encAMO d s1 s2 ord off : SFields).toWord 35 15)
  | .amominWn d s1 s2 ord off => some ((encAMO d s1 s2 ord off : SFields).toWord 35 16)
  | .amominDn d s1 s2 ord off => some ((encAMO d s1 s2 ord off : SFields).toWord 35 17)
  | .amomaxWn d s1 s2 ord off => some ((encAMO d s1 s2 ord off : SFields).toWord 35 18)
  | .amomaxDn d s1 s2 ord off => some ((encAMO d s1 s2 ord off : SFields).toWord 35 19)
  | .rsadd d s1 ord off => some ((encST d s1 ord off : SFields).toWord 35 20)
  | .rsfin d s1 ord off => some ((encLD d s1 ord off : SFields).toWord 35 21)
  | .cpy tag dst src n => some ((encCPY tag dst src n : EFields).toWord 36 0)
  | .cpy2 tag dst src rows rowBytes spitch dpitch sw => some ((encCPY2 tag dst src rows rowBytes spitch dpitch sw : EFields).toWord 36 1)
  | .cpyx tag dst dpitch base tpitch rowBytes list count limit sw => some ((encCPYX tag dst dpitch base tpitch rowBytes list count limit sw : EFields).toWord 36 2)
  | .pftopk tag blk => some ((encBLK tag blk : EFields).toWord 36 3)
  | .pfscan tag blk => some ((encBLK tag blk : EFields).toWord 36 4)
  | .seam tag blk => some ((encBLK tag blk : EFields).toWord 36 5)
  | .fcinv e1 e2 => some ((encE2 e1 e2 : EFields).toWord 36 6)
  | .fcwb e1 e2 => some ((encE2 e1 e2 : EFields).toWord 36 7)
  | .twany e1 => some ((encE1 e1 : EFields).toWord 37 0)
  | .twall e1 => some ((encE1 e1 : EFields).toWord 37 1)
  | .tfirst e1 e2 => some ((encE2 e1 e2 : EFields).toWord 37 2)
  | .tclr e1 => some ((encE1 e1 : EFields).toWord 37 3)
  | .qfence qmask => some ((encQF qmask : EFields).toWord 37 4)
  | .settl c1 c2 c3 => some ((encC3 c1 c2 c3 : MFields).toWord 40 0)
  | .mclaim => some ((encM0 : MFields).toWord 40 1)
  | .mrel => some ((encM0 : MFields).toWord 40 2)
  | .mzero t => some ((encMT t : MFields).toWord 40 3)
  | .mstageA c1 v planes => some ((encSTG c1 v planes : MFields).toWord 40 4)
  | .mstageB c1 v planes => some ((encSTG c1 v planes : MFields).toWord 40 5)
  | .mma t c1 c2 => some ((encMMA t c1 c2 : MFields).toWord 40 6)
  | .mldt t c1 tt => some ((encMLDT t c1 tt : MFields).toWord 40 7)
  | .mstt t c1 => some ((encMSTT t c1 : MFields).toWord 40 8)
  | .mtov v t c1 => some ((encMTOV v t c1 : MFields).toWord 40 9)
  | .fenceSv scope => some ((encFEN scope : YFields).toWord 48 0)
  | .fenceVs scope => some ((encFEN scope : YFields).toWord 48 1)
  | .fenceVv scope => some ((encFEN scope : YFields).toWord 48 2)
  | .fenceAll scope => some ((encFEN scope : YFields).toWord 48 3)
  | .gbar => some ((encY0 : YFields).toWord 48 4)
  | .waitmEq s1 s2 => some ((encWM s1 s2 : YFields).toWord 48 5)
  | .waitmNe s1 s2 => some ((encWM s1 s2 : YFields).toWord 48 6)
  | .yield => some ((encY0 : YFields).toWord 48 7)
  | .vrel => some ((encY0 : YFields).toWord 48 8)
  | .hexit => some ((encY0 : YFields).toWord 48 9)
  | .glaunch d s1 s2 => some ((encGL d s1 s2 : YFields).toWord 48 10)
  | .trap imm => some ((encIMM20 imm : YFields).toWord 48 11)
  | .brk imm => some ((encIMM20 imm : YFields).toWord 48 12)
  | .hcall imm => some ((encIMM20 imm : YFields).toWord 48 13)
  | .eret => some ((encY0 : YFields).toWord 48 14)
  | .sgetc d num => some ((encSG d num : YFields).toWord 48 15)
  | .ssetc num s1 => some ((encSS num s1 : YFields).toWord 48 16)
  | .ktlbiVa s1 s2 => some ((encWM s1 s2 : YFields).toWord 48 17)
  | .ktlbiPart s2 => some ((encKP s2 : YFields).toWord 48 18)
  | .ktlbiAll => some ((encY0 : YFields).toWord 48 19)
  | .viqCommit _ => none
  | .vfetchPass _ => none
  | .matrixQueuePerform _ => none
  | .mclaimGrant _ => none
  | .vectorLoadDelivery _ _ => none
  | .engineCommandStart _ _ => none
  | .shuttleComplete _ => none
  | .photoFinishComplete _ => none
  | .seamComplete _ => none
  | .cacheOpComplete _ => none
  | .rsaddRenormalise _ => none
  | .dirtyLineWriteback _ _ => none
  | .queueDeadlockTrap _ => none
  | .gbarComplete _ _ => none
  | .waitmWake _ => none
  | .waitmTimeout _ => none
  | .hartRetire _ => none
  | .launchPacketWrite _ _ _ _ _ => none
  | .qcfgWrite _ _ _ _ => none
  | .pquantWrite _ _ _ => none
  | .headPacketCheck _ _ => none
  | .headWaitRecheck _ _ => none
  | .starterRound _ => none
  | .preemptionStart _ _ => none
  | .preemptDeadlineExpiry _ _ _ => none
  | .saveComplete _ => none
  | .hartResume _ => none
  | .gforcePreempt _ _ _ => none
  | .gforceEnd _ _ _ => none
  | .tlbinvPage _ _ _ => none
  | .tlbinvPartition _ _ _ => none
  | .tlbinvComplete _ => none
  | .replayRetry _ _ _ => none
  | .replayDecline _ _ _ => none
  | .fqptrWrite _ _ _ => none
  | .priResponse _ _ _ => none
  | .hostDeviceWrite _ _ _ => none
  | .hostDeviceRead _ _ _ => none
  | .hostAtomicop _ _ => none
  | .peerRequest _ _ => none
  | .errorDetected _ => none
  | .recoveryComplete _ _ => none
  | .fatalError _ _ => none
  | .dumpComplete => none
  | .thermalTrip => none
  | .thermalThrottle _ => none
  | .plimitWrite _ _ => none
  | .pshapeWrite _ _ _ => none
  | .fqbaseWrite _ _ _ => none
  | .elbaseWrite _ _ => none
  | .telemetrySnapshot _ _ => none
  | .telemetrySnapshotDone => none
  | .attestationRequest _ _ => none
  | .attestationDone => none
  | .firmwareBoot _ _ => none
  | .vfFunctionLevelReset _ => none
  | .pfFunctionLevelReset => none
  | .registerWrite _ _ _ => none
  | .accessPerformed _ _ => none
  | .farCacheLineEviction _ _ => none
  | .powerCapThrottle _ => none
  | .powerLoss => none
  | .trappedHartResume _ _ _ => none

/-- The encoder: the 64-bit word of a well-formed instruction (R145). -/
def encode (i : Instr) : Option Word := (encodeNat i).map (BitVec.ofNat 64)

/-- Which threads may run an instruction (R14; the queue directions of QPUSH and QPOP included). -/
def Instr.allowed : Instr → Thread → Bool
  | .add _ _ _, _ => true
  | .sub _ _ _, _ => true
  | .mul _ _ _, _ => true
  | .mulh _ _ _, _ => true
  | .mulhn _ _ _, _ => true
  | .div _ _ _, _ => true
  | .divn _ _ _, _ => true
  | .rem _ _ _, _ => true
  | .remn _ _ _, _ => true
  | .and _ _ _, _ => true
  | .or _ _ _, _ => true
  | .xor _ _ _, _ => true
  | .andn _ _ _, _ => true
  | .shl _ _ _, _ => true
  | .shr _ _ _, _ => true
  | .sra _ _ _, _ => true
  | .rot _ _ _, _ => true
  | .min _ _ _, _ => true
  | .max _ _ _, _ => true
  | .minn _ _ _, _ => true
  | .maxn _ _ _, _ => true
  | .slt _ _ _, _ => true
  | .sltn _ _ _, _ => true
  | .seq _ _ _, _ => true
  | .cmov _ _ _ _, _ => true
  | .clz _ _, _ => true
  | .ctz _ _, _ => true
  | .popc _ _, _ => true
  | .addImm _ _ _, _ => true
  | .subImm _ _ _, _ => true
  | .mulImm _ _ _, _ => true
  | .mulhImm _ _ _, _ => true
  | .mulhnImm _ _ _, _ => true
  | .divImm _ _ _, _ => true
  | .divnImm _ _ _, _ => true
  | .remImm _ _ _, _ => true
  | .remnImm _ _ _, _ => true
  | .andImm _ _ _, _ => true
  | .orImm _ _ _, _ => true
  | .xorImm _ _ _, _ => true
  | .andnImm _ _ _, _ => true
  | .shlImm _ _ _, _ => true
  | .shrImm _ _ _, _ => true
  | .sraImm _ _ _, _ => true
  | .rotImm _ _ _, _ => true
  | .minImm _ _ _, _ => true
  | .maxImm _ _ _, _ => true
  | .minnImm _ _ _, _ => true
  | .maxnImm _ _ _, _ => true
  | .sltImm _ _ _, _ => true
  | .sltnImm _ _ _, _ => true
  | .seqImm _ _ _, _ => true
  | .li _ _, _ => true
  | .lih _ _, _ => true
  | .fadd _ _ _ _, _ => true
  | .fsub _ _ _ _, _ => true
  | .fmul _ _ _ _, _ => true
  | .ffma _ _ _ _ _, _ => true
  | .fdiv _ _ _ _, _ => true
  | .fsqrt _ _ _ _, _ => true
  | .fmin _ _ _ _, _ => true
  | .fmax _ _ _ _, _ => true
  | .fcvt _ _ _ _ _, _ => true
  | .fcmpEq _ _ _ _, _ => true
  | .fcmpLt _ _ _ _, _ => true
  | .fcmpLe _ _ _ _, _ => true
  | .fcmpUn _ _ _ _, _ => true
  | .getc _ _, _ => true
  | .setc _ _, _ => true
  | .nop, _ => true
  | .setvl _ _ _, _ => true
  | .setvlm _ _, t => t == .anchor
  | .qpush q _, t => (q == .qc) == (t == .pacer)
  | .qpop _ q, t => (q == .qa) == (t == .pacer)
  | .beq _ _ _, _ => true
  | .bne _ _ _, _ => true
  | .blt _ _ _, _ => true
  | .bge _ _ _, _ => true
  | .bltn _ _ _, _ => true
  | .bgen _ _ _, _ => true
  | .jal _ _, _ => true
  | .jalr _ _ _, _ => true
  | .bmskAny _ _, t => t == .anchor
  | .bmskNone _ _, t => t == .anchor
  | .lap _ _ _ _ _ _ _, _ => true
  | .vfetch _ _, t => t == .anchor
  | .tfetch _ _, t => t == .anchor
  | .tstop _, t => t == .anchor
  | .vloop _, t => t == .anchor
  | .vloopS _ _ _, t => t == .anchor
  | .vadd _ _ _ _, t => t == .anchor
  | .vsub _ _ _ _, t => t == .anchor
  | .vmul _ _ _ _, t => t == .anchor
  | .vmulh _ _ _ _, t => t == .anchor
  | .vfma _ _ _ _ _, t => t == .anchor
  | .vfms _ _ _ _ _, t => t == .anchor
  | .vdiv _ _ _ _, t => t == .anchor
  | .vsqrt _ _ _, t => t == .anchor
  | .vrcp _ _ _, t => t == .anchor
  | .vrsq _ _ _, t => t == .anchor
  | .vexp2 _ _ _, t => t == .anchor
  | .vlog2 _ _ _, t => t == .anchor
  | .vmin _ _ _ _, t => t == .anchor
  | .vmax _ _ _ _, t => t == .anchor
  | .vabs _ _ _, t => t == .anchor
  | .vneg _ _ _, t => t == .anchor
  | .vand _ _ _ _, t => t == .anchor
  | .vor _ _ _ _, t => t == .anchor
  | .vxor _ _ _ _, t => t == .anchor
  | .vnot _ _ _, t => t == .anchor
  | .vshl _ _ _ _, t => t == .anchor
  | .vshr _ _ _ _, t => t == .anchor
  | .vsrr _ _ _ _, t => t == .anchor
  | .vadds _ _ _ _, t => t == .anchor
  | .vsubs _ _ _ _, t => t == .anchor
  | .vmac2 _ _ _ _ _, t => t == .anchor
  | .vsel _ _ _ _, t => t == .anchor
  | .vcmpEq _ _ _ _, t => t == .anchor
  | .vcmpNe _ _ _ _, t => t == .anchor
  | .vcmpLt _ _ _ _, t => t == .anchor
  | .vcmpLe _ _ _ _, t => t == .anchor
  | .vcmpGt _ _ _ _, t => t == .anchor
  | .vcmpGe _ _ _ _, t => t == .anchor
  | .vcmpUn _ _ _ _, t => t == .anchor
  | .vcmpOd _ _ _ _, t => t == .anchor
  | .vaddScalar _ _ _ _, t => t == .anchor
  | .vsubScalar _ _ _ _, t => t == .anchor
  | .vmulScalar _ _ _ _, t => t == .anchor
  | .vmulhScalar _ _ _ _, t => t == .anchor
  | .vfmaScalar _ _ _ _ _, t => t == .anchor
  | .vfmsScalar _ _ _ _ _, t => t == .anchor
  | .vdivScalar _ _ _ _, t => t == .anchor
  | .vminScalar _ _ _ _, t => t == .anchor
  | .vmaxScalar _ _ _ _, t => t == .anchor
  | .vandScalar _ _ _ _, t => t == .anchor
  | .vorScalar _ _ _ _, t => t == .anchor
  | .vxorScalar _ _ _ _, t => t == .anchor
  | .vshlScalar _ _ _ _, t => t == .anchor
  | .vshrScalar _ _ _ _, t => t == .anchor
  | .vsrrScalar _ _ _ _, t => t == .anchor
  | .vaddsScalar _ _ _ _, t => t == .anchor
  | .vsubsScalar _ _ _ _, t => t == .anchor
  | .vmac2Scalar _ _ _ _ _, t => t == .anchor
  | .vselScalar _ _ _ _, t => t == .anchor
  | .vcmpEqScalar _ _ _ _, t => t == .anchor
  | .vcmpNeScalar _ _ _ _, t => t == .anchor
  | .vcmpLtScalar _ _ _ _, t => t == .anchor
  | .vcmpLeScalar _ _ _ _, t => t == .anchor
  | .vcmpGtScalar _ _ _ _, t => t == .anchor
  | .vcmpGeScalar _ _ _ _, t => t == .anchor
  | .vcmpUnScalar _ _ _ _, t => t == .anchor
  | .vcmpOdScalar _ _ _ _, t => t == .anchor
  | .vaddImm _ _ _ _, t => t == .anchor
  | .vsubImm _ _ _ _, t => t == .anchor
  | .vmulImm _ _ _ _, t => t == .anchor
  | .vminImm _ _ _ _, t => t == .anchor
  | .vmaxImm _ _ _ _, t => t == .anchor
  | .vandImm _ _ _ _, t => t == .anchor
  | .vorImm _ _ _ _, t => t == .anchor
  | .vxorImm _ _ _ _, t => t == .anchor
  | .vshlImm _ _ _ _, t => t == .anchor
  | .vshrImm _ _ _ _, t => t == .anchor
  | .vsrrImm _ _ _ _, t => t == .anchor
  | .vaddsImm _ _ _ _, t => t == .anchor
  | .vsubsImm _ _ _ _, t => t == .anchor
  | .vcmpEqImm _ _ _ _, t => t == .anchor
  | .vcmpNeImm _ _ _ _, t => t == .anchor
  | .vcmpLtImm _ _ _ _, t => t == .anchor
  | .vcmpLeImm _ _ _ _, t => t == .anchor
  | .vcmpGtImm _ _ _ _, t => t == .anchor
  | .vcmpGeImm _ _ _ _, t => t == .anchor
  | .vtag _ _ _, t => t == .anchor
  | .vretag _ _ _, t => t == .anchor
  | .vsplat _ _ _, t => t == .anchor
  | .vpush _ _ _, t => t == .anchor
  | .vcvt _ _ _ _, t => t == .anchor
  | .vcvtS _ _ _ _, t => t == .anchor
  | .vqcvt _ _ _ _ _ _, t => t == .anchor
  | .vdq _ _ _ _ _ _, t => t == .anchor
  | .vbfly _ _ _ _, t => t == .anchor
  | .vbflyF _ _ _, t => t == .anchor
  | .vrand _ _, t => t == .anchor
  | .vutf8 _ _ _ _ _, t => t == .anchor
  | .mand _ _ _ _, t => t == .anchor
  | .mor _ _ _ _, t => t == .anchor
  | .mxor _ _ _ _, t => t == .anchor
  | .mnot _ _ _, t => t == .anchor
  | .mset _ _ _, t => t == .anchor
  | .vslideup _ _ _ _ _, t => t == .anchor
  | .vslidedn _ _ _ _ _, t => t == .anchor
  | .vslideupImm _ _ _ _ _, t => t == .anchor
  | .vslidednImm _ _ _ _ _, t => t == .anchor
  | .vrgather _ _ _ _, t => t == .anchor
  | .vrgather2 _ _ _ _ _, t => t == .anchor
  | .vcompress _ _ _, t => t == .anchor
  | .vexpand _ _ _, t => t == .anchor
  | .viota _ _ _, t => t == .anchor
  | .vextr _ _ _ _, t => t == .anchor
  | .vextrImm _ _ _ _, t => t == .anchor
  | .vins _ _ _ _, t => t == .anchor
  | .vinsImm _ _ _ _, t => t == .anchor
  | .vredsum _ _ _ _ _, t => t == .anchor
  | .vredmax _ _ _ _ _, t => t == .anchor
  | .vredmin _ _ _ _ _, t => t == .anchor
  | .vredbitAnd _ _ _ _ _, t => t == .anchor
  | .vredbitOr _ _ _ _ _, t => t == .anchor
  | .vredbitXor _ _ _ _ _, t => t == .anchor
  | .vscanSum _ _ _ _ _, t => t == .anchor
  | .vscanMax _ _ _ _ _, t => t == .anchor
  | .vscanMin _ _ _ _ _, t => t == .anchor
  | .vscanSumX _ _ _ _ _, t => t == .anchor
  | .vscanMaxX _ _ _ _ _, t => t == .anchor
  | .vscanMinX _ _ _ _ _, t => t == .anchor
  | .vargmax _ _ _ _, t => t == .anchor
  | .vargmin _ _ _ _, t => t == .anchor
  | .mpopc _ _ _ _, t => t == .anchor
  | .mfirst _ _ _ _, t => t == .anchor
  | .kset _ _ _, t => t == .anchor
  | .kget _ _ _, t => t == .anchor
  | .kupSum _ _ _ _ _, t => t == .anchor
  | .kupMax _ _ _ _ _, t => t == .anchor
  | .kupMin _ _ _ _ _, t => t == .anchor
  | .kdownSum _ _ _ _ _, t => t == .anchor
  | .kdownMax _ _ _ _ _, t => t == .anchor
  | .kdownMin _ _ _ _ _, t => t == .anchor
  | .kbcast _ _ _ _ _, t => t == .anchor
  | .kdepth _ _ _ _, t => t == .anchor
  | .kanc _ _ _ _ _, t => t == .anchor
  | .kancIs _ _ _ _ _, t => t == .anchor
  | .kcontract _ _ _ _, t => t == .anchor
  | .kroot _ _ _ _, t => t == .anchor
  | .kcheck _ _ _, t => t == .anchor
  | .vld _ _ _ _, t => t == .pacer
  | .vlds _ _ _ _, t => t == .pacer
  | .vldx _ _ _ _ _, t => t == .pacer
  | .vldff _ _ _ _ _, t => t == .pacer
  | .vst _ _ _ _, t => t == .pacer
  | .vsts _ _ _ _, t => t == .pacer
  | .vstx _ _ _ _ _, t => t == .pacer
  | .vldw _ _ _, t => t == .pacer
  | .vstw _ _ _, t => t == .pacer
  | .vspl _ _ _, t => t == .pacer
  | .vfil _ _ _, t => t == .pacer
  | .vamo _ _ _ _ _ _ _, t => t == .pacer
  | .ldB _ _ _ _, t => t == .pacer
  | .ldH _ _ _ _, t => t == .pacer
  | .ldW _ _ _ _, t => t == .pacer
  | .ldD _ _ _ _, t => t == .pacer
  | .ldBn _ _ _ _, t => t == .pacer
  | .ldHn _ _ _ _, t => t == .pacer
  | .ldWn _ _ _ _, t => t == .pacer
  | .stB _ _ _ _, t => t == .pacer
  | .stH _ _ _ _, t => t == .pacer
  | .stW _ _ _ _, t => t == .pacer
  | .stD _ _ _ _, t => t == .pacer
  | .amoaddW _ _ _ _ _, t => t == .pacer
  | .amoaddD _ _ _ _ _, t => t == .pacer
  | .amoswapW _ _ _ _ _, t => t == .pacer
  | .amoswapD _ _ _ _ _, t => t == .pacer
  | .amocasW _ _ _ _ _, t => t == .pacer
  | .amocasD _ _ _ _ _, t => t == .pacer
  | .amominW _ _ _ _ _, t => t == .pacer
  | .amominD _ _ _ _ _, t => t == .pacer
  | .amomaxW _ _ _ _ _, t => t == .pacer
  | .amomaxD _ _ _ _ _, t => t == .pacer
  | .amoandW _ _ _ _ _, t => t == .pacer
  | .amoandD _ _ _ _ _, t => t == .pacer
  | .amoorW _ _ _ _ _, t => t == .pacer
  | .amoorD _ _ _ _ _, t => t == .pacer
  | .amoxorW _ _ _ _ _, t => t == .pacer
  | .amoxorD _ _ _ _ _, t => t == .pacer
  | .amominWn _ _ _ _ _, t => t == .pacer
  | .amominDn _ _ _ _ _, t => t == .pacer
  | .amomaxWn _ _ _ _ _, t => t == .pacer
  | .amomaxDn _ _ _ _ _, t => t == .pacer
  | .rsadd _ _ _ _, t => t == .pacer
  | .rsfin _ _ _ _, t => t == .pacer
  | .cpy _ _ _ _, t => t == .pacer
  | .cpy2 _ _ _ _ _ _ _ _, t => t == .pacer
  | .cpyx _ _ _ _ _ _ _ _ _ _, t => t == .pacer
  | .pftopk _ _, t => t == .pacer
  | .pfscan _ _, t => t == .pacer
  | .seam _ _, t => t == .pacer
  | .fcinv _ _, t => t == .pacer
  | .fcwb _ _, t => t == .pacer
  | .twany _, t => t == .pacer
  | .twall _, t => t == .pacer
  | .tfirst _ _, t => t == .pacer
  | .tclr _, t => t == .pacer
  | .qfence _, t => t == .pacer
  | .settl _ _ _, t => t == .anchor
  | .mclaim, t => t == .anchor
  | .mrel, t => t == .anchor
  | .mzero _, t => t == .anchor
  | .mstageA _ _ _, t => t == .anchor
  | .mstageB _ _ _, t => t == .anchor
  | .mma _ _ _, t => t == .anchor
  | .mldt _ _ _, t => t == .anchor
  | .mstt _ _, t => t == .anchor
  | .mtov _ _ _, t => t == .anchor
  | .fenceSv _, t => t == .pacer
  | .fenceVs _, t => t == .pacer
  | .fenceVv _, t => t == .pacer
  | .fenceAll _, t => t == .pacer
  | .gbar, _ => true
  | .waitmEq _ _, t => t == .pacer
  | .waitmNe _ _, t => t == .pacer
  | .yield, _ => true
  | .vrel, _ => true
  | .hexit, _ => true
  | .glaunch _ _ _, t => t == .pacer
  | .trap _, _ => true
  | .brk _, _ => true
  | .hcall _, _ => true
  | .eret, _ => true
  | .sgetc _ _, _ => true
  | .ssetc _ _, _ => true
  | .ktlbiVa _ _, t => t == .pacer
  | .ktlbiPart _, t => t == .pacer
  | .ktlbiAll, t => t == .pacer
  | .viqCommit _, _ => false
  | .vfetchPass _, _ => false
  | .matrixQueuePerform _, _ => false
  | .mclaimGrant _, _ => false
  | .vectorLoadDelivery _ _, _ => false
  | .engineCommandStart _ _, _ => false
  | .shuttleComplete _, _ => false
  | .photoFinishComplete _, _ => false
  | .seamComplete _, _ => false
  | .cacheOpComplete _, _ => false
  | .rsaddRenormalise _, _ => false
  | .dirtyLineWriteback _ _, _ => false
  | .queueDeadlockTrap _, _ => false
  | .gbarComplete _ _, _ => false
  | .waitmWake _, _ => false
  | .waitmTimeout _, _ => false
  | .hartRetire _, _ => false
  | .launchPacketWrite _ _ _ _ _, _ => false
  | .qcfgWrite _ _ _ _, _ => false
  | .pquantWrite _ _ _, _ => false
  | .headPacketCheck _ _, _ => false
  | .headWaitRecheck _ _, _ => false
  | .starterRound _, _ => false
  | .preemptionStart _ _, _ => false
  | .preemptDeadlineExpiry _ _ _, _ => false
  | .saveComplete _, _ => false
  | .hartResume _, _ => false
  | .gforcePreempt _ _ _, _ => false
  | .gforceEnd _ _ _, _ => false
  | .tlbinvPage _ _ _, _ => false
  | .tlbinvPartition _ _ _, _ => false
  | .tlbinvComplete _, _ => false
  | .replayRetry _ _ _, _ => false
  | .replayDecline _ _ _, _ => false
  | .fqptrWrite _ _ _, _ => false
  | .priResponse _ _ _, _ => false
  | .hostDeviceWrite _ _ _, _ => false
  | .hostDeviceRead _ _ _, _ => false
  | .hostAtomicop _ _, _ => false
  | .peerRequest _ _, _ => false
  | .errorDetected _, _ => false
  | .recoveryComplete _ _, _ => false
  | .fatalError _ _, _ => false
  | .dumpComplete, _ => false
  | .thermalTrip, _ => false
  | .thermalThrottle _, _ => false
  | .plimitWrite _ _, _ => false
  | .pshapeWrite _ _ _, _ => false
  | .fqbaseWrite _ _ _, _ => false
  | .elbaseWrite _ _, _ => false
  | .telemetrySnapshot _ _, _ => false
  | .telemetrySnapshotDone, _ => false
  | .attestationRequest _ _, _ => false
  | .attestationDone, _ => false
  | .firmwareBoot _ _, _ => false
  | .vfFunctionLevelReset _, _ => false
  | .pfFunctionLevelReset, _ => false
  | .registerWrite _ _ _, _ => false
  | .accessPerformed _ _, _ => false
  | .farCacheLineEviction _ _, _ => false
  | .powerCapThrottle _, _ => false
  | .powerLoss, _ => false
  | .trappedHartResume _ _ _, _ => false

end Sys2Proof
end

