-- ==== Sys2Proof/Config.lean ====
section
/-! DEFINITION. What one device fixes and the free values: constants without a body, so that no proof can see
what they are. Each is named in the assumption log. -/
namespace Sys2Proof.Config

/-- The interleaving of the agents and the moment of every outside event, where the state's agenda gives none (log 1). -/
opaque schedule : Nat → Turn

/-- The PASID of each partition while the PF's driver has set none that the model knows: the spec gives no register for it and no value
(R368, log 57). -/
opaque pasid : Fin 8 → BitVec 20

/-- What an undefined result holds (R6): a function of the inputs of what made it and of the place within the result, so that
it is the same on every repetition (log 6). -/
opaque undefined : (inputs : List Nat) → (place : Nat) → Word

/-- The stream of free choices: an order no rule fixes, what an error or an outside event leaves open (log 6). -/
opaque freeBits : Nat → Word

/-- The fixed offset of each die's cycle counter (R67, R417; log 4). -/
opaque cycleOffset : Nat → Nat

/-- `featver`.STEP, the stepping of the silicon (R66; log 5). -/
opaque step : BitVec 8

/-- The device's lane-layout identifiers: a number for each register size, no two alike (log 12). -/
opaque laneIds : Equiv.Perm (BitVec 16)

/-- The lane-layout identifier for a register size in bytes (R242); the six classes differ in size, and so in it (R255). -/
def laneLayout (bytes : Nat) : BitVec 16 := laneIds (BitVec.ofNat 16 bytes)

/-- The lane layout itself: which element each place of a body of so many bytes holds, for elements of so many bits (R54, R242,
R391; log 12). Nothing is known of it but that it is a rearrangement of the elements. -/
opaque laneOrder : (bytes : Nat) → (bits : Nat) → Equiv.Perm (Fin (8 * bytes / bits))

/-- The row, within its bank, that holds an 8-byte word of a slice, by the word's number (R103, R403; log 15). -/
opaque nearRow : Nat → Nat

/-- The row of an HBM stack that holds a 64-byte unit, by the unit's number (R402, R403; log 15). -/
opaque hbmRow : Nat → Nat

/-- The bank of a stack's row (R404; log 15). -/
opaque hbmBank : Nat → Nat

/-- The identity key's HSS signature with a leaf: leaf counter, message (R410, R411; log 13). Its secret lies inside the device. -/
opaque hssSign : Nat → List Byte → List Byte

/-- The fused digest of Broderauk's public key (R408; log 13). -/
opaque fusedDigest : List Byte

/-- SHA-256 of the Starter microcode, reported by an attestation (R411; log 13). -/
opaque microcodeDigest : List Byte

/-- The fields of a firmware image's header, which R408 names without their places (log 13): MAGIC, the image length, SVN, the digest of the
body, the signature, the public key. -/
opaque fwMagic : List Byte → Nat
opaque fwLength : List Byte → Nat
opaque fwSvn : List Byte → BitVec 8
opaque fwDigest : List Byte → List Byte
opaque fwSignature : List Byte → Vector Byte 1616
opaque fwKey : List Byte → List Byte

/-- Whether a host page can be reached through the PF's translation (R398, R411, R417; log 11). -/
opaque hostReachable : Nat → Bool

end Sys2Proof.Config
end

