-- ==== Sys2Proof/Machine/State.lean ====
section
/-! DEFINITION. The state of the device as plain data: everything spec/ gives the machine (INVENTORY.md lists it line by
line), the model's own fields beside it, the ways a step can stop, and the state after reset. -/
namespace Sys2Proof.Machine

open Sys2Proof

/-! ### Registers and rows -/

/-- Which unit of a hart executes an instruction. -/
inductive ExecUnit where
  | pacer | anchor | vector
deriving DecidableEq, Repr, Inhabited

/-- The 32 scalar registers of a thread (R47). -/
abbrev ScalarFile := Vector Word 32

/-- A value register (R48): its type (none: dead), its dirty bit, and its elements from 0 to the valid length, which is
the list's length. Poisoned elements (R402) are listed by index. -/
structure VReg where
  ty : Option ElemType
  dirty : Bool
  elems : List Word
  poison : List Nat
deriving DecidableEq, Repr, Inhabited

/-- A topology register (R55): its dirty bit and its entries up to the valid length. -/
structure KReg where
  dirty : Bool
  links : List (BitVec 16)
deriving DecidableEq, Repr, Inhabited

/-- A row of a baton queue with its type tag; its element count is the list's length (R15, R17). -/
structure Row where
  ty : ElemType
  elems : List Word
  poison : List Nat
deriving DecidableEq, Repr, Inhabited

/-- The tag of a tile (R57). -/
inductive TileTag where
  | empty | f32 | i32
deriving DecidableEq, Repr, Inhabited

/-- A tile of a matrix context: its tag, and its 64 × 64 elements in row-major order, none listed when it is empty (R57). -/
structure TileData where
  tag : TileTag
  elems : List (BitVec 32)
  poison : Bool
deriving DecidableEq, Repr, Inhabited

/-- The granted M, N and K (R57, R66). -/
structure Shape where
  m : Nat
  n : Nat
  k : Nat
deriving DecidableEq, Repr, Inhabited

/-! ### Accesses on their way -/

/-- The two memory agents of a Pacer (R322). -/
inductive Side where
  | scalar | vector
deriving DecidableEq, Repr, Inhabited

/-- Where the bits of a load's element come from: a value already fixed (0 for an inactive element), poison, the bytes at a
location, or half of one byte (QN4, R83); cached says that the page is cacheable. -/
inductive ElemSource where
  | value (w : Word)
  | poison
  | bytes (loc : Nat) (cached : Bool)
  | nibble (loc : Nat) (high : Bool) (cached : Bool)
deriving DecidableEq, Repr, Inhabited

/-- A vector load in flight to a load queue (R18, R239). -/
structure LoadFlight where
  q : Fin 4
  ty : ElemType
  elems : List ElemSource
deriving DecidableEq, Repr, Inhabited

/-- The vector loads (R237), without the registers they capture: consecutive, strided, indexed, first-fault, an image in
the lane layout, an image in element order. -/
inductive LoadForm where
  | unit (sel : MaskSel) (q : Fin 4) (off : BitVec 16)
  | strided (sel : MaskSel) (q : Fin 4)
  | indexed (sel : MaskSel) (q : Fin 4) (sc : Fin 4)
  | firstFault (q : Fin 4) (m : MaskReg) (off : BitVec 16)
  | lanes (q : Fin 4) (off : BitVec 16)
  | packed (q : Fin 4) (off : BitVec 16)
deriving DecidableEq, Repr, Inhabited

/-- The load queue it names. -/
def LoadForm.queue : LoadForm → Fin 4
  | .unit _ q _ => q
  | .strided _ q => q
  | .indexed _ q _ => q
  | .firstFault q _ _ => q
  | .lanes q _ => q
  | .packed q _ => q

/-- A vector load that waits for a replay, with what it captured (R239, R391): its form and word, base, stride or list address, count,
type and Pacer mask. -/
structure WaitingLoad where
  form : LoadForm
  word : Word
  base : Word
  stride : Word
  vl : Nat
  ty : ElemType
  mask : Nat
deriving DecidableEq, Repr, Inhabited

/-- A store that has left its Pacer and has not been performed (R323): one indivisible unit of R330. Its bytes at the offsets
in poison are stored as poison (R240). -/
structure StoreFlight where
  side : Side
  loc : Nat
  data : List Byte
  poison : List Nat
  cached : Bool
deriving DecidableEq, Repr, Inhabited

/-! ### Engine commands (R111 to R127) -/

/-- The 64-byte parameter block of Photo-finish (R121). -/
structure PfBlock where
  op : Nat
  ty : Nat
  cond : Nat
  mask : Bool
  limit : Nat
  src : Nat
  count : Nat
  maskAddr : Nat
  dst : Nat
  thresh : Nat
deriving DecidableEq, Repr, Inhabited

/-- The parameter block of Seam (R125); offs holds OFF1 to OFF15. -/
structure SeamBlock where
  op : Nat
  ty : Nat
  nbuf : Nat
  shift : Nat
  scope : Nat
  count : Nat
  base : Nat
  dst : Nat
  flagAddr : Nat
  flagVal : Nat
  offs : List Nat
deriving DecidableEq, Repr, Inhabited

/-- What an engine-queue entry does, with the operand values it read at issue (R248). -/
inductive EngineOp where
  | copy (dst src n : Nat)
  | copy2 (dst src : Word) (rows rowBytes : Nat) (spitch dpitch : Word) (swizzle : Bool)
  | copyX (dst dpitch base tpitch : Word) (rowBytes : Nat) (list : Word) (count limit : Nat) (swizzle : Bool)
  | photo (b : PfBlock)
  | seam (b : SeamBlock)
  | fcwb (addr len : Nat)
  | fcinv (addr len : Nat)
deriving DecidableEq, Repr, Inhabited

/-- Translated bytes: the first location, how many, whether their page is cacheable. -/
structure Span where
  loc : Nat
  len : Nat
  cached : Bool
deriving DecidableEq, Repr, Inhabited

/-- A row that a Shuttle command copies: its spans, its position, and a byte that replaces its source (zeros or poison, R119). -/
structure RowJob where
  src : List Span
  dst : List Span
  row : Nat
  fill : Option (Byte × Bool)
deriving DecidableEq, Repr, Inhabited

/-- A command in an engine queue: the core that issued it (R109, R125), its tag, whether it has started, the `CPYX` batches
done and the (first location, bytes) they have written, whether it has failed, and the token it waits on when a translation is
missing (R115). landed: what the batch that is under way has written so far. declined: the driver refused that replay. kept: source bytes as
the command has read them already, by location, with whether they are poison: of words of which a part has landed (R130), and of those that
it has overwritten itself (R117). refused: a Seam command has been refused a page of a buffer or of DST (R127). plan: the rows of a copy, or of
the batch under way, as they were probed when it started, and whether an index of them is poisoned or out of range; what is probed once is not
probed again (R120). sources: the source bytes of a `CPYX` as far as they have been known (R117). -/
structure EngineCmd where
  op : EngineOp
  core : Nat
  tag : Option (Fin 64)
  started : Bool
  batch : Nat
  wrote : List (Nat × Nat)
  landed : List (Nat × Nat)
  failed : Bool
  token : Option (BitVec 32)
  declined : Bool
  kept : List (Nat × Byte × Bool)
  refused : Bool
  plan : Option (List RowJob × Bool)
  sources : List Span
deriving DecidableEq, Repr, Inhabited

/-- The bytes a completed command of a queue wrote, kept until its tag is observed (R114): a list of (first location,
bytes). -/
structure EngineWrote where
  queue : Fin 4
  tag : Fin 64
  ranges : List (Nat × Nat)
deriving DecidableEq, Repr, Inhabited

/-! ### The Anchor's queues -/

/-- An entry of the vector instruction queue (R23, R25, R391): the instruction, its word and address, the captured `vl`,
`rl`, grant type and scalar operands (in the order of the fields s1, s2, s3 or c1, c2, c3), the queued `SETC` values that
apply to it (R68), the rows it has already popped (after a resumption), the mask that stood for a stage predicate of a
`VLOOP.s` in this pass (R37), whether it belongs to the convoy of the entry before it (R153), the elements of a store-queue
row computed before a stop (R25), for a `VFETCH` the captured scalar file (R30) and whether its passes have begun, and which
captured registers an error has struck (R402). raised: the exceptions it has committed at a hard stop inside it; owed and owedSat: those,
and the saturation, that it raised below a data error and commits with its convoy (R9, R279, R285; log 70). -/
structure VEntry where
  instr : Instr
  word : Word
  addr : Word
  vl : Nat
  rl : Nat
  grant : ElemType
  scal1 : Word
  scal2 : Word
  scal3 : Word
  frm : Word
  topoctl : Word
  rngkey : Word
  popped : List (Fin 4 × Row)
  stageOnes : Option (Fin 12)
  joins : Bool
  partRow : List Word
  file : ScalarFile
  started : Bool
  lost : List Reg
  raised : BitVec 5
  owed : BitVec 5
  owedSat : Bool
deriving DecidableEq, Repr, Inhabited

/-- What a trap record says beside the trap point (R277). -/
structure TrapInfo where
  code : BitVec 8
  thread : Thread
  iaddr : Word
  faddr : Word := 0
  mq : Bool := false
  brk : Bool := false
  disc : Nat := 0
  imm : BitVec 20 := 0
  elem : Nat := 0
deriving DecidableEq, Repr, Inhabited

/-- A trap the Anchor front end takes once the entries before its convoy have committed (R154, R167): its code, the first
member of the convoy, the failing word. -/
structure FrontTrap where
  code : BitVec 8
  first : Word
  iaddr : Word
deriving DecidableEq, Repr, Inhabited

/-- What a matrix-queue entry does (R256 to R263). -/
inductive MOp where
  | rel
  | zero (t : Tile)
  | stage (isA : Bool) (v : Reg) (planes : Nat)
  | mma (t : Tile)
  | load (t : Tile) (tt : TileType)
  | store (t : Tile)
  | toV (v : Reg) (t : Tile)
deriving DecidableEq, Repr, Inhabited

/-- An entry of the matrix queue: what it captured when it committed (R27, R264); scale is the scalar with v's number, for a
QN4 staging (R259). -/
structure MEntry where
  op : MOp
  addr : Word
  vl : Nat
  rl : Nat
  scal1 : Word
  scal2 : Word
  scale : Word
  shape : Shape
deriving DecidableEq, Repr, Inhabited

/-- A deferred matrix error waiting for its trap (R266). released: as the program stands, an `MREL` that it has discarded has ended the claim. -/
structure DeferredError where
  code : BitVec 8
  addr : Word
  discarded : Nat
  released : Bool
deriving DecidableEq, Repr, Inhabited

/-- The loop buffer (R33, R36, R38): the body's address and captured words, the modulo form with S and T, the pass. -/
structure LoopState where
  base : Word
  words : List Word
  modulo : Bool
  stages : Nat
  trips : Nat
  pass : Nat
deriving DecidableEq, Repr, Inhabited

/-! ### Threads and harts -/

/-- What both threads of a hart have of their own (R47, R51, R56, R59, R66, R282, R43 to R45). The tokens are those of
the translation faults the thread waits on (R233, R238, R400), lost names the scalar registers that an uncorrectable error has struck
(R402). -/
structure ThreadState where
  pc : Word
  regs : ScalarFile
  vl : Word
  rl : Word
  vstart : Word
  fflags : Word
  frm : Word
  grant : ElemType
  masks : Vector Nat 12
  trapvec : Word
  sepc : Word
  scause : Word
  inGbar : Bool
  vrel : Bool
  hexit : Bool
  tokens : List (BitVec 32)
  lost : List Reg
deriving DecidableEq, Repr, Inhabited

/-- The Pacer (R19, R20, R63, R111, R239, R244). fromQa marks the registers last written by a `QPOP` from `qa`;
vamoRet holds the queue and the part of the row a stopped `VAMO` has returned so far, reissue says that waitLoad comes from a save. -/
structure PacerState where
  th : ThreadState
  slip : Word
  lod : Word
  fromQa : Vector Bool 32
  tagmap : Word
  tagerr : Word
  asleep : Bool
  loads : List LoadFlight
  stores : List StoreFlight
  engines : Vector (List EngineCmd) 4
  wrote : List EngineWrote
  vamoRet : Option (Fin 4 × Row)
  waitLoad : Option WaitingLoad
  reissue : Bool
deriving DecidableEq, Repr, Inhabited

/-- The Anchor (R48, R55, R57, R62, R64, R65, R66, R23, R27, R33). openLen says that the instruction just before may be
joined by one with C set (R153), and how many entries at the queue's tail form the convoy that is still open; overlong is the last word
of one that has more than nine. vtokens are
those a `VFETCH` pass waits on (R145); ahead is the address of a word whose fetch was declined before its turn came (R145). -/
structure AnchorState where
  th : ThreadState
  vsat : Word
  efc : Word
  rngkey : Word
  rngctr : BitVec 128
  topoctl : Word
  xpc : List Word
  vregs : Vector VReg 32
  kregs : Vector KReg 8
  viq : List VEntry
  vtokens : List (BitVec 32)
  openLen : Option Nat
  overlong : Option VEntry
  withdrawn : Option FrontTrap
  ahead : Option Word
  loop : Option LoopState
  claim : Bool
  shape : Shape
  tiles : Vector TileData 8
  mqueue : List MEntry
  deferredErr : Option DeferredError
deriving DecidableEq, Repr, Inhabited

/-- Where a hart stands: it runs; it is stopped at a supervisor trap (R276); it has met one and an access of it waits at a
fenced unit (R130); it is being saved (R385); it is saved; it has retired (R45). -/
inductive HartMode where
  | running | trapped | stopping | saving | saved | retired
deriving DecidableEq, Repr, Inhabited

/-- A hart: its identity (R59, R282), its placement (R39, R40, R389), its mode, its threads and its baton queues (R15).
slotHeld says that its gang has not ended, so that it has its slot (R388). area: the save area as the device last wrote it (R393); a saved hart keeps its registers here besides, and they come back
when the area is as it was (log 16). resumeOk: the driver has resumed it (R276). trapWait: the trap of a hart that is stopping. -/
structure Hart where
  part : Fin 8
  gang : BitVec 32
  hartid : Nat
  gangsize : Nat
  cls : Fin 6
  det : Bool
  super : Bool
  core : Nat
  tracks : BitVec 4
  share : Nat
  slot : Nat
  slotHeld : Bool
  mode : HartMode
  stopHard : Bool
  resumeOk : Bool
  trapHeld : Bool
  trapWait : Option TrapInfo
  pacer : PacerState
  anchor : AnchorState
  lq : Vector (List Row) 4
  sq : Vector (List Row) 2
  qa : List Word
  qc : List Word
  area : List Byte
  outst : Nat
deriving DecidableEq, Repr, Inhabited

/-- Where a gang stands (R40, R381, R385): resident, being saved, or descheduled in its queue. -/
inductive GangMode where
  | resident | saving | saved
deriving DecidableEq, Repr, Inhabited

/-- A gang: whether a pass has selected it for pre-emption (R381), its queue, its PRIO bit (R379), its start order, the time a
save began and its deadline (R386); the skip count and the reservation it has as a descheduled gang (R380). -/
structure Gang where
  selected : Bool
  part : Fin 8
  gangid : BitVec 32
  queue : Fin 64
  prio : Bool
  cls : Fin 6
  size : Nat
  det : Bool
  mode : GangMode
  startNo : Nat
  saveStart : Nat
  deadline : Nat
  skip : Nat
  rsv : Bool
deriving DecidableEq, Repr, Inhabited

/-! ### The memory system -/

/-- A line of a core's scalar L1 (R107): its bytes, the offsets that are dirty, and those that are poison. -/
structure L1Line where
  core : Nat
  line : Nat
  bytes : List Byte
  dirty : List Nat
  poison : List Nat
deriving DecidableEq, Repr, Inhabited

/-- A line of a die's far cache (R108). -/
structure FarLine where
  die : Nat
  line : Nat
  bytes : List Byte
  poison : List Nat
deriving DecidableEq, Repr, Inhabited

/-- A page table leaf as a walk found it: page size in bits, permissions, cacheability, target, frame (R394, R395). -/
structure Leaf where
  bits : Nat
  r : Bool
  w : Bool
  x : Bool
  c : Bool
  sl : Bool
  tgt : Nat
  pa : Nat
  stack : Nat
  peer : Nat
deriving DecidableEq, Repr, Inhabited

/-- An entry of a core's TLB or a die's walk cache (R396). -/
structure TlbEntry where
  owner : Nat
  part : Fin 8
  page : Nat
  leaf : Leaf
deriving DecidableEq, Repr, Inhabited

/-- A group of a staging area (R258, R259): where it lies, its planes, and for each of the 64 rows its 64 integers,
whether they are of an integer tag, the exponent, the multiplier and the non-finite mark. Another agent's store marks it
corrupt (R129). -/
structure StagedRow where
  ints : List Int
  e : Int
  g : BitVec 32
  nonFinite : Bool
deriving DecidableEq, Repr, Inhabited

structure StagedGroup where
  loc : Nat
  bytes : Nat
  isInt : Bool
  rows : List StagedRow
  corrupt : Bool
  poison : Bool
deriving DecidableEq, Repr, Inhabited

/-! ### The Starter, the driver's registers and the management core -/

/-- A packet in a launch queue (R371): its 64 bytes and the gangid it was given (R378). args is filled when the head
is checked (R374). -/
structure Packet where
  bytes : List Byte
  gangid : BitVec 32
  fromPF : Bool
deriving DecidableEq, Repr, Inhabited

/-- What the head check found (R374): entry PCs and arguments. -/
structure HeadInfo where
  pentry : Word
  aentry : Word
  args : List Word
deriving DecidableEq, Repr, Inhabited

/-- The registers and packets of launch queue q of partition p (R370, R377 to R380). sched holds the QCFG that scheduling
still uses until the next round (R370). skip and rsv are those of its first packet (R380). token: the head waits for a replay
(R374). -/
structure LaunchQueue where
  part : Fin 8
  q : Fin 64
  en : Bool
  cls : Fin 4
  weight : Nat
  dline : Nat
  schedEn : Bool
  schedCls : Fin 4
  schedWeight : Nat
  schedDline : Nat
  packets : List Packet
  ovf : BitVec 16
  rej : BitVec 16
  skip : Nat
  hwait : Bool
  rsv : Bool
  last : BitVec 32
  seq : Nat
  deficit : Int
  head : Option HeadInfo
  token : Option (BitVec 32)
deriving DecidableEq, Repr, Inhabited

/-- A partition's registers (R370, R384, R413), its PASID (R368), the TLBINV writes that wait (R384; a page, or the whole
partition), its scheduling state (R379, R380: held are the positions that the reservation holds, passDue says that tracks have
become free) and the records that wait for room in its fault ring (R398). -/
structure Partition where
  quantum : Nat
  schedQuantum : Nat
  psave : Word
  ptroot : Word
  tlbinvBusy : Bool
  tlbinvPage : Option Nat
  tlbinvNext : List (Option Nat)
  pasid : Option (BitVec 20)
  fqbase : Word
  fqhead : BitVec 16
  fqtail : BitVec 16
  dies : BitVec 8
  fptrap : Word
  lastOfLevel : Vector (Fin 64) 5
  sinceRound : Nat
  startNo : Nat
  held : List Nat
  passDue : Bool
  waiting : List (List Byte)
deriving DecidableEq, Repr, Inhabited

/-- What waits on a token (R400): a unit of a hart, with the code of the trap a declined replay raises and the address; an
engine command of a hart's queue; or a launch queue's head. -/
inductive Waiter where
  | thread (hart : Nat) (unit : ExecUnit) (code : BitVec 8) (va : Word)
  | engine (hart : Nat) (queue : Fin 4)
  | head (part : Fin 8) (q : Fin 64)
deriving DecidableEq, Repr, Inhabited

/-- An outstanding page request (R396): partition, host page and who waits for the answer. -/
structure PageRequest where
  part : Fin 8
  page : Nat
  token : BitVec 32
  waiter : Waiter
deriving DecidableEq, Repr, Inhabited

/-- Who watches a word: a sleeping `WAITM` (R271), or the wait condition of a launch queue's head (R382). -/
inductive Watching where
  | hart (i : Nat)
  | head (part : Fin 8) (q : Fin 64)
deriving DecidableEq, Repr, Inhabited

/-- A watched word: who watches it, its 64-byte line, and whether a write has come since. -/
structure Watcher where
  who : Watching
  line : Nat
  woken : Bool
  since : Nat
deriving DecidableEq, Repr, Inhabited

/-- Who reaches device memory from outside: a function of the host, or a span peer (R331). -/
inductive Outsider where
  | function (fn : Fn)
  | peer (k : Fin 16)
deriving DecidableEq, Repr, Inhabited

/-- A reproducible accumulator that `RSADD` has met since its 32 bytes were last stored whole: where it lies; whether a plain store has come to
a part of it that was concurrent with an `RSADD`, so that V is undefined (R101); the offsets stored since the last `RSADD`; the numbers of the
`RSADD`s. -/
structure KnownAcc where
  loc : Nat
  torn : Bool
  stored : List Nat
  adds : List Nat
deriving DecidableEq, Repr, Inhabited

/-- What is known of the order between `RSADD`s, by their numbers, and other accesses (R101, R131, R324): seen are those that the next access of a
side of a hart comes after; given are those that a release of a word, by a hart and at a scope, hands on; count is how many there have been. -/
structure AccOrder where
  seen : List (Nat × Side × Nat)
  given : List (Nat × Nat × Scope × Nat)
  count : Nat
deriving DecidableEq, Repr, Inhabited

/-- A write or read from outside that may have to wait (R130, R142, R331): an access of device memory, or a write to a launch aperture,
with the EN and CLASS of the queue as it was received, under which it is judged (R370). -/
inductive OutsideReq where
  | mem (r : PeerReq)
  | launch (p : Fin 8) (q : Fin 64) (off : Nat) (data : List Byte) (en : Bool) (cls : Fin 4)
deriving DecidableEq, Repr, Inhabited

/-- What an aligned 8-byte word held, by its number, before the scalar side of a core stored into it: a vector load of a hart of that core which
nothing has ordered after that store may still return it (R134, R324). copy: the die's far cache held it so, which a load of a non-cacheable page
passes by. -/
structure EarlierWord where
  hart : Nat
  word : Nat
  bytes : List Byte
  poison : Bool
  copy : Bool
deriving DecidableEq, Repr, Inhabited

/-- A hart whose Seam command runs, and the (first location, bytes) of the writes performed since it started (R130). -/
structure SeamWatch where
  hart : Nat
  writes : List (Nat × Nat)
deriving DecidableEq, Repr, Inhabited

/-- A unit under recovery (R403), with what its error record held. -/
structure Recovery where
  unit : ErrUnit
  cls : Nat
  unitCode : Nat
  place : Nat
  sev : Nat
deriving DecidableEq, Repr, Inhabited

/-- A running telemetry snapshot (R417): buffer and captured counts. -/
structure Snapshot where
  buffer : Nat
  cycles : List Word
deriving DecidableEq, Repr, Inhabited

/-- A running attestation (R411): buffer, nonce, leaf. -/
structure Attestation where
  buffer : Nat
  nonce : List Byte
  leaf : Nat
deriving DecidableEq, Repr, Inhabited

/-- The management core and its registers (R405, R406, R409 to R411, R417, R418); counts and sparesUsed are keyed by what they count;
cap is the WATTS that governs the current millisecond (R420), overCap says that the last one's average power lay above it. dumpHarts are the harts that were resident at the fatal error, and whether their areas can be written whole (R407). -/
structure Management where
  elbase : Word
  elhead : BitVec 16
  eltail : BitVec 16
  lost : BitVec 32
  fatal : Bool
  dump : Bool
  recov : Bool
  log : List (List Byte)
  counts : List (List Nat × Nat)
  sparesUsed : List (List Nat × Nat)
  recoveries : List Recovery
  degraded : List ErrUnit
  dumpCause : BitVec 8
  dumpDie : Nat
  dumpHarts : List (Nat × Bool)
  watts : Nat
  cap : Nat
  overCap : Bool
  throt : Bool
  tj : BitVec 8
  tsaddr : Word
  tsstat : Word
  snapshot : Option Snapshot
  nonce : List Byte
  attBuf : Word
  attStatus : Word
  attestation : Option Attestation
  leaf : Nat
  minSvn : Nat
  running : Bool
  image : List Byte
  svn : Nat
  links : Bool
deriving DecidableEq, Repr, Inhabited

/-- Who executes: the hart by its index, and the unit (a model field, log 1). -/
structure Cursor where
  hart : Nat
  unit : ExecUnit
deriving DecidableEq, Repr, Inhabited

/-- The whole device. accs are the reproducible accumulators that the memory-side unit may renormalise (R96); outside holds the
requests from outside that wait at a fenced unit, in the order received (R130, R331). earlier are the words that vector loads may read as they
were, oldest first (R134). The last five fields are the model's own
(log 1, 4, 6). -/
structure State where
  mem : List Host.Cell
  poison : List Nat
  l1 : List L1Line
  farCache : List FarLine
  tlb : List TlbEntry
  walkCache : List TlbEntry
  staged : List StagedGroup
  accs : List KnownAcc
  accOrder : AccOrder
  seams : List SeamWatch
  earlier : List EarlierWord
  watchers : List Watcher
  harts : List Hart
  gangs : List Gang
  queues : List LaunchQueue
  parts : Vector Partition 8
  nbconf : List (Nat × Word)
  contexts : List (Nat × Nat)
  claimWait : List (Nat × Nat)
  seamSeq : Vector (BitVec 32) 24
  waiters : List (BitVec 32 × Waiter)
  nextToken : BitVec 32
  granted : List (Fin 8 × Nat)
  requests : List PageRequest
  msix : List (Fn × Nat)
  outside : List (Outsider × OutsideReq)
  mgmt : Management
  reads : List (List Byte)
  now : Nat
  tick : Nat
  agenda : List Turn
  free : Nat
  cur : Cursor
deriving DecidableEq, Repr, Inhabited

/-! ### How a step can stop -/

/-- A step that ends the run. Raised only where the spec gives no effect at all. -/
inductive Fault where
  /-- An access to a location the spec says does not exist: a page table entry whose frame lies outside its target's memory
  (R102, R106). Raised by the memory operations. Safe: the device does something there, which no claim describes. -/
  | physicalHole (loc : Nat)
deriving DecidableEq, Repr, Inhabited

/-- A step the model gives no meaning. -/
inductive Refusal where
  /-- The instruction's arm has no meaning yet. Raised by Dispatch alone. Safe: nothing is claimed of it. -/
  | notModelled (mnemonic : String)
deriving DecidableEq, Repr, Inhabited

/-! ### Reset -/

/-- A thread at its first instruction, before its entry PC and arguments are loaded (R10, R59). -/
def ThreadState.start : ThreadState where
  pc := 0
  regs := Vector.replicate 32 0
  vl := 0
  rl := 0
  vstart := 0
  fflags := 0
  frm := 0
  grant := .f32
  masks := Vector.replicate 12 0
  trapvec := 0
  sepc := 0
  scause := 0
  inGbar := false
  vrel := false
  hexit := false
  tokens := []
  lost := []

/-- A Pacer at launch: slip is 8 (R19, R59). -/
def PacerState.start : PacerState where
  th := .start
  slip := 8
  lod := 0
  fromQa := Vector.replicate 32 false
  tagmap := 0
  tagerr := 0
  asleep := false
  loads := []
  stores := []
  engines := Vector.replicate 4 []
  wrote := []
  vamoRet := none
  waitLoad := none
  reissue := false

def VReg.dead : VReg := ⟨none, false, [], []⟩
def KReg.dead : KReg := ⟨false, []⟩
def TileData.cleared : TileData := ⟨.empty, [], false⟩
def Shape.zero : Shape := ⟨0, 0, 0⟩

/-- An Anchor at launch: every register dead, no loop, no claim (R48, R55, R57, R59). -/
def AnchorState.start : AnchorState where
  th := .start
  vsat := 0
  efc := 0
  rngkey := 0
  rngctr := 0
  topoctl := 0
  xpc := []
  vregs := Vector.replicate 32 .dead
  kregs := Vector.replicate 8 .dead
  viq := []
  vtokens := []
  openLen := none
  overlong := none
  withdrawn := none
  ahead := none
  loop := none
  claim := false
  shape := .zero
  tiles := Vector.replicate 8 TileData.cleared
  mqueue := []
  deferredErr := none

/-- A partition after reset: QUANTUM 65,536, the fault ring, save region and page table off (R370, R384, R413); no
PASID set (log 57). -/
def Partition.reset (dies : BitVec 8) : Partition where
  quantum := 65536
  schedQuantum := 65536
  psave := 0
  ptroot := 0
  tlbinvBusy := false
  tlbinvPage := none
  tlbinvNext := []
  pasid := none
  fqbase := 0
  fqhead := 0
  fqtail := 0
  dies := dies
  fptrap := 0
  lastOfLevel := Vector.replicate 5 63
  sinceRound := 0
  startNo := 0
  held := []
  passDue := false
  waiting := []

/-- The management core after reset (R405, R418; log 13 for what the spec gives no value). -/
def Management.reset : Management where
  elbase := 0
  elhead := 0
  eltail := 0
  lost := 0
  fatal := false
  dump := false
  recov := false
  log := []
  counts := []
  sparesUsed := []
  recoveries := []
  degraded := []
  dumpCause := 0
  dumpDie := 0
  dumpHarts := []
  watts := 2800
  cap := 2800
  overCap := false
  throt := false
  tj := 35
  tsaddr := 0
  tsstat := 0
  snapshot := none
  nonce := List.replicate 32 0
  attBuf := 0
  attStatus := 0
  attestation := none
  leaf := 0
  minSvn := 0
  running := false
  image := []
  svn := 0
  links := true

/-- The device right after reset: partition 0 holds all eight dies, no gang is resident, no packet queued, memory lists
nothing (R370, R384, R405, R413, R418). -/
def State.reset : State where
  mem := []
  poison := []
  l1 := []
  farCache := []
  tlb := []
  walkCache := []
  staged := []
  accs := []
  accOrder := ⟨[], [], 0⟩
  seams := []
  earlier := []
  watchers := []
  harts := []
  gangs := []
  queues := []
  parts := Vector.ofFn fun p => Partition.reset (if p = (0 : Fin 8) then 0xFF else 0)
  nbconf := []
  contexts := []
  claimWait := []
  seamSeq := Vector.replicate 24 0
  waiters := []
  nextToken := 1
  granted := []
  requests := []
  msix := []
  outside := []
  mgmt := .reset
  reads := []
  now := 0
  tick := 0
  agenda := []
  free := 0
  cur := ⟨0, .pacer⟩

end Sys2Proof.Machine
end

