-- ==== Sys2Proof/Machine/Mem.lean ====
section
/-! DEFINITION. Memory: where every byte lives, the caches, poison, fences for recovery, and address translation (R102 to
R110, R322 to R332, R394 to R397, R402, R403). -/
namespace Sys2Proof.Machine

open Sys2Proof

/-! ### Plain memory: one list in one canonical form -/

/-- The canonical form: locations strictly rising, no entry equal to what an unlisted location reads as, which is 0
(log 3). -/
def Memory.wf : List Host.Cell → Bool
  | [] => true
  | [c] => c.2 != 0
  | c :: d :: rest => c.2 != 0 && decide (c.1 < d.1) && Memory.wf (d :: rest)

/-- The byte at a location; an unlisted location reads 0. -/
def Memory.read : List Host.Cell → Nat → Byte
  | [], _ => 0
  | (a, b) :: rest, loc => if a = loc then b else if loc < a then 0 else Memory.read rest loc

/-- Writing one byte keeps the canonical form: a 0 removes the entry. -/
def Memory.write : List Host.Cell → Nat → Byte → List Host.Cell
  | [], loc, v => if v = 0 then [] else [(loc, v)]
  | (a, b) :: rest, loc, v =>
    if a = loc then (if v = 0 then rest else (loc, v) :: rest)
    else if loc < a then (if v = 0 then (a, b) :: rest else (loc, v) :: (a, b) :: rest)
    else (a, b) :: Memory.write rest loc v

/-- Consecutive bytes. -/
def Memory.writeAll (m : List Host.Cell) (loc : Nat) : List Byte → List Host.Cell
  | [] => m
  | b :: bs => Memory.writeAll (Memory.write m loc b) (loc + 1) bs

def Memory.readAll (m : List Host.Cell) (loc : Nat) : Nat → List Byte
  | 0 => []
  | n + 1 => Memory.read m loc :: Memory.readAll m (loc + 1) n

/-! ### Locations (log 2): far memory at 0, near memory at 2^52, peer k at 2^61 + k·2^52, host memory under PASID n at
2^72 + n·2^52 -/

/-- The bytes of device far memory, 1,536 GiB (R106). -/
def farBytes : Nat := 1536 * 2 ^ 30
/-- The bytes of near memory, 5 GiB (R102). -/
def nearBytes : Nat := 5 * 2 ^ 30
def nearLoc (offset : Nat) : Nat := 2 ^ 52 + offset
def hostLoc (pasid : BitVec 20) (addr : Nat) : Nat := 2 ^ 72 + pasid.toNat * 2 ^ 52 + addr
/-- The PASID of the physical function (R384; log 57). -/
def pfPasid : BitVec 20 := 0
def peerLoc (k addr : Nat) : Nat := 2 ^ 61 + k * 2 ^ 52 + addr

/-- What kind of memory a location lies in (R102). -/
inductive Region where
  | far | near | host | peer
deriving DecidableEq, Repr

def regionOf (loc : Nat) : Region :=
  if loc < 2 ^ 52 then .far else if loc < 2 ^ 60 then .near else if loc < 2 ^ 72 then .peer else .host

/-- The core that owns a near location (R103). -/
def nearCore (loc : Nat) : Nat := (loc - 2 ^ 52) / 2 ^ 24
/-- The compute die of a core (R103). -/
def coreDie (core : Nat) : Nat := core / 40
/-- The stack of a far location (R106). -/
def farStack (loc : Nat) : Nat := loc / 4096 % 24
/-- The stack offset of a far location (R106). -/
def farOffset (loc : Nat) : Nat := loc / 4096 / 24 * 4096 + loc % 4096
/-- The far location of a stack offset (R106). -/
def stackLoc (stack offset : Nat) : Nat := (offset / 4096 * 24 + stack) * 4096 + offset % 4096
/-- The 64-byte line of a location (R107). -/
def lineOf (loc : Nat) : Nat := loc / 64

/-- The unit of R402 that poison covers: an 8-byte word of near memory, 64 bytes of far memory; elsewhere the byte. -/
def poisonUnit (loc : Nat) : Nat :=
  match regionOf loc with
  | .near => 8
  | .far => 64
  | _ => 1

/-! ### Homes -/

def rangesMeet (a n b m : Nat) : Bool := decide (a < b + m) && decide (b < a + n)

/-- Whether one of the aligned 8-byte words of n bytes is one of those of m others (R329). -/
def wordsMeet (a n b m : Nat) : Bool := decide (a / 8 < (b + m + 7) / 8) && decide (b / 8 < (a + n + 7) / 8)

/-- Whether a byte lies in one of the aligned 8-byte words of n bytes. -/
def inWords (loc n a : Nat) : Bool := decide (loc / 8 ≤ a / 8) && decide (a / 8 < (loc + n + 7) / 8)

/-- The bytes at their home, and whether any is poison (R323, R402). -/
def homeRead (s : State) (loc n : Nat) : List Byte × Bool :=
  (Memory.readAll s.mem loc n, s.poison.any fun p => decide (loc ≤ p) && decide (p < loc + n))

/-- Poison bookkeeping of a store: what it covers is poison exactly when the store stores poison. -/
def poisonAfter (old : List Nat) (loc n : Nat) (poison : Bool) : List Nat :=
  let kept := old.filter fun p => decide (p < loc) || decide (loc + n ≤ p)
  if poison then kept ++ (List.range n).map (loc + ·) else kept

/-- What becomes of a known accumulator as n bytes are stored: one stored whole, at once or piece by piece, is a new one, whose V its bytes
give; V of one that is stored in part is undefined, but where the store is ordered behind every `RSADD` (R95, R101). -/
def KnownAcc.afterStore (ordered : Bool) (loc n : Nat) (a : KnownAcc) : Option KnownAcc :=
  if rangesMeet a.loc 32 loc n then
    let stored := (List.range 32).filter fun o => a.stored.contains o || (decide (loc ≤ a.loc + o) && decide (a.loc + o < loc + n))
    if stored.length = 32 then none else some { a with torn := a.torn || !ordered, stored := stored }
  else some a

/-- A store performed at the home (R323): bytes, poison, the staging areas it meets (R129), the watchers of its line
(R271), the accumulators it overwrites (R96), and the Seam commands that run (R130). What its words were before is not read any more (`asScalar`
keeps it). -/
def homeWrite (s : State) (loc : Nat) (bs : List Byte) (poison : Bool) : State :=
  { s with
    mem := Memory.writeAll s.mem loc bs
    poison := poisonAfter s.poison loc bs.length poison
    staged := s.staged.map fun g => if rangesMeet g.loc g.bytes loc bs.length then { g with corrupt := true } else g
    accs := s.accs.filterMap (KnownAcc.afterStore false loc bs.length)
    seams := s.seams.map fun w => { w with writes := (loc, bs.length) :: w.writes }
    earlier := s.earlier.filter fun e => !wordsMeet (8 * e.word) 8 loc bs.length
    watchers := s.watchers.map fun w =>
      if rangesMeet (w.line * 64) 64 loc bs.length then { w with woken := true } else w }

/-! ### The far caches (R108) -/

def farHit (s : State) (die line : Nat) : Option FarLine :=
  s.farCache.find? fun l => l.die == die && l.line == line

/-- The poisoned offsets of a line at its home. -/
def homePoison (s : State) (line : Nat) : List Nat :=
  (s.poison.filter fun p => lineOf p == line).map (· % 64)

/-- Removing a line from every far cache (R108: Seam), or from one die's (R109). -/
def farDrop (s : State) (die : Option Nat) (line : Nat) : State :=
  { s with farCache := s.farCache.filter fun l => !(l.line == line && (die.isNone || die == some l.die)) }

/-- The lines a far cache holds: 32 MiB (R108). -/
def farLines : Nat := 2 ^ 19

/-- Room for one more line: the oldest goes when the cache is full (log 58). -/
def farRoom (s : State) (die : Nat) : State :=
  let mine := s.farCache.filter fun l => l.die == die
  if mine.length < farLines then s
  else
    match mine.getLast? with
    | some l => farDrop s (some die) l.line
    | none => s

/-- A read by an agent of a die fills the die's far cache. -/
def farFill (s : State) (die line : Nat) : State × FarLine :=
  match farHit s die line with
  | some l => (s, l)
  | none =>
    let s := farRoom s die
    let l : FarLine := ⟨die, line, Memory.readAll s.mem (line * 64) 64, homePoison s line⟩
    ({ s with farCache := l :: s.farCache }, l)

def sliceBytes (bs : List Byte) (off n : Nat) : List Byte := (bs.drop off).take n

def patchBytes (bs : List Byte) (off : Nat) (new : List Byte) : List Byte :=
  bs.take off ++ new ++ bs.drop (off + new.length)

def poisonIn (ps : List Nat) (off n : Nat) : Bool := ps.any fun p => decide (off ≤ p) && decide (p < off + n)

/-- The bytes of a line with those that a test picks, by their offset, taken from the home. -/
def homeBytesIn (s : State) (line : Nat) (bs : List Byte) (p : Nat → Bool) : List Byte :=
  (List.range 64).map fun o => if p o then Memory.read s.mem (line * 64 + o) else bs.getD o 0

/-- The same for the offsets that are poison. -/
def homePoisonIn (s : State) (line : Nat) (ps : List Nat) (p : Nat → Bool) : List Nat :=
  ps.filter (!p ·) ++ (homePoison s line).filter p

/-- A die's copy of the words of n bytes takes what their home holds, so that no later load of the die returns an older value of a word
than one that has been stored or read there (R329). -/
def farRefresh (s : State) (die loc n : Nat) : State :=
  { s with farCache := s.farCache.map fun l =>
      if l.die == die && rangesMeet (l.line * 64) 64 loc n then
        let p := fun o => inWords loc n (l.line * 64 + o)
        { l with bytes := homeBytesIn s l.line l.bytes p, poison := homePoisonIn s l.line l.poison p }
      else l }

/-- A store to far memory writes through to its home and updates the issuing die's copy (R108), of the whole words that it stores into; one to a
non-cacheable page too, so that no later load of its agent returns an older value (R329). -/
def storeThrough (s : State) (die loc : Nat) (bs : List Byte) (poison : Bool) : State :=
  farRefresh (homeWrite s loc bs poison) die loc bs.length

/-- A store whose bytes at some offsets are stored as poison. -/
def storeMarked (s : State) (die loc : Nat) (bs : List Byte) (bad : List Nat) : State :=
  bad.foldl (fun s o => storeThrough s die (loc + o) (sliceBytes bs o 1) true) (storeThrough s die loc bs false)

/-- A read by the vector side, an engine or a fetch of a die: through the far cache when the page is cacheable. One at the home brings the die's
copy of its words up to date, so that no later load returns an older value (R329). -/
def dieRead (s : State) (die loc n : Nat) (cached : Bool) : State × List Byte × Bool :=
  if regionOf loc == .far then
    if cached then
      let (s, l) := farFill s die (lineOf loc)
      (s, sliceBytes l.bytes (loc % 64) n, poisonIn l.poison (loc % 64) n)
    else
      let (bs, p) := homeRead s loc n
      (farRefresh s die loc n, bs, p)
  else
    let (bs, p) := homeRead s loc n
    (s, bs, p)

/-! ### What a vector load may still read (R134, R324) -/

/-- The aligned 8-byte words of n bytes, by their numbers. -/
def wordNumbers (loc n : Nat) : List Nat := (List.range ((loc % 8 + n + 7) / 8)).map (loc / 8 + ·)

/-- A word as a vector load of a die reads it now. -/
def wordNow (s : State) (die hart word : Nat) : EarlierWord :=
  match farHit s die (word / 8) with
  | some l => ⟨hart, word, sliceBytes l.bytes (word % 8 * 8) 8, poisonIn l.poison (word % 8 * 8) 8, true⟩
  | none =>
    let (bs, bad) := homeRead s (8 * word) 8
    ⟨hart, word, bs, bad, false⟩

/-- The harts of a core, by their indices. -/
def coreHarts (s : State) (core : Nat) : List Nat := (s.harts.zipIdx.filter fun x => x.1.core == core).map (·.2)

/-- A store of the scalar side of a core to some words reaches their home: vector loads of the core's harts that nothing orders after it may read
what the words were (R134, R324). -/
def asScalar (s : State) (core : Nat) (words : List Nat) (store : State → State) : State :=
  { store s with
    earlier := s.earlier ++ (coreHarts s core).flatMap fun i => words.map fun w => wordNow s (coreDie core) i w }


/-- What a word may be read as by a vector load of a hart, beside what it holds: oldest first. -/
def earlierWords (s : State) (i loc : Nat) (cached : Bool) : List EarlierWord :=
  s.earlier.filter fun e => e.hart == i && e.word == loc / 8 && (cached || !e.copy)

/-- A vector load of a hart reads a word as it holds, or as it held earlier, as a free value picks (R134); from then on the hart reads nothing
that is older (R329). -/
def pickEarlier (s : State) (i loc : Nat) (cached : Bool) : State × Option EarlierWord :=
  let es := earlierWords s i loc cached
  if es.isEmpty then (s, none)
  else
    let k := (Config.freeBits s.free).toNat % (es.length + 1)
    ({ s with earlier := (s.earlier.filter fun e => !(e.hart == i && e.word == loc / 8)) ++ es.drop k, free := s.free + 1 }, es[k]?)

/-- A read by the vector side of a hart of n bytes of one word. -/
def vectorRead (s : State) (i die loc n : Nat) (cached : Bool) : State × List Byte × Bool :=
  match pickEarlier s i loc cached with
  | (s, some e) => (s, sliceBytes e.bytes (loc % 8) n, e.poison)
  | (s, none) => dieRead s die loc n cached

/-! ### The scalar L1 (R107) -/

def l1Hit (s : State) (core line : Nat) : Option L1Line :=
  s.l1.find? fun l => l.core == core && l.line == line

def l1Put (s : State) (l : L1Line) : State :=
  { s with l1 := l :: s.l1.filter fun m => !(m.core == l.core && m.line == l.line) }

/-- The lines a core's L1 holds: 64 KiB (R107). -/
def l1Size : Nat := 1024

/-- Whether one more line finds room. -/
def l1Full (s : State) (core : Nat) : Bool := decide (l1Size ≤ (s.l1.filter fun l => l.core == core).length)

def l1Drop (s : State) (core line : Nat) : State :=
  { s with l1 := s.l1.filter fun m => !(m.core == core && m.line == line) }

/-- A full L1 makes room by evicting its oldest clean line; when every line is dirty, the new line is the one that does not
stay (log 58). -/
def l1Room (s : State) (core : Nat) : State :=
  if l1Full s core then
    match (s.l1.filter fun l => l.core == core && l.dirty.isEmpty).getLast? with
    | some l => l1Drop s core l.line
    | none => s
  else s

def l1Fill (s : State) (core line : Nat) : State × L1Line :=
  match l1Hit s core line with
  | some l => (s, l)
  | none =>
    let (s, f) := farFill (l1Room s core) (coreDie core) line
    let l : L1Line := ⟨core, line, f.bytes, [], f.poison⟩
    (if l1Full s core then s else l1Put s l, l)

/-- The write-back of a line writes only the bytes that were stored (R329); a poisoned one as poison (R402). -/
def l1WriteBytes (s : State) (l : L1Line) : List Nat → State
  | [] => s
  | o :: os =>
    l1WriteBytes (storeThrough s (coreDie l.core) (l.line * 64 + o) (sliceBytes l.bytes o 1) (l.poison.contains o)) l os

/-- A line with the clean bytes that a test picks taken from their home. -/
def L1Line.refresh (s : State) (l : L1Line) (p : Nat → Bool) : L1Line :=
  let q := fun o => p o && !l.dirty.contains o
  { l with bytes := homeBytesIn s l.line l.bytes q, poison := homePoisonIn s l.line l.poison q }

/-- Whether a byte of a line lies in a word that holds a dirty one. -/
def L1Line.stored (l : L1Line) (o : Nat) : Bool := l.dirty.any fun d => d / 8 == o / 8

/-- Writing a line back leaves it in the L1, clean; the words written are those of their home (R329). -/
def l1Clean (s : State) (core line : Nat) : State :=
  match l1Hit s core line with
  | none => s
  | some l =>
    if l.dirty.isEmpty then s
    else
      let s := asScalar s core (l.dirty.map fun o => (line * 64 + o) / 8).dedup fun s => l1WriteBytes s l l.dirty
      l1Put s (L1Line.refresh s { l with dirty := [] } l.stored)

def l1CleanDrop (s : State) (core line : Nat) : State := l1Drop (l1Clean s core line) core line

/-- The lines of a core that a test picks. -/
def l1Lines (s : State) (core : Nat) (p : L1Line → Bool) : List Nat :=
  (s.l1.filter fun l => l.core == core && p l).map (·.line)

def l1CleanAll (s : State) (core : Nat) (p : L1Line → Bool) : State :=
  (l1Lines s core p).foldl (fun s line => l1Clean s core line) s

def l1CleanDropAll (s : State) (core : Nat) (p : L1Line → Bool) : State :=
  (l1Lines s core p).foldl (fun s line => l1CleanDrop s core line) s

/-- A scalar store of a cacheable page goes into the L1 (R107), or to its home when its line does not stay. The other bytes of the words it
stores into are no older than at their home (R329). -/
def l1Store (s : State) (core loc : Nat) (bs : List Byte) : State :=
  let (s, l) := l1Fill s core (lineOf loc)
  let offs := (List.range bs.length).map (loc % 64 + ·)
  if (l1Hit s core (lineOf loc)).isSome then
    let l := l.refresh s (inWords (loc % 64) bs.length)
    l1Put s { l with
      bytes := patchBytes l.bytes (loc % 64) bs
      dirty := offs ++ l.dirty.filter (fun o => !offs.contains o)
      poison := l.poison.filter fun o => !offs.contains o }
  else asScalar s core (wordNumbers loc bs.length) fun s => storeThrough s (coreDie core) loc bs false

/-- A scalar access of a non-cacheable far page: the core's L1 keeps no line of it, whose stored bytes are written back, so that the accesses of
one agent to a word stay in order (R324, R329). -/
def passL1 (s : State) (core loc : Nat) : State := if regionOf loc == .far then l1CleanDrop s core (lineOf loc) else s

/-- A scalar read: through the L1 when the page is cacheable far memory. Of a word that holds a stored byte the others are read at their
home, for the store is not performed yet (R329). -/
def scalarRead (s : State) (core loc n : Nat) (cached : Bool) : State × List Byte × Bool :=
  if cached && regionOf loc == .far then
    let (s, l) := l1Fill s core (lineOf loc)
    let l := l.refresh s l.stored
    (s, sliceBytes l.bytes (loc % 64) n, poisonIn l.poison (loc % 64) n)
  else dieRead (passL1 s core loc) (coreDie core) loc n false

/-! ### Accumulators and the order of plain stores (R101) -/

/-- The `RSADD`s that the next access of a side of a hart comes after. -/
def seenAdds (s : State) (i : Nat) (side : Side) : List Nat := (s.accOrder.seen.filter fun x => x.1 == i && x.2.1 == side).map (·.2.2)

/-- More of them. -/
def seeAdds (s : State) (i : Nat) (side : Side) (ids : List Nat) : State :=
  if ids.isEmpty then s else { s with accOrder := { s.accOrder with seen := (s.accOrder.seen ++ ids.map fun n => (i, side, n)).dedup } }

/-- Whether n bytes lie in a known accumulator and a side of a hart comes after every `RSADD` of it. -/
def accOrdered (s : State) (i : Nat) (side : Side) (loc n : Nat) : Bool :=
  let met := s.accs.filter fun a => rangesMeet a.loc 32 loc n
  !met.isEmpty && met.all fun a => a.adds.all fun k => (seenAdds s i side).contains k

/-- A store that is ordered behind every `RSADD` of what it meets is performed at once; V is what the bytes give (R95). -/
def storeOrdered (s : State) (core loc : Nat) (bs : List Byte) (bad : List Nat) : State :=
  { storeMarked s (coreDie core) loc bs bad with accs := s.accs.filterMap (KnownAcc.afterStore true loc bs.length) }

/-- Whether a scope that hart x names holds hart y (R110). -/
def scopeHolds (s : State) (sc : Scope) (x y : Nat) : Bool :=
  match s.harts[x]?, s.harts[y]? with
  | some a, some b =>
    match sc with
    | .hart => x == y
    | .core => a.core == b.core
    | .die => coreDie a.core == coreDie b.core
    | _ => true
  | _, _ => false

/-- A release of n bytes hands on the `RSADD`s that its hart comes after (R131, R327). -/
def giveAdds (s : State) (x : Nat) (sc : Scope) (loc n : Nat) : State :=
  let ids := seenAdds s x .scalar
  if ids.isEmpty then s
  else
    { s with accOrder := { s.accOrder with
        given := (s.accOrder.given ++ (wordNumbers loc n).flatMap fun w => ids.map fun k => (w, x, sc, k)).dedup } }

/-- Whether a store of hart x to a word is still on its way, as hart y sees it. -/
def storePending (s : State) (x y word : Nat) : Bool :=
  match s.harts[x]?, s.harts[y]? with
  | some a, some b =>
    (a.pacer.stores.any fun f => wordsMeet f.loc f.data.length (8 * word) 8) ||
      (a.core != b.core && s.l1.any fun l => l.core == a.core && l.dirty.any fun o => (l.line * 64 + o) / 8 == word)
  | _, _ => true

/-- An acquire of n bytes takes over what a release of them has handed on, when each scope holds the other hart (R131). -/
def takeAdds (s : State) (y : Nat) (sc : Scope) (loc n : Nat) : State :=
  seeAdds s y .scalar ((s.accOrder.given.filter fun g =>
    (wordNumbers loc n).contains g.1 && scopeHolds s g.2.2.1 g.2.1 y && scopeHolds s sc y g.2.1 && !storePending s g.2.1 y g.1).map (·.2.2.2))

/-- Something orders a hart's vector side after its scalar side: from here on it reads nothing older (R134, R326), and it comes after the `RSADD`s
that the scalar side comes after. -/
def vectorAfter (s : State) (i : Nat) : State :=
  seeAdds { s with earlier := s.earlier.filter fun e => e.hart != i } i .vector (seenAdds s i .scalar)

/-- An `RSADD` or `RSFIN` of a hart comes after every `RSADD` that its accumulator has met (R329). -/
def meetAdds (s : State) (x loc : Nat) : State :=
  seeAdds s x .scalar ((s.accs.filter fun a => a.loc == loc).flatMap KnownAcc.adds)

/-! ### Units fenced for recovery (R130, R332, R403) -/

/-- Whether a location lies in a unit. A near row's number is its bank and 128 times its place in the bank (log 15). -/
def inUnit (u : ErrUnit) (loc : Nat) : Bool :=
  match u with
  | .nearRow core row =>
    regionOf loc == .near && nearCore loc == core && (loc - 2 ^ 52) / 8 % 128 == row % 128 &&
      Config.nearRow ((loc - 2 ^ 52) % 2 ^ 24 / 8) == row / 128
  | .nearBank core bank => regionOf loc == .near && nearCore loc == core && (loc - 2 ^ 52) / 8 % 128 == bank
  | .hbmRow stack row => regionOf loc == .far && farStack loc == stack && Config.hbmRow (farOffset loc / 64) == row
  | .track _ _ => false

/-- An access to a fenced unit waits at its home. -/
def fenced (s : State) (loc : Nat) : Bool := s.mgmt.recoveries.any fun r => inUnit r.unit loc

/-- Whether one of some bytes lies in a fenced unit. -/
def rangeFenced (s : State) (loc n : Nat) : Bool :=
  !s.mgmt.recoveries.isEmpty && (List.range n).any fun k => fenced s (loc + k)

/-- Whether an access of n bytes waits: one of a cacheable far page may fetch whole lines. -/
def accessFenced (s : State) (loc n : Nat) (cached : Bool) : Bool :=
  if cached && regionOf loc == .far then rangeFenced s (lineOf loc * 64) ((loc % 64 + n + 63) / 64 * 64) else rangeFenced s loc n

/-- Whether a dirty byte of a core's L1 would be written back to a fenced unit. -/
def dirtyFenced (s : State) (core : Nat) : Bool :=
  !s.mgmt.recoveries.isEmpty && s.l1.any fun l => l.core == core && l.dirty.any fun o => fenced s (l.line * 64 + o)

/-! ### Scopes (R110, R323, R327) -/

/-- Die scope or wider. -/
def Scope.reachesDie : Scope → Bool
  | .hart | .core => false
  | _ => true

/-- Package or system scope. -/
def Scope.reachesPackage : Scope → Bool
  | .package | .system => true
  | _ => false

/-- A line with stored bytes as an acquire or a fence leaves it: its other bytes are those that a new fill takes from the die's far cache, or, in
words that it has stored into, from their home (R329). -/
def l1Refill (s : State) (core line : Nat) : State :=
  match l1Hit s core line with
  | none => s
  | some l =>
    let (s, f) := farFill s (coreDie core) line
    let old := fun (o : Nat) => l.dirty.contains o
    let l : L1Line := { l with
      bytes := (List.range 64).map fun o => if old o then l.bytes.getD o 0 else f.bytes.getD o 0
      poison := l.poison.filter old ++ f.poison.filter (!old ·) }
    l1Put s (l.refresh s l.stored)

/-- The lines that an L1 may keep after an acquire or a fence: none that is clean; of one with stored bytes these, the others filled anew. -/
def l1Renew (s : State) (core : Nat) : State :=
  let s := { s with l1 := s.l1.filter fun l => l.core != core || !l.dirty.isEmpty }
  (l1Lines s core fun _ => true).foldl (fun s line => l1Refill s core line) s

/-- The cache effects of an acquire (R107, R108): at package or system scope no later load of the hart returns a far-cache line filled before,
and later scalar loads return nothing from lines filled before. What the core has stored stays in the L1. -/
def cacheAcquire (s : State) (core : Nat) (sc : Scope) : State :=
  let s := if Scope.reachesPackage sc then { s with farCache := s.farCache.filter fun l => l.die != coreDie core } else s
  if Scope.reachesDie sc then l1Renew s core else s

/-- The cache effect of a release (R107): at die scope or wider every dirty line is written back. It reaches its home then, so a release at
die scope orders for the agents of other dies too, where R131 promises nothing (log 32). -/
def cacheRelease (s : State) (core : Nat) (sc : Scope) : State :=
  if Scope.reachesDie sc then l1CleanAll s core (fun l => !l.dirty.isEmpty) else s

/-- The value an acquire takes comes from the point of coherence of its scope (R323), where an earlier store of its core to the line has
been performed (R324). -/
def acquireRead (s : State) (core loc n : Nat) (cached : Bool) (sc : Scope) : State × List Byte × Bool :=
  if Scope.reachesDie sc then
    let s := if cached then l1Clean s core (lineOf loc) else passL1 s core loc
    dieRead s (coreDie core) loc n (cached && !Scope.reachesPackage sc)
  else scalarRead s core loc n cached

/-! ### Translation (R394 to R397) -/

/-- How an access is meant: load, store, fetch, atomic, or an engine's read or write (R399). -/
inductive AccessKind where
  | load | store | fetch | atomic | engineRead | engineWrite
deriving DecidableEq, Repr

def AccessKind.code : AccessKind → Nat
  | .load => 0 | .store => 1 | .fetch => 2 | .atomic => 3 | .engineRead => 4 | .engineWrite => 5

/-- Why an access cannot go on: a trap; a missing translation (R396: address, level, cause); a host page that ATS does not
know yet; a unit fenced for recovery; a location that does not exist. -/
inductive Stop where
  | trap (code : BitVec 8) (faddr : Word)
  | missing (va : Word) (level cause : Nat)
  | ats (page : Nat)
  | fenced
  | hole (loc : Nat)
deriving DecidableEq, Repr

/-- A page table entry (R395). -/
structure Pte where
  v : Bool
  leaf : Bool
  r : Bool
  w : Bool
  x : Bool
  c : Bool
  cont : Bool
  sl : Bool
  tgt : Nat
  res : Nat
  pa : Nat
  stack : Nat
  peer : Nat
deriving DecidableEq, Repr

def Pte.ofNat (n : Nat) : Pte where
  v := n.testBit 0
  leaf := n.testBit 1
  r := n.testBit 2
  w := n.testBit 3
  x := n.testBit 4
  c := n.testBit 5
  cont := n.testBit 6
  sl := n.testBit 7
  tgt := n / 2 ^ 8 % 4
  res := n / 2 ^ 10 % 4 + n / 2 ^ 61
  pa := n / 2 ^ 12 % 2 ^ 40 * 2 ^ 12
  stack := n / 2 ^ 52 % 32
  peer := n / 2 ^ 57 % 16

/-- An entry at its home in far memory. -/
def readPte (m : List Host.Cell) (loc : Nat) : Pte := Pte.ofNat (leNat (Memory.readAll m loc 8))

/-- The first far location of the dump region (R407). -/
def dumpBase : Nat := 0x17F80000000

/-- Whether a device-far leaf's page of 2^bits bytes holds a byte of the dump region (R396): a page of the default kind by
its addresses, a stack-local one by the offsets whose images reach the region. -/
def leafMeetsDump (e : Pte) (bits : Nat) : Bool :=
  if e.sl then
    let lastOff := e.pa + 2 ^ bits - 4096
    decide (dumpBase ≤ stackLoc e.stack lastOff) && decide (e.pa < 64 * 2 ^ 30)
  else decide (dumpBase < e.pa + 2 ^ bits) && decide (e.pa < farBytes)

/-- The malformed entries of R396. -/
def Pte.malformed (e : Pte) (level : Nat) : Bool :=
  decide (e.res ≠ 0) || (e.leaf && level == 4) || (!e.leaf && level == 0) || (e.w && !e.r) ||
  ((e.sl || e.c || e.x) && e.tgt != 0) || decide (23 < e.stack) || decide (e.tgt = 3) ||
  (e.leaf && decide (e.pa % 2 ^ (12 + 8 * level) ≠ 0)) ||
  (e.leaf && e.tgt == 0 && leafMeetsDump e (12 + 8 * level))

/-- The 16 entries of a CONT group agree, and none of them is malformed (R396): the larger page holds no byte of the dump
region. -/
def contGroup (m : List Host.Cell) (table index level : Nat) (e : Pte) : Bool :=
  let first := index / 16 * 16
  let base := (readPte m (table + 8 * first)).pa
  decide (level < 3) && decide (base % 2 ^ (16 + 8 * level) = 0) &&
  !(e.tgt == 0 && leafMeetsDump { e with pa := base } (16 + 8 * level)) &&
  (List.range 16).all fun i =>
    readPte m (table + 8 * (first + i)) == { e with pa := base + i * 2 ^ (12 + 8 * level) }

/-- The walk from a table at a level (R394, R396). -/
def walkFrom (m : List Host.Cell) (va : Nat) : Nat → Nat → Except (Nat × Nat) Leaf
  | level, table =>
    let index := va / 2 ^ (12 + 8 * level) % 256
    let e := readPte m (table + 8 * index)
    if !e.v then .error (level, 1)
    else if e.malformed level then .error (level, 2)
    else if e.leaf then
      if e.cont && contGroup m table index level e then
        .ok ⟨16 + 8 * level, e.r, e.w, e.x, e.c, e.sl, e.tgt, (readPte m (table + 8 * (index / 16 * 16))).pa, e.stack, e.peer⟩
      else .ok ⟨12 + 8 * level, e.r, e.w, e.x, e.c, e.sl, e.tgt, e.pa, e.stack, e.peer⟩
    else
      match level with
      | 0 => .error (0, 2)
      | l + 1 => walkFrom m va l e.pa
  termination_by structural l => l

/-- Whether the walk from a table at a level reads an entry that lies in a fenced unit (R130). -/
def walkFenced (s : State) (va : Nat) : Nat → Nat → Bool
  | level, table =>
    let index := va / 2 ^ (12 + 8 * level) % 256
    let e := readPte s.mem (table + 8 * index)
    fenced s (table + 8 * index) ||
      (e.v && !e.malformed level &&
        if e.leaf then e.cont && (List.range 16).any fun i => fenced s (table + 8 * (index / 16 * 16 + i))
        else
          match level with
          | 0 => false
          | l + 1 => walkFenced s va l e.pa)
  termination_by structural l => l

/-- The translation that a core's TLB or a die's walk cache holds (R396). -/
def tlbHit (entries : List TlbEntry) (owner : Nat) (part : Fin 8) (va : Nat) : Option Leaf :=
  (entries.find? fun e => e.owner == owner && e.part == part && va / 2 ^ e.leaf.bits == e.page).map (·.leaf)

/-- The leaf of a mapped address: the TLB of the core, the walk cache of its die, or the walk. -/
def leafOf (s : State) (core : Nat) (part : Fin 8) (va : Nat) : Except (Nat × Nat) Leaf :=
  let root := s.parts[part].ptroot
  if root.getLsbD 0 == false then .error (4, 3)
  else
    match tlbHit s.tlb core part va with
    | some l => .ok l
    | none =>
      match tlbHit s.walkCache (coreDie core) part va with
      | some l => .ok l
      | none => walkFrom s.mem va 4 (root.toNat / 2 ^ 12 % 2 ^ 40 * 2 ^ 12)

/-- Whether the translation of a mapped address waits: it takes a walk that meets a fenced unit (R130, R403). -/
def tableFenced (s : State) (core : Nat) (part : Fin 8) (va : Nat) : Bool :=
  let root := s.parts[part].ptroot
  !s.mgmt.recoveries.isEmpty && root.getLsbD 0 && (tlbHit s.tlb core part va).isNone &&
    (tlbHit s.walkCache (coreDie core) part va).isNone && walkFenced s va 4 (root.toNat / 2 ^ 12 % 2 ^ 40 * 2 ^ 12)

/-- The PASID of a partition (R368): the one that is set, or one of which nothing is known (log 57). -/
def pasidOf (s : State) (p : Fin 8) : BitVec 20 := (s.parts[p].pasid).getD (Config.pasid p)

/-- The location of an address under a leaf, for a partition's PASID. -/
def leafLoc (pasid : BitVec 20) (l : Leaf) (va : Nat) : Nat :=
  let off := va % 2 ^ l.bits
  match l.tgt with
  | 0 => if l.sl then stackLoc l.stack (l.pa + off) else l.pa + off
  | 1 => hostLoc pasid (l.pa + off)
  | _ => peerLoc l.peer (l.pa + off)

/-- The permission an access needs. -/
def leafPermits (l : Leaf) : AccessKind → Bool
  | .load | .engineRead => l.r
  | .store | .engineWrite => l.w
  | .fetch => l.x
  | .atomic => l.r && l.w

/-- Whether a partition holds a core (R102, R413). -/
def partHasCore (s : State) (part : Fin 8) (core : Nat) : Bool := (s.parts[part].dies).getLsbD (coreDie core)

/-- What an address reaches (R102, R233 steps 2 to 4, R238): a location, and whether its page is cacheable. peerReads says
that a read of peer memory is allowed (Shuttle copies, R233). -/
def translate (s : State) (core : Nat) (part : Fin 8) (va : Word) (k : AccessKind) (peerReads : Bool) :
    Except Stop (Nat × Bool) :=
  let a := va.toNat
  if 2 ^ 52 ≤ a then .error (.trap 0x07 va)
  else if 0xF000140000000 ≤ a then .error (.trap 0x07 va)
  else if 0xF000000000000 ≤ a then
    let off := a - 0xF000000000000
    if partHasCore s part (off / 2 ^ 24) then
      if fenced s (nearLoc off) then .error .fenced else .ok (nearLoc off, false)
    else .error (.trap 0x07 va)
  else if tableFenced s core part a then .error .fenced
  else
    match leafOf s core part a with
    | .error (level, cause) => .error (.missing va level cause)
    | .ok l =>
      let loc := leafLoc (pasidOf s part) l a
      if l.tgt == 2 && !peerReads && (k == .load || k == .engineRead) then .error (.trap 0x07 va)
      else if !leafPermits l k then .error (.trap 0x07 va)
      else if l.tgt == 1 && !s.granted.contains (part, (l.pa + a % 2 ^ l.bits) / 4096) then
        .error (.ats ((l.pa + a % 2 ^ l.bits) / 4096))
      else if l.tgt == 0 && decide (farBytes ≤ loc) then .error (.hole loc)
      else if fenced s loc then .error .fenced
      else .ok (loc, l.c)

/-- A translation that was used stays in the core's TLB, 512 entries, and in the die's walk cache (R396). -/
def noteTlb (s : State) (core : Nat) (part : Fin 8) (va : Word) : State :=
  let a := va.toNat
  if 0xF000000000000 ≤ a then s
  else
    match tlbHit s.tlb core part a with
    | some _ => s
    | none =>
      match leafOf s core part a with
      | .error _ => s
      | .ok l =>
        let mine := (s.tlb.filter fun e => e.owner == core).take 511
        let others := s.tlb.filter fun e => e.owner != core
        let e : TlbEntry := ⟨core, part, a / 2 ^ l.bits, l⟩
        let s := { s with tlb := e :: (mine ++ others) }
        match tlbHit s.walkCache (coreDie core) part a with
        | some _ => s
        | none => { s with walkCache := { e with owner := coreDie core } :: s.walkCache }

/-- An invalidation removes the entries it names (R284, R397): of one page, of a partition, or all. -/
def tlbInvalidate (s : State) (p : TlbEntry → Bool) : State :=
  { s with tlb := s.tlb.filter (fun e => !p e), walkCache := s.walkCache.filter (fun e => !p e) }

end Sys2Proof.Machine
end

