-- ==== Sys2Proof/Machine/Float.lean ====
section
/-! DEFINITION. Floating point: the formats of R75, exact values, one rounding (R76 to R80), and the operations of R79,
R174 and R196. A value is a sign, a natural number and a power of two; nothing is rounded before its rounding point. -/
namespace Sys2Proof.Machine

open Sys2Proof

/-- Exception flags in the bit positions of fflags (R62): NX 4, UF 3, OF 2, DZ 1, NV 0. -/
abbrev Flags := BitVec 5
def flagNV : Flags := 0x01
def flagDZ : Flags := 0x02
def flagOF : Flags := 0x04
def flagUF : Flags := 0x08
def flagNX : Flags := 0x10

/-- The rounding modes of frm (R62). -/
inductive Rounding where
  | nearestEven | towardZero | down | up | nearestAway
deriving DecidableEq, Repr

def Rounding.ofWord (w : Word) : Rounding :=
  match w.toNat % 8 with
  | 1 => .towardZero
  | 2 => .down
  | 3 => .up
  | 4 => .nearestAway
  | _ => .nearestEven

/-- Fraction bits of a format (R75). -/
def FloatFmt.frac : FloatFmt → Nat
  | .f16 => 10 | .bf16 => 7 | .f32 => 23 | .f64 => 52
/-- Exponent bits of a format (R75). -/
def FloatFmt.expo : FloatFmt → Nat
  | .f16 => 5 | .bf16 => 8 | .f32 => 8 | .f64 => 11
def FloatFmt.width (f : FloatFmt) : Nat := FloatFmt.frac f + FloatFmt.expo f + 1
def FloatFmt.bias (f : FloatFmt) : Nat := 2 ^ (FloatFmt.expo f - 1) - 1

/-- The format of a float element type. -/
def fmtOf : ElemType → Option FloatFmt
  | .f16 => some .f16
  | .bf16 => some .bf16
  | .f32 => some .f32
  | .f64 => some .f64
  | _ => none

/-- A float value: a NaN (signalling or quiet), an infinity, a zero, or ±m·2^e with m > 0. -/
inductive FVal where
  | nan (signalling : Bool)
  | inf (neg : Bool)
  | zero (neg : Bool)
  | fin (neg : Bool) (m : Nat) (e : Int)
deriving DecidableEq, Repr

def FVal.isNan : FVal → Bool
  | .nan _ => true
  | _ => false

def FVal.isSignalling : FVal → Bool
  | .nan b => b
  | _ => false

def FVal.neg : FVal → Bool
  | .nan _ => false
  | .inf b => b
  | .zero b => b
  | .fin b _ _ => b

def FVal.negate : FVal → FVal
  | .nan b => .nan b
  | .inf b => .inf !b
  | .zero b => .zero !b
  | .fin b m e => .fin (!b) m e

/-- The value of a format's bits (R75, R77). -/
def fDecode (f : FloatFmt) (bits : Nat) : FVal :=
  let fb := FloatFmt.frac f
  let frac := bits % 2 ^ fb
  let ex := bits / 2 ^ fb % 2 ^ FloatFmt.expo f
  let neg := bits / 2 ^ (fb + FloatFmt.expo f) % 2 == 1
  if ex = 2 ^ FloatFmt.expo f - 1 then
    if frac = 0 then .inf neg else .nan (decide (frac < 2 ^ (fb - 1)))
  else if ex = 0 then
    if frac = 0 then .zero neg else .fin neg frac (1 - (FloatFmt.bias f : Int) - fb)
  else .fin neg (2 ^ fb + frac) ((ex : Int) - FloatFmt.bias f - fb)

def fSign (f : FloatFmt) (neg : Bool) : Nat := if neg then 2 ^ (FloatFmt.frac f + FloatFmt.expo f) else 0
def fInf (f : FloatFmt) (neg : Bool) : Nat :=
  fSign f neg + (2 ^ FloatFmt.expo f - 1) * 2 ^ FloatFmt.frac f
/-- The canonical NaN (R75). -/
def fNan (f : FloatFmt) : Nat := fInf f false + 2 ^ (FloatFmt.frac f - 1)

/-- Whether a magnitude n·q + r, with r compared to the half, rounds up (R62). cmp: 0 exact, 1 below, 2 at, 3 above half. -/
def roundsUp (rm : Rounding) (neg : Bool) (n cmp : Nat) : Bool :=
  match rm with
  | .nearestEven => cmp == 3 || (cmp == 2 && n % 2 == 1)
  | .nearestAway => cmp == 3 || cmp == 2
  | .towardZero => false
  | .down => neg && cmp != 0
  | .up => !neg && cmp != 0

/-- m·2^e (and a little more when sticky) as a multiple of 2^q: the integer part and the comparison of the rest. -/
def splitAt (m : Nat) (e q : Int) (sticky : Bool) : Nat × Nat :=
  if q ≤ e then (m * 2 ^ (e - q).toNat, if sticky then 1 else 0)
  else
    let sh := (q - e).toNat
    let n := m / 2 ^ sh
    let r := m % 2 ^ sh
    let half := 2 ^ (sh - 1)
    (n, if r = half then (if sticky then 3 else 2) else if half < r then 3 else if r = 0 && !sticky then 0 else 1)

/-- Rounds ±m·2^e (m > 0; sticky: a nonzero part below the last bit of m) once into a format: the bits and the flags OF, UF,
NX (R76, R78). Overflow gives an infinity in every direction (R8). -/
def fRound (f : FloatFmt) (rm : Rounding) (neg : Bool) (m : Nat) (e : Int) (sticky : Bool) : Nat × Flags :=
  let fb := FloatFmt.frac f
  let emin : Int := 1 - FloatFmt.bias f
  let top : Int := (Nat.log2 m : Int) + e
  let q : Int := max (top - fb) (emin - fb)
  let (n, c) := splitAt m e q sticky
  let n' := if roundsUp rm neg n c then n + 1 else n
  let nx : Flags := if c = 0 then 0 else flagNX
  let (u, cu) := splitAt m e (top - fb) sticky
  let u' := if roundsUp rm neg u cu then u + 1 else u
  let tiny := decide (top < emin) && !(top == emin - 1 && u' == 2 ^ (fb + 1))
  let uf : Flags := if tiny && c != 0 then flagUF else 0
  if n' < 2 ^ fb then (fSign f neg + n', nx ||| uf)
  else
    let (frac, ex) : Nat × Int := if n' = 2 ^ (fb + 1) then (2 ^ fb, q + fb + 1) else (n', q + fb)
    if (FloatFmt.bias f : Int) < ex then
      (fInf f neg, flagOF ||| flagNX)
    else (fSign f neg + (ex + FloatFmt.bias f).toNat * 2 ^ fb + (frac - 2 ^ fb), nx ||| uf)

/-- NV for a signalling operand (R78). -/
def nvOf (xs : List FVal) : Flags := if xs.any FVal.isSignalling then flagNV else 0

/-- The exact value rounded once; zeros and infinities are exact, a NaN is canonical (R77). -/
def fResult (f : FloatFmt) (rm : Rounding) (v : FVal) (sticky : Bool) : Nat × Flags :=
  match v with
  | .nan s => (fNan f, if s then flagNV else 0)
  | .inf n => (fInf f n, 0)
  | .zero n => (fSign f n, 0)
  | .fin n m e => fRound f rm n m e sticky

/-- A signed integer times 2^e as a value; an exact zero has the given sign. -/
def fOfInt (i : Int) (e : Int) (zeroNeg : Bool) : FVal :=
  if i = 0 then .zero zeroNeg else .fin (decide (i < 0)) i.natAbs e

def signedOf (neg : Bool) (m : Nat) : Int := if neg then -(m : Int) else m

/-- The exact sum, with the flag of ∞ − ∞ and the zero signs of R77. -/
def fAddExact (rm : Rounding) (x y : FVal) : FVal × Flags :=
  if x.isNan || y.isNan then (.nan false, nvOf [x, y])
  else
    match x, y with
    | .inf a, .inf b => if a = b then (.inf a, 0) else (.nan false, flagNV)
    | .inf a, _ => (.inf a, 0)
    | _, .inf b => (.inf b, 0)
    | .zero a, .zero b => (.zero (if a = b then a else rm == .down), 0)
    | .zero _, v => (v, 0)
    | v, .zero _ => (v, 0)
    | .fin a m e, .fin b n g =>
      let lo := min e g
      let i := signedOf a m * 2 ^ (e - lo).toNat + signedOf b n * 2 ^ (g - lo).toNat
      (fOfInt i lo (rm == .down), 0)
    | _, _ => (.nan false, 0)

/-- The exact product (R78: 0 × ∞ is invalid). -/
def fMulExact (x y : FVal) : FVal × Flags :=
  if x.isNan || y.isNan then (.nan false, nvOf [x, y])
  else
    let s := x.neg != y.neg
    match x, y with
    | .inf _, .zero _ => (.nan false, flagNV)
    | .zero _, .inf _ => (.nan false, flagNV)
    | .inf _, _ => (.inf s, 0)
    | _, .inf _ => (.inf s, 0)
    | .zero _, _ => (.zero s, 0)
    | _, .zero _ => (.zero s, 0)
    | .fin _ m e, .fin _ n g => (.fin s (m * n) (e + g), 0)
    | _, _ => (.nan false, 0)

/-- Rounding an exact value with the flags gathered so far (R9). -/
def finish (f : FloatFmt) (rm : Rounding) (r : FVal × Flags) (sticky : Bool) : Nat × Flags :=
  let (bits, fl) := fResult f rm r.1 sticky
  (bits, fl ||| r.2)

def fAddV (f : FloatFmt) (rm : Rounding) (x y : FVal) : Nat × Flags := finish f rm (fAddExact rm x y) false
def fSubV (f : FloatFmt) (rm : Rounding) (x y : FVal) : Nat × Flags := finish f rm (fAddExact rm x y.negate) false
def fMulV (f : FloatFmt) (rm : Rounding) (x y : FVal) : Nat × Flags := finish f rm (fMulExact x y) false

/-- x·y + z with one rounding; 0 × ∞ raises NV even when z is a quiet NaN (R196). -/
def fFmaV (f : FloatFmt) (rm : Rounding) (x y z : FVal) : Nat × Flags :=
  let p := fMulExact x y
  if z.isNan || p.1.isNan then (fNan f, p.2 ||| nvOf [x, y, z])
  else finish f rm ((fAddExact rm p.1 z).1, (fAddExact rm p.1 z).2 ||| p.2) false

/-- The quotient of R174: DZ for a finite nonzero number over 0, NV for 0/0 and ∞/∞. -/
def fDivV (f : FloatFmt) (rm : Rounding) (x y : FVal) : Nat × Flags :=
  if x.isNan || y.isNan then (fNan f, nvOf [x, y])
  else
    let s := x.neg != y.neg
    match x, y with
    | .inf _, .inf _ => (fNan f, flagNV)
    | .zero _, .zero _ => (fNan f, flagNV)
    | .inf _, _ => (fInf f s, 0)
    | _, .inf _ => (fSign f s, 0)
    | .zero _, _ => (fSign f s, 0)
    | _, .zero _ => (fInf f s, flagDZ)
    | .fin _ m e, .fin _ n g => fRound f rm s (m * 2 ^ 128 / n) (e - g - 128) (m * 2 ^ 128 % n != 0)
    | _, _ => (fNan f, 0)

/-- The integer square root, one binary digit at a time from bit b down. -/
def isqrtFrom (n : Nat) : Nat → Nat → Nat
  | 0, acc => acc
  | b + 1, acc =>
    let t := acc + 2 ^ b
    isqrtFrom n b (if t * t ≤ n then t else acc)

def isqrt (n : Nat) : Nat := isqrtFrom n (Nat.log2 n / 2 + 1) 0

/-- An even exponent for a root: m·2^e = m'·2^(2h). -/
def evenExp (m : Nat) (e : Int) : Nat × Int := if e % 2 = 0 then (m, e / 2) else (2 * m, (e - 1) / 2)

/-- The square root (R79). -/
def fSqrtV (f : FloatFmt) (rm : Rounding) (x : FVal) : Nat × Flags :=
  match x with
  | .nan _ => (fNan f, nvOf [x])
  | .zero n => (fSign f n, 0)
  | .inf false => (fInf f false, 0)
  | .inf true => (fNan f, flagNV)
  | .fin true _ _ => (fNan f, flagNV)
  | .fin false m e =>
    let (m', h) := evenExp m e
    let big := m' * 2 ^ 128
    let r := isqrt big
    fRound f rm false r (h - 64) (r * r != big)

/-- The reciprocal (R79). -/
def fRcpV (f : FloatFmt) (rm : Rounding) (x : FVal) : Nat × Flags :=
  match x with
  | .zero n => (fInf f n, flagDZ)
  | _ => fDivV f rm (.fin false 1 0) x

/-- The reciprocal square root (R79). -/
def fRsqV (f : FloatFmt) (rm : Rounding) (x : FVal) : Nat × Flags :=
  match x with
  | .nan _ => (fNan f, nvOf [x])
  | .zero n => (fInf f n, flagDZ)
  | .inf false => (fSign f false, 0)
  | .inf true => (fNan f, flagNV)
  | .fin true _ _ => (fNan f, flagNV)
  | .fin false m e =>
    let (m', h) := evenExp m e
    let r := isqrt (2 ^ 256 / m')
    fRound f rm false r (-h - 128) (r * r * m' != 2 ^ 256)

/-- Fixed-point bits of the transcendental functions (log 17). -/
def expBits : Nat := 400
def logBits : Nat := 700
def logDigits : Nat := 256

/-- The product, in fixed point, of the roots 2^(2^-i) for the set bits of the fraction g of n bits; root is 2^(2^-(i-1)). -/
def expDigits (n g : Nat) : Nat → Nat → Nat → Nat
  | 0, _, acc => acc
  | k + 1, root, acc =>
    let root' := isqrt (root * 2 ^ expBits)
    let acc' := if g.testBit k then acc * root' / 2 ^ expBits else acc
    expDigits n g k root' acc'

/-- 2^x correctly rounded (R79): exact for an integer, otherwise irrational, so a sticky tail below enough digits. -/
def fExp2V (f : FloatFmt) (rm : Rounding) (x : FVal) : Nat × Flags :=
  match x with
  | .nan _ => (fNan f, nvOf [x])
  | .zero _ => fRound f rm false 1 0 false
  | .inf false => (fInf f false, 0)
  | .inf true => (fSign f false, 0)
  | .fin neg m e =>
    if 0 ≤ e then
      -- an integer; beyond 4096 in magnitude every format overflows or underflows
      let i := min (m * 2 ^ (min e 16).toNat) 8192
      fRound f rm false 1 (signedOf neg i) false
    else
      let d := (-e).toNat
      if m % 2 ^ d = 0 then fRound f rm false 1 (signedOf neg (min (m / 2 ^ d) 8192)) false
      else if 4096 ≤ m / 2 ^ d then fRound f rm false 1 (signedOf neg 4096) true
      else if m * 2 ^ 80 < 2 ^ d then
        -- within 2^-80 of 1: just above or just below it
        if neg then fRound f rm false (2 ^ 80 - 1) (-80) true else fRound f rm false (2 ^ 80) (-80) true
      else
        let t := signedOf neg m
        let whole := t / 2 ^ d
        let g := (t - whole * 2 ^ d).toNat
        let p := expDigits d g d (2 ^ (expBits + 1)) (2 ^ expBits)
        fRound f rm false (p / 2 ^ 16) (whole - expBits + 16) true

/-- Binary digits of log2 r for r in [1, 2), in fixed point, by squaring. -/
def logDigitsOf : Nat → Nat → Nat → Nat
  | 0, _, acc => acc
  | k + 1, r, acc =>
    let sq := r * r / 2 ^ logBits
    if 2 ^ (logBits + 1) ≤ sq then logDigitsOf k (sq / 2) (2 * acc + 1) else logDigitsOf k sq (2 * acc)

/-- log2 x correctly rounded (R79): exact for a power of two, otherwise irrational. -/
def fLog2V (f : FloatFmt) (rm : Rounding) (x : FVal) : Nat × Flags :=
  match x with
  | .nan _ => (fNan f, nvOf [x])
  | .zero _ => (fInf f true, flagDZ)
  | .inf false => (fInf f false, 0)
  | .inf true => (fNan f, flagNV)
  | .fin true _ _ => (fNan f, flagNV)
  | .fin false m e =>
    let l := Nat.log2 m
    let whole : Int := (l : Int) + e
    if m = 2 ^ l then
      if whole = 0 then (fSign f false, 0)
      else fRound f rm (decide (whole < 0)) whole.natAbs 0 false
    else
      let n := logDigitsOf logDigits (m * 2 ^ logBits / 2 ^ l) 0
      let k : Int := whole * 2 ^ logDigits + n
      if 0 ≤ k then fRound f rm false k.toNat (-(logDigits : Int)) true
      else fRound f rm true (-k - 1).toNat (-(logDigits : Int)) true

/-! ### Comparison -/

/-- The order of two numbers, none of them a NaN: −0 equals +0. -/
def fLtV (x y : FVal) : Bool :=
  match x, y with
  | .inf true, .inf true => false
  | .inf true, _ => true
  | _, .inf true => false
  | .inf false, _ => false
  | _, .inf false => true
  | _, _ =>
    let v : FVal → Int × Int := fun z => match z with
      | .fin n m e => (signedOf n m, e)
      | _ => (0, 0)
    let a := v x
    let b := v y
    let lo := min a.2 b.2
    decide (a.1 * 2 ^ (a.2 - lo).toNat < b.1 * 2 ^ (b.2 - lo).toNat)

def fEqV (x y : FVal) : Bool := !fLtV x y && !fLtV y x

/-- The order in which −0 lies below +0 (R174, R92). -/
def fBelowV (x y : FVal) : Bool :=
  match x, y with
  | .zero true, .zero false => true
  | _, _ => fLtV x y

/-- FMIN and FMAX (R174): a NaN operand gives the canonical NaN. -/
def fMinMaxV (f : FloatFmt) (isMax : Bool) (xb yb : Nat) : Nat × Flags :=
  let x := fDecode f xb
  let y := fDecode f yb
  if x.isNan || y.isNan then (fNan f, nvOf [x, y])
  else if fBelowV x y == isMax then (yb % 2 ^ FloatFmt.width f, 0) else (xb % 2 ^ FloatFmt.width f, 0)

/-- The six conditions, with the two tests for NaNs (R174, R197). -/
inductive Cond where
  | eq | ne | lt | le | gt | ge | un | od
deriving DecidableEq, Repr

/-- A float condition and its NV (R174, R197). -/
def fCond (c : Cond) (x y : FVal) : Bool × Flags :=
  let anyNan := x.isNan || y.isNan
  match c with
  | .eq => (!anyNan && fEqV x y, nvOf [x, y])
  | .ne => (anyNan || !fEqV x y, nvOf [x, y])
  | .un => (anyNan, nvOf [x, y])
  | .od => (!anyNan, nvOf [x, y])
  | .lt => (!anyNan && fLtV x y, if anyNan then flagNV else 0)
  | .le => (!anyNan && !fLtV y x, if anyNan then flagNV else 0)
  | .gt => (!anyNan && fLtV y x, if anyNan then flagNV else 0)
  | .ge => (!anyNan && !fLtV x y, if anyNan then flagNV else 0)

/-! ### Conversion (R80) -/

/-- Float to float. -/
def fConvert (dst : FloatFmt) (rm : Rounding) (x : FVal) : Nat × Flags := fResult dst rm x false

/-- Integer to float; 0 is +0. -/
def fFromInt (dst : FloatFmt) (rm : Rounding) (i : Int) : Nat × Flags := fResult dst rm (fOfInt i 0 false) false

/-- Float to integer with the bounds of its range: rounded first, then judged (R80). -/
def fToInt (rm : Rounding) (lo hi : Int) (x : FVal) : Int × Flags :=
  match x with
  | .nan _ => (0, flagNV)
  | .inf n => (if n then lo else hi, flagNV)
  | .zero _ => (0, 0)
  | .fin n m e =>
    let (k, c) := splitAt m e 0 false
    let k' := if roundsUp rm n k c then k + 1 else k
    let i := signedOf n k'
    if i < lo then (lo, flagNV)
    else if hi < i then (hi, flagNV)
    else (i, if c = 0 then 0 else flagNX)

/-! ### RNE32 (R8) -/

def fAdd32 (a b : Nat) : Nat × Flags := fAddV .f32 .nearestEven (fDecode .f32 a) (fDecode .f32 b)

end Sys2Proof.Machine
end

