-- ==== Sys2Proof/Machine/Flags.lean ====
section
/-! DEFINITION. The flag computations: fflags, vsat (R9, R62), and the flags that the conversions, the canonical sums and
the saturating forms raise with their results. -/
namespace Sys2Proof.Machine

open Sys2Proof

/-- What an element's computation gives: its bits, its exceptions, and whether a saturation occurred (R9, R72). -/
structure Elt where
  bits : Word
  flags : Flags
  sat : Bool
deriving DecidableEq, Repr

/-- A result that raises nothing. -/
def Elt.quiet (w : Word) : Elt := ⟨w, 0, false⟩

def Elt.ofFloat (r : Nat × Flags) : Elt := ⟨BitVec.ofNat 64 r.1, r.2, false⟩

/-- The union of the exceptions of several results (R9). -/
def flagsOf (es : List Elt) : Flags := es.foldl (fun f e => f ||| e.flags) 0
def satOf (es : List Elt) : Bool := es.any Elt.sat

/-- ORing exceptions into fflags when an instruction commits (R9). -/
def orFlags (fflags : Word) (f : Flags) : Word := fflags ||| f.setWidth 64

/-- Setting vsat when an instruction commits (R9). -/
def orSat (vsat : Word) (sat : Bool) : Word := if sat then 1 else vsat

/-- Whether committed exceptions meet the partition's enables (R279). -/
def arithTraps (fptrap : Word) (f : Flags) : Bool := (fptrap &&& f.setWidth 64) != 0

/-- `sat_t` of R72: the value clamped to [lo, hi], and whether it was. -/
def satTo (lo hi x : Int) : Int × Bool := if x < lo then (lo, true) else if hi < x then (hi, true) else (x, false)

end Sys2Proof.Machine
end

