-- ==== Sys2Proof/Machine/Operands.lean ====
section
/-! DEFINITION. The operand forms: scalar registers, element types, masks, value registers and queue rows as sources and
destinations, activity of elements, and the tag rules of R48 to R56. -/
namespace Sys2Proof.Machine

open Sys2Proof

/-! ### Scalar registers (R47) -/

/-- Register 0 reads as zero. -/
def regGet (f : ScalarFile) (r : Reg) : Word := if r = 0 then 0 else f[r]

/-- A write to register 0 is discarded. -/
def regSet (f : ScalarFile) (r : Reg) (v : Word) : ScalarFile := if r = 0 then f else f.set r v

def signExtend32 (imm : BitVec 32) : Word := imm.signExtend 64

/-! ### Element types (R50, R70) -/

/-- The width in bits. -/
def width : ElemType → Nat
  | .i8 | .n8 => 8
  | .i16 | .n16 | .f16 | .bf16 | .idx16 => 16
  | .i32 | .n32 | .f32 => 32
  | .i64 | .n64 | .f64 => 64
  | .qn4 => 4

/-- The I types (R70). -/
def isSigned : ElemType → Bool
  | .i8 | .i16 | .i32 | .i64 => true
  | _ => false

/-- The zero of a type: code 7 for QN4 (R81), otherwise no bit set. -/
def zeroOf : ElemType → Word
  | .qn4 => 7
  | _ => 0

/-- An element's bits: the low bits of the type's width. -/
def trunc (t : ElemType) (w : Word) : Word := BitVec.ofNat 64 (w.toNat % 2 ^ width t)

/-- An integer element's value (R70). -/
def intVal (t : ElemType) (w : Word) : Int :=
  let n := w.toNat % 2 ^ width t
  if isSigned t && decide (2 ^ (width t - 1) ≤ n) then (n : Int) - 2 ^ width t else n

/-- The low bits of an exact integer (R71). -/
def intBits (t : ElemType) (i : Int) : Word := BitVec.ofNat 64 (i % 2 ^ width t).toNat

/-- The range of an integer type (R70). -/
def intLo (t : ElemType) : Int := if isSigned t then -(2 ^ (width t - 1)) else 0
def intHi (t : ElemType) : Int := if isSigned t then 2 ^ (width t - 1) - 1 else 2 ^ width t - 1

/-- The vector-length class's mvl and rlen (R39, R48). -/
def mvlOf (cls : Fin 6) : Nat := 128 * 2 ^ cls.val
def rlenOf (cls : Fin 6) : Nat := 4 * mvlOf cls

/-- The capacity of a register for a type (R49). -/
def capacity (cls : Fin 6) (t : ElemType) : Nat := rlenOf cls * 8 / width t

/-- The topology capacity (R49). -/
def topoCapacity (cls : Fin 6) : Nat := rlenOf cls / 2

/-- The number of bits of a mask (R49). -/
def maskBits (cls : Fin 6) : Nat := 8 * mvlOf cls

/-- The grant of R188: the smaller of the count and the capacity, one superblock at most for QN4. -/
def grantOf (cls : Fin 6) (t : ElemType) (count : Nat) : Nat :=
  let cap := capacity cls t
  min count (if t = .qn4 then min cap 16384 else cap)

/-! ### Rows as sources -/

/-- A vector source as an instruction reads it: its type, its elements (0 of the type past the last, R17, R48), the indices
of poisoned elements. -/
structure VSource where
  ty : ElemType
  elems : List Word
  poison : List Nat
deriving DecidableEq, Repr, Inhabited

/-- Element e of a source. -/
def VSource.get (v : VSource) (e : Nat) : Word := v.elems.getD e (zeroOf v.ty)

def VSource.ofRow (r : Row) : VSource := ⟨r.ty, r.elems, r.poison⟩

/-- A live value register as a source; a dead one is none (R51). -/
def VSource.ofReg (r : VReg) : Option VSource := r.ty.map fun t => ⟨t, r.elems, r.poison⟩

/-- Entry e of a topology register: 0xFFFF at or above its valid length (R55). -/
def KReg.get (k : KReg) (e : Nat) : BitVec 16 := k.links.getD e 0xFFFF

/-! ### Masks (R56) -/

/-- A mask with the bits of [lo, hi) replaced. -/
def maskPatch (old : Nat) (lo hi : Nat) (f : Nat → Bool) : Nat :=
  (List.range (hi - lo)).foldl (fun m i =>
    let e := lo + i
    if f e then m ||| 2 ^ e else if m.testBit e then m - 2 ^ e else m) old

/-- All ones below a bound. -/
def maskOnes (n : Nat) : Nat := 2 ^ n - 1

/-- The number of set bits below a bound. -/
def maskCount (m n : Nat) : Nat := ((List.range n).filter m.testBit).length

/-- The lowest set bit below a bound. -/
def maskFirst (m n : Nat) : Option Nat := (List.range n).find? m.testBit

/-- The highest set bit below a bound. -/
def maskLast (m n : Nat) : Option Nat := if m % 2 ^ n = 0 then none else some (Nat.log2 (m % 2 ^ n))

/-- vl from a mask: 0, or the highest set bit below mvl plus one, rounded up to a multiple of 64, at most mvl (R35). -/
def vlOfMask (cls : Fin 6) (m : Nat) : Nat :=
  match maskLast m (mvlOf cls) with
  | none => 0
  | some h => min ((h + 1 + 63) / 64 * 64) (mvlOf cls)

/-! ### Writing registers (R52) -/

/-- What an instruction writes: for each element a value, or nothing. -/
abbrev Written := List (Option Word)

/-- The highest written element plus one. -/
def writtenLen (w : Written) : Nat :=
  (w.length - (w.reverse.takeWhile Option.isNone).length)

/-- Elements after a write: the written ones new, the others as they were or 0 of the type. -/
def mergeElems (zero : Word) (old : List Word) (w : Written) (len : Nat) : List Word :=
  (List.range len).map fun e =>
    match w.getD e none with
    | some v => v
    | none => old.getD e zero

/-- The tag rules of R52, also where R349 and R351 say of a restored register what holds only if it was dead or of another type (log 75); what is
written is no longer poison. -/
def writeReg (r : VReg) (t : ElemType) (w : Written) : VReg :=
  let n := writtenLen w
  if r.ty = some t then
    let len := max r.elems.length n
    ⟨some t, true, mergeElems (zeroOf t) r.elems w len, r.poison.filter fun e => (w.getD e none).isNone⟩
  else if n = 0 && r.ty.isNone then r
  else ⟨some t, true, mergeElems (zeroOf t) [] w n, []⟩

/-- A topology register under the same rules, without a type (R55). -/
def writeKReg (r : KReg) (w : List (Option (BitVec 16))) : KReg :=
  let n := w.length - (w.reverse.takeWhile Option.isNone).length
  if n = 0 then (if r.dirty || !r.links.isEmpty then { r with dirty := true } else r)
  else
    ⟨true, (List.range (max r.links.length n)).map fun e =>
      match w.getD e none with
      | some v => v
      | none => r.links.getD e 0xFFFF⟩

/-! ### Packing elements into bytes (R50: two QN4 codes a byte) -/

def packElems (t : ElemType) (es : List Word) : Nat :=
  es.foldr (fun w n => w.toNat % 2 ^ width t + 2 ^ width t * n) 0

def unpackElems (t : ElemType) : Nat → Nat → List Word
  | 0, _ => []
  | k + 1, n => BitVec.ofNat 64 (n % 2 ^ width t) :: unpackElems t k (n / 2 ^ width t)

end Sys2Proof.Machine
end

