-- ==== Sys2Proof/Machine/Elem.lean ====
section
/-! DEFINITION. What the arithmetic of one element gives: the per-element results of R73, R74, R79, R80, R84, R87, R99,
R100, R196, R197 and the pieces of the canonical orders of R89 to R92. Nothing here touches the state. -/
namespace Sys2Proof.Machine

open Sys2Proof

/-! ### Element-wise arithmetic (R196) -/

/-- The two-source instructions of R196. -/
inductive Op2 where
  | add | sub | mul | mulh | div | min | max | and | or | xor | shl | shr | srr | adds | subs
deriving DecidableEq, Repr

/-- The one-source instructions of R196. -/
inductive Op1 where
  | sqrt | rcp | rsq | exp2 | log2 | abs | neg | not
deriving DecidableEq, Repr

/-- The three-source instructions of R196. -/
inductive Op3 where
  | fma | fms | mac2
deriving DecidableEq, Repr

/-- The INT tags of R195. -/
def isInt (t : ElemType) : Bool := t.isInteger
/-- The FLT tags of R195. -/
def isFlt (t : ElemType) : Bool := t.isFloat

/-- Which tags a two-source instruction accepts (R195). -/
def Op2.accepts (o : Op2) (t : ElemType) : Bool :=
  match o with
  | .add | .sub | .mul | .min | .max => isInt t || isFlt t
  | .div => isFlt t
  | _ => isInt t

def Op1.accepts (o : Op1) (t : ElemType) : Bool :=
  match o with
  | .abs | .neg => isSigned t || isFlt t
  | .not => isInt t
  | _ => isFlt t

def Op3.accepts (o : Op3) (t : ElemType) : Bool :=
  match o with
  | .mac2 => t == .i32
  | _ => isInt t || isFlt t

def eltOfInt (t : ElemType) (i : Int) : Elt := .quiet (intBits t i)

def eltSat (t : ElemType) (i : Int) : Elt :=
  let (v, s) := satTo (intLo t) (intHi t) i
  ⟨intBits t v, 0, s⟩

/-- The rounding right shift of R73: x / 2^n to the nearest integer, halves away from zero. -/
def roundShift (x : Int) (n : Nat) : Int :=
  let m := (2 * x.natAbs + 2 ^ n) / 2 ^ (n + 1)
  if x < 0 then -(m : Int) else m

/-- A right shift (R196): arithmetic for I tags, logical for the others; floor division gives both. -/
def shiftRight (t : ElemType) (x : Int) (n : Nat) : Int := if width t ≤ n then (if x < 0 then -1 else 0) else x / 2 ^ n

def int2 (o : Op2) (t : ElemType) (xw yw : Word) : Elt :=
  let x := intVal t xw
  let y := intVal t yw
  let n := yw.toNat % 2 ^ width t
  match o with
  | .add => eltOfInt t (x + y)
  | .sub => eltOfInt t (x - y)
  | .mul => eltOfInt t (x * y)
  | .mulh => eltOfInt t (x * y / 2 ^ width t)
  | .div => .quiet 0
  | .min => eltOfInt t (if x ≤ y then x else y)
  | .max => eltOfInt t (if x ≤ y then y else x)
  | .and => .quiet (trunc t (xw &&& yw))
  | .or => .quiet (trunc t (xw ||| yw))
  | .xor => .quiet (trunc t (xw ^^^ yw))
  | .shl => if width t ≤ n then .quiet 0 else eltOfInt t (x * 2 ^ n)
  | .shr => eltOfInt t (shiftRight t x n)
  | .srr => if 66 ≤ n then .quiet 0 else eltOfInt t (roundShift x n)
  | .adds => eltSat t (x + y)
  | .subs => eltSat t (x - y)

def flt2 (o : Op2) (f : FloatFmt) (rm : Rounding) (xw yw : Word) : Elt :=
  let x := fDecode f xw.toNat
  let y := fDecode f yw.toNat
  match o with
  | .add => .ofFloat (fAddV f rm x y)
  | .sub => .ofFloat (fSubV f rm x y)
  | .mul => .ofFloat (fMulV f rm x y)
  | .div => .ofFloat (fDivV f rm x y)
  | .min => .ofFloat (fMinMaxV f false xw.toNat yw.toNat)
  | .max => .ofFloat (fMinMaxV f true xw.toNat yw.toNat)
  | _ => .quiet 0

/-- A two-source element result (R196). -/
def elt2 (o : Op2) (rm : Rounding) (t : ElemType) (x y : Word) : Elt :=
  match fmtOf t with
  | some f => flt2 o f rm x y
  | none => int2 o t x y

/-- VABS and VNEG on a float: the sign bit, exactly; a NaN is canonical, NV if signalling (R196). -/
def fltSign (f : FloatFmt) (clear : Bool) (xw : Word) : Elt :=
  let x := fDecode f xw.toNat
  if x.isNan then ⟨BitVec.ofNat 64 (fNan f), nvOf [x], false⟩
  else
    let n := xw.toNat % 2 ^ FloatFmt.width f
    let s := fSign f true
    let mag := n % s
    .quiet (BitVec.ofNat 64 (if clear then mag else if n < s then n + s else mag))

/-- A one-source element result (R79, R196). -/
def elt1 (o : Op1) (rm : Rounding) (t : ElemType) (xw : Word) : Elt :=
  match fmtOf t with
  | some f =>
    let x := fDecode f xw.toNat
    match o with
    | .sqrt => .ofFloat (fSqrtV f rm x)
    | .rcp => .ofFloat (fRcpV f rm x)
    | .rsq => .ofFloat (fRsqV f rm x)
    | .exp2 => .ofFloat (fExp2V f rm x)
    | .log2 => .ofFloat (fLog2V f rm x)
    | .abs => fltSign f true xw
    | .neg => fltSign f false xw
    | .not => .quiet 0
  | none =>
    let x := intVal t xw
    match o with
    | .abs => eltOfInt t x.natAbs
    | .neg => eltOfInt t (-x)
    | _ => .quiet (trunc t (~~~ xw))

/-- The halves of R74. -/
def halfLo (w : Word) : Int := intVal .i16 w
def halfHi (w : Word) : Int := intVal .i16 (w >>> 16)

/-- A three-source element result (R74, R196). -/
def elt3 (o : Op3) (rm : Rounding) (t : ElemType) (xw yw zw : Word) : Elt :=
  match o with
  | .mac2 => eltSat .i32 (intVal .i32 zw + halfLo xw * halfLo yw + halfHi xw * halfHi yw)
  | _ =>
    match fmtOf t with
    | some f =>
      let z := fDecode f zw.toNat
      .ofFloat (fFmaV f rm (fDecode f xw.toNat) (fDecode f yw.toNat) (if o = .fms then z.negate else z))
    | none =>
      let p := intVal t xw * intVal t yw
      eltOfInt t (if o = .fms then p - intVal t zw else p + intVal t zw)

/-! ### Compares (R197) -/

/-- Which tags a compare accepts (R195). -/
def Cond.accepts (c : Cond) (t : ElemType) : Bool :=
  match c with
  | .un | .od => isFlt t
  | _ => isInt t || isFlt t

def intCond (c : Cond) (x y : Int) : Bool :=
  match c with
  | .eq => x == y
  | .ne => x != y
  | .lt => decide (x < y)
  | .le => decide (x ≤ y)
  | .gt => decide (y < x)
  | .ge => decide (y ≤ x)
  | .un => false
  | .od => true

def eltCond (c : Cond) (t : ElemType) (x y : Word) : Bool × Flags :=
  match fmtOf t with
  | some f => fCond c (fDecode f x.toNat) (fDecode f y.toNat)
  | none => (intCond c (intVal t x) (intVal t y), 0)

/-! ### Conversion (R80, R200) -/

/-- VCVT and VCVT.s from one tag to another. -/
def eltConvert (rm : Rounding) (saturate : Bool) (src dst : ElemType) (w : Word) : Elt :=
  match fmtOf src, fmtOf dst with
  | some f, some g => .ofFloat (fConvert g rm (fDecode f w.toNat))
  | some f, none =>
    let (i, fl) := fToInt rm (intLo dst) (intHi dst) (fDecode f w.toNat)
    ⟨intBits dst i, fl, false⟩
  | none, some g => .ofFloat (fFromInt g rm (intVal src w))
  | none, none => if saturate then eltSat dst (intVal src w) else eltOfInt dst (intVal src w)

/-! ### QN4 (R81, R82, R84, R87) -/

/-- The level of a code in units of 1/1024; 0 for the pad code (R81). -/
def qn4Level (c : Nat) : Int :=
  match c with
  | 0 => -1024 | 1 => -768 | 2 => -592 | 3 => -450 | 4 => -326 | 5 => -213 | 6 => -105 | 7 => 0
  | 8 => 105 | 9 => 213 | 10 => 326 | 11 => 450 | 12 => 592 | 13 => 768 | 14 => 1024 | _ => 0

/-- Whether a superblock scale is a positive finite F32 (R85, R87): its value m·2^e, or none. -/
def posScale (s : Word) : Option (Nat × Int) :=
  match fDecode .f32 s.toNat with
  | .fin false m e => some (m, e)
  | _ => none

/-- VDQ of one code under scale code sc (R87, R202). -/
def eltDequant (dst : FloatFmt) (s : Word) (code sc : Nat) : Elt :=
  if code = 15 then .quiet 0
  else
    match posScale s with
    | none => ⟨BitVec.ofNat 64 (fNan dst), flagNV, false⟩
    | some (m, e) =>
      .ofFloat (fResult dst .nearestEven (fOfInt (qn4Level code * m * (sc + 1)) (e - 18) false) false)

/-- x · 2^-k rounded to F32 (R84). -/
def prescale (x : Word) (k : Nat) : Nat × Flags :=
  match fDecode .f32 x.toNat with
  | .fin n m e => fRound .f32 .nearestEven n m (e - k) false
  | v => fResult .f32 .nearestEven v false

/-- The compare of |a| · 2^ea with |b| · 2^eb for naturals. -/
def magLt (a : Nat) (ea : Int) (b : Nat) (eb : Int) : Bool :=
  let lo := min ea eb
  decide (a * 2 ^ (ea - lo).toNat < b * 2 ^ (eb - lo).toNat)

/-- The block scale of R84: clamp(ceil(256·mx/S) − 1, 0, 255), and whether mx exceeds S. mx: an F32 magnitude's bits. -/
def blockScale (mx : Nat) (m : Nat) (e : Int) : Nat × Bool :=
  match fDecode .f32 mx with
  | .fin _ a g =>
    let sh := g + 8 - e
    let num := a * 2 ^ (max sh 0).toNat
    let den := m * 2 ^ (max (-sh) 0).toNat
    let c := (num + den - 1) / den
    (min (c - 1) 255, magLt m e a g)
  | .inf _ => (255, true)
  | _ => (0, false)

/-- The code of R84 that lies nearest to y under q = S·(s+1)/256, ties to the smaller |level|, and the new carry. y = ±a·2^g,
S·(s+1) = n·2^e, so level·q = level·n·2^(e−18). A difference of exactly 0 makes the carry +0.0, for y = −0.0 too: R84 gives it
no sign (log 59). -/
def quantCode (y : FVal) (n : Nat) (e : Int) : Nat × FVal :=
  let (yi, g) : Int × Int := match y with
    | .fin s a g => (signedOf s a, g)
    | _ => (0, e - 18)
  let lo := min g (e - 18)
  let ys := yi * 2 ^ (g - lo).toNat
  let unit : Int := n * 2 ^ (e - 18 - lo).toNat
  let dist := fun c : Nat => (ys - qn4Level c * unit).natAbs
  let best := (List.range 15).foldl (fun b c =>
    if dist c < dist b || (dist c == dist b && decide ((qn4Level c).natAbs < (qn4Level b).natAbs)) then c else b) 0
  (best, fOfInt (ys - qn4Level best * unit) lo false)

/-! ### Random draws (R99, R100) -/

def rotl64 (x : BitVec 64) (n : Nat) : BitVec 64 := x.rotateLeft n

/-- One round of mix. -/
def mixRound (s : Word × Word × Word) : Word × Word × Word :=
  let (x, y, k) := s
  let x := (x ^^^ k) * 0xA3C59AC27F4E1B6D
  let y := (y ^^^ rotl64 x 23) * 0x8E2B57D1C4A93F27
  let x := x ^^^ rotl64 y 41
  (x, y, k + 0x5B1DE8732C6F94A1)

/-- mix(K, C) of R99. -/
def mix (k : Word) (c : BitVec 128) : Word :=
  let s := mixRound (mixRound (mixRound (mixRound (mixRound (mixRound (c.setWidth 64, (c >>> 64).setWidth 64, k))))))
  s.1 ^^^ s.2.1

/-- A natural number times a negative power of two, exactly, as a float. -/
def drawFloat (f : FloatFmt) (n : Nat) (e : Int) : Word :=
  BitVec.ofNat 64 (fResult f .nearestEven (fOfInt n e false) false).1

/-- The element of a draw (R100); QN4 is rejected before. -/
def drawElt (t : ElemType) (z : Word) : Word :=
  match t with
  | .f64 => drawFloat .f64 (z.toNat / 2 ^ 11) (-53)
  | .f32 => drawFloat .f32 (z.toNat / 2 ^ 40) (-24)
  | .f16 => drawFloat .f16 (z.toNat / 2 ^ 53) (-11)
  | .bf16 => drawFloat .bf16 (z.toNat / 2 ^ 56) (-8)
  | _ => trunc t z

/-! ### Canonical orders (R89 to R92) -/

/-- The operations of reductions, scans and forests. -/
inductive CanonOp where
  | sum | max | min
deriving DecidableEq, Repr

/-- The identity of R92. -/
def canonId (o : CanonOp) (t : ElemType) : Word :=
  match fmtOf t with
  | some f =>
    BitVec.ofNat 64 (match o with
      | .sum => fSign f true
      | .max => fInf f true
      | .min => fInf f false)
  | none =>
    match o with
    | .sum => 0
    | .max => intBits t (intLo t)
    | .min => intBits t (intHi t)

/-- The combination of two partial results: the sum rounded to nearest, ties to even; max and min exact (R89, R92). -/
def canonComb (o : CanonOp) (t : ElemType) (a b : Elt) : Elt :=
  let r : Elt :=
    match o, fmtOf t with
    | .sum, some f => .ofFloat (fAddV f .nearestEven (fDecode f a.bits.toNat) (fDecode f b.bits.toNat))
    | .sum, none => eltOfInt t (intVal t a.bits + intVal t b.bits)
    | .max, some f => .ofFloat (fMinMaxV f true a.bits.toNat b.bits.toNat)
    | .min, some f => .ofFloat (fMinMaxV f false a.bits.toNat b.bits.toNat)
    | .max, none => int2 .max t a.bits b.bits
    | .min, none => int2 .min t a.bits b.bits
  ⟨r.bits, r.flags ||| a.flags ||| b.flags, false⟩

/-- One level of the pairwise tree. -/
def pairUp (o : CanonOp) (t : ElemType) : List Elt → List Elt
  | a :: b :: rest => canonComb o t a b :: pairUp o t rest
  | l => l

/-- The six levels on the 64 entries of a group (R89). -/
def groupTree (o : CanonOp) (t : ElemType) (xs : List Elt) : Elt :=
  ((pairUp o t (pairUp o t (pairUp o t (pairUp o t (pairUp o t (pairUp o t xs)))))).head?).getD (.quiet 0)

/-- One step of the Kogge–Stone scan at distance d. -/
def scanStep (o : CanonOp) (t : ElemType) (xs : List Elt) (d : Nat) : List Elt :=
  (List.range xs.length).map fun j =>
    if j < d then xs.getD j (.quiet 0) else canonComb o t (xs.getD (j - d) (.quiet 0)) (xs.getD j (.quiet 0))

/-- The local inclusive scan of a group (R91). -/
def groupScan (o : CanonOp) (t : ElemType) (xs : List Elt) : List Elt :=
  [1, 2, 4, 8, 16, 32].foldl (scanStep o t) xs

end Sys2Proof.Machine
end

