-- ==== Sys2Proof/Machine/VecCore.lean ====
section
/-! DEFINITION. How a vector instruction runs on the state of its hart: what it captured, its sources and its destination,
its active elements, and its three ends (R16, R17, R25, R51, R61, R151, R191, R193, R194). -/
namespace Sys2Proof.Machine

open Sys2Proof

/-- What an instruction runs with: what its queue entry captured (R23, R68), the element at which it starts (R61), the
element at which the vector unit must stop, if any (R155), the group of a VFETCH pass (R31), the forwarded `vf` (R203), the
mask that stood for a stage predicate (R36), the rows it had popped and the row elements it had computed before a stop, and
the random draws of earlier members of its convoy that this stopped run has not counted (R204). -/
structure VCtx where
  vl : Nat
  rl : Nat
  vstart : Nat
  stop : Option Nat
  grant : ElemType
  scal1 : Word
  scal2 : Word
  scal3 : Word
  rm : Rounding
  cyc : Bool
  rngkey : Word
  group : Option Nat
  vf : Option VSource
  stageOnes : Option (Fin 12)
  popped : List (Fin 4 × Row)
  partRow : List Word
  drawn : Nat
deriving Repr

/-- The end of a vector instruction: done, with what it forwards, its exceptions, whether it saturated, the part of a queue
row it has computed when it was stopped, and whether a forest cycle was found; a trap before any write; poison met at
an element, with the element at which the instruction can stop for it (R194); or, for a whole instruction asked to stop inside
its elements, 0, the only element it can stop at (R93, R207). -/
inductive VRes where
  | done (h : Hart) (vf : Option VSource) (flags : Flags) (sat : Bool) (part : List Word) (cycle : Bool)
  | trap (code : BitVec 8)
  | data (elem k : Nat)
  | limit (k : Nat)
deriving Repr

/-- Type mismatch and illegal instruction (R275). -/
def VRes.mismatch : VRes := .trap 0x02
def VRes.illegal : VRes := .trap 0x01

/-- An instruction as the vector unit runs it. -/
abbrev VEffect := VCtx → Hart → VRes

def Hart.withAnchor (h : Hart) (a : AnchorState) : Hart := { h with anchor := a }

/-! ### Sources (R16, R17, R150) -/

/-- The row an instruction reads from a load queue: the one it had popped, or the oldest. -/
def lqRow (c : VCtx) (h : Hart) (q : Fin 4) : Option Row :=
  match c.popped.find? (fun p => p.1 == q) with
  | some p => some p.2
  | none => h.lq[q].head?

/-- A source, or none when the type check fails: a dead register, or a row that is not there. -/
def readSource (c : VCtx) (h : Hart) (s : VSrc) : Option VSource :=
  match s with
  | .reg r _ => VSource.ofReg h.anchor.vregs[r]
  | .lq q => (lqRow c h q).map VSource.ofRow
  | .vf => c.vf

/-- The load queues that sources name, each once (R16). -/
def queuesOf (srcs : List VSrc) : List (Fin 4) :=
  (srcs.filterMap fun s => match s with
    | .lq q => some q
    | _ => none).eraseDups

/-- Popping what an instruction read, unless it had popped it before. -/
def popQueues (c : VCtx) (h : Hart) (srcs : List VSrc) : Hart :=
  (queuesOf srcs).foldl (fun h q =>
    if c.popped.any (fun p => p.1 == q) then h else { h with lq := h.lq.set q h.lq[q].tail }) h

/-! ### Activity (R7, R31, R151) -/

/-- The upper end of the elements this run may touch. -/
def VCtx.limit (c : VCtx) : Nat :=
  match c.stop with
  | none => c.vl
  | some k => min c.vl k

def VCtx.inGroup (c : VCtx) (e : Nat) : Bool :=
  match c.group with
  | none => true
  | some g => g.testBit e

/-- The selected mask bit of an element; a stage predicate that held counts as all ones (R36). -/
def maskBit (c : VCtx) (h : Hart) (sel : MaskSel) (e : Nat) : Bool :=
  match sel with
  | none => true
  | some m => c.stageOnes == some m || h.anchor.th.masks[m].testBit e

def active (c : VCtx) (h : Hart) (sel : MaskSel) (e : Nat) : Bool :=
  decide (c.vstart ≤ e) && decide (e < c.limit) && maskBit c h sel e && c.inGroup e

/-- The lowest active element that reads poison (R194). -/
def poisonAt (c : VCtx) (h : Hart) (sel : MaskSel) (bad : Nat → Bool) : Option Nat :=
  (List.range c.limit).find? fun e => active c h sel e && bad e

/-- A whole instruction asked to stop inside its elements cannot (R93, R207). -/
def VCtx.cutShort (c : VCtx) : Bool :=
  match c.stop with
  | some k => decide (k < c.vl)
  | none => false

/-- A whole instruction that starts inside its elements is refused (R61). -/
def VCtx.startsInside (c : VCtx) : Bool := decide (0 < c.vstart) && decide (c.vstart < c.vl)

/-- An instruction that starts at or past vl performs nothing (R61). -/
def VCtx.performsNothing (c : VCtx) : Bool := decide (c.vl ≤ c.vstart)

/-! ### Destinations -/

/-- The values an element-wise instruction writes (R191): f on active elements, 0 of the type where z zeroes. -/
def elementsOf (c : VCtx) (h : Hart) (p : Pred) (t : ElemType) (f : Nat → Elt) : List (Option Elt) :=
  (List.range c.limit).map fun e =>
    if e < c.vstart || !c.inGroup e then none
    else if maskBit c h p.sel e then some (f e)
    else if p.z then some (.quiet (zeroOf t)) else none

/-- Flags and saturation of what was written (R9). -/
def eltFlags (es : List (Option Elt)) : Flags := flagsOf (es.filterMap id)
def eltSats (es : List (Option Elt)) : Bool := satOf (es.filterMap id)

/-- A queue row: the elements computed now, those computed before a stop, and 0 of the type elsewhere (R17, R191). -/
def rowElems (c : VCtx) (t : ElemType) (w : Written) (n : Nat) : List Word :=
  (List.range n).map fun e =>
    match w.getD e none with
    | some v => v
    | none => if e < c.vstart then c.partRow.getD e (zeroOf t) else zeroOf t

/-- Writing a vector destination (R16, R52). A queue row is pushed when the instruction completes; until then its computed
part is kept. -/
def writeDst (c : VCtx) (h : Hart) (d : VDst) (t : ElemType) (w : Written) : Hart × List Word :=
  match d with
  | .reg r => ({ h with anchor := { h.anchor with vregs := h.anchor.vregs.set r (writeReg h.anchor.vregs[r] t w) } }, [])
  | .sq q =>
    let row := rowElems c t w c.vl
    if c.stop.isNone then ({ h with sq := h.sq.set q (h.sq[q] ++ [⟨t, row, []⟩]) }, []) else (h, row.take c.limit)

/-- Ending an instruction that performs nothing: rows named as sources are popped, a row of zeros is pushed (R61). -/
def doneNothing (c : VCtx) (h : Hart) (srcs : List VSrc) (d : Option (VDst × ElemType)) : VRes :=
  let h := popQueues c h srcs
  match d with
  | some (.sq q, t) =>
    .done { h with sq := h.sq.set q (h.sq[q] ++ [⟨t, List.replicate c.vl (zeroOf t), []⟩]) } none 0 false [] false
  | _ => .done h none 0 false [] false

/-- Whether vl exceeds the capacity of a type (R49). -/
def overCapacity (c : VCtx) (h : Hart) (t : ElemType) : Bool := decide (capacity h.cls t < c.vl)

/-- Popping happens only when the instruction completes (R25). -/
def popIfDone (c : VCtx) (h : Hart) (srcs : List VSrc) : Hart := if c.stop.isNone then popQueues c h srcs else h

/-- The element-wise run (R191) once its tags have been accepted: caps are the types whose capacity bounds vl, bad says which
elements read poison, whole that it may not stop inside. Every element is computed from values read before any write (R7). -/
def elementRun (whole : Bool) (p : Pred) (d : VDst) (t : ElemType) (names : List VSrc) (caps : List ElemType)
    (bad : Nat → Bool) (f : Nat → Elt) : VEffect :=
  fun c h =>
    if (t :: caps).any (overCapacity c h) then .illegal
    else if c.performsNothing then doneNothing c h names (some (d, t))
    else if whole && c.startsInside then .illegal
    else
      match poisonAt c h p.sel bad with
      | some k => .data k (if whole then 0 else k)
      | none =>
        if whole && c.cutShort then .limit 0
        else
          let es := elementsOf c h p t f
          let h' := popIfDone c h names
          let (h', part) := writeDst c h' d t (es.map (Option.map Elt.bits))
          .done h' none (eltFlags es) (eltSats es) part false

/-- A destination register that is also a source of another tag makes an instruction whole (R194). -/
def retypesSource (d : VDst) (t : ElemType) (names : List VSrc) (srcs : List VSource) : Bool :=
  match d with
  | .sq _ => false
  | .reg r => (names.zip srcs).any fun x =>
      match x.1 with
      | .reg r' _ => r' == r && x.2.ty != t
      | _ => false

/-- The element-wise run whose element e reads element e of each source. -/
def elementwise (p : Pred) (d : VDst) (t : ElemType) (names : List VSrc) (srcs : List VSource) (f : Nat → Elt) : VEffect :=
  elementRun (retypesSource d t names srcs) p d t names (srcs.map VSource.ty)
    (fun e => srcs.any fun s => s.poison.contains e) f

/-- Writing bits of a mask (R56, R197): active elements get the condition, others are cleared when z is set. -/
def maskwise (p : Pred) (m : MaskReg) (names : List VSrc) (srcs : List VSource) (f : Nat → Bool × Flags) : VEffect :=
  fun c h =>
    if srcs.any (fun s => overCapacity c h s.ty) then .illegal
    else if c.performsNothing then doneNothing c h names none
    else
      match poisonAt c h p.sel (fun e => srcs.any fun s => s.poison.contains e) with
      | some k => .data k k
      | none =>
        let old := h.anchor.th.masks[m]
        let new := maskPatch old c.vstart c.limit fun e =>
          if !c.inGroup e then old.testBit e
          else if maskBit c h p.sel e then (f e).1
          else if p.z then false else old.testBit e
        let fl := (List.range c.limit).foldl (fun fl e => if active c h p.sel e then fl ||| (f e).2 else fl) (0 : Flags)
        let h' := popIfDone c h names
        .done { h' with anchor := { h'.anchor with th := { h'.anchor.th with masks := h'.anchor.th.masks.set m new } } }
          none fl false [] false

/-- Setting a scalar register of the Anchor from the vector unit. -/
def setAnchorReg (h : Hart) (r : Reg) (v : Word) : Hart :=
  { h with anchor := { h.anchor with th := { h.anchor.th with regs := regSet h.anchor.th.regs r v } } }

end Sys2Proof.Machine
end

