-- ==== Sys2Proof/Machine/MatrixUnit.lean ====
section
/-! DEFINITION. The matrix engine: staging, multiplying, tile moves, and the oldest entry of a hart's matrix queue (R128, R129,
R256 to R266). -/
namespace Sys2Proof.Machine

open Sys2Proof

def setHart (s : State) (i : Nat) (h : Hart) : State := { s with harts := s.harts.set i h }

def setAnchor (s : State) (i : Nat) (h : Hart) (a : AnchorState) : State := setHart s i { h with anchor := a }

/-! ### Staging (R258, R259) -/

/-- RNE(m·2^e) as an integer. -/
def rneInt (neg : Bool) (m : Nat) (e : Int) : Int :=
  let (k, c) := splitAt m e 0 false
  signedOf neg (if roundsUp .nearestEven neg k c then k + 1 else k)

def clampTo (lo hi x : Int) : Int := if x < lo then lo else if hi < x then hi else x

/-- ⌊log2 |x|⌋ of the largest finite nonzero element (R259). -/
def rowExponent (xs : List FVal) : Option Int :=
  xs.foldl (fun b x => match x with
    | .fin _ m e =>
      let l : Int := (Nat.log2 m : Int) + e
      match b with
      | none => some l
      | some k => some (max k l)
    | _ => b) none

/-- One row of a K-group from its 64 elements (R259). sr: the row's QN4 scale code; s: the superblock scale. -/
def stageRow (t : ElemType) (p : Nat) (xs : List Word) (sr : Nat) (s : Word) : StagedRow :=
  let hi : Int := 2 ^ (p - 1) - 1
  let lo : Int := -(2 ^ (p - 1))
  let one : BitVec 32 := 0x3F800000
  match fmtOf t with
  | some f =>
    let vs := xs.map fun x => fDecode f x.toNat
    let bad := vs.any fun v => match v with
      | .nan _ => true
      | .inf _ => true
      | _ => false
    if bad then ⟨List.replicate 64 0, 0, one, true⟩
    else
      match rowExponent vs with
      | none => ⟨List.replicate 64 0, 0, one, false⟩
      | some ex =>
        ⟨vs.map (fun v => match v with
          | .fin n m e => clampTo lo hi (rneInt n m (e + (p : Int) - 2 - ex))
          | _ => 0), ex - ((p : Int) - 2), one, false⟩
  | none =>
    if t = .qn4 then
      let g := (fMulV .f32 .nearestEven (fDecode .f32 s.toNat) (fOfInt (sr + 1) (-8) false)).1
      ⟨xs.map (fun x => qn4Level x.toNat), -10, BitVec.ofNat 32 g, false⟩
    else if isSigned t then ⟨xs.map (fun x => clampTo lo hi (intVal t x)), 0, one, false⟩
    else ⟨xs.map (fun x => clampTo 0 (2 ^ p - 1) (intVal t x)), 0, one, false⟩

/-- The element of the operand at row r, column k (R258). -/
def operandAt (v : VReg) (t : ElemType) (vl kc limit r k : Nat) : Word :=
  if k < kc && decide (r * kc + k < vl) && decide (r < limit) then v.elems.getD (r * kc + k) (zeroOf t) else zeroOf t

/-- The groups an MSTAGE writes, from its area upward. -/
def stageGroups (v scales : VReg) (t : ElemType) (loc vl p limit : Nat) (s : Word) : List StagedGroup :=
  let kc := (vl + 63) / 64
  let gs := (kc + 63) / 64
  (List.range gs).map fun g =>
    ⟨loc + g * (512 * p + 256), 512 * p + 256, isInt t,
      (List.range 64).map fun r =>
        stageRow t p ((List.range 64).map fun j => operandAt v t vl kc limit r (64 * g + j))
          ((scales.elems.getD (r * (kc / 64) + g) 0).toNat % 256) s, false, false⟩

/-! ### Multiplying (R260) -/

def dotRow (a b : List Int) : Int := (a.zip b).foldl (fun t x => t + x.1 * x.2) 0

/-- One output element after one group. -/
def mmaElem (isI32 : Bool) (t : BitVec 32) (a b : StagedRow) : BitVec 32 :=
  if isI32 then t + BitVec.ofInt 32 (dotRow a.ints b.ints)
  else if a.nonFinite || b.nonFinite then BitVec.ofNat 32 (fNan .f32)
  else
    let gg := (fMulV .f32 .nearestEven (fDecode .f32 a.g.toNat) (fDecode .f32 b.g.toNat)).1
    BitVec.ofNat 32 (fFmaV .f32 .nearestEven (fOfInt (dotRow a.ints b.ints) (a.e + b.e) false) (fDecode .f32 gg)
      (fDecode .f32 t.toNat)).1

/-- The elements of a tile in row-major order; an empty one reads 0 (R57). -/
def tileElems (t : TileData) : List (BitVec 32) :=
  if t.elems.isEmpty then List.replicate 4096 0 else t.elems

def zeroRow : StagedRow := ⟨[], 0, 0, false⟩

/-- One group's product added into the elements of an M × N block. -/
def mmaGroup (isI32 : Bool) (sh : Shape) (es : List (BitVec 32)) (a b : StagedGroup) : List (BitVec 32) :=
  (List.range 4096).map fun i =>
    let m := i / 64
    let n := i % 64
    let t := es.getD i 0
    if m < sh.m && n < sh.n then mmaElem isI32 t (a.rows.getD m zeroRow) (b.rows.getD n zeroRow) else t

/-- The staged groups of an operand from a location on, one after the other, as far as a staging wrote them (R260). -/
def groupsAt (staged : List StagedGroup) : Nat → Nat → List StagedGroup
  | 0, _ => []
  | k + 1, loc =>
    match staged.find? fun g => g.loc == loc with
    | none => []
    | some g => g :: groupsAt staged k (loc + g.bytes)

/-- Whether an operand of so many groups was staged from integer tags (R260). With K of 0 the first group at its address
says so (log 62). -/
def operandInt (staged : List StagedGroup) (count loc : Nat) : Bool :=
  let gs := groupsAt staged (max count 1) loc
  !gs.isEmpty && gs.all StagedGroup.isInt

/-! ### Performing one entry -/

/-- A near address's location. -/
def nearOf (a : Word) : Nat := nearLoc (a.toNat - 0xF000000000000)

/-- The Anchor once the rest of its matrix queue is discarded (R266). The claim stands: a discarded `MREL` has not ended it, and the shape
it captured is the claim's again, unless an `MCLAIM` has been granted since. -/
def dropQueue (a : AnchorState) : AnchorState :=
  match a.mqueue.tail.find? fun e => e.op == .rel with
  | some e => { a with mqueue := [], claim := true, shape := if a.claim then a.shape else e.shape }
  | none => { a with mqueue := [] }

/-- A deferred error (R266): the failing instruction writes nothing, the rest of the queue is discarded. A hart that had been granted a
second context while its `MREL` was queued keeps one (log 73). -/
def deferError (s : State) (i : Nat) (h : Hart) (code : BitVec 8) (e : MEntry) : State :=
  let twice := decide (2 ≤ (s.contexts.filter fun c => c.2 == i).length)
  let s := if twice then { s with contexts := s.contexts.eraseP fun c => c.2 == i } else s
  setAnchor s i h { dropQueue h.anchor with deferredErr := some ⟨code, e.addr, h.anchor.mqueue.length - 1, !h.anchor.claim⟩ }

/-- Little-endian words of 4 bytes. -/
def wordsOf : List Byte → List (BitVec 32)
  | a :: b :: c :: d :: rest => BitVec.ofNat 32 (leNat [a, b, c, d]) :: wordsOf rest
  | _ => []

def bytesOf (ws : List (BitVec 32)) : List Byte := ws.flatMap fun w => leBytes 4 w.toNat

def popM (a : AnchorState) : AnchorState := { a with mqueue := a.mqueue.tail }

def setTile (a : AnchorState) (t : Tile) (d : TileData) : AnchorState := { a with tiles := a.tiles.set t d }

/-- A bulk write to near memory, 8 bytes at a time (R330). -/
def nearWrite (s : State) (loc : Nat) (bs : List Byte) : State := homeWrite s loc bs false

/-- Whether the elements that a staging reads hold poison: of v, and of the scale codes of a QN4 one (R259, R266). -/
def stagePoison (r scales : VReg) (t : ElemType) (vl : Nat) : Bool :=
  r.poison.any (fun k => decide (k < vl)) ||
    (t == .qn4 && scales.poison.any fun k => decide (k < 64 * ((vl + 63) / 64 / 64)))

/-- The bytes of a staged area have no defined meaning outside the engine (R128): they are undefined results. A register that is dead by then,
both threads having executed `VREL` while the entry was queued, is staged as I8 zeros, which the spec leaves open (log 74). -/
def performStage (s : State) (i : Nat) (h : Hart) (e : MEntry) (isA : Bool) (v : Reg) (p : Nat) : State :=
  let r := h.anchor.vregs[v]
  let scales := h.anchor.vregs[(v + 1 : Reg)]
  let t := r.ty.getD .i8
  let limit := if isA then e.shape.m else e.shape.n
  if stagePoison r scales t e.vl then deferError s i h 0x08 e
  else
    let loc := nearOf e.scal1
    let gs := stageGroups r scales t loc e.vl p limit e.scale
    let n := gs.length * (512 * p + 256)
    let made := [32, t.code, p, e.vl, limit, e.scale.toNat] ++ (r.elems ++ scales.elems).map (·.toNat)
    let s := nearWrite s loc ((List.range n).map fun k => (Config.undefined made k).setWidth 8)
    let s := { s with staged := gs ++ s.staged.filter fun g => !rangesMeet g.loc g.bytes loc n }
    setAnchor s i h (popM h.anchor)

/-- The elements of an MMA one of whose groups no staging wrote, or another agent has stored into: undefined in the M × N
block (R129, R260). -/
def mmaUndefined (s : State) (e : MEntry) (es : List (BitVec 32)) : List (BitVec 32) :=
  let area := fun (c : Word) => Memory.readAll s.mem (nearOf c) (768 * (e.shape.k / 64))
  let made := [33, e.shape.m, e.shape.n, e.shape.k] ++ es.map (·.toNat) ++ (area e.scal1 ++ area e.scal2).map (·.toNat)
  (List.range 4096).map fun k =>
    if k / 64 < e.shape.m && k % 64 < e.shape.n then (Config.undefined made k).setWidth 32 else es.getD k 0

/-- MMA (R260, R261, R266): the tag conflict first, then poison in a group or in the tile it adds to. -/
def performMma (s : State) (i : Nat) (h : Hart) (e : MEntry) (t : Tile) : State :=
  let tile := h.anchor.tiles[t]
  let gcount := e.shape.k / 64
  let as := groupsAt s.staged gcount (nearOf e.scal1)
  let bs := groupsAt s.staged gcount (nearOf e.scal2)
  let isI32 := operandInt s.staged gcount (nearOf e.scal1) && operandInt s.staged gcount (nearOf e.scal2)
  let tag := if isI32 then TileTag.i32 else TileTag.f32
  let adds := decide (0 < gcount) && decide (0 < e.shape.m) && decide (0 < e.shape.n)
  if tile.tag ≠ .empty && tile.tag ≠ tag then deferError s i h 0x02 e
  else if (adds && tile.poison) || (as ++ bs).any (fun g => (homeRead s g.loc g.bytes).2) then deferError s i h 0x08 e
  else
    let es := tileElems tile
    let es :=
      if as.length = gcount && bs.length = gcount && !(as ++ bs).any StagedGroup.corrupt then
        (as.zip bs).foldl (fun es x => mmaGroup isI32 e.shape es x.1 x.2) es
      else mmaUndefined s e es
    setAnchor s i h (popM (setTile h.anchor t ⟨tag, es, tile.poison⟩))

def performMldt (s : State) (i : Nat) (h : Hart) (e : MEntry) (t : Tile) (tt : TileType) : State :=
  let (bs, bad) := homeRead s (nearOf e.scal1) 16384
  if bad then deferError s i h 0x08 e
  else
    let tag := match tt with
      | .f32 => TileTag.f32
      | .i32 => TileTag.i32
    setAnchor s i h (popM (setTile h.anchor t ⟨tag, wordsOf bs, false⟩))

def performMstt (s : State) (i : Nat) (h : Hart) (e : MEntry) (t : Tile) : State :=
  let tile := h.anchor.tiles[t]
  if tile.poison then deferError s i h 0x08 e
  else setAnchor (nearWrite s (nearOf e.scal1) (bytesOf (tileElems tile))) i h (popM h.anchor)

def performMtov (s : State) (i : Nat) (h : Hart) (e : MEntry) (v : Reg) (t : Tile) : State :=
  let tile := h.anchor.tiles[t]
  if tile.poison then deferError s i h 0x08 e
  else if (h.pacer.th.vrel && h.anchor.th.vrel) || e.rl = 0 then setAnchor s i h (popM h.anchor)
  else
    let ty := if tile.tag = .i32 then ElemType.i32 else ElemType.f32
    let es := tileElems tile
    let w : Written := (List.range (64 * e.rl)).map fun k =>
      let row := e.scal1.toNat + k / 64
      some (if row < 64 then (es.getD (row * 64 + k % 64) 0).setWidth 64 else 0)
    let vr := h.anchor.vregs
    setAnchor s i h { popM h.anchor with vregs := vr.set v (writeReg vr[v] ty w) }

/-- A context of a hart is free again (R256). -/
def freeContext (s : State) (i : Nat) : State := { s with contexts := s.contexts.eraseP fun c => c.2 == i }

/-- A hart holds no context any more (R268). -/
def freeContexts (s : State) (i : Nat) : State := { s with contexts := s.contexts.filter fun c => c.2 != i }

/-- The oldest entry of the matrix queue of hart i is performed, whole (R27, R268). -/
def matrixStep (s : State) (i : Nat) (h : Hart) : State :=
  match h.anchor.mqueue with
  | [] => s
  | e :: _ =>
    match e.op with
    | .rel => freeContext (setAnchor s i h { popM h.anchor with tiles := Vector.replicate 8 TileData.cleared }) i
    | .zero t => setAnchor s i h (popM (setTile h.anchor t TileData.cleared))
    | .stage isA v p => performStage s i h e isA v p
    | .mma t => performMma s i h e t
    | .load t tt => performMldt s i h e t tt
    | .store t => performMstt s i h e t
    | .toV v t => performMtov s i h e v t

/-- The near locations an entry reaches, as (first, bytes). -/
def entryRanges (s : State) (e : MEntry) : List (Nat × Nat) :=
  match e.op with
  | .stage _ _ p => [(nearOf e.scal1, ((e.vl + 63) / 64 + 63) / 64 * (512 * p + 256))]
  | .mma _ => [e.scal1, e.scal2].flatMap fun a =>
      (groupsAt s.staged (e.shape.k / 64) (nearOf a)).map fun g => (g.loc, g.bytes)
  | .load _ _ => [(nearOf e.scal1, 16384)]
  | .store _ => [(nearOf e.scal1, 16384)]
  | _ => []

/-- Whether an entry waits at a fenced unit (R130). -/
def entryFenced (s : State) (e : MEntry) : Bool := (entryRanges s e).any fun r => rangeFenced s r.1 r.2

/-- Whether an entry of a queue does. -/
def queueFenced (s : State) (a : AnchorState) : Bool := a.mqueue.any (entryFenced s)

/-- The oldest entry, unless it waits at a fenced unit. -/
def matrixHead (s : State) (i : Nat) : State :=
  match s.harts[i]? with
  | none => s
  | some h =>
    match h.anchor.mqueue with
    | [] => s
    | e :: _ => if entryFenced s e then s else matrixStep s i h

/-- The whole queue (R268), as far as no entry waits at a fenced unit; fuel for its entries. -/
def matrixDrain : Nat → State → Nat → State
  | 0, s, _ => s
  | n + 1, s, i => matrixDrain n (matrixHead s i) i

/-- A hart that has ended gives its context back once its queue has drained. -/
def leaveMatrix (s : State) (i : Nat) : State :=
  match s.harts[i]? with
  | none => s
  | some h => if h.anchor.mqueue.isEmpty then freeContexts s i else s

end Sys2Proof.Machine
end

