-- ==== Sys2Proof/Machine/LoadUnit.lean ====
section
/-! DEFINITION. The two memory agents of a Pacer: loads in flight and their delivery, stores on their way and their
performing, and what fences, acquires and releases wait for (R18, R107, R108, R239, R245, R269, R323 to R327). -/
namespace Sys2Proof.Machine

open Sys2Proof

/-! ### Reaching a hart -/

def modHart (s : State) (i : Nat) (f : Hart → Hart) : State := { s with harts := s.harts.modify i f }

def modPacer (s : State) (i : Nat) (f : PacerState → PacerState) : State := modHart s i fun h => { h with pacer := f h.pacer }

def modAnchor (s : State) (i : Nat) (f : AnchorState → AnchorState) : State := modHart s i fun h => { h with anchor := f h.anchor }

/-! ### Stores on their way (R323, R324) -/

/-- Whether two stores keep their order: those of one side to one aligned 8-byte word (R324, R329). -/
def storesMeet (a b : StoreFlight) : Bool := a.side == b.side && wordsMeet a.loc a.data.length b.loc b.data.length

/-- A store reaches its home and updates the issuing die's copy (R108). Of one of the scalar side no line of the core's L1 stays older (R329). -/
def landStore (core : Nat) (s : State) (f : StoreFlight) : State :=
  let land := fun (s : State) => storeMarked s (coreDie core) f.loc f.data f.poison
  match f.side with
  | .vector => land s
  | .scalar => asScalar (passL1 s core f.loc) core (wordNumbers f.loc f.data.length) land

/-- The stores that a test picks are performed, in their order. -/
def drainStores (s : State) (i : Nat) (p : StoreFlight → Bool) : State :=
  match s.harts[i]? with
  | none => s
  | some h =>
    (h.pacer.stores.filter p).foldl (landStore h.core) (modPacer s i fun q => { q with stores := q.stores.filter (!p ·) })

def onSide (side : Side) (f : StoreFlight) : Bool := f.side == side

/-- Whether a store that a test picks waits at a fenced unit (R130). -/
def storesFenced (s : State) (h : Hart) (p : StoreFlight → Bool) : Bool :=
  h.pacer.stores.any fun f => p f && rangeFenced s f.loc f.data.length

/-- Before an access of a side, that side's stores to the same aligned words are performed (R324, R329). -/
def settleSide (s : State) (i : Nat) (side : Side) (loc n : Nat) : State :=
  drainStores s i fun f => f.side == side && wordsMeet loc n f.loc f.data.length

/-! ### Loads in flight (R239) -/

/-- One element of a load: its bits, and whether they are poison. -/
def readElem (die : Nat) (ty : ElemType) (s : State) (e : ElemSource) : State × Word × Bool :=
  match e with
  | .value w => (s, w, false)
  | .poison => (s, 0, true)
  | .bytes loc cached =>
    let (s, bs, bad) := dieRead s die loc (width ty / 8) cached
    (s, BitVec.ofNat 64 (leNat bs), bad)
  | .nibble loc high cached =>
    let (s, bs, bad) := dieRead s die loc 1 cached
    let b := leNat bs
    (s, BitVec.ofNat 64 (if high then b / 16 else b % 16), bad)

def readElems (die : Nat) (ty : ElemType) : State → List ElemSource → State × List (Word × Bool)
  | s, [] => (s, [])
  | s, e :: es =>
    let (s, w) := readElem die ty s e
    let (s, ws) := readElems die ty s es
    (s, w :: ws)

/-- The bytes an element is read from, as (first, bytes). -/
def ElemSource.range (ty : ElemType) : ElemSource → Option (Nat × Nat)
  | .bytes loc _ => some (loc, width ty / 8)
  | .nibble loc _ _ => some (loc, 1)
  | _ => none

def LoadFlight.ranges (f : LoadFlight) : List (Nat × Nat) := f.elems.filterMap (ElemSource.range f.ty)

/-- Whether a load reads an aligned word of n bytes. -/
def LoadFlight.reads (f : LoadFlight) (loc n : Nat) : Bool := f.ranges.any fun r => wordsMeet r.1 r.2 loc n

/-- Whether a load waits at a fenced unit (R130). -/
def loadFenced (s : State) (f : LoadFlight) : Bool :=
  f.elems.any fun e => match e with
    | .bytes loc cached => accessFenced s loc (width f.ty / 8) cached
    | .nibble loc _ cached => accessFenced s loc 1 cached
    | _ => false

/-- Whether a load of a hart to a queue must wait for an earlier one that reads a word of it (R245, R324, R329). -/
def loadBehind (h : Hart) (f : LoadFlight) : Bool :=
  (h.pacer.loads.takeWhile fun g => g.q != f.q).any fun g => f.ranges.any fun r => g.ranges.any fun x => wordsMeet x.1 x.2 r.1 r.2

/-- The row that a load delivers, and the far cache lines it filled. -/
def loadRow (s : State) (die : Nat) (f : LoadFlight) : State × Row :=
  let (s, ws) := readElems die f.ty s f.elems
  (s, ⟨f.ty, ws.map (·.1), (List.range ws.length).filter fun k => (ws.getD k (0, false)).2⟩)

/-- The oldest load in flight to a queue delivers its whole entry (R239); loads of one queue deliver in order. -/
def deliverLoad (s : State) (i : Nat) (q : Fin 4) : State :=
  match s.harts[i]? with
  | none => s
  | some h =>
    match h.pacer.loads.find? (fun f => f.q == q) with
    | none => s
    | some f =>
      let (s, row) := loadRow s (coreDie h.core) f
      modHart s i fun h => { h with
        pacer := { h.pacer with loads := h.pacer.loads.eraseP fun f => f.q == q }
        lq := h.lq.set q (h.lq[q] ++ [row]) }

/-- Every load in flight delivers. -/
def deliverAll (s : State) (i : Nat) : State :=
  match s.harts[i]? with
  | none => s
  | some h => h.pacer.loads.foldl (fun s f => deliverLoad s i f.q) s

def loadsFenced (s : State) (h : Hart) : Bool := h.pacer.loads.any (loadFenced s)

/-- The rows a queue counts against slip (R18, R391): those it holds, those popped by uncommitted entries, and the loads in
flight to it. -/
def slipCount (h : Hart) (q : Fin 4) : Nat :=
  h.lq[q].length + (h.pacer.loads.filter fun f => f.q == q).length +
    (h.anchor.viq.map fun e => (e.popped.filter fun p => p.1 == q).length).sum

/-! ### What fences, releases and acquires wait for and do (R326, R327) -/

/-- The scalar side before a fence: the hart's stores are performed and every dirty line of its core is written back, so that
what another hart of the core has stored and this one has acquired goes along (R107, R131). -/
def settleScalar (s : State) (i core : Nat) : State :=
  l1CleanAll (drainStores s i (onSide .scalar)) core (fun l => !l.dirty.isEmpty)

/-- The vector side before a fence: its loads have their values, its stores are performed. -/
def settleVector (s : State) (i : Nat) : State := drainStores (deliverAll s i) i (onSide .vector)

/-- Whether the vector side can settle now, no unit it touches being fenced. -/
def vectorSettles (s : State) (h : Hart) : Bool := !loadsFenced s h && !storesFenced s h (onSide .vector)
def scalarSettles (s : State) (h : Hart) : Bool := !storesFenced s h (onSide .scalar) && !dirtyFenced s h.core

/-- After a fence with scalar accesses after it: no scalar L1 data older than the vector side's stores stays (R107, R326). -/
def refreshL1 (s : State) (core : Nat) : State := l1Renew s core

/-- A release at a scope (R327). -/
def releaseAt (s : State) (i core : Nat) (sc : Scope) : State :=
  cacheRelease (drainStores s i (onSide .scalar)) core sc

/-- FENCE.all with a release at package scope: every access of the hart is performed, every dirty line of its core
written back (R140, R143, R273, R280). -/
def settleAll (s : State) (i core : Nat) (sc : Scope) : State :=
  vectorAfter (cacheRelease (settleScalar (settleVector s i) i core) core sc) i

/-- Whether every access of the hart can be performed now. -/
def allSettle (s : State) (h : Hart) : Bool := vectorSettles s h && scalarSettles s h

/-- The observation of a tag (R114, R136): no line of bytes that the command wrote stays in the L1, whose stored bytes are written back, or
in the far cache of the die on which the hart runs now. -/
def observeTag (core i : Nat) (s : State) (t : Fin 64) : State :=
  match s.harts[i]? with
  | none => s
  | some h =>
    let ranges := (h.pacer.wrote.filter fun w => w.tag == t).flatMap (·.ranges)
    let wrote := fun (line : Nat) => ranges.any fun r => rangesMeet (line * 64) 64 r.1 r.2
    let s := l1CleanDropAll s core fun l => wrote l.line
    let s := { s with farCache := s.farCache.filter fun l => !(l.die == coreDie core && wrote l.line) }
    modPacer s i fun p => { p with wrote := p.wrote.filter fun w => w.tag != t }

def observeTags (s : State) (i core : Nat) (ts : List (Fin 64)) : State := ts.foldl (observeTag core i) s

end Sys2Proof.Machine
end

