-- ==== Sys2Proof/Machine/VShape.lean ====
section
/-! DEFINITION. Slides, gathers, compress, single elements, reductions, scans and mask counts as the vector unit runs them
(R207 to R222). -/
namespace Sys2Proof.Machine

open Sys2Proof

/-- An element as a 64-bit scalar (R208). -/
def eltScalar (t : ElemType) (w : Word) : Word :=
  if isSigned t then BitVec.ofInt 64 (intVal t w) else trunc t w

/-- Whether a destination names one of the source registers (R207). -/
def namesSource (d : VDst) (names : List VSrc) : Bool :=
  match d with
  | .sq _ => false
  | .reg r => names.any fun s =>
      match s with
      | .reg r' _ => r' == r
      | _ => false

/-! ### Slides (R209, R210) -/

/-- The fill value of a slide, or none when the tag does not accept it (R210); the scalar is the captured one. -/
def fillValue (f : Fill) (t : ElemType) (scal : Word) : Option Word :=
  match f with
  | .zero => some (zeroOf t)
  | .scalar _ => some (trunc t scal)
  | .identity code =>
    match code.val with
    | 0 => if t = .qn4 then none else some (canonId .sum t)
    | 1 => if t = .qn4 then none else some (canonId .max t)
    | 2 => if t = .qn4 then none else some (canonId .min t)
    | 3 => if isInt t then some (intBits t (-1)) else none
    | _ => if isInt t then some 0 else none

/-- Which element a slide by n reads for element e: its index, or none for the fill (R209). -/
def slideFrom (up : Bool) (n vl e : Nat) : Option Nat :=
  if up then (if n ≤ e then some (e - n) else none) else (if e + n < vl then some (e + n) else none)

def slide (up : Bool) (p : Pred) (d : VDst) (s1 : VSrc) (n : VCtx → Nat) (fill : Fill) : VEffect := fun c h =>
  match readSource c h s1 with
  | none => .mismatch
  | some a =>
    match fillValue fill a.ty c.scal3 with
    | none => .mismatch
    | some fv =>
      elementRun (namesSource d [s1]) p d a.ty [s1] [a.ty]
        (fun e => match slideFrom up (n c) c.vl e with
          | some i => a.poison.contains i
          | none => false)
        (fun e => .quiet (match slideFrom up (n c) c.vl e with
          | some i => a.get i
          | none => fv)) c h

/-! ### Gathers (R211, R212) -/

/-- A natural index of its tag's width. -/
def natIndex (t : ElemType) (w : Word) : Nat := w.toNat % 2 ^ width t

def gather (p : Pred) (d : VDst) (s1 s2 : VSrc) : VEffect := fun c h =>
  match readSource c h s1, readSource c h s2 with
  | some a, some b =>
    if isInt b.ty then
      let i := fun e => natIndex b.ty (b.get e)
      elementRun (namesSource d [s1, s2]) p d a.ty [s1, s2] [a.ty, b.ty]
        (fun e => b.poison.contains e || (decide (i e < c.vl) && a.poison.contains (i e)))
        (fun e => .quiet (if i e < c.vl then a.get (i e) else zeroOf a.ty)) c h
    else .mismatch
  | _, _ => .mismatch

def gather2 (p : Pred) (d : VDst) (s1 s2 s3 : VSrc) : VEffect := fun c h =>
  match readSource c h s1, readSource c h s2, readSource c h s3 with
  | some a, some b, some x =>
    if a.ty = b.ty && isInt x.ty then
      let i := fun e => natIndex x.ty (x.get e)
      elementRun (namesSource d [s1, s2, s3]) p d a.ty [s1, s2, s3] [a.ty, x.ty]
        (fun e => x.poison.contains e || (decide (i e < c.vl) && a.poison.contains (i e)) ||
          (decide (c.vl ≤ i e) && decide (i e < 2 * c.vl) && b.poison.contains (i e - c.vl)))
        (fun e => .quiet
          (if i e < c.vl then a.get (i e) else if i e < 2 * c.vl then b.get (i e - c.vl) else zeroOf a.ty)) c h
    else .mismatch
  | _, _, _ => .mismatch

/-! ### Compress, expand, iota (R213 to R215) -/

/-- A whole instruction: refused when it starts inside its elements, not to be cut short (R61, R207). -/
def wholeRun (caps : List ElemType) (names : List VSrc) (nothing : Option (VDst × ElemType)) (bad : Nat → Bool)
    (k : VEffect) : VEffect := fun c h =>
  if caps.any (overCapacity c h) then .illegal
  else if c.performsNothing then doneNothing c h names nothing
  else if c.startsInside then .illegal
  else
    match (List.range c.limit).find? bad with
    | some e => .data e 0
    | none => if c.cutShort then .limit 0 else k c h

def setAnchorVl (h : Hart) (n : Nat) : Hart :=
  { h with anchor := { h.anchor with th := { h.anchor.th with vl := BitVec.ofNat 64 n } } }

/-- VCOMPRESS (R213): packs the selected elements and sets vl to their number. -/
def compress (p : Pred) (d : VDst) (s1 : VSrc) : VEffect := fun c h =>
  match readSource c h s1 with
  | none => .mismatch
  | some a =>
    wholeRun [a.ty] [s1] (some (d, a.ty)) (fun e => maskBit c h p.sel e && a.poison.contains e)
      (fun c h =>
        let picked := ((List.range c.vl).filter (maskBit c h p.sel)).map a.get
        let h' := popQueues c h [s1]
        let h' : Hart := match d with
          | .reg r => { h' with anchor := { h'.anchor with
              vregs := h'.anchor.vregs.set r (writeReg h'.anchor.vregs[r] a.ty (picked.map some)) } }
          | .sq q => { h' with sq := h'.sq.set q (h'.sq[q] ++ [⟨a.ty, picked, []⟩]) }
        .done (setAnchorVl h' picked.length) none 0 false [] false) c h

/-- VEXPAND (R214). -/
def expand (p : Pred) (d : VDst) (s1 : VSrc) : VEffect := fun c h =>
  match readSource c h s1 with
  | none => .mismatch
  | some a =>
    let rank := fun e => ((List.range e).filter (maskBit c h p.sel)).length
    elementRun (namesSource d [s1]) p d a.ty [s1] [a.ty] (fun e => a.poison.contains (rank e))
      (fun e => .quiet (a.get (rank e))) c h

/-- VIOTA (R215): set bits of mask m below e, wrapping at the grant type's width. -/
def iota (p : Pred) (d : VDst) (m : MaskReg) : VEffect := fun c h =>
  if isInt c.grant then
    elementwise p d c.grant [] [] (fun e => eltOfInt c.grant (((List.range e).filter (opBitOf c h m)).length : Nat)) c h
  else .mismatch
where
  opBitOf (c : VCtx) (h : Hart) (m : MaskReg) (e : Nat) : Bool := maskBit c h (some m) e

/-! ### Single elements (R216, R217) -/

def extract (dst : Reg) (s1 : VSrc) (idx : VCtx → Nat) : VEffect := fun c h =>
  match readSource c h s1 with
  | none => .mismatch
  | some a =>
    wholeRun [a.ty] [s1] none (fun e => decide (e = idx c) && a.poison.contains e)
      (fun c h =>
        let v := if idx c < c.vl then a.get (idx c) else zeroOf a.ty
        .done (setAnchorReg (popQueues c h [s1]) dst (eltScalar a.ty v)) none 0 false [] false) c h

/-- The type VINS writes: the destination's tag, or the grant type when it is dead or a queue (R217). -/
def insertType (c : VCtx) (h : Hart) (d : VDst) : ElemType :=
  match d with
  | .reg r => (h.anchor.vregs[r].ty).getD c.grant
  | .sq _ => c.grant

def insert (d : VDst) (idx : VCtx → Nat) : VEffect := fun c h =>
  let t := insertType c h d
  wholeRun [t] [] (some (d, t)) (fun _ => false)
    (fun c h =>
      let w : Written := (List.range c.vl).map fun e => if e = idx c then some (trunc t c.scal1) else none
      let (h, part) := writeDst c h d t w
      .done h none 0 false part false) c h

/-! ### Reductions (R89, R90, R92, R218, R219) -/

/-- The type in which a sum of a source type accumulates: F32 for F16 and BF16 (R90). -/
def accType (o : CanonOp) (t : ElemType) : ElemType :=
  match o, t with
  | .sum, .f16 => .f32
  | .sum, .bf16 => .f32
  | _, t => t

/-- An element in the accumulation type: an exact conversion, which raises NV for a signalling NaN (R90, R92). -/
def toAcc (o : CanonOp) (t : ElemType) (w : Word) : Elt :=
  match fmtOf t with
  | some f =>
    match fmtOf (accType o t) with
    | some g => if f = g then .quiet (trunc t w) else .ofFloat (fConvert g .nearestEven (fDecode f w.toNat))
    | none => .quiet w
  | none => .quiet (trunc t w)

/-- The 64 entries of a group: active elements, the identity elsewhere (R89). -/
def groupOf (o : CanonOp) (c : VCtx) (h : Hart) (sel : MaskSel) (a : VSource) (g : Nat) : List Elt :=
  (List.range 64).map fun j =>
    let e := 64 * g + j
    if active c h sel e then toAcc o a.ty (a.get e) else .quiet (canonId o (accType o a.ty))

/-- The accumulator as read from its scalar, in the accumulation type; for a float maximum or minimum of F16 or BF16 it is
an F32, as R218 says, and the folding is in F32. -/
def redType (o : CanonOp) (t : ElemType) : ElemType :=
  match o, t with
  | _, .f16 => .f32
  | _, .bf16 => .f32
  | .sum, .f64 => .f64
  | .sum, .f32 => .f32
  | .sum, t => if isSigned t then .i64 else .n64
  | _, t => t

/-- An element in the reduction's type (R218: integers extended as R208 states). -/
def toRed (o : CanonOp) (t : ElemType) (w : Word) : Elt :=
  match fmtOf t with
  | some f =>
    match fmtOf (redType o t) with
    | some g => if f = g then .quiet (trunc t w) else .ofFloat (fConvert g .nearestEven (fDecode f w.toNat))
    | none => .quiet w
  | none => .quiet (trunc (redType o t) (eltScalar t w))

/-- Folding the groups into the accumulator (R90). -/
def reduceFold (o : CanonOp) (c : VCtx) (h : Hart) (sel : MaskSel) (a : VSource) (acc : Word) : Elt :=
  let t := redType o a.ty
  (List.range ((c.vl + 63) / 64)).foldl (fun r g =>
    canonComb o t r (groupTree o t ((List.range 64).map fun j =>
      let e := 64 * g + j
      if active c h sel e then toRed o a.ty (a.get e) else .quiet (canonId o t)))) (.quiet (trunc t acc))

def reduce (o : CanonOp) (sel : MaskSel) (dst : Reg) (s1 : VSrc) : VEffect := fun c h =>
  match readSource c h s1 with
  | none => .mismatch
  | some a =>
    if isInt a.ty || isFlt a.ty then
      wholeRun [a.ty] [s1] none (fun e => active c h sel e && a.poison.contains e)
        (fun c h =>
          let r := reduceFold o c h sel a c.scal2
          .done (setAnchorReg (popQueues c h [s1]) dst (eltScalar (redType o a.ty) r.bits)) none r.flags false [] false) c h
    else .mismatch

/-- VREDBIT (R219). -/
def reduceBits (op : Op2) (sel : MaskSel) (dst : Reg) (s1 : VSrc) : VEffect := fun c h =>
  match readSource c h s1 with
  | none => .mismatch
  | some a =>
    if isInt a.ty then
      wholeRun [a.ty] [s1] none (fun e => active c h sel e && a.poison.contains e)
        (fun c h =>
          let r := (List.range c.vl).foldl (fun r e =>
            if active c h sel e then (int2 op a.ty r (a.get e)).bits else r) (trunc a.ty c.scal2)
          .done (setAnchorReg (popQueues c h [s1]) dst (eltScalar a.ty r)) none 0 false [] false) c h
    else .mismatch

/-! ### Scans (R91, R220) -/

/-- The outputs, the local scans and the final carry of a scan over the groups. -/
def scanGroups (o : CanonOp) (excl : Bool) (t : ElemType) : List (List Elt) → Elt → List Elt × List Elt × Elt
  | [], carry => ([], [], carry)
  | g :: gs, carry =>
    let s := groupScan o t g
    let out := (List.range 64).map fun j =>
      let left := if excl then (if j = 0 then .quiet (canonId o t) else s.getD (j - 1) (.quiet 0)) else s.getD j (.quiet 0)
      canonComb o t carry left
    let (rest, locals, fin) := scanGroups o excl t gs (canonComb o t carry (s.getD 63 (.quiet 0)))
    (out ++ rest, s ++ locals, fin)

/-- The exceptions of the local scan at active positions (R9, R91); a rounding at an inactive position counts only through what
it reaches (log 61). -/
def localFlags (c : VCtx) (h : Hart) (sel : MaskSel) (locals : List Elt) : Flags :=
  flagsOf ((List.range c.vl).filterMap fun e => if active c h sel e then locals[e]? else none)

/-- VSCAN (R91, R220). -/
def scan (o : CanonOp) (excl : Bool) (p : Pred) (d : VDst) (s1 : VSrc) (cout : Reg) : VEffect := fun c h =>
  match readSource c h s1 with
  | none => .mismatch
  | some a =>
    if isInt a.ty || isFlt a.ty then
      let t := accType o a.ty
      wholeRun [a.ty, t] [s1] (some (d, t)) (fun e => active c h p.sel e && a.poison.contains e)
        (fun c h =>
          let groups := (List.range ((c.vl + 63) / 64)).map (groupOf o c h p.sel a)
          let (outs, locals, fin) := scanGroups o excl t groups (.quiet (trunc t c.scal2))
          let es := elementsOf c h p t (fun e => outs.getD e (.quiet 0))
          let h' := popQueues c h [s1]
          let (h', part) := writeDst c h' d t (es.map (Option.map Elt.bits))
          let h' := if cout = 0 then h' else setAnchorReg h' cout (eltScalar t fin.bits)
          .done h' none (eltFlags es ||| localFlags c h p.sel locals ||| fin.flags) false part false) c h
    else .mismatch

/-! ### Index of an extreme, mask counts (R221, R222) -/

/-- Whether b beats a (R92): strictly greater, or strictly less; −0 below +0. -/
def beats (isMax : Bool) (t : ElemType) (a b : Word) : Bool :=
  match fmtOf t with
  | some f =>
    let x := fDecode f a.toNat
    let y := fDecode f b.toNat
    if isMax then fBelowV x y else fBelowV y x
  | none => if isMax then decide (intVal t a < intVal t b) else decide (intVal t b < intVal t a)

def argExtreme (isMax : Bool) (sel : MaskSel) (dst : Reg) (s1 : VSrc) : VEffect := fun c h =>
  match readSource c h s1 with
  | none => .mismatch
  | some a =>
    if isInt a.ty || isFlt a.ty then
      wholeRun [a.ty] [s1] none (fun e => active c h sel e && a.poison.contains e)
        (fun c h =>
          let es := (List.range c.vl).filter (active c h sel)
          let val := fun e => match fmtOf a.ty with
            | some f => fDecode f (a.get e).toNat
            | none => FVal.zero false
          let r : Word := match es.find? (fun e => (val e).isNan) with
            | some e => BitVec.ofNat 64 e
            | none =>
              match es.foldl (fun (b : Option Nat) e => match b with
                | none => some e
                | some i => if beats isMax a.ty (a.get i) (a.get e) then some e else some i) none with
              | some e => BitVec.ofNat 64 e
              | none => BitVec.allOnes 64
          .done (setAnchorReg (popQueues c h [s1]) dst r) none (nvOf (es.map val)) false [] false) c h
    else .mismatch

def maskPop (sel : MaskSel) (dst : Reg) (m : MaskReg) : VEffect :=
  wholeRun [] [] none (fun _ => false) fun c h =>
    let n := ((List.range c.vl).filter fun e => active c h sel e && maskBit c h (some m) e).length
    .done (setAnchorReg h dst (BitVec.ofNat 64 n)) none 0 false [] false

def maskLow (sel : MaskSel) (dst : Reg) (m : MaskReg) : VEffect :=
  wholeRun [] [] none (fun _ => false) fun c h =>
    let r : Word := match (List.range c.vl).find? fun e => active c h sel e && maskBit c h (some m) e with
      | some e => BitVec.ofNat 64 e
      | none => BitVec.allOnes 64
    .done (setAnchorReg h dst r) none 0 false [] false

end Sys2Proof.Machine
end

