-- ==== Sys2Proof/Machine/Forest.lean ====
section
/-! DEFINITION. The forest instructions as the vector unit runs them: parents and chains by pointer doubling, cycles and cuts,
path and subtree combinations, roots, depths, ancestors, contraction (R55, R223 to R230). -/
namespace Sys2Proof.Machine

open Sys2Proof

/-- A parent or an ancestor: none for a root or past one. -/
abbrev Link := Option Nat

/-- The parents of R223: 0xFFFF and indices at or above n make roots. -/
def parents (n : Nat) (k : KReg) : List Link :=
  (List.range n).map fun e =>
    let p := (k.get e).toNat
    if p < n then some p else none

/-- A cut edge (R223). -/
def isCut (n : Nat) (k : KReg) (e : Nat) : Bool :=
  let p := (k.get e).toNat
  decide (n ≤ p) && decide (p < 0xFFFF)

/-- L of R223: ⌈log2 n⌉, 0 for n ≤ 1. -/
def doublings (n : Nat) : Nat := if n ≤ 1 then 0 else Nat.log2 (n - 1) + 1

def linkAt (a : List Link) (e : Nat) : Link := a.getD e none

/-- One doubling step, every element from the step before. -/
def doubled (a : List Link) : List Link :=
  a.map fun l => match l with
    | none => none
    | some i => linkAt a i

/-- A_0 to A_L (R223). -/
def chains : Nat → List Link → List (List Link)
  | 0, a => [a]
  | l + 1, a => a :: chains l (doubled a)

/-- A_L: not none for a cyclic element. -/
def lastChain (n : Nat) (k : KReg) : List Link := ((chains (doublings n) (parents n k)).getLast?).getD []

def isCyclic (al : List Link) (e : Nat) : Bool := (linkAt al e).isSome

/-- The value result of a cyclic element (R223). -/
def cyclicResult (t : ElemType) : Word :=
  match fmtOf t with
  | some f => BitVec.ofNat 64 (fNan f)
  | none => if t = .qn4 then 15 else BitVec.ofNat 64 (2 ^ (width t - 1))

/-- Writing the two output masks of R224: bits below n for active and inactive nodes alike. -/
def writeForestMasks (h : Hart) (fm : ForestMasks) (n : Nat) (cyc cut : Nat → Bool) : Hart :=
  let put := fun (h : Hart) (sel : MaskSel) (f : Nat → Bool) =>
    match sel with
    | none => h
    | some m =>
      let ms := h.anchor.th.masks
      { h with anchor := { h.anchor with th := { h.anchor.th with masks := ms.set m (maskPatch ms[m] 0 n f) } } }
  put (put h fm.cyc cyc) fm.cut cut

/-- The frame of every forest instruction that follows links: checks, poison, then the body, the output masks and the
forest-cycle condition of R224. The body gets the links' register, P and A_L. -/
def forestRun (caps : List ElemType) (names : List VSrc) (nothing : Option (VDst × ElemType)) (k : TopoReg)
    (fm : ForestMasks) (bad : Nat → Bool) (body : KReg → List Link → List Link → VCtx → Hart → Hart × Flags) : VEffect :=
  fun c h =>
    if decide (topoCapacity h.cls < c.vl) then .illegal
    else
      wholeRun caps names nothing bad (fun c h =>
        let kr := h.anchor.kregs[k]
        let ps := parents c.vl kr
        let al := lastChain c.vl kr
        let (h', fl) := body kr ps al c (popQueues c h names)
        let h' := writeForestMasks h' fm c.vl (isCyclic al) (isCut c.vl kr)
        .done h' none fl false [] (c.cyc && (List.range c.vl).any (isCyclic al))) c h

/-- Writing value results (R191): active nodes get theirs. -/
def forestWrite (c : VCtx) (h : Hart) (p : Pred) (d : VDst) (t : ElemType) (f : Nat → Elt) : Hart × Flags :=
  let es := elementsOf c h p t f
  ((writeDst c h d t (es.map (Option.map Elt.bits))).1, eltFlags es)

/-- KSET and KGET (R225). -/
def linksSet (p : Pred) (k : TopoReg) (s1 : VSrc) : VEffect := fun c h =>
  match readSource c h s1 with
  | none => .mismatch
  | some a =>
    if a.ty ≠ .idx16 then .mismatch
    else if decide (topoCapacity h.cls < c.vl) then .illegal
    else
      wholeRun [.idx16] [s1] none (fun e => active c h p.sel e && a.poison.contains e) (fun c h =>
        let w : List (Option (BitVec 16)) := (List.range c.vl).map fun e =>
          if e < c.vstart then none
          else if maskBit c h p.sel e then some ((a.get e).setWidth 16)
          else if p.z then some 0xFFFF else none
        let h := popQueues c h [s1]
        let ks := h.anchor.kregs
        .done { h with anchor := { h.anchor with kregs := ks.set k (writeKReg ks[k] w) } } none 0 false [] false) c h

def linksGet (p : Pred) (d : VDst) (k : TopoReg) : VEffect := fun c h =>
  if decide (topoCapacity h.cls < c.vl) then .illegal
  else
    elementRun true p d .idx16 [] [] (fun _ => false) (fun e => .quiet ((h.anchor.kregs[k].get e).setWidth 64)) c h

/-! ### Paths and subtrees (R226, R227) -/

/-- One step of KDOWN, all nodes at once: values and jump links. -/
def downStep (o : CanonOp) (t : ElemType) (s : List Elt × List Link) : List Elt × List Link :=
  let (a, q) := s
  ((List.range a.length).map fun e =>
      match linkAt q e with
      | some i => canonComb o t (a.getD i (.quiet 0)) (a.getD e (.quiet 0))
      | none => a.getD e (.quiet 0),
   doubled q)

def downRun (o : CanonOp) (t : ElemType) : Nat → List Elt × List Link → List Elt × List Link
  | 0, s => s
  | l + 1, s => downRun o t l (downStep o t s)

/-- One step of KUP for all nodes: each node takes in the nodes whose A_l is it, ascending. -/
def upStep (o : CanonOp) (t : ElemType) (al : List Link) (u : List Elt) : List Elt :=
  (List.range u.length).map fun e =>
    (List.range u.length).foldl (fun r w =>
      if linkAt al w = some e then canonComb o t r (u.getD w (.quiet 0)) else r) (u.getD e (.quiet 0))

def upRun (o : CanonOp) (t : ElemType) : Nat → List Link → List Elt → List Elt
  | 0, _, u => u
  | l + 1, al, u => upRun o t l (doubled al) (upStep o t al u)

/-- The values nodes start with: their own when active, the identity otherwise (R223). -/
def nodeValues (o : CanonOp) (c : VCtx) (h : Hart) (sel : MaskSel) (a : VSource) : List Elt :=
  (List.range c.vl).map fun e =>
    if active c h sel e then toAcc o a.ty (a.get e) else .quiet (canonId o (accType o a.ty))

/-- KDOWN and KUP (R226, R227). Two points the spec leaves open are the model's (log 61): the exceptions of a rounding at an inactive node
count where its value goes into an active one, and a NaN of an F32 or F64 node that no op reaches (a root of KDOWN, a leaf of KUP) is
delivered as the source has it, with no exception. -/
def combineTree (down : Bool) (o : CanonOp) (p : Pred) (d : VDst) (s1 : VSrc) (k : TopoReg) (fm : ForestMasks) : VEffect :=
  fun c h =>
    match readSource c h s1 with
    | none => .mismatch
    | some a =>
      if isInt a.ty || isFlt a.ty then
        let t := accType o a.ty
        forestRun [a.ty, t] [s1] (some (d, t)) k fm (fun e => active c h p.sel e && a.poison.contains e)
          (fun _ ps al c h =>
            let v := nodeValues o c h p.sel a
            let r := if down then (downRun o t (doublings c.vl) (v, ps)).1 else upRun o t (doublings c.vl) ps v
            forestWrite c h p d t fun e =>
              if isCyclic al e then .quiet (cyclicResult t) else r.getD e (.quiet 0)) c h
      else .mismatch

/-! ### Roots, depths, ancestors (R228) -/

/-- The root of an acyclic node and its depth, following parents; fuel bounds the walk. -/
def rootFrom (ps : List Link) : Nat → Nat → Nat → Nat × Nat
  | 0, e, d => (e, d)
  | f + 1, e, d =>
    match linkAt ps e with
    | none => (e, d)
    | some p => rootFrom ps f p (d + 1)

def ancestorFrom (ps : List Link) : Nat → Nat → Link
  | 0, e => some e
  | c + 1, e =>
    match linkAt ps e with
    | none => none
    | some p => ancestorFrom ps c p

/-- Whether i is e or an ancestor of e. -/
def onPath (ps : List Link) (i : Nat) : Nat → Nat → Bool
  | 0, e => e == i
  | f + 1, e =>
    e == i || match linkAt ps e with
      | none => false
      | some p => onPath ps i f p

def broadcast (p : Pred) (d : VDst) (s1 : VSrc) (k : TopoReg) (fm : ForestMasks) : VEffect := fun c h =>
  match readSource c h s1 with
  | none => .mismatch
  | some a =>
    let ps := parents c.vl h.anchor.kregs[k]
    let al := lastChain c.vl h.anchor.kregs[k]
    forestRun [a.ty] [s1] (some (d, a.ty)) k fm
      (fun e => active c h p.sel e && !isCyclic al e && a.poison.contains (rootFrom ps c.vl e 0).1)
      (fun _ ps al c h => forestWrite c h p d a.ty fun e =>
        .quiet (if isCyclic al e then cyclicResult a.ty else a.get (rootFrom ps c.vl e 0).1)) c h

/-- A forest instruction whose result is an IDX16 of each node (KDEPTH, KROOT, KANC). -/
def linkResult (p : Pred) (d : VDst) (k : TopoReg) (fm : ForestMasks) (f : VCtx → List Link → Nat → Nat) : VEffect :=
  forestRun [.idx16] [] (some (d, .idx16)) k fm (fun _ => false)
    (fun _ ps al c h => forestWrite c h p d .idx16 fun e =>
      .quiet (if isCyclic al e then cyclicResult .idx16 else BitVec.ofNat 64 (f c ps e % 2 ^ 16)))

def depth (p : Pred) (d : VDst) (k : TopoReg) (fm : ForestMasks) : VEffect :=
  linkResult p d k fm fun c ps e => (rootFrom ps c.vl e 0).2

def root (p : Pred) (d : VDst) (k : TopoReg) (fm : ForestMasks) : VEffect :=
  linkResult p d k fm fun c ps e => (rootFrom ps c.vl e 0).1

def ancestor (p : Pred) (d : VDst) (k : TopoReg) (fm : ForestMasks) : VEffect :=
  linkResult p d k fm fun c ps e => (ancestorFrom ps (min c.scal1.toNat (c.vl + 1)) e).getD 0xFFFF

/-- Writing a mask for active nodes (R228, R230). -/
def forestMaskWrite (c : VCtx) (h : Hart) (p : Pred) (m : MaskReg) (f : Nat → Bool) : Hart :=
  let ms := h.anchor.th.masks
  let new := maskPatch ms[m] c.vstart c.vl fun e =>
    if maskBit c h p.sel e then f e else if p.z then false else ms[m].testBit e
  { h with anchor := { h.anchor with th := { h.anchor.th with masks := ms.set m new } } }

def isAncestor (p : Pred) (m : MaskReg) (s1 : VSrc) (k : TopoReg) (fm : ForestMasks) : VEffect := fun c h =>
  match readSource c h s1 with
  | none => .mismatch
  | some a =>
    if a.ty ≠ .idx16 then .mismatch
    else
      forestRun [.idx16] [s1] none k fm (fun e => active c h p.sel e && a.poison.contains e)
        (fun _ ps al c h =>
          (forestMaskWrite c h p m (fun e =>
            let i := natIndex .idx16 (a.get e)
            decide (i < c.vl) && !isCyclic al e && !isCyclic al i && onPath ps i c.vl e), 0)) c h

/-- The new link of KCONTRACT for an acyclic node (R229): the walk of the old chain upward. -/
def contractFrom (kr : KReg) (n : Nat) (kept : Nat → Bool) (ps : List Link) : Nat → Nat → BitVec 16
  | 0, _ => 0xFFFF
  | f + 1, e =>
    match linkAt ps e with
    | none => if isCut n kr e then kr.get e else 0xFFFF
    | some p => if kept p then BitVec.ofNat 16 p else contractFrom kr n kept ps f p

def contract (p : Pred) (kd k : TopoReg) (fm : ForestMasks) : VEffect :=
  forestRun [] [] none k fm (fun _ => false)
    (fun kr ps al c h =>
      let w : List (Option (BitVec 16)) := (List.range c.vl).map fun e =>
        some (if isCyclic al e then 0x8000 else contractFrom kr c.vl (maskBit c h p.sel) ps (c.vl + 1) e)
      let ks := h.anchor.kregs
      ({ h with anchor := { h.anchor with kregs := ks.set kd (writeKReg ks[kd] w) } }, 0))

/-- KCHECK (R230) never takes the forest-cycle trap (R224). -/
def checkCycles (p : Pred) (m : MaskReg) (k : TopoReg) : VEffect := fun c h =>
  if decide (topoCapacity h.cls < c.vl) then .illegal
  else
    wholeRun [] [] none (fun _ => false) (fun c h =>
      let al := lastChain c.vl h.anchor.kregs[k]
      .done (forestMaskWrite c h p m (isCyclic al)) none 0 false [] false) c h

end Sys2Proof.Machine
end

