-- ==== Sys2Proof/Machine/VArith.lean ====
section
/-! DEFINITION. Vector arithmetic, compares, selects and mask instructions as the vector unit runs them (R189 to R199). -/
namespace Sys2Proof.Machine

open Sys2Proof

/-- A second source that is one value for every element (R192): its bits under the first source's tag. -/
def spread (t : ElemType) (w : Word) (n : Nat) : VSource := ⟨t, List.replicate n (trunc t w), []⟩

/-- imm16 sign-extended (R192). -/
def imm16 (imm : BitVec 16) : Word := imm.signExtend 64

/-- Two vector sources of one tag (R195, R196). -/
def arith2 (o : Op2) (p : Pred) (d : VDst) (s1 s2 : VSrc) : VEffect := fun c h =>
  match readSource c h s1, readSource c h s2 with
  | some a, some b =>
    if a.ty = b.ty && o.accepts a.ty then
      elementwise p d a.ty [s1, s2] [a, b] (fun e => elt2 o c.rm a.ty (a.get e) (b.get e)) c h
    else .mismatch
  | _, _ => .mismatch

/-- A vector source and a scalar for every element (R192, major 0x11). -/
def arith2s (o : Op2) (p : Pred) (d : VDst) (s1 : VSrc) : VEffect := fun c h =>
  match readSource c h s1 with
  | some a =>
    if o.accepts a.ty then
      elementwise p d a.ty [s1] [a] (fun e => elt2 o c.rm a.ty (a.get e) (trunc a.ty c.scal2)) c h
    else .mismatch
  | none => .mismatch

/-- A vector source and an immediate for every element (R192, major 0x12): a float tag is refused. -/
def arith2i (o : Op2) (p : Pred) (d : VDst) (s1 : VSrc) (imm : BitVec 16) : VEffect := fun c h =>
  match readSource c h s1 with
  | some a =>
    if o.accepts a.ty && isInt a.ty then
      elementwise p d a.ty [s1] [a] (fun e => elt2 o c.rm a.ty (a.get e) (trunc a.ty (imm16 imm))) c h
    else .mismatch
  | none => .mismatch

/-- One source (R196, R79). -/
def arith1 (o : Op1) (p : Pred) (d : VDst) (s1 : VSrc) : VEffect := fun c h =>
  match readSource c h s1 with
  | some a =>
    if o.accepts a.ty then elementwise p d a.ty [s1] [a] (fun e => elt1 o c.rm a.ty (a.get e)) c h else .mismatch
  | none => .mismatch

/-- Three sources of one tag (R196). -/
def arith3 (o : Op3) (p : Pred) (d : VDst) (s1 s2 s3 : VSrc) : VEffect := fun c h =>
  match readSource c h s1, readSource c h s2, readSource c h s3 with
  | some a, some b, some z =>
    if a.ty = b.ty && a.ty = z.ty && o.accepts a.ty then
      elementwise p d a.ty [s1, s2, s3] [a, b, z] (fun e => elt3 o c.rm a.ty (a.get e) (b.get e) (z.get e)) c h
    else .mismatch
  | _, _, _ => .mismatch

/-- Three sources, the second a scalar (R192). -/
def arith3s (o : Op3) (p : Pred) (d : VDst) (s1 s3 : VSrc) : VEffect := fun c h =>
  match readSource c h s1, readSource c h s3 with
  | some a, some z =>
    if a.ty = z.ty && o.accepts a.ty then
      elementwise p d a.ty [s1, s3] [a, z] (fun e => elt3 o c.rm a.ty (a.get e) (trunc a.ty c.scal2) (z.get e)) c h
    else .mismatch
  | _, _ => .mismatch

/-- VCMP with two vector sources (R197). -/
def compare2 (k : Cond) (p : Pred) (m : MaskReg) (s1 s2 : VSrc) : VEffect := fun c h =>
  match readSource c h s1, readSource c h s2 with
  | some a, some b =>
    if a.ty = b.ty && k.accepts a.ty then
      maskwise p m [s1, s2] [a, b] (fun e => eltCond k a.ty (a.get e) (b.get e)) c h
    else .mismatch
  | _, _ => .mismatch

/-- VCMP with a scalar (R192, R197). -/
def compare2s (k : Cond) (p : Pred) (m : MaskReg) (s1 : VSrc) : VEffect := fun c h =>
  match readSource c h s1 with
  | some a =>
    if k.accepts a.ty then maskwise p m [s1] [a] (fun e => eltCond k a.ty (a.get e) (trunc a.ty c.scal2)) c h
    else .mismatch
  | none => .mismatch

/-- VCMP with an immediate (R192, R197). -/
def compare2i (k : Cond) (p : Pred) (m : MaskReg) (s1 : VSrc) (imm : BitVec 16) : VEffect := fun c h =>
  match readSource c h s1 with
  | some a =>
    if k.accepts a.ty && isInt a.ty then
      maskwise p m [s1] [a] (fun e => eltCond k a.ty (a.get e) (trunc a.ty (imm16 imm))) c h
    else .mismatch
  | none => .mismatch

/-- VSEL (R198): every element from vstart to vl − 1 is written; the mask is an operand. In an AIB only the elements of the
running group are. -/
def select2 (p : Pred) (d : VDst) (s1 : VSrc) (a : VSource) (names : List VSrc) (bs : List VSource) (b : Nat → Word) :
    VEffect := fun c h =>
  elementwise ⟨p.joined, none, false⟩ d a.ty (s1 :: names) (a :: bs)
    (fun e => .quiet (if maskBit c h p.sel e then trunc a.ty (a.get e) else b e)) c h

def selectVV (p : Pred) (d : VDst) (s1 s2 : VSrc) : VEffect := fun c h =>
  match readSource c h s1, readSource c h s2 with
  | some a, some b => if a.ty = b.ty then select2 p d s1 a [s2] [b] (fun e => b.get e) c h else .mismatch
  | _, _ => .mismatch

def selectVS (p : Pred) (d : VDst) (s1 : VSrc) : VEffect := fun c h =>
  match readSource c h s1 with
  | some a => select2 p d s1 a [] [] (fun _ => trunc a.ty c.scal2) c h
  | none => .mismatch

/-- VSPLAT (R190): the low bits of the captured scalar, under the grant type. -/
def splat (p : Pred) (d : VDst) : VEffect := fun c h =>
  elementwise p d c.grant [] [] (fun _ => .quiet (trunc c.grant c.scal1)) c h

/-- VPUSH (R247): a row of vl elements of the source's tag; whole. -/
def push (p : Pred) (q : Fin 2) (s1 : VSrc) : VEffect := fun c h =>
  match readSource c h s1 with
  | none => .mismatch
  | some a =>
    elementRun true p (.sq q) a.ty [s1] [a.ty] (fun e => a.poison.contains e) (fun e => .quiet (trunc a.ty (a.get e))) c h

/-- VTAG (R53, R189): live, of the type, every element 0. It has no elements (log 60). -/
def tag (v : Reg) (t : ElemType) : VEffect := fun _ h =>
  .done { h with anchor := { h.anchor with vregs := h.anchor.vregs.set v ⟨some t, true, [], []⟩ } } none 0 false [] false

/-- The valid length after VRETAG (R53). -/
def retagLength (cls : Fin 6) (old new : ElemType) (n : Nat) : Nat :=
  min ((n * width old + width new - 1) / width new) (capacity cls new)

/-- VRETAG (R53, R189): a dead register stays dead; to the type already held it sets the dirty bit alone; otherwise the
contents are undefined (R6). As `tag`, it acts whole in every run of its convoy, at a stop and on the resumption (log 60). -/
def retag (v : Reg) (t : ElemType) : VEffect := fun _ h =>
  let r := h.anchor.vregs[v]
  let new : VReg :=
    match r.ty with
    | none => r
    | some u =>
      if u = t then { r with dirty := true }
      else ⟨some t, true, (List.range (retagLength h.cls u t r.elems.length)).map
        (fun e => trunc t (Config.undefined ([u.code, t.code] ++ r.elems.map (·.toNat)) e)), []⟩
  .done { h with anchor := { h.anchor with vregs := h.anchor.vregs.set v new } } none 0 false [] false

/-- MAND, MOR, MXOR, MNOT and MSET (R199). In an AIB only the bits of the running group change. -/
def maskOp (m : MaskReg) (f : Nat → Bool) : VEffect := fun c h =>
  if c.performsNothing then .done h none 0 false [] false
  else
    let old := h.anchor.th.masks[m]
    let new := maskPatch old c.vstart c.limit fun e => if c.inGroup e then f e else old.testBit e
    .done { h with anchor := { h.anchor with th := { h.anchor.th with masks := h.anchor.th.masks.set m new } } }
      none 0 false [] false

/-- A mask's bit as a mask instruction reads it. -/
def opBit (c : VCtx) (h : Hart) (a : MaskReg) (e : Nat) : Bool := maskBit c h (some a) e

def maskAnd (m a b : MaskReg) : VEffect := fun c h => maskOp m (fun e => opBit c h a e && opBit c h b e) c h
def maskOr (m a b : MaskReg) : VEffect := fun c h => maskOp m (fun e => opBit c h a e || opBit c h b e) c h
def maskXor (m a b : MaskReg) : VEffect := fun c h => maskOp m (fun e => opBit c h a e != opBit c h b e) c h
def maskNot (m a : MaskReg) : VEffect := fun c h => maskOp m (fun e => !opBit c h a e) c h
def maskSet (m : MaskReg) (b : Bool) : VEffect := maskOp m fun _ => b

end Sys2Proof.Machine
end

