-- ==== Sys2Proof/Machine/VConvert.lean ====
section
/-! DEFINITION. Conversion, the narrow format, the butterfly, random draws and UTF-8 as the vector unit runs them (R80 to
R88, R99, R100, R200 to R206). -/
namespace Sys2Proof.Machine

open Sys2Proof

/-- VCVT and VCVT.s (R200): the source tags of R195, the target in the instruction. -/
def convert (saturate : Bool) (p : Pred) (d : VDst) (s1 : VSrc) (t : ElemType) : VEffect := fun c h =>
  match readSource c h s1 with
  | some a =>
    if a.ty ≠ .qn4 && (!saturate || isInt a.ty) then
      elementwise p d t [s1] [a] (fun e => eltConvert c.rm saturate a.ty t (a.get e)) c h
    else .mismatch
  | none => .mismatch

/-! ### VQCVT (R84 to R86, R201) -/

/-- What the chain of R84 carries from element to element: the codes so far, the carry, exceptions and saturation. -/
structure QuantChain where
  codes : List (Option Word)
  carry : Nat
  flags : Flags
  sat : Bool
deriving Repr

/-- One element of the chain under block scale sc and superblock scale m·2^e. -/
def quantStep (k m : Nat) (e : Int) (sc : Nat) (x : Word) (q : QuantChain) : QuantChain :=
  if (fDecode .f32 x.toNat).isNan then { q with codes := q.codes ++ [some 7], flags := q.flags ||| flagNV }
  else
    let (xs, f1) := prescale x k
    let (y, f2) := fAdd32 xs q.carry
    let fl := q.flags ||| f1 ||| f2
    match fDecode .f32 y with
    | .nan _ => { q with codes := q.codes ++ [some 7], carry := 0, flags := fl ||| flagNV }
    | .inf n => { codes := q.codes ++ [some (if n then 0 else 14)], carry := 0, flags := fl, sat := true }
    | v =>
      let (code, rest) := quantCode v (m * (sc + 1)) e
      let (c, f3) := fResult .f32 .nearestEven rest false
      { codes := q.codes ++ [some (BitVec.ofNat 64 code)], carry := c, flags := fl ||| f3, sat := q.sat }

/-- The largest |xs| of a block's selected real elements that are no NaN, as F32 bits (R84). -/
def blockMax (c : VCtx) (h : Hart) (sel : MaskSel) (a : VSource) (k j : Nat) : Nat :=
  (List.range 64).foldl (fun mx i =>
    let e := 64 * j + i
    if e < c.vl && maskBit c h sel e && !(fDecode .f32 (a.get e).toNat).isNan then
      let v := (prescale (a.get e) k).1 % 2 ^ 31
      max mx v
    else mx) 0

/-- The lowest selected real element with poison: every block's scale is computed on every start (R194, R201). -/
def quantPoison (c : VCtx) (h : Hart) (sel : MaskSel) (a : VSource) : Option Nat :=
  (List.range c.vl).find? fun e => maskBit c h sel e && a.poison.contains e

/-- Where poison stops it: the start of the poisoned block, or its own start; 0 when it is whole; none when this run ends before
(R194, R201). -/
def quantStop (c : VCtx) (h : Hart) (sel : MaskSel) (whole : Bool) (a : VSource) : Option (Nat × Nat) :=
  (quantPoison c h sel a).bind fun e =>
    let k := if whole then 0 else max c.vstart (e / 64 * 64)
    if k < c.limit then some (e, k) else none

/-- VQCVT (R84, R85, R193, R194, R201). When it stops at k it has finished the elements below k; the scales of every block are
written, or of those before the first poisoned one. A mask with no bit in [vstart, vl) sets no vsat (R193); otherwise a block maximum
above S sets it on every start, for the blocks that lie above a stop too (log 69). -/
def quantise (p : Pred) (d : VDst) (s1 : VSrc) (s3 : Reg) (k : Nat) : VEffect := fun c h =>
  match readSource c h s1 with
  | none => .mismatch
  | some a =>
    if a.ty ≠ .f32 then .mismatch
    else if overCapacity c h .f32 || overCapacity c h .qn4 || overCapacity c h .n8 then .illegal
    else if c.performsNothing then doneNothing c h [s1] (some (d, .qn4))
    else
      let whole := retypesSource d .qn4 [s1] [a] || retypesSource (.reg s3) .n8 [s1] [a]
      if whole && c.startsInside then .illegal else
      match quantStop c h p.sel whole a with
      | some (e, k) => .data e k
      | none =>
        if whole && c.cutShort then .limit 0 else
        let nb := (c.vl + 63) / 64
        let hi := match c.stop with
          | none => 64 * nb
          | some s => min s (64 * nb)
        let scale := posScale c.scal2
        let scales : List (Nat × Bool) := (List.range nb).map fun j =>
          match scale with
          | none => (0, false)
          | some (m, e) => blockScale (blockMax c h p.sel a k j) m e
        let start : QuantChain := ⟨[], h.anchor.efc.toNat, 0, false⟩
        let chain := (List.range hi).foldl (fun q e =>
          if e < c.vstart then { q with codes := q.codes ++ [none] }
          else if c.vl ≤ e then { q with codes := q.codes ++ [some 15] }
          else if !maskBit c h p.sel e then { q with codes := q.codes ++ [if p.z then some 7 else none] }
          else
            match scale with
            | none => { q with codes := q.codes ++ [some 7], flags := q.flags ||| flagNV }
            | some (m, ex) => quantStep k m ex (scales.getD (e / 64) (0, false)).1 (a.get e) q) start
        let done := match quantPoison c h p.sel a with
          | none => nb
          | some e => e / 64
        let wScale : Written := (List.range done).map fun j => some (BitVec.ofNat 64 (scales.getD j (0, false)).1)
        let anyActive := (List.range c.vl).any fun e => c.vstart ≤ e && maskBit c h p.sel e
        let satBlocks := anyActive && (scales.take done).any (·.2)
        let h := popIfDone c h [s1]
        let (h, part) : Hart × List Word := match d with
          | .reg _ => writeDst c h d .qn4 chain.codes
          | .sq q =>
            let row := rowElems c .qn4 chain.codes (64 * nb)
            if c.stop.isNone then ({ h with sq := h.sq.set q (h.sq[q] ++ [⟨.qn4, row, []⟩]) }, []) else (h, row.take hi)
        let vr := h.anchor.vregs
        .done { h with anchor := { h.anchor with
            vregs := vr.set s3 (writeReg vr[s3] .n8 wScale)
            efc := BitVec.ofNat 64 chain.carry } }
          none chain.flags (chain.sat || satBlocks) part false

/-- VDQ (R87, R202). -/
def dequantise (p : Pred) (d : VDst) (s1 s3 : VSrc) (t : ElemType) : VEffect := fun c h =>
  match readSource c h s1, readSource c h s3 with
  | some a, some b =>
    if a.ty = .qn4 && b.ty = .n8 then
      let f := if t = .bf16 then FloatFmt.bf16 else FloatFmt.f32
      if overCapacity c h t || overCapacity c h .qn4 then .illegal
      else
        let spreadScales : VSource := ⟨.n8, (List.range c.limit).map (fun e => b.get (e / 64)),
          (List.range c.limit).filter fun e => b.poison.contains (e / 64)⟩
        elementwise p d t [s1, s3] [a, spreadScales]
          (fun e => eltDequant f c.scal2 (a.get e).toNat ((b.get (e / 64)).toNat % 256)) c h
    else .mismatch
  | _, _ => .mismatch

/-! ### The butterfly (R88, R203) -/

/-- Element e of the stage at distance 2^lg: elements at or above vl read as +0.0. -/
def butterfly (vl lg : Nat) (a : Nat → Word) (e : Nat) : Elt :=
  let d := 2 ^ lg
  let v := fun i => if i < vl then fDecode .f32 (a i).toNat else FVal.zero false
  if (e % 64).testBit lg then .ofFloat (fSubV .f32 .nearestEven (v (e - d)) (v e))
  else .ofFloat (fAddV .f32 .nearestEven (v e) (v (e + d)))

/-- The lowest poisoned element of the groups that hold an active element (R194). -/
def groupPoison (c : VCtx) (h : Hart) (sel : MaskSel) (a : VSource) : Option Nat :=
  (List.range c.vl).find? fun e =>
    a.poison.contains e && (List.range 64).any fun i => active c h sel (e / 64 * 64 + i)

def butterflyReg (p : Pred) (d : VDst) (s1 : VSrc) (lg : Nat) : VEffect := fun c h =>
  match readSource c h s1 with
  | some a =>
    if a.ty = .f32 then
      match (if c.performsNothing || overCapacity c h .f32 then none else groupPoison c h p.sel a) with
      | some k => .data k (max c.vstart (k / 64 * 64))
      | none =>
        elementwise p d .f32 [s1] [⟨.f32, a.elems, []⟩] (butterfly c.vl lg a.get) c h
    else .mismatch
  | none => .mismatch

/-- The elements of a stage's output that depend on a poisoned element: all of its group (R194). -/
def groupsPoisoned (vl : Nat) (a : VSource) : List Nat :=
  (List.range vl).filter fun e => a.poison.any fun k => k < vl && k / 64 == e / 64

/-- VBFLY.f: the stage is computed whole and forwarded, with what poison reaches, the groups below vstart included; exceptions are those
of elements this run performs (R88, R194). -/
def butterflyFwd (s1 : VSrc) (lg : Nat) : VEffect := fun c h =>
  match readSource c h s1 with
  | some a =>
    if a.ty ≠ .f32 then .mismatch
    else if overCapacity c h .f32 then .illegal
    else if c.performsNothing then .done (popQueues c h [s1]) (some ⟨.f32, [], []⟩) 0 false [] false
    else
      match groupPoison c h none a with
      | some k => .data k (max c.vstart (k / 64 * 64))
      | none =>
        let es := (List.range c.vl).map (butterfly c.vl lg a.get)
        let fl := flagsOf ((List.range c.limit).filterMap fun e => if c.vstart ≤ e then es[e]? else none)
        .done (popIfDone c h [s1]) (some ⟨.f32, es.map Elt.bits, groupsPoisoned c.vl a⟩) fl false [] false
  | none => .mismatch

/-! ### Random draws (R99, R100, R204) -/

/-- VRAND: the counter advances by vl when it commits, even when it performs nothing (R61, R64, R193). -/
def draw (p : Pred) (d : VDst) : VEffect := fun c h =>
  if c.grant = .qn4 then .mismatch
  else
    let ctr := h.anchor.rngctr + BitVec.ofNat 128 c.drawn
    match elementwise p d c.grant [] []
        (fun e => .quiet (drawElt c.grant (mix c.rngkey (ctr + BitVec.ofNat 128 e)))) c h with
    | .done h' vf fl sat part cyc =>
      let ctr' := if c.stop.isNone then ctr + BitVec.ofNat 128 c.vl else h.anchor.rngctr
      .done { h' with anchor := { h'.anchor with rngctr := ctr' } } vf fl sat part cyc
    | r => r

/-! ### UTF-8 (R205, R206) -/

/-- Whether bytes form a prefix of a well-formed sequence, the sequence itself included; and whether they form one
(the Unicode Standard's table of well-formed byte sequences). -/
def utf8Lead (b : Nat) : Nat :=
  if b < 0x80 then 1
  else if 0xC2 ≤ b && b ≤ 0xDF then 2
  else if 0xE0 ≤ b && b ≤ 0xEF then 3
  else if 0xF0 ≤ b && b ≤ 0xF4 then 4 else 0

def utf8Second (b0 b1 : Nat) : Bool :=
  if b0 = 0xE0 then decide (0xA0 ≤ b1) && decide (b1 ≤ 0xBF)
  else if b0 = 0xED then decide (0x80 ≤ b1) && decide (b1 ≤ 0x9F)
  else if b0 = 0xF0 then decide (0x90 ≤ b1) && decide (b1 ≤ 0xBF)
  else if b0 = 0xF4 then decide (0x80 ≤ b1) && decide (b1 ≤ 0x8F)
  else decide (0x80 ≤ b1) && decide (b1 ≤ 0xBF)

def isTail (b : Nat) : Bool := decide (0x80 ≤ b) && decide (b ≤ 0xBF)

def utf8Prefix : List Nat → Bool
  | [] => true
  | [b0] => decide (0 < utf8Lead b0)
  | [b0, b1] => decide (2 ≤ utf8Lead b0) && utf8Second b0 b1
  | [b0, b1, b2] => decide (3 ≤ utf8Lead b0) && utf8Second b0 b1 && isTail b2
  | [b0, b1, b2, b3] => utf8Lead b0 == 4 && utf8Second b0 b1 && isTail b2 && isTail b3
  | _ => false

def utf8Whole (p : List Nat) : Bool := utf8Prefix p && p.length == utf8Lead (p.headD 0)

def utf8Point : List Nat → Nat
  | [b0] => b0
  | [b0, b1] => b0 % 32 * 64 + b1 % 64
  | [b0, b1, b2] => b0 % 16 * 4096 + b1 % 64 * 64 + b2 % 64
  | [b0, b1, b2, b3] => b0 % 8 * 262144 + b1 % 64 * 4096 + b2 % 64 * 64 + b3 % 64
  | _ => 0

/-- One byte of the procedure of R206: the pending bytes and pre, and the element. -/
def utf8Step (st : List Nat × Bool) (b : Nat) : (List Nat × Bool) × Nat :=
  let (p, pre) := st
  let (p, pre) := if !p.isEmpty && !utf8Prefix (p ++ [b]) then ([], true) else (p, pre)
  let preBit := if pre then 2 ^ 29 else 0
  if p.isEmpty && utf8Lead b == 0 then (([], false), 2 ^ 31 + 2 ^ 30 + 0xFFFD + preBit)
  else
    let p := p ++ [b]
    if utf8Whole p then (([], false), 2 ^ 31 + utf8Point p + preBit) else ((p, false), preBit)

def utf8Run : List Nat × Bool → List Nat → List Nat × (List Nat × Bool)
  | st, [] => ([], st)
  | st, b :: bs =>
    let (st, o) := utf8Step st b
    let (os, st) := utf8Run st bs
    (o :: os, st)

/-- The pending bytes of a carry element; what is no proper prefix of a well-formed sequence becomes pre (R206). -/
def utf8Carry (w : Nat) : List Nat × Bool :=
  let p := [w % 256, w / 256 % 256, w / 65536 % 256].take (w / 2 ^ 24 % 4)
  if utf8Prefix p && !(utf8Whole p && !p.isEmpty) then (p, false) else ([], true)

def utf8Pack (p : List Nat) : Nat :=
  p.length * 2 ^ 24 + p.getD 0 0 + p.getD 1 0 * 256 + p.getD 2 0 * 65536

/-- VUTF8 (R205): whole. -/
def decodeUtf8 (d : VDst) (s1 : VSrc) (s2 : Reg) : VEffect := fun c h =>
  match readSource c h s1, VSource.ofReg h.anchor.vregs[s2] with
  | some a, some st =>
    if a.ty = .n8 && st.ty = .n32 then
      if overCapacity c h .n8 || overCapacity c h .n32 then .illegal
      else if c.performsNothing then doneNothing c h [s1] (some (d, .n32))
      else if c.startsInside then .illegal
      else
        match (List.range c.limit).find? (a.poison.contains ·), st.poison.contains 0 && decide (0 < c.limit) with
        | _, true => .data 0 0
        | some k, false => .data k 0
        | none, false =>
          if c.cutShort then .limit 0 else
          let (os, fin) := utf8Run (utf8Carry (st.get 0).toNat) ((List.range c.vl).map fun e => (a.get e).toNat % 256)
          let h := popQueues c h [s1]
          let (h, _) := writeDst c h d .n32 (os.map fun o => some (BitVec.ofNat 64 o))
          let vr := h.anchor.vregs
          .done { h with anchor := { h.anchor with
              vregs := vr.set s2 (writeReg vr[s2] .n32 [some (BitVec.ofNat 64 (utf8Pack fin.1))]) } } none 0 false [] false
    else .mismatch
  | _, _ => .mismatch

end Sys2Proof.Machine
end

