-- ==== Sys2Proof/Machine/Perform.lean ====
section
/-! DEFINITION. What each instruction of the vector instruction queue uses (sources, destinations, masks, scalars, its convoy
unit: R26, R150 to R154, R164, R265), and which effect of the vector unit it has. -/
namespace Sys2Proof.Machine

open Sys2Proof

/-- The convoy units of R154; what takes none (matrix instructions, `VFETCH`) is in no convoy. -/
inductive ConvoyUnit where
  | alu | sfu | bfs | qnt | prm | red | fst | msk | sqp | none
deriving DecidableEq, Repr

/-- How many of a unit a track has (R154). -/
def ConvoyUnit.count : ConvoyUnit → Nat
  | .alu | .msk | .sqp => 2
  | .bfs => 6
  | .sfu | .qnt | .prm | .red | .fst => 1
  | .none => 0

/-- What an instruction of the VIQ uses: predicate and C bit; vector sources by field (0, 1, 2 for s1, s2, s3); vector
destination; further value registers read and written; masks read beside the selector, and written; its convoy unit; the scalars captured; the scalar it writes; whether it sets vl, forwards vf, is SETTL, is of the V form. -/
structure VUse where
  pred : Pred := ⟨false, Option.none, false⟩
  srcs : List (Nat × VSrc) := []
  dst : Option VDst := Option.none
  vreads : List Reg := []
  vwrites : List Reg := []
  mreads : List MaskReg := []
  mwrites : List MaskReg := []
  unit : ConvoyUnit := .none
  scal1 : Option Reg := Option.none
  scal2 : Option Reg := Option.none
  scal3 : Option Reg := Option.none
  out : Option Reg := Option.none
  setsVl : Bool := false
  forwards : Bool := false
  settl : Bool := false
  vform : Bool := false
deriving DecidableEq, Repr

def fillReg : Fill → Option Reg
  | .scalar r => some r
  | _ => none

/-- The value registers an instruction reads and writes. -/
def VUse.regReads (u : VUse) : List Reg :=
  u.vreads ++ u.srcs.filterMap fun x => match x.2 with
    | .reg r _ => some r
    | _ => none

def VUse.regWrites (u : VUse) : List Reg :=
  u.vwrites ++ (match u.dst with
    | some (.reg r) => [r]
    | _ => [])

/-- The masks it reads, its selector among them. -/
def VUse.maskReads (u : VUse) : List MaskReg := u.mreads ++ u.pred.sel.toList

/-- The load queues it pops, each once (R16). -/
def VUse.lqs (u : VUse) : List (Fin 4) :=
  (u.srcs.filterMap fun x => match x.2 with
    | .lq q => some q
    | _ => none).eraseDups

/-- The store queue it pushes. -/
def VUse.sqs (u : VUse) : List (Fin 2) :=
  match u.dst with
  | some (.sq q) => [q]
  | _ => []

/-- The units it takes (R154): its own, and SQP when d names a store queue. -/
def VUse.units (u : VUse) : List ConvoyUnit :=
  u.unit :: (if u.unit != .sqp && !u.sqs.isEmpty then [.sqp] else [])

/-- Whether it names vf, and how often. -/
def VUse.vfCount (u : VUse) : Nat := (u.srcs.filter fun x => x.2 == .vf).length

/-- Whether it writes a scalar register or vl, so that no instruction may join it (R153). -/
def VUse.endsConvoy (u : VUse) : Bool := u.out.isSome || u.setsVl


/-- What an instruction that enters the VIQ uses; none for the others (R23, R149 to R154, R164). -/
def useOf : Instr → Option VUse
  | .vadd p d s1 s2 => some { pred := p, srcs := [(0, s1), (1, s2)], dst := some d, unit := .alu, vform := true }
  | .vsub p d s1 s2 => some { pred := p, srcs := [(0, s1), (1, s2)], dst := some d, unit := .alu, vform := true }
  | .vmul p d s1 s2 => some { pred := p, srcs := [(0, s1), (1, s2)], dst := some d, unit := .alu, vform := true }
  | .vmulh p d s1 s2 => some { pred := p, srcs := [(0, s1), (1, s2)], dst := some d, unit := .alu, vform := true }
  | .vfma p d s1 s2 s3 => some { pred := p, srcs := [(0, s1), (1, s2), (2, s3)], dst := some d, unit := .alu, vform := true }
  | .vfms p d s1 s2 s3 => some { pred := p, srcs := [(0, s1), (1, s2), (2, s3)], dst := some d, unit := .alu, vform := true }
  | .vdiv p d s1 s2 => some { pred := p, srcs := [(0, s1), (1, s2)], dst := some d, unit := .sfu, vform := true }
  | .vsqrt p d s1 => some { pred := p, srcs := [(0, s1)], dst := some d, unit := .sfu, vform := true }
  | .vrcp p d s1 => some { pred := p, srcs := [(0, s1)], dst := some d, unit := .sfu, vform := true }
  | .vrsq p d s1 => some { pred := p, srcs := [(0, s1)], dst := some d, unit := .sfu, vform := true }
  | .vexp2 p d s1 => some { pred := p, srcs := [(0, s1)], dst := some d, unit := .sfu, vform := true }
  | .vlog2 p d s1 => some { pred := p, srcs := [(0, s1)], dst := some d, unit := .sfu, vform := true }
  | .vmin p d s1 s2 => some { pred := p, srcs := [(0, s1), (1, s2)], dst := some d, unit := .alu, vform := true }
  | .vmax p d s1 s2 => some { pred := p, srcs := [(0, s1), (1, s2)], dst := some d, unit := .alu, vform := true }
  | .vabs p d s1 => some { pred := p, srcs := [(0, s1)], dst := some d, unit := .alu, vform := true }
  | .vneg p d s1 => some { pred := p, srcs := [(0, s1)], dst := some d, unit := .alu, vform := true }
  | .vand p d s1 s2 => some { pred := p, srcs := [(0, s1), (1, s2)], dst := some d, unit := .alu, vform := true }
  | .vor p d s1 s2 => some { pred := p, srcs := [(0, s1), (1, s2)], dst := some d, unit := .alu, vform := true }
  | .vxor p d s1 s2 => some { pred := p, srcs := [(0, s1), (1, s2)], dst := some d, unit := .alu, vform := true }
  | .vnot p d s1 => some { pred := p, srcs := [(0, s1)], dst := some d, unit := .alu, vform := true }
  | .vshl p d s1 s2 => some { pred := p, srcs := [(0, s1), (1, s2)], dst := some d, unit := .alu, vform := true }
  | .vshr p d s1 s2 => some { pred := p, srcs := [(0, s1), (1, s2)], dst := some d, unit := .alu, vform := true }
  | .vsrr p d s1 s2 => some { pred := p, srcs := [(0, s1), (1, s2)], dst := some d, unit := .alu, vform := true }
  | .vadds p d s1 s2 => some { pred := p, srcs := [(0, s1), (1, s2)], dst := some d, unit := .alu, vform := true }
  | .vsubs p d s1 s2 => some { pred := p, srcs := [(0, s1), (1, s2)], dst := some d, unit := .alu, vform := true }
  | .vmac2 p d s1 s2 s3 => some { pred := p, srcs := [(0, s1), (1, s2), (2, s3)], dst := some d, unit := .alu, vform := true }
  | .vsel p d s1 s2 => some { pred := p, srcs := [(0, s1), (1, s2)], dst := some d, unit := .alu, vform := true }
  | .vcmpEq p m s1 s2 => some { pred := p, srcs := [(0, s1), (1, s2)], mwrites := [m], unit := .alu, vform := true }
  | .vcmpNe p m s1 s2 => some { pred := p, srcs := [(0, s1), (1, s2)], mwrites := [m], unit := .alu, vform := true }
  | .vcmpLt p m s1 s2 => some { pred := p, srcs := [(0, s1), (1, s2)], mwrites := [m], unit := .alu, vform := true }
  | .vcmpLe p m s1 s2 => some { pred := p, srcs := [(0, s1), (1, s2)], mwrites := [m], unit := .alu, vform := true }
  | .vcmpGt p m s1 s2 => some { pred := p, srcs := [(0, s1), (1, s2)], mwrites := [m], unit := .alu, vform := true }
  | .vcmpGe p m s1 s2 => some { pred := p, srcs := [(0, s1), (1, s2)], mwrites := [m], unit := .alu, vform := true }
  | .vcmpUn p m s1 s2 => some { pred := p, srcs := [(0, s1), (1, s2)], mwrites := [m], unit := .alu, vform := true }
  | .vcmpOd p m s1 s2 => some { pred := p, srcs := [(0, s1), (1, s2)], mwrites := [m], unit := .alu, vform := true }
  | .vaddScalar p d s1 c => some { pred := p, srcs := [(0, s1)], dst := some d, unit := .alu, scal2 := some c, vform := true }
  | .vsubScalar p d s1 c => some { pred := p, srcs := [(0, s1)], dst := some d, unit := .alu, scal2 := some c, vform := true }
  | .vmulScalar p d s1 c => some { pred := p, srcs := [(0, s1)], dst := some d, unit := .alu, scal2 := some c, vform := true }
  | .vmulhScalar p d s1 c => some { pred := p, srcs := [(0, s1)], dst := some d, unit := .alu, scal2 := some c, vform := true }
  | .vfmaScalar p d s1 c s3 => some { pred := p, srcs := [(0, s1), (2, s3)], dst := some d, unit := .alu, scal2 := some c, vform := true }
  | .vfmsScalar p d s1 c s3 => some { pred := p, srcs := [(0, s1), (2, s3)], dst := some d, unit := .alu, scal2 := some c, vform := true }
  | .vdivScalar p d s1 c => some { pred := p, srcs := [(0, s1)], dst := some d, unit := .sfu, scal2 := some c, vform := true }
  | .vminScalar p d s1 c => some { pred := p, srcs := [(0, s1)], dst := some d, unit := .alu, scal2 := some c, vform := true }
  | .vmaxScalar p d s1 c => some { pred := p, srcs := [(0, s1)], dst := some d, unit := .alu, scal2 := some c, vform := true }
  | .vandScalar p d s1 c => some { pred := p, srcs := [(0, s1)], dst := some d, unit := .alu, scal2 := some c, vform := true }
  | .vorScalar p d s1 c => some { pred := p, srcs := [(0, s1)], dst := some d, unit := .alu, scal2 := some c, vform := true }
  | .vxorScalar p d s1 c => some { pred := p, srcs := [(0, s1)], dst := some d, unit := .alu, scal2 := some c, vform := true }
  | .vshlScalar p d s1 c => some { pred := p, srcs := [(0, s1)], dst := some d, unit := .alu, scal2 := some c, vform := true }
  | .vshrScalar p d s1 c => some { pred := p, srcs := [(0, s1)], dst := some d, unit := .alu, scal2 := some c, vform := true }
  | .vsrrScalar p d s1 c => some { pred := p, srcs := [(0, s1)], dst := some d, unit := .alu, scal2 := some c, vform := true }
  | .vaddsScalar p d s1 c => some { pred := p, srcs := [(0, s1)], dst := some d, unit := .alu, scal2 := some c, vform := true }
  | .vsubsScalar p d s1 c => some { pred := p, srcs := [(0, s1)], dst := some d, unit := .alu, scal2 := some c, vform := true }
  | .vmac2Scalar p d s1 c s3 => some { pred := p, srcs := [(0, s1), (2, s3)], dst := some d, unit := .alu, scal2 := some c, vform := true }
  | .vselScalar p d s1 c => some { pred := p, srcs := [(0, s1)], dst := some d, unit := .alu, scal2 := some c, vform := true }
  | .vcmpEqScalar p m s1 c => some { pred := p, srcs := [(0, s1)], mwrites := [m], unit := .alu, scal2 := some c, vform := true }
  | .vcmpNeScalar p m s1 c => some { pred := p, srcs := [(0, s1)], mwrites := [m], unit := .alu, scal2 := some c, vform := true }
  | .vcmpLtScalar p m s1 c => some { pred := p, srcs := [(0, s1)], mwrites := [m], unit := .alu, scal2 := some c, vform := true }
  | .vcmpLeScalar p m s1 c => some { pred := p, srcs := [(0, s1)], mwrites := [m], unit := .alu, scal2 := some c, vform := true }
  | .vcmpGtScalar p m s1 c => some { pred := p, srcs := [(0, s1)], mwrites := [m], unit := .alu, scal2 := some c, vform := true }
  | .vcmpGeScalar p m s1 c => some { pred := p, srcs := [(0, s1)], mwrites := [m], unit := .alu, scal2 := some c, vform := true }
  | .vcmpUnScalar p m s1 c => some { pred := p, srcs := [(0, s1)], mwrites := [m], unit := .alu, scal2 := some c, vform := true }
  | .vcmpOdScalar p m s1 c => some { pred := p, srcs := [(0, s1)], mwrites := [m], unit := .alu, scal2 := some c, vform := true }
  | .vaddImm p d s1 _ => some { pred := p, srcs := [(0, s1)], dst := some d, unit := .alu, vform := true }
  | .vsubImm p d s1 _ => some { pred := p, srcs := [(0, s1)], dst := some d, unit := .alu, vform := true }
  | .vmulImm p d s1 _ => some { pred := p, srcs := [(0, s1)], dst := some d, unit := .alu, vform := true }
  | .vminImm p d s1 _ => some { pred := p, srcs := [(0, s1)], dst := some d, unit := .alu, vform := true }
  | .vmaxImm p d s1 _ => some { pred := p, srcs := [(0, s1)], dst := some d, unit := .alu, vform := true }
  | .vandImm p d s1 _ => some { pred := p, srcs := [(0, s1)], dst := some d, unit := .alu, vform := true }
  | .vorImm p d s1 _ => some { pred := p, srcs := [(0, s1)], dst := some d, unit := .alu, vform := true }
  | .vxorImm p d s1 _ => some { pred := p, srcs := [(0, s1)], dst := some d, unit := .alu, vform := true }
  | .vshlImm p d s1 _ => some { pred := p, srcs := [(0, s1)], dst := some d, unit := .alu, vform := true }
  | .vshrImm p d s1 _ => some { pred := p, srcs := [(0, s1)], dst := some d, unit := .alu, vform := true }
  | .vsrrImm p d s1 _ => some { pred := p, srcs := [(0, s1)], dst := some d, unit := .alu, vform := true }
  | .vaddsImm p d s1 _ => some { pred := p, srcs := [(0, s1)], dst := some d, unit := .alu, vform := true }
  | .vsubsImm p d s1 _ => some { pred := p, srcs := [(0, s1)], dst := some d, unit := .alu, vform := true }
  | .vcmpEqImm p m s1 _ => some { pred := p, srcs := [(0, s1)], mwrites := [m], unit := .alu, vform := true }
  | .vcmpNeImm p m s1 _ => some { pred := p, srcs := [(0, s1)], mwrites := [m], unit := .alu, vform := true }
  | .vcmpLtImm p m s1 _ => some { pred := p, srcs := [(0, s1)], mwrites := [m], unit := .alu, vform := true }
  | .vcmpLeImm p m s1 _ => some { pred := p, srcs := [(0, s1)], mwrites := [m], unit := .alu, vform := true }
  | .vcmpGtImm p m s1 _ => some { pred := p, srcs := [(0, s1)], mwrites := [m], unit := .alu, vform := true }
  | .vcmpGeImm p m s1 _ => some { pred := p, srcs := [(0, s1)], mwrites := [m], unit := .alu, vform := true }
  | .vtag j v _ => some { pred := ⟨j, none, false⟩, vwrites := [v], unit := .alu, vform := true }
  | .vretag j v _ => some { pred := ⟨j, none, false⟩, vreads := [v], vwrites := [v], unit := .alu, vform := true }
  | .vsplat p d c => some { pred := p, dst := some d, unit := .alu, scal1 := some c, vform := true }
  | .vpush p q s1 => some { pred := p, srcs := [(0, s1)], dst := some (.sq q), unit := .sqp, vform := true }
  | .vcvt p d s1 _ => some { pred := p, srcs := [(0, s1)], dst := some d, unit := .alu, vform := true }
  | .vcvtS p d s1 _ => some { pred := p, srcs := [(0, s1)], dst := some d, unit := .alu, vform := true }
  | .vqcvt p d s1 c s3 _ => some { pred := p, srcs := [(0, s1)], dst := some d, vwrites := [s3], unit := .qnt, scal2 := some c, vform := true }
  | .vdq p d s1 c s3 _ => some { pred := p, srcs := [(0, s1), (2, s3)], dst := some d, unit := .qnt, scal2 := some c, vform := true }
  | .vbfly p d s1 _ => some { pred := p, srcs := [(0, s1)], dst := some d, unit := .bfs, vform := true }
  | .vbflyF j s1 _ => some { pred := ⟨j, none, false⟩, srcs := [(0, s1)], unit := .bfs, forwards := true, vform := true }
  | .vrand p d => some { pred := p, dst := some d, unit := .alu, vform := true }
  | .vutf8 j d s1 s2 _ => some { pred := ⟨j, none, false⟩, srcs := [(0, s1)], dst := some d, vreads := [s2], vwrites := [s2], unit := .qnt, vform := true }
  | .mand j m a b => some { pred := ⟨j, none, false⟩, mreads := [a, b], mwrites := [m], unit := .msk, vform := true }
  | .mor j m a b => some { pred := ⟨j, none, false⟩, mreads := [a, b], mwrites := [m], unit := .msk, vform := true }
  | .mxor j m a b => some { pred := ⟨j, none, false⟩, mreads := [a, b], mwrites := [m], unit := .msk, vform := true }
  | .mnot j m a => some { pred := ⟨j, none, false⟩, mreads := [a], mwrites := [m], unit := .msk, vform := true }
  | .mset j m _ => some { pred := ⟨j, none, false⟩, mwrites := [m], unit := .msk, vform := true }
  | .vslideup p d s1 amt fill => some { pred := p, srcs := [(0, s1)], dst := some d, unit := .prm, scal2 := some amt, scal3 := fillReg fill, vform := true }
  | .vslidedn p d s1 amt fill => some { pred := p, srcs := [(0, s1)], dst := some d, unit := .prm, scal2 := some amt, scal3 := fillReg fill, vform := true }
  | .vslideupImm p d s1 _ fill => some { pred := p, srcs := [(0, s1)], dst := some d, unit := .prm, scal3 := fillReg fill, vform := true }
  | .vslidednImm p d s1 _ fill => some { pred := p, srcs := [(0, s1)], dst := some d, unit := .prm, scal3 := fillReg fill, vform := true }
  | .vrgather p d s1 s2 => some { pred := p, srcs := [(0, s1), (1, s2)], dst := some d, unit := .prm, vform := true }
  | .vrgather2 p d s1 s2 s3 => some { pred := p, srcs := [(0, s1), (1, s2), (2, s3)], dst := some d, unit := .prm, vform := true }
  | .vcompress p d s1 => some { pred := p, srcs := [(0, s1)], dst := some d, unit := .prm, setsVl := true, vform := true }
  | .vexpand p d s1 => some { pred := p, srcs := [(0, s1)], dst := some d, unit := .prm, vform := true }
  | .viota p d m => some { pred := p, dst := some d, mreads := [m], unit := .prm, vform := true }
  | .vextr j d s1 idx => some { pred := ⟨j, none, false⟩, srcs := [(0, s1)], unit := .prm, scal2 := some idx, out := some d, vform := true }
  | .vextrImm j d s1 _ => some { pred := ⟨j, none, false⟩, srcs := [(0, s1)], unit := .prm, out := some d, vform := true }
  | .vins j d c idx => some { pred := ⟨j, none, false⟩, dst := some d, unit := .prm, scal1 := some c, scal2 := some idx, vform := true }
  | .vinsImm j d c _ => some { pred := ⟨j, none, false⟩, dst := some d, unit := .prm, scal1 := some c, vform := true }
  | .vredsum j sel d s1 acc => some { pred := ⟨j, sel, false⟩, srcs := [(0, s1)], unit := .red, scal2 := some acc, out := some d, vform := true }
  | .vredmax j sel d s1 acc => some { pred := ⟨j, sel, false⟩, srcs := [(0, s1)], unit := .red, scal2 := some acc, out := some d, vform := true }
  | .vredmin j sel d s1 acc => some { pred := ⟨j, sel, false⟩, srcs := [(0, s1)], unit := .red, scal2 := some acc, out := some d, vform := true }
  | .vredbitAnd j sel d s1 acc => some { pred := ⟨j, sel, false⟩, srcs := [(0, s1)], unit := .red, scal2 := some acc, out := some d, vform := true }
  | .vredbitOr j sel d s1 acc => some { pred := ⟨j, sel, false⟩, srcs := [(0, s1)], unit := .red, scal2 := some acc, out := some d, vform := true }
  | .vredbitXor j sel d s1 acc => some { pred := ⟨j, sel, false⟩, srcs := [(0, s1)], unit := .red, scal2 := some acc, out := some d, vform := true }
  | .vscanSum p d s1 cin cout => some { pred := p, srcs := [(0, s1)], dst := some d, unit := .red, scal2 := some cin, out := if cout = 0 then none else some cout, vform := true }
  | .vscanMax p d s1 cin cout => some { pred := p, srcs := [(0, s1)], dst := some d, unit := .red, scal2 := some cin, out := if cout = 0 then none else some cout, vform := true }
  | .vscanMin p d s1 cin cout => some { pred := p, srcs := [(0, s1)], dst := some d, unit := .red, scal2 := some cin, out := if cout = 0 then none else some cout, vform := true }
  | .vscanSumX p d s1 cin cout => some { pred := p, srcs := [(0, s1)], dst := some d, unit := .red, scal2 := some cin, out := if cout = 0 then none else some cout, vform := true }
  | .vscanMaxX p d s1 cin cout => some { pred := p, srcs := [(0, s1)], dst := some d, unit := .red, scal2 := some cin, out := if cout = 0 then none else some cout, vform := true }
  | .vscanMinX p d s1 cin cout => some { pred := p, srcs := [(0, s1)], dst := some d, unit := .red, scal2 := some cin, out := if cout = 0 then none else some cout, vform := true }
  | .vargmax j sel d s1 => some { pred := ⟨j, sel, false⟩, srcs := [(0, s1)], unit := .red, out := some d, vform := true }
  | .vargmin j sel d s1 => some { pred := ⟨j, sel, false⟩, srcs := [(0, s1)], unit := .red, out := some d, vform := true }
  | .mpopc j sel d m => some { pred := ⟨j, sel, false⟩, mreads := [m], unit := .red, out := some d, vform := true }
  | .mfirst j sel d m => some { pred := ⟨j, sel, false⟩, mreads := [m], unit := .red, out := some d, vform := true }
  | .kset p _ s1 => some { pred := p, srcs := [(0, s1)], unit := .fst, vform := true }
  | .kget p d _ => some { pred := p, dst := some d, unit := .fst, vform := true }
  | .kupSum p d s1 _ fm => some { pred := p, srcs := [(0, s1)], dst := some d, mwrites := [] ++ fm.cyc.toList ++ fm.cut.toList, unit := .fst, vform := true }
  | .kupMax p d s1 _ fm => some { pred := p, srcs := [(0, s1)], dst := some d, mwrites := [] ++ fm.cyc.toList ++ fm.cut.toList, unit := .fst, vform := true }
  | .kupMin p d s1 _ fm => some { pred := p, srcs := [(0, s1)], dst := some d, mwrites := [] ++ fm.cyc.toList ++ fm.cut.toList, unit := .fst, vform := true }
  | .kdownSum p d s1 _ fm => some { pred := p, srcs := [(0, s1)], dst := some d, mwrites := [] ++ fm.cyc.toList ++ fm.cut.toList, unit := .fst, vform := true }
  | .kdownMax p d s1 _ fm => some { pred := p, srcs := [(0, s1)], dst := some d, mwrites := [] ++ fm.cyc.toList ++ fm.cut.toList, unit := .fst, vform := true }
  | .kdownMin p d s1 _ fm => some { pred := p, srcs := [(0, s1)], dst := some d, mwrites := [] ++ fm.cyc.toList ++ fm.cut.toList, unit := .fst, vform := true }
  | .kbcast p d s1 _ fm => some { pred := p, srcs := [(0, s1)], dst := some d, mwrites := [] ++ fm.cyc.toList ++ fm.cut.toList, unit := .fst, vform := true }
  | .kdepth p d _ fm => some { pred := p, dst := some d, mwrites := [] ++ fm.cyc.toList ++ fm.cut.toList, unit := .fst, vform := true }
  | .kanc p d c _ fm => some { pred := p, dst := some d, mwrites := [] ++ fm.cyc.toList ++ fm.cut.toList, unit := .fst, scal1 := some c, vform := true }
  | .kancIs p m s1 _ fm => some { pred := p, srcs := [(0, s1)], mwrites := [m] ++ fm.cyc.toList ++ fm.cut.toList, unit := .fst, vform := true }
  | .kcontract p _ _ fm => some { pred := p, mwrites := [] ++ fm.cyc.toList ++ fm.cut.toList, unit := .fst, vform := true }
  | .kroot p d _ fm => some { pred := p, dst := some d, mwrites := [] ++ fm.cyc.toList ++ fm.cut.toList, unit := .fst, vform := true }
  | .kcheck p m _ => some { pred := p, mwrites := [m], unit := .fst, vform := true }
  | .vfetch sel _ => some { pred := ⟨false, sel, false⟩ }
  | .settl c1 c2 c3 => some { scal1 := some c1, scal2 := some c2, scal3 := some c3, settl := true }
  | .mclaim => some {}
  | .mrel => some {}
  | .mzero _ => some {}
  | .mstageA c1 v _ => some { vreads := [v, v + 1], scal1 := some c1, scal2 := some v }
  | .mstageB c1 v _ => some { vreads := [v, v + 1], scal1 := some c1, scal2 := some v }
  | .mma _ c1 c2 => some { scal1 := some c1, scal2 := some c2 }
  | .mldt _ c1 _ => some { scal1 := some c1 }
  | .mstt _ c1 => some { scal1 := some c1 }
  | .mtov v _ c1 => some { vwrites := [v], scal1 := some c1 }
  | _ => none

/-- What an Anchor V-form instruction does in the vector unit; none for the others. -/
def effectOf : Instr → Option VEffect
  | .vadd p d s1 s2 => some (arith2 .add p d s1 s2)
  | .vsub p d s1 s2 => some (arith2 .sub p d s1 s2)
  | .vmul p d s1 s2 => some (arith2 .mul p d s1 s2)
  | .vmulh p d s1 s2 => some (arith2 .mulh p d s1 s2)
  | .vfma p d s1 s2 s3 => some (arith3 .fma p d s1 s2 s3)
  | .vfms p d s1 s2 s3 => some (arith3 .fms p d s1 s2 s3)
  | .vdiv p d s1 s2 => some (arith2 .div p d s1 s2)
  | .vsqrt p d s1 => some (arith1 .sqrt p d s1)
  | .vrcp p d s1 => some (arith1 .rcp p d s1)
  | .vrsq p d s1 => some (arith1 .rsq p d s1)
  | .vexp2 p d s1 => some (arith1 .exp2 p d s1)
  | .vlog2 p d s1 => some (arith1 .log2 p d s1)
  | .vmin p d s1 s2 => some (arith2 .min p d s1 s2)
  | .vmax p d s1 s2 => some (arith2 .max p d s1 s2)
  | .vabs p d s1 => some (arith1 .abs p d s1)
  | .vneg p d s1 => some (arith1 .neg p d s1)
  | .vand p d s1 s2 => some (arith2 .and p d s1 s2)
  | .vor p d s1 s2 => some (arith2 .or p d s1 s2)
  | .vxor p d s1 s2 => some (arith2 .xor p d s1 s2)
  | .vnot p d s1 => some (arith1 .not p d s1)
  | .vshl p d s1 s2 => some (arith2 .shl p d s1 s2)
  | .vshr p d s1 s2 => some (arith2 .shr p d s1 s2)
  | .vsrr p d s1 s2 => some (arith2 .srr p d s1 s2)
  | .vadds p d s1 s2 => some (arith2 .adds p d s1 s2)
  | .vsubs p d s1 s2 => some (arith2 .subs p d s1 s2)
  | .vmac2 p d s1 s2 s3 => some (arith3 .mac2 p d s1 s2 s3)
  | .vsel p d s1 s2 => some (selectVV p d s1 s2)
  | .vcmpEq p m s1 s2 => some (compare2 .eq p m s1 s2)
  | .vcmpNe p m s1 s2 => some (compare2 .ne p m s1 s2)
  | .vcmpLt p m s1 s2 => some (compare2 .lt p m s1 s2)
  | .vcmpLe p m s1 s2 => some (compare2 .le p m s1 s2)
  | .vcmpGt p m s1 s2 => some (compare2 .gt p m s1 s2)
  | .vcmpGe p m s1 s2 => some (compare2 .ge p m s1 s2)
  | .vcmpUn p m s1 s2 => some (compare2 .un p m s1 s2)
  | .vcmpOd p m s1 s2 => some (compare2 .od p m s1 s2)
  | .vaddScalar p d s1 _ => some (arith2s .add p d s1)
  | .vsubScalar p d s1 _ => some (arith2s .sub p d s1)
  | .vmulScalar p d s1 _ => some (arith2s .mul p d s1)
  | .vmulhScalar p d s1 _ => some (arith2s .mulh p d s1)
  | .vfmaScalar p d s1 _ s3 => some (arith3s .fma p d s1 s3)
  | .vfmsScalar p d s1 _ s3 => some (arith3s .fms p d s1 s3)
  | .vdivScalar p d s1 _ => some (arith2s .div p d s1)
  | .vminScalar p d s1 _ => some (arith2s .min p d s1)
  | .vmaxScalar p d s1 _ => some (arith2s .max p d s1)
  | .vandScalar p d s1 _ => some (arith2s .and p d s1)
  | .vorScalar p d s1 _ => some (arith2s .or p d s1)
  | .vxorScalar p d s1 _ => some (arith2s .xor p d s1)
  | .vshlScalar p d s1 _ => some (arith2s .shl p d s1)
  | .vshrScalar p d s1 _ => some (arith2s .shr p d s1)
  | .vsrrScalar p d s1 _ => some (arith2s .srr p d s1)
  | .vaddsScalar p d s1 _ => some (arith2s .adds p d s1)
  | .vsubsScalar p d s1 _ => some (arith2s .subs p d s1)
  | .vmac2Scalar p d s1 _ s3 => some (arith3s .mac2 p d s1 s3)
  | .vselScalar p d s1 _ => some (selectVS p d s1)
  | .vcmpEqScalar p m s1 _ => some (compare2s .eq p m s1)
  | .vcmpNeScalar p m s1 _ => some (compare2s .ne p m s1)
  | .vcmpLtScalar p m s1 _ => some (compare2s .lt p m s1)
  | .vcmpLeScalar p m s1 _ => some (compare2s .le p m s1)
  | .vcmpGtScalar p m s1 _ => some (compare2s .gt p m s1)
  | .vcmpGeScalar p m s1 _ => some (compare2s .ge p m s1)
  | .vcmpUnScalar p m s1 _ => some (compare2s .un p m s1)
  | .vcmpOdScalar p m s1 _ => some (compare2s .od p m s1)
  | .vaddImm p d s1 imm => some (arith2i .add p d s1 imm)
  | .vsubImm p d s1 imm => some (arith2i .sub p d s1 imm)
  | .vmulImm p d s1 imm => some (arith2i .mul p d s1 imm)
  | .vminImm p d s1 imm => some (arith2i .min p d s1 imm)
  | .vmaxImm p d s1 imm => some (arith2i .max p d s1 imm)
  | .vandImm p d s1 imm => some (arith2i .and p d s1 imm)
  | .vorImm p d s1 imm => some (arith2i .or p d s1 imm)
  | .vxorImm p d s1 imm => some (arith2i .xor p d s1 imm)
  | .vshlImm p d s1 imm => some (arith2i .shl p d s1 imm)
  | .vshrImm p d s1 imm => some (arith2i .shr p d s1 imm)
  | .vsrrImm p d s1 imm => some (arith2i .srr p d s1 imm)
  | .vaddsImm p d s1 imm => some (arith2i .adds p d s1 imm)
  | .vsubsImm p d s1 imm => some (arith2i .subs p d s1 imm)
  | .vcmpEqImm p m s1 imm => some (compare2i .eq p m s1 imm)
  | .vcmpNeImm p m s1 imm => some (compare2i .ne p m s1 imm)
  | .vcmpLtImm p m s1 imm => some (compare2i .lt p m s1 imm)
  | .vcmpLeImm p m s1 imm => some (compare2i .le p m s1 imm)
  | .vcmpGtImm p m s1 imm => some (compare2i .gt p m s1 imm)
  | .vcmpGeImm p m s1 imm => some (compare2i .ge p m s1 imm)
  | .vtag _ v ty => some (tag v ty)
  | .vretag _ v ty => some (retag v ty)
  | .vsplat p d _ => some (splat p d)
  | .vpush p q s1 => some (push p q s1)
  | .vcvt p d s1 ty => some (convert false p d s1 ty)
  | .vcvtS p d s1 ty => some (convert true p d s1 ty)
  | .vqcvt p d s1 _ s3 k => some (quantise p d s1 s3 k)
  | .vdq p d s1 _ s3 ty => some (dequantise p d s1 s3 ty)
  | .vbfly p d s1 dist => some (butterflyReg p d s1 dist)
  | .vbflyF _ s1 dist => some (butterflyFwd s1 dist)
  | .vrand p d => some (draw p d)
  | .vutf8 _ d s1 s2 _ => some (decodeUtf8 d s1 s2)
  | .mand _ m a b => some (maskAnd m a b)
  | .mor _ m a b => some (maskOr m a b)
  | .mxor _ m a b => some (maskXor m a b)
  | .mnot _ m a => some (maskNot m a)
  | .mset _ m b => some (maskSet m b)
  | .vslideup p d s1 _ fill => some (slide true p d s1 (fun x => x.scal2.toNat) fill)
  | .vslidedn p d s1 _ fill => some (slide false p d s1 (fun x => x.scal2.toNat) fill)
  | .vslideupImm p d s1 amt fill => some (slide true p d s1 (fun _ => amt) fill)
  | .vslidednImm p d s1 amt fill => some (slide false p d s1 (fun _ => amt) fill)
  | .vrgather p d s1 s2 => some (gather p d s1 s2)
  | .vrgather2 p d s1 s2 s3 => some (gather2 p d s1 s2 s3)
  | .vcompress p d s1 => some (compress p d s1)
  | .vexpand p d s1 => some (expand p d s1)
  | .viota p d m => some (iota p d m)
  | .vextr _ d s1 _ => some (extract d s1 (fun x => x.scal2.toNat))
  | .vextrImm _ d s1 idx => some (extract d s1 (fun _ => idx.toNat))
  | .vins _ d _ _ => some (insert d (fun x => x.scal2.toNat))
  | .vinsImm _ d _ idx => some (insert d (fun _ => idx.toNat))
  | .vredsum _ sel d s1 _ => some (reduce .sum sel d s1)
  | .vredmax _ sel d s1 _ => some (reduce .max sel d s1)
  | .vredmin _ sel d s1 _ => some (reduce .min sel d s1)
  | .vredbitAnd _ sel d s1 _ => some (reduceBits .and sel d s1)
  | .vredbitOr _ sel d s1 _ => some (reduceBits .or sel d s1)
  | .vredbitXor _ sel d s1 _ => some (reduceBits .xor sel d s1)
  | .vscanSum p d s1 _ cout => some (scan .sum false p d s1 cout)
  | .vscanMax p d s1 _ cout => some (scan .max false p d s1 cout)
  | .vscanMin p d s1 _ cout => some (scan .min false p d s1 cout)
  | .vscanSumX p d s1 _ cout => some (scan .sum true p d s1 cout)
  | .vscanMaxX p d s1 _ cout => some (scan .max true p d s1 cout)
  | .vscanMinX p d s1 _ cout => some (scan .min true p d s1 cout)
  | .vargmax _ sel d s1 => some (argExtreme true sel d s1)
  | .vargmin _ sel d s1 => some (argExtreme false sel d s1)
  | .mpopc _ sel d m => some (maskPop sel d m)
  | .mfirst _ sel d m => some (maskLow sel d m)
  | .kset p k s1 => some (linksSet p k s1)
  | .kget p d k => some (linksGet p d k)
  | .kupSum p d s1 k fm => some (combineTree false .sum p d s1 k fm)
  | .kupMax p d s1 k fm => some (combineTree false .max p d s1 k fm)
  | .kupMin p d s1 k fm => some (combineTree false .min p d s1 k fm)
  | .kdownSum p d s1 k fm => some (combineTree true .sum p d s1 k fm)
  | .kdownMax p d s1 k fm => some (combineTree true .max p d s1 k fm)
  | .kdownMin p d s1 k fm => some (combineTree true .min p d s1 k fm)
  | .kbcast p d s1 k fm => some (broadcast p d s1 k fm)
  | .kdepth p d k fm => some (depth p d k fm)
  | .kanc p d _ k fm => some (ancestor p d k fm)
  | .kancIs p m s1 k fm => some (isAncestor p m s1 k fm)
  | .kcontract p kd k fm => some (contract p kd k fm)
  | .kroot p d k fm => some (root p d k fm)
  | .kcheck p m k => some (checkCycles p m k)
  | _ => none

end Sys2Proof.Machine
end

