-- ==== Sys2Proof/Machine/Save.lean ====
section
/-! DEFINITION. The trap record and the context save area, byte by byte (R277, R388 to R391), and the trap point (R24, R25). -/
namespace Sys2Proof.Machine

open Sys2Proof

/-! ### The trap point -/

/-- The entries of a convoy that is still entering the VIQ are abandoned: the front end stands at its first member (R154,
R167, R168). -/
def abandonOpen (a : AnchorState) : AnchorState :=
  match a.openLen with
  | some (n + 1) =>
    let keep := a.viq.length - (n + 1)
    let first := ((a.viq.drop keep).head?).map (·.addr)
    { a with
      viq := a.viq.take keep
      openLen := none
      overlong := none
      th := { a.th with pc := first.getD a.th.pc } }
  | _ => { a with openLen := none, overlong := none }

/-- `vcp` (R24): the oldest uncommitted entry, or the Anchor PC. -/
def vcpOf (a : AnchorState) : Word := ((a.viq.head?).map (·.addr)).getD a.th.pc

def bitNat (b : Bool) (n : Nat) : Nat := if b then 2 ^ n else 0

/-- The 64 bytes of R277. -/
def trapRecord (t : TrapInfo) (ppc apc vcp : Word) : List Byte :=
  leBytes 8 (t.code.toNat + bitNat (t.thread == .anchor) 8 + bitNat t.mq 9 + bitNat t.brk 10 + t.disc % 2 ^ 16 * 2 ^ 16 +
    t.imm.toNat * 2 ^ 32) ++
  leBytes 8 ppc.toNat ++ leBytes 8 apc.toNat ++ leBytes 8 vcp.toNat ++ leBytes 8 t.iaddr.toNat ++ leBytes 8 t.faddr.toNat ++
  leBytes 8 t.elem ++ leBytes 8 0

/-! ### The sections (R389 to R391) -/

def zeros (n : Nat) : List Byte := List.replicate n 0

/-- The code of a type, 0 for dead (R50). -/
def tagCode (t : Option ElemType) : Nat := (t.map ElemType.code).getD 0

/-- How many elements of a type a body of n bytes has places for. -/
def lanePlaces (n : Nat) (t : ElemType) : Nat := 8 * n / width t

/-- The place of element e in the lane layout (R54, R242). -/
def lanePlace (n : Nat) (t : ElemType) (e : Nat) : Nat :=
  if h : e < 8 * n / width t then ((Config.laneOrder n (width t)).symm ⟨e, h⟩).val else e

/-- An element body in the lane layout (R54, R242, R391); a place that holds no element is 0. -/
def laneBytes (n : Nat) (t : ElemType) (es : List Word) : List Byte :=
  leBytes n (packElems t (List.ofFn fun i : Fin (8 * n / width t) => es.getD (Config.laneOrder n (width t) i).val 0))

/-- The elements of such a body, back in their order. -/
def unlane (t : ElemType) (count : Nat) (bs : List Byte) : List Word :=
  let ps := unpackElems t (lanePlaces bs.length t) (leNat bs)
  (List.range count).map fun e => ps.getD (lanePlace bs.length t e) 0

/-- Section 1: both scalar files. -/
def scalarSection (h : Hart) : List Byte :=
  (h.pacer.th.regs.toList ++ h.anchor.th.regs.toList).flatMap fun w => leBytes 8 w.toNat

/-- `mshape` as it reads (R66). -/
def Shape.word (s : Shape) : Nat := s.m + s.n * 2 ^ 8 + s.k * 2 ^ 16

/-- The loop words of section 2 (R38, R390). -/
def loopWords (l : Option LoopState) : List Nat :=
  match l with
  | none => [0, 0, 0, 0]
  | some l => [l.base.toNat, l.words.length - 1 + l.stages * 2 ^ 5 + 2 ^ 8 + bitNat l.modulo 9, l.trips, l.pass]

/-- `frm`, `topoctl` and `rngkey` in force at `vcp`: those the oldest VIQ entry captured (R68). The values the front end has
set since lie in the `SETC` entries behind it (log 63). -/
def frmAt (a : AnchorState) : Word := ((a.viq.head?).map (·.frm)).getD a.th.frm
def topoctlAt (a : AnchorState) : Word := ((a.viq.head?).map (·.topoctl)).getD a.topoctl
def rngkeyAt (a : AnchorState) : Word := ((a.viq.head?).map (·.rngkey)).getD a.rngkey

/-- Section 2 (R390). -/
def controlSection (h : Hart) : List Byte :=
  let p := h.pacer
  let a := h.anchor
  let w : List Nat :=
    [p.th.pc.toNat, p.th.vl.toNat, p.th.grant.code, p.th.rl.toNat, p.th.vstart.toNat, p.th.fflags.toNat, p.th.frm.toNat,
      p.slip.toNat, p.lod.toNat, p.th.trapvec.toNat, p.th.sepc.toNat, p.th.scause.toNat, p.tagmap.toNat, p.tagerr.toNat,
      bitNat p.th.inGbar 0 + bitNat a.th.inGbar 1, h.qa.length + h.qc.length * 2 ^ 8,
      a.th.pc.toNat, (vcpOf a).toNat, a.th.vl.toNat, a.th.grant.code, a.th.rl.toNat, a.th.vstart.toNat, a.th.fflags.toNat,
      (frmAt a).toNat, a.vsat.toNat, a.efc.toNat, (rngkeyAt a).toNat, a.rngctr.toNat % 2 ^ 64, a.rngctr.toNat / 2 ^ 64,
      (topoctlAt a).toNat, a.th.trapvec.toNat, a.th.sepc.toNat, a.th.scause.toNat, a.shape.word, bitNat a.claim 0] ++ loopWords a.loop
  w.flatMap (leBytes 8) ++ zeros (512 - 8 * w.length)

/-- Section 3: the masks, mvl bytes each. -/
def maskSection (h : Hart) : List Byte :=
  (h.pacer.th.masks.toList ++ h.anchor.th.masks.toList).flatMap (leBytes (mvlOf h.cls))

/-- Section 4. -/
def xpcSection (h : Hart) : List Byte :=
  (List.range (mvlOf h.cls)).flatMap fun e => leBytes 8 (h.anchor.xpc.getD e 0).toNat

/-- A VIQ entry (R391). -/
def viqRecord (e : VEntry) : List Byte :=
  let srcs := ((useOf e.instr).map VUse.srcs).getD []
  let popped := (srcs.map fun x => match x.2 with
    | .lq q => if e.popped.any (fun p => p.1 == q) then 2 ^ x.1 else 0
    | _ => 0).sum
  leBytes 8 e.word.toNat ++ leBytes 8 e.addr.toNat ++ leBytes 4 e.vl ++ leBytes 1 e.rl ++ leBytes 1 popped ++ zeros 2 ++
  leBytes 8 e.scal1.toNat ++ leBytes 8 e.scal2.toNat ++ leBytes 8 e.scal3.toNat ++ leBytes 1 e.grant.code ++ zeros 15

/-- The header of a baton record, and its body (R391). -/
def batonRecord (rlen queue kind idx : Nat) (r : Row) : List Byte :=
  leBytes 8 (queue + kind * 2 ^ 4 + idx * 2 ^ 8 + r.ty.code * 2 ^ 16 + r.elems.length % 2 ^ 16 * 2 ^ 32 +
    (Config.laneLayout rlen).toNat * 2 ^ 48) ++ zeros 56 ++ laneBytes rlen r.ty r.elems

/-- A deferred fault record (R391): the load word, its base and its stride or list address, the Pacer mask. -/
def deferredRecord (cls : Fin 6) (w : WaitingLoad) (queue : Nat) : List Byte :=
  leBytes 8 (queue + 2 * 2 ^ 4 + w.ty.code * 2 ^ 16 + w.vl % 2 ^ 16 * 2 ^ 32 + (Config.laneLayout (rlenOf cls)).toNat * 2 ^ 48) ++
  zeros 8 ++ leBytes 8 w.word.toNat ++ leBytes 8 w.base.toNat ++ leBytes 8 w.stride.toNat ++ zeros 24 ++
  leBytes (mvlOf cls) w.mask ++ zeros (rlenOf cls - mvlOf cls)

/-- The records of a load queue: entries popped by VIQ entries, entries, a deferred load. -/
def lqRecords (h : Hart) (q : Fin 4) : List Byte :=
  let rl := rlenOf h.cls
  ((h.anchor.viq.zipIdx).flatMap fun x =>
    (x.1.popped.filter fun p => p.1 == q).flatMap fun p => batonRecord rl q.val 1 x.2 p.2) ++
  h.lq[q].flatMap (batonRecord rl q.val 0 0) ++
  (match h.pacer.waitLoad with
  | some w => if h.pacer.reissue && w.form.queue == q then deferredRecord h.cls w q.val else []
  | none => []) ++
  (match h.pacer.vamoRet with
  | some p => if p.1 == q then batonRecord rl q.val 3 0 p.2 else []
  | none => [])

/-- Section 6. -/
def queueSection (h : Hart) : List Byte :=
  let pad := fun (ws : List Word) => ((List.range 16).map fun k => ws.getD k 0).flatMap fun w => leBytes 8 w.toNat
  pad h.qa ++ pad h.qc ++ (List.range 4).flatMap (fun q => lqRecords h (Fin.ofNat 4 q)) ++
  (List.range 2).flatMap fun q => (h.sq[Fin.ofNat 2 q]).flatMap (batonRecord (rlenOf h.cls) (4 + q) 0 0)

/-- A register's record (R391): its body in ⌈V·w/64⌉ × 64 bytes, written in the lane layout that LAYOUT names at the hart's
class (R242). -/
def registerRecord (rlen number isK tag : Nat) (t : ElemType) (es : List Word) : List Byte :=
  let n := (es.length * width t + 511) / 512 * 64
  leBytes 8 (number + isK * 2 ^ 5 + tag * 2 ^ 8 + 2 ^ 12 + es.length % 2 ^ 16 * 2 ^ 16 + (Config.laneLayout rlen).toNat * 2 ^ 32) ++
  zeros 56 ++ laneBytes n t es

/-- Section 7: the registers whose dirty bit is set, ascending. -/
def registerSection (h : Hart) : List Byte :=
  let rl := rlenOf h.cls
  (h.anchor.vregs.toList.zipIdx.flatMap fun x =>
    match x.1.dirty, x.1.ty with
    | true, some t => registerRecord rl x.2 0 t.code t x.1.elems
    | _, _ => []) ++
  h.anchor.kregs.toList.zipIdx.flatMap fun x =>
    if x.1.dirty then registerRecord rl x.2 1 0 .n16 (x.1.links.map (·.setWidth 64)) else []

def TileTag.code : TileTag → Nat
  | .empty => 0 | .f32 => 1 | .i32 => 2

/-- Section 8: the tiles that are not empty, when a claim is held. -/
def tileSection (h : Hart) : List Byte :=
  if h.anchor.claim then
    h.anchor.tiles.toList.zipIdx.flatMap fun x =>
      if x.1.tag = .empty then [] else leBytes 8 (x.2 + x.1.tag.code * 2 ^ 8) ++ zeros 56 ++ bytesOf (tileElems x.1)
  else []

/-- Which sections a hart's area has, with their bytes. -/
def sectionsOf (h : Hart) (trap : Option TrapInfo) : List (List Byte) :=
  [match trap with
    | some t => trapRecord t h.pacer.th.pc h.anchor.th.pc (vcpOf h.anchor)
    | none => [],
   scalarSection h, controlSection h, maskSection h, xpcSection h, h.anchor.viq.flatMap viqRecord, queueSection h,
   registerSection h, tileSection h]

/-- The section table: offset and length, both 0 for a section that is absent. -/
def sectionTable : Nat → List (List Byte) → List Byte
  | _, [] => []
  | off, s :: rest =>
    (if s.isEmpty then zeros 16 else leBytes 4 off ++ leBytes 4 s.length ++ zeros 8) ++ sectionTable (off + s.length) rest

/-- The VALID bits. -/
def validBits (ss : List (List Byte)) : Nat := (ss.zipIdx.map fun x => bitNat (!x.1.isEmpty) x.2).sum

/-- The whole area (R389). -/
def saveArea (h : Hart) (trap : Option TrapInfo) (hard : Bool) : List Byte :=
  let ss := sectionsOf h trap
  let body := ss.flatten
  leBytes 4 0x53464153 ++ leBytes 2 1 ++ leBytes 2 (validBits ss) ++ leBytes 4 (320 + body.length) ++
  leBytes 4 (h.cls.val + bitNat h.det 3 + bitNat trap.isSome 4 + bitNat hard 5) ++
  leBytes 4 h.gang.toNat ++ leBytes 2 h.hartid ++ leBytes 2 h.slot ++ leBytes 2 h.core ++
  leBytes 6 (h.tracks.toNat + h.share * 2 ^ 4) ++ leBytes 4 h.outst ++ zeros 28 ++
  sectionTable 320 ss ++ zeros (256 - 16 * ss.length) ++ body

/-! ### Where an area lies (R388) -/

def slotLoc (psave : Word) (slot : Nat) : Nat := psave.toNat / 2 ^ 12 % 2 ^ 40 * 2 ^ 12 + slot * 1769472

/-- The offset of section 1, and of the PC words of section 2, in an area. -/
def section1 (area : List Byte) : Nat := leNat ((area.drop 80).take 4)
def section2 (area : List Byte) : Nat := leNat ((area.drop 96).take 4)

/-- The words the driver may rewrite (R393): section 1 and the two PC words. -/
def rewritable (area : List Byte) (k : Nat) : Bool :=
  let s1 := section1 area
  let s2 := section2 area
  (decide (s1 ≤ k) && decide (k < s1 + 512)) || (decide (s2 ≤ k) && decide (k < s2 + 8)) ||
  (decide (s2 + 128 ≤ k) && decide (k < s2 + 136))

/-- The header and table checks of R393: MAGIC, VERSION, SIZE and the section table are as the device wrote them. -/
def headerHolds (was now : List Byte) : Bool :=
  now.take 6 == was.take 6 && (now.drop 8).take 4 == (was.drop 8).take 4 && (now.drop 64).take 256 == (was.drop 64).take 256

/-- Whether every byte of a valid section that the driver may not rewrite is as the device wrote it: the sections fill an area from its byte 320
on (R389, R393). -/
def areaIntact (was now : List Byte) : Bool :=
  was.length == now.length && (was.zip now).zipIdx.all fun x => decide (x.2 < 320) || x.1.1 == x.1.2 || rewritable was x.2

/-- 8-byte words. -/
def words8 : List Byte → List Word
  | a :: b :: c :: d :: e :: f :: g :: h :: rest => BitVec.ofNat 64 (leNat [a, b, c, d, e, f, g, h]) :: words8 rest
  | _ => []

/-- A scalar file read back from its 32 words; register 0 is 0 (R47). -/
def fileOf (ws : List Word) : ScalarFile := Vector.ofFn fun r => if r = (0 : Fin 32) then 0 else ws.getD r.val 0

/-- A thread's scalar file and PC as the area has them. A register that an error had struck stays lost unless the driver has
rewritten it (R402). -/
def reloadThread (th : ThreadState) (ws : List Word) (pc : Word) : ThreadState :=
  let regs := fileOf ws
  { th with regs := regs, pc := pc, lost := th.lost.filter fun r => regGet regs r == regGet th.regs r }

/-- What the driver may have rewritten (R280, R393): both scalar files, both PCs. A register that it gave another value no longer holds one
popped from `qa` (R20). -/
def reloadRewritable (h : Hart) (area : List Byte) : Hart :=
  let ws := words8 ((area.drop (section1 area)).take 512)
  let word := fun k => BitVec.ofNat 64 (leNat ((area.drop (section2 area + k)).take 8))
  { h with
    pacer := { h.pacer with
      th := reloadThread h.pacer.th (ws.take 32) (word 0)
      fromQa := Vector.ofFn fun r => h.pacer.fromQa[r] && regGet (fileOf (ws.take 32)) r == regGet h.pacer.th.regs r }
    anchor := { h.anchor with th := reloadThread h.anchor.th (ws.drop 32) (word 128) } }

end Sys2Proof.Machine
end

