-- ==== Sys2Proof/Machine/Log.lean ====
section
/-! DEFINITION. The management core's error log, and the fatal stop (R405, R406). -/
namespace Sys2Proof.Machine

open Sys2Proof

def modMgmt (s : State) (f : Management → Management) : State := { s with mgmt := f s.mgmt }

/-- A die's cycle counter (R67); the IO dies are 8 and 9. -/
def dieCycle (s : State) (die : Nat) : Word := BitVec.ofNat 64 (s.now + Config.cycleOffset die)

/-! ### The error log (R405) -/

def logRecord (s : State) (cls unit sev outcome die place cnt : Nat) : List Byte :=
  leBytes 1 cls ++ leBytes 1 unit ++ leBytes 1 (sev + outcome * 2 ^ 4) ++ leBytes 1 die ++ leBytes 8 (dieCycle s die).toNat ++
    leBytes 8 place ++ leBytes 4 cnt ++ zeros 40

/-- A record is posted in the ring, with vector 16 of the PF; a full ring counts it as lost. The log also keeps it for a
dump (R407). -/
def postLog (s : State) (bs : List Byte) : State :=
  let m := s.mgmt
  let size := 2 ^ (m.elbase.toNat % 16 + 4)
  let s := modMgmt s fun m => { m with log := m.log ++ [bs] }
  if (m.eltail.toNat + 1) % size = m.elhead.toNat % size then modMgmt s fun m => { m with lost := m.lost + 1 }
  else
    let s := homeWrite s (hostLoc pfPasid (m.elbase.toNat / 64 % 2 ^ 46 * 64 + 64 * m.eltail.toNat)) bs false
    modMgmt { s with msix := s.msix ++ [(.pf, 16)] } fun m => { m with eltail := BitVec.ofNat 16 ((m.eltail.toNat + 1) % size) }

def lookup (xs : List (List Nat × Nat)) (key : List Nat) : Nat := ((xs.find? fun x => x.1 == key).map (·.2)).getD 0

def bump (xs : List (List Nat × Nat)) (key : List Nat) : List (List Nat × Nat) :=
  (key, lookup xs key + 1) :: xs.filter fun x => x.1 != key

/-- One more error in what a key names (CNT). -/
def countError (s : State) (key : List Nat) : State × Nat :=
  let cs := bump s.mgmt.counts key
  (modMgmt s fun m => { m with counts := cs }, lookup cs key)

/-! ### Fatal errors (R406) -/

/-- Whether a hart holds its tracks: its gang is resident or not yet wholly saved. -/
def holdsTracks (s : State) (h : Hart) : Bool :=
  h.mode != .retired && s.gangs.any fun g => g.part == h.part && g.gangid == h.gang && (g.mode == .resident || g.mode == .saving)

/-- The harts that are resident, by core and then hartid, and whether an area of each can be written whole: one that is being
saved cannot (R420). -/
def residentHarts (s : State) : List (Nat × Bool) :=
  let is := (List.range s.harts.length).filter fun i => match s.harts[i]? with
    | some h => holdsTracks s h
    | none => false
  let key := fun (i : Nat) => match s.harts[i]? with
    | some h => h.core * 2 ^ 16 + h.hartid
    | none => 0
  let sorted := is.foldl (fun acc i => (acc.takeWhile fun j => decide (key j ≤ key i)) ++ i :: acc.dropWhile fun j => decide (key j ≤ key i)) []
  sorted.map fun i => (i, match s.harts[i]? with
    | some h => h.mode != .saving
    | none => false)

/-- A fatal error: every gang stops without a save; FATAL is set; a record with SEV 2 is posted. Only the first has an effect. -/
def fatalStop (s : State) (cause : BitVec 8) (unit die place : Nat) : State :=
  if s.mgmt.fatal then s
  else
    let res := residentHarts s
    let s := { s with
      harts := s.harts.map fun h => { h with mode := .retired }
      gangs := []
      contexts := []
      claimWait := []
      watchers := []
      waiters := s.waiters.filter fun w => match w.2 with
        | .thread _ _ _ _ => false
        | _ => true
      requests := s.requests.filter fun r => match r.waiter with
        | .thread _ _ _ _ => false
        | _ => true }
    let s := modMgmt s fun m => { m with fatal := true, dumpHarts := res, dumpCause := cause, dumpDie := die }
    let (s, cnt) := countError s [8, cause.toNat, die]
    postLog s (logRecord s cause.toNat unit 2 0 die place cnt)

/-- A save area that cannot be written is a fatal error (R406). It lies in an HBM row; the other fields of the record have no value
in the spec, so they are free (log 64). -/
def areaFatal (s : State) : State :=
  let f := fun k => (Config.freeBits (s.free + k)).toNat
  fatalStop { s with free := s.free + 3 } 1 (f 0 % 256) (f 1 % 10) (f 2)

end Sys2Proof.Machine
end

