-- ==== Sys2Proof/Machine/Ops.lean ====
section
/-! DEFINITION. The named operations the meanings share: the executing thread and its registers, fault records and replay
tokens, reaching memory, saving a hart, ending a gang, taking an exception and returning from one (R47, R145, R166, R167, R233,
R276 to R283, R385, R398 to R400). -/
namespace Sys2Proof.Machine

open Sys2Proof

/-- The outcome of a step of this machine. -/
abbrev Out := Host.Outcome State Fault Refusal

/-! ### The executing thread -/

def ExecUnit.thread : ExecUnit → Thread
  | .pacer => .pacer
  | _ => .anchor

def Hart.th (h : Hart) : Thread → ThreadState
  | .pacer => h.pacer.th
  | .anchor => h.anchor.th

def Hart.setTh (h : Hart) (t : Thread) (x : ThreadState) : Hart :=
  match t with
  | .pacer => { h with pacer := { h.pacer with th := x } }
  | .anchor => { h with anchor := { h.anchor with th := x } }

/-- A scalar register of a thread (R47). -/
def Hart.reg (h : Hart) (t : Thread) (r : Reg) : Word := regGet (h.th t).regs r

/-- Writing a scalar register (R47). A Pacer register written so no longer holds a value popped from `qa` (R20). -/
def Hart.setReg (h : Hart) (t : Thread) (r : Reg) (v : Word) : Hart :=
  match t with
  | .pacer => { h with pacer := { h.pacer with
      th := { h.pacer.th with regs := regSet h.pacer.th.regs r v, lost := h.pacer.th.lost.filter (· != r) }
      fromQa := h.pacer.fromQa.set r false } }
  | .anchor => { h with anchor := { h.anchor with th := { h.anchor.th with
      regs := regSet h.anchor.th.regs r v
      lost := h.anchor.th.lost.filter (· != r) } } }

/-- Going on to an address. -/
def Hart.goto (h : Hart) (t : Thread) (a : Word) : Hart := h.setTh t { h.th t with pc := a }

/-- Going on to the next instruction. -/
def Hart.advance (h : Hart) (t : Thread) : Hart := h.goto t ((h.th t).pc + 8)

/-- ORing exceptions into a thread's fflags (R9). -/
def Hart.raise (h : Hart) (t : Thread) (f : Flags) : Hart := h.setTh t { h.th t with fflags := orFlags (h.th t).fflags f }

/-- Writing d and going on. -/
def writeBack (s : State) (i : Nat) (h : Hart) (t : Thread) (d : Reg) (v : Word) : Out :=
  .next (setHart s i ((h.setReg t d v).advance t))

/-- Only going on. -/
def goOn (s : State) (i : Nat) (h : Hart) (t : Thread) : Out := .next (setHart s i (h.advance t))

/-! ### Records in host memory (R398, R399) -/

def ringSize (p : Partition) : Nat := 2 ^ (p.fqbase.toNat % 16 + 4)
def ringFull (p : Partition) : Bool := (p.fqtail.toNat + 1) % ringSize p == p.fqhead.toNat % ringSize p

/-- A record goes to TAIL, TAIL advances, the vectors of the VF and the PF are raised (R398). -/
def writeRecord (s : State) (part : Fin 8) (bs : List Byte) : State :=
  let p := s.parts[part]
  let base := p.fqbase.toNat / 64 % 2 ^ 46 * 64
  let s := homeWrite s (hostLoc pfPasid (base + 64 * p.fqtail.toNat)) bs false
  { s with
    parts := s.parts.set part { p with fqtail := BitVec.ofNat 16 ((p.fqtail.toNat + 1) % ringSize p) }
    msix := s.msix ++ [(.vf part, 0), (.pf, 8 + part.val)] }

/-- A record is posted, or waits in the device while the ring is full (R398). -/
def postRecord (s : State) (part : Fin 8) (bs : List Byte) : State :=
  let p := s.parts[part]
  if ringFull p || !p.waiting.isEmpty then { s with parts := s.parts.set part { p with waiting := p.waiting ++ [bs] } }
  else writeRecord s part bs

/-- When HEAD moves, waiting records are posted while there is room (R398); fuel bounds their number. -/
def postWaiting : Nat → State → Fin 8 → State
  | 0, s, _ => s
  | n + 1, s, part =>
    let p := s.parts[part]
    match p.waiting with
    | [] => s
    | r :: rest =>
      if ringFull p then s
      else postWaiting n (writeRecord { s with parts := s.parts.set part { p with waiting := rest } } part r) part

/-- A translation fault record (R399). -/
def faultRecord (va : Word) (access level cause agent : Nat) (token gang : BitVec 32) (hart : Nat) : List Byte :=
  leBytes 8 va.toNat ++ leBytes 1 access ++ leBytes 1 level ++ leBytes 1 cause ++ leBytes 1 agent ++
  leBytes 4 token.toNat ++ leBytes 4 gang.toNat ++ leBytes 2 hart ++ zeros 41 ++ [1]

/-- A trap record in the ring (R398). -/
def trapNotice (area : Nat) (gang : BitVec 32) : List Byte := leBytes 8 area ++ leBytes 4 gang.toNat ++ zeros 51 ++ [2]

/-- A restore error (R393, R398). -/
def restoreNotice (area : Nat) (gang : BitVec 32) (hart : Nat) : List Byte :=
  leBytes 8 area ++ leBytes 4 gang.toNat ++ leBytes 2 hart ++ zeros 49 ++ [3]

/-! ### Tokens (R396, R400) -/

/-- The unit of a hart waits on a token. -/
def holdToken (h : Hart) (u : ExecUnit) (tok : BitVec 32) : Hart :=
  match u with
  | .pacer => { h with pacer := { h.pacer with th := { h.pacer.th with tokens := h.pacer.th.tokens ++ [tok] } } }
  | .anchor => { h with anchor := { h.anchor with th := { h.anchor.th with tokens := h.anchor.th.tokens ++ [tok] } } }
  | .vector => { h with anchor := { h.anchor with vtokens := h.anchor.vtokens ++ [tok] } }

/-- A token is no longer waited on. -/
def dropToken (h : Hart) (tok : BitVec 32) : Hart :=
  { h with
    pacer := { h.pacer with th := { h.pacer.th with tokens := h.pacer.th.tokens.filter (· != tok) } }
    anchor := { h.anchor with
      th := { h.anchor.th with tokens := h.anchor.th.tokens.filter (· != tok) }
      vtokens := h.anchor.vtokens.filter (· != tok) } }

/-- A missing translation posts a fault record, and the unit waits for the replay (R233, R238, R145). -/
def waitReplay (s : State) (i : Nat) (h : Hart) (u : ExecUnit) (code : BitVec 8) (access agent : Nat) (va : Word)
    (level cause : Nat) : State :=
  let tok := s.nextToken
  let s := modHart { s with
    nextToken := tok + 1
    waiters := s.waiters ++ [(tok, .thread i u code va)] } i fun h => holdToken h u tok
  postRecord s h.part (faultRecord va access level cause agent tok h.gang h.hartid)

/-- Whether a function has its 256 page requests outstanding (R368): the next one waits. -/
def priFull (s : State) (part : Fin 8) : Bool := decide (256 ≤ (s.requests.filter fun r => r.part == part).length)

/-- A host page that ATS does not know: a page request, and the unit waits for its answer (R396). -/
def waitAts (s : State) (i : Nat) (h : Hart) (u : ExecUnit) (code : BitVec 8) (va : Word) (page : Nat) : State :=
  if priFull s h.part then s
  else
    let tok := s.nextToken
    modHart { s with
      nextToken := tok + 1
      requests := s.requests ++ [⟨h.part, page, tok, .thread i u code va⟩] } i fun h => holdToken h u tok

/-- Every token a hart's threads hold lapses (R400). -/
def lapseTokens (s : State) (i : Nat) : State :=
  let mine : Waiter → Bool
    | .thread j _ _ _ => j == i
    | _ => false
  let s := { s with
    waiters := s.waiters.filter fun w => !mine w.2
    requests := s.requests.filter fun r => !mine r.waiter }
  modHart s i fun h => { h with
    pacer := { h.pacer with th := { h.pacer.th with tokens := [] } }
    anchor := { h.anchor with th := { h.anchor.th with tokens := [] }, vtokens := [] } }

/-! ### Saving a hart (R69, R143, R268, R385, R391) -/

/-- Whether the head convoy is complete (R155). -/
def headClosed (a : AnchorState) : Bool :=
  match a.openLen with
  | some (n + 1) => decide (n + 1 < a.viq.length)
  | _ => true

/-- The rows of the oldest entry's load queues that have arrived count as popped by it when its hart is saved (R25, R391); a convoy that
is still entering the VIQ has popped nothing (R155). -/
def popHeadRows (h : Hart) : Hart :=
  match h.anchor.viq with
  | [] => h
  | e :: rest =>
    if !headClosed h.anchor then h else
    let qs := (((useOf e.instr).map VUse.lqs).getD []).filter fun q => !e.popped.any (fun p => p.1 == q) && !h.lq[q].isEmpty
    let rows := qs.filterMap fun q => (h.lq[q].head?).map fun r => (q, r)
    { h with
      lq := Vector.ofFn fun q => if qs.contains q then h.lq[q].tail else h.lq[q]
      anchor := { h.anchor with viq := { e with popped := e.popped ++ rows } :: rest } }

/-- What the Pacer leaves unfinished: a load that waits for a replay becomes a deferred fault record, a sleeping `WAITM`
returns (R239, R271, R400). -/
def settlePacer (p : PacerState) : PacerState :=
  let p := if p.asleep then { p with asleep := false, th := { p.th with pc := p.th.pc + 8 } } else p
  match p.waitLoad with
  | some _ =>
    if p.reissue then p
    else if p.th.tokens.isEmpty then { p with waitLoad := none }
    else { p with reissue := true, th := { p.th with pc := p.th.pc + 8 } }
  | none => p

def commandCount (h : Hart) : Nat := (h.pacer.engines.toList.map List.length).sum

/-- Both threads have stopped, and every access of the hart ends (R143, R268, R276, R385): loads deliver, stores perform, the dirty
lines are written back, the matrix queue drains, the context is freed, tokens lapse. -/
def quiesce (s : State) (i : Nat) : State :=
  match s.harts[i]? with
  | none => s
  | some h =>
    let s := modPacer s i settlePacer
    let s := modAnchor s i fun a => { a with withdrawn := none, ahead := none }
    let s := settleAll s i h.core .package
    let s := freeContexts (matrixDrain 33 s i) i
    let s := lapseTokens s i
    modHart { s with
      watchers := s.watchers.filter fun w => w.who != .hart i
      claimWait := s.claimWait.filter fun c => c.2 != i } i fun h => { popHeadRows h with outst := commandCount h }

/-- The hart's area is written to its slot (R385, R388). -/
def writeArea (s : State) (i : Nat) (trap : Option TrapInfo) (hard : Bool) (m : HartMode) : State :=
  match s.harts[i]? with
  | none => s
  | some h =>
    let area := saveArea h trap hard
    let loc := slotLoc s.parts[h.part].psave h.slot
    if farBytes < loc + area.length then areaFatal s
    else
      modHart (homeWrite s loc area false) i fun h => { h with
        area := area, mode := m, stopHard := false, resumeOk := false, trapHeld := trap.isSome, trapWait := none }

/-- Whether the area that a hart holds lies in a fenced unit. -/
def areaFenced (s : State) (h : Hart) : Bool := rangeFenced s (slotLoc s.parts[h.part].psave h.slot) h.area.length

/-- A stopped hart is saved whole; none while an access that the save makes waits at a fenced unit (R130). -/
def saveNow (s : State) (i : Nat) (trap : Option TrapInfo) (hard : Bool) (m : HartMode) : Option State :=
  match s.harts[i]? with
  | none => some s
  | some h =>
    if !allSettle s h || queueFenced s h.anchor then none
    else
      let s' := writeArea (quiesce s i) i trap hard m
      if ((s'.harts[i]?).map (areaFenced s)).getD false then none else some s'

/-- A hart whose gang ends at a hard stop, without a save (R45, R384, R387): nothing of it runs on but its engine
commands (R116) and what waits at a fenced unit (R130). -/
def endHart (s : State) (i : Nat) : State :=
  match s.harts[i]? with
  | none => s
  | some h =>
    let s := drainStores s i fun f => !rangeFenced s f.loc f.data.length
    let s := l1CleanAll s h.core fun l => !l.dirty.isEmpty && !rangeFenced s (l.line * 64) 64
    let s := lapseTokens (leaveMatrix (matrixDrain 33 s i) i) i
    modHart { s with
      watchers := s.watchers.filter fun w => w.who != .hart i
      claimWait := s.claimWait.filter fun c => c.2 != i } i fun h => { h with
      mode := .retired
      pacer := { h.pacer with loads := [], waitLoad := none }
      anchor := { h.anchor with viq := [], claim := false } }

/-- The indices of a gang's harts that have not retired. -/
def gangHarts (s : State) (part : Fin 8) (gang : BitVec 32) : List Nat :=
  (List.range s.harts.length).filter fun i =>
    match s.harts[i]? with
    | some h => h.part == part && h.gang == gang && h.mode != .retired
    | none => false

/-- The positions of a core that tracks and a share cover: an eighth of a track is core × 32 + track × 8 + eighth (R40). -/
def positionsOf (cls : Fin 6) (core : Nat) (tracks : BitVec 4) (share : Nat) : List Nat :=
  (List.range 4).flatMap fun t =>
    if tracks.getLsbD t then
      (if cls.val < 3 then (List.range (2 ^ cls.val)).map (· + share) else List.range 8).map fun e => core * 32 + t * 8 + e
    else []

def Hart.positions (h : Hart) : List Nat := positionsOf h.cls h.core h.tracks h.share

/-! ### Gangs and the end of a save (R381, R385) -/

def findGang (s : State) (p : Fin 8) (gang : BitVec 32) : Option Gang := s.gangs.find? fun g => g.part == p && g.gangid == gang

/-- The harts of a gang, ascending by `hartid`, those that have not retired. -/
def gangList (s : State) (g : Gang) : List (Nat × Hart) :=
  (gangHarts s g.part g.gangid).filterMap fun i => (s.harts[i]?).map fun h => (i, h)

def gangPositions (s : State) (g : Gang) : List Nat := (gangList s g).flatMap fun x => x.2.positions

/-- The descheduled gang of a partition that holds its reservation (R380). -/
def reservedGang (s : State) (part : Fin 8) : Option Gang := s.gangs.find? fun g => g.part == part && g.rsv

/-- Whether a partition holds a reservation. -/
def reserved (s : State) (part : Fin 8) : Bool := (s.queues.any fun q => q.part == part && q.rsv) || (reservedGang s part).isSome

/-- Whether the head that holds the reservation can use a position: a deterministic gang only its own (R41), one whose harts all hold a
claim only those of their cores (R268), any other each. -/
def canUse (s : State) (part : Fin 8) (pos : Nat) : Bool :=
  match reservedGang s part with
  | none => true
  | some g =>
    let hs := gangList s g
    if g.det then (gangPositions s g).contains pos
    else if hs.all fun x => x.2.anchor.claim then hs.any fun x => x.2.core == pos / 32
    else true

/-- Tracks become free: while a head holds the reservation those that it can use are held for it (R380), and a pass is due (R379). -/
def freeTracks (s : State) (part : Fin 8) (ps : List Nat) : State :=
  let p := s.parts[part]
  { s with parts := s.parts.set part { p with
      passDue := true
      held := if reserved s part then p.held ++ ps.filter (canUse s part) else p.held } }

/-- A hart whose save has ended: saved, or stopped at a trap, whose area stands as the trap wrote it (R276). -/
def saveEnded (h : Hart) : Bool := h.mode == .saved || h.mode == .trapped

/-- When every hart's save has ended, the tracks are free and the gang is back at the head of its queue (R381, R385), where it
has been passed over by no pass yet (R380). -/
def finishSave (s : State) (p : Fin 8) (gang : BitVec 32) : State :=
  match findGang s p gang with
  | none => s
  | some g =>
    let is := gangHarts s p gang
    let ended := is.all fun i => match s.harts[i]? with
      | some h => saveEnded h
      | none => true
    if g.mode == .saving && ended then
      let ps := gangPositions s g
      let s := is.foldl (fun s i => modHart (freeContexts s i) i fun h => { h with mode := .saved }) s
      let rest := s.gangs.filter fun x => !(x.part == p && x.gangid == gang)
      freeTracks { s with gangs := { g with mode := .saved, selected := false, skip := 0, rsv := false } :: rest } p ps
    else s

/-- The slots of a gang that ends are free (R388). -/
def freeSlots (s : State) (part : Fin 8) (gang : BitVec 32) : State :=
  { s with harts := s.harts.map fun h => if h.part == part && h.gang == gang then { h with slotHeld := false } else h }

/-- A gang ends at a hard stop (R384). -/
def endGang (s : State) (part : Fin 8) (gang : BitVec 32) : State :=
  let is := gangHarts s part gang
  let resident := s.gangs.any fun g => g.part == part && g.gangid == gang && g.mode != .saved
  let ps := if resident then is.flatMap fun i => ((s.harts[i]?).map Hart.positions).getD [] else []
  let s := freeSlots (is.foldl endHart s) part gang
  freeTracks { s with gangs := s.gangs.filter fun g => !(g.part == part && g.gangid == gang) } part ps

/-! ### Taking an exception (R275 to R279) -/

/-- A hart on which a trap can be delivered: it runs, or its save has not ended. -/
def Hart.live (h : Hart) : Bool := h.mode == .running || h.mode == .saving || h.mode == .stopping

/-- Delivery to the supervisor (R276) of a hart whose trap point stands: both threads stop, the state is saved with the trap record,
the record is posted, the hart stays stopped, and a pre-emption of its gang may end with it. Where an access of the save waits at a
fenced unit, the hart is stopping until the unit is open again (R130). With PSAVE.EN 0 the gang ends instead (R387). -/
def deliverStopped (s : State) (i : Nat) (info : TrapInfo) : State :=
  match s.harts[i]? with
  | none => s
  | some h =>
    if !h.live then s
    else
      let psave := s.parts[h.part].psave
      if psave.getLsbD 0 then
        match saveNow s i (some info) h.stopHard .trapped with
        | none => modHart s i fun h => { h with mode := .stopping, trapWait := some info }
        | some s =>
          if s.mgmt.fatal then s
          else finishSave (postRecord s h.part (trapNotice (slotLoc psave h.slot) h.gang)) h.part h.gang
      else postRecord (endGang s h.part h.gang) h.part (trapNotice 0 h.gang)

/-- A trap: the convoy that is entering the VIQ is abandoned (R168), and the trap is delivered. -/
def deliverTrap (s : State) (i : Nat) (info : TrapInfo) : State := deliverStopped (modAnchor s i abandonOpen) i info

/-- A trap of the fetch of an Anchor word: the PC names the word, and the convoy before it stays in the VIQ as it is (R145). -/
def fetchTrap (s : State) (i : Nat) (h : Hart) (code : BitVec 8) (faddr : Word) : State :=
  deliverStopped s i { code := code, thread := .anchor, iaddr := h.anchor.th.pc, faddr := faddr }

/-- A trap of a thread at the instruction it stands at. -/
def trapAt (s : State) (i : Nat) (h : Hart) (t : Thread) (code : BitVec 8) (faddr : Word) : State :=
  deliverTrap s i { code := code, thread := t, iaddr := (h.th t).pc, faddr := faddr }

/-- A trap raised by an instruction where its thread stands. -/
def trapHere (s : State) (i : Nat) (h : Hart) (t : Thread) (code : BitVec 8) : Out := .next (trapAt s i h t code 0)

/-- Where an illegal word is trapped (R167): in the Pacer at once; in the Anchor its convoy is withdrawn, and the trap is
taken once the VIQ has committed what stands before it. The code is 0x01, or 0x03 for a structural conflict (R154). -/
def refuseWord (s : State) (i : Nat) (h : Hart) (t : Thread) (code : BitVec 8) : State :=
  match t with
  | .pacer => trapAt s i h .pacer code 0
  | .anchor =>
    let a := abandonOpen h.anchor
    if a.viq.isEmpty then
      deliverTrap (setAnchor s i h a) i { code := code, thread := .anchor, iaddr := h.anchor.th.pc }
    else setAnchor s i h { a with withdrawn := some ⟨code, a.th.pc, h.anchor.th.pc⟩ }

/-- Running an instruction on the hart that executes (R14): one the thread may not run is an illegal word. -/
def onThread (i : Instr) (s : State) (k : Nat → Hart → Thread → Out) : Out :=
  match s.harts[s.cur.hart]? with
  | none => .next s
  | some h =>
    let t := ExecUnit.thread s.cur.unit
    if Instr.allowed i t then k s.cur.hart h t else .next (refuseWord s s.cur.hart h t 0x01)

/-- Running an instruction that only a Pacer may run (R14). -/
def onPacer (s : State) (k : Nat → Hart → Thread → Out) : Out :=
  match s.harts[s.cur.hart]? with
  | none => .next s
  | some h =>
    match ExecUnit.thread s.cur.unit with
    | .pacer => k s.cur.hart h .pacer
    | .anchor => .next (refuseWord s s.cur.hart h .anchor 0x01)

/-- The arithmetic trap (R279), taken after the flags have been committed, with the PC naming the next instruction. -/
def arithCheck (s : State) (i : Nat) (part : Fin 8) (t : Thread) (f : Flags) (iaddr : Word) : State :=
  if arithTraps s.parts[part].fptrap f then deliverTrap s i { code := 0x0C, thread := t, iaddr := iaddr } else s

/-- A user trap enters the thread's own handler (R278): in user mode PC + 8 goes to register 31 and the cause to register 30,
in supervisor mode to `sepc` and `scause`. -/
def enterHandler (h : Hart) (t : Thread) (cause : Word) : Hart :=
  let th := h.th t
  let back := th.pc + 8
  let h :=
    if h.super then h.setTh t { th with sepc := back, scause := cause }
    else (h.setReg t 31 back).setReg t 30 cause
  h.goto t (BitVec.ofNat 64 (th.trapvec.toNat / 8 * 8))

/-- The return from one (R283): the PC becomes `sepc`, its low three bits too, which the spec leaves open (log 72). -/
def returnTrap (h : Hart) (t : Thread) : Hart := h.goto t (h.th t).sepc

/-! ### Reaching memory (R233, R238) -/

/-- What a stopped access does: it traps, waits for a replay or for the host's answer, waits for a fenced unit, or meets a
hole. decline is the code of a declined replay. -/
def stopAccess (s : State) (i : Nat) (h : Hart) (u : ExecUnit) (decline : BitVec 8) (k : AccessKind) (agent : Nat) (va : Word) :
    Stop → Out
  | .trap code fa => .next (trapAt s i h u.thread code fa)
  | .missing a level cause => .next (waitReplay s i h u decline k.code agent a level cause)
  | .ats page => .next (waitAts s i h u decline va page)
  | .fenced => .next s
  | .hole loc => .fault (.physicalHole loc)

/-- A scalar access of the Pacer of so many bytes (R233): alignment, then class, translation and permission; the
continuation gets the location and whether the page is cacheable. -/
def scalarAccess (s : State) (i : Nat) (h : Hart) (decline : BitVec 8) (k : AccessKind) (va : Word) (n : Nat)
    (go : State → Nat → Bool → Out) : Out :=
  if va.toNat % n ≠ 0 then .next (trapAt s i h .pacer 0x09 va)
  else
    match translate s h.core h.part va k false with
    | .error e => stopAccess s i h .pacer decline k 0 va e
    | .ok (loc, cached) => if accessFenced s loc n cached then .next s else go (noteTlb s h.core h.part va) loc cached

/-! ### Fetching (R145, R146) -/

/-- What a fetch gives: a word, poison, or why it cannot be made. A failing class or permission is the fetch fault (0x06). A store
made to the code page after launch is fetched as soon as the die's far cache or the home holds it, which R146 leaves open
(log 50). -/
def fetchWord (s : State) (h : Hart) (pc : Word) : Except Stop (State × Word × Bool) :=
  if 0xF000000000000 ≤ pc.toNat then .error (.trap 0x06 pc)
  else
    match translate s h.core h.part pc .fetch false with
    | .error (.trap _ fa) => .error (.trap 0x06 fa)
    | .error e => .error e
    | .ok (loc, cached) =>
      if accessFenced s loc 8 cached then .error .fenced else
      let (s, bs, bad) := dieRead (noteTlb s h.core h.part pc) (coreDie h.core) loc 8 cached
      .ok (s, BitVec.ofNat 64 (leNat bs), bad)

end Sys2Proof.Machine
end

