-- ==== Sys2Proof/Machine/VectorUnit.lean ====
section
/-! DEFINITION. The vector unit and the Anchor's front end before it: entering the VIQ, convoys, commit, the matrix
instructions at commit, VFETCH passes (R23 to R32, R37, R44, R61, R149 to R155, R166, R167, R185, R186, R256 to R266). -/
namespace Sys2Proof.Machine

open Sys2Proof

/-! ### Running a convoy (R155) -/

def VEntry.ctx (e : VEntry) (vstart : Nat) (stop : Option Nat) (vf : Option VSource) (drawn : Nat) : VCtx where
  vl := e.vl
  rl := e.rl
  vstart := vstart
  stop := stop
  grant := e.grant
  scal1 := e.scal1
  scal2 := e.scal2
  scal3 := e.scal3
  rm := Rounding.ofWord e.frm
  cyc := e.topoctl.getLsbD 0
  rngkey := e.rngkey
  group := none
  vf := vf
  stageOnes := e.stageOnes
  popped := e.popped
  partRow := e.partRow
  drawn := drawn

/-- How far a run has come: the hart, the forwarded vf, what each member raised and has not committed, saturation, a cycle found (with
the member's address), the parts of queue rows, and the draws that a stopped run has not counted (R204). -/
structure ConvoyRun where
  h : Hart
  vf : Option VSource
  raised : List (Word × Flags)
  sat : Bool
  cycle : Option Word
  parts : List (List Word)
  drawn : Nat

def isDraw : Instr → Bool
  | .vrand _ _ => true
  | _ => false

/-- A run after one more member. -/
def ConvoyRun.add (r : ConvoyRun) (e : VEntry) (h : Hart) (vf : Option VSource) (fl : Flags) (sat : Bool) (part : List Word)
    (cyc : Bool) : ConvoyRun :=
  ⟨h, vf, r.raised ++ [(e.addr, e.owed ||| fl)], r.sat || e.owedSat || sat, if cyc && r.cycle.isNone then some e.addr else r.cycle,
    r.parts ++ [part], if isDraw e.instr then r.drawn + e.vl else r.drawn⟩

def memberOf (e : VEntry) : Option (VUse × VEffect) :=
  match useOf e.instr, effectOf e.instr with
  | some u, some f => some (u, f)
  | _, _ => none

/-! #### The members as nothing stops them -/

/-- What a look at a whole convoy finds: the run, the hart before each member, every member that meets poison, with the element, where
it can stop for it and its address, and of each element that is poisoned because a member reads another (of a value register, or of
vf), that other (R277). -/
structure ConvoyScan where
  run : ConvoyRun
  befores : List Hart
  meets : List (Nat × Nat × Word)
  origins : List ((Option Reg × Nat) × Nat)

def setVreg (h : Hart) (r : Reg) (v : VReg) : Hart := { h with anchor := { h.anchor with vregs := h.anchor.vregs.set r v } }

/-- A member's sources without their poison. -/
def cleanSources (h : Hart) (u : VUse) : Hart := u.regReads.foldl (fun h r => setVreg h r { h.anchor.vregs[r] with poison := [] }) h

/-- The elements of a member's result that depend on poison, those at which it could not be performed alone, each with the element it
meets. -/
def taintOf (f : VEffect) (c : VCtx) (h : Hart) : List (Nat × Nat) :=
  (List.range c.vl).filterMap fun e =>
    match f { c with vstart := e, stop := some (e + 1) } h with
    | .data k _ => some (e, k)
    | _ => none

/-- The hart behind a member that met poison: its result carries the poison on, and its other sources keep theirs. -/
def taint (before after : Hart) (u : VUse) (bad : List Nat) : Hart :=
  let h := (u.regReads.filter fun r => !u.regWrites.contains r).foldl (fun h r => setVreg h r before.anchor.vregs[r]) after
  match u.dst with
  | some (.reg r) => setVreg h r { h.anchor.vregs[r] with poison := bad }
  | _ => h

/-- The lowest of some numbers. -/
def lowest (ks : List Nat) : Option Nat :=
  ks.foldl (fun b k => match b with
    | none => some k
    | some m => some (min m k)) none

/-- The poisoned element that a member met at element e: the one from which the poison of its source came (R277). -/
def originOf (x : ConvoyScan) (u : VUse) (e : Nat) : Nat :=
  let from' := fun (src : Option Reg) (bad : List Nat) =>
    if bad.contains e then [((x.origins.find? fun o => o.1 == (src, e)).map (·.2)).getD e] else []
  (lowest (u.regReads.flatMap (fun r => from' (some r) x.run.h.anchor.vregs[r].poison) ++
    (if u.vfCount = 0 then [] else from' none ((x.run.vf.map VSource.poison).getD [])))).getD e

/-- The scan behind a member u: its result's poison comes from the elements that it met. -/
def ConvoyScan.step (x : ConvoyScan) (u : VUse) (run : ConvoyRun) (bad : List (Nat × Nat)) (meets : List (Nat × Nat × Word)) : ConvoyScan :=
  let dst : Option Reg := match u.dst with
    | some (.reg r) => some r
    | _ => none
  ⟨run, x.befores ++ [x.run.h], x.meets ++ meets,
    bad.map (fun b => ((dst, b.1), originOf x u b.2)) ++ x.origins.filter fun o => o.1.1 != dst⟩

/-- The members one after another, on a copy of the hart, none stopped: a member that meets poison is noted and performed on what
the sources hold. A failing issue check ends it (R155). -/
def scanMembers (vs : Nat) : ConvoyScan → List VEntry → Except (BitVec 8 × Word) ConvoyScan
  | x, [] => .ok x
  | x, e :: es =>
    match memberOf e with
    | none => .error (0x01, e.addr)
    | some (u, f) =>
      let h := x.run.h
      let c := e.ctx vs none x.run.vf 0
      match f c h with
      | .done h' vf fl sat part cyc =>
        scanMembers vs (x.step u (x.run.add e h' vf fl sat part cyc) (if u.forwards then taintOf f c h else []) []) es
      | .trap code => .error (code, e.addr)
      | .limit _ => .error (0x01, e.addr)
      | .data elem k =>
        let c' := { c with
          popped := c.popped.map fun p => (p.1, { p.2 with poison := [] })
          vf := c.vf.map fun v => { v with poison := [] } }
        match f c' (cleanSources h u) with
        | .done h' vf fl sat part cyc =>
          let bad := taintOf f c h
          let vf' := vf.map fun v => { v with poison := bad.map (·.1) }
          scanMembers vs (x.step u (x.run.add e (taint h h' u (bad.map (·.1))) vf' fl sat part cyc) bad
            [(originOf x u elem, k, e.addr)]) es
        | .trap code => .error (code, e.addr)
        | _ => .error (0x01, e.addr)

/-! #### A stopped run -/

/-- A member reads what earlier members of its convoy write as if nothing stopped them: a block, a group or another element at or
above the stop needs it (R86, R88, R101). written: what the earlier members write. -/
def chainFrom (before h : Hart) (u : VUse) (written : List VUse) : Hart :=
  let rs := (written.flatMap VUse.regWrites).filter fun r => u.regReads.contains r && !u.regWrites.contains r
  let ms := (written.flatMap VUse.mwrites).filter fun m => u.maskReads.contains m && !u.mwrites.contains m
  let h := rs.foldl (fun h r => setVreg h r before.anchor.vregs[r]) h
  { h with anchor := { h.anchor with th := { h.anchor.th with
      masks := ms.foldl (fun (v : Vector Nat 12) (m : MaskReg) => v.set m before.anchor.th.masks[m]) h.anchor.th.masks } } }

/-- Every member performed up to element k (R155); none when one of them cannot stop there. -/
def runStopped (vs k : Nat) : ConvoyRun → List VUse → List (VEntry × Hart) → Option ConvoyRun
  | r, _, [] => some r
  | r, written, (e, before) :: es =>
    match memberOf e with
    | none => none
    | some (u, f) =>
      match f (e.ctx vs (some k) r.vf r.drawn) (chainFrom before r.h u written) with
      | .done h' vf fl sat part cyc =>
        runStopped vs k (r.add e (chainFrom r.h h' u written) vf fl sat part cyc) (written ++ [u]) es
      | _ => none

def isButterfly : Instr → Bool
  | .vbfly _ _ _ _ => true
  | _ => false

def isForward : Instr → Bool
  | .vbflyF _ _ _ => true
  | _ => false

def isQuant : Instr → Bool
  | .vqcvt _ _ _ _ _ _ => true
  | _ => false

/-- The value registers and masks that a resumed `VQCVT` reads or writes from element 0 on (R86, R201): its sources, its mask, its
scale register, and the sources of a `VBFLY.f` that feeds it. -/
def quantHolds (i : Instr) : List Reg × List MaskReg :=
  let u := (useOf i).getD {}
  match i with
  | .vqcvt _ _ _ _ s3 _ => (s3 :: u.regReads, u.maskReads)
  | .vbflyF _ _ _ => (u.regReads, [])
  | _ => ([], [])

/-- Whether a member behind a `VQCVT`, or behind a `VBFLY.f` that feeds one, writes what a resumed `VQCVT` finds again: the convoy is
then not stopped inside (R86, R101; log 65). -/
def quantOverwritten : List VEntry → Bool
  | [] => false
  | e :: es =>
    (es.any fun x => (((useOf x.instr).map VUse.regWrites).getD []).any (quantHolds e.instr).1.contains ||
      (((useOf x.instr).map VUse.mwrites).getD []).any (quantHolds e.instr).2.contains) || quantOverwritten es

/-- Whether a convoy stops at a multiple of 64 only: it holds a `VBFLY` (R194); or a `VBFLY.f` without a `VQCVT`, which the table of R194
does not place: on resumption its groups are recomputed whole (log 65). -/
def groupStop (es : List VEntry) : Bool :=
  es.any (isButterfly ·.instr) || (es.any (isForward ·.instr) && !es.any (isQuant ·.instr))

/-- Whether a convoy is not stopped inside at all, because a resumption would not find what its `VQCVT` reads. -/
def stopsOnlyBefore (es : List VEntry) : Bool := es.any (isQuant ·.instr) && quantOverwritten es

/-- The registers that members read before any member writes them. -/
def readsFirst : List Reg → List VEntry → List Reg
  | _, [] => []
  | written, e :: es =>
    match useOf e.instr with
    | none => readsFirst written es
    | some u => u.regReads.filter (fun r => !written.contains r) ++ readsFirst (written ++ u.regWrites) es

/-- Whether a stopped run has given a register that the convoy must read again another tag: then it stops only at 0, as one
instruction does whose destination is a source of another tag (R194; log 65). -/
def retyped (before after : Hart) (es : List VEntry) : Bool :=
  (readsFirst [] es).any fun r =>
    before.anchor.vregs[r].ty.isSome && after.anchor.vregs[r].ty != before.anchor.vregs[r].ty

def isTag : Instr → Bool
  | .vtag _ _ _ => true
  | _ => false

/-- Whether a resumption would spoil what a stopped convoy has written below k: a register that a later member writes, too, is given a tag other
than the one it ends with, or is made new by a `VTAG`; or one that an earlier member reads is made new. befores are the harts before the members,
final the hart behind them. Such a convoy is not stopped inside, for the bits must be those of an uninterrupted run (R25, R86; log 65). -/
def spoilsResumption (befores : List Hart) (final : Hart) (es : List VEntry) : Bool :=
  es.zipIdx.any fun x =>
    let writes := fun (e : VEntry) => ((useOf e.instr).map VUse.regWrites).getD []
    let after := befores.getD (x.2 + 1) final
    (writes x.1).any fun r =>
      ((es.drop (x.2 + 1)).any (fun e => (writes e).contains r) &&
        (isTag x.1.instr || after.anchor.vregs[r].ty != final.anchor.vregs[r].ty)) ||
      (isTag x.1.instr && (readsFirst [] (es.take x.2)).contains r)

/-- A convoy's whole run: how it ended, and, when poison stopped it, the lowest element that met it and its member. -/
inductive ConvoyResult where
  | whole (r : ConvoyRun)
  | stopped (r : ConvoyRun) (k : Nat) (met : Option (Nat × Word))
  | nothing (met : Option (Nat × Word))
  | trap (code : BitVec 8) (iaddr : Word)

/-- The lowest element that met poison, with the member's address (R93, R168). -/
def lowestMet (meets : List (Nat × Nat × Word)) : Option (Nat × Word) :=
  meets.foldl (fun b x => match b with
    | none => some (x.1, x.2.2)
    | some y => if x.1 < y.1 then some (x.1, x.2.2) else b) none

/-- Members run whole; or, when one meets poison or a stop is asked for, all run up to the lowest element at which one must stop,
or not at all (R155). -/
def convoyRun (start : ConvoyRun) (es : List VEntry) (stop : Option Nat) : ConvoyResult :=
  let vs := start.h.anchor.th.vstart.toNat
  match scanMembers vs ⟨start, [], [], []⟩ es with
  | .error (code, a) => .trap code a
  | .ok x =>
    let bad := lowest (x.meets.map fun m => m.2.1)
    match lowest (stop.toList ++ bad.toList) with
    | none => .whole x.run
    | some k0 =>
      let k := max vs (if groupStop es then k0 / 64 * 64 else k0)
      let met := if bad == some k0 then lowestMet x.meets else none
      match (if stopsOnlyBefore es || spoilsResumption x.befores x.run.h es then none else runStopped vs k start [] (es.zip x.befores)) with
      | some r => if retyped start.h r.h es then .nothing met else .stopped r k met
      | none => .nothing met

/-- Each member pops its own rows, in the order of the convoy (R16); none when a row has not arrived. -/
def assignRows : Hart → List VEntry → Option (Hart × List VEntry)
  | h, [] => some (h, [])
  | h, e :: es =>
    let need := (((useOf e.instr).map VUse.lqs).getD []).filter fun q => !e.popped.any (fun p => p.1 == q)
    if need.any fun q => h.lq[q].isEmpty then none
    else
      let rows := need.filterMap fun q => (h.lq[q].head?).map fun r => (q, r)
      let h' := { h with lq := Vector.ofFn fun q => if need.contains q then h.lq[q].tail else h.lq[q] }
      (assignRows h' es).map fun x => (x.1, { e with popped := e.popped ++ rows } :: x.2)

/-- The rows a convoy pushes to a store queue find room (R18). -/
def roomFor (h : Hart) (es : List VEntry) : Bool :=
  (List.finRange 2).all fun q =>
    let n := (es.filter fun e => (((useOf e.instr).map VUse.sqs).getD []).contains q).length
    n == 0 || decide (h.sq[q].length + n ≤ 8)

/-- Committing what a run raised: fflags and vsat (R9). -/
def commitFlags (h : Hart) (r : ConvoyRun) : Hart :=
  { h with anchor := { h.anchor with
      th := { h.anchor.th with fflags := orFlags h.anchor.th.fflags (r.raised.foldl (fun f x => f ||| x.2) 0) }
      vsat := orSat h.anchor.vsat r.sat } }

def setVstart (h : Hart) (k : Nat) : Hart :=
  { h with anchor := { h.anchor with th := { h.anchor.th with vstart := BitVec.ofNat 64 k } } }

def setViq (h : Hart) (q : List VEntry) : Hart := { h with anchor := { h.anchor with viq := q } }

/-- The traps that follow a commit of members es: a forest cycle (R224), then enabled exceptions (R279), those that a member committed
when a hard stop fell inside it among them (R9; log 70). -/
def afterCommit (s : State) (i : Nat) (part : Fin 8) (es : List VEntry) (r : ConvoyRun) : State :=
  match r.cycle with
  | some a => deliverTrap s i { code := 0x0B, thread := .anchor, iaddr := a }
  | none =>
    match (es.zip r.raised).find? fun x => arithTraps s.parts[part].fptrap (x.1.raised ||| x.2.2) with
    | some x => deliverTrap s i { code := 0x0C, thread := .anchor, iaddr := x.1.addr }
    | none => s

/-- A member that was stopped keeps the row elements it has computed and what it has raised: committed at a hard stop, still to be
committed at a data error (R9, R25, R285; log 70). -/
def keepPart (r : ConvoyRun) (hard : Bool) (e : VEntry) (part : List Word) (fl : Flags) : VEntry :=
  { e with
    partRow := part
    raised := e.raised ||| fl
    owed := if hard then 0 else fl
    owedSat := !hard && r.sat }

/-- Performing the members es of a hart h whose rows have been assigned; h0 is the hart as it stands when nothing of them is
performed, rest the VIQ behind them. A stop may be asked for (R386). At a data error the convoy commits no exception yet (R9, R285;
log 25). -/
def performConvoy (s : State) (i : Nat) (h0 h : Hart) (es rest : List VEntry) (stop : Option Nat) : State :=
  match convoyRun ⟨h, none, [], false, none, [], 0⟩ es stop with
  | .whole r => afterCommit (setHart s i (setViq (setVstart (commitFlags r.h r) 0) rest)) i h.part es r
  | .stopped r k met =>
    let es' := (es.zip (r.parts.zip r.raised)).map fun x => keepPart r met.isNone x.1 x.2.1 x.2.2.2
    match met with
    | some (elem, a) =>
      deliverTrap (setHart s i (setViq (setVstart r.h k) (es' ++ rest))) i
        { code := 0x08, thread := .anchor, iaddr := a, elem := elem }
    | none => setHart s i (setViq (setVstart (commitFlags r.h r) k) (es' ++ rest))
  | .nothing met =>
    match met with
    | some (elem, a) => deliverTrap (setHart s i h0) i { code := 0x08, thread := .anchor, iaddr := a, elem := elem }
    | none => s
  | .trap code a => deliverTrap (setHart s i h0) i { code := code, thread := .anchor, iaddr := a }

/-! ### Convoys as the front end builds them (R153, R154) -/

/-- The entries of the convoy that is still open. -/
def openEntries (a : AnchorState) : List VEntry := a.viq.drop (a.viq.length - a.openLen.getD 0)

/-- Whether some unit is asked for more often than a track has it (R154). -/
def unitsExceed (es : List VEntry) : Bool :=
  let us := es.flatMap fun e => ((useOf e.instr).map VUse.units).getD []
  us.any fun u => u != .none && decide (u.count < (us.filter (· == u)).length)

/-- The first member at which a convoy is in structural conflict: a ninth, or one that asks for a unit too many (R153, R154). -/
def structFault (es : List VEntry) : Option VEntry :=
  ((List.range es.length).find? fun n => decide (8 ≤ n) || unitsExceed (es.take (n + 1))).bind fun n => es[n]?

/-- The last word of the open convoy. -/
def lastOpen (a : AnchorState) : Option VEntry := if a.overlong.isSome then a.overlong else (openEntries a).getLast?

def lastForwards (a : AnchorState) : Bool :=
  match lastOpen a with
  | some e => ((useOf e.instr).map VUse.forwards).getD false
  | none => false

def lastEnds (a : AnchorState) : Bool :=
  match lastOpen a with
  | some e => ((useOf e.instr).map VUse.endsConvoy).getD false
  | none => false

/-- Withdrawing the open convoy for a failing word (R154, R167). -/
def refuseAt (s : State) (i : Nat) (h : Hart) (code : BitVec 8) (iaddr : Word) : State :=
  let a := abandonOpen h.anchor
  if a.viq.isEmpty then deliverTrap (setAnchor s i h a) i { code := code, thread := .anchor, iaddr := iaddr }
  else setAnchor s i h { a with withdrawn := some ⟨code, a.th.pc, iaddr⟩ }

/-- The loop whose body a front end runs: one whose words the Anchor PC names, the place behind the last one included. A handler
that a trap in the body has entered is no part of it (R278). -/
def inLoop (a : AnchorState) : Option LoopState :=
  a.loop.filter fun l => decide (l.base.toNat ≤ a.th.pc.toNat) && decide (a.th.pc.toNat ≤ l.base.toNat + 8 * l.words.length)

/-- The open convoy is complete when an instruction without C follows: the last word must not be a `VBFLY.f` (R153), the
units must suffice (R154). The outcome is the closed hart, or the state that refuses the convoy. -/
def closeConvoy (s : State) (i : Nat) (h : Hart) : Except State Hart :=
  if lastForwards h.anchor && (inLoop h.anchor).isNone then
    .error (refuseAt s i h 0x01 ((lastOpen h.anchor).map (·.addr) |>.getD 0))
  else
    match structFault (openEntries h.anchor) with
    | some e => .error (refuseAt s i h 0x03 e.addr)
    | none => .ok { h with anchor := { h.anchor with openLen := none } }

/-- Whether a joining instruction breaks R153: nothing to join, a predecessor that writes a scalar or vl, a `VBFLY.f` whose
successor does not name vf exactly once, or vf without one. Loop bodies have been checked at their `VLOOP` (R34). -/
def joinFault (a : AnchorState) (u : VUse) : Bool :=
  a.openLen.isNone || lastEnds a || (lastForwards a && u.vfCount != 1) || (!lastForwards a && u.vfCount != 0)

/-- The word that breaks R153: a `VBFLY.f` whose successor does not name vf exactly once is at fault itself. -/
def joinBlame (h : Hart) (u : VUse) : Word :=
  match lastOpen h.anchor with
  | some e => if lastForwards h.anchor && u.vfCount != 1 then e.addr else h.anchor.th.pc
  | none => h.anchor.th.pc

/-! ### Entering the VIQ (R23) -/

/-- A scalar as captured. -/
def capScal (h : Hart) (r : Option Reg) : Word := (r.map (h.reg .anchor)).getD 0

/-- The entry an instruction makes: everything it captures (R23, R30, R68). -/
def capture (h : Hart) (i : Instr) (u : VUse) (ones : Option (Fin 12)) : VEntry where
  instr := i
  word := (encode i).getD 0
  addr := h.anchor.th.pc
  vl := h.anchor.th.vl.toNat
  rl := h.anchor.th.rl.toNat
  grant := h.anchor.th.grant
  scal1 := capScal h u.scal1
  scal2 := capScal h u.scal2
  scal3 := capScal h u.scal3
  frm := h.anchor.th.frm
  topoctl := h.anchor.topoctl
  rngkey := h.anchor.rngkey
  popped := []
  stageOnes := ones
  joins := u.pred.joined && u.vform
  partRow := []
  file := h.anchor.th.regs
  started := false
  lost := h.anchor.th.lost
  raised := 0
  owed := 0
  owedSat := false

/-- The stage a selector names in a `VLOOP.s` body (R37): the stage and its mask. -/
def stageOf (a : AnchorState) (sel : MaskSel) : Option (Nat × Fin 12) :=
  match inLoop a, sel with
  | some l, some m => if l.modulo && decide (8 ≤ m.val) && decide (m.val < 8 + l.stages) then some (m.val - 8, m) else none
  | _, _ => none

/-- Whether a stage holds an iteration in the running pass (R36). -/
def stageHolds (l : LoopState) (stage : Nat) : Bool := decide (stage ≤ l.pass) && decide (l.pass - stage < l.trips)

/-- Whether a predicate names a stage that holds no iteration in this pass: the instruction does not execute at all (R37). -/
def skipsStage (a : AnchorState) (u : VUse) : Bool :=
  match inLoop a, stageOf a u.pred.sel with
  | some l, some (k, _) => !stageHolds l k
  | _, _ => false

/-- What the matrix queue still has to do with a value register (R265). -/
def matrixHolds (a : AnchorState) (u : VUse) : Bool :=
  a.mqueue.any fun e =>
    match e.op with
    | .stage _ v _ => u.regWrites.contains v || u.regWrites.contains (v + 1)
    | .toV v _ => u.regWrites.contains v || u.regReads.contains v
    | _ => false

/-- Whether an entry of the VIQ runs instruction blocks (R29). -/
def runsBlocks : Instr → Bool
  | .vfetch _ _ => true
  | _ => false

/-- Whether a scalar writer outside a convoy must wait (R26): an entry that writes a source or mask of it, or pops a queue
it pops, has not committed; or, for a scan, one that reads or writes its destination register or pushes to its queue. A
`VFETCH` may do any of this. -/
def sourcesPending (a : AnchorState) (u : VUse) : Bool :=
  matrixHolds a u || a.viq.any fun e =>
    match useOf e.instr with
    | none => false
    | some w =>
      runsBlocks e.instr ||
      u.regReads.any (w.regWrites.contains ·) || u.maskReads.any (w.mwrites.contains ·) || u.lqs.any (w.lqs.contains ·) ||
      u.regWrites.any (fun r => w.regWrites.contains r || w.regReads.contains r) || u.sqs.any (w.sqs.contains ·)

/-- A scalar writer outside a convoy takes effect in the front end once its sources have committed (R26). With entries
before it the head uses vstart, so it starts at 0 (R61); a trap waits for the VIQ. -/
def loneScalar (s : State) (i : Nat) (h : Hart) (ins : Instr) (u : VUse) : Out :=
  if sourcesPending h.anchor u then .next s
  else
    let e := capture h ins u none
    match assignRows h [e] with
    | none => .next s
    | some (h1, es) =>
      if !roomFor h1 es then .next s else
      let vs := h.anchor.th.vstart.toNat
      let h0 := if h.anchor.viq.isEmpty then h1 else setVstart h1 0
      match convoyRun ⟨h0, none, [], false, none, [], 0⟩ es none with
      | .whole r =>
        let keep := if h.anchor.viq.isEmpty then 0 else vs
        let h' := (setVstart (commitFlags r.h r) keep).advance .anchor
        .next (afterCommit (setHart s i h') i h.part es r)
      | .trap code a => if h.anchor.viq.isEmpty then .next (deliverTrap s i { code := code, thread := .anchor, iaddr := a }) else .next s
      | .nothing (some (elem, a)) | .stopped _ _ (some (elem, a)) =>
        if h.anchor.viq.isEmpty then .next (deliverTrap s i { code := 0x08, thread := .anchor, iaddr := a, elem := elem }) else .next s
      | _ => .next s

/-- Whether an instruction of the VIQ is one that R44 forbids after `VREL`. -/
def afterVrel (i : Instr) (u : VUse) : Bool :=
  u.vform || match i with
    | .mtov _ _ _ => true
    | .vfetch _ _ => true
    | _ => false

/-- An entry at the tail of the queue, and the front end goes on. -/
def pushEntry (s : State) (i : Nat) (h : Hart) (e : VEntry) (len : Option Nat) : Out :=
  .next (setHart s i (({ h with anchor := { h.anchor with viq := h.anchor.viq ++ [e], openLen := len } } : Hart).advance .anchor))

/-- A skipped instruction: the front end only goes on; a V-form one leaves a convoy that the next may join (R37, R153). -/
def skipInstr (h : Hart) (u : VUse) : Hart :=
  ({ h with anchor := { h.anchor with openLen := if u.vform then some (h.anchor.openLen.getD 0) else none } } : Hart).advance .anchor

/-- Whether an entry of the VIQ still has to set `vl` (R26, R213). -/
def vlPending (a : AnchorState) : Bool := a.viq.any fun e => ((useOf e.instr).map VUse.setsVl).getD false

/-- Whether an entry of the VIQ has still to pop or push a baton queue. -/
def batonPending (a : AnchorState) : Bool := a.viq.any fun e =>
  match useOf e.instr with
  | some u => !u.sqs.isEmpty || u.lqs.any fun q => !e.popped.any fun p => p.1 == q
  | none => false

/-- Whether the front end itself pops or pushes a baton queue for an instruction. -/
def batonInstr : Instr → Bool
  | .qpush _ _ | .qpop _ _ => true
  | i => match useOf i with
    | some u => u.out.isSome && !u.pred.joined && !(u.lqs.isEmpty && u.sqs.isEmpty)
    | none => false

/-- A V-form instruction, a matrix instruction or a `VFETCH` reaches the Anchor's front end (R23, R37, R153). The ninth member of a
convoy is the last that enters; of those behind it the last is kept, and the convoy is refused when it is complete (R154, R168). A joining
instruction before which the convoy has no member, for the members were skipped or the hart was stopped behind them, is its first (R37, R155). -/
def enterQueue (s : State) (i : Nat) (h : Hart) (ins : Instr) (u : VUse) : Out :=
  let joined := u.pred.joined && u.vform
  let alone := (inLoop h.anchor).isNone
  if joined && alone && joinFault h.anchor u then .next (refuseAt s i h 0x01 (joinBlame h u))
  else
    match (if joined then .ok h else closeConvoy s i h : Except State Hart) with
    | .error s' => .next s'
    | .ok h =>
      if skipsStage h.anchor u then .next (setHart s i (skipInstr h u))
      else if !joined && alone && decide (u.vfCount ≠ 0) then .next (refuseWord (setHart s i h) i h .anchor 0x01)
      else if h.anchor.th.vrel && afterVrel ins u then trapHere (setHart s i h) i h .anchor 0x01
      else if joined && h.anchor.openLen == some 9 then
        .next (setHart s i (({ h with anchor := { h.anchor with overlong := some (capture h ins u none) } } : Hart).advance .anchor))
      else if u.out.isSome && !joined then loneScalar (setHart s i h) i h ins u
      else if decide (64 ≤ h.anchor.viq.length) || vlPending h.anchor then
        .next (setHart s i h)
      else
        let ones := match stageOf h.anchor u.pred.sel with
          | some (_, m) =>
            if h.anchor.th.masks[m] = maskOnes (maskBits h.cls) &&
                !h.anchor.viq.any (fun e => (((useOf e.instr).map VUse.mwrites).getD []).contains m) then some m else none
          | none => none
        let e := capture h ins u ones
        let n := h.anchor.openLen.getD 0
        let len := if u.vform then some (if joined then n + 1 else 1) else none
        let e := if n = 0 then { e with joins := false } else e
        pushEntry s i h e len

/-! ### `SETC` in the VIQ (R68, R177) -/

/-- A `SETC` of `frm`, `topoctl` or `rngkey`: its entry, with what is in force before it, and the front end goes on with the new
value. Like every entry it waits for one that sets `vl` (R213). -/
def enterSetc (s : State) (i : Nat) (h h' : Hart) (ins : Instr) (v : Word) : Out :=
  if decide (64 ≤ h.anchor.viq.length) || vlPending h.anchor then .next s
  else
    let e := { capture h ins {} none with scal1 := v }
    pushEntry s i { h' with anchor := { h'.anchor with openLen := none } } e none

def isSetc : Instr → Bool
  | .setc _ _ => true
  | _ => false

/-! ### Matrix instructions at commit (R256 to R264) -/

/-- Whether so many bytes at a near address lie in the slice of a core (R103, R128). -/
def inSlice (core : Nat) (a : Word) (n : Nat) : Bool :=
  let base := 0xF000000000000 + core * 2 ^ 24
  decide (base ≤ a.toNat) && decide (a.toNat + n ≤ base + 2 ^ 24)

/-- An area check (R128, R262): alignment, then the slice. -/
def areaFault (core : Nat) (a : Word) (align n : Nat) : Option (BitVec 8 × Word) :=
  if a.toNat % align ≠ 0 then some (0x09, a) else if inSlice core a n then none else some (0x07, a)

/-- What a matrix instruction does at commit: it traps, waits, takes effect there, or passes an entry to the matrix queue. -/
inductive MCommit where
  | trap (code : BitVec 8) (faddr : Word)
  | wait
  | claim
  | settl
  | queue (op : MOp)

/-- Staging limits (R258, R259): tag, then QN4's own, then the area. -/
def stageCheck (h : Hart) (e : VEntry) (isA : Bool) (v : Reg) (p : Nat) : MCommit :=
  let kc := (e.vl + 63) / 64
  match h.anchor.vregs[v].ty with
  | none => .trap 0x02 0
  | some t =>
    match t with
    | .i8 | .i16 | .i32 | .n8 | .n16 | .n32 | .f16 | .bf16 | .f32 | .qn4 =>
      if t == .qn4 && (decide (p < 12) || decide (kc % 64 ≠ 0) || v == 31) then .trap 0x01 0
      else if t == .qn4 && h.anchor.vregs[(v + 1 : Reg)].ty != some .n8 then .trap 0x02 0
      else
        match areaFault h.core e.scal1 256 ((kc + 63) / 64 * (512 * p + 256)) with
        | some f => .trap f.1 f.2
        | none => .queue (.stage isA v p)
    | _ => .trap 0x02 0

/-- The bytes of the K-group that lies at a location once the matrix queue has run (R128): what the youngest queued staging makes
there, what has been staged, or one plane where no staging wrote (log 18). -/
def groupBytesAt (s : State) (a : AnchorState) (loc : Nat) : Nat :=
  let queued := a.mqueue.reverse.findSome? fun e =>
    match e.op with
    | .stage _ _ p =>
      let n := 512 * p + 256
      let base := nearOf e.scal1
      if base ≤ loc && decide (loc < base + ((e.vl + 63) / 64 + 63) / 64 * n) && (loc - base) % n == 0 then some n else none
    | _ => none
  match queued with
  | some n => n
  | none => ((s.staged.find? fun g => g.loc == loc).map (·.bytes)).getD 768

/-- The bytes of so many groups from a location: the area that `MMA` reads. -/
def mmaArea (s : State) (a : AnchorState) : Nat → Nat → Nat
  | 0, _ => 0
  | k + 1, loc =>
    let n := groupBytesAt s a loc
    n + mmaArea s a k (loc + n)

/-- The checks that `MMA` makes at commit on one area it reads (R128). -/
def mmaFault (s : State) (h : Hart) (c : Word) : Option (BitVec 8 × Word) :=
  areaFault h.core c 256 (mmaArea s h.anchor (h.anchor.shape.k / 64) (nearOf c))

/-- Whether a hart holds a claim as its program stands at the head of the VIQ: an `MREL` that a deferred error has discarded counts (R266). -/
def claimHere (a : AnchorState) : Bool :=
  match a.deferredErr with
  | some d => a.claim && !d.released
  | none => a.claim

/-- What a matrix instruction meets at commit (R128, R256 to R264). Of an `MMA` whose areas both fail the fault of c1 is reported, which the spec
leaves open (log 76). -/
def matrixCheck (s : State) (h : Hart) (e : VEntry) : MCommit :=
  let claimed := fun (m : MCommit) => if claimHere h.anchor then m else .trap 0x01 0
  match e.instr with
  | .mclaim => if claimHere h.anchor then .trap 0x01 0 else .claim
  | .settl _ _ _ => claimed .settl
  | .mrel => claimed (.queue .rel)
  | .mzero t => claimed (.queue (.zero t))
  | .mstageA _ v p => claimed (stageCheck h e true v p)
  | .mstageB _ v p => claimed (stageCheck h e false v p)
  | .mma t _ _ => claimed <|
    match mmaFault s h e.scal1, mmaFault s h e.scal2 with
    | some f, _ => .trap f.1 f.2
    | none, some f => .trap f.1 f.2
    | none, none => .queue (.mma t)
  | .mldt t _ tt => claimed <|
    match areaFault h.core e.scal1 64 16384 with
    | some f => .trap f.1 f.2
    | none => .queue (.load t tt)
  | .mstt t _ => claimed <|
    match areaFault h.core e.scal1 64 16384 with
    | some f => .trap f.1 f.2
    | none => .queue (.store t)
  | .mtov v t _ => claimed <| if capacity h.cls .f32 < 64 * e.rl then .trap 0x01 0 else .queue (.toV v t)
  | _ => .trap 0x01 0

/-- Whether a core has a free context (R256). -/
def contextFree (s : State) (core : Nat) : Bool := decide ((s.contexts.filter fun c => c.1 == core).length < 2)

/-- Whether a hart is the first of its core that waits for a context. -/
def firstWaiting (s : State) (core i : Nat) : Bool := ((s.claimWait.find? fun c => c.1 == core).map (·.2)) == some i

/-- Whether the hart's own `MREL` is still queued: the tiles are then those of the context it gives back, and its performing
discards them. -/
def relQueued (a : AnchorState) : Bool := a.mqueue.any fun e => e.op == .rel

/-- `MCLAIM` is granted: a context with every tile empty, `mshape` 0 (R256). -/
def grantClaim (s : State) (i : Nat) (h : Hart) (rest : List VEntry) : State :=
  setAnchor { s with
      contexts := s.contexts ++ [(h.core, i)]
      claimWait := s.claimWait.filter fun c => c.2 != i } i h
    { h.anchor with
      claim := true
      shape := .zero
      tiles := if relQueued h.anchor then h.anchor.tiles else Vector.replicate 8 TileData.cleared
      viq := rest }

/-- An `MCLAIM` at the head: it takes its place in the order of its core, and a free context when it is first. -/
def claimStep (s : State) (i : Nat) (h : Hart) (rest : List VEntry) : State :=
  let s := if s.claimWait.any (fun c => c.2 == i) then s else { s with claimWait := s.claimWait ++ [(h.core, i)] }
  if firstWaiting s h.core i && contextFree s h.core then grantClaim s i h rest else s

/-- `SETTL` (R257). -/
def settlStep (h : Hart) (e : VEntry) (rest : List VEntry) : Hart :=
  let m := min e.scal1.toNat 64
  let n := min e.scal2.toNat 64
  let kc := min e.scal3.toNat 4096
  match e.instr with
  | .settl c1 c2 c3 =>
    let h := ((h.setReg .anchor c1 (BitVec.ofNat 64 m)).setReg .anchor c2 (BitVec.ofNat 64 n)).setReg .anchor c3 (BitVec.ofNat 64 kc)
    { h with anchor := { h.anchor with shape := ⟨m, n, (kc + 63) / 64 * 64⟩, viq := rest } }
  | _ => h

/-- One more matrix instruction that a deferred error discards (R266). -/
def discardMatrix (s : State) (i : Nat) (h : Hart) (d : DeferredError) (e : VEntry) (rest : List VEntry) : State :=
  let released := match e.instr with
    | .mrel => true
    | .mclaim => false
    | _ => d.released
  setAnchor s i h { h.anchor with viq := rest, deferredErr := some { d with discarded := d.discarded + 1, released := released } }

/-- The head of the VIQ is a matrix instruction and commits (R27). After a deferred error it is discarded (R266). -/
def matrixCommit (s : State) (i : Nat) (h : Hart) (e : VEntry) (rest : List VEntry) : State :=
  match matrixCheck s h e with
  | .trap code fa => deliverTrap s i { code := code, thread := .anchor, iaddr := e.addr, faddr := fa }
  | .wait => s
  | .claim =>
    match h.anchor.deferredErr with
    | some d => discardMatrix s i h d e rest
    | none => claimStep s i h rest
  | .settl =>
    match h.anchor.deferredErr with
    | some d => discardMatrix s i h d e rest
    | none => setHart s i (settlStep h e rest)
  | .queue op =>
    match h.anchor.deferredErr with
    | some d => discardMatrix s i h d e rest
    | none =>
      if 32 ≤ h.anchor.mqueue.length then s
      else
        let a := h.anchor
        let m : MEntry := ⟨op, e.addr, e.vl, e.rl, e.scal1, e.scal2, e.scal2, a.shape⟩
        let a := { a with viq := rest, mqueue := a.mqueue ++ [m] }
        setAnchor s i h (match op with
          | .rel => { a with claim := false, shape := .zero }
          | _ => a)

/-! ### VFETCH (R29 to R32, R185, R186) -/

/-- The lowest nonzero block (R31, R65). -/
def nextBlock (xpc : List Word) : Option Word :=
  xpc.foldl (fun b x => if x = 0 then b else match b with
    | none => some x
    | some y => some (if x.toNat < y.toNat then x else y)) none

/-- The target of a B-form word (R158): off39 words from its own address. -/
def branchTarget (pc : Word) (off : BitVec 39) : Word := pc + (off.signExtend 64) * 8

/-- A `VFETCH` at the head that has not begun: `xpc` (R29, R185). It commits when no element is active. One that starts inside its
elements starts those from `vstart` on: R61 does not name it among the instructions it refuses there, and its passes leave `vstart`
at 0 (R32; log 66). -/
def fetchStart (s : State) (i : Nat) (h : Hart) (e : VEntry) (sel : MaskSel) (off : BitVec 39) (rest : List VEntry) : State :=
  if mvlOf h.cls < e.vl then deliverTrap s i { code := 0x01, thread := .anchor, iaddr := e.addr }
  else
    let vs := h.anchor.th.vstart.toNat
    if e.vl ≤ vs then setHart s i (setViq (setVstart h 0) rest)
    else
      let c := e.ctx vs none none 0
      let xpc := (List.range (mvlOf h.cls)).map fun k => if active c h sel k then branchTarget e.addr off else 0
      let h := { h with anchor := { h.anchor with xpc := xpc } }
      match nextBlock xpc with
      | none => setHart s i (setViq (setVstart h 0) rest)
      | some _ => setHart s i (setViq (setVstart h 0) ({ e with started := true } :: rest))

/-- Whether a block may hold an instruction (R30): element-wise arithmetic, compares, select, `VCVT`, mask instructions,
`VSPLAT`, `TFETCH`, `TSTOP`, and no queue and no vf. `VDQ`, which R30 names neither way, is refused (log 67). -/
def blockAllows (i : Instr) : Bool :=
  match i with
  | .tfetch _ _ | .tstop _ => true
  | .vtag _ _ _ | .vretag _ _ _ | .vrand _ _ => false
  | .vcvt _ _ _ _ | .vcvtS _ _ _ _ | .vsplat _ _ _ => plain
  | _ => plain && (match useOf i with
    | some u => u.vform && (u.unit == .alu || u.unit == .sfu || u.unit == .msk)
    | none => false)
where
  plain : Bool :=
    match useOf i with
    | some u => u.lqs.isEmpty && u.sqs.isEmpty && u.vfCount == 0
    | none => false

/-- The instruction that ends a block: its first unmasked `TFETCH` or `TSTOP` (R186). -/
def endsBlock : Instr → Bool
  | .tfetch none _ => true
  | .tstop none => true
  | _ => false

/-- Convoys inside a block (R153, R154): what its words may not ask for. The code of the first failing word. -/
def blockConvoys : List VUse → List (Word × Instr) → Option (BitVec 8 × Word)
  | _, [] => none
  | conv, (a, i) :: rest =>
    match useOf i with
    | none => blockConvoys [] rest
    | some u =>
      if u.pred.joined then
        if conv.isEmpty then some (0x01, a)
        else if 8 ≤ conv.length then some (0x03, a)
        else
          let us := (conv ++ [u]).flatMap VUse.units
          if us.any fun k => k != .none && decide (k.count < (us.filter (· == k)).length) then some (0x03, a)
          else blockConvoys (conv ++ [u]) rest
      else blockConvoys [u] rest

/-- The words of a block from an address; fuel is 32 (R30). It ends in the words, a trap, or why a word cannot be fetched. -/
def blockWords (h : Hart) : Nat → State → Word → Except (Stop × Word) (State × Except (BitVec 8 × Word) (List (Word × Instr)))
  | 0, s, pc => .ok (s, .error (0x01, pc - 8))
  | n + 1, s, pc =>
    match fetchWord s h pc with
    | .error e => .error (e, pc)
    | .ok (s, w, bad) =>
      if bad then .ok (s, .error (0x08, pc))
      else
        match decodeAnchorWord w with
        | .error _ => .ok (s, .error (0x01, pc))
        | .ok i =>
          if !blockAllows i then .ok (s, .error (0x01, pc))
          else if endsBlock i then .ok (s, .ok [(pc, i)])
          else
            match blockWords h n s (pc + 8) with
            | .error e => .error e
            | .ok (s, .error e) => .ok (s, .error e)
            | .ok (s, .ok is) => .ok (s, .ok ((pc, i) :: is))

/-- How a pass stands: the hart, the direction of each element of G, what was raised. -/
structure PassState where
  h : Hart
  dirs : List (Option Word)
  raised : Flags
  sat : Bool

/-- Directing the undirected elements of G (R186). -/
def direct (e : VEntry) (g : Nat) (p : PassState) (sel : MaskSel) (target : Word) : PassState :=
  { p with dirs := (List.range p.dirs.length).map fun k =>
      match p.dirs.getD k none with
      | some d => some d
      | none =>
        let bit := match sel with
          | none => true
          | some m => p.h.anchor.th.masks[m].testBit k
        if g.testBit k && bit && decide (k < e.vl) then some target else none }

/-- The instructions of a block on the elements of G (R30, R31). One that reads a captured register which an error had struck takes 0x08
(R402). -/
def runBlock (e : VEntry) (g : Nat) : PassState → List (Word × Instr) → Except (BitVec 8 × Word × Nat) PassState
  | p, [] => .ok p
  | p, (a, i) :: rest =>
    match i with
    | .tfetch sel off => runBlock e g (direct e g p sel (branchTarget a off)) rest
    | .tstop sel => runBlock e g (direct e g p sel 0) rest
    | _ =>
      match useOf i, effectOf i with
      | some u, some f =>
        let scal := fun (r : Option Reg) => (r.map (regGet e.file)).getD 0
        let c : VCtx := { e.ctx 0 none none 0 with
          scal1 := scal u.scal1, scal2 := scal u.scal2, scal3 := scal u.scal3, group := some g }
        if (u.scal1.toList ++ u.scal2.toList ++ u.scal3.toList).any e.lost.contains then .error (0x08, a, 0) else
        match f c p.h with
        | .done h _ fl sat _ _ => runBlock e g { p with h := h, raised := p.raised ||| fl, sat := p.sat || sat } rest
        | .trap code => .error (code, a, 0)
        | .data elem _ => .error (0x08, a, elem)
        | .limit _ => .error (0x01, a, 0)
      | _, _ => .error (0x01, a, 0)

/-- The group G of a block: the elements whose `xpc` is its address (R31). -/
def passGroup (xpc : List Word) (b : Word) : Nat := (xpc.zipIdx.map fun x => if x.1 = b then 2 ^ x.2 else 0).sum

/-- `xpc` after a block: each element of G gets the target its block directed it to (R31, R186). -/
def xpcAfter (xpc : List Word) (b : Word) (dirs : List (Option Word)) : List Word :=
  xpc.zipIdx.map fun x => if x.1 = b then (dirs.getD x.2 none).getD 0 else x.1

/-- One pass of the `VFETCH` at the head (R31, R32): it commits whole or not at all. It waits for what the matrix queue has still to do
with a register of its block (R27, R265). -/
def fetchPass (s : State) (i : Nat) (h : Hart) (e : VEntry) : Out :=
  match nextBlock h.anchor.xpc with
  | none => .next s
  | some b =>
    let g := passGroup h.anchor.xpc b
    match blockWords h 32 s b with
    | .error (.trap code fa, pc) => .next (deliverTrap s i { code := code, thread := .anchor, iaddr := pc, faddr := fa })
    | .error (st, pc) => stopAccess s i h .vector 0x06 .fetch 0 pc st
    | .ok (s, .error (code, pc)) =>
      .next (deliverTrap s i { code := code, thread := .anchor, iaddr := pc, faddr := if code = 0x08 then pc else 0 })
    | .ok (s, .ok is) =>
      match blockConvoys [] is with
      | some (code, pc) => .next (deliverTrap s i { code := code, thread := .anchor, iaddr := pc })
      | none =>
        if is.any fun x => ((useOf x.2).map (matrixHolds h.anchor)).getD false then .next s else
        match runBlock e g ⟨h, List.replicate (mvlOf h.cls) none, 0, false⟩ is with
        | .error (code, pc, elem) => .next (deliverTrap s i { code := code, thread := .anchor, iaddr := pc, elem := elem })
        | .ok p =>
          let a := p.h.anchor
          let h' := { p.h with anchor := { a with
            xpc := xpcAfter h.anchor.xpc b p.dirs
            th := { a.th with fflags := orFlags a.th.fflags p.raised }
            vsat := orSat a.vsat p.sat } }
          .next (arithCheck (setHart s i h') i h.part .anchor p.raised e.addr)

/-! ### Commit (R23, R155, R266) -/

/-- The convoy at the head: the first entry and those joined to it; and what is behind. -/
def headConvoy : List VEntry → List VEntry × List VEntry
  | [] => ([], [])
  | e :: rest => (e :: rest.takeWhile (·.joins), rest.dropWhile (·.joins))

/-- The oldest entry, or its whole convoy, commits, or waits. -/
def commitHead (s : State) (i : Nat) (h : Hart) : State :=
  match headConvoy h.anchor.viq with
  | ([], _) => s
  | (e :: es, rest) =>
    if !headClosed h.anchor then s
    else
      match e.instr with
      | .vfetch sel off =>
        if !e.started then fetchStart s i h e sel off rest
        else if (nextBlock h.anchor.xpc).isNone then setHart s i (setViq (setVstart h 0) rest)
        else s
      | .setc _ _ => setHart s i (setViq h rest)
      | _ =>
        match useOf e.instr with
        | none => s
        | some u =>
          if (e :: es).any fun x => ((useOf x.instr).map (matrixHolds h.anchor)).getD false then s
          else if u.vform then
            match assignRows h (e :: es) with
            | none => s
            | some (h', es') => if roomFor h' es' then performConvoy s i h h' es' rest none else s
          else matrixCommit s i h e rest

/-- The deferred matrix error is taken at a commit point (R266). -/
def takeDeferred (s : State) (i : Nat) : State :=
  match s.harts[i]? with
  | none => s
  | some h =>
    match h.anchor.deferredErr with
    | none => s
    | some d =>
      deliverTrap (setAnchor s i h { h.anchor with deferredErr := none }) i
        { code := d.code, thread := .anchor, iaddr := d.addr, mq := true, disc := d.discarded }

/-- Whether a step left the VIQ of a hart shorter, and took no trap. -/
def committed (before after : State) (i : Nat) : Bool :=
  match before.harts[i]?, after.harts[i]? with
  | some h, some h' => h'.mode == h.mode && decide (h'.anchor.viq.length < h.anchor.viq.length)
  | _, _ => false

/-- A commit of hart i, and the deferred error behind it. After a hard stop nothing commits (R386). -/
def commitStep (s : State) (i : Nat) : State :=
  match s.harts[i]? with
  | none => s
  | some h =>
    if (h.mode != .running && h.mode != .saving) || h.stopHard then s
    else
      let s' := commitHead s i h
      if committed s s' i then takeDeferred s' i else s'

/-! ### An instruction of the vector unit -/

/-- Performing an instruction in the vector unit at once, with what it would capture there: a V-form instruction as a convoy
of its own, a `VFETCH` begun, a matrix instruction committed. -/
def performNow (s : State) (i : Nat) (h : Hart) (ins : Instr) (u : VUse) : Out :=
  let e := capture h ins u none
  match ins with
  | .vfetch sel off => .next (fetchStart s i h e sel off h.anchor.viq)
  | _ =>
    if u.vform then
      match assignRows h [e] with
      | none => .next s
      | some (h', es) =>
        if roomFor h' es then .next (performConvoy s i h h' es h.anchor.viq none) else .next s
    else .next (matrixCommit s i h e h.anchor.viq)

/-- An instruction of the vector unit: in the Anchor's front end it enters the VIQ; in the vector unit itself it is performed. -/
def vectorInstr (ins : Instr) (s : State) : Out :=
  onThread ins s fun i h _ =>
    match useOf ins with
    | none => .next s
    | some u =>
      match s.cur.unit with
      | .vector => performNow s i h ins u
      | _ => enterQueue s i h ins u

end Sys2Proof.Machine
end

