-- ==== Sys2Proof/Machine/Scalar.lean ====
section
/-! DEFINITION. Scalar integer, scalar float, control registers, grants and scalar queues: what the front end of a thread does
(R47, R59 to R68, R169 to R177, R183, R188, R246). -/
namespace Sys2Proof.Machine

open Sys2Proof

/-! ### Integer results (R169, R170) -/

inductive AluOp where
  | add | sub | mul | mulh | mulhn | div | divn | rem | remn | and | or | xor | andn | shl | shr | sra | rot
  | min | max | minn | maxn | slt | sltn | seq
deriving DecidableEq, Repr

def flagWord (b : Bool) : Word := if b then 1 else 0

/-- The results of R169 with the boundary cases of R170. A shift amount is y[5:0]. -/
def alu (o : AluOp) (x y : Word) : Word :=
  let n := y.toNat % 64
  match o with
  | .add => x + y
  | .sub => x - y
  | .mul => x * y
  | .mulh => BitVec.ofInt 64 (x.toInt * y.toInt / 2 ^ 64)
  | .mulhn => BitVec.ofNat 64 (x.toNat * y.toNat / 2 ^ 64)
  | .div => if y = 0 then BitVec.allOnes 64 else BitVec.ofInt 64 (x.toInt.tdiv y.toInt)
  | .divn => if y = 0 then BitVec.allOnes 64 else x / y
  | .rem => if y = 0 then x else BitVec.ofInt 64 (x.toInt.tmod y.toInt)
  | .remn => if y = 0 then x else x % y
  | .and => x &&& y
  | .or => x ||| y
  | .xor => x ^^^ y
  | .andn => x &&& ~~~ y
  | .shl => x <<< n
  | .shr => x >>> n
  | .sra => x.sshiftRight n
  | .rot => x.rotateLeft n
  | .min => if x.toInt ≤ y.toInt then x else y
  | .max => if x.toInt ≤ y.toInt then y else x
  | .minn => if x.toNat ≤ y.toNat then x else y
  | .maxn => if x.toNat ≤ y.toNat then y else x
  | .slt => flagWord (decide (x.toInt < y.toInt))
  | .sltn => flagWord (decide (x.toNat < y.toNat))
  | .seq => flagWord (x == y)

def clz (x : Word) : Word := if x = 0 then 64 else BitVec.ofNat 64 (63 - Nat.log2 x.toNat)
def ctz (x : Word) : Word := BitVec.ofNat 64 (((List.range 64).find? fun k => x.getLsbD k).getD 64)
def popc (x : Word) : Word := BitVec.ofNat 64 ((List.range 64).filter fun k => x.getLsbD k).length

/-- A register form (R169). -/
def scalar2 (i : Instr) (o : AluOp) (d s1 s2 : Reg) (s : State) : Out :=
  onThread i s fun x h t => writeBack s x h t d (alu o (h.reg t s1) (h.reg t s2))

/-- An immediate form (R171): imm32 sign-extended, natural forms reading it as unsigned. -/
def scalarImm (i : Instr) (o : AluOp) (d s1 : Reg) (imm : BitVec 32) (s : State) : Out :=
  onThread i s fun x h t => writeBack s x h t d (alu o (h.reg t s1) (signExtend32 imm))

/-- An immediate shift (R171). -/
def scalarShift (i : Instr) (o : AluOp) (d s1 : Reg) (sh : Fin 64) (s : State) : Out :=
  onThread i s fun x h t => writeBack s x h t d (alu o (h.reg t s1) (BitVec.ofNat 64 sh.val))

/-- A form of one source (R169). -/
def scalar1 (i : Instr) (f : Word → Word) (d s1 : Reg) (s : State) : Out :=
  onThread i s fun x h t => writeBack s x h t d (f (h.reg t s1))

/-! ### Float results (R173 to R175) -/

/-- A rounded result to d, its exceptions to fflags, then the arithmetic trap if they are enabled (R9, R173, R279). -/
def floatBack (s : State) (x : Nat) (h : Hart) (t : Thread) (d : Reg) (r : Word × Flags) : Out :=
  let iaddr := (h.th t).pc
  .next (arithCheck (setHart s x (((h.setReg t d r.1).raise t r.2).advance t)) x h.part t r.2 iaddr)

/-- The slot of a float operand: the bits above it are ignored (R173). -/
def slot (f : FloatFmt) (w : Word) : Nat := w.toNat % 2 ^ FloatFmt.width f

inductive FloatOp where
  | add | sub | mul | div | sqrt | min | max
deriving DecidableEq, Repr

/-- The results of R174 that are floats of one or two operands. -/
def floatResult (o : FloatOp) (f : FloatFmt) (rm : Rounding) (x y : Nat) : Nat × Flags :=
  match o with
  | .add => fAddV f rm (fDecode f x) (fDecode f y)
  | .sub => fSubV f rm (fDecode f x) (fDecode f y)
  | .mul => fMulV f rm (fDecode f x) (fDecode f y)
  | .div => fDivV f rm (fDecode f x) (fDecode f y)
  | .sqrt => fSqrtV f rm (fDecode f x)
  | .min => fMinMaxV f false x y
  | .max => fMinMaxV f true x y

def roundingOf (h : Hart) (t : Thread) : Rounding := Rounding.ofWord (h.th t).frm

def float2 (i : Instr) (o : FloatOp) (d s1 s2 : Reg) (f : FloatFmt) (s : State) : Out :=
  onThread i s fun x h t =>
    let r := floatResult o f (roundingOf h t) (slot f (h.reg t s1)) (slot f (h.reg t s2))
    floatBack s x h t d (BitVec.ofNat 64 r.1, r.2)

/-- FFMA (R174): one rounding. -/
def float3 (i : Instr) (d s1 s2 s3 : Reg) (f : FloatFmt) (s : State) : Out :=
  onThread i s fun x h t =>
    let r := fFmaV f (roundingOf h t) (fDecode f (slot f (h.reg t s1))) (fDecode f (slot f (h.reg t s2)))
      (fDecode f (slot f (h.reg t s3)))
    floatBack s x h t d (BitVec.ofNat 64 r.1, r.2)

/-- The FCMP forms (R174): the integer 0 or 1. -/
def floatCompare (i : Instr) (c : Cond) (d s1 s2 : Reg) (f : FloatFmt) (s : State) : Out :=
  onThread i s fun x h t =>
    let r := fCond c (fDecode f (slot f (h.reg t s1))) (fDecode f (slot f (h.reg t s2)))
    floatBack s x h t d (flagWord r.1, r.2)

/-- FCVT (R80, R175): integer results are extended to 64 bits by their signedness. -/
def floatConvert (i : Instr) (d s1 : Reg) (dst src : ElemType) (s : State) : Out :=
  onThread i s fun x h t =>
    let r := eltConvert (roundingOf h t) false src dst (h.reg t s1)
    let w := if isSigned dst then BitVec.ofInt 64 (intVal dst r.bits) else trunc dst r.bits
    floatBack s x h t d (w, r.flags)

/-! ### Control registers (R59 to R68, R176, R177) -/

/-- The registers whose GETC or SETC in the Anchor waits for the whole VIQ (R26). -/
def waitsViq (num : Nat) : Bool :=
  num == 0x000 || num == 0x004 || num == 0x008 || num == 0x00A || num == 0x00B || num == 0x021 || num == 0x022 || num == 0x028

/-- Whether a control-register access waits: the Anchor for its VIQ (R26); a Pacer GETC of `vstart` or `fflags` for its
vector memory instructions (R68). -/
def ctlWaits (h : Hart) (t : Thread) (num : Nat) (reads : Bool) : Bool :=
  match t with
  | .anchor => waitsViq num && !h.anchor.viq.isEmpty
  | .pacer => reads && (num == 0x004 || num == 0x008) && (!h.pacer.loads.isEmpty || h.pacer.stores.any (onSide .vector))

/-- The cycle counter of a hart's die (R67; log 4). -/
def cycleOf (s : State) (h : Hart) : Word := BitVec.ofNat 64 (s.now + Config.cycleOffset (coreDie h.core))

/-- What a control register reads as; none for a number the thread cannot reach (R59). -/
def readCtl (s : State) (h : Hart) (t : Thread) (num : Nat) : Option Word :=
  let th := h.th t
  let pacer := fun w => if t = .pacer then some w else (none : Option Word)
  let anchor := fun w => if t = .anchor then some w else (none : Option Word)
  match num with
  | 0x000 => some th.vl
  | 0x001 => some (BitVec.ofNat 64 (mvlOf h.cls))
  | 0x002 => some th.rl
  | 0x003 => some (BitVec.ofNat 64 (rlenOf h.cls))
  | 0x004 => some th.vstart
  | 0x008 => some th.fflags
  | 0x009 => some th.frm
  | 0x00A => anchor h.anchor.vsat
  | 0x00B => anchor h.anchor.efc
  | 0x010 => pacer h.pacer.tagmap
  | 0x011 => pacer h.pacer.tagerr
  | 0x018 => anchor (vcpOf h.anchor)
  | 0x019 => pacer h.pacer.slip
  | 0x01A => pacer h.pacer.lod
  | 0x020 => anchor h.anchor.rngkey
  | 0x021 => anchor (h.anchor.rngctr.setWidth 64)
  | 0x022 => anchor ((h.anchor.rngctr >>> 64).setWidth 64)
  | 0x028 => anchor ((nextBlock h.anchor.xpc).getD 0)
  | 0x030 => some (BitVec.ofNat 64 h.hartid)
  | 0x031 => some (h.gang.setWidth 64)
  | 0x032 => some (BitVec.ofNat 64 h.gangsize)
  | 0x038 => some (BitVec.ofNat 64 (1 + Config.step.toNat * 2 ^ 16))
  | 0x039 => some (cycleOf s h)
  | 0x040 => anchor h.anchor.topoctl
  | 0x041 => some th.trapvec
  | 0x048 => anchor (BitVec.ofNat 64 h.anchor.shape.word)
  | _ => none

/-- Whether a thread's `GETC` or `SETC` may name a number (R59). -/
def ctlKnown (t : Thread) (num : Nat) : Bool :=
  [0x000, 0x001, 0x002, 0x003, 0x004, 0x008, 0x009, 0x030, 0x031, 0x032, 0x038, 0x039, 0x041].contains num ||
    (match t with
      | .pacer => [0x010, 0x011, 0x019, 0x01A]
      | .anchor => [0x00A, 0x00B, 0x018, 0x020, 0x021, 0x022, 0x028, 0x040, 0x048]).contains num

/-- Whether `SGETC` and `SSETC` may name a number (R282). -/
def superKnown (num : Nat) : Bool := [0x801, 0x802, 0x880, 0x881, 0x890, 0x891].contains num

/-- Whether the control register that a word names, if any, is one its thread reaches; a word that names another is illegal (R59, R166,
R282). -/
def namesKnown (t : Thread) : Instr → Bool
  | .getc _ n | .setc n _ => ctlKnown t n.val
  | .sgetc _ n | .ssetc n _ => superKnown n.val
  | _ => true

/-- What a SETC stores (R19, R60, R62, R66); none for an illegal value or a number the thread cannot reach. A register that
is RO in the thread keeps its value (R5). -/
def writeCtl (h : Hart) (t : Thread) (num : Nat) (w : Word) : Option Hart :=
  let th := h.th t
  let low := fun n => BitVec.ofNat 64 (w.toNat % 2 ^ n)
  let pacer := fun p => if t = .pacer then some ({ h with pacer := p } : Hart) else none
  let anchor := fun a => if t = .anchor then some ({ h with anchor := a } : Hart) else none
  let ro := fun (who : Option Thread) => if who = none || who = some t then some h else none
  match num with
  | 0x000 => some (h.setTh t { th with vl := BitVec.ofNat 64 (min w.toNat (8 * mvlOf h.cls)) })
  | 0x001 => ro none
  | 0x002 => some (h.setTh t { th with rl := BitVec.ofNat 64 (min w.toNat 64) })
  | 0x003 => ro none
  | 0x004 => some (h.setTh t { th with vstart := w })
  | 0x008 => some (h.setTh t { th with fflags := low 5 })
  | 0x009 => if w.toNat % 8 < 5 then some (h.setTh t { th with frm := low 3 }) else none
  | 0x00A => anchor { h.anchor with vsat := low 1 }
  | 0x00B => anchor { h.anchor with efc := low 32 }
  | 0x010 => ro (some .pacer)
  | 0x011 => ro (some .pacer)
  | 0x018 => ro (some .anchor)
  | 0x019 => pacer { h.pacer with slip := if w = 0 then 1 else if 8 < w.toNat then 8 else w }
  | 0x01A => pacer { h.pacer with lod := low 32 }
  | 0x020 => anchor { h.anchor with rngkey := w }
  | 0x021 => anchor { h.anchor with rngctr := (h.anchor.rngctr >>> 64 <<< 64) ||| w.setWidth 128 }
  | 0x022 => anchor { h.anchor with rngctr := (h.anchor.rngctr.setWidth 64).setWidth 128 ||| (w.setWidth 128 <<< 64) }
  | 0x028 => ro (some .anchor)
  | 0x030 => ro none
  | 0x031 => ro none
  | 0x032 => ro none
  | 0x038 => ro none
  | 0x039 => ro none
  | 0x040 => anchor { h.anchor with topoctl := low 1 }
  | 0x041 => some (h.setTh t { th with trapvec := w &&& ~~~ 6 })
  | 0x048 => ro (some .anchor)
  | _ => none

/-- The tags whose bit is set in a map. -/
def setTags (m : Word) : List (Fin 64) := (List.finRange 64).filter fun k => m.getLsbD k

/-- GETC (R176). Reading `tagmap` observes every tag it shows set (R114). -/
def getControl (i : Instr) (d : Reg) (num : Fin 4096) (s : State) : Out :=
  onThread i s fun x h t =>
    if ctlWaits h t num true then .next s
    else
      match readCtl s h t num with
      | none => .next (refuseWord s x h t 0x01)
      | some w =>
        if num.val = 0x010 then
          if dirtyFenced s h.core then .next s else
          let s := observeTags s x h.core (setTags h.pacer.tagmap)
          .next (modHart s x fun h => (h.setReg t d w).advance t)
        else writeBack s x h t d w

/-- The registers whose SETC in the Anchor enters the VIQ besides (R68, R177): `frm`, `rngkey`, `topoctl`. -/
def entersViq (num : Nat) : Bool := num == 0x009 || num == 0x020 || num == 0x040

/-- SETC (R176). An illegal value is found where the word stands (R60). -/
def setControl (i : Instr) (num : Fin 4096) (s1 : Reg) (s : State) : Out :=
  onThread i s fun x h t =>
    if !ctlKnown t num then .next (refuseWord s x h t 0x01)
    else if ctlWaits h t num false then .next s
    else
      match writeCtl h t num (h.reg t s1) with
      | none => trapHere s x h t 0x01
      | some h' =>
        match t with
        | .anchor => if entersViq num.val then enterSetc s x h h' i (h.reg .anchor s1) else goOn s x h' .anchor
        | .pacer => goOn s x h' .pacer

/-! ### Grants (R94, R183, R188) -/

/-- The grant of a count of a type takes effect in a thread. -/
def Hart.grantTo (h : Hart) (t : Thread) (ty : ElemType) (g : Nat) : Hart :=
  h.setTh t { h.th t with vl := BitVec.ofNat 64 g, grant := ty }

/-- SETVL (R188). -/
def setLength (i : Instr) (d s1 : Reg) (ty : ElemType) (s : State) : Out :=
  onThread i s fun x h t =>
    let g := grantOf h.cls ty (h.reg t s1).toNat
    writeBack s x (h.grantTo t ty g) t d (BitVec.ofNat 64 g)

/-- Whether an entry of the VIQ still has to write a mask (R180, R183); the blocks of a `VFETCH` may write any (R30). -/
def maskPending (a : AnchorState) (m : MaskReg) : Bool :=
  a.viq.any fun e => runsBlocks e.instr || (((useOf e.instr).map VUse.mwrites).getD []).contains m

/-- SETVLM (R35, R183). -/
def setLengthMask (i : Instr) (d : Reg) (m : MaskReg) (s : State) : Out :=
  onThread i s fun x h t =>
    if maskPending h.anchor m then .next s
    else
      let v := BitVec.ofNat 64 (vlOfMask h.cls h.anchor.th.masks[m])
      writeBack s x (h.setTh t { h.th t with vl := v }) t d v

/-! ### Scalar queues (R15, R18, R246) -/

def Hart.queue (h : Hart) : ScalarQueue → List Word
  | .qa => h.qa
  | .qc => h.qc

def Hart.setQueue (h : Hart) (q : ScalarQueue) (ws : List Word) : Hart :=
  match q with
  | .qa => { h with qa := ws }
  | .qc => { h with qc := ws }

/-- QPUSH: waits while the queue holds 16 entries. -/
def queuePush (i : Instr) (q : ScalarQueue) (s1 : Reg) (s : State) : Out :=
  onThread i s fun x h t =>
    if 16 ≤ (h.queue q).length then .next s else goOn s x (h.setQueue q (h.queue q ++ [h.reg t s1])) t

/-- A Pacer register now holds a value popped from `qa` (R20). -/
def markFromQa (h : Hart) (t : Thread) (d : Reg) : Hart :=
  if t = .pacer && d ≠ 0 then { h with pacer := { h.pacer with fromQa := h.pacer.fromQa.set d true } } else h

/-- QPOP: waits while the queue is empty. -/
def queuePop (i : Instr) (d : Reg) (q : ScalarQueue) (s : State) : Out :=
  onThread i s fun x h t =>
    match h.queue q with
    | [] => .next s
    | w :: rest => goOn s x (markFromQa ((h.setQueue q rest).setReg t d w) t d) t

/-! ### The meanings -/

/-- ADD (R169). -/
def execAdd (d : Reg) (s1 : Reg) (s2 : Reg) (s : State) : Out := scalar2 (.add d s1 s2) .add d s1 s2 s

/-- SUB (R169). -/
def execSub (d : Reg) (s1 : Reg) (s2 : Reg) (s : State) : Out := scalar2 (.sub d s1 s2) .sub d s1 s2 s

/-- MUL (R169). -/
def execMul (d : Reg) (s1 : Reg) (s2 : Reg) (s : State) : Out := scalar2 (.mul d s1 s2) .mul d s1 s2 s

/-- MULH (R169). -/
def execMulh (d : Reg) (s1 : Reg) (s2 : Reg) (s : State) : Out := scalar2 (.mulh d s1 s2) .mulh d s1 s2 s

/-- MULHN (R169). -/
def execMulhn (d : Reg) (s1 : Reg) (s2 : Reg) (s : State) : Out := scalar2 (.mulhn d s1 s2) .mulhn d s1 s2 s

/-- DIV (R169). -/
def execDiv (d : Reg) (s1 : Reg) (s2 : Reg) (s : State) : Out := scalar2 (.div d s1 s2) .div d s1 s2 s

/-- DIVN (R169). -/
def execDivn (d : Reg) (s1 : Reg) (s2 : Reg) (s : State) : Out := scalar2 (.divn d s1 s2) .divn d s1 s2 s

/-- REM (R169). -/
def execRem (d : Reg) (s1 : Reg) (s2 : Reg) (s : State) : Out := scalar2 (.rem d s1 s2) .rem d s1 s2 s

/-- REMN (R169). -/
def execRemn (d : Reg) (s1 : Reg) (s2 : Reg) (s : State) : Out := scalar2 (.remn d s1 s2) .remn d s1 s2 s

/-- AND (R169). -/
def execAnd (d : Reg) (s1 : Reg) (s2 : Reg) (s : State) : Out := scalar2 (.and d s1 s2) .and d s1 s2 s

/-- OR (R169). -/
def execOr (d : Reg) (s1 : Reg) (s2 : Reg) (s : State) : Out := scalar2 (.or d s1 s2) .or d s1 s2 s

/-- XOR (R169). -/
def execXor (d : Reg) (s1 : Reg) (s2 : Reg) (s : State) : Out := scalar2 (.xor d s1 s2) .xor d s1 s2 s

/-- ANDN (R169). -/
def execAndn (d : Reg) (s1 : Reg) (s2 : Reg) (s : State) : Out := scalar2 (.andn d s1 s2) .andn d s1 s2 s

/-- SHL (R169). -/
def execShl (d : Reg) (s1 : Reg) (s2 : Reg) (s : State) : Out := scalar2 (.shl d s1 s2) .shl d s1 s2 s

/-- SHR (R169). -/
def execShr (d : Reg) (s1 : Reg) (s2 : Reg) (s : State) : Out := scalar2 (.shr d s1 s2) .shr d s1 s2 s

/-- SRA (R169). -/
def execSra (d : Reg) (s1 : Reg) (s2 : Reg) (s : State) : Out := scalar2 (.sra d s1 s2) .sra d s1 s2 s

/-- ROT (R169). -/
def execRot (d : Reg) (s1 : Reg) (s2 : Reg) (s : State) : Out := scalar2 (.rot d s1 s2) .rot d s1 s2 s

/-- MIN (R169). -/
def execMin (d : Reg) (s1 : Reg) (s2 : Reg) (s : State) : Out := scalar2 (.min d s1 s2) .min d s1 s2 s

/-- MAX (R169). -/
def execMax (d : Reg) (s1 : Reg) (s2 : Reg) (s : State) : Out := scalar2 (.max d s1 s2) .max d s1 s2 s

/-- MINN (R169). -/
def execMinn (d : Reg) (s1 : Reg) (s2 : Reg) (s : State) : Out := scalar2 (.minn d s1 s2) .minn d s1 s2 s

/-- MAXN (R169). -/
def execMaxn (d : Reg) (s1 : Reg) (s2 : Reg) (s : State) : Out := scalar2 (.maxn d s1 s2) .maxn d s1 s2 s

/-- SLT (R169). -/
def execSlt (d : Reg) (s1 : Reg) (s2 : Reg) (s : State) : Out := scalar2 (.slt d s1 s2) .slt d s1 s2 s

/-- SLTN (R169). -/
def execSltn (d : Reg) (s1 : Reg) (s2 : Reg) (s : State) : Out := scalar2 (.sltn d s1 s2) .sltn d s1 s2 s

/-- SEQ (R169). -/
def execSeq (d : Reg) (s1 : Reg) (s2 : Reg) (s : State) : Out := scalar2 (.seq d s1 s2) .seq d s1 s2 s

/-- CLZ (R169). -/
def execClz (d : Reg) (s1 : Reg) (s : State) : Out := scalar1 (.clz d s1) clz d s1 s

/-- CTZ (R169). -/
def execCtz (d : Reg) (s1 : Reg) (s : State) : Out := scalar1 (.ctz d s1) ctz d s1 s

/-- POPC (R169). -/
def execPopc (d : Reg) (s1 : Reg) (s : State) : Out := scalar1 (.popc d s1) popc d s1 s

/-- ADD_IMM (R171). -/
def execAddImm (d : Reg) (s1 : Reg) (imm : BitVec 32) (s : State) : Out := scalarImm (.addImm d s1 imm) .add d s1 imm s

/-- SUB_IMM (R171). -/
def execSubImm (d : Reg) (s1 : Reg) (imm : BitVec 32) (s : State) : Out := scalarImm (.subImm d s1 imm) .sub d s1 imm s

/-- MUL_IMM (R171). -/
def execMulImm (d : Reg) (s1 : Reg) (imm : BitVec 32) (s : State) : Out := scalarImm (.mulImm d s1 imm) .mul d s1 imm s

/-- MULH_IMM (R171). -/
def execMulhImm (d : Reg) (s1 : Reg) (imm : BitVec 32) (s : State) : Out := scalarImm (.mulhImm d s1 imm) .mulh d s1 imm s

/-- MULHN_IMM (R171). -/
def execMulhnImm (d : Reg) (s1 : Reg) (imm : BitVec 32) (s : State) : Out := scalarImm (.mulhnImm d s1 imm) .mulhn d s1 imm s

/-- DIV_IMM (R171). -/
def execDivImm (d : Reg) (s1 : Reg) (imm : BitVec 32) (s : State) : Out := scalarImm (.divImm d s1 imm) .div d s1 imm s

/-- DIVN_IMM (R171). -/
def execDivnImm (d : Reg) (s1 : Reg) (imm : BitVec 32) (s : State) : Out := scalarImm (.divnImm d s1 imm) .divn d s1 imm s

/-- REM_IMM (R171). -/
def execRemImm (d : Reg) (s1 : Reg) (imm : BitVec 32) (s : State) : Out := scalarImm (.remImm d s1 imm) .rem d s1 imm s

/-- REMN_IMM (R171). -/
def execRemnImm (d : Reg) (s1 : Reg) (imm : BitVec 32) (s : State) : Out := scalarImm (.remnImm d s1 imm) .remn d s1 imm s

/-- AND_IMM (R171). -/
def execAndImm (d : Reg) (s1 : Reg) (imm : BitVec 32) (s : State) : Out := scalarImm (.andImm d s1 imm) .and d s1 imm s

/-- OR_IMM (R171). -/
def execOrImm (d : Reg) (s1 : Reg) (imm : BitVec 32) (s : State) : Out := scalarImm (.orImm d s1 imm) .or d s1 imm s

/-- XOR_IMM (R171). -/
def execXorImm (d : Reg) (s1 : Reg) (imm : BitVec 32) (s : State) : Out := scalarImm (.xorImm d s1 imm) .xor d s1 imm s

/-- ANDN_IMM (R171). -/
def execAndnImm (d : Reg) (s1 : Reg) (imm : BitVec 32) (s : State) : Out := scalarImm (.andnImm d s1 imm) .andn d s1 imm s

/-- SHL_IMM (R171). -/
def execShlImm (d : Reg) (s1 : Reg) (sh : Fin 64) (s : State) : Out := scalarShift (.shlImm d s1 sh) .shl d s1 sh s

/-- SHR_IMM (R171). -/
def execShrImm (d : Reg) (s1 : Reg) (sh : Fin 64) (s : State) : Out := scalarShift (.shrImm d s1 sh) .shr d s1 sh s

/-- SRA_IMM (R171). -/
def execSraImm (d : Reg) (s1 : Reg) (sh : Fin 64) (s : State) : Out := scalarShift (.sraImm d s1 sh) .sra d s1 sh s

/-- ROT_IMM (R171). -/
def execRotImm (d : Reg) (s1 : Reg) (sh : Fin 64) (s : State) : Out := scalarShift (.rotImm d s1 sh) .rot d s1 sh s

/-- MIN_IMM (R171). -/
def execMinImm (d : Reg) (s1 : Reg) (imm : BitVec 32) (s : State) : Out := scalarImm (.minImm d s1 imm) .min d s1 imm s

/-- MAX_IMM (R171). -/
def execMaxImm (d : Reg) (s1 : Reg) (imm : BitVec 32) (s : State) : Out := scalarImm (.maxImm d s1 imm) .max d s1 imm s

/-- MINN_IMM (R171). -/
def execMinnImm (d : Reg) (s1 : Reg) (imm : BitVec 32) (s : State) : Out := scalarImm (.minnImm d s1 imm) .minn d s1 imm s

/-- MAXN_IMM (R171). -/
def execMaxnImm (d : Reg) (s1 : Reg) (imm : BitVec 32) (s : State) : Out := scalarImm (.maxnImm d s1 imm) .maxn d s1 imm s

/-- SLT_IMM (R171). -/
def execSltImm (d : Reg) (s1 : Reg) (imm : BitVec 32) (s : State) : Out := scalarImm (.sltImm d s1 imm) .slt d s1 imm s

/-- SLTN_IMM (R171). -/
def execSltnImm (d : Reg) (s1 : Reg) (imm : BitVec 32) (s : State) : Out := scalarImm (.sltnImm d s1 imm) .sltn d s1 imm s

/-- SEQ_IMM (R171). -/
def execSeqImm (d : Reg) (s1 : Reg) (imm : BitVec 32) (s : State) : Out := scalarImm (.seqImm d s1 imm) .seq d s1 imm s

/-- FADD (R174). -/
def execFadd (d : Reg) (s1 : Reg) (s2 : Reg) (f : FloatFmt) (s : State) : Out := float2 (.fadd d s1 s2 f) .add d s1 s2 f s

/-- FSUB (R174). -/
def execFsub (d : Reg) (s1 : Reg) (s2 : Reg) (f : FloatFmt) (s : State) : Out := float2 (.fsub d s1 s2 f) .sub d s1 s2 f s

/-- FMUL (R174). -/
def execFmul (d : Reg) (s1 : Reg) (s2 : Reg) (f : FloatFmt) (s : State) : Out := float2 (.fmul d s1 s2 f) .mul d s1 s2 f s

/-- FFMA (R174). -/
def execFfma (d : Reg) (s1 : Reg) (s2 : Reg) (s3 : Reg) (f : FloatFmt) (s : State) : Out := float3 (.ffma d s1 s2 s3 f) d s1 s2 s3 f s

/-- FDIV (R174). -/
def execFdiv (d : Reg) (s1 : Reg) (s2 : Reg) (f : FloatFmt) (s : State) : Out := float2 (.fdiv d s1 s2 f) .div d s1 s2 f s

/-- FSQRT (R174). -/
def execFsqrt (d : Reg) (s1 : Reg) (s2 : Reg) (f : FloatFmt) (s : State) : Out := float2 (.fsqrt d s1 s2 f) .sqrt d s1 s2 f s

/-- FMIN (R174). -/
def execFmin (d : Reg) (s1 : Reg) (s2 : Reg) (f : FloatFmt) (s : State) : Out := float2 (.fmin d s1 s2 f) .min d s1 s2 f s

/-- FMAX (R174). -/
def execFmax (d : Reg) (s1 : Reg) (s2 : Reg) (f : FloatFmt) (s : State) : Out := float2 (.fmax d s1 s2 f) .max d s1 s2 f s

/-- FCVT (R174). -/
def execFcvt (d : Reg) (s1 : Reg) (s2 : Reg) (dst : ElemType) (src : ElemType) (s : State) : Out := floatConvert (.fcvt d s1 s2 dst src) d s1 dst src s

/-- FCMP_EQ (R174). -/
def execFcmpEq (d : Reg) (s1 : Reg) (s2 : Reg) (f : FloatFmt) (s : State) : Out := floatCompare (.fcmpEq d s1 s2 f) .eq d s1 s2 f s

/-- FCMP_LT (R174). -/
def execFcmpLt (d : Reg) (s1 : Reg) (s2 : Reg) (f : FloatFmt) (s : State) : Out := floatCompare (.fcmpLt d s1 s2 f) .lt d s1 s2 f s

/-- FCMP_LE (R174). -/
def execFcmpLe (d : Reg) (s1 : Reg) (s2 : Reg) (f : FloatFmt) (s : State) : Out := floatCompare (.fcmpLe d s1 s2 f) .le d s1 s2 f s

/-- FCMP_UN (R174). -/
def execFcmpUn (d : Reg) (s1 : Reg) (s2 : Reg) (f : FloatFmt) (s : State) : Out := floatCompare (.fcmpUn d s1 s2 f) .un d s1 s2 f s

/-- GETC (R176). -/
def execGetc (d : Reg) (num : Fin 4096) (s : State) : Out := getControl (.getc d num) d num s

/-- SETC (R176). -/
def execSetc (num : Fin 4096) (s1 : Reg) (s : State) : Out := setControl (.setc num s1) num s1 s

/-- SETVL (R188). -/
def execSetvl (d : Reg) (s1 : Reg) (ty : ElemType) (s : State) : Out := setLength (.setvl d s1 ty) d s1 ty s

/-- SETVLM (R188). -/
def execSetvlm (d : Reg) (m : MaskReg) (s : State) : Out := setLengthMask (.setvlm d m) d m s

/-- QPUSH (R246). -/
def execQpush (q : ScalarQueue) (s1 : Reg) (s : State) : Out := queuePush (.qpush q s1) q s1 s

/-- QPOP (R246). -/
def execQpop (d : Reg) (q : ScalarQueue) (s : State) : Out := queuePop (.qpop d q) d q s

/-- CMOV (R169): x if s3 is not 0, otherwise y. -/
def execCmov (d : Reg) (s1 : Reg) (s2 : Reg) (s3 : Reg) (s : State) : Out :=
  onThread (.cmov d s1 s2 s3) s fun x h t => writeBack s x h t d (if h.reg t s3 ≠ 0 then h.reg t s1 else h.reg t s2)

/-- LI (R172): imm32 sign-extended. -/
def execLi (d : Reg) (imm : BitVec 32) (s : State) : Out :=
  onThread (.li d imm) s fun x h t => writeBack s x h t d (signExtend32 imm)

/-- LIH (R172): bits [63:32] become imm32, bits [31:0] stay. -/
def execLih (d : Reg) (imm : BitVec 32) (s : State) : Out :=
  onThread (.lih d imm) s fun x h t => writeBack s x h t d (imm ++ (h.reg t d).setWidth 32)

/-- NOP (R176). -/
def execNop (s : State) : Out := onThread .nop s fun x h t => goOn s x h t

end Sys2Proof.Machine
end

