-- ==== Sys2Proof/Machine/Control.lean ====
section
/-! DEFINITION. Branches, jumps, LAP, branching on a mask, and the loop buffer (R20, R33 to R38, R158, R159, R178 to R184,
R186). -/
namespace Sys2Proof.Machine

open Sys2Proof

/-- A loss-of-decoupling branch counts when it retires (R20). -/
def countLod (h : Hart) (t : Thread) (srcs : List Reg) : Hart :=
  if t = .pacer && srcs.any (fun r => h.pacer.fromQa[r]) then
    { h with pacer := { h.pacer with lod := BitVec.ofNat 64 ((h.pacer.lod.toNat + 1) % 2 ^ 32) } }
  else h

inductive BranchCond where
  | eq | ne | lt | ge | ltn | gen
deriving DecidableEq, Repr

def BranchCond.holds (c : BranchCond) (x y : Word) : Bool :=
  match c with
  | .eq => x == y
  | .ne => x != y
  | .lt => decide (x.toInt < y.toInt)
  | .ge => decide (y.toInt ≤ x.toInt)
  | .ltn => decide (x.toNat < y.toNat)
  | .gen => decide (y.toNat ≤ x.toNat)

/-- A conditional branch (R178). -/
def branch (i : Instr) (c : BranchCond) (s1 s2 : Reg) (off : BitVec 39) (s : State) : Out :=
  onThread i s fun x h t =>
    let pc := (h.th t).pc
    let h' := countLod h t [s1, s2]
    .next (setHart s x (h'.goto t (if c.holds (h.reg t s1) (h.reg t s2) then branchTarget pc off else pc + 8)))

/-- JAL (R178). -/
def jumpLink (i : Instr) (d : Reg) (off : BitVec 39) (s : State) : Out :=
  onThread i s fun x h t =>
    let pc := (h.th t).pc
    .next (setHart s x ((h.setReg t d (pc + 8)).goto t (branchTarget pc off)))

/-- JALR (R178): the target uses s1 as it was; its low three bits are cleared. -/
def jumpReg (i : Instr) (d s1 : Reg) (off : BitVec 39) (s : State) : Out :=
  onThread i s fun x h t =>
    let pc := (h.th t).pc
    let target := BitVec.ofNat 64 ((branchTarget (h.reg t s1) off).toNat / 8 * 8)
    .next (setHart s x (((countLod h t [s1]).setReg t d (pc + 8)).goto t target))

/-- Whether a mask has a bit set below vl (R180). -/
def anySet (m vl : Nat) : Bool := decide (m % 2 ^ vl ≠ 0)

/-- BMSK (R180): waits for the entry that writes the mask. -/
def branchMask (i : Instr) (want : Bool) (m : MaskReg) (off : BitVec 39) (s : State) : Out :=
  onThread i s fun x h t =>
    if maskPending h.anchor m then .next s
    else
      let pc := (h.th t).pc
      let taken := anySet h.anchor.th.masks[m] h.anchor.th.vl.toNat == want
      .next (setHart s x (h.goto t (if taken then branchTarget pc off else pc + 8)))

/-- LAP's pointers advance by the old vl (R181). -/
def lapPointers (h : Hart) (t : Thread) (vl : Nat) (ps : List LapPtr) : Hart :=
  ps.foldl (fun h p => h.setReg t p.reg (h.reg t p.reg + BitVec.ofNat 64 (vl * 2 ^ p.size.val))) h

/-- LAP (R181). -/
def lapStep (i : Instr) (n : Reg) (ty : ElemType) (ps : List LapPtr) (off : BitVec 17) (s : State) : Out :=
  onThread i s fun x h t =>
    let pc := (h.th t).pc
    let vl := (h.th t).vl.toNat
    let cnt := (h.reg t n).toNat
    let cnt := if vl ≤ cnt then cnt - vl else 0
    let h := lapPointers (h.setReg t n (BitVec.ofNat 64 cnt)) t vl ps
    let h := h.grantTo t ty (grantOf h.cls ty cnt)
    .next (setHart s x (h.goto t (if cnt ≠ 0 then pc + off.signExtend 64 * 8 else pc + 8)))

/-! ### Loops (R33 to R38, R184) -/

/-- What a loop body may not hold (R34). -/
def loopForbids : Instr → Bool
  | .beq _ _ _ | .bne _ _ _ | .blt _ _ _ | .bge _ _ _ | .bltn _ _ _ | .bgen _ _ _ => true
  | .jal _ _ | .jalr _ _ _ | .lap _ _ _ _ _ _ _ | .bmskAny _ _ | .bmskNone _ _ => true
  | .vfetch _ _ | .vloop _ | .vloopS _ _ _ | .hexit | .vrel => true
  | _ => false

/-- How far a body's check has come: whether the word before can be joined, whether it forwards vf. -/
structure BodyCheck where
  joinable : Bool
  forwards : Bool

/-- The convoy structure of a body (R34, R153): whether every word is legal. -/
def bodyLegal : BodyCheck → List Instr → Bool
  | b, [] => !b.forwards
  | b, i :: rest =>
    if loopForbids i || !Instr.allowed i .anchor || !namesKnown .anchor i then false
    else
      match useOf i with
      | some u =>
        if u.vform then
          (!u.pred.joined || b.joinable) && (!b.forwards || (u.pred.joined && u.vfCount == 1)) &&
            (b.forwards || u.vfCount == 0) && bodyLegal ⟨!u.endsConvoy, u.forwards⟩ rest
        else !b.forwards && bodyLegal ⟨false, false⟩ rest
      | none => !b.forwards && bodyLegal ⟨false, false⟩ rest

/-- The words of a body, fetched before the first pass (R184). -/
def bodyWords (h : Hart) : Nat → State → Word → Except (Stop × Word) (State × Except Word (List Word))
  | 0, s, _ => .ok (s, .ok [])
  | n + 1, s, pc =>
    match fetchWord s h pc with
    | .error e => .error (e, pc)
    | .ok (s, w, bad) =>
      if bad then .ok (s, .error pc)
      else
        match bodyWords h n s (pc + 8) with
        | .error e => .error e
        | .ok (s, .error a) => .ok (s, .error a)
        | .ok (s, .ok ws) => .ok (s, .ok (w :: ws))

/-- The instructions of a body, or none when a word is none (R166). -/
def decodeAll : List Word → Option (List Instr)
  | [] => some []
  | w :: ws =>
    match decodeAnchorWord w, decodeAll ws with
    | .ok i, some is => some (i :: is)
    | _, _ => none

/-- Starting a loop: the body is fetched and checked, then k sets the loop up. -/
def loopStart (s : State) (x : Nat) (h : Hart) (n : Nat) (k : State → List Word → Out) : Out :=
  match bodyWords h n s (h.anchor.th.pc + 8) with
  | .error (.trap code fa, pc) => .next (deliverTrap s x { code := code, thread := .anchor, iaddr := pc, faddr := fa })
  | .error (st, pc) => stopAccess s x h .anchor 0x06 .fetch 0 pc st
  | .ok (s, .error pc) => .next (deliverTrap s x { code := 0x08, thread := .anchor, iaddr := pc, faddr := pc })
  | .ok (s, .ok ws) =>
    match decodeAll ws with
    | some is => if bodyLegal ⟨false, false⟩ is then k s ws else .next (refuseWord s x h .anchor 0x01)
    | none => .next (refuseWord s x h .anchor 0x01)

/-- VLOOP (R33, R184). -/
def loopPlain (i : Instr) (n : Fin 32) (s : State) : Out :=
  onThread i s fun x h t =>
    loopStart s x h (n.val + 1) fun s ws =>
      let l : LoopState := ⟨h.anchor.th.pc + 8, ws, false, 0, 0, 0⟩
      goOn s x { h with anchor := { h.anchor with loop := some l } } t

/-- Whether an entry of the VIQ still reads or writes a stage predicate (R36); the blocks of a `VFETCH` may do either. -/
def stagesPending (a : AnchorState) (stages : Nat) : Bool :=
  let isStage := fun (m : Fin 12) => decide (8 ≤ m.val) && decide (m.val < 8 + stages)
  a.viq.any fun e =>
    match useOf e.instr with
    | none => false
    | some u => runsBlocks e.instr || u.mwrites.any isStage || u.mreads.any isStage ||
        (match u.pred.sel with
          | some m => isStage m && e.stageOnes != some m
          | none => false)

/-- Rotating them before a pass (R36): each takes the mask below it, `m8` all ones while the pass number is below T. -/
def rotateStages (cls : Fin 6) (ms : Vector Nat 12) (l : LoopState) : Vector Nat 12 :=
  Vector.ofFn fun m => if m.val = 8 then (if l.pass < l.trips then maskOnes (maskBits cls) else 0)
    else if 8 < m.val ∧ m.val < 8 + l.stages then ms[m.val - 1]'(by omega) else ms[m]

def clearStages (ms : Vector Nat 12) (stages : Nat) : Vector Nat 12 :=
  Vector.ofFn fun m => if 8 ≤ m.val ∧ m.val < 8 + stages then 0 else ms[m]

/-- VLOOP.s (R36, R184). -/
def loopModulo (i : Instr) (n : Fin 32) (trip : Reg) (stages : Fin 32) (s : State) : Out :=
  onThread i s fun x h t =>
    let trips := (h.reg t trip).toNat
    if 2 ^ 32 ≤ trips then .next (refuseWord s x h .anchor 0x01)
    else
      loopStart s x h (n.val + 1) fun s ws =>
        if stagesPending h.anchor stages.val then .next s
        else
          let l : LoopState := ⟨h.anchor.th.pc + 8, ws, true, stages.val, trips, 0⟩
          let ms := rotateStages h.cls (clearStages h.anchor.th.masks stages.val) l
          goOn s x { h with anchor := { h.anchor with loop := some l, th := { h.anchor.th with masks := ms } } } t

/-- The end of a pass (R33, R36): again from the body's first word, or on behind it. It waits while the VIQ holds an
instruction that sets vl or uses a stage predicate. The body's last convoy closes here, so that no word behind the loop joins it, a point
that the spec leaves open (log 71). -/
def loopBoundary (s : State) (x : Nat) (h : Hart) (l : LoopState) : State :=
  match closeConvoy s x h with
  | .error s' => s'
  | .ok h =>
    let a := h.anchor
    let s0 := setHart s x h
    if l.modulo then
      if stagesPending a l.stages then s0
      else if l.pass + 1 < l.trips + l.stages - 1 then
        let l' := { l with pass := l.pass + 1 }
        setAnchor s x h { a with
          loop := some l'
          th := { a.th with pc := l.base, masks := rotateStages h.cls a.th.masks l' } }
      else setAnchor s x h { a with loop := none, th := { a.th with masks := clearStages a.th.masks l.stages } }
    else if a.viq.any fun e => ((useOf e.instr).map VUse.setsVl).getD false then s0
    else if a.th.vl = 0 then setAnchor s x h { a with loop := none }
    else setAnchor s x h { a with loop := some { l with pass := l.pass + 1 }, th := { a.th with pc := l.base } }

/-- TFETCH and TSTOP (R186). In the vector unit the block of the `VFETCH` at the head consists of this instruction alone, and
each element of G that the selector picks goes to the target it gives (0: the element is stopped); the others stay. A whole
block runs in `runBlock`. Outside a running AIB the word is illegal. -/
def directBlock (i : Instr) (sel : MaskSel) (target : Word → Word) (s : State) : Out :=
  onThread i s fun x h t =>
    match s.cur.unit, h.anchor.viq, nextBlock h.anchor.xpc with
    | .vector, e :: _, some b =>
      if e.started then
        let p := direct e (passGroup h.anchor.xpc b) ⟨h, List.replicate (mvlOf h.cls) none, 0, false⟩ sel (target b)
        let xpc := h.anchor.xpc.zipIdx.map fun y => if y.1 = b then (p.dirs.getD y.2 none).getD y.1 else y.1
        .next (setHart s x { h with anchor := { h.anchor with xpc := xpc } })
      else .next (refuseWord s x h t 0x01)
    | _, _, _ => .next (refuseWord s x h t 0x01)

/-! ### The meanings -/

/-- BEQ (R178). -/
def execBeq (s1 : Reg) (s2 : Reg) (off : BitVec 39) (s : State) : Out := branch (.beq s1 s2 off) .eq s1 s2 off s

/-- BNE (R178). -/
def execBne (s1 : Reg) (s2 : Reg) (off : BitVec 39) (s : State) : Out := branch (.bne s1 s2 off) .ne s1 s2 off s

/-- BLT (R178). -/
def execBlt (s1 : Reg) (s2 : Reg) (off : BitVec 39) (s : State) : Out := branch (.blt s1 s2 off) .lt s1 s2 off s

/-- BGE (R178). -/
def execBge (s1 : Reg) (s2 : Reg) (off : BitVec 39) (s : State) : Out := branch (.bge s1 s2 off) .ge s1 s2 off s

/-- BLTN (R178). -/
def execBltn (s1 : Reg) (s2 : Reg) (off : BitVec 39) (s : State) : Out := branch (.bltn s1 s2 off) .ltn s1 s2 off s

/-- BGEN (R178). -/
def execBgen (s1 : Reg) (s2 : Reg) (off : BitVec 39) (s : State) : Out := branch (.bgen s1 s2 off) .gen s1 s2 off s

/-- JAL (R178). -/
def execJal (d : Reg) (off : BitVec 39) (s : State) : Out := jumpLink (.jal d off) d off s

/-- JALR (R178). -/
def execJalr (d : Reg) (s1 : Reg) (off : BitVec 39) (s : State) : Out := jumpReg (.jalr d s1 off) d s1 off s

/-- BMSK_ANY (R180). -/
def execBmskAny (m : MaskReg) (off : BitVec 39) (s : State) : Out := branchMask (.bmskAny m off) true m off s

/-- BMSK_NONE (R180). -/
def execBmskNone (m : MaskReg) (off : BitVec 39) (s : State) : Out := branchMask (.bmskNone m off) false m off s

/-- LAP (R181). -/
def execLap (n : Reg) (ty : ElemType) (p0 : Option LapPtr) (p1 : Option LapPtr) (p2 : Option LapPtr) (p3 : Option LapPtr) (off : BitVec 17) (s : State) : Out := lapStep (.lap n ty p0 p1 p2 p3 off) n ty (p0.toList ++ p1.toList ++ p2.toList ++ p3.toList) off s

/-- VFETCH (R185). -/
def execVfetch (sel : MaskSel) (off : BitVec 39) (s : State) : Out := vectorInstr (.vfetch sel off) s

/-- TFETCH (R186). -/
def execTfetch (sel : MaskSel) (off : BitVec 39) (s : State) : Out := directBlock (.tfetch sel off) sel (fun b => branchTarget b off) s

/-- TSTOP (R186). -/
def execTstop (sel : MaskSel) (s : State) : Out := directBlock (.tstop sel) sel (fun _ => 0) s

/-- VLOOP (R33, R184). -/
def execVloop (n : Fin 32) (s : State) : Out := loopPlain (.vloop n) n s

/-- VLOOP_S (R36, R184). -/
def execVloopS (n : Fin 32) (trip : Reg) (stages : Fin 32) (s : State) : Out := loopModulo (.vloopS n trip stages) n trip stages s

end Sys2Proof.Machine
end

