-- ==== Sys2Proof/Machine/ScalarMem.lean ====
section
/-! DEFINITION. Scalar loads and stores, atomics, and the reproducible accumulator (R95 to R98, R107, R108, R157, R232 to R236,
R327). -/
namespace Sys2Proof.Machine

open Sys2Proof

/-- The address of a scalar access (R232). -/
def scalarVa (h : Hart) (s1 : Reg) (off : BitVec 32) : Word := h.reg .pacer s1 + signExtend32 off

/-- Writing a Pacer register and going on, on the state as the access left it. -/
def loadBack (s : State) (x : Nat) (d : Reg) (v : Word) : Out := .next (modHart s x fun h => (h.setReg .pacer d v).advance .pacer)

def acqScope : MemOrder → Option Scope
  | .acq s | .acqRel s => some s
  | _ => none

def relScope : MemOrder → Option Scope
  | .rel s | .acqRel s => some s
  | _ => none

/-- Release first: every earlier scalar-side access is performed (R327). -/
def releaseFor (s : State) (x core : Nat) (o : MemOrder) : State :=
  match relScope o with
  | some sc => releaseAt s x core sc
  | none => s

/-- Whether a release must wait for a fenced unit (R130). -/
def releaseWaits (s : State) (h : Hart) (o : MemOrder) : Bool := (relScope o).isSome && !scalarSettles s h

/-- Whether an acquire must: its cache effects read the lines of the core that hold stored bytes at their home. -/
def acquireWaits (s : State) (h : Hart) (o : MemOrder) : Bool := (acqScope o).isSome && dirtyFenced s h.core

/-- The value of a load: an acquire takes it at the point of coherence of its scope, after its cache effects (R107, R108,
R323, R327). -/
def loadValue (s : State) (core loc n : Nat) (cached : Bool) (o : MemOrder) : State × List Byte × Bool :=
  match acqScope o with
  | some sc => acquireRead (cacheAcquire s core sc) core loc n cached sc
  | none => scalarRead s core loc n cached

/-- What an access hands on and takes over of the order of `RSADD`s (R101, R131). -/
def noteRelease (s : State) (x : Nat) (o : MemOrder) (loc n : Nat) : State :=
  match relScope o with
  | some sc => giveAdds s x sc loc n
  | none => s

def noteAcquire (s : State) (x : Nat) (o : MemOrder) (loc n : Nat) : State :=
  match acqScope o with
  | some sc => takeAdds s x sc loc n
  | none => s

/-- An item of n bytes as a 64-bit register value. -/
def extendItem (signed : Bool) (n : Nat) (bs : List Byte) : Word :=
  let v := leNat bs
  if signed && decide (2 ^ (8 * n - 1) ≤ v) then BitVec.ofInt 64 ((v : Int) - 2 ^ (8 * n)) else BitVec.ofNat 64 v

/-- LD (R232, R233). -/
def scalarLoad (n : Nat) (signed : Bool) (d s1 : Reg) (o : MemOrder) (off : BitVec 32) (s : State) : Out :=
  onPacer s fun x h t =>
    let va := scalarVa h s1 off
    scalarAccess s x h 0x04 .load va n fun s loc cached =>
      if acquireWaits s h o then .next s else
      let (s, bs, bad) := loadValue (noteAcquire (settleSide s x .scalar loc n) x o loc n) h.core loc n cached o
      if bad then .next (trapAt s x h t 0x08 va) else loadBack s x d (extendItem signed n bs)

/-- Before an access at the home, the L1 lines of the issuing core that hold its bytes are written back and dropped (R235). -/
def dropForHome (s : State) (x core loc n : Nat) : State := l1CleanDrop (settleSide s x .scalar loc n) core (lineOf loc)

/-- ST (R232): a cacheable one goes into the scalar L1, another towards its home; one to an accumulator whose every `RSADD` it comes after is
performed at once, which R324 leaves open. -/
def scalarStore (n : Nat) (d s1 : Reg) (o : MemOrder) (off : BitVec 32) (s : State) : Out :=
  onPacer s fun x h t =>
    let va := scalarVa h s1 off
    scalarAccess s x h 0x05 .store va n fun s loc cached =>
      if releaseWaits s h o then .next s
      else
        let s := noteRelease (releaseFor s x h.core o) x o loc n
        let bs := leBytes n (h.reg t d).toNat
        let s :=
          if accOrdered s x .scalar loc n then
            asScalar (dropForHome s x h.core loc n) h.core (wordNumbers loc n) fun s => storeOrdered s h.core loc bs []
          else if cached && regionOf loc == .far then l1Store (settleSide s x .scalar loc n) h.core loc bs
          else modPacer (passL1 s h.core loc) x fun p => { p with stores := p.stores ++ [⟨.scalar, loc, bs, [], false⟩] }
        .next (modHart s x fun h => h.advance .pacer)

/-! ### Atomics (R234, R235) -/

inductive AmoOp where
  | add | swap | cas | min | max | and | or | xor | minn | maxn
deriving DecidableEq, Repr

/-- The new value of an item of n bytes (R234); none when nothing is written. -/
def amoNew (o : AmoOp) (n m x expected : Nat) : Option Nat :=
  let size := 2 ^ (8 * n)
  let signed := fun (v : Nat) => if size / 2 ≤ v then (v : Int) - size else v
  match o with
  | .add => some ((m + x) % size)
  | .swap => some x
  | .cas => if m = expected then some x else none
  | .min => some (if signed m ≤ signed x then m else x)
  | .max => some (if signed m ≤ signed x then x else m)
  | .and => some (m &&& x)
  | .or => some (m ||| x)
  | .xor => some (m ^^^ x)
  | .minn => some (min m x)
  | .maxn => some (max m x)

/-- The atomics that PCI Express carries to host memory (R235). -/
def AmoOp.hostOk : AmoOp → Bool
  | .add | .swap | .cas => true
  | _ => false

/-- Bytes read at their home, after it. The issuing die keeps its copy, whose words are then no older (R329); a poisoned item is not read
(R332). -/
def readForHome (s : State) (x core loc n : Nat) : State × List Byte × Bool :=
  let s := dropForHome s x core loc n
  let (bs, bad) := homeRead s loc n
  (if bad then s else farRefresh s (coreDie core) loc n, bs, bad)

/-- Whether an access at the home must wait: a line to be written back, or a release before it (R130). -/
def homeWaits (s : State) (h : Hart) (o : MemOrder) : Bool := dirtyFenced s h.core || releaseWaits s h o

/-- An atomic of n bytes (R234, R235). Its page is asked of the host before the operation is refused for host memory, an order that the
spec leaves open (log 11). -/
def atomic (op : AmoOp) (n : Nat) (natural : Bool) (d s1 s2 : Reg) (o : MemOrder) (off : BitVec 32) (s : State) : Out :=
  onPacer s fun x h t =>
    let va := scalarVa h s1 off
    scalarAccess s x h 0x05 .atomic va n fun s loc _ =>
      if regionOf loc == .host && !op.hostOk then .next (trapAt s x h t 0x07 va)
      else if homeWaits s h o then .next s
      else
        let (s, bs, bad) := readForHome (noteAcquire (noteRelease (releaseFor s x h.core o) x o loc n) x o loc n) x h.core loc n
        if bad then .next (trapAt s x h t 0x08 va)
        else
          let size := 2 ^ (8 * n)
          let s := match amoNew op n (leNat bs) ((h.reg t s2).toNat % size) ((h.reg t d).toNat % size) with
            | some v =>
              asScalar s h.core (wordNumbers loc n) fun s =>
                if accOrdered s x .scalar loc n then storeOrdered s h.core loc (leBytes n v) []
                else storeThrough s (coreDie h.core) loc (leBytes n v) false
            | none => s
          let s := match acqScope o with
            | some sc => cacheAcquire s h.core sc
            | none => s
          loadBack s x d (extendItem (!natural) n bs)

/-! ### The reproducible accumulator (R95 to R98) -/

/-- An accumulator's fields: B, the six flags from bit 32 up, and the three bins. -/
structure Accumulator where
  b : Nat
  flags : BitVec 6
  bin0 : Int
  bin1 : Int
  bin2 : Int
deriving DecidableEq, Repr

def accNan : BitVec 6 := 0x01
def accPinf : BitVec 6 := 0x02
def accNinf : BitVec 6 := 0x04
def accOvf : BitVec 6 := 0x08
def accLost : BitVec 6 := 0x10
def accBadb : BitVec 6 := 0x20

/-- A signed 64-bit bin. -/
def binOf (bs : List Byte) : Int := (BitVec.ofNat 64 (leNat bs)).toInt

def Accumulator.ofBytes (bs : List Byte) : Accumulator where
  b := leNat (bs.take 2)
  flags := BitVec.ofNat 6 (leNat ((bs.drop 4).take 1))
  bin0 := binOf ((bs.drop 8).take 8)
  bin1 := binOf ((bs.drop 16).take 8)
  bin2 := binOf ((bs.drop 24).take 8)

/-- Back to bytes; reserved bits keep what was there. -/
def Accumulator.toBytes (a : Accumulator) (old : List Byte) : List Byte :=
  let byte4 := (leNat ((old.drop 4).take 1)) / 64 * 64 + a.flags.toNat
  old.take 4 ++ leBytes 1 byte4 ++ (old.drop 5).take 3 ++
  leBytes 8 (BitVec.ofInt 64 a.bin0).toNat ++ leBytes 8 (BitVec.ofInt 64 a.bin1).toNat ++ leBytes 8 (BitVec.ofInt 64 a.bin2).toNat

/-- V in units of 2^(40b − 200) (R95). -/
def Accumulator.value (a : Accumulator) : Int := a.bin0 + a.bin1 * 2 ^ 40 + a.bin2 * 2 ^ 80

def fits64 (i : Int) : Bool := decide (-(2 ^ 63) ≤ i) && decide (i < 2 ^ 63)

/-- Carrying whole multiples of 2^40 up (R96): V is unchanged, BIN0 and BIN1 lie in [0, 2^40). Where BIN2 could not hold what is carried into
it, nothing is carried, so that V stays (log 19). -/
def Accumulator.renormalise (a : Accumulator) : Accumulator :=
  let c0 := a.bin0 / 2 ^ 40
  let t1 := a.bin1 + c0
  let top := a.bin2 + t1 / 2 ^ 40
  if fits64 top then { a with bin0 := a.bin0 % 2 ^ 40, bin1 := t1 % 2 ^ 40, bin2 := top } else a

def Accumulator.fits (a : Accumulator) : Bool := fits64 a.bin0 && fits64 a.bin1 && fits64 a.bin2

def Accumulator.mark (a : Accumulator) (f : BitVec 6) : Accumulator := { a with flags := a.flags ||| f }

/-- The bins of a value in their normalised form. -/
def Accumulator.withValue (a : Accumulator) (v : Int) : Accumulator :=
  { a with bin0 := v % 2 ^ 40, bin1 := v / 2 ^ 40 % 2 ^ 40, bin2 := v / 2 ^ 80 }

/-- Adding m·2^(40b−200) with a sign; the unit renormalises before a bin would leave its range (R96). Where BIN2 could not hold the carry
before the addition, what is stored is the normalised sum: BIN0 and BIN1 never wrap, and a BIN2 that cannot hold it is `accStore`'s. -/
def Accumulator.addBins (a : Accumulator) (neg : Bool) (m : Nat) : Accumulator :=
  let add := fun (a : Accumulator) => { a with
    bin0 := a.bin0 + signedOf neg (m % 2 ^ 40)
    bin1 := a.bin1 + signedOf neg (m / 2 ^ 40 % 2 ^ 40)
    bin2 := a.bin2 + signedOf neg (m / 2 ^ 80 % 2 ^ 40) }
  if (add a).fits then add a
  else if (add a.renormalise).fits then add a.renormalise
  else a.withValue (a.value + signedOf neg m)

/-- RSADD of an F32 (R96). -/
def Accumulator.add (a : Accumulator) (x : FVal) : Accumulator :=
  if 8 < a.b then a.mark accBadb
  else
    match x with
    | .zero _ => a
    | .nan _ => a.mark accNan
    | .inf neg => a.mark (if neg then accNinf else accPinf)
    | .fin neg m e =>
      let sh := e - (40 * (a.b : Int) - 200)
      let q := m * 2 ^ sh.toNat / 2 ^ (-sh).toNat
      let a := if q * 2 ^ (-sh).toNat = m * 2 ^ sh.toNat then a else a.mark accLost
      if 2 ^ 120 ≤ q then a.mark accOvf
      else
        let a := a.addBins neg q
        if -(2 ^ 143) ≤ a.value ∧ a.value < 2 ^ 143 then a else a.mark accOvf

/-- RSFIN (R98). -/
def Accumulator.result (a : Accumulator) : Nat × Flags :=
  let has := fun f => a.flags &&& f != 0
  if has accBadb || has accOvf || has accNan || (has accPinf && has accNinf) then (fNan .f32, flagNV)
  else if has accPinf then (fInf .f32 false, 0)
  else if has accNinf then (fInf .f32 true, 0)
  else if a.value = 0 then (0, 0)
  else fResult .f32 .nearestEven (fOfInt a.value (40 * (a.b : Int) - 200) false) false

/-- What is known of the accumulator at a location. -/
def accAt (s : State) (loc : Nat) : Option KnownAcc := s.accs.find? fun a => a.loc == loc

/-- Whether V of the accumulator at a location is undefined (R101). -/
def accTorn (s : State) (loc : Nat) : Bool := (accAt s loc).any KnownAcc.torn

/-- `RSADD` where V is undefined: the flags that the addend itself sets, and bins that are free values (R6, R101; log 19). -/
def Accumulator.addTorn (a : Accumulator) (x : FVal) (inputs : List Nat) : Accumulator :=
  let marks := ({ a with bin0 := 0, bin1 := 0, bin2 := 0 } : Accumulator).add x
  let bin := fun (k : Nat) => (Config.undefined inputs k).toInt
  { a with flags := marks.flags, bin0 := bin 0, bin1 := bin 1, bin2 := bin 2 }

/-- `RSFIN` where V is undefined: so is the result, unless the flags alone give it, and it sets no flag (R6, R98, R101; log 19). -/
def Accumulator.resultTorn (a : Accumulator) (inputs : List Nat) : Nat × Flags :=
  let r := ({ a with bin0 := 0, bin1 := 0, bin2 := 0 } : Accumulator).result
  if r.1 = 0 then ((Config.undefined inputs 0).toNat % 2 ^ 32, 0) else r

/-- An accumulator stored. Of one that left the range BIN2 cannot hold the sum, and its bits are undefined (log 19). -/
def accStore (s : State) (die loc : Nat) (a : Accumulator) (old : List Byte) : State :=
  let made := [34, a.b, a.flags.toNat, (BitVec.ofInt 256 a.value).toNat]
  let a := if fits64 a.bin2 then a else { a with bin2 := (Config.undefined made 0).toInt }
  let torn := accTorn s loc
  let adds := (s.accs.filter fun x => x.loc == loc).flatMap KnownAcc.adds ++ [s.accOrder.count]
  let s := storeThrough s die loc (a.toBytes old) false
  { s with accs := ⟨loc, torn, [], adds⟩ :: s.accs, accOrder := { s.accOrder with count := s.accOrder.count + 1 } }

/-- An access to an accumulator (R236): 32 bytes of device far memory. A host page is asked of the host first, an order that the spec leaves
open (log 11). -/
def accAccess (s : State) (x : Nat) (h : Hart) (decline : BitVec 8) (k : AccessKind) (va : Word) (go : State → Nat → Out) : Out :=
  scalarAccess s x h decline k va 32 fun s loc _ =>
    if regionOf loc == .far then go s loc else .next (trapAt s x h .pacer 0x07 va)

/-- What the undefined values of an accumulator are functions of (R6). -/
def tornInputs (bs : List Byte) (x : Nat) : List Nat := [38, leNat bs, x]

/-- RSADD (R96, R236). -/
def accAdd (d s1 : Reg) (o : MemOrder) (off : BitVec 32) (s : State) : Out :=
  onPacer s fun x h t =>
    let va := scalarVa h s1 off
    accAccess s x h 0x05 .atomic va fun s loc =>
      if homeWaits s h o then .next s
      else
        let (s, bs, bad) := readForHome (noteRelease (releaseFor s x h.core o) x o loc 32) x h.core loc 32
        if bad then .next (trapAt s x h t 0x08 va)
        else
          let w := (h.reg t d).toNat % 2 ^ 32
          let a := Accumulator.ofBytes bs
          let a := if accTorn s loc then a.addTorn (fDecode .f32 w) (tornInputs bs w) else a.add (fDecode .f32 w)
          let s := asScalar s h.core (wordNumbers loc 32) fun s => accStore s (coreDie h.core) loc a bs
          .next (modHart (meetAdds s x loc) x fun h => h.advance .pacer)

/-- RSFIN (R98, R236): the 32 bytes are read as one, at the home. -/
def accFinish (d s1 : Reg) (o : MemOrder) (off : BitVec 32) (s : State) : Out :=
  onPacer s fun x h t =>
    let va := scalarVa h s1 off
    accAccess s x h 0x04 .load va fun s loc =>
      if homeWaits s h o then .next s else
      let (s, bs, bad) := readForHome (noteAcquire s x o loc 32) x h.core loc 32
      if bad then .next (trapAt s x h t 0x08 va)
      else
        let s := meetAdds s x loc
        let s := match acqScope o with
          | some sc => cacheAcquire s h.core sc
          | none => s
        let a := Accumulator.ofBytes bs
        let r := if accTorn s loc then a.resultTorn (tornInputs bs (2 ^ 32)) else a.result
        let s := modHart s x fun h => ((h.setReg t d (BitVec.ofNat 64 r.1)).raise t r.2).advance t
        .next (arithCheck s x h.part t r.2 (h.th t).pc)

/-! ### The meanings -/

/-- LD_B (R232, R233). -/
def execLdB (d : Reg) (s1 : Reg) (ord : MemOrder) (off : BitVec 32) (s : State) : Out := scalarLoad 1 true d s1 ord off s

/-- LD_H (R232, R233). -/
def execLdH (d : Reg) (s1 : Reg) (ord : MemOrder) (off : BitVec 32) (s : State) : Out := scalarLoad 2 true d s1 ord off s

/-- LD_W (R232, R233). -/
def execLdW (d : Reg) (s1 : Reg) (ord : MemOrder) (off : BitVec 32) (s : State) : Out := scalarLoad 4 true d s1 ord off s

/-- LD_D (R232, R233). -/
def execLdD (d : Reg) (s1 : Reg) (ord : MemOrder) (off : BitVec 32) (s : State) : Out := scalarLoad 8 true d s1 ord off s

/-- LD_BN (R232, R233). -/
def execLdBn (d : Reg) (s1 : Reg) (ord : MemOrder) (off : BitVec 32) (s : State) : Out := scalarLoad 1 false d s1 ord off s

/-- LD_HN (R232, R233). -/
def execLdHn (d : Reg) (s1 : Reg) (ord : MemOrder) (off : BitVec 32) (s : State) : Out := scalarLoad 2 false d s1 ord off s

/-- LD_WN (R232, R233). -/
def execLdWn (d : Reg) (s1 : Reg) (ord : MemOrder) (off : BitVec 32) (s : State) : Out := scalarLoad 4 false d s1 ord off s

/-- ST_B (R232, R233). -/
def execStB (d : Reg) (s1 : Reg) (ord : MemOrder) (off : BitVec 32) (s : State) : Out := scalarStore 1 d s1 ord off s

/-- ST_H (R232, R233). -/
def execStH (d : Reg) (s1 : Reg) (ord : MemOrder) (off : BitVec 32) (s : State) : Out := scalarStore 2 d s1 ord off s

/-- ST_W (R232, R233). -/
def execStW (d : Reg) (s1 : Reg) (ord : MemOrder) (off : BitVec 32) (s : State) : Out := scalarStore 4 d s1 ord off s

/-- ST_D (R232, R233). -/
def execStD (d : Reg) (s1 : Reg) (ord : MemOrder) (off : BitVec 32) (s : State) : Out := scalarStore 8 d s1 ord off s

/-- AMOADD_W (R234, R235). -/
def execAmoaddW (d : Reg) (s1 : Reg) (s2 : Reg) (ord : MemOrder) (off : BitVec 32) (s : State) : Out := atomic .add 4 false d s1 s2 ord off s

/-- AMOADD_D (R234, R235). -/
def execAmoaddD (d : Reg) (s1 : Reg) (s2 : Reg) (ord : MemOrder) (off : BitVec 32) (s : State) : Out := atomic .add 8 false d s1 s2 ord off s

/-- AMOSWAP_W (R234, R235). -/
def execAmoswapW (d : Reg) (s1 : Reg) (s2 : Reg) (ord : MemOrder) (off : BitVec 32) (s : State) : Out := atomic .swap 4 false d s1 s2 ord off s

/-- AMOSWAP_D (R234, R235). -/
def execAmoswapD (d : Reg) (s1 : Reg) (s2 : Reg) (ord : MemOrder) (off : BitVec 32) (s : State) : Out := atomic .swap 8 false d s1 s2 ord off s

/-- AMOCAS_W (R234, R235). -/
def execAmocasW (d : Reg) (s1 : Reg) (s2 : Reg) (ord : MemOrder) (off : BitVec 32) (s : State) : Out := atomic .cas 4 false d s1 s2 ord off s

/-- AMOCAS_D (R234, R235). -/
def execAmocasD (d : Reg) (s1 : Reg) (s2 : Reg) (ord : MemOrder) (off : BitVec 32) (s : State) : Out := atomic .cas 8 false d s1 s2 ord off s

/-- AMOMIN_W (R234, R235). -/
def execAmominW (d : Reg) (s1 : Reg) (s2 : Reg) (ord : MemOrder) (off : BitVec 32) (s : State) : Out := atomic .min 4 false d s1 s2 ord off s

/-- AMOMIN_D (R234, R235). -/
def execAmominD (d : Reg) (s1 : Reg) (s2 : Reg) (ord : MemOrder) (off : BitVec 32) (s : State) : Out := atomic .min 8 false d s1 s2 ord off s

/-- AMOMAX_W (R234, R235). -/
def execAmomaxW (d : Reg) (s1 : Reg) (s2 : Reg) (ord : MemOrder) (off : BitVec 32) (s : State) : Out := atomic .max 4 false d s1 s2 ord off s

/-- AMOMAX_D (R234, R235). -/
def execAmomaxD (d : Reg) (s1 : Reg) (s2 : Reg) (ord : MemOrder) (off : BitVec 32) (s : State) : Out := atomic .max 8 false d s1 s2 ord off s

/-- AMOAND_W (R234, R235). -/
def execAmoandW (d : Reg) (s1 : Reg) (s2 : Reg) (ord : MemOrder) (off : BitVec 32) (s : State) : Out := atomic .and 4 false d s1 s2 ord off s

/-- AMOAND_D (R234, R235). -/
def execAmoandD (d : Reg) (s1 : Reg) (s2 : Reg) (ord : MemOrder) (off : BitVec 32) (s : State) : Out := atomic .and 8 false d s1 s2 ord off s

/-- AMOOR_W (R234, R235). -/
def execAmoorW (d : Reg) (s1 : Reg) (s2 : Reg) (ord : MemOrder) (off : BitVec 32) (s : State) : Out := atomic .or 4 false d s1 s2 ord off s

/-- AMOOR_D (R234, R235). -/
def execAmoorD (d : Reg) (s1 : Reg) (s2 : Reg) (ord : MemOrder) (off : BitVec 32) (s : State) : Out := atomic .or 8 false d s1 s2 ord off s

/-- AMOXOR_W (R234, R235). -/
def execAmoxorW (d : Reg) (s1 : Reg) (s2 : Reg) (ord : MemOrder) (off : BitVec 32) (s : State) : Out := atomic .xor 4 false d s1 s2 ord off s

/-- AMOXOR_D (R234, R235). -/
def execAmoxorD (d : Reg) (s1 : Reg) (s2 : Reg) (ord : MemOrder) (off : BitVec 32) (s : State) : Out := atomic .xor 8 false d s1 s2 ord off s

/-- AMOMIN_WN (R234, R235). -/
def execAmominWn (d : Reg) (s1 : Reg) (s2 : Reg) (ord : MemOrder) (off : BitVec 32) (s : State) : Out := atomic .minn 4 true d s1 s2 ord off s

/-- AMOMIN_DN (R234, R235). -/
def execAmominDn (d : Reg) (s1 : Reg) (s2 : Reg) (ord : MemOrder) (off : BitVec 32) (s : State) : Out := atomic .minn 8 true d s1 s2 ord off s

/-- AMOMAX_WN (R234, R235). -/
def execAmomaxWn (d : Reg) (s1 : Reg) (s2 : Reg) (ord : MemOrder) (off : BitVec 32) (s : State) : Out := atomic .maxn 4 true d s1 s2 ord off s

/-- AMOMAX_DN (R234, R235). -/
def execAmomaxDn (d : Reg) (s1 : Reg) (s2 : Reg) (ord : MemOrder) (off : BitVec 32) (s : State) : Out := atomic .maxn 8 true d s1 s2 ord off s

/-- RSADD (R96, R98, R236). -/
def execRsadd (d : Reg) (s1 : Reg) (ord : MemOrder) (off : BitVec 32) (s : State) : Out := accAdd d s1 ord off s

/-- RSFIN (R96, R98, R236). -/
def execRsfin (d : Reg) (s1 : Reg) (ord : MemOrder) (off : BitVec 32) (s : State) : Out := accFinish d s1 ord off s

end Sys2Proof.Machine
end

