-- ==== Sys2Proof/Machine/VMem.lean ====
section
/-! DEFINITION. The Pacer's vector memory instructions: addresses, probes, loads into the load queues, stores from the store
queues, images and vector atomics (R104, R105, R237 to R245). -/
namespace Sys2Proof.Machine

open Sys2Proof

/-! ### Near-bank conflicts (R104, R105) -/

def confOf (s : State) (core : Nat) : Word := ((s.nbconf.find? fun c => c.1 == core).map (·.2)).getD 0

def setConf (s : State) (core : Nat) (w : Word) : State :=
  { s with nbconf := (core, w) :: s.nbconf.filter fun c => c.1 != core }

/-- The rounds a group takes at a slice: the most distinct words it asks of one bank (R104). -/
def groupRounds (core : Nat) (locs : List Nat) : Nat :=
  let words := ((locs.filter fun l => regionOf l == .near && nearCore l == core).map fun l => (l - 2 ^ 52) / 8).eraseDups
  words.foldl (fun m w => max m (words.filter fun v => v % 128 == w % 128).length) 0

/-- Every 64-element group adds its rounds minus 1 at each slice it reaches (R105). -/
def addConflicts (s : State) (es : List (Nat × Nat)) : State :=
  ((es.map fun e => e.1 / 64).eraseDups).foldl (fun s g =>
    let locs := ((es.filter fun e => e.1 / 64 == g).map (·.2)).filter fun l => regionOf l == .near
    ((locs.map nearCore).eraseDups).foldl (fun s core =>
      setConf s core (confOf s core + BitVec.ofNat 64 (groupRounds core locs - 1))) s) s

/-! ### Probes (R238) -/

/-- An address to be touched, for an element or a part of an image. -/
structure Touch where
  elem : Nat
  va : Word
deriving DecidableEq, Repr

/-- A touch and what its translation gives. -/
abbrev Probe := Touch × Except Stop (Nat × Bool)

def probeAll (s : State) (h : Hart) (k : AccessKind) (ts : List Touch) : List Probe :=
  ts.map fun t => (t, translate s h.core h.part t.va k false)

/-- How a probe ends: every page is there; the step ends in an outcome; or the Pacer waits for replays. -/
inductive ProbeEnd where
  | clear
  | out (o : Out)
  | waits (s : State)

def Stop.isFinal : Stop → Bool
  | .trap _ _ => true
  | .hole _ => true
  | _ => false

/-- The pages that wait for a replay or the host, each once. -/
def waitPages (rs : List Probe) : List (Word × Stop) :=
  rs.foldl (fun acc r =>
    match r.2 with
    | .error (.missing va level cause) =>
      if acc.any fun a => a.1.toNat / 4096 == r.1.va.toNat / 4096 then acc else acc ++ [(r.1.va, .missing va level cause)]
    | .error (.ats page) =>
      if acc.any fun a => a.1.toNat / 4096 == r.1.va.toNat / 4096 then acc else acc ++ [(r.1.va, .ats page)]
    | _ => acc) []

/-- The outcomes of R238: protection at the lowest element that fails; one fault record per missing page; a wait for a fenced
unit. decline is the code of a declined replay. -/
def probeEnd (s : State) (i : Nat) (h : Hart) (decline : BitVec 8) (k : AccessKind) (rs : List Probe) : ProbeEnd :=
  let stops := rs.filterMap fun r => match r.2 with
    | .error e => some (r.1, e)
    | .ok _ => none
  match stops.find? fun x => x.2.isFinal with
  | some x => .out (stopAccess s i h .pacer decline k 1 x.1.va x.2)
  | none =>
    if stops.isEmpty then .clear
    else
      match waitPages rs with
      | [] => .out (.next s)
      | ws => .waits (ws.foldl (fun s w =>
          match w.2 with
          | .missing va level cause => waitReplay s i h .pacer decline k.code 1 va level cause
          | .ats page => waitAts s i h .pacer decline w.1 page
          | _ => s) s)

/-- The locations of a probe that found every page. -/
def probed (rs : List Probe) : List (Touch × Nat × Bool) :=
  rs.filterMap fun r => match r.2 with
    | .ok x => some (r.1, x)
    | .error _ => none

def noteAll (s : State) (h : Hart) (ts : List Touch) : State := ts.foldl (fun s t => noteTlb s h.core h.part t.va) s

/-- Misaligned addresses raise 0x09 before anything is read or written (R237). -/
def misaligned (ts : List Touch) (n : Nat) : Option Word := (ts.find? fun t => t.va.toNat % n != 0).map (·.va)

/-- A probe of a kind whose pages must all be there. mark notes the wait. -/
def withProbe (s : State) (i : Nat) (h : Hart) (decline : BitVec 8) (k : AccessKind) (mark : State → State) (ts : List Touch)
    (go : State → List (Touch × Nat × Bool) → Out) : Out :=
  let rs := probeAll s h k ts
  match probeEnd s i h decline k rs with
  | .clear => go (noteAll s h ts) (probed rs)
  | .out o => o
  | .waits s => .next (mark s)

/-! ### Index lists (R237, R239, R240) -/

/-- Reading list entries: an index, or none where it carries poison. -/
def readIndices (i die : Nat) : State → List (Touch × Nat × Bool) → State × List (Nat × Option Nat)
  | s, [] => (s, [])
  | s, (t, loc, cached) :: rest =>
    let (s, bs, bad) := vectorRead s i die loc 4 cached
    let (s, xs) := readIndices i die s rest
    (s, (t.elem, if bad then none else some (leNat bs)) :: xs)

/-- The vector side's stores to the bytes about to be read are performed first (R245). -/
def settleTouches (s : State) (i : Nat) (n : Nat) (ts : List (Touch × Nat × Bool)) : State :=
  ts.foldl (fun s t => settleSide s i .vector t.2.1 n) s

/-- Whether a load in flight reads a word of n bytes at some locations (R245, R329). -/
def loadsMeet (h : Hart) (locs : List (Touch × Nat × Bool)) (n : Nat) : Bool :=
  h.pacer.loads.any fun f => locs.any fun l => f.reads l.2.1 n

/-- Loads in flight that an access would overtake deliver first. -/
def afterLoads (s : State) (i : Nat) (h : Hart) (locs : List (Touch × Nat × Bool)) (n : Nat) (go : State → Out) : Out :=
  if loadsMeet h locs n then (if loadsFenced s h then .next s else go (deliverAll s i)) else go s

/-- The index list of the active elements, probed and read behind the earlier accesses to its bytes; it waits at a fenced unit (R130). -/
def withIndices (s : State) (i : Nat) (h : Hart) (decline : BitVec 8) (mark : State → State) (list : Word) (acts : List Nat)
    (go : State → List (Nat × Option Nat) → Out) : Out :=
  let ts := acts.map fun e => (⟨e, list + BitVec.ofNat 64 (4 * e)⟩ : Touch)
  match misaligned ts 4 with
  | some va => .next (trapAt s i h .pacer 0x09 va)
  | none =>
    withProbe s i h decline .load mark ts fun s locs =>
      if locs.any fun l => accessFenced s l.2.1 4 l.2.2 then .next s
      else
        afterLoads s i h locs 4 fun s =>
          let (s, xs) := readIndices i (coreDie h.core) (settleTouches s i 4 locs) locs
          go s xs

/-! ### How elements are addressed (R237) -/

/-- The element forms: consecutive, strided, indexed. -/
inductive VShapeOf where
  | unit (off : Word)
  | strided
  | indexed (sc : Nat)
deriving DecidableEq, Repr

/-- The address of element e: consecutive or strided (a QN4 element lies in half a byte), or through an index. -/
def elemVa (sh : VShapeOf) (ty : ElemType) (base stride : Word) (e : Nat) (idx : Nat) : Word :=
  match sh with
  | .unit off => base + off + BitVec.ofNat 64 (e * width ty / 8)
  | .strided => base + BitVec.ofNat 64 e * stride
  | .indexed sc => base + BitVec.ofNat 64 (idx * 2 ^ sc)

/-- The bytes an address must be a multiple of (R237). -/
def elemAlign (ty : ElemType) : Nat := max 1 (width ty / 8)

def actives (vstart vl mask : Nat) : List Nat := (List.range vl).filter fun e => decide (vstart ≤ e) && mask.testBit e

/-- The Pacer mask a selector names, all ones when it names none. -/
def pacerMask (h : Hart) (sel : MaskSel) : Nat :=
  match sel with
  | none => maskOnes (maskBits h.cls)
  | some m => h.pacer.th.masks[m]

/-! ### Loads (R239, R241) -/

/-- An element as its load is issued: one whose word the hart's vector side may still read as it was before takes its bits so, when a free value
picks that (R134). -/
def issueElem (i : Nat) (ty : ElemType) (s : State) (e : ElemSource) : State × ElemSource :=
  let take := fun (loc : Nat) (cached : Bool) (value : List Byte → Nat) =>
    match pickEarlier s i loc cached with
    | (s, some w) => (s, if w.poison then .poison else .value (BitVec.ofNat 64 (value (w.bytes.drop (loc % 8)))))
    | (s, none) => (s, e)
  match e with
  | .bytes loc cached => take loc cached fun bs => leNat (bs.take (width ty / 8))
  | .nibble loc high cached => take loc cached fun bs => leNat (bs.take 1) / (if high then 16 else 1) % 16
  | _ => (s, e)

def issueElems (i : Nat) (ty : ElemType) : State → List ElemSource → State × List ElemSource
  | s, [] => (s, [])
  | s, e :: es =>
    let (s, e) := issueElem i ty s e
    let (s, es) := issueElems i ty s es
    (s, e :: es)

/-- A load has been issued: vstart is 0, nothing waits; adv says whether the Pacer goes on (it has already, when the load
was saved while it waited). -/
def issueLoad (adv : Bool) (s : State) (i : Nat) (f : LoadFlight) (image : Bool) : State :=
  let (s, elems) := issueElems i f.ty s f.elems
  let f := { f with elems := elems }
  modHart s i fun h =>
    let p := h.pacer
    let th := if image then p.th else { p.th with vstart := 0 }
    let th := if adv then { th with pc := th.pc + 8 } else th
    { h with pacer := { p with th := th, loads := p.loads ++ [f], waitLoad := none, reissue := false } }

/-- Elements with a source, every other element 0 of the type (R239). -/
def fillElems (ty : ElemType) (xs : List (Nat × ElemSource)) (n : Nat) : List ElemSource :=
  (List.range n).map fun e => ((xs.find? fun x => x.1 == e).map (·.2)).getD (.value (zeroOf ty))

/-- Where an element's bits come from. -/
def sourceOf (ty : ElemType) (t : Touch) (loc : Nat) (cached : Bool) : ElemSource :=
  if ty == .qn4 then .nibble loc (decide (t.elem % 2 = 1)) cached else .bytes loc cached

/-- The queue has room for one more load (R18). -/
def slipFull (h : Hart) (q : Fin 4) : Bool := decide (h.pacer.th.vrel = false) && decide (h.pacer.slip.toNat ≤ slipCount h q)

/-- Noting that a load waits for a replay (R239). -/
def markWait (w : WaitingLoad) (i : Nat) (s : State) : State := modPacer s i fun p => { p with waitLoad := some w }

/-- Mask m after a `VLDFF` (R241). -/
def firstFaultMask (old vl f : Nat) (acts : List Nat) : Nat :=
  maskPatch old 0 vl fun e => decide (e < f) && acts.contains e

/-- What a load does before its addresses are looked at: what R44, R49 and R237 refuse, and the wait of R18; a load issued
again keeps its place (R391). -/
def loadGate (adv : Bool) (s : State) (i : Nat) (h : Hart) (w : WaitingLoad) (q : Fin 4) (qn4Ok : Bool) (go : Out) : Out :=
  if h.pacer.th.vrel then trapHere s i h .pacer 0x01
  else if capacity h.cls w.ty < w.vl then trapHere s i h .pacer 0x01
  else if w.ty == .qn4 && !qn4Ok then trapHere s i h .pacer 0x02
  else if adv && slipFull h q then .next s
  else go

/-- An element load whose indices are known. -/
def loadAt (adv : Bool) (s : State) (i : Nat) (h : Hart) (w : WaitingLoad) (q : Fin 4) (sh : VShapeOf)
    (xs : List (Nat × Option Nat)) : Out :=
  let ts := xs.filterMap fun x => x.2.map fun idx => (⟨x.1, elemVa sh w.ty w.base w.stride x.1 idx⟩ : Touch)
  let bad := xs.filterMap fun x => if x.2.isNone then some (x.1, ElemSource.poison) else none
  match misaligned ts (elemAlign w.ty) with
  | some va => .next (trapAt s i h .pacer 0x09 va)
  | none =>
    withProbe s i h 0x04 .load (markWait w i) ts fun s locs =>
      let s := addConflicts (settleTouches s i (elemAlign w.ty) locs) (locs.map fun l => (l.1.elem, l.2.1))
      let src := locs.map fun l => (l.1.elem, sourceOf w.ty l.1 l.2.1 l.2.2)
      .next (issueLoad adv s i ⟨q, w.ty, fillElems w.ty (src ++ bad) w.vl⟩ false)

/-- VLD of QN4: its blocks must lie at a multiple of 32 (R237). -/
def blockFault (ty : ElemType) (sh : VShapeOf) (base : Word) : Option Word :=
  match sh with
  | .unit off => if ty == .qn4 && decide ((base + off).toNat % 32 ≠ 0) then some (base + off) else none
  | _ => none

/-- VLD, VLDS, VLDX (R237, R239). -/
def elementLoad (adv : Bool) (s : State) (i : Nat) (h : Hart) (w : WaitingLoad) (q : Fin 4) (sel : MaskSel) (sh : VShapeOf) : Out :=
  loadGate adv s i h w q (sel.isNone && sh != .strided && (match sh with | .indexed _ => false | _ => true)) <|
    let acts := actives h.pacer.th.vstart.toNat w.vl w.mask
    if acts.isEmpty then .next (issueLoad adv s i ⟨q, w.ty, List.replicate w.vl (.value (zeroOf w.ty))⟩ false)
    else
      match blockFault w.ty sh w.base with
      | some va => .next (trapAt s i h .pacer 0x09 va)
      | none =>
        match sh with
        | .indexed _ => withIndices s i h 0x04 (markWait w i) w.stride acts fun s xs => loadAt adv s i h w q sh xs
        | _ => loadAt adv s i h w q sh (acts.map fun e => (e, some 0))

/-- VLDFF (R241): the lowest active element whose page fails the probe trims the load, unless it is the first. A host page that ATS has not
answered for yet counts as one that fails, which the spec leaves open (log 35). -/
def firstFaultLoad (adv : Bool) (s : State) (i : Nat) (h : Hart) (w : WaitingLoad) (q : Fin 4) (off : Word) (m : MaskReg) : Out :=
  loadGate adv s i h w q false <|
    let acts := actives h.pacer.th.vstart.toNat w.vl w.mask
    let finish := fun (s : State) (f : Nat) (src : List (Nat × ElemSource)) =>
      let s := issueLoad adv s i ⟨q, w.ty, fillElems w.ty src f⟩ false
      Host.Outcome.next (modPacer s i fun p => { p with th := { p.th with
        vl := BitVec.ofNat 64 f
        masks := p.th.masks.set m (firstFaultMask p.th.masks[m] w.vl f acts) } })
    let ts := acts.map fun e => (⟨e, elemVa (.unit off) w.ty w.base 0 e 0⟩ : Touch)
    match misaligned ts (elemAlign w.ty) with
    | some va => .next (trapAt s i h .pacer 0x09 va)
    | none =>
      let rs := probeAll s h .load ts
      let fails := fun (r : Probe) => match r.2 with
        | .error .fenced => false
        | .error _ => true
        | .ok _ => false
      let cut := ((rs.find? fails).map fun r => r.1.elem).getD w.vl
      let rs' := rs.filter fun r => decide (r.1.elem < cut)
      if cut < w.vl && rs'.isEmpty then
        match probeEnd s i h 0x04 .load (rs.filter fun r => r.1.elem == cut) with
        | .clear => .next s
        | .out o => o
        | .waits s => .next (markWait w i s)
      else
        match probeEnd s i h 0x04 .load rs' with
        | .out o => o
        | .waits s => .next s
        | .clear =>
          let locs := probed rs'
          let s := noteAll s h (rs'.map (·.1))
          let s := addConflicts (settleTouches s i (elemAlign w.ty) locs) (locs.map fun l => (l.1.elem, l.2.1))
          finish s cut (locs.map fun l => (l.1.elem, sourceOf w.ty l.1 l.2.1 l.2.2))

/-! ### Images (R242, R243) -/

/-- Reading the header of an image, word by word: its bytes, and whether they carry poison. -/
def readHeader (i die : Nat) : State → List (Nat × Bool) → State × List Byte × Bool
  | s, [] => (s, [], false)
  | s, (loc, cached) :: rest =>
    let (s, bs, bad) := vectorRead s i die loc 8 cached
    let (s, more, bad') := readHeader i die s rest
    (s, bs ++ more, bad || bad')

/-- The 64-byte pieces of so many bytes. -/
def pieces (va : Word) (n : Nat) : List Touch := (List.range (n / 64)).map fun k => ⟨k, va + BitVec.ofNat 64 (64 * k)⟩

/-- A header: TAG and COUNT, or none for one that R242 or R243 refuses; layout is the identifier it must carry. -/
def imageHeader (cls : Fin 6) (layout : Nat) (bs : List Byte) : Option (ElemType × Nat) :=
  let n := leNat bs
  match ElemType.ofCode (n % 16) with
  | none => none
  | some ty =>
    let count := n / 2 ^ 16 % 2 ^ 16
    if n = n % 16 + count * 2 ^ 16 + layout * 2 ^ 48 ∧ count ≤ capacity cls ty then some (ty, count) else none

def headerBytes (ty : ElemType) (count layout : Nat) : List Byte := leBytes 64 (ty.code + count * 2 ^ 16 + layout * 2 ^ 48)

/-- The body bytes of a `VSPL` image (R243). -/
def spillBytes (ty : ElemType) (count : Nat) : Nat := (count * width ty + 511) / 512 * 64

/-- A VLDW or VFIL up to its header: alignment, the probe and the reading of it. -/
def withHeader (adv : Bool) (s : State) (i : Nat) (h : Hart) (w : WaitingLoad) (q : Fin 4) (va : Word) (layout probeBytes : Nat)
    (go : State → ElemType → Nat → Out) : Out :=
  if h.pacer.th.vrel then trapHere s i h .pacer 0x01
  else if adv && slipFull h q then .next s
  else if va.toNat % 64 ≠ 0 then .next (trapAt s i h .pacer 0x09 va)
  else
    withProbe s i h 0x04 .load (markWait w i) (pieces va probeBytes) fun s locs =>
      let head := locs.take 1
      if head.any fun l => accessFenced s l.2.1 64 l.2.2 then .next s
      else afterLoads s i h head 64 fun s =>
        let words := head.flatMap fun l => (List.range 8).map fun k => (l.2.1 + 8 * k, l.2.2)
        let (s, bs, bad) := readHeader i (coreDie h.core) (settleTouches s i 64 head) words
        if bad then .next (trapAt s i h .pacer 0x08 va)
        else
          match imageHeader h.cls layout bs with
          | none => trapHere s i h .pacer 0x02
          | some (ty, count) => go s ty count

/-- The elements of an image's body on their way; place gives where in the body an element lies. -/
def imageBody (adv : Bool) (s : State) (i : Nat) (h : Hart) (w : WaitingLoad) (q : Fin 4) (va : Word) (ty : ElemType) (count : Nat)
    (place : Nat → Nat) : Out :=
  let ts := (List.range count).map fun e => (⟨place e, elemVa (.unit 64) ty va 0 (place e) 0⟩ : Touch)
  withProbe s i h 0x04 .load (markWait w i) ts fun s locs =>
    let s := settleTouches s i (elemAlign ty) locs
    .next (issueLoad adv s i ⟨q, ty, locs.map fun l => sourceOf ty l.1 l.2.1 l.2.2⟩ true)

/-- VLDW (R242). -/
def imageLoad (adv : Bool) (s : State) (i : Nat) (h : Hart) (w : WaitingLoad) (q : Fin 4) (off : Word) : Out :=
  let va := w.base + off
  let rl := rlenOf h.cls
  withHeader adv s i h w q va (Config.laneLayout rl).toNat (64 + rl) fun s ty count =>
    imageBody adv s i h w q va ty count (lanePlace rl ty)

/-- VFIL (R243). -/
def fillLoad (adv : Bool) (s : State) (i : Nat) (h : Hart) (w : WaitingLoad) (q : Fin 4) (off : Word) : Out :=
  let va := w.base + off
  withHeader adv s i h w q va 0 64 fun s ty count => imageBody adv s i h w q va ty count id

/-- A vector load with what it captured: at its instruction, or issued again after a save (R239, R391). -/
def vectorLoad (adv : Bool) (w : WaitingLoad) (s : State) (i : Nat) (h : Hart) : Out :=
  match w.form with
  | .unit sel q off => elementLoad adv s i h w q sel (.unit (off.signExtend 64))
  | .strided sel q => elementLoad adv s i h w q sel .strided
  | .indexed sel q sc => elementLoad adv s i h w q sel (.indexed sc.val)
  | .firstFault q m off => firstFaultLoad adv s i h w q (off.signExtend 64) m
  | .lanes q off => imageLoad adv s i h w q (off.signExtend 64)
  | .packed q off => fillLoad adv s i h w q (off.signExtend 64)

/-- A load at its instruction: what it captures. -/
def loadHere (form : LoadForm) (word : Word) (base : Reg) (stride : Option Reg) (sel : MaskSel) (s : State) : Out :=
  onPacer s fun i h _ =>
    vectorLoad true ⟨form, word, h.reg .pacer base, (stride.map (h.reg .pacer)).getD 0, h.pacer.th.vl.toNat, h.pacer.th.grant,
      pacerMask h sel⟩ s i h

/-! ### Stores (R240) -/

/-- Stores of the vector side that come after every `RSADD` of an accumulator they meet are performed at once; the others go on their way (R101,
R324). -/
def sendStores (s : State) (i : Nat) (fs : List StoreFlight) : State × List StoreFlight :=
  if s.accs.isEmpty then (s, fs)
  else
    fs.foldl (fun acc f =>
      match acc.1.harts[i]? with
      | none => acc
      | some h =>
        if accOrdered acc.1 i .vector f.loc f.data.length then
          (storeOrdered (settleSide acc.1 i .vector f.loc f.data.length) h.core f.loc f.data f.poison, acc.2)
        else (acc.1, acc.2 ++ [f])) (s, [])

/-- How a store ends that performs its elements up to a bound: whole, its entry is popped, vstart is 0 and the Pacer goes on; stopped
hard at k, vstart is k and the entry stays (R240, R255). -/
def commitStore (s : State) (i : Nat) (q : Fin 2) (fs : List StoreFlight) (image : Bool) (stop : Option Nat) : State :=
  let (s, fs) := sendStores s i fs
  modHart s i fun h =>
    let p := h.pacer
    match stop with
    | some k => { h with pacer := { p with stores := p.stores ++ fs, th := { p.th with vstart := BitVec.ofNat 64 k } } }
    | none =>
      let th := if image then p.th else { p.th with vstart := 0 }
      { h with
        sq := h.sq.set q h.sq[q].tail
        pacer := { p with th := { th with pc := th.pc + 8 }, stores := p.stores ++ fs } }

/-- A store, or a vector atomic, stopped at element k by poison (R240, R244). -/
def stopAtElem (s : State) (i : Nat) (k : Nat) (fs : List StoreFlight) (va : Word) : State :=
  let (s, fs) := sendStores s i fs
  let s := modPacer s i fun p => { p with stores := p.stores ++ fs, th := { p.th with vstart := BitVec.ofNat 64 k } }
  match s.harts[i]? with
  | none => s
  | some h => deliverTrap s i { code := 0x08, thread := .pacer, iaddr := h.pacer.th.pc, faddr := va, elem := k }

/-- An element of a popped entry, 0 of the type past its end (R17). -/
def rowGet (r : Row) (e : Nat) : Word := r.elems.getD e (zeroOf r.ty)

/-- The offsets of n bytes that are poison, when all are. -/
def marks (n : Nat) (bad : Bool) : List Nat := if bad then List.range n else []

def elemFlight (r : Row) (t : Touch × Nat × Bool) : StoreFlight :=
  ⟨.vector, t.2.1, leBytes (width r.ty / 8) (rowGet r t.1.elem).toNat, marks (width r.ty / 8) (r.poison.contains t.1.elem), t.2.2⟩

/-- Whether an element lies below a hard stop. -/
def belowStop (stop : Option Nat) (e : Nat) : Bool := stop.all fun k => decide (e < k)

/-- An element store whose indices are known. Every active element's address and page is looked at before anything is written (R237, R238);
the elements below a hard stop and below a poisoned index are stored. -/
def storeAt (s : State) (i : Nat) (h : Hart) (q : Fin 2) (r : Row) (base stride list : Word) (sh : VShapeOf)
    (stop : Option Nat) (xs : List (Nat × Option Nat)) : Out :=
  let ts := xs.filterMap fun x => x.2.map fun idx => (⟨x.1, elemVa sh r.ty base stride x.1 idx⟩ : Touch)
  match misaligned ts (elemAlign r.ty) with
  | some va => .next (trapAt s i h .pacer 0x09 va)
  | none =>
    withProbe s i h 0x05 .store id ts fun s locs =>
      let locs := locs.filter fun l => belowStop stop l.1.elem
      afterLoads s i h locs (elemAlign r.ty) fun s =>
        match xs.find? fun x => x.2.isNone && belowStop stop x.1 with
        | some (k, _) =>
          let below := locs.filter fun l => decide (l.1.elem < k)
          let s := addConflicts s (below.map fun l => (l.1.elem, l.2.1))
          .next (stopAtElem s i k (below.map (elemFlight r)) (list + BitVec.ofNat 64 (4 * k)))
        | none =>
          let s := addConflicts s (locs.map fun l => (l.1.elem, l.2.1))
          .next (commitStore s i q (locs.map (elemFlight r)) false stop)

/-- The code of element e of a QN4 store: 15 past vl, to the end of the last block (R237). -/
def qn4Code (r : Row) (vl e : Nat) : Nat := if e < vl then (rowGet r e).toNat % 16 else 15

/-- VST of QN4: whole bytes from the one that holds element vstart to the end of the last block, or those that hold an element below a
stop (R237, R240); the pages of all are probed (R238). -/
def blockStore (s : State) (i : Nat) (h : Hart) (q : Fin 2) (r : Row) (va : Word) (vl vstart : Nat) (stop : Option Nat) : Out :=
  if va.toNat % 32 ≠ 0 then .next (trapAt s i h .pacer 0x09 va)
  else
    let ts := ((List.range ((vl + 63) / 64 * 32)).filter fun b => decide (vstart / 2 ≤ b)).map fun b =>
      (⟨2 * b, va + BitVec.ofNat 64 b⟩ : Touch)
    withProbe s i h 0x05 .store id ts fun s locs =>
      let locs := locs.filter fun l => belowStop stop l.1.elem
      afterLoads s i h locs 1 fun s =>
        let s := addConflicts s (locs.map fun l => (l.1.elem, l.2.1))
        .next (commitStore s i q (locs.map fun l =>
          let e := l.1.elem
          ⟨.vector, l.2.1, leBytes 1 (qn4Code r vl e + 16 * qn4Code r vl (e + 1)),
            marks 1 ((decide (e < vl) && r.poison.contains e) || (decide (e + 1 < vl) && r.poison.contains (e + 1))), l.2.2⟩) false stop)

/-- VST, VSTS, VSTX (R237, R240), performed whole or up to a hard stop. -/
def storeRun (q : Fin 2) (base : Reg) (stride : Option Reg) (sel : MaskSel) (sh : VShapeOf) (stop : Option Nat) (s : State)
    (i : Nat) (h : Hart) : Out :=
  let vl := h.pacer.th.vl.toNat
  let vstart := h.pacer.th.vstart.toNat
  let b := h.reg .pacer base
  let st := (stride.map (h.reg .pacer)).getD 0
  if h.pacer.th.vrel then trapHere s i h .pacer 0x01
  else
    match h.sq[q].head? with
    | none => .next s
    | some r =>
      let acts := actives vstart vl (pacerMask h sel)
      if capacity h.cls r.ty < vl then trapHere s i h .pacer 0x01
      else if r.ty == .qn4 && (sel.isSome || sh == .strided || stride.isSome) then trapHere s i h .pacer 0x02
      else if acts.isEmpty then .next (commitStore s i q [] false stop)
      else
        match sh with
        | .indexed _ => withIndices s i h 0x05 id st acts fun s xs => storeAt s i h q r b st st sh stop xs
        | .strided => storeAt s i h q r b st 0 sh stop (acts.map fun e => (e, some 0))
        | .unit off =>
          if r.ty == .qn4 then blockStore s i h q r (b + off) vl vstart stop
          else storeAt s i h q r b st 0 sh stop (acts.map fun e => (e, some 0))

def elementStore (q : Fin 2) (base : Reg) (stride : Option Reg) (sel : MaskSel) (sh : VShapeOf) (s : State) : Out :=
  onPacer s fun i h _ => storeRun q base stride sel sh none s i h

/-- Consecutive bytes as stores of 8 bytes; the last of fewer. -/
def chunks : Nat → List Byte → List (List Byte)
  | 0, _ => []
  | n + 1, bs => if bs.isEmpty then [] else bs.take 8 :: chunks n (bs.drop 8)

/-- The stores of bytes over the pieces of an image: 8 bytes each, a byte poison where a test says so by its offset. -/
def imageFlights (bs : List Byte) (bad : Nat → Bool) (locs : List (Touch × Nat × Bool)) : List StoreFlight :=
  locs.zipIdx.flatMap fun x =>
    let part := (bs.drop (64 * x.2)).take 64
    (chunks 8 part).zipIdx.map fun c => 
      ⟨.vector, x.1.2.1 + 8 * c.2, c.1, (List.range 8).filter fun o => bad (64 * x.2 + 8 * c.2 + o), x.1.2.2⟩

/-- VSTW (R242) and VSPL (R243): the oldest entry as an image. -/
def imageStore (q : Fin 2) (base : Reg) (off : BitVec 16) (spill : Bool) (s : State) : Out :=
  onPacer s fun i h _ =>
    let va := h.reg .pacer base + off.signExtend 64
    if h.pacer.th.vrel then trapHere s i h .pacer 0x01
    else
      match h.sq[q].head? with
      | none => .next s
      | some r =>
        if va.toNat % 64 ≠ 0 then .next (trapAt s i h .pacer 0x09 va)
        else
          let rl := rlenOf h.cls
          let count := r.elems.length
          let n := if spill then spillBytes r.ty count else rl
          let body := if spill then leBytes n (packElems r.ty r.elems) else laneBytes rl r.ty r.elems
          let bs := headerBytes r.ty count (if spill then 0 else (Config.laneLayout rl).toNat) ++ body
          let w := width r.ty
          let place := if spill then id else lanePlace rl r.ty
          let bad := fun o => decide (64 ≤ o) && r.poison.any fun e =>
            decide (place e * w < 8 * (o - 64) + 8) && decide (8 * (o - 64) < place e * w + w)
          withProbe s i h 0x05 .store id (pieces va (64 + n)) fun s locs =>
            afterLoads s i h locs 64 fun s => .next (commitStore s i q (imageFlights bs bad locs) true none)

/-! ### Vector atomics (R244) -/

def VAmoOp.amo : VAmoOp → AmoOp
  | .add => .add
  | .swap => .swap
  | .min => .min
  | .max => .max
  | .and => .and
  | .or => .or
  | .xor => .xor
  | .minn => .minn
  | .maxn => .maxn

/-- Whether a tag takes an operation. -/
def vamoTakes (o : VAmoOp) : ElemType → Bool
  | .i32 | .n32 | .i64 | .n64 => true
  | .f32 =>
    match o with
    | .add | .swap | .min | .max => true
    | _ => false
  | _ => false

/-- In a deterministic gang these raise illegal instruction. -/
def vamoRefusedDet (o : VAmoOp) (t : ElemType) : Bool :=
  t == .f32 &&
    match o with
    | .add | .min | .max => true
    | _ => false

/-- To host memory only the integer add and swap go. -/
def vamoHostOk (o : VAmoOp) (t : ElemType) : Bool :=
  t != .f32 &&
    match o with
    | .add | .swap => true
    | _ => false

/-- The new value of an item. -/
def vamoNew (o : VAmoOp) (t : ElemType) (m x : Nat) : Nat :=
  if t == .f32 then
    match o with
    | .add => (fAdd32 m x).1
    | .min => (fMinMaxV .f32 false m x).1
    | .max => (fMinMaxV .f32 true m x).1
    | _ => x
  else (amoNew (VAmoOp.amo o) (width t / 8) m x 0).getD m

/-- How a `VAMO` ran: the state, the old values by element, and the element that poison stopped, with its address. -/
structure AmoRun where
  s : State
  old : List (Nat × Word)
  stop : Option (Nat × Word)

/-- The active elements in ascending order, each at its home; a poisoned index or item, or a poisoned operand, stops it. -/
def amoElems (die : Nat) (o : VAmoOp) (r : Row) (list : Word) (locs : List (Touch × Nat × Bool)) : AmoRun → List (Nat × Option Nat) → AmoRun
  | a, [] => a
  | a, (e, idx) :: rest =>
    match locs.find? fun l => l.1.elem == e, idx with
    | some l, some _ =>
      let n := width r.ty / 8
      let (bs, bad) := homeRead a.s l.2.1 n
      if bad || r.poison.contains e then { a with stop := some (e, l.1.va) }
      else
        let v := vamoNew o r.ty (leNat bs) ((rowGet r e).toNat % 2 ^ width r.ty)
        let s := storeThrough a.s die l.2.1 (leBytes n v) false
        amoElems die o r list locs ⟨s, a.old ++ [(e, BitVec.ofNat 64 (leNat bs))], none⟩ rest
    | _, _ => { a with stop := some (e, list + BitVec.ofNat 64 (4 * e)) }

/-- The elements below a bound that a `VAMO` has returned. -/
def returned (part : List Word) (old : List (Nat × Word)) (n : Nat) : List Word :=
  (List.range n).map fun e => ((old.find? fun x => x.1 == e).map (·.2)).getD (part.getD e 0)

/-- How a VAMO ends (R244): whole, its entry is popped and the old values are pushed; stopped hard at k, they are held. -/
def endAtomic (q : Fin 2) (t : ElemType) (ret : Option (Fin 4)) (vl : Nat) (stop : Option Nat) (part : List Word) (s : State)
    (i : Nat) (old : List (Nat × Word)) : State :=
  modHart (commitStore s i q [] false stop) i fun h =>
    match stop with
    | some k => { h with pacer := { h.pacer with vamoRet := ret.map fun rq => (rq, ⟨t, returned part old k, []⟩) } }
    | none =>
      let h := { h with pacer := { h.pacer with vamoRet := none } }
      match ret with
      | none => h
      | some p => { h with lq := h.lq.set p (h.lq[p] ++ [⟨t, returned part old vl, []⟩]) }

/-- VAMO (R244), performed whole or up to a hard stop, once every active element's address and page has been looked at (R237, R238). Only the
elements it performs are served by a slice (R105). -/
def atomicRun (sel : MaskSel) (q : Fin 2) (base list : Reg) (sc : Fin 4) (o : VAmoOp) (ret : Option (Fin 4)) (stop : Option Nat)
    (s : State) (i : Nat) (h : Hart) : Out :=
  let vl := h.pacer.th.vl.toNat
  let b := h.reg .pacer base
  let li := h.reg .pacer list
  if h.pacer.th.vrel then trapHere s i h .pacer 0x01
  else
    match h.sq[q].head? with
    | none => .next s
    | some r =>
      let part := match h.pacer.vamoRet with
        | some p => p.2.elems
        | none => []
      if !vamoTakes o r.ty then trapHere s i h .pacer 0x02
      else if capacity h.cls r.ty < vl then trapHere s i h .pacer 0x01
      else if h.det && vamoRefusedDet o r.ty then trapHere s i h .pacer 0x01
      else if (match ret with | some p => slipFull h p && h.pacer.vamoRet.isNone | none => false) then .next s
      else if !vectorSettles s h then .next s
      else
        let acts := actives h.pacer.th.vstart.toNat vl (pacerMask h sel)
        if acts.isEmpty then .next (endAtomic q r.ty ret vl stop part (deliverAll s i) i [])
        else
          withIndices s i h 0x05 id li acts fun s xs =>
            let ts := xs.filterMap fun x => x.2.map fun idx => (⟨x.1, elemVa (.indexed sc.val) r.ty b 0 x.1 idx⟩ : Touch)
            match misaligned ts (elemAlign r.ty) with
            | some va => .next (trapAt s i h .pacer 0x09 va)
            | none =>
              let rs := (probeAll s h .atomic ts).map fun p =>
                match p.2 with
                | .ok (loc, _) =>
                  if regionOf loc == .host && !vamoHostOk o r.ty then (p.1, .error (.trap 0x07 p.1.va)) else p
                | .error _ => p
              match probeEnd s i h 0x05 .atomic rs with
              | .out out => out
              | .waits s => .next s
              | .clear =>
                let locs := (probed rs).filter fun l => belowStop stop l.1.elem
                if locs.any fun l => rangeFenced s l.2.1 (elemAlign r.ty) then .next s else
                let run := amoElems (coreDie h.core) o r li locs ⟨settleVector (noteAll s h ts) i, [], none⟩
                  (xs.filter fun x => belowStop stop x.1)
                let served := locs.filter fun l => run.old.any fun x => x.1 == l.1.elem
                let s := addConflicts run.s (served.map fun l => (l.1.elem, l.2.1))
                match run.stop with
                | none => .next (endAtomic q r.ty ret vl stop part s i run.old)
                | some (k, va) =>
                  let s := modPacer s i fun p => { p with
                    vamoRet := ret.map fun rq => (rq, ⟨r.ty, returned part run.old k, []⟩) }
                  .next (stopAtElem s i k [] va)

def vectorAtomic (sel : MaskSel) (q : Fin 2) (base list : Reg) (sc : Fin 4) (o : VAmoOp) (ret : Option (Fin 4)) (s : State) : Out :=
  onPacer s fun i h _ => atomicRun sel q base list sc o ret none s i h

/-- Whether a word's fields are those of a legal instruction. -/
def legalFields (r : Except Reject Instr) : Bool := r.toBool

/-- The store or vector atomic that a Pacer stands at is stopped hard at element k (R240, R244, R255): what lies below it is performed.
Nothing else stops inside its elements. The fields are read here as the decoder of each form reads them. -/
def stopMemory (w : Word) (k : Nat) (s : State) (i : Nat) (h : Hart) : Out :=
  let f := VFields.ofWord w.toNat
  let sel := f.pacer.toOption.getD none
  let q := Fin.ofNat 2 f.d
  let base : Reg := Fin.ofNat 32 f.s1
  let other : Reg := Fin.ofNat 32 f.s2
  let sc : Fin 4 := Fin.ofNat 4 f.imm
  if w.toNat / 2 ^ 58 ≠ 32 || decide (k ≤ h.pacer.th.vstart.toNat) || decide (h.pacer.th.vl.toNat ≤ k) then .next s
  else if f.minor = 4 ∧ legalFields (decVST (fun _ _ _ _ => .nop) f) = true then
    storeRun q base none sel (.unit ((BitVec.ofNat 16 f.imm).signExtend 64)) (some k) s i h
  else if f.minor = 5 ∧ legalFields (decVSTS (fun _ _ _ _ => .nop) f) = true then
    storeRun q base (some other) sel .strided (some k) s i h
  else if f.minor = 6 ∧ legalFields (decVSTX (fun _ _ _ _ _ => .nop) f) = true then
    storeRun q base (some other) sel (.indexed sc.val) (some k) s i h
  else if f.minor = 11 ∧ legalFields (decVAMO (fun _ _ _ _ _ _ _ => .nop) f) = true then
    match VAmoOp.ofCode (f.imm / 4 % 16) with
    | some o =>
      atomicRun sel q base other sc o (if f.imm / 32768 % 2 = 1 then some (Fin.ofNat 4 f.s3) else none) (some k) s i h
    | none => .next s
  else .next s

/-! ### The meanings -/

/-- VLD (R237, R239). -/
def execVld (sel : MaskSel) (q : Fin 4) (base : Reg) (off : BitVec 16) (s : State) : Out :=
  loadHere (.unit sel q off) ((encVLD sel q base off : VFields).toWord 32 0) base none sel s

/-- VLDS (R237, R239). -/
def execVlds (sel : MaskSel) (q : Fin 4) (base : Reg) (stride : Reg) (s : State) : Out :=
  loadHere (.strided sel q) ((encVLDS sel q base stride : VFields).toWord 32 1) base (some stride) sel s

/-- VLDX (R237, R239). -/
def execVldx (sel : MaskSel) (q : Fin 4) (base : Reg) (list : Reg) (sc : Fin 4) (s : State) : Out :=
  loadHere (.indexed sel q sc) ((encVLDX sel q base list sc : VFields).toWord 32 2) base (some list) sel s

/-- VLDFF (R241). -/
def execVldff (sel : MaskSel) (q : Fin 4) (base : Reg) (m : MaskReg) (off : BitVec 16) (s : State) : Out :=
  loadHere (.firstFault q m off) ((encVLDFF sel q base m off : VFields).toWord 32 3) base none sel s

/-- VST (R237, R240). -/
def execVst (sel : MaskSel) (q : Fin 2) (base : Reg) (off : BitVec 16) (s : State) : Out :=
  elementStore q base none sel (.unit (off.signExtend 64)) s

/-- VSTS (R237, R240). -/
def execVsts (sel : MaskSel) (q : Fin 2) (base : Reg) (stride : Reg) (s : State) : Out :=
  elementStore q base (some stride) sel .strided s

/-- VSTX (R237, R240). -/
def execVstx (sel : MaskSel) (q : Fin 2) (base : Reg) (list : Reg) (sc : Fin 4) (s : State) : Out :=
  elementStore q base (some list) sel (.indexed sc.val) s

/-- VLDW (R242). -/
def execVldw (q : Fin 4) (base : Reg) (off : BitVec 16) (s : State) : Out :=
  loadHere (.lanes q off) ((encIMGL q base off : VFields).toWord 32 7) base none none s

/-- VSTW (R242). -/
def execVstw (q : Fin 2) (base : Reg) (off : BitVec 16) (s : State) : Out := imageStore q base off false s

/-- VSPL (R243). -/
def execVspl (q : Fin 2) (base : Reg) (off : BitVec 16) (s : State) : Out := imageStore q base off true s

/-- VFIL (R243). -/
def execVfil (q : Fin 4) (base : Reg) (off : BitVec 16) (s : State) : Out :=
  loadHere (.packed q off) ((encIMGL q base off : VFields).toWord 32 10) base none none s

/-- VAMO (R244). -/
def execVamo (sel : MaskSel) (q : Fin 2) (base : Reg) (list : Reg) (sc : Fin 4) (op : VAmoOp) (ret : Option (Fin 4)) (s : State) : Out :=
  vectorAtomic sel q base list sc op ret s

end Sys2Proof.Machine
end

