-- ==== Sys2Proof/Machine/Engines.lean ====
section
/-! DEFINITION. The engines: commands and tags as the Pacer issues and observes them, and the Shuttle, Photo-finish, Seam and
the cache operations as they run and complete (R109, R111 to R127, R248 to R254, R392). -/
namespace Sys2Proof.Machine

open Sys2Proof

/-! ### Ranges of bytes -/

/-- Consecutive bytes cut at the multiples of m. -/
def cutRange (m a n : Nat) : List (Nat × Nat) :=
  if n = 0 then []
  else
    (List.range ((a + n - 1) / m - a / m + 1)).map fun k =>
      let lo := max a ((a / m + k) * m)
      (lo, min (a + n) ((a / m + k + 1) * m) - lo)

/-- Probing a range of virtual addresses, page by page (R120); each page's bytes wait at a fenced unit (R130). -/
def probePages (s : State) (h : Hart) (k : AccessKind) : List (Nat × Nat) → Except (Word × Stop) (List Span)
  | [] => .ok []
  | (a, n) :: rest =>
    let va := BitVec.ofNat 64 a
    match translate s h.core h.part va k true, probePages s h k rest with
    | .error e, _ => .error (va, e)
    | .ok _, .error e => .error e
    | .ok (loc, cached), .ok sp => if accessFenced s loc n cached then .error (va, .fenced) else .ok (⟨loc, n, cached⟩ :: sp)

def probeRange (s : State) (h : Hart) (k : AccessKind) (va : Word) (n : Nat) : Except (Word × Stop) (List Span) :=
  probePages s h k (cutRange 4096 va.toNat n)

/-- A source byte as a command has read it already, else as it reads it now. -/
def keptAt (kept : List (Nat × Byte × Bool)) (loc : Nat) (now : Byte × Bool) : Byte × Bool :=
  ((kept.find? fun k => k.1 == loc).map (·.2)).getD now

/-- The bytes of spans as a Shuttle reads them, each with whether its unit of 64 bytes carries poison (R120). -/
def readSpans (die : Nat) (kept : List (Nat × Byte × Bool)) : State → List (Nat × Nat × Bool) → State × List (Byte × Bool)
  | s, [] => (s, [])
  | s, (loc, n, cached) :: rest =>
    let (s, bs, bad) := dieRead s die loc n cached
    let (s, more) := readSpans die kept s rest
    (s, bs.zipIdx.map (fun b => keptAt kept (loc + b.2) (b.1, bad)) ++ more)

/-- Spans cut at the multiples of m. -/
def cutSpans (m : Nat) (sp : List Span) : List (Nat × Nat × Bool) :=
  sp.flatMap fun p => (cutRange m p.loc p.len).map fun c => (c.1, c.2, p.cached)

/-- A piece to be written: location, bytes with their poison, cacheability. -/
abbrev Piece := Nat × List (Byte × Bool) × Bool

/-- Laying bytes over pieces. -/
def layPieces : List (Nat × Nat × Bool) → List (Byte × Bool) → List Piece
  | [], _ => []
  | (loc, n, cached) :: rest, bs => (loc, bs.take n, cached) :: layPieces rest (bs.drop n)

/-- A piece is stored: the bytes, and those of poison as poison. A command's writes are at the home when it completes, so the
old data that R137 allows a filler without `FENCE.vs.p` to leave never occurs (log 8). -/
def storePiece (die : Nat) (s : State) (p : Piece) : State :=
  let s := storeThrough s die p.1 (p.2.1.map (·.1)) false
  (p.2.1.zipIdx.filter fun b => b.1.2).foldl (fun s b => storeThrough s die (p.1 + b.2) [b.1.1] true) s

/-! ### The queues (R111, R112, R248) -/

/-- A tag whose command has not completed. -/
def tagOutstanding (h : Hart) (t : Fin 64) : Bool := h.pacer.engines.toList.any fun q => q.any fun c => c.tag == some t

/-- Whether R112 refuses a tag. -/
def tagRefused (h : Hart) (t : Fin 64) : Bool := tagOutstanding h t || h.pacer.tagmap.getLsbD t.val

def modQueue (s : State) (i : Nat) (q : Fin 4) (f : List EngineCmd → List EngineCmd) : State :=
  modPacer s i fun p => { p with engines := p.engines.set q (f p.engines[q]) }

/-- A command of no batch yet, not started. -/
def EngineCmd.fresh (op : EngineOp) (core : Nat) (tag : Option (Fin 64)) : EngineCmd :=
  ⟨op, core, tag, false, 0, [], [], false, none, false, [], false, none, []⟩

/-- A command waits while its queue is full, and while an access that R135 orders before it cannot be performed; then those
accesses are performed, dirty L1 lines included (R114), and its queue accepts it (R248). -/
def enqueue (s : State) (i : Nat) (q : Fin 4) (op : EngineOp) (tag : Option (Fin 64)) : Out :=
  match s.harts[i]? with
  | none => .next s
  | some h =>
    if 16 ≤ h.pacer.engines[q].length || !allSettle s h then .next s
    else
      let s := modQueue (settleScalar (settleVector s i) i h.core) i q fun cs => cs ++ [.fresh op h.core tag]
      .next (modHart s i fun h => h.advance .pacer)

/-- A command of checked operands (R248): 0x10 where a limit or the tag refuses it. -/
def issue (s : State) (i : Nat) (h : Hart) (q : Fin 4) (ok : Bool) (op : EngineOp) (tag : Option (Fin 64)) : Out :=
  if !ok || (match tag with | some t => tagRefused h t | none => false) then trapHere s i h .pacer 0x10
  else enqueue s i q op tag

/-- A signed pitch below 2^40 in magnitude (R117). -/
def pitchOk (w : Word) : Bool := decide (w.toInt.natAbs < 2 ^ 40)

def isNearVa (a : Nat) : Bool := decide (0xF000000000000 ≤ a) && decide (a < 0xF000140000000)
def isMappedVa (a : Nat) : Bool := decide (a < 0xF000000000000)

/-- An address a signed pitch away from a base. -/
def rowVa (base pitch : Word) (j : Nat) : Word := base + BitVec.ofNat 64 j * pitch

/-- Whether the swizzle is accepted (R118): every row of the destination in near memory, row bytes and pitch multiples of 256. -/
def swizzleOk (dst dpitch : Word) (rows rowBytes : Nat) : Bool :=
  let near := fun (j : Nat) =>
    let a := (rowVa dst dpitch j).toNat
    isNearVa a && isNearVa (a + (rowBytes - 1))
  ((List.range rows).all near) && isNearVa dst.toNat &&
    decide (rowBytes % 256 = 0) && decide (dpitch.toNat % 256 = 0)

/-! ### Parameter blocks (R113, R121, R125) -/

def pfTypeOk (n : Nat) : Bool := n == 1 || n == 5 || n == 9 || n == 10 || n == 11
def seamTypeOk (n : Nat) : Bool := n == 5 || n == 9 || n == 10 || n == 11

/-- The width in bytes of a type code. -/
def codeBytes (ty : Nat) : Nat := ((ElemType.ofCode ty).map fun t => width t / 8).getD 1

def PfBlock.ofNat (n : Nat) : PfBlock where
  op := n % 2 ^ 8
  ty := n / 2 ^ 8 % 2 ^ 8
  cond := n / 2 ^ 16 % 2 ^ 8
  mask := n.testBit 24
  limit := n / 2 ^ 32 % 2 ^ 32
  src := n / 2 ^ 64 % 2 ^ 64
  count := n / 2 ^ 128 % 2 ^ 64
  maskAddr := n / 2 ^ 192 % 2 ^ 64
  dst := n / 2 ^ 256 % 2 ^ 64
  thresh := n / 2 ^ 320 % 2 ^ 64

/-- The bytes of the values in a result area (R123). -/
def pfValueBytes (b : PfBlock) : Nat := (b.limit * codeBytes b.ty + 63) / 64 * 64

/-- The whole result area (R123). -/
def pfArea (b : PfBlock) : Nat := 64 + pfValueBytes b + (4 * b.limit + 63) / 64 * 64

/-- Whether a near range lies in slices of a partition. -/
def nearInPart (s : State) (part : Fin 8) (a n : Nat) : Bool :=
  isNearVa a && isNearVa (a + n - 1) &&
    (cutRange (2 ^ 24) (a - 0xF000000000000) n).all fun c => partHasCore s part (c.1 / 2 ^ 24)

/-- What R121 and R123 ask of a block, and of the instruction that names it (R250). -/
def pfBlockOk (s : State) (part : Fin 8) (scan : Bool) (n : Nat) : Bool :=
  let b := PfBlock.ofNat n
  let w := codeBytes b.ty
  pfTypeOk b.ty && (if scan then b.op == 2 && decide (b.cond ≤ 5) else decide (b.op ≤ 1) && b.cond == 0) &&
    decide (n / 2 ^ 25 % 2 ^ 7 = 0) && decide (n / 2 ^ 384 = 0) && decide (1 ≤ b.limit) &&
    decide (b.limit ≤ if scan then 65536 else 1024) && isMappedVa b.src && decide (b.src % w = 0) &&
    decide (1 ≤ b.count) && decide (b.count ≤ 2 ^ 32) && (if b.mask then isMappedVa b.maskAddr else b.maskAddr == 0) &&
    decide (b.dst % 64 = 0) && nearInPart s part b.dst (pfArea b) && decide (b.thresh < 2 ^ (8 * w))

def SeamBlock.ofNat (n : Nat) : SeamBlock where
  op := n % 2 ^ 8
  ty := n / 2 ^ 8 % 2 ^ 8
  nbuf := n / 2 ^ 16 % 2 ^ 8
  shift := n / 2 ^ 24 % 2 ^ 4
  scope := n / 2 ^ 28 % 2 ^ 4
  count := n / 2 ^ 32 % 2 ^ 32
  base := n / 2 ^ 64 % 2 ^ 64
  dst := n / 2 ^ 128 % 2 ^ 64
  flagAddr := n / 2 ^ 192 % 2 ^ 64
  flagVal := n / 2 ^ 256 % 2 ^ 16
  offs := (List.range 15).map fun k => n / 2 ^ (272 + 16 * k) % 2 ^ 16

/-- What R125 asks of a block. -/
def seamBlockOk (n : Nat) : Bool :=
  let b := SeamBlock.ofNat n
  let w := codeBytes b.ty
  decide (b.op ≤ 2) && seamTypeOk b.ty && decide (1 ≤ b.nbuf) && decide (b.nbuf ≤ 16) && decide (b.scope ≤ 4) &&
    decide (1 ≤ b.count) && isMappedVa b.base && decide (b.base % w = 0) && isMappedVa b.dst && decide (b.dst % w = 0) &&
    (isMappedVa b.flagAddr || isNearVa b.flagAddr) && decide (b.flagAddr % 8 = 0) &&
    b.offs.zipIdx.all fun x => decide (x.2 + 1 < b.nbuf) || x.1 == 0

/-- The block is read at issue as a Pacer load of 64 bytes, with that load's faults (R113). Whether a fault of that load, or the wait for it,
comes before a refused tag the spec does not say; the model reads the block first (log 36). -/
def withBlock (s : State) (i : Nat) (h : Hart) (blk : Reg) (go : State → Nat → Out) : Out :=
  let va := h.reg .pacer blk
  scalarAccess s i h 0x04 .load va 64 fun s loc cached =>
    let (s, bs, bad) := scalarRead (settleSide s i .scalar loc 64) h.core loc 64 cached
    if bad then .next (trapAt s i h .pacer 0x08 va) else go s (leNat bs)

def photoIssue (scan : Bool) (tag : Fin 64) (blk : Reg) (s : State) : Out :=
  onPacer s fun i h _ =>
    withBlock s i h blk fun s n => issue s i h 1 (pfBlockOk s h.part scan n) (.photo (PfBlock.ofNat n)) (some tag)

def seamIssue (tag : Fin 64) (blk : Reg) (s : State) : Out :=
  onPacer s fun i h _ => withBlock s i h blk fun s n => issue s i h 2 (seamBlockOk n) (.seam (SeamBlock.ofNat n)) (some tag)

/-- FCINV and FCWB (R251). A len of 0 with an address above 2^52 acts on nothing and yet lies beyond 2^52; the model raises 0x10 (log 36). -/
def cacheIssue (inv : Bool) (a len : Reg) (s : State) : Out :=
  onPacer s fun i h _ =>
    let va := (h.reg .pacer a).toNat
    let n := (h.reg .pacer len).toNat
    issue s i h 3 (decide (va + n ≤ 2 ^ 52)) (if inv then .fcinv va n else .fcwb va n) none

/-! ### The head of a queue -/

/-- The command at the head of a queue. -/
def headCmd (h : Hart) (q : Fin 4) : Option EngineCmd := h.pacer.engines[q].head?

def setHead (s : State) (i : Nat) (q : Fin 4) (c : EngineCmd) : State := modQueue s i q fun cs => c :: cs.tail

/-! ### Completing (R112, R115, R116, R392) -/

/-- ORing a completion into the saved words of an area, and OUTST less one (R392); the device's own copy follows. -/
def noteSaved (s : State) (i : Nat) (h : Hart) (tag : Option (Fin 64)) (err : Bool) : State :=
  let base := slotLoc s.parts[h.part].psave h.slot
  let bit := match tag with
    | some t => 2 ^ t.val
    | none => 0
  let orWord := fun (area : List Byte) (off v : Nat) =>
    patchBytes area off (leBytes 8 (leNat ((area.drop off).take 8) ||| v))
  let map := section2 h.area + 96
  let area := orWord (orWord h.area map bit) (map + 8) (if err then bit else 0)
  let area := patchBytes area 32 (leBytes 4 (h.outst - 1))
  let atHome := fun (s : State) (off n : Nat) (f : Nat → Nat) =>
    homeWrite s (base + off) (leBytes n (f (leNat (homeRead s (base + off) n).1))) false
  let s := atHome (atHome s map 8 (· ||| bit)) (map + 8) 8 (· ||| if err then bit else 0)
  let s := atHome s 32 4 (· - 1)
  modHart s i fun h => { h with area := area, outst := h.outst - 1 }

/-- A command completes: its queue goes on, its tag's bits are set, what it wrote waits to be observed. -/
def completeCmd (s : State) (i : Nat) (q : Fin 4) (tag : Option (Fin 64)) (err : Bool) (ranges : List (Nat × Nat)) : State :=
  match s.harts[i]? with
  | none => s
  | some h =>
    let s := if h.mode == .saved || h.mode == .trapped then noteSaved s i h tag err else s
    modPacer (modQueue s i q List.tail) i fun p =>
      match tag with
      | none => p
      | some t =>
        let bit : Word := BitVec.ofNat 64 (2 ^ t.val)
        { p with
          tagmap := p.tagmap ||| bit
          tagerr := if err then p.tagerr ||| bit else p.tagerr
          wrote := p.wrote ++ [⟨q, t, ranges⟩] }

/-- What a stopped engine access does: a missing translation posts a record and waits for the replay (R115), a host page for
its answer, of a Photo-finish region too, which ends with PLACE after it: R124 does not say whether the host is asked first (log 11); a fenced unit is waited for; a hole is a fault. Anything else is left to fail. -/
def engineStop (s : State) (i : Nat) (h : Hart) (q : Fin 4) (c : EngineCmd) (k : AccessKind) (e : Stop) (fail : Out) : Out :=
  match e with
  | .trap _ _ => fail
  | .fenced => .next s
  | .hole loc => .fault (.physicalHole loc)
  | .missing a level cause =>
    let tok := s.nextToken
    let s := setHead { s with nextToken := tok + 1, waiters := s.waiters ++ [(tok, .engine i q)] } i q { c with token := some tok }
    .next (postRecord s h.part (faultRecord a k.code level cause (q.val + 2) tok h.gang h.hartid))
  | .ats page =>
    if priFull s h.part then .next s
    else
      let tok := s.nextToken
      .next (setHead { s with nextToken := tok + 1, requests := s.requests ++ [⟨h.part, page, tok, .engine i q⟩] } i q
        { c with token := some tok })

/-- Whether a completion would have to change a save area that lies in a fenced unit. -/
def noteWaits (s : State) (h : Hart) : Bool := (h.mode == .saved || h.mode == .trapped) && areaFenced s h

/-- Running the head of a queue that has started and waits for nothing, on the core that issued it (R109, R125). -/
def withHead (s : State) (i : Nat) (q : Fin 4) (go : Hart → EngineCmd → Out) : Out :=
  match s.harts[i]? with
  | none => .next s
  | some h =>
    match headCmd h q with
    | none => .next s
    | some c => if !c.started || c.token.isSome || noteWaits s h then .next s else go { h with core := c.core } c

/-! ### The Shuttle (R117 to R120) -/

def spansLen (sp : List Span) : Nat := (sp.map Span.len).sum

/-- The bytes of a row under the swizzle: chunk c stands at the chunk whose number in its 16 is c XOR the row (R118). -/
def swizzleRow {α : Type} (default : α) (r : Nat) (bs : List α) : List α :=
  (List.range bs.length).map fun y =>
    let c := y / 16
    bs.getD ((c / 16 * 16 + ((c % 16) ^^^ (r % 16))) * 16 + y % 16) default

def jobBytes (die : Nat) (swizzle : Bool) (kept : List (Nat × Byte × Bool)) (s : State) (j : RowJob) : State × List (Byte × Bool) :=
  match j.fill with
  | some f => (s, List.replicate (spansLen j.dst) f)
  | none =>
    let (s, bs) := readSpans die kept s (cutSpans 64 j.src)
    (s, if swizzle then swizzleRow (0, false) j.row bs else bs)

/-- The locations of spans' bytes. -/
def spansLocs (sp : List Span) : List Nat := sp.flatMap fun p => (List.range p.len).map (p.loc + ·)

/-- Each byte of a row's destination with the source byte that goes there. -/
def jobPairs (swizzle : Bool) (j : RowJob) : List (Nat × Nat) :=
  let from_ := spansLocs j.src
  (spansLocs j.dst).zip (if swizzle then swizzleRow 0 j.row from_ else from_)

def readJobs (die : Nat) (swizzle : Bool) (kept : List (Nat × Byte × Bool)) : State → List RowJob → State × List (RowJob × List (Byte × Bool))
  | s, [] => (s, [])
  | s, j :: js =>
    let (s, bs) := jobBytes die swizzle kept s j
    let (s, rest) := readJobs die swizzle kept s js
    (s, (j, bs) :: rest)

/-- Source bytes that are kept as they are read now, unless they were before; the unit of 64 bytes decides of poison (R120). -/
def keepSources (die : Nat) (sources : List Span) (locs : List Nat) (s : State) (kept : List (Nat × Byte × Bool)) :
    State × List (Nat × Byte × Bool) :=
  locs.foldl (fun acc l =>
    if acc.2.any fun k => k.1 == l then acc
    else
      match (cutSpans 64 sources).find? fun x => decide (x.1 ≤ l) && decide (l < x.1 + x.2.1) with
      | none => acc
      | some x =>
        let (s, bs, bad) := dieRead acc.1 die x.1 x.2.1 x.2.2
        (s, acc.2 ++ [(l, bs.getD (l - x.1) 0, bad)])) (s, kept)

def spansMeet (a b : List Span) : Bool := a.any fun x => b.any fun y => rangesMeet x.loc x.len y.loc y.len

/-- Whether two rows of a command write the same byte. -/
def rowsMeet : List RowJob → Bool
  | [] => false
  | j :: js => (js.any fun k => spansMeet j.dst k.dst) || rowsMeet js

/-- An order that no rule fixes, picked by free values (R117, log 6). -/
def freeOrder {α : Type} (free : Nat) : Nat → List α → List α
  | 0, l => l
  | n + 1, l =>
    match l with
    | [] => []
    | x :: xs =>
      let k := (Config.freeBits free).toNat % (x :: xs).length
      (x :: xs).getD k x :: freeOrder (free + 1) n ((x :: xs).eraseIdx k)

/-- A destination byte that overlaps a source byte of its command is undefined (R117, R6). -/
def blurPiece (inputs : List Nat) (sources : List Span) (p : Piece) : Piece :=
  (p.1, p.2.1.zipIdx.map fun b =>
    if sources.any fun x => rangesMeet x.loc x.len (p.1 + b.2) 1 then ((Config.undefined inputs (p.1 + b.2)).setWidth 8, false) else b.1,
    p.2.2)

/-- What the undefined bytes of an overlapping `CPY` or `CPY2` are a function of (R6): where it reads, where it writes and what. -/
def blurInputs (sources : List Span) (ps : List Piece) : List Nat :=
  36 :: sources.flatMap (fun x => [x.loc, x.len]) ++ ps.flatMap fun p => p.1 :: p.2.1.map fun b => b.1.toNat

def inRanges (rs : List (Nat × Nat)) (loc : Nat) : Bool := rs.any fun r => rangesMeet r.1 r.2 loc 1

/-- A piece without the bytes that a test finds. -/
def dropBytes (skip : Nat → Bool) (p : Piece) : List Piece :=
  if (List.range p.2.1.length).any fun k => skip (p.1 + k) then
    p.2.1.zipIdx.filterMap fun b => if skip (p.1 + b.2) then none else some (p.1 + b.2, [b.1], p.2.2)
  else [p]

/-- The pieces that the rows of a command or of one of its batches write, in the order in which they land, and whether a unit read
poison. Rows that write the same byte land in a free order. blur gives what an undefined byte of them is a function of. -/
def jobPieces (s : State) (die : Nat) (swizzle : Bool) (sources : List Span) (blur : List Piece → List Nat) (kept : List (Nat × Byte × Bool))
    (js : List RowJob) :
    State × List Piece × Bool :=
  let (s, rows) := readJobs die swizzle kept s js
  let bad := rows.any fun r => r.1.fill.isNone && r.2.any (·.2)
  let meet := rowsMeet js
  let pieces := rows.flatMap fun r => layPieces (cutSpans (if meet then 8 else 64) r.1.dst) r.2
  let order := if meet then freeOrder s.free pieces.length pieces else pieces
  let s := if meet then { s with free := s.free + pieces.length } else s
  (s, if spansMeet sources (js.flatMap RowJob.dst) then order.map (blurPiece (blur pieces) sources) else order, bad)

def pieceLocs (p : Piece) : List Nat := (List.range p.2.1.length).map (p.1 + ·)

/-- Reading the rows and writing what of them has not landed; the sources that are overwritten are kept, so that nothing that the command
writes depends on the order in which it does (R6, R117). A byte that an earlier batch of the command has written may, by a
free choice for its word, have been written by this one before (R117: in no defined order); one that overlaps a source has its undefined value
either way (R6). -/
def runJobs (s : State) (die : Nat) (swizzle : Bool) (sources : List Span) (blur : List Piece → List Nat) (c : EngineCmd) (js : List RowJob) :
    State × List (Nat × Byte × Bool) × Bool :=
  let (s, pieces, bad) := jobPieces s die swizzle sources blur c.kept js
  let before := fun (loc : Nat) =>
    inRanges c.wrote loc && !spansMeet sources [⟨loc, 1, false⟩] && (Config.freeBits (s.free + loc / 8)).getLsbD 0
  let pieces := pieces.flatMap (dropBytes fun loc => inRanges c.landed loc || before loc)
  let s := if c.wrote.isEmpty then s else { s with free := s.free + 2 ^ 72 }
  let (s, kept) := keepSources die sources (pieces.flatMap pieceLocs) s c.kept
  (pieces.foldl (storePiece die) s, kept, bad)

/-- A free part of the pieces lands before the command completes (R117, R287). Of each aligned source word that has gone into them the rest
is kept, so that the word is copied from before a store to it or from after, never from both (R130). The rows stay as they were probed
(R120). -/
def landSome (s : State) (i : Nat) (die : Nat) (swizzle : Bool) (sources : List Span) (blur : List Piece → List Nat) (c : EngineCmd)
    (js : List RowJob) (odd : Bool) : State :=
  let (s, pieces, bad) := jobPieces s die swizzle sources blur c.kept js
  let some := (pieces.zipIdx.filter fun p => (Config.freeBits (s.free + p.2)).getLsbD 0).map (·.1)
  let landed := some.map fun p => (p.1, p.2.1.length)
  let words := ((js.flatMap (jobPairs swizzle)).filter fun x => inRanges landed x.1).map fun x => x.2 / 8
  let shared := (spansLocs (js.flatMap RowJob.src)).filter fun l => words.contains (l / 8)
  let (s, kept) := keepSources die sources (shared ++ some.flatMap pieceLocs) s c.kept
  let s := { some.foldl (storePiece die) s with free := s.free + pieces.length }
  setHead s i 0
    { c with failed := c.failed || (bad && !some.isEmpty), landed := landed, kept := kept, plan := .some (js, odd), sources := sources }

def rangesOf (js : List RowJob) : List (Nat × Nat) := js.flatMap fun j => j.dst.map fun p => (p.loc, p.len)

/-- Probing the rows of CPY and CPY2: sources as reads, destinations as writes. -/
def copyJobs (s : State) (h : Hart) (rowBytes : Nat) : List (Nat × Word × Word) → Except (AccessKind × Word × Stop) (List RowJob)
  | [] => .ok []
  | (j, d, a) :: rest =>
    match probeRange s h .engineRead a rowBytes, probeRange s h .engineWrite d rowBytes, copyJobs s h rowBytes rest with
    | .error e, _, _ => .error (.engineRead, e)
    | .ok _, .error e, _ => .error (.engineWrite, e)
    | .ok _, .ok _, .error e => .error e
    | .ok sp, .ok dp, .ok js => .ok (⟨sp, dp, j, none⟩ :: js)

/-- Whether rows that have been probed wait at a fenced unit (R130). -/
def jobsFenced (s : State) (js : List RowJob) : Bool := js.any fun j => (j.src ++ j.dst).any fun p => accessFenced s p.loc p.len p.cached

/-- CPY and CPY2: every page is probed before anything is written, and once; a failure writes nothing (R120). -/
def copyRun (s : State) (i : Nat) (h : Hart) (c : EngineCmd) (swizzle : Bool) (rowBytes : Nat) (rows : List (Nat × Word × Word)) : Out :=
  let run := fun (js : List RowJob) =>
    let sources := js.flatMap RowJob.src
    let (s, _, bad) := runJobs s (coreDie h.core) swizzle sources (blurInputs sources) c js
    Host.Outcome.next (completeCmd s i 0 c.tag (bad || c.failed) (rangesOf js))
  match c.plan with
  | some (js, _) => if jobsFenced s js then .next s else run js
  | none =>
    if c.declined then .next (completeCmd s i 0 c.tag true c.landed)
    else
      match copyJobs s h rowBytes rows with
      | .error (k, _, e) => engineStop s i h 0 c k e (.next (completeCmd s i 0 c.tag true c.landed))
      | .ok js => run js

/-- The operands of a CPYX. -/
structure GatherOp where
  dst : Word
  dpitch : Word
  base : Word
  tpitch : Word
  rowBytes : Nat
  list : Word
  count : Nat
  limit : Nat
  swizzle : Bool

/-- The entries of the index list from j on: an index, or none where it carries poison (R119). -/
def listEntries (s : State) (h : Hart) (g : GatherOp) : List Nat → Except (AccessKind × Word × Stop) (State × List (Nat × Option Nat))
  | [] => .ok (s, [])
  | j :: js =>
    let va := g.list + BitVec.ofNat 64 (4 * j)
    match translate s h.core h.part va .engineRead true with
    | .error e => .error (.engineRead, va, e)
    | .ok (loc, cached) =>
      let (s, bs, bad) := dieRead s (coreDie h.core) loc 4 cached
      match listEntries s h g js with
      | .error e => .error e
      | .ok (s, xs) => .ok (s, (j, if bad then none else some (leNat bs)) :: xs)

/-- The rows of a batch: a table row; zeros for an index at or above N; poison for a poisoned index (R119). -/
def gatherJobs (s : State) (h : Hart) (g : GatherOp) : List (Nat × Option Nat) → Except (AccessKind × Word × Stop) (List RowJob)
  | [] => .ok []
  | (j, idx) :: rest =>
    match probeRange s h .engineWrite (rowVa g.dst g.dpitch j) g.rowBytes, gatherJobs s h g rest with
    | .error e, _ => .error (.engineWrite, e)
    | .ok _, .error e => .error e
    | .ok dp, .ok js =>
      match idx with
      | none => .ok (⟨[], dp, j, some (0, true)⟩ :: js)
      | some k =>
        if g.limit ≤ k then .ok (⟨[], dp, j, some (0, false)⟩ :: js)
        else
          match probeRange s h .engineRead (rowVa g.base g.tpitch k) g.rowBytes with
          | .error e => .error (.engineRead, e)
          | .ok sp => .ok (⟨sp, dp, j, none⟩ :: js)

/-- What the undefined bytes of an overlapping `CPYX` are a function of (R6): its operands (log 37). -/
def gatherInputs (g : GatherOp) : List Nat :=
  [36, g.dst.toNat, g.dpitch.toNat, g.base.toNat, g.tpitch.toNat, g.rowBytes, g.list.toNat, g.count, g.limit, bitNat g.swizzle 0]

/-- The source bytes of the whole command, as far as they translate now: bytes of table rows. R117 does not say whether the bytes of the index
list count as source bytes too; the model counts table rows alone (log 37). -/
def gatherSources (s : State) (h : Hart) (g : GatherOp) : List Span :=
  (List.range g.count).flatMap fun j =>
    match listEntries s h g [j] with
    | .ok (_, [(_, some k)]) =>
      if g.limit ≤ k then []
      else
        match probeRange s h .engineRead (rowVa g.base g.tpitch k) g.rowBytes with
        | .ok sp => sp
        | .error _ => []
    | _ => []

/-- Sources become known. Bytes that the command has written over them, which nothing told to be source bytes then, get their undefined value
(R117, R6). -/
def blurWritten (s : State) (die : Nat) (g : GatherOp) (c : EngineCmd) (known : List Span) : State :=
  known.foldl (fun s p =>
    (List.range p.len).foldl (fun s k =>
      let loc := p.loc + k
      if inRanges (c.wrote ++ c.landed) loc && !spansMeet c.sources [⟨loc, 1, false⟩] then
        storeThrough s die loc [(Config.undefined (gatherInputs g) loc).setWidth 8] false
      else s) s) s

/-- The rows of the batch a CPYX stands at. -/
def batchRows (g : GatherOp) (c : EngineCmd) : List Nat :=
  (List.range 8).filterMap fun k => if 8 * c.batch + k < g.count then some (8 * c.batch + k) else none

/-- The jobs of a batch, and whether one of its indices is poisoned or at or above N. -/
def batchJobs (s : State) (h : Hart) (g : GatherOp) (js : List Nat) : Except (AccessKind × Word × Stop) (State × List RowJob × Bool) :=
  match listEntries s h g js with
  | .error e => .error e
  | .ok (s, xs) =>
    match gatherJobs s h g xs with
    | .error e => .error e
    | .ok jobs =>
      .ok (s, jobs, xs.any fun x => match x.2 with
        | some k => decide (g.limit ≤ k)
        | none => true)

/-- The rows of the batch under way: as they were probed when the command started (R120), else probed now. -/
def nextBatch (s : State) (h : Hart) (g : GatherOp) (c : EngineCmd) : Except (AccessKind × Word × Stop) (State × List RowJob × Bool) :=
  match c.plan with
  | some (js, odd) => if jobsFenced s js then .error (.engineRead, 0, .fenced) else .ok (s, js, odd)
  | none => batchJobs s h g (batchRows g c)

/-- CPYX, batch by batch (R117, R120): a batch whose probe fails, or whose replay the driver has declined (R115), leaves its rows
unwritten; the others go on. fuel bounds the batches left. -/
def gatherRun (i : Nat) (g : GatherOp) : Nat → State → Hart → EngineCmd → Out
  | 0, s, _, c => .next (completeCmd s i 0 c.tag c.failed c.wrote)
  | n + 1, s, h, c =>
    if (batchRows g c).isEmpty then .next (completeCmd s i 0 c.tag c.failed c.wrote)
    else
      let next := fun (failed : Bool) (ranges : List (Nat × Nat)) (kept : List (Nat × Byte × Bool)) (sources : List Span) =>
        { c with
          batch := c.batch + 1, wrote := c.wrote ++ ranges, landed := [], failed := c.failed || failed, declined := false, kept := kept
          plan := none, sources := sources }
      let skipped := next true c.landed c.kept c.sources
      let fail := gatherRun i g n (setHead s i 0 skipped) h skipped
      if c.declined then fail
      else
        match nextBatch s h g c with
        | .error (k, _, e) => engineStop (setHead s i 0 c) i h 0 c k e fail
        | .ok (s, jobs, odd) =>
          let die := coreDie h.core
          let known := jobs.flatMap RowJob.src ++ gatherSources s h g
          let s := blurWritten s die g c known
          let sources := (c.sources ++ known).dedup
          let (s, kept, bad) := runJobs s die g.swizzle sources (fun _ => gatherInputs g) c jobs
          let c' := next (bad || odd) (rangesOf jobs) kept sources
          gatherRun i g n (setHead s i 0 c') h c'

def copyRows (op : EngineOp) : Option (Bool × Nat × List (Nat × Word × Word)) :=
  match op with
  | .copy d a n => some (false, n, if n = 0 then [] else [(0, BitVec.ofNat 64 d, BitVec.ofNat 64 a)])
  | .copy2 d a rows rowBytes sp dp sw => some (sw, rowBytes, (List.range rows).map fun j => (j, rowVa d dp j, rowVa a sp j))
  | _ => none

def gatherOp (op : EngineOp) : Option GatherOp :=
  match op with
  | .copyX d dp b tp rowBytes list count limit sw => some ⟨d, dp, b, tp, rowBytes, list, count, limit, sw⟩
  | _ => none

/-- SHUTTLE_COMPLETE: the command at the head of queue 0 runs and completes (R117 to R120). A command that waits for a replay
goes on with the next such event. -/
def shuttleStep (s : State) (i : Nat) : Out :=
  withHead s i 0 fun h c =>
    match copyRows c.op, gatherOp c.op with
    | some (sw, n, rows), _ => copyRun s i h c sw n rows
    | none, some g => gatherRun i g ((g.count + 7) / 8 - c.batch + 1) s h c
    | none, none => .next s

/-! ### Starting (R114, R135) -/

/-- What a command does as it starts: a copy may have written a part of what it writes (of its first batch) before it completes; the
writes performed while a Seam command runs are noted (R130). -/
def startOp (s : State) (i : Nat) (h : Hart) (c : EngineCmd) : State :=
  match c.op with
  | .seam _ => { s with seams := ⟨i, []⟩ :: s.seams.filter fun w => w.hart != i }
  | _ =>
    match copyRows c.op, gatherOp c.op with
    | some (sw, n, rows), _ =>
      match copyJobs s h n rows with
      | .ok js =>
        let sources := js.flatMap RowJob.src
        if js.isEmpty then s else landSome s i (coreDie h.core) sw sources (blurInputs sources) c js false
      | .error _ => s
    | none, some g =>
      match batchJobs s h g (batchRows g c) with
      | .ok (s, js, odd) =>
        let sources := (js.flatMap RowJob.src ++ gatherSources s h g).dedup
        if js.isEmpty then s else landSome s i (coreDie h.core) g.swizzle sources (fun _ => gatherInputs g) c js odd
      | .error _ => s
    | none, none => s

/-- ENGINE_COMMAND_START: what R135 orders before the head was performed before its queue accepted it (R248). -/
def engineStart (s : State) (i : Nat) (q : Fin 4) : State :=
  match s.harts[i]? with
  | none => s
  | some h =>
    match headCmd h q with
    | none => s
    | some c =>
      if c.started then s
      else
        let c := { c with started := true }
        startOp (setHead s i q c) i { h with core := c.core } c

/-! ### Photo-finish (R121 to R124) -/

/-- A far location that Photo-finish may read: mapped, device far memory, readable; place says that it may not (R124). -/
def pfLoc (s : State) (h : Hart) (va : Nat) : Except Stop Nat :=
  if !isMappedVa va then .error (.trap 0x07 (BitVec.ofNat 64 va))
  else
    match translate s h.core h.part (BitVec.ofNat 64 va) .engineRead false with
    | .error e => .error e
    | .ok (loc, _) => if regionOf loc == .far then .ok loc else .error (.trap 0x07 (BitVec.ofNat 64 va))

/-- The locations of a range, page by page. -/
def pfSpans (s : State) (h : Hart) : List (Nat × Nat) → Except (Word × Stop) (List Span)
  | [] => .ok []
  | (a, n) :: rest =>
    match pfLoc s h a, pfSpans s h rest with
    | .error e, _ => .error (BitVec.ofNat 64 a, e)
    | .ok _, .error e => .error e
    | .ok loc, .ok sp => if rangeFenced s loc n then .error (BitVec.ofNat 64 a, .fenced) else .ok (⟨loc, n, false⟩ :: sp)

/-- Byte k of spans, at its home, with its poison. -/
def homeByte (s : State) : List Span → Nat → Byte × Bool
  | [], _ => (0, false)
  | p :: rest, k => if k < p.len then (Memory.read s.mem (p.loc + k), s.poison.contains (p.loc + k)) else homeByte s rest (k - p.len)

def homeBytes (s : State) (sp : List Span) (k n : Nat) : List Byte × Bool :=
  let bs := (List.range n).map fun j => homeByte s sp (k + j)
  (bs.map (·.1), bs.any (·.2))

/-- What the scan of a region has found: q, and the bits DATA and NANS. -/
structure Scan where
  q : List (Word × Nat)
  data : Bool
  nans : Bool

def condOf : Nat → Cond
  | 0 => .gt | 1 => .ge | 2 => .lt | 3 => .le | 4 => .eq | _ => .ne

/-- Whether an element of a type is a NaN. -/
def isNanElt (t : ElemType) (w : Word) : Bool :=
  match fmtOf t with
  | some f => (fDecode f (w.toNat % 2 ^ FloatFmt.width f)).isNan
  | none => false

/-- One element of R122. -/
def scanStepPf (s : State) (b : PfBlock) (t : ElemType) (region mask : List Span) (a : Scan) (i : Nat) : Scan :=
  let m := homeByte s mask (i / 8)
  if b.mask && m.2 then { a with data := true }
  else if b.mask && !m.1.toNat.testBit (i % 8) then a
  else
    let w := width t / 8
    let (bs, bad) := homeBytes s region (i * w) w
    let x := BitVec.ofNat 64 (leNat bs)
    if bad then { a with data := true }
    else if isNanElt t x then { a with nans := true }
    else if b.op == 2 && !(eltCond (condOf b.cond) t x (BitVec.ofNat 64 b.thresh)).1 then a
    else { a with q := a.q ++ [(x, i)] }

/-- The order of values in a top-k: +0 above −0 (R122). -/
def eltBelow (t : ElemType) (x y : Word) : Bool :=
  match fmtOf t with
  | some f => fBelowV (fDecode f (x.toNat % 2 ^ FloatFmt.width f)) (fDecode f (y.toNat % 2 ^ FloatFmt.width f))
  | none => decide (intVal t x < intVal t y)

/-- Inserting by value, after what came before with an equal value. -/
def insertBy (before : Word → Word → Bool) (x : Word × Nat) : List (Word × Nat) → List (Word × Nat)
  | [] => [x]
  | y :: ys => if before x.1 y.1 then x :: y :: ys else y :: insertBy before x ys

def orderPf (b : PfBlock) (t : ElemType) (q : List (Word × Nat)) : List (Word × Nat) :=
  match b.op with
  | 0 => q.foldl (fun acc x => insertBy (fun u v => eltBelow t v u) x acc) []
  | 1 => q.foldl (fun acc x => insertBy (eltBelow t) x acc) []
  | _ => q

/-- The header of R123. -/
def pfHeader (nrec qual : Nat) (nans trunc data place : Bool) : List Byte :=
  leBytes 64 (nrec + qual * 2 ^ 32 + bitNat nans 64 + bitNat trunc 65 + bitNat data 66 + bitNat place 67)

/-- The result: values, indices, then the header (R122, R123). -/
def photoResult (s : State) (b : PfBlock) (t : ElemType) (a : Scan) : State × List (Nat × Nat) :=
  let q := orderPf b t a.q
  let nrec := min b.limit q.length
  let top := q.take nrec
  let w := width t / 8
  let dst := nearLoc (b.dst - 0xF000000000000)
  let values := top.flatMap fun x => leBytes w x.1.toNat
  let indices := top.flatMap fun x => leBytes 4 x.2
  let s := homeWrite s (dst + 64) values false
  let s := homeWrite s (dst + 64 + pfValueBytes b) indices false
  let s := homeWrite s dst (pfHeader nrec (min q.length (2 ^ 32 - 1)) a.nans (b.op == 2 && decide (b.limit < q.length)) a.data false) false
  (s, [(dst, 64 + values.length), (dst + 64 + pfValueBytes b, indices.length)])

/-- PHOTO_FINISH_COMPLETE (R122 to R124): a region or mask that cannot be read leaves the header alone, with PLACE. -/
def photoStep (s : State) (i : Nat) : Out :=
  withHead s i 1 fun h c =>
    match c.op with
    | .photo b =>
      match ElemType.ofCode b.ty with
      | none => .next s
      | some t =>
        let dst := nearLoc (b.dst - 0xF000000000000)
        let place := Host.Outcome.next (completeCmd (homeWrite s dst (pfHeader 0 0 false false false true) false) i 1 c.tag true [(dst, 64)])
        if rangeFenced s dst (pfArea b) then .next s
        else if c.declined then place
        else
          match pfSpans s h (cutRange 4096 b.src (b.count * (width t / 8))) with
          | .error (_, e) => engineStop s i h 1 c .engineRead e place
          | .ok region =>
            match (if b.mask then pfSpans s h (cutRange 4096 b.maskAddr ((b.count + 7) / 8)) else .ok []) with
            | .error (_, e) => engineStop s i h 1 c .engineRead e place
            | .ok mask =>
              let a := (List.range b.count).foldl (scanStepPf s b t region mask) ⟨[], false, false⟩
              let (s, ranges) := photoResult s b t a
              .next (completeCmd s i 1 c.tag a.data ranges)
    | _ => .next s

/-! ### Seam (R125 to R127) -/

/-- Where buffer j starts. -/
def seamBuffer (b : SeamBlock) (j : Nat) : Nat :=
  if j = 0 then b.base else b.base + b.offs.getD (j - 1) 0 * 2 ^ (8 + b.shift)

/-- The stack of a stack-local far page, none for any other. -/
def localStack (s : State) (h : Hart) (va : Nat) : Option Nat :=
  match leafOf s h.core h.part va with
  | .ok l => if l.tgt == 0 && l.sl then some l.stack else none
  | .error _ => none

/-- The stack whose engine runs the command (R125). -/
def seamEngine (s : State) (h : Hart) (b : SeamBlock) : Nat :=
  match leafOf s h.core h.part b.base with
  | .ok l => if l.tgt == 0 then farStack (leafLoc (pasidOf s h.part) l b.base) else 3 * coreDie h.core
  | .error _ => 3 * coreDie h.core

/-- A node of the tree on F32 values: the sum rounded, or the exact maximum or minimum; any NaN makes the canonical one (R126). -/
def seamNode (op : Nat) (x y : FVal × Flags) : FVal × Flags :=
  let fl := x.2 ||| y.2
  match op with
  | 0 =>
    let r := fAddV .f32 .nearestEven x.1 y.1
    (fDecode .f32 r.1, fl ||| r.2)
  | _ =>
    if x.1.isNan || y.1.isNan then (.nan false, fl ||| nvOf [x.1, y.1])
    else
      let first := if op == 1 then !fBelowV x.1 y.1 else fBelowV x.1 y.1
      (if first then x.1 else y.1, fl)

def seamLevel {α : Type} (f : α → α → α) : List α → List α
  | a :: b :: rest => f a b :: seamLevel f rest
  | l => l

/-- The fixed tree over 16 slots (R126). -/
def seamTree {α : Type} (f : α → α → α) (l : List α) : List α := seamLevel f (seamLevel f (seamLevel f (seamLevel f l)))

/-- The element of DST from the buffers' elements, with its exceptions. -/
def seamElt (op : Nat) (t : ElemType) (xs : List Word) : Word × Flags :=
  match fmtOf t with
  | some f =>
    let id : FVal := match op with
      | 0 => .zero true
      | 1 => .inf true
      | _ => .inf false
    let slots := (List.range 16).map fun j =>
      match xs[j]? with
      | some w => (fDecode f (w.toNat % 2 ^ FloatFmt.width f), (0 : Flags))
      | none => (id, 0)
    match seamTree (seamNode op) slots with
    | (v, fl) :: _ =>
      let r := fResult f .nearestEven v false
      (BitVec.ofNat 64 r.1, fl ||| r.2)
    | [] => (0, 0)
  | none =>
    let id : Int := match op with
      | 0 => 0
      | 1 => intLo t
      | _ => intHi t
    let slots := (List.range 16).map fun j => match xs[j]? with
      | some w => intVal t w
      | none => id
    let node := fun (x y : Int) => match op with
      | 0 => intVal t (intBits t (x + y))
      | 1 => max x y
      | _ => min x y
    (intBits t ((seamTree node slots).headD 0), 0)

/-- An element of DST after the command: its bits and exceptions, whether a buffer element carries poison, whether it is undefined, and
what an undefined one is a function of. -/
structure SeamElem where
  bits : Word
  flags : Flags
  bad : Bool
  undef : Bool
  inputs : List Nat

/-- Element e of DST. It is undefined where it overlaps a buffer at another offset (R126), and where a store into a buffer element or
into DST came while the command ran (R130). -/
def seamEltAt (s : State) (b : SeamBlock) (t : ElemType) (bufs : List (List Span)) (dst : List Span) (writes : List (Nat × Nat)) (e : Nat) :
    SeamElem :=
  let w := width t / 8
  let xs := bufs.map fun sp => homeBytes s sp (e * w) w
  let r := seamElt b.op t (xs.map fun x => BitVec.ofNat 64 (leNat x.1))
  let at_ := fun (sp : List Span) => (cutSpans w sp).getD e (0, 0, false)
  let mine := at_ dst
  let overlaps := bufs.any fun sp => (at_ sp).1 != mine.1 && spansMeet sp [⟨mine.1, w, false⟩]
  let stored := (mine :: bufs.map at_).any fun x => writes.any fun r => rangesMeet r.1 r.2 x.1 w
  ⟨r.1, r.2, xs.any (·.2), overlaps || stored,
    [35, b.op, b.ty, b.base, b.dst, mine.1] ++ xs.map fun x => leNat x.1⟩

/-- Writing the elements of DST; a poisoned one as poison. Each line leaves every far cache. -/
def seamStore (w : Nat) : State → List (Nat × Nat × Bool) → List SeamElem → State
  | s, (loc, _, _) :: ls, e :: es =>
    let v := if e.undef then Config.undefined e.inputs 0 else e.bits
    seamStore w (farDrop (homeWrite s loc (leBytes w v.toNat) e.bad) none (lineOf loc)) ls es
  | s, _, _ => s

/-- The flag (R127): one 8-byte store, the engine's SEQ with it. -/
def seamFlag (s : State) (i : Nat) (c : EngineCmd) (stack : Nat) (b : SeamBlock) (loc err : Nat) (ranges : List (Nat × Nat)) : State :=
  let k : Fin 24 := Fin.ofNat 24 stack
  let seq := s.seamSeq[k] + 1
  let s := { s with seamSeq := s.seamSeq.set k seq, seams := s.seams.filter fun w => w.hart != i }
  let word := b.flagVal + err * 2 ^ 16 + seq.toNat * 2 ^ 32
  let s := homeWrite (farDrop s none (lineOf loc)) loc (leBytes 8 word) false
  completeCmd s i 2 c.tag (decide (err % 16 ≠ 0)) (ranges ++ [(loc, 8)])

/-- A command whose flag cannot be written writes nothing (R127). -/
def seamSilent (s : State) (i : Nat) (c : EngineCmd) (stack : Nat) : State :=
  let k : Fin 24 := Fin.ofNat 24 stack
  completeCmd { s with
    seamSeq := s.seamSeq.set k (s.seamSeq[k] + 1)
    seams := s.seams.filter fun w => w.hart != i } i 2 c.tag true []

/-- Probing the buffers. -/
def seamBuffers (s : State) (h : Hart) (b : SeamBlock) (n : Nat) : List Nat → Except (Word × Stop) (List (List Span))
  | [] => .ok []
  | j :: js =>
    match probeRange s h .engineRead (BitVec.ofNat 64 (seamBuffer b j)) n, seamBuffers s h b n js with
    | .error e, _ => .error e
    | .ok _, .error e => .error e
    | .ok sp, .ok rest => .ok (sp :: rest)

/-- The flag's location, in device far or near memory. R127's list of what ends a command silently does not name a near slice outside the
partition; the model ends it so, with the tag's error bit and SEQ (log 37). -/
def flagLoc (s : State) (h : Hart) (b : SeamBlock) : Except Stop Nat :=
  match translate s h.core h.part (BitVec.ofNat 64 b.flagAddr) .engineWrite false with
  | .error e => .error e
  | .ok (loc, _) => if rangeFenced s loc 8 then .error .fenced else if regionOf loc == .far || regionOf loc == .near then .ok loc else .error (.trap 0x07 (BitVec.ofNat 64 b.flagAddr))

/-- The ERR bit of a failed probe: translation or protection. -/
def stopErr : Stop → Nat
  | .trap _ _ => 2
  | _ => 1

/-- The ERR bits of what the elements met: [19] poison, [20] NV, [21] OF. An undefined element sets no flag (R6, R130); one whose
buffers carry poison counts as any other, which R127 leaves open (log 37). -/
def seamErr (es : List SeamElem) : Nat :=
  let fl := es.foldl (fun f e => if e.undef then f else f ||| e.flags) (0 : Flags)
  bitNat (es.any SeamElem.bad) 3 + bitNat (fl &&& flagNV != 0) 4 + bitNat (fl &&& flagOF != 0) 5

/-- SEAM_COMPLETE (R125 to R127). failed says of a waiting command that it waits for the flag's page: a replay declined then leaves it silent,
any other is an ERR of its flag. -/
def seamStep (s : State) (i : Nat) : Out :=
  withHead s i 2 fun h c =>
    match c.op with
    | .seam b =>
      match ElemType.ofCode b.ty with
      | none => .next s
      | some t =>
        let w := width t / 8
        let n := b.count * w
        let stack := seamEngine s h b
        let silent := Host.Outcome.next (seamSilent s i c stack)
        if tableFenced s h.core h.part b.base then .next s
        else if c.declined && c.failed then silent
        else
          let c := { c with declined := false, refused := c.refused || c.declined }
          match flagLoc s h b with
          | .error e => engineStop s i h 2 { c with failed := true } .engineWrite e silent
          | .ok floc =>
            let c := { c with failed := false }
            let fail := fun (err : Nat) => Host.Outcome.next (seamFlag s i c stack b floc err [])
            if c.refused then fail 1
            else
              match seamBuffers s h b n (List.range b.nbuf) with
              | .error (_, e) => engineStop s i h 2 c .engineRead e (fail (stopErr e))
              | .ok bufs =>
                match probeRange s h .engineWrite (BitVec.ofNat 64 b.dst) n with
                | .error (_, e) => engineStop s i h 2 c .engineWrite e (fail (stopErr e))
                | .ok dst =>
                  let starts := (List.range b.nbuf).map (seamBuffer b) ++ [b.dst]
                  let pages := starts.flatMap fun a => (cutRange 4096 a n).map (·.1)
                  if pages.all fun a => localStack s h a == some stack then
                    let writes := (s.seams.filter fun x => x.hart == i).flatMap SeamWatch.writes
                    let es := (List.range b.count).map (seamEltAt s b t bufs dst writes)
                    let s := seamStore w s (cutSpans w dst) es
                    .next (seamFlag s i c stack b floc (seamErr es) (dst.map fun p => (p.loc, p.len)))
                  else fail 4
    | _ => .next s

/-! ### Cache operations (R109) -/

/-- The far locations of a range, the pages that are not mapped or not cacheable device far memory skipped (R251). -/
def cacheSpans (s : State) (h : Hart) (a n : Nat) : List (Nat × Nat) :=
  (cutRange 4096 a n).filterMap fun c =>
    if !isMappedVa c.1 then none
    else
      match leafOf s h.core h.part c.1 with
      | .ok l => if l.tgt == 0 && l.c then some (leafLoc (pasidOf s h.part) l c.1, c.2) else none
      | .error _ => none

/-- CACHE_OP_COMPLETE: the lines of the range are written back; FCINV removes them from the L1 and the die's far cache. The hart's
earlier stores were performed before the command entered its queue. -/
def cacheStep (s : State) (i : Nat) : Out :=
  withHead s i 3 fun h c =>
    let run := fun (a n : Nat) (inv : Bool) =>
      let sp := cacheSpans s h a n
      let meets := fun (line : Nat) => sp.any fun r => rangesMeet (line * 64) 64 r.1 r.2
      let blocked := !s.mgmt.recoveries.isEmpty &&
        s.l1.any fun l => l.core == h.core && meets l.line && l.dirty.any fun o => fenced s (l.line * 64 + o)
      let walks := (cutRange 4096 a n).any fun c => isMappedVa c.1 && tableFenced s h.core h.part c.1
      if blocked || walks then Host.Outcome.next s
      else
        let s := l1CleanAll s h.core fun l => meets l.line
        let s := if inv then
            let s := l1CleanDropAll s h.core fun l => meets l.line
            { s with farCache := s.farCache.filter fun l => !(l.die == coreDie h.core && meets l.line) }
          else s
        .next (completeCmd s i 3 none false [])
    match c.op with
    | .fcwb a n => run a n false
    | .fcinv a n => run a n true
    | _ => .next s

/-! ### Tags (R252 to R254) -/

def maskTags (m : Word) : List (Fin 64) := (List.finRange 64).filter fun t => m.getLsbD t.val

/-- Going on after tags have been observed; a line that would be written back to a fenced unit is waited for (R130). -/
def observeAndGo (s : State) (i : Nat) (h : Hart) (ts : List (Fin 64)) (f : Hart → Hart) : Out :=
  if !ts.isEmpty && dirtyFenced s h.core then .next s
  else .next (modHart (observeTags s i h.core ts) i fun h => (f h).advance .pacer)

/-- TWALL and TWANY. -/
def tagWait (all : Bool) (m : Reg) (s : State) : Out :=
  onPacer s fun i h _ =>
    let ts := maskTags (h.reg .pacer m)
    let set := ts.filter fun t => h.pacer.tagmap.getLsbD t.val
    let lost := ts.filter fun t => !h.pacer.tagmap.getLsbD t.val && !tagOutstanding h t
    if ts.isEmpty then goOn s i h .pacer
    else if all then
      if set.length = ts.length then observeAndGo s i h set id
      else if !lost.isEmpty then trapHere s i h .pacer 0x10
      else .next s
    else if !set.isEmpty then observeAndGo s i h set id
    else if lost.length = ts.length then trapHere s i h .pacer 0x10
    else .next s

/-- TFIRST. -/
def tagFirst (d m : Reg) (s : State) : Out :=
  onPacer s fun i h _ =>
    match (maskTags (h.reg .pacer m)).find? fun t => h.pacer.tagmap.getLsbD t.val with
    | some t => observeAndGo s i h [t] fun h => h.setReg .pacer d (BitVec.ofNat 64 t.val)
    | none => writeBack s i h .pacer d 64

/-- TCLR. -/
def tagClear (m : Reg) (s : State) : Out :=
  onPacer s fun i h _ =>
    let w := h.reg .pacer m
    if (maskTags w).any (tagOutstanding h) then trapHere s i h .pacer 0x10
    else goOn s i { h with pacer := { h.pacer with tagmap := h.pacer.tagmap &&& ~~~ w, tagerr := h.pacer.tagerr &&& ~~~ w } } .pacer

/-- QFENCE: waits for the queues it names, and observes the tags of what completed in them. -/
def queueFence (qmask : Fin 16) (s : State) : Out :=
  onPacer s fun i h _ =>
    let named := fun (q : Fin 4) => qmask.val.testBit q.val
    if (List.finRange 4).any fun q => named q && !h.pacer.engines[q].isEmpty then .next s
    else observeAndGo s i h ((h.pacer.wrote.filter fun w => named w.queue).map (·.tag)) id

/-! ### The meanings -/

/-- CPY (R249, R117). -/
def execCpy (tag : Fin 64) (dst : Reg) (src : Reg) (n : Reg) (s : State) : Out :=
  onPacer s fun i h _ =>
    let r := fun (x : Reg) => (h.reg .pacer x).toNat
    issue s i h 0 (decide (r n < 2 ^ 40)) (.copy (r dst) (r src) (r n)) (some tag)

/-- CPY2 (R249, R117, R118). -/
def execCpy2 (tag : Fin 64) (dst : Reg) (src : Reg) (rows : Reg) (rowBytes : Reg) (spitch : Reg) (dpitch : Reg) (sw : Bool) (s : State) : Out :=
  onPacer s fun i h _ =>
    let r := h.reg .pacer
    let n := (r rows).toNat
    let w := (r rowBytes).toNat
    let ok := decide (n ≤ 65535) && decide (w ≤ 2 ^ 24) && pitchOk (r spitch) && pitchOk (r dpitch) &&
      (!sw || swizzleOk (r dst) (r dpitch) n w)
    issue s i h 0 ok (.copy2 (r dst) (r src) n w (r spitch) (r dpitch) sw) (some tag)

/-- CPYX (R249, R117 to R119). -/
def execCpyx (tag : Fin 64) (dst : Reg) (dpitch : Reg) (base : Reg) (tpitch : Reg) (rowBytes : Reg) (list : Reg) (count : Reg) (limit : Reg) (sw : Bool) (s : State) : Out :=
  onPacer s fun i h _ =>
    let r := h.reg .pacer
    let n := (r count).toNat
    let w := (r rowBytes).toNat
    let lim := (r limit).toNat
    let ok := decide (n ≤ 65535) && decide (w ≤ 2 ^ 24) && decide (1 ≤ lim) && decide (lim < 2 ^ 32) &&
      decide ((r list).toNat % 4 = 0) && (!sw || swizzleOk (r dst) (r dpitch) n w)
    issue s i h 0 ok (.copyX (r dst) (r dpitch) (r base) (r tpitch) w (r list) n lim sw) (some tag)

/-- PFTOPK (R250, R121). -/
def execPftopk (tag : Fin 64) (blk : Reg) (s : State) : Out := photoIssue false tag blk s

/-- PFSCAN (R250, R121). -/
def execPfscan (tag : Fin 64) (blk : Reg) (s : State) : Out := photoIssue true tag blk s

/-- SEAM (R250, R125). -/
def execSeam (tag : Fin 64) (blk : Reg) (s : State) : Out := seamIssue tag blk s

/-- FCINV (R251). -/
def execFcinv (e1 : Reg) (e2 : Reg) (s : State) : Out := cacheIssue true e1 e2 s

/-- FCWB (R251). -/
def execFcwb (e1 : Reg) (e2 : Reg) (s : State) : Out := cacheIssue false e1 e2 s

/-- TWANY (R252). -/
def execTwany (e1 : Reg) (s : State) : Out := tagWait false e1 s

/-- TWALL (R252). -/
def execTwall (e1 : Reg) (s : State) : Out := tagWait true e1 s

/-- TFIRST (R252). -/
def execTfirst (e1 : Reg) (e2 : Reg) (s : State) : Out := tagFirst e1 e2 s

/-- TCLR (R253). -/
def execTclr (e1 : Reg) (s : State) : Out := tagClear e1 s

/-- QFENCE (R254). -/
def execQfence (qmask : Fin 16) (s : State) : Out := queueFence qmask s

/-- ENGINE_COMMAND_START (R135). -/
def execEngineCommandStart (h : Nat) (q : Fin 4) (s : State) : Out := .next (engineStart s h q)

/-- SHUTTLE_COMPLETE (R117). -/
def execShuttleComplete (h : Nat) (s : State) : Out := shuttleStep s h

/-- PHOTO_FINISH_COMPLETE (R122). -/
def execPhotoFinishComplete (h : Nat) (s : State) : Out := photoStep s h

/-- SEAM_COMPLETE (R127). -/
def execSeamComplete (h : Nat) (s : State) : Out := seamStep s h

/-- CACHE_OP_COMPLETE (R109). -/
def execCacheOpComplete (h : Nat) (s : State) : Out := cacheStep s h

end Sys2Proof.Machine
end

