-- ==== Sys2Proof/Machine/Firmware.lean ====
section
/-! DEFINITION. What the boot ROM computes of a firmware image (R408, R409): SHA-256, and the verification of an HSS signature with one
LMS level, of the types that R408 names. -/
namespace Sys2Proof.Machine

open Sys2Proof

/-! ### SHA-256 -/

abbrev Word32 := BitVec 32

/-- The n low bytes of a number, most significant first. -/
def bigBytes (n x : Nat) : List Byte := (List.range n).map fun k => BitVec.ofNat 8 (x / 2 ^ (8 * (n - 1 - k)))

/-- The number that bytes hold, most significant first. -/
def bigNat (bs : List Byte) : Nat := bs.foldl (fun n b => n * 256 + b.toNat) 0

/-- The largest root of degree k of n, found bit by bit from bit b - 1 down, above a part r that is settled. -/
def rootAbove (k n : Nat) : Nat → Nat → Nat
  | 0, r => r
  | b + 1, r => rootAbove k n b (if (r + 2 ^ b) ^ k ≤ n then r + 2 ^ b else r)

/-- The first 32 bits of the fractional part of the root of degree k of p. -/
def rootBits (k p : Nat) : Word32 := BitVec.ofNat 32 (rootAbove k (p * 2 ^ (32 * k)) 40 0)

/-- The primes below 312: 64 of them. -/
def smallPrimes : List Nat := (List.range 312).filter fun n => decide (2 ≤ n) && (List.range n).all fun d => d < 2 || n % d != 0

/-- The constants of the rounds, from the cube roots of the first 64 primes. -/
def shaConstants : List Word32 := smallPrimes.map (rootBits 3)

/-- The eight working words, a to h. -/
structure ShaWords where
  a : Word32
  b : Word32
  c : Word32
  d : Word32
  e : Word32
  f : Word32
  g : Word32
  h : Word32
deriving DecidableEq, Repr

def ShaWords.ofList (ws : List Word32) : ShaWords :=
  let at_ := fun (n : Nat) => ws.getD n 0
  ⟨at_ 0, at_ 1, at_ 2, at_ 3, at_ 4, at_ 5, at_ 6, at_ 7⟩

def ShaWords.toList (x : ShaWords) : List Word32 := [x.a, x.b, x.c, x.d, x.e, x.f, x.g, x.h]

/-- The first hash value, from the square roots of the first eight primes. -/
def shaStart : ShaWords := .ofList ((smallPrimes.take 8).map (rootBits 2))

/-- The exclusive or of three rotations to the right. -/
def rotations (x : Word32) (i j k : Nat) : Word32 := x.rotateRight i ^^^ x.rotateRight j ^^^ x.rotateRight k

/-- The exclusive or of two rotations and a shift to the right. -/
def rotationsShift (x : Word32) (i j k : Nat) : Word32 := x.rotateRight i ^^^ x.rotateRight j ^^^ (x >>> k)

/-- n more words of a block's schedule, newest first. -/
def shaSchedule : Nat → List Word32 → List Word32
  | 0, ws => ws
  | n + 1, ws =>
    let back := fun (k : Nat) => ws.getD (k - 1) 0
    shaSchedule n ((rotationsShift (back 2) 17 19 10 + back 7 + rotationsShift (back 15) 7 18 3 + back 16) :: ws)

/-- One round, with its constant and its word of the schedule. -/
def shaRound (x : ShaWords) (kw : Word32 × Word32) : ShaWords :=
  let choice := (x.e &&& x.f) ^^^ (~~~x.e &&& x.g)
  let majority := (x.a &&& x.b) ^^^ (x.a &&& x.c) ^^^ (x.b &&& x.c)
  let t := x.h + rotations x.e 6 11 25 + choice + kw.1 + kw.2
  ⟨t + rotations x.a 2 13 22 + majority, x.a, x.b, x.c, x.d + t, x.e, x.f, x.g⟩

/-- The big-endian words of some bytes. -/
def shaBlockWords (bs : List Byte) : List Word32 := (List.range 16).map fun k => BitVec.ofNat 32 (bigNat ((bs.drop (4 * k)).take 4))

/-- The hash value after one block of 64 bytes. -/
def shaBlock (ks : List Word32) (x : ShaWords) (block : List Byte) : ShaWords :=
  let schedule := (shaSchedule 48 (shaBlockWords block).reverse).reverse
  let y := (ks.zip schedule).foldl shaRound x
  .ofList (List.zipWith (· + ·) x.toList y.toList)

/-- The hash value after so many blocks. -/
def shaBlocks (ks : List Word32) : Nat → List Byte → ShaWords → ShaWords
  | 0, _, x => x
  | n + 1, bs, x => shaBlocks ks n (bs.drop 64) (shaBlock ks x (bs.take 64))

/-- A message filled up to whole blocks: a 1 bit, zeros, its length in bits. -/
def shaPad (bs : List Byte) : List Byte :=
  bs ++ [0x80] ++ List.replicate ((119 - bs.length % 64) % 64) 0 ++ bigBytes 8 (8 * bs.length)

/-- SHA-256 of a byte string (R408, R411): 32 bytes. -/
def sha256 (bs : List Byte) : List Byte :=
  let padded := shaPad bs
  (shaBlocks shaConstants (padded.length / 64) padded shaStart).toList.flatMap fun w => bigBytes 4 w.toNat

/-! ### LM-OTS and LMS signatures (R408) -/

/-- The typecodes of LMS_SHA256_M32_H15 and LMOTS_SHA256_N32_W8. -/
def lmsType : Nat := 7
def otsType : Nat := 4

/-- The height of the tree, and the chains of a one-time signature: 32 for the digest, 2 for its checksum, each of 8 bits. -/
def lmsHeight : Nat := 15
def otsChains : Nat := 34

/-- A chain from its step j on, so many steps. -/
def otsChain (ident : List Byte) (q i : Nat) : Nat → Nat → List Byte → List Byte
  | 0, _, x => x
  | n + 1, j, x => otsChain ident q i n (j + 1) (sha256 (ident ++ bigBytes 4 q ++ bigBytes 2 i ++ bigBytes 1 j ++ x))

/-- The digest of a message with its checksum: the length of the chains that a signature has already run. -/
def otsDigits (ident : List Byte) (q : Nat) (c msg : List Byte) : List Byte :=
  let digest := sha256 (ident ++ bigBytes 4 q ++ bigBytes 2 0x8181 ++ c ++ msg)
  digest ++ bigBytes 2 ((digest.map fun b => 255 - b.toNat).sum)

/-- The one-time public key that a signature of a message leads to: c its randomizer, ys the 34 elements. -/
def otsCandidate (ident : List Byte) (q : Nat) (c ys msg : List Byte) : List Byte :=
  let digits := otsDigits ident q c msg
  let ends := (List.range otsChains).flatMap fun i =>
    let a := (digits.getD i 0).toNat
    otsChain ident q i (255 - a) a ((ys.drop (32 * i)).take 32)
  sha256 (ident ++ bigBytes 4 q ++ bigBytes 2 0x8080 ++ ends)

/-- The root that a node's hash leads to, along a path of so many siblings. -/
def lmsClimb (ident : List Byte) : Nat → Nat → List Byte → List Byte → List Byte
  | 0, _, _, x => x
  | n + 1, node, path, x =>
    let pair := if node % 2 = 1 then path.take 32 ++ x else x ++ path.take 32
    lmsClimb ident n (node / 2) (path.drop 32) (sha256 (ident ++ bigBytes 4 (node / 2) ++ bigBytes 2 0x8383 ++ pair))

/-- Whether an LMS signature of a message verifies under a public key: its types, its identifier, its root. -/
def lmsVerify (key msg sig : List Byte) : Bool :=
  let ident := (key.drop 8).take 16
  let q := bigNat (sig.take 4)
  let ots := (sig.drop 4).take (4 + 32 * (otsChains + 1))
  let rest := sig.drop (8 + 32 * (otsChains + 1))
  let leaf := sha256 (ident ++ bigBytes 4 (2 ^ lmsHeight + q) ++ bigBytes 2 0x8282 ++
    otsCandidate ident q ((ots.drop 4).take 32) (ots.drop 36) msg)
  key.length == 56 && bigNat (key.take 4) == lmsType && bigNat ((key.drop 4).take 4) == otsType &&
    sig.length == 12 + 32 * (otsChains + 1) + 32 * lmsHeight && decide (q < 2 ^ lmsHeight) && bigNat (ots.take 4) == otsType &&
    bigNat (rest.take 4) == lmsType && lmsClimb ident lmsHeight (2 ^ lmsHeight + q) (rest.drop 4) leaf == key.drop 24

/-- Whether an HSS signature of a message verifies under a public key of one level (R408, R409): its count of signed keys is 0. -/
def hssVerify (key msg sig : List Byte) : Bool :=
  bigNat (key.take 4) == 1 && bigNat (sig.take 4) == 0 && lmsVerify (key.drop 4) msg (sig.drop 4)

end Sys2Proof.Machine
end

