-- ==== Sys2Proof/Machine/Matrix.lean ====
section
/-! DEFINITION. The matrix instructions: each enters the VIQ, and commits there (R256 to R263; VectorUnit and MatrixUnit say
what happens then). -/
namespace Sys2Proof.Machine

open Sys2Proof

/-- SETTL (R257). -/
def execSettl (c1 : Reg) (c2 : Reg) (c3 : Reg) (s : State) : Out := vectorInstr (.settl c1 c2 c3) s

/-- MZERO (R261). -/
def execMzero (t : Tile) (s : State) : Out := vectorInstr (.mzero t) s

/-- MSTAGE.a (R258, R259). -/
def execMstageA (c1 : Reg) (v : Reg) (planes : Fin 32) (s : State) : Out := vectorInstr (.mstageA c1 v planes) s

/-- MSTAGE.b (R258, R259). -/
def execMstageB (c1 : Reg) (v : Reg) (planes : Fin 32) (s : State) : Out := vectorInstr (.mstageB c1 v planes) s

/-- MMA (R260). -/
def execMma (t : Tile) (c1 : Reg) (c2 : Reg) (s : State) : Out := vectorInstr (.mma t c1 c2) s

/-- MLDT (R262). -/
def execMldt (t : Tile) (c1 : Reg) (tt : TileType) (s : State) : Out := vectorInstr (.mldt t c1 tt) s

/-- MSTT (R262). -/
def execMstt (t : Tile) (c1 : Reg) (s : State) : Out := vectorInstr (.mstt t c1) s

/-- MTOV (R263). -/
def execMtov (v : Reg) (t : Tile) (c1 : Reg) (s : State) : Out := vectorInstr (.mtov v t c1) s

/-- MCLAIM (R256). -/
def execMclaim (s : State) : Out := vectorInstr .mclaim s

/-- MREL (R256). -/
def execMrel (s : State) : Out := vectorInstr .mrel s

end Sys2Proof.Machine
end

