-- ==== Sys2Proof/Machine/Starter.lean ====
section
/-! DEFINITION. The Starter: launch queues and packets, the head check, placement, rounds, passes, reservations, the selection
of victims, the start and the retirement of gangs, and GLAUNCH (R39 to R45, R273, R370 to R382). -/
namespace Sys2Proof.Machine

open Sys2Proof

/-! ### Queues (R370) -/

/-- A launch queue as it stands after reset. -/
def LaunchQueue.fresh (p : Fin 8) (q : Fin 64) : LaunchQueue where
  part := p
  q := q
  en := false
  cls := 0
  weight := 1
  dline := 0
  schedEn := false
  schedCls := 0
  schedWeight := 1
  schedDline := 0
  packets := []
  ovf := 0
  rej := 0
  skip := 0
  hwait := false
  rsv := false
  last := 0
  seq := 0
  deficit := 0
  head := none
  token := none

def queueAt (s : State) (p : Fin 8) (q : Fin 64) : LaunchQueue :=
  (s.queues.find? fun x => x.part == p && x.q == q).getD (.fresh p q)

def putQueue (s : State) (x : LaunchQueue) : State :=
  { s with queues := x :: s.queues.filter fun y => !(y.part == x.part && y.q == x.q) }

def modLaunch (s : State) (p : Fin 8) (q : Fin 64) (f : LaunchQueue → LaunchQueue) : State := putQueue s (f (queueAt s p q))

def modPart (s : State) (p : Fin 8) (f : Partition → Partition) : State := { s with parts := s.parts.set p (f s.parts[p]) }

/-! ### The head of a queue and its reservation (R380, R381) -/

/-- What stands at the head: a gang that was pre-empted, or a packet (R381). -/
inductive HeadKind where
  | gang (g : Gang)
  | packet (k : Packet)
deriving DecidableEq, Repr

def headKind (s : State) (x : LaunchQueue) : Option HeadKind :=
  match s.gangs.find? fun g => g.part == x.part && g.queue == x.q && g.mode == .saved with
  | some g => some (.gang g)
  | none => x.packets.head?.map .packet

/-- The skip count of a head. -/
def headSkip (x : LaunchQueue) : HeadKind → Nat
  | .gang g => g.skip
  | .packet _ => x.skip

/-- Whether a head holds the reservation. -/
def headRsv (x : LaunchQueue) : HeadKind → Bool
  | .gang g => g.rsv
  | .packet _ => x.rsv

/-- Noting a head's skip count and whether it holds the reservation. -/
def noteHead (s : State) (x : LaunchQueue) (skip : Nat) (rsv : Bool) : HeadKind → State
  | .gang g => { s with gangs := s.gangs.map fun y =>
      if y.part == g.part && y.gangid == g.gangid then { y with skip := skip, rsv := rsv } else y }
  | .packet _ => putQueue s { x with skip := skip, rsv := rsv }

/-- A reservation ends: its positions are released, and a head whose count is 16 takes the next one (R380). Of several such heads, of which the
spec names none, the first in the model's list of queues takes it (log 41). -/
def endReservation (s : State) (p : Fin 8) : State :=
  let s := modPart { s with
    queues := s.queues.map fun x => if x.part == p then { x with rsv := false } else x
    gangs := s.gangs.map fun g => if g.part == p then { g with rsv := false } else g } p fun x => { x with held := [] }
  let next := s.queues.findSome? fun x =>
    match headKind s x with
    | some k => if x.part == p && x.en && x.schedEn && decide (16 ≤ headSkip x k) then some (x, k) else none
    | none => none
  match next with
  | some (x, k) => noteHead s x (headSkip x k) true k
  | none => s

/-- Whether a queue's packet or descheduled gang holds its partition's reservation. -/
def queueRsv (s : State) (x : LaunchQueue) : Bool :=
  x.rsv || s.gangs.any fun g => g.part == x.part && g.queue == x.q && g.rsv

/-- A QCFG write (R370): a reservation ends when EN is cleared (R380). -/
def qcfgStore (s : State) (p : Fin 8) (q : Fin 64) (v : Word) : State :=
  let w := v.toNat / 2 ^ 8 % 2 ^ 8
  let en := v.getLsbD 0
  let ends := !en && queueRsv s (queueAt s p q)
  let s := modLaunch s p q fun x => { x with
    en := en
    cls := Fin.ofNat 4 (v.toNat / 2 % 4)
    weight := if w = 0 then 1 else w
    dline := v.toNat / 2 ^ 16 % 2 ^ 32 }
  if ends then modPart (endReservation s p) p fun x => { x with passDue := true } else s

/-! ### Packets (R371, R373) -/

/-- Bits [hi:lo] of a packet. -/
def Packet.bits (k : Packet) (hi lo : Nat) : Nat := leNat k.bytes / 2 ^ lo % 2 ^ (hi + 1 - lo)

def Packet.cls (k : Packet) : Nat := k.bits 2 0
def Packet.det (k : Packet) : Bool := k.bits 3 3 == 1
def Packet.prio (k : Packet) : Bool := k.bits 4 4 == 1
def Packet.super (k : Packet) : Bool := k.bits 5 5 == 1
def Packet.entry (k : Packet) : Nat := k.bits 51 6 * 64
def Packet.argc (k : Packet) : Nat := k.bits 55 52
def Packet.wcmp (k : Packet) : Nat := k.bits 57 56
def Packet.argx (k : Packet) : Bool := k.bits 58 58 == 1
def Packet.count (k : Packet) : Nat := k.bits 111 64
def Packet.size (k : Packet) : Nat := k.bits 125 112
/-- The word of ARG1 to ARG6, n from 0. -/
def Packet.arg (k : Packet) (n : Nat) : Nat := k.bits (191 + 64 * n) (128 + 64 * n)
def Packet.waddr (k : Packet) : Nat := k.arg 4
def Packet.wval (k : Packet) : Nat := k.arg 5

/-- The cores of a partition, ascending (R413). -/
def coresOf (s : State) (p : Fin 8) : List Nat := (List.range 320).filter fun c => partHasCore s p c

/-- How many harts a core holds at a class (R39). -/
def hartsPerCore (cls : Nat) : Nat := if cls ≤ 3 then 32 / 2 ^ cls else if cls = 4 then 2 else 1

/-- The acceptance checks of R373; system says that the queue's class is system, super that a `GLAUNCH` comes from a supervisor gang, or that
the host writes. -/
def packetOk (s : State) (p : Fin 8) (system super : Bool) (k : Packet) : Bool :=
  decide (k.bits 63 59 = 0) && decide (k.bits 127 126 = 0) && decide (k.cls ≤ 5) &&
    decide (k.argc ≤ if k.argx then 8 else if k.wcmp = 0 then 6 else 4) &&
    (!k.argx || decide (k.arg 0 % 64 = 0)) && (k.wcmp == 0 || decide (k.waddr % 8 = 0)) &&
    decide (1 ≤ k.size) && decide (k.size ≤ (coresOf s p).length * hartsPerCore k.cls) &&
    (!(k.prio || k.super) || (system && super)) && (!system || super)

/-- The numbers of a queue that are still queued or resident (R378). -/
def gangLive (s : State) (p : Fin 8) (id : BitVec 32) : Bool :=
  (s.gangs.any fun g => g.part == p && g.gangid == id) ||
    s.queues.any fun q => q.part == p && q.packets.any fun k => k.gangid == id

/-- The next sequence number, those of live gangs skipped; fuel bounds the live ones. -/
def nextSeq (s : State) (p : Fin 8) (q : Fin 64) : Nat → Nat → Nat
  | 0, n => n
  | f + 1, n =>
    let m := if n = 2 ^ 24 - 1 then 1 else n + 1
    if gangLive s p (BitVec.ofNat 32 (q.val * 2 ^ 24 + m)) then nextSeq s p q f m else m

/-- A packet is accepted: it takes a number and its place (R377, R378). -/
def acceptPacket (s : State) (p : Fin 8) (q : Fin 64) (bytes : List Byte) (fromPF : Bool) : State :=
  let x := queueAt s p q
  let n := nextSeq s p q (s.gangs.length + x.packets.length + 1) x.seq
  let id := BitVec.ofNat 32 (q.val * 2 ^ 24 + n)
  putQueue s { x with packets := x.packets ++ [⟨bytes, id, fromPF⟩], seq := n, last := id }

def countRej (s : State) (p : Fin 8) (q : Fin 64) : State := modLaunch s p q fun x => { x with rej := x.rej + 1 }

/-- Which partition a function reaches: the PF every one, VF p partition p (R368). -/
def Fn.reaches (fn : Fn) (p : Fin 8) : Bool :=
  match fn with
  | .pf => true
  | .vf p' => p' == p

/-- A write through the PF reaches the driver's registers; in recovery mode only those of R405 are exposed (R409). -/
def Fn.drives (s : State) (fn : Fn) : Bool := fn == .pf && !s.mgmt.recov

/-- The Starter takes packets and starts gangs: not after a fatal error (R406) nor without firmware (R409). -/
def starterRuns (s : State) : Bool := !s.mgmt.fatal && s.mgmt.running && !s.mgmt.recov

/-- A write to an aperture, judged under the EN and CLASS that the queue had when it was received (R370, R373, R376, R377). -/
def apertureWrite (s : State) (fn : Fn) (p : Fin 8) (q : Fin 64) (off : Nat) (data : List Byte) (en : Bool) (cls : Fin 4) : State :=
  if !Fn.reaches fn p || !starterRuns s || decide (64 ≤ off) then s
  else
    let k : Packet := ⟨data, 0, fn == .pf⟩
    if off ≠ 0 || data.length ≠ 64 then countRej s p q
    else if cls == 3 && fn != .pf then countRej s p q
    else if !en || !packetOk s p (cls == 3) true k then countRej s p q
    else if 256 ≤ (queueAt s p q).packets.length then modLaunch s p q fun x => { x with ovf := x.ovf + 1 }
    else acceptPacket s p q data (fn == .pf)

/-- A received write to an aperture: it waits behind the earlier writes of its function that wait at a fenced unit, so that the gang sees
them (R142, R331). -/
def launchQueued (s : State) (fn : Fn) (p : Fin 8) (q : Fin 64) (off : Nat) (data : List Byte) (en : Bool) (cls : Fin 4) : State :=
  if s.outside.any fun x => x.1 == .function fn then { s with outside := s.outside ++ [(.function fn, .launch p q off data en cls)] }
  else apertureWrite s fn p q off data en cls

/-- The host's write to an aperture, received now. -/
def launchWrite (s : State) (fn : Fn) (p : Fin 8) (q : Fin 64) (off : Nat) (data : List Byte) : State :=
  launchQueued s fn p q off data (queueAt s p q).en (queueAt s p q).cls

/-! ### Readiness and levels (R379, R382) -/

/-- Whether the watched word of a queue's head has been written since it was read (R382). -/
def recheckDue (s : State) (p : Fin 8) (q : Fin 64) : Bool := s.watchers.any fun w => w.who == .head p q && w.woken

/-- Ready (R379): a descheduled gang; a packet whose check has passed, on the last reading of its wait word. -/
def headReady (s : State) (x : LaunchQueue) : Bool :=
  x.schedEn &&
    match headKind s x with
    | some (.gang _) => true
    | some (.packet _) => x.head.isSome && !x.hwait && x.token.isNone && !recheckDue s x.part x.q
    | none => false

/-- The level that a queue's class and a PRIO bit give. -/
def classLevel (cls : Fin 4) (prio : Bool) : Nat :=
  match cls.val with
  | 0 => 2
  | 1 => 1
  | 2 => 4
  | _ => if prio then 0 else 3

/-- The level of a gang: by the class that its queue has for scheduling (R370). -/
def gangLevel (s : State) (g : Gang) : Nat := classLevel (queueAt s g.part g.queue).schedCls g.prio

/-- The level of a queue: its head's (R379). -/
def levelOf (s : State) (x : LaunchQueue) : Nat :=
  match headKind s x with
  | some (.gang g) => classLevel x.schedCls g.prio
  | some (.packet k) => classLevel x.schedCls k.prio
  | none => 5

/-- What the first packet of a queue waits for lapses: its replay, its page request, its watched word. -/
def dropHeadWaits (s : State) (p : Fin 8) (q : Fin 64) : State :=
  { s with
    waiters := s.waiters.filter fun w => w.2 != .head p q
    requests := s.requests.filter fun r => r.waiter != .head p q
    watchers := s.watchers.filter fun w => w.who != .head p q }

/-- The first packet leaves its queue, with its skip count and its reservation. -/
def clearHead (s : State) (p : Fin 8) (q : Fin 64) : State :=
  let x := queueAt s p q
  let s := putQueue (dropHeadWaits s p q) { x with
    packets := x.packets.tail, skip := 0, rsv := false, hwait := false, head := none, token := none }
  if x.rsv then endReservation s p else s

/-! ### The head check (R374) -/

/-- The Starter's own translations use no core's TLB: an owner that no core is. -/
def starterCore : Nat := 320

/-- A launch error: the packet is removed, its record posted. -/
def launchError (s : State) (p : Fin 8) (q : Fin 64) (code : Nat) : State :=
  let x := queueAt s p q
  match x.packets with
  | [] => s
  | k :: _ =>
    postRecord (clearHead s p q) p (leBytes 1 code ++ leBytes 1 q.val ++ zeros 6 ++ k.bytes.take 16 ++ zeros 40)

/-- How a read of the Starter ends. -/
inductive StarterRead where
  | bytes (loc : Nat) (bs : List Byte)
  | stop (e : Stop)

/-- A load at system scope that passes both caches by. What poison does there the spec does not say: no thread takes a trap for it, and the bytes
are undefined, a function of where they lie and what stands there (log 42). -/
def starterRead (s : State) (p : Fin 8) (a n : Nat) : StarterRead :=
  match translate s starterCore p (BitVec.ofNat 64 a) .load false with
  | .error e => .stop e
  | .ok (loc, _) =>
    if rangeFenced s loc n then .stop .fenced
    else
      let (bs, bad) := homeRead s loc n
      .bytes loc (if bad then (List.range n).map fun k => (Config.undefined (38 :: loc :: bs.map BitVec.toNat) k).setWidth 8 else bs)

/-- What a stopped read does: it waits for a replay, for the host or a fenced unit, meets a hole, or is a launch error. -/
def starterStop (s : State) (p : Fin 8) (q : Fin 64) (code : Nat) (e : Stop) : Out :=
  match e with
  | .trap _ _ => .next (launchError s p q code)
  | .fenced => .next s
  | .hole loc => .fault (.physicalHole loc)
  | .missing va level cause =>
    let tok := s.nextToken
    let s := modLaunch { s with nextToken := tok + 1, waiters := s.waiters ++ [(tok, .head p q)] } p q fun x => { x with token := some tok }
    .next (postRecord s p (faultRecord va 0 level cause 5 tok 0 0))
  | .ats page =>
    if priFull s p then .next s
    else
      let tok := s.nextToken
      .next (modLaunch { s with nextToken := tok + 1, requests := s.requests ++ [⟨p, page, tok, .head p q⟩] } p q
        fun x => { x with token := some tok })

/-- The wait condition (R371, R382). -/
def waitHolds (k : Packet) (w : Nat) : Bool :=
  match k.wcmp with
  | 0 => true
  | 1 => w == k.wval
  | 2 => w != k.wval
  | _ => decide (k.wval ≤ w)

/-- Whether a watched word lies in the partition's device far or near memory. -/
def watchedOk (s : State) (p : Fin 8) (a : Nat) : Bool :=
  if isNearVa a then partHasCore s p ((a - 0xF000000000000) / 2 ^ 24)
  else if isMappedVa a then
    match leafOf s starterCore p a with
    | .ok l => l.tgt == 0
    | .error _ => true
  else false

/-- The arguments that lie in the packet. -/
def inlineArgs (k : Packet) : List Word := (List.range k.argc).map fun n => BitVec.ofNat 64 (k.arg n)

/-- The wait word is read and its line watched (R382), and the head is ready or waits. -/
def waitCheck (s : State) (p : Fin 8) (q : Fin 64) (k : Packet) (info : HeadInfo) : Out :=
  if k.wcmp = 0 then .next (modLaunch s p q fun x => { x with head := some info, hwait := false })
  else if !watchedOk s p k.waddr then .next (launchError s p q 5)
  else
    match starterRead s p k.waddr 8 with
    | .stop e => starterStop s p q 6 e
    | .bytes loc bs =>
      let s := { s with watchers := ⟨.head p q, lineOf loc, false, s.now⟩ :: s.watchers.filter fun w => w.who != .head p q }
      .next (modLaunch s p q fun x => { x with head := some info, hwait := !waitHolds k (leNat bs) })

/-- HEAD_PACKET_CHECK: the entry record, the arguments and the watched word of a packet that has reached the head (R372, R374). Two points the spec
leaves open are the model's (log 42): of several causes the first that this order meets is recorded, and a head is checked whatever EN says. -/
def headCheck (s : State) (p : Fin 8) (q : Fin 64) : Out :=
  let x := queueAt s p q
  match headKind s x with
  | none => .next s
  | some (.gang _) => .next s
  | some (.packet k) =>
    if x.head.isSome || x.token.isSome then .next s
    else
      match starterRead s p k.entry 64 with
      | .stop e => starterStop s p q 6 e
      | .bytes _ bs =>
        let n := leNat bs
        let pe := n % 2 ^ 64
        let ae := n / 2 ^ 64 % 2 ^ 64
        if n / 2 ^ 128 % 2 ^ 8 ≠ k.cls then .next (launchError s p q 2)
        else if 1 < n / 2 ^ 136 % 2 ^ 16 then .next (launchError s p q 3)
        else if pe % 8 ≠ 0 ∨ ae % 8 ≠ 0 then .next (launchError s p q 4)
        else
          let info := fun (args : List Word) => (⟨BitVec.ofNat 64 pe, BitVec.ofNat 64 ae, args⟩ : HeadInfo)
          if k.argx then
            match starterRead s p (k.arg 0) 64 with
            | .stop e => starterStop s p q 6 e
            | .bytes _ bs => waitCheck s p q k (info ((words8 bs).take k.argc))
          else waitCheck s p q k (info (inlineArgs k))

/-- HEAD_WAIT_RECHECK: the watched word is read again (R382). -/
def waitRecheck (s : State) (p : Fin 8) (q : Fin 64) : Out :=
  let x := queueAt s p q
  match headKind s x, x.head with
  | some (.packet k), some info => if k.wcmp = 0 || x.token.isSome then .next s else waitCheck s p q k info
  | _, _ => .next s

/-! ### Placement (R40, R41) -/

/-- The positions that resident harts hold, and those of a fenced track (R403). -/
def occupied (s : State) : List Nat :=
  (s.harts.flatMap fun h => if holdsTracks s h then h.positions else []) ++
    s.mgmt.recoveries.flatMap fun r => match r.unit with
      | .track core t => positionsOf 3 core (BitVec.ofNat 4 (2 ^ t)) 0
      | _ => []

/-- A place for a hart. -/
structure Place where
  core : Nat
  tracks : BitVec 4
  share : Nat
deriving DecidableEq, Repr

def Place.positions (cls : Fin 6) (x : Place) : List Nat := positionsOf cls x.core x.tracks x.share

/-- The places of a core for a class, lowest first: shares of a track at each eighth (log 40), a track, or the 2 or 4 lowest free
tracks. -/
def candidates (cls : Fin 6) (isFree : Nat → Bool) (core : Nat) : List Place :=
  if cls.val ≤ 3 then
    (List.range 4).flatMap fun t => (List.range (9 - 2 ^ cls.val)).map fun j => ⟨core, BitVec.ofNat 4 (2 ^ t), j⟩
  else
    let open_ := (List.range 4).filter fun t => (List.range 8).all fun e => isFree (core * 32 + t * 8 + e)
    let need := 2 ^ (cls.val - 3)
    if need ≤ open_.length then [⟨core, BitVec.ofNat 4 ((open_.take need).map (2 ^ ·)).sum, 0⟩] else []

/-- The lowest place on some cores that is free. -/
def placeOne (cls : Fin 6) (isFree : Nat → Bool) (cores : List Nat) : Option Place :=
  (cores.flatMap (candidates cls isFree)).find? fun x => (x.positions cls).all isFree

/-- Placing harts one after another; each may be bound to a core. -/
def placeAll (cls : Fin 6) (cores : List Nat) : List Nat → List (Option Nat) → Option (List Place)
  | _, [] => some []
  | taken, c :: cs =>
    match placeOne cls (fun x => !taken.contains x) (match c with | some k => cores.filter (· == k) | none => cores) with
    | none => none
    | some x => (placeAll cls cores (taken ++ x.positions cls) cs).map (x :: ·)

/-- Whether every core that a claim of the gang needs has a context for it (R268), once the harts that leave have freed theirs. -/
def claimsFit (s : State) (leaving : List Nat) (hs : List (Nat × Hart)) : Bool :=
  let cs := (hs.filter fun x => x.2.anchor.claim).map fun x => x.2.core
  cs.all fun c =>
    decide ((s.contexts.filter fun k => k.1 == c && !leaving.contains k.2).length + (cs.filter (· == c)).length ≤ 2)

/-- The slots that the gangs of a partition hold. -/
def usedSlots (s : State) (p : Fin 8) : List Nat := (s.harts.filter fun h => h.part == p && h.slotHeld).map (·.slot)

/-- fits (R40, R379): the places of every hart of a head, when taken positions are avoided and some harts have left. A deterministic gang and
a hart with a claim have only the cores on which they were saved (R41, R268), which their partition must still hold (R413). -/
def fitHead (s : State) (p : Fin 8) (taken leaving : List Nat) : HeadKind → Option (List Place)
  | .packet k => placeAll (Fin.ofNat 6 k.cls) (coresOf s p) taken (List.replicate k.size none)
  | .gang g =>
    let hs := gangList s g
    if !claimsFit s leaving hs then none
    else if g.det then
      if hs.all (fun x => partHasCore s p x.2.core && x.2.positions.all fun y => !taken.contains y) then
        some (hs.map fun x => ⟨x.2.core, x.2.tracks, x.2.share⟩)
      else none
    else placeAll g.cls (coresOf s p) taken (hs.map fun x => if x.2.anchor.claim then some x.2.core else none)

/-- The positions a head may not use: those occupied, and those another head's reservation holds. -/
def takenFor (s : State) (x : LaunchQueue) (k : HeadKind) : List Nat := occupied s ++ if headRsv x k then [] else s.parts[x.part].held

/-! ### Starting (R10, R40, R375) -/

/-- The lowest free slot of a partition's save region (R388). -/
def freeSlot (s : State) (p : Fin 8) : Nat :=
  let used := usedSlots s p
  ((List.range (used.length + 1)).find? fun n => !used.contains n).getD 0

/-- A thread at its entry: arguments in 1 to 8, the count in 9 (R10). -/
def ThreadState.launch (entry : Word) (args : List Word) (count : Nat) : ThreadState :=
  { ThreadState.start with
    pc := entry
    regs := Vector.ofFn fun r =>
      if 1 ≤ r.val ∧ r.val ≤ 8 then args.getD (r.val - 1) 0 else if r.val = 9 then BitVec.ofNat 64 count else 0 }

/-- A hart at its first instruction. -/
def Hart.launch (p : Fin 8) (k : Packet) (info : HeadInfo) (id : Nat) (x : Place) (slot : Nat) : Hart where
  part := p
  gang := k.gangid
  hartid := id
  gangsize := k.size
  cls := Fin.ofNat 6 k.cls
  det := k.det
  super := k.super
  core := x.core
  tracks := x.tracks
  share := x.share
  slot := slot
  slotHeld := true
  mode := .running
  stopHard := false
  resumeOk := false
  trapHeld := false
  trapWait := none
  pacer := { PacerState.start with th := .launch info.pentry info.args k.count }
  anchor := { AnchorState.start with
    th := .launch info.aentry info.args k.count
    xpc := List.replicate (mvlOf (Fin.ofNat 6 k.cls)) 0 }
  lq := Vector.replicate 4 []
  sq := Vector.replicate 2 []
  qa := []
  qc := []
  area := []
  outst := 0

/-- The harts of a gang are placed one after another; each begins with an acquire at package scope (R273). -/
def addHarts (p : Fin 8) (k : Packet) (info : HeadInfo) : State → Nat → List Place → State
  | s, _, [] => s
  | s, id, x :: xs =>
    let h := Hart.launch p k info id x (freeSlot s p)
    addHarts p k info (cacheAcquire { s with harts := s.harts ++ [h] } x.core .package) (id + 1) xs

/-- A gang gets its start number. -/
def bumpStart (s : State) (p : Fin 8) : State × Nat :=
  let n := s.parts[p].startNo
  (modPart s p fun x => { x with startNo := n + 1 }, n)

/-- start(h) for a packet: GANG_START (R40, R375). -/
def startPacket (s : State) (x : LaunchQueue) (k : Packet) (info : HeadInfo) (places : List Place) : State :=
  let (s, n) := bumpStart s x.part
  let g : Gang := ⟨false, x.part, k.gangid, x.q, k.prio, Fin.ofNat 6 k.cls, k.size, k.det, .resident, n, 0, 0, 0, false⟩
  let s := clearHead s x.part x.q
  addHarts x.part k info { s with gangs := s.gangs ++ [g] } 0 places

/-- start(h) for a descheduled gang: its harts get their tracks and, where they held a claim, a context; each is then
restored by HART_RESUME. -/
def startSaved (s : State) (x : LaunchQueue) (g : Gang) (places : List Place) : State :=
  let (s, n) := bumpStart s x.part
  let s := ((gangList s g).zip places).foldl (fun s y =>
    let i := y.1.1
    let s := modHart s i fun h => { h with core := y.2.core, tracks := y.2.tracks, share := y.2.share }
    if y.1.2.anchor.claim then { s with contexts := s.contexts ++ [(y.2.core, i)] } else s) s
  let s := { s with gangs := s.gangs.map fun y => if y.part == g.part && y.gangid == g.gangid then
      { y with mode := .resident, startNo := n, selected := false, skip := 0, rsv := false } else y }
  if g.rsv then endReservation s x.part else s

def startHead (s : State) (x : LaunchQueue) (k : HeadKind) (places : List Place) : State :=
  match k, x.head with
  | .gang g, _ => startSaved s x g places
  | .packet k, some info => startPacket s x k info places
  | .packet _, none => s

/-! ### Passes (R379 to R381) -/

/-- skip(h) (R380). -/
def skipHead (s : State) (x : LaunchQueue) (k : HeadKind) : State :=
  let n := min 16 (headSkip x k + 1)
  noteHead s x n (headRsv x k || (n == 16 && x.en && !reserved s x.part)) k

/-- One queue of a level: starting while its head is ready, funded and fits; fuel bounds the heads. A start begins with an acquire on
each core (R273), so it waits where that would write to a fenced unit (R130). -/
def passQueue (p : Fin 8) (q : Fin 64) (l : Fin 5) : Nat → State → State
  | 0, s => s
  | n + 1, s =>
    let x := queueAt s p q
    match headKind s x with
    | none => s
    | some k =>
      if levelOf s x = l.val && headReady s x && (decide (0 < x.deficit) || headRsv x k) then
        match fitHead s p (takenFor s x k) [] k with
        | some places =>
          if places.any fun y => dirtyFenced s y.core then s
          else passQueue p q l n (modPart (startHead s x k places) p fun y => { y with lastOfLevel := y.lastOfLevel.set l q })
        | none => skipHead s x k
      else s

/-- The queues from the one after last, round robin. -/
def roundRobin (last : Fin 64) : List (Fin 64) :=
  (List.range 64).map fun k => Fin.ofNat 64 (last.val + 1 + k)

def passLevel (p : Fin 8) (s : State) (l : Fin 5) : State :=
  (roundRobin s.parts[p].lastOfLevel[l]).foldl (fun s q => passQueue p q l (s.gangs.length + (queueAt s p q).packets.length + 1) s) s

/-- The candidates of preempt() for a head of level l, in their order (R381). -/
def victims (s : State) (p : Fin 8) (l : Nat) : List Gang :=
  let d := fun (g : Gang) => (queueAt s p g.queue).deficit
  let ok := fun (g : Gang) => g.part == p && g.mode == .resident && (decide (l < gangLevel s g) || (gangLevel s g == l && decide (d g ≤ 0)))
  let before := fun (a b : Gang) =>
    if gangLevel s a ≠ gangLevel s b then decide (gangLevel s b < gangLevel s a)
    else if d a ≠ d b then decide (d a < d b)
    else decide (b.startNo < a.startNo)
  (s.gangs.filter ok).foldl (fun acc g => (acc.takeWhile fun y => before y g) ++ g :: acc.dropWhile fun y => before y g) []

/-- The fewest victims whose tracks let a head fit; none when all would not do. -/
def fewest (s : State) (p : Fin 8) (k : HeadKind) (taken : List Nat) : List Gang → List Gang → Option (List Gang)
  | picked, rest =>
    let freed := picked.flatMap (gangPositions s)
    let leaving := picked.flatMap fun g => gangHarts s g.part g.gangid
    if (fitHead s p (taken.filter fun y => !freed.contains y) leaving k).isSome then some picked
    else
      match rest with
      | [] => none
      | g :: gs => fewest s p k taken (picked ++ [g]) gs
  termination_by structural _ rest => rest

/-- preempt(): the victims are selected, which starts their pre-emption and its deadline (R385, R386); PREEMPTION_START then stops them (R381).
Gangs already being pre-empted count. -/
def preemptPass (s : State) (p : Fin 8) : State :=
  if !s.parts[p].psave.getLsbD 0 then s
  else
    let waits := fun (l : Nat) (q : Fin 64) =>
      let x := queueAt s p q
      match headKind s x with
      | some k => levelOf s x == l && headReady s x && decide (0 < x.deficit) && (fitHead s p (takenFor s x k) [] k).isNone
      | none => false
    match (List.range 5).find? fun l => (List.finRange 64).any (waits l) with
    | none => s
    | some l =>
      match (List.finRange 64).find? (waits l) with
      | none => s
      | some q =>
        let x := queueAt s p q
        match headKind s x with
        | none => s
        | some k =>
          let going := s.gangs.filter fun g => g.part == p && (g.mode == .saving || g.selected)
          let new := (victims s p l).filter fun g => !g.selected
          match fewest s p k (takenFor s x k) going new with
          | none => s
          | some gs =>
            let mark := fun (g : Gang) =>
              if g.mode == .resident && !g.selected && gs.any (fun y => y.part == g.part && y.gangid == g.gangid) then
                { g with selected := true, saveStart := s.now, deadline := (queueAt s p g.queue).schedDline }
              else g
            { s with gangs := s.gangs.map mark }

/-- pass(). -/
def pass (s : State) (p : Fin 8) : State :=
  let s := modPart s p fun x => { x with passDue := false }
  if starterRuns s then preemptPass ((List.finRange 5).foldl (passLevel p) s) p else s

/-- The passes that freed tracks have made due (R379). -/
def runDue (s : State) : State := (List.finRange 8).foldl (fun s p => if s.parts[p].passDue then pass s p else s) s

/-- The units a queue's resident gangs hold (R379). -/
def heldUnits (s : State) (p : Fin 8) (q : Fin 64) : Nat :=
  ((s.gangs.filter fun g => g.part == p && g.queue == q && g.mode != .saved).map fun g =>
    (gangHarts s p g.gangid).length * 2 ^ g.cls.val).sum

/-- A deficit is a signed 64-bit number (R379). -/
def wrapDeficit (d : Int) : Int := d.bmod (2 ^ 64)

/-- Time passes: every queue is charged for what its gangs hold, and every round grows older (R379). -/
def charge (s : State) (dt : Nat) : State :=
  { s with
    now := s.now + dt
    queues := s.queues.map fun x => { x with deficit := wrapDeficit (x.deficit - heldUnits s x.part x.q * dt) }
    parts := s.parts.map fun x => { x with sinceRound := x.sinceRound + dt } }

/-- The credit of a round (R379). -/
def creditQueue (s : State) (quantum : Nat) (x : LaunchQueue) : LaunchQueue :=
  let cap : Int := x.schedWeight * 8 * quantum
  let busy := heldUnits s x.part x.q != 0 || headReady s x
  { x with deficit := if busy then min (x.deficit + cap) cap else 0 }

/-- STARTER_ROUND: every QUANTUM cycles. New register values come into force, wait words are read again, deficits are
credited, a pass runs (R370, R379, R382). -/
def starterRound (s : State) (p : Fin 8) : Out :=
  let part := s.parts[p]
  if part.sinceRound < part.schedQuantum then .next s
  else
    let s := modPart s p fun x => { x with sinceRound := x.sinceRound - x.schedQuantum, schedQuantum := x.quantum }
    let s := { s with queues := s.queues.map fun x => if x.part == p then
        { x with schedEn := x.en, schedCls := x.cls, schedWeight := x.weight, schedDline := x.dline } else x }
    let recheck := (List.finRange 64).foldl (fun (o : Out) q =>
      match o with
      | .next s => waitRecheck s p q
      | _ => o) (.next s)
    match recheck with
    | .next s =>
      let s := { s with queues := s.queues.map fun x => if x.part == p then creditQueue s s.parts[p].schedQuantum x else x }
      .next (pass s p)
    | o => o

/-! ### Retirement (R45) -/

/-- A hart that may retire: both threads have exited, no tag is outstanding, the matrix queue has drained. -/
def mayRetire (h : Hart) : Bool :=
  h.mode == .running && h.pacer.th.hexit && h.anchor.th.hexit && h.anchor.mqueue.isEmpty &&
    h.pacer.engines.toList.all fun q => q.all fun c => c.tag.isNone

/-- HART_RETIRE: what it stored reaches its home, unless a fenced unit is waited for (R130), the claim is released, its tracks are
free; with its last hart the gang ends (R45). A matrix error that was found after its Anchor's `HEXIT` is taken there first (R266; log 73). -/
def retireHart (s : State) (i : Nat) : State :=
  match s.harts[i]? with
  | none => s
  | some h =>
    if mayRetire h && h.anchor.deferredErr.isSome then takeDeferred s i
    else if !mayRetire h || storesFenced s h (fun _ => true) || dirtyFenced s h.core then s
    else
      let s := freeContexts (l1CleanAll (drainStores s i fun _ => true) h.core fun l => !l.dirty.isEmpty) i
      let s := modHart s i fun h => { h with
        mode := .retired
        anchor := { h.anchor with claim := false }
        lq := Vector.replicate 4 []
        sq := Vector.replicate 2 []
        qa := []
        qc := [] }
      let s := if (gangHarts s h.part h.gang).isEmpty then
          freeSlots { s with gangs := s.gangs.filter fun g => !(g.part == h.part && g.gangid == h.gang) } h.part h.gang
        else s
      freeTracks s h.part h.positions

/-! ### GLAUNCH (R273) -/

/-- The status of a launch from a Pacer: 3 before 2 before 1. -/
def launchStatus (s : State) (h : Hart) (q : Nat) (bytes : List Byte) : Nat :=
  if 64 ≤ q then 3
  else
    let q : Fin 64 := Fin.ofNat 64 q
    let x := queueAt s h.part q
    if !x.en then 3
    else if !packetOk s h.part (x.cls == 3) h.super ⟨bytes, 0, false⟩ then 2
    else if 256 ≤ x.packets.length then 1
    else 0

/-- GLAUNCH from a Pacer: it acts as `FENCE.all.p` first, then reads the packet (R273). -/
def launchFrom (d s1 s2 : Reg) (s : State) : Out :=
  onPacer s fun i h _ =>
    let va := h.reg .pacer s1
    let q := (h.reg .pacer s2).toNat
    if !allSettle s h then .next s
    else
      scalarAccess (refreshL1 (settleAll s i h.core .package) h.core) i h 0x04 .load va 64 fun s loc cached =>
        let (s, bs, bad) := scalarRead s h.core loc 64 cached
        if bad then .next (trapAt s i h .pacer 0x08 va)
        else
          let st := launchStatus s h q bs
          let s := if st = 0 then acceptPacket s h.part (Fin.ofNat 64 q) bs false else s
          loadBack s i d (BitVec.ofNat 64 st)

/-! ### The meanings -/

/-- GLAUNCH (R273). -/
def execGlaunch (d : Reg) (s1 : Reg) (s2 : Reg) (s : State) : Out := launchFrom d s1 s2 s

/-- HART_RETIRE (R45). -/
def execHartRetire (h : Nat) (s : State) : Out := .next (retireHart s h)

/-- LAUNCH_PACKET_WRITE (R376). -/
def execLaunchPacketWrite (fn : Fn) (p : Fin 8) (q : Fin 64) (off : Nat) (data : List (BitVec 8)) (s : State) : Out :=
  .next (launchWrite s fn p q off data)

/-- QCFG_WRITE (R370): RO from a VF. -/
def execQcfgWrite (fn : Fn) (p : Fin 8) (q : Fin 64) (v : BitVec 64) (s : State) : Out :=
  .next (if Fn.drives s fn then qcfgStore s p q v else s)

/-- PQUANT_WRITE (R370): the value is clamped. -/
def execPquantWrite (fn : Fn) (p : Fin 8) (v : BitVec 64) (s : State) : Out :=
  .next (if Fn.drives s fn then modPart s p fun x => { x with quantum := min (max (v.toNat % 2 ^ 21) 1024) (2 ^ 20) } else s)

/-- HEAD_PACKET_CHECK (R374). -/
def execHeadPacketCheck (p : Fin 8) (q : Fin 64) (s : State) : Out := headCheck s p q

/-- HEAD_WAIT_RECHECK (R382). -/
def execHeadWaitRecheck (p : Fin 8) (q : Fin 64) (s : State) : Out := waitRecheck s p q

/-- STARTER_ROUND (R379). -/
def execStarterRound (p : Fin 8) (s : State) : Out := starterRound s p

end Sys2Proof.Machine
end

