-- ==== Sys2Proof/Machine/System.lean ====
section
/-! DEFINITION. Fences, barriers, waiting, leaving, traps raised by programs, and supervisor instructions (R43 to R45, R267,
R269 to R284). -/
namespace Sys2Proof.Machine

open Sys2Proof

/-! ### Fences (R269, R326) -/

/-- FENCE.sv: the scalar side is performed; its dirty lines are written back; later vector loads read nothing older (R134). -/
def fenceSvStep (s : State) : Out :=
  onPacer s fun i h _ =>
    if !scalarSettles s h then .next s else .next (modHart (vectorAfter (settleScalar s i h.core) i) i fun h => h.advance .pacer)

/-- FENCE.vs: the vector side is performed; later scalar loads find no older L1 data. It waits where it would read a line that holds stored
bytes in a fenced unit (R130). -/
def fenceVsStep (s : State) : Out :=
  onPacer s fun i h _ =>
    if !vectorSettles s h || dirtyFenced s h.core then .next s
    else .next (modHart (refreshL1 (settleVector s i) h.core) i fun h => h.advance .pacer)

/-- FENCE.vv: the vector side is performed. -/
def fenceVvStep (s : State) : Out :=
  onPacer s fun i h _ => if !vectorSettles s h then .next s else .next (modHart (settleVector s i) i fun h => h.advance .pacer)

/-- FENCE.all: both sides are performed. -/
def fenceAllStep (s : State) : Out :=
  onPacer s fun i h _ =>
    if !allSettle s h then .next s
    else .next (modHart (vectorAfter (refreshL1 (settleScalar (settleVector s i) i h.core) h.core) i) i fun h => h.advance .pacer)

/-! ### GBAR (R43, R140, R267, R270) -/

def setGbar (h : Hart) (t : Thread) (b : Bool) : Hart := h.setTh t { h.th t with inGbar := b }

/-- A thread arrives: its accesses are released at package scope first. An Anchor waits for its VIQ and its matrix queue, and
takes a deferred error. -/
def gbarStep (i : Instr) (s : State) : Out :=
  onThread i s fun x h t =>
    if (h.th t).inGbar then .next s
    else
      match t with
      | .pacer => if !allSettle s h then .next s else .next (modHart (settleAll s x h.core .package) x fun h => setGbar h .pacer true)
      | .anchor =>
        if !h.anchor.viq.isEmpty then .next s
        else if h.anchor.deferredErr.isSome then .next (takeDeferred s x)
        else if !h.anchor.mqueue.isEmpty then .next s
        else .next (setHart s x (setGbar h .anchor true))

/-- A thread has arrived or left. -/
def atBarrier (th : ThreadState) : Bool := th.inGbar || th.hexit

/-- A thread that waited goes on. -/
def leaveGbar (h : Hart) (t : Thread) : Hart := if (h.th t).inGbar then (setGbar h t false).advance t else h

/-- GBAR_COMPLETE: every thread of every hart of the gang has arrived or left; an acquire at package scope for each (R43,
R140), which waits where it would reach a fenced unit (R130). -/
def gbarComplete (s : State) (p : Fin 8) (gang : BitVec 32) : State :=
  let is := gangHarts s p gang
  let here := is.all fun i => match s.harts[i]? with
    | some h => h.mode == .running && atBarrier h.pacer.th && atBarrier h.anchor.th && !dirtyFenced s h.core
    | none => true
  if here && !is.isEmpty then
    let adds := is.flatMap fun i => seenAdds s i .scalar
    (is.foldl (fun s i => seeAdds s i .scalar adds) s |> is.foldl fun s i =>
      match s.harts[i]? with
      | none => s
      | some h => modHart (vectorAfter (cacheAcquire s h.core .package) i) i fun h => leaveGbar (leaveGbar h .pacer) .anchor)
  else s

/-! ### WAITM (R271) -/

/-- WAITM: the word is read at its home; when it does not decide, the thread sleeps on its line. A host page is asked of the host before its
memory class is refused, an order that the spec leaves open (log 11). -/
def waitWord (eq : Bool) (s1 s2 : Reg) (s : State) : Out :=
  onPacer s fun i h t =>
    let va := h.reg .pacer s1
    scalarAccess s i h 0x04 .load va 8 fun s loc _ =>
      if regionOf loc != .far && regionOf loc != .near then .next (trapAt s i h t 0x07 va)
      else if dirtyFenced s h.core then .next s
      else
        let (s, bs, bad) := readForHome s i h.core loc 8
        if bad then .next (trapAt s i h t 0x08 va)
        else if (leNat bs == (h.reg t s2).toNat) == eq then .next (modHart s i fun h => h.advance .pacer)
        else
          .next (modPacer { s with watchers := s.watchers ++ [⟨.hart i, lineOf loc, false, s.now⟩] } i fun p => { p with asleep := true })

/-- A sleeping thread wakes and goes on, without testing again. -/
def wakePacer (s : State) (i : Nat) : State :=
  modHart { s with watchers := s.watchers.filter fun w => w.who != .hart i } i fun h =>
    if h.pacer.asleep then ({ h with pacer := { h.pacer with asleep := false } } : Hart).advance .pacer else h

/-- WAITM_WAKE: its line has been written. -/
def waitWake (s : State) (i : Nat) : State := if s.watchers.any fun w => w.who == .hart i && w.woken then wakePacer s i else s

/-- WAITM_TIMEOUT: it returns at least once every 65,536 cycles; when, is free. -/
def waitTimeout (s : State) (i : Nat) : State := if s.watchers.any fun w => w.who == .hart i then wakePacer s i else s

/-! ### VREL and HEXIT (R44, R45) -/

/-- When both threads have ended their use of vector state it is dead, and rows are discarded. -/
def deadVectors (h : Hart) : Hart :=
  if h.pacer.th.vrel && h.anchor.th.vrel then
    { h with
      anchor := { h.anchor with vregs := Vector.replicate 32 .dead, kregs := Vector.replicate 8 .dead }
      lq := Vector.replicate 4 []
      sq := Vector.replicate 2 [] }
  else h

def setVrel (h : Hart) (t : Thread) : Hart := deadVectors (h.setTh t { h.th t with vrel := true })

/-- VREL waits: the Anchor for its VIQ, the Pacer for its vector accesses, which are performed. -/
def releaseVectors (s : State) (x : Nat) (h : Hart) (t : Thread) (go : State → Out) : Out :=
  match t with
  | .anchor => if h.anchor.viq.isEmpty then go (modHart s x fun h => setVrel h .anchor) else .next s
  | .pacer => if vectorSettles s h then go (modHart (settleVector s x) x fun h => setVrel h .pacer) else .next s

/-- VREL (R44, R274). -/
def vrelStep (i : Instr) (s : State) : Out :=
  onThread i s fun x h t =>
    if (h.th t).vrel then .next (refuseWord s x h t 0x01)
    else releaseVectors s x h t fun s => .next (modHart s x fun h => h.advance t)

/-- HEXIT (R45, R274): as VREL first; the Anchor leaves once its VIQ has committed, and takes a deferred matrix error before it (R266). The
matrix queue may go on draining: the hart retires when it has. -/
def hexitStep (i : Instr) (s : State) : Out :=
  onThread i s fun x h t =>
    let leave := fun (s : State) => Host.Outcome.next (modHart s x fun h => h.setTh t { h.th t with hexit := true })
    if t == .anchor && !h.anchor.viq.isEmpty then .next s
    else if t == .anchor && h.anchor.deferredErr.isSome then .next (takeDeferred s x)
    else if (h.th t).vrel then leave s
    else releaseVectors s x h t leave

/-! ### TRAP, BRK and HCALL (R278, R280) -/

/-- TRAP and BRK: into the thread's own handler, or to the supervisor with the PC naming the next instruction. -/
def userTrap (i : Instr) (brk : Bool) (imm : BitVec 20) (s : State) : Out :=
  onThread i s fun x h t =>
    let pc := (h.th t).pc
    if (h.th t).trapvec.getLsbD 0 then
      .next (setHart s x (enterHandler h t (BitVec.ofNat 64 (0x0D + bitNat brk 8 + imm.toNat * 2 ^ 12))))
    else .next (deliverTrap (setHart s x (h.advance t)) x { code := 0x0D, thread := t, iaddr := pc, brk := brk, imm := imm })

/-- HCALL: as FENCE.all.s and a release at system scope, then to the supervisor. -/
def hostCall (i : Instr) (imm : BitVec 20) (s : State) : Out :=
  onThread i s fun x h t =>
    if !allSettle s h then .next s
    else
      let s := modHart (settleAll s x h.core .system) x fun h => h.advance t
      .next (deliverTrap s x { code := 0x0E, thread := t, iaddr := (h.th t).pc, imm := imm })

/-! ### Supervisor instructions (R281 to R284) -/

/-- In user mode these are illegal words (R281). -/
def supervisor (i : Instr) (s : State) (k : Nat → Hart → Thread → Out) : Out :=
  onThread i s fun x h t => if h.super then k x h t else .next (refuseWord s x h t 0x01)

/-- SGETC (R282). -/
def superRead (s : State) (h : Hart) (t : Thread) (num : Nat) : Option Word :=
  match num with
  | 0x801 => some (h.th t).sepc
  | 0x802 => some (h.th t).scause
  | 0x880 => some (confOf s h.core)
  | 0x881 => some s.parts[h.part].fptrap
  | 0x890 => some (BitVec.ofNat 64 h.part.val)
  | 0x891 => some (BitVec.ofNat 64 h.core)
  | _ => none

/-- SSETC (R282): RO registers keep their values (R5). -/
def superWrite (s : State) (x : Nat) (h : Hart) (t : Thread) (num : Nat) (w : Word) : Option State :=
  match num with
  | 0x801 => some (setHart s x (h.setTh t { h.th t with sepc := w }))
  | 0x802 => some (setHart s x (h.setTh t { h.th t with scause := w }))
  | 0x880 => some (setConf s h.core w)
  | 0x881 => some (modPart s h.part fun p => { p with fptrap := BitVec.ofNat 64 (w.toNat % 32) })
  | 0x890 => some s
  | 0x891 => some s
  | _ => none

def superGet (i : Instr) (d : Reg) (num : Fin 4096) (s : State) : Out :=
  supervisor i s fun x h t =>
    match superRead s h t num with
    | none => .next (refuseWord s x h t 0x01)
    | some w => writeBack s x h t d w

def superSet (i : Instr) (num : Fin 4096) (s1 : Reg) (s : State) : Out :=
  supervisor i s fun x h t =>
    match superWrite s x h t num (h.reg t s1) with
    | none => .next (refuseWord s x h t 0x01)
    | some s => .next (modHart s x fun h => h.advance t)

/-- The harts of a partition whose accesses may have used a translation. -/
def partHarts (s : State) (p : Fin 8) : List Nat :=
  (List.range s.harts.length).filter fun i => match s.harts[i]? with
    | some h => h.part == p
    | none => false

/-- Every access in flight of a partition's harts is performed (R284, R397). -/
def performAll (s : State) (p : Fin 8) : State :=
  (partHarts s p).foldl (fun s i => drainStores (deliverAll s i) i fun _ => true) s

/-- Whether they can be performed now, and no copy is under way that has its rows from before (R120). -/
def allPerform (s : State) (p : Fin 8) : Bool :=
  (partHarts s p).all fun i => match s.harts[i]? with
    | some h => allSettle s h && h.pacer.engines.toList.all fun q => q.all fun c => c.plan.isNone
    | none => true

/-- The entries of one page, or of a whole partition. -/
def pageEntry (p : Fin 8) (va : Nat) (e : TlbEntry) : Bool := e.part == p && va / 2 ^ e.leaf.bits == e.page
def partEntry (p : Fin 8) (e : TlbEntry) : Bool := e.part == p

/-- KTLBI (R284): in the Pacer, in supervisor mode; a partition above 7 raises 0x07. -/
def superInvalidate (s : State) (which : State → Nat → Hart → Option (List (Fin 8) × (TlbEntry → Bool))) : Out :=
  onPacer s fun i h t =>
    if !h.super then trapHere s i h t 0x01
    else
      match which s i h with
      | none => trapHere s i h t 0x07
      | some (ps, e) =>
        if ps.all (allPerform s) then
          .next (modHart (tlbInvalidate (ps.foldl performAll s) e) i fun h => h.advance .pacer)
        else .next s

/-! ### The meanings -/

/-- FENCE.sv (R269). -/
def execFenceSv (_scope : Scope) (s : State) : Out := fenceSvStep s

/-- FENCE.vs (R269). The fences perform every access at its home, whatever their scope, so a narrow one orders for agents outside it too,
where R131 promises nothing (log 32). -/
def execFenceVs (_scope : Scope) (s : State) : Out := fenceVsStep s

/-- FENCE.vv (R269). -/
def execFenceVv (_scope : Scope) (s : State) : Out := fenceVvStep s

/-- FENCE.all (R269). -/
def execFenceAll (_scope : Scope) (s : State) : Out := fenceAllStep s

/-- GBAR (R270). -/
def execGbar (s : State) : Out := gbarStep .gbar s

/-- WAITM.eq (R271). -/
def execWaitmEq (s1 : Reg) (s2 : Reg) (s : State) : Out := waitWord true s1 s2 s

/-- WAITM.ne (R271). -/
def execWaitmNe (s1 : Reg) (s2 : Reg) (s : State) : Out := waitWord false s1 s2 s

/-- YIELD (R272): no effect but on arbitration. -/
def execYield (s : State) : Out := onThread .yield s fun x h t => goOn s x h t

/-- VREL (R44, R274). -/
def execVrel (s : State) : Out := vrelStep .vrel s

/-- HEXIT (R45, R274). -/
def execHexit (s : State) : Out := hexitStep .hexit s

/-- TRAP (R278). -/
def execTrap (imm : BitVec 20) (s : State) : Out := userTrap (.trap imm) false imm s

/-- BRK (R278). -/
def execBrk (imm : BitVec 20) (s : State) : Out := userTrap (.brk imm) true imm s

/-- HCALL (R280). -/
def execHcall (imm : BitVec 20) (s : State) : Out := hostCall (.hcall imm) imm s

/-- ERET (R283). -/
def execEret (s : State) : Out := supervisor .eret s fun x h t => .next (setHart s x (returnTrap h t))

/-- SGETC (R282). -/
def execSgetc (d : Reg) (num : Fin 4096) (s : State) : Out := superGet (.sgetc d num) d num s

/-- SSETC (R282). -/
def execSsetc (num : Fin 4096) (s1 : Reg) (s : State) : Out := superSet (.ssetc num s1) num s1 s

/-- KTLBI.va (R284). -/
def execKtlbiVa (s1 : Reg) (s2 : Reg) (s : State) : Out :=
  superInvalidate s fun _ _ h =>
    let p := (h.reg .pacer s2).toNat
    if 8 ≤ p then none else some ([Fin.ofNat 8 p], pageEntry (Fin.ofNat 8 p) (h.reg .pacer s1).toNat)

/-- KTLBI.part (R284). -/
def execKtlbiPart (s2 : Reg) (s : State) : Out :=
  superInvalidate s fun _ _ h =>
    let p := (h.reg .pacer s2).toNat
    if 8 ≤ p then none else some ([Fin.ofNat 8 p], partEntry (Fin.ofNat 8 p))

/-- KTLBI.all (R284). -/
def execKtlbiAll (s : State) : Out := superInvalidate s fun _ _ _ => some (List.finRange 8, fun _ => true)

/-- GBAR_COMPLETE (R43). -/
def execGbarComplete (p : Fin 8) (gang : BitVec 32) (s : State) : Out := .next (gbarComplete s p gang)

/-- WAITM_WAKE (R271). -/
def execWaitmWake (h : Nat) (s : State) : Out := .next (waitWake s h)

/-- WAITM_TIMEOUT (R271). -/
def execWaitmTimeout (h : Nat) (s : State) : Out := .next (waitTimeout s h)

end Sys2Proof.Machine
end

