-- ==== Sys2Proof/Machine/Events.lean ====
section
/-! DEFINITION. What a hart's units do of themselves: commits, passes, the matrix queue, deliveries, performings, evictions,
and the queue deadlock (R21 to R23, R27, R31, R96, R107, R239, R256, R323, R334). -/
namespace Sys2Proof.Machine

open Sys2Proof

/-- A hart whose vector unit and matrix engine may go on: it runs, or its save has not ended (R385). -/
def unitsRun (h : Hart) : Bool := h.mode == .running || h.mode == .saving

/-! ### The vector instruction queue -/

/-- VFETCH_PASS: the next pass of the `VFETCH` at the head. -/
def passStep (s : State) (i : Nat) : Out :=
  match s.harts[i]? with
  | none => .next s
  | some h =>
    match h.anchor.viq with
    | [] => .next s
    | e :: _ => if unitsRun h && !h.stopHard && e.started && h.anchor.vtokens.isEmpty then fetchPass s i h e else .next s

/-- MCLAIM_GRANT: a waiting `MCLAIM` commits. -/
def claimGrant (s : State) (i : Nat) : State :=
  match s.harts[i]? with
  | none => s
  | some h =>
    match h.anchor.viq with
    | e :: _ => if e.instr == .mclaim && s.claimWait.any (fun c => c.2 == i) then commitStep s i else s
    | [] => s

/-! ### The matrix queue -/

/-- MATRIX_QUEUE_PERFORM: the oldest entry, which waits at a fenced unit (R130). What a hart that has ended leaves in its queue is
performed too, and then its context is free. -/
def matrixTurn (s : State) (i : Nat) : State :=
  match s.harts[i]? with
  | none => s
  | some h =>
    if unitsRun h then matrixHead s i
    else if h.mode == .retired && !s.mgmt.fatal && !h.anchor.mqueue.isEmpty then leaveMatrix (matrixHead s i) i
    else s

/-! ### Accesses on their way -/

/-- VECTOR_LOAD_DELIVERY: the oldest load to a queue; it waits at a fenced unit, and for an earlier load of another queue that reads a byte of
it (R245, R324). -/
def deliveryStep (s : State) (i : Nat) (q : Fin 4) : State :=
  match s.harts[i]? with
  | none => s
  | some h =>
    match h.pacer.loads.find? (fun f => f.q == q) with
    | none => s
    | some f => if loadFenced s f || loadBehind h f then s else deliverLoad s i q

/-- ACCESS_PERFORMED: a store reaches its home, unless an earlier store of its side meets its bytes (R324) or the home is
fenced. A load is performed when its value is read: at its instruction or at its delivery. -/
def storePerformed (s : State) (i idx : Nat) : State :=
  match s.harts[i]? with
  | none => s
  | some h =>
    match h.pacer.stores[idx]? with
    | none => s
    | some f =>
      if rangeFenced s f.loc f.data.length || (h.pacer.stores.take idx).any (storesMeet · f) then s
      else landStore h.core (modPacer s i fun p => { p with stores := p.stores.eraseIdx idx }) f

/-- RSADD_RENORMALISE: the carries of a known accumulator move up; V stays (R96). -/
def renormaliseAt (s : State) (loc : Nat) : State :=
  if !(s.accs.any fun a => a.loc == loc && !a.torn) || rangeFenced s loc 32 then s
  else
    let (bs, bad) := homeRead s loc 32
    if bad then s
    else
      let s' := homeWrite s loc ((Accumulator.ofBytes bs).renormalise.toBytes bs) false
      { s' with accs := s.accs }

/-- DIRTY_LINE_WRITEBACK: an L1 line is evicted; what is dirty is written back (R107). -/
def evictLine (s : State) (core line : Nat) : State :=
  if rangeFenced s (line * 64) 64 then s else l1CleanDrop s core line

/-! ### Queue deadlock (R21, R22) -/

/-- The word a thread stands at; a loop's words come from its buffer (R184). -/
def threadWord (s : State) (h : Hart) (t : Thread) : Except Stop (State × Word × Bool) :=
  match t, inLoop h.anchor with
  | .anchor, some l => .ok (s, l.words.getD ((h.anchor.th.pc - l.base).toNat / 8) 0, false)
  | _, _ => fetchWord s h (h.th t).pc

def peekWord (s : State) (h : Hart) (t : Thread) : Option Word :=
  match threadWord s h t with
  | .ok (_, w, false) => some w
  | _ => none

/-- A thread that could go on but for its instruction. -/
def threadStands (th : ThreadState) : Bool := th.tokens.isEmpty && !th.inGbar && !th.hexit

/-- The baton queue for which a Pacer waits (R18). -/
inductive PacerWait where
  | load (q : Fin 4)
  | store (q : Fin 2)
  | scalar
deriving DecidableEq, Repr

def PacerWait.isVector : PacerWait → Bool
  | .scalar => false
  | _ => true

/-- The baton queue for which a word of the vector memory group waits, if it is legal. -/
def memoryWaits (h : Hart) (f : VFields) : Option PacerWait :=
  let legal := fun (r : Except Reject Instr) => match r with
    | .ok _ => true
    | .error _ => false
  let l := Fin.ofNat 4 f.d
  let v := Fin.ofNat 2 f.d
  let full : Option PacerWait := if slipFull h l then some (.load l) else none
  let bare : Option PacerWait := if h.sq[v].isEmpty then some (.store v) else none
  let when := fun (r : Except Reject Instr) (w : Option PacerWait) => if legal r then w else none
  match f.minor with
  | 0 => when (decVLD (fun _ _ _ _ => .nop) f) full
  | 1 => when (decVLDS (fun _ _ _ _ => .nop) f) full
  | 2 => when (decVLDX (fun _ _ _ _ _ => .nop) f) full
  | 3 => when (decVLDFF (fun _ _ _ _ _ => .nop) f) full
  | 4 => when (decVST (fun _ _ _ _ => .nop) f) bare
  | 5 => when (decVSTS (fun _ _ _ _ => .nop) f) bare
  | 6 => when (decVSTX (fun _ _ _ _ _ => .nop) f) bare
  | 7 => when (decIMGL (fun _ _ _ => .nop) f) full
  | 8 => when (decIMGS (fun _ _ _ => .nop) f) bare
  | 9 => when (decIMGS (fun _ _ _ => .nop) f) bare
  | 10 => when (decIMGL (fun _ _ _ => .nop) f) full
  | 11 => when (decVAMO (fun _ _ _ _ _ _ _ => .nop) f)
      (bare <|> if decide (f.imm / 32768 % 2 = 1) && slipFull h (Fin.ofNat 4 f.s3) && h.pacer.vamoRet.isNone then
        some (.load (Fin.ofNat 4 f.s3)) else none)
  | _ => none

/-- The baton queue for which the Pacer waits as in R18. -/
def pacerWaits (s : State) (h : Hart) : Option PacerWait :=
  if !threadStands h.pacer.th || h.pacer.asleep || h.pacer.waitLoad.isSome then none
  else
    match peekWord s h .pacer with
    | some w =>
      if w.toNat / 2 ^ 58 = 32 then (if h.pacer.th.vrel then none else memoryWaits h (VFields.ofWord w.toNat))
      else scalarWait w
    | none => none
where
  scalarWait (w : Word) : Option PacerWait :=
    match decodeAnchorWord w with
    | .ok (.qpop _ .qa) => if h.qa.isEmpty then some .scalar else none
    | .ok (.qpush .qc _) => if 16 ≤ h.qc.length then some .scalar else none
    | _ => none

/-- The members of a convoy up to the first that waits on a queue; none when none does. -/
def waitingMember (h : Hart) (es : List VEntry) : Option VEntry :=
  let stuck := fun (pre : List VEntry) =>
    match assignRows h pre with
    | none => true
    | some (h', _) => !roomFor h' pre
  ((List.range es.length).find? fun n => stuck (es.take (n + 1))).bind fun n => es[n]?

/-- Whether a load that will fill a row the convoy lacks is in flight. -/
def rowsComing (h : Hart) (es : List VEntry) : Bool :=
  es.any fun e => ((((useOf e.instr).map VUse.lqs).getD []).filter fun q => !e.popped.any (fun p => p.1 == q)).any fun q =>
    h.pacer.loads.any fun f => f.q == q

/-- The entry of the VIQ that waits on the partner thread (R46): a member of the complete head convoy whose row no load
will bring, or whose store queue is full. -/
def partnerWait (h : Hart) : Option VEntry :=
  if !headClosed h.anchor then none
  else
    let es := (headConvoy h.anchor.viq).1
    if es.any (fun x => ((useOf x.instr).map (matrixHolds h.anchor)).getD false) then none
    else if rowsComing h es then none
    else waitingMember h es

/-- Whether the VIQ holds an entry that writes a scalar, for which the front end waits (R26, R257). -/
def scalarPending (a : AnchorState) : Bool :=
  a.viq.any fun e => match useOf e.instr with
    | some u => u.out.isSome || u.settl
    | none => false

/-- Whether an instruction that the front end performs itself lacks a row that no load will bring, or room for one (R18). -/
def loneWaits (h : Hart) (u : VUse) : Bool :=
  u.out.isSome && !u.pred.joined && !h.anchor.th.vrel && !sourcesPending h.anchor u && !skipsStage h.anchor u &&
    (u.lqs.any (fun q => h.lq[q].isEmpty && !h.pacer.loads.any fun f => f.q == q) ||
      u.sqs.any fun q => decide (8 ≤ h.sq[q].length))

/-- Whether the front end waits on a baton queue as in R18, and whether that is a load or store queue; it comes to it behind what the VIQ has still
to pop and push (R337). -/
def frontWaits (s : State) (h : Hart) : Option Bool :=
  let a := h.anchor
  if !threadStands a.th || a.withdrawn.isSome || scalarPending a || batonPending a then none
  else
    match (peekWord s h .anchor).map decodeAnchorWord with
    | some (.ok (.qpop _ .qc)) => if h.qc.isEmpty then some false else none
    | some (.ok (.qpush .qa _)) => if 16 ≤ h.qa.length then some false else none
    | some (.ok i) =>
      match useOf i with
      | some u => if loneWaits h u then some true else none
      | none => none
    | _ => none

/-- Whether the Anchor waits on a baton queue as in R18: the address of what waits, and whether it is a load or store queue. -/
def anchorWaits (s : State) (h : Hart) : Option (Word × Bool) :=
  match partnerWait h with
  | some e => some (e.addr, true)
  | none => (frontWaits s h).map fun v => (h.anchor.th.pc, v)

/-- Whether a partner is in a state of R21 that no baton event leaves. -/
def partnerGone (th : ThreadState) (vectorQueue : Bool) : Bool := th.hexit || th.inGbar || (th.vrel && vectorQueue)

/-- QUEUE_DEADLOCK_TRAP: both threads wait, or one does and its partner has left (R21); the record names the Pacer when it
waits (R22). -/
def deadlockStep (s : State) (i : Nat) : State :=
  match s.harts[i]? with
  | none => s
  | some h =>
    if h.mode != .running then s
    else
      match pacerWaits s h with
      | some w =>
        if (anchorWaits s h).isSome || partnerGone h.anchor.th w.isVector then
          deliverTrap s i { code := 0x0A, thread := .pacer, iaddr := h.pacer.th.pc }
        else s
      | none =>
        match anchorWaits s h with
        | some (a, v) =>
          if partnerGone h.pacer.th v then deliverTrap s i { code := 0x0A, thread := .anchor, iaddr := a } else s
        | none => s

/-! ### The meanings -/

/-- VIQ_COMMIT (R23): the head of the VIQ of hart h commits. -/
def execViqCommit (h : Nat) (s : State) : Out := .next (commitStep s h)

/-- VFETCH_PASS (R31). -/
def execVfetchPass (h : Nat) (s : State) : Out := passStep s h

/-- MATRIX_QUEUE_PERFORM (R27). -/
def execMatrixQueuePerform (h : Nat) (s : State) : Out := .next (matrixTurn s h)

/-- MCLAIM_GRANT (R256). -/
def execMclaimGrant (h : Nat) (s : State) : Out := .next (claimGrant s h)

/-- VECTOR_LOAD_DELIVERY (R239). -/
def execVectorLoadDelivery (h : Nat) (q : Fin 4) (s : State) : Out := .next (deliveryStep s h q)

/-- ACCESS_PERFORMED (R323). -/
def execAccessPerformed (h : Nat) (idx : Nat) (s : State) : Out := .next (storePerformed s h idx)

/-- RSADD_RENORMALISE (R96). -/
def execRsaddRenormalise (loc : Nat) (s : State) : Out := .next (renormaliseAt s loc)

/-- DIRTY_LINE_WRITEBACK (R107). -/
def execDirtyLineWriteback (core : Nat) (line : Nat) (s : State) : Out := .next (evictLine s core line)

/-- FAR_CACHE_LINE_EVICTION (R334): far-cache lines are never dirty. -/
def execFarCacheLineEviction (die : Nat) (line : Nat) (s : State) : Out := .next (farDrop s (some die) line)

/-- QUEUE_DEADLOCK_TRAP (R21, R22). -/
def execQueueDeadlockTrap (h : Nat) (s : State) : Out := .next (deadlockStep s h)

end Sys2Proof.Machine
end

