-- ==== Sys2Proof/Machine/Preempt.lean ====
section
/-! DEFINITION. Pre-emption and resumption: the start of a save, its deadline and its end, the resumption of a saved hart and
of a trapped one, and GFORCE (R268, R276, R381, R384 to R393, R401). -/
namespace Sys2Proof.Machine

open Sys2Proof

def modGang (s : State) (p : Fin 8) (gang : BitVec 32) (f : Gang → Gang) : State :=
  { s with gangs := s.gangs.map fun g => if g.part == p && g.gangid == gang then f g else g }

/-- Whether a gang is in a mode. -/
def gangIs (s : State) (p : Fin 8) (gang : BitVec 32) (m : GangMode) : Bool :=
  match findGang s p gang with
  | some g => g.mode == m
  | none => false

/-! ### The end of a save -/

/-- Whether the entry at the head is an `MCLAIM` that waits for a context: it is saved unexecuted (R285). -/
def claimWaits (s : State) (i : Nat) (h : Hart) : Bool :=
  match h.anchor.viq with
  | e :: _ => e.instr == .mclaim && s.claimWait.any (fun c => c.2 == i) && !(firstWaiting s h.core i && contextFree s h.core)
  | [] => false

/-- Whether the entry at the head is a `VFETCH` between two of its passes, a boundary at which it may be pre-empted (R32). -/
def betweenPasses (h : Hart) : Bool :=
  match h.anchor.viq with
  | e :: _ => e.started
  | [] => false

/-- Step 2 of R385 has ended: no entry is left, or the oldest waits on the partner thread or for a context, or is a `VFETCH` between two
passes; and the matrix queue has drained (R268). -/
def drained (s : State) (i : Nat) (h : Hart) : Bool :=
  (h.anchor.viq.isEmpty || (partnerWait h).isSome || claimWaits s i h || betweenPasses h) && h.anchor.mqueue.isEmpty

/-- SAVE_COMPLETE: the hart's area is written (R385), HARD when it stopped hard, once no access of the save waits at a fenced unit. -/
def saveComplete (s : State) (i : Nat) : State :=
  match s.harts[i]? with
  | none => s
  | some h =>
    if h.mode == .saving && (h.stopHard || drained s i h) then
      match saveNow s i none h.stopHard .saved with
      | none => s
      | some s => finishSave s h.part h.gang
    else s

/-! ### Its start -/

/-- A thread stops at its next instruction; the convoy entering the VIQ is abandoned (R168, R385). -/
def stopIssuing (h : Hart) : Hart :=
  if h.mode == .running then { h with mode := .saving, stopHard := false, anchor := { abandonOpen h.anchor with withdrawn := none } }
  else h

/-- A pre-emption begins on every resident hart of the gang at once (R385), with its deadline: the earlier one when preempt() has selected the
gang already (R401). -/
def beginSave (s : State) (p : Fin 8) (gang : BitVec 32) (deadline : Nat) : State :=
  let s := modGang s p gang fun g => { g with
    mode := .saving
    selected := false
    saveStart := if g.selected then g.saveStart else s.now
    deadline := if g.selected then g.deadline else deadline }
  finishSave ((gangHarts s p gang).foldl (fun s i => modHart s i stopIssuing) s) p gang

/-- PREEMPTION_START: a gang that preempt() has selected (R381). -/
def preemptionStart (s : State) (p : Fin 8) (gang : BitVec 32) : State :=
  match findGang s p gang with
  | none => s
  | some g =>
    if g.mode == .resident && g.selected && s.parts[p].psave.getLsbD 0 then beginSave s p gang g.deadline else s

/-! ### The deadline (R386) -/

/-- The Anchor of a hart stops hard: a V-form convoy that was in flight stops at element k; anything else is abandoned whole (R93, R155,
R207). -/
def stopConvoy (k : Nat) (s : State) (i : Nat) (h : Hart) : State :=
  let (es, rest) := headConvoy h.anchor.viq
  match es with
  | [] => s
  | e :: _ =>
    let vform := ((useOf e.instr).map VUse.vform).getD false
    if !vform || es.any (fun x => ((useOf x.instr).map (matrixHolds h.anchor)).getD false) then s
    else if decide (k ≤ h.anchor.th.vstart.toNat) || decide (e.vl ≤ k) then s
    else
      match assignRows h es with
      | none => s
      | some (h', es') => if roomFor h' es' then performConvoy s i h h' es' rest (some k) else s

/-- The Pacer of a hart stops hard at element k of the store or vector atomic that it stands at (R240, R244, R255); none when nothing of
it stops there. -/
def stopPacer (k : Nat) (s : State) (i : Nat) (h : Hart) : Option State :=
  if !threadStands h.pacer.th || h.pacer.asleep || h.pacer.waitLoad.isSome then none
  else
    match peekWord s h .pacer with
    | none => none
    | some w =>
      match stopMemory w k s i h with
      | .next s' =>
        if (s'.harts[i]?).any fun h' => h'.mode == .saving && decide (h'.pacer.th.vstart.toNat = k) && decide (h.pacer.th.vstart.toNat < k) then
          some s'
        else none
      | _ => none

/-- A hart at the expiry: one whose step 2 has not ended stops hard, its Pacer at element pk, its Anchor at element ak. -/
def stopHart (ak pk : Nat) (s : State) (i : Nat) : State :=
  match s.harts[i]? with
  | none => s
  | some h =>
    if h.mode != .saving then s
    else
      let hard := fun (s : State) => modHart s i fun h => { h with stopHard := true }
      match stopPacer pk s i h with
      | some s' => goOnHard (hard s')
      | none => if drained s i h then s else goOnHard (hard s)
where
  goOnHard (s : State) : State :=
    match s.harts[i]? with
    | none => s
    | some h => if drained s i h then s else stopConvoy ak s i h

/-- PREEMPT_DEADLINE_EXPIRY: every hart whose step 2 has not ended stops hard. elems: the elements that the Anchors of the gang's harts had
reached, ascending by `hartid`, then those that their Pacers had reached in a store or a vector atomic (0: in none). -/
def deadlineExpiry (s : State) (p : Fin 8) (gang : BitVec 32) (elems : List Nat) : State :=
  match findGang s p gang with
  | none => s
  | some g =>
    if g.mode == .saving && g.deadline != 0 && decide (g.saveStart + g.deadline * 1024 ≤ s.now) then
      let is := gangHarts s p gang
      is.zipIdx.foldl (fun s x => stopHart (elems.getD x.2 0) (elems.getD (is.length + x.2) 0) s x.1) s
    else s

/-! ### Resumption (R280, R393, R401) -/

/-- A thread whose saved values are undefined. The PC stays a multiple of 8 (R145), register 0 reads 0 (R47). -/
def freeThread (w : Nat → Word) (regs : Nat → Word) (mask : Nat → Nat) (th : ThreadState) : ThreadState :=
  { th with
    regs := fileOf ((List.range 32).map regs)
    pc := w 9 &&& ~~~7
    vl := w 0
    rl := w 1
    vstart := w 2
    fflags := w 3 &&& 0x1F
    frm := w 4 &&& 7
    grant := (ElemType.ofCode ((w 5).toNat % 16)).getD th.grant
    trapvec := w 6
    sepc := w 7
    scause := w 8
    masks := Vector.ofFn fun m => mask m.val }

/-- The vector load that a word encodes, as a `KIND` 2 record holds one (R237, R242, R243, R391). -/
def loadFormOf (w : Word) : Option LoadForm :=
  let f := VFields.ofWord w.toNat
  let sel := (f.pacer.toOption).getD none
  let q : Fin 4 := Fin.ofNat 4 f.d
  let off := BitVec.ofNat 16 f.imm
  if w.toNat / 2 ^ 58 ≠ 32 then none
  else match f.minor with
  | 0 => some (.unit sel q off)
  | 1 => some (.strided sel q)
  | 2 => some (.indexed sel q (Fin.ofNat 4 f.imm))
  | 3 => some (.firstFault q (Fin.ofNat 12 f.s3) off)
  | 7 => some (.lanes q off)
  | 10 => some (.packed q off)
  | _ => none

/-- A waiting load whose saved values are undefined; a word that is no vector load leaves the load as it was. -/
def freeLoad (w : Nat → Word) (cls : Fin 6) (mask : Nat) (l : WaitingLoad) : WaitingLoad :=
  let ty := (ElemType.ofCode ((w 2).toNat % 16)).getD l.ty
  let form := loadFormOf (w 3)
  { l with
    form := form.getD l.form
    word := if form.isSome then w 3 else l.word
    base := w 0
    stride := w 1
    ty := ty
    vl := (w 4).toNat % (capacity cls ty + 1)
    mask := mask }

/-- An entry of the VIQ whose word, address and captured values are undefined; a word that may not stand in that entry's place in the VIQ leaves
its instruction as it was. -/
def freeEntry (w : Nat → Word) (rowOf : Nat → Row → Row) (e : VEntry) : VEntry :=
  let form := fun (i : Instr) => (useOf i).map VUse.vform
  let fits := (decodeAnchorWord (w 9)).toOption.filter fun i => (form i).isSome && form i == form e.instr
  { e with
    instr := fits.getD e.instr
    word := if fits.isSome then w 9 else e.word
    addr := w 10 &&& ~~~7
    vl := (w 0).toNat % 2 ^ 32
    rl := (w 1).toNat % 2 ^ 8
    grant := (ElemType.ofCode ((w 2).toNat % 16)).getD e.grant
    scal1 := w 3
    scal2 := w 4
    scal3 := w 5
    frm := w 6 &&& 7
    topoctl := w 7
    rngkey := w 8
    popped := e.popped.zipIdx.map fun x => (x.1.1, rowOf x.2 x.1.2) }

/-- What a changed area makes of a hart: every value that the area holds is undefined, a function of the area's bytes (R6, R393), those that
the driver may rewrite among them. What is no value of the hart's own registers and memory stays: how many words, rows and entries its queues
hold, its claim, its arrival at a barrier, the body of its loop (log 16). -/
def scramble (h : Hart) (area : List Byte) : Hart :=
  let w := fun (n k : Nat) => Config.undefined (37 :: area.map BitVec.toNat) (n * 8192 + k)
  let typeAt := fun (n : Nat) => ElemType.ofCode ((w n 8191).toNat % 16)
  let elemsAt := fun (n : Nat) (t : ElemType) =>
    (List.range ((w n 8190).toNat % (capacity h.cls t + 1))).map fun k => w n k &&& BitVec.ofNat 64 (2 ^ width t - 1)
  let freeRow := fun (n : Nat) (r : Row) =>
    let t := (typeAt n).getD r.ty
    (⟨t, elemsAt n t, r.poison⟩ : Row)
  let freeReg := fun (n : Nat) (r : VReg) =>
    (⟨typeAt n, (w n 8189).getLsbD 0, ((typeAt n).map (elemsAt n)).getD [], r.poison⟩ : VReg)
  let freeLinks := fun (n : Nat) =>
    (⟨(w n 8189).getLsbD 0, (List.range ((w n 8190).toNat % (topoCapacity h.cls + 1))).map fun k => (w n k).setWidth 16⟩ : KReg)
  let freeMask := fun (n : Nat) => ((List.range (mvlOf h.cls / 8)).map fun k => (w n k).toNat % 2 ^ 8 * 2 ^ (8 * k)).sum
  let rows := fun (n : Nat) (q : List Row) => q.zipIdx.map fun x => freeRow (n + x.2) x.1
  let freeTile := fun (n : Nat) (t : TileData) =>
    (⟨match (w n 8191).toNat % 3 with
      | 0 => .empty
      | 1 => .f32
      | _ => .i32, (List.range 4096).map fun k => (w n k).setWidth 32, t.poison⟩ : TileData)
  let a := h.anchor
  { h with
    pacer := { h.pacer with
      th := freeThread (w 300) (w 304) (fun m => freeMask (64 + m)) h.pacer.th
      slip := (w 301 0 &&& 7) + 1
      lod := w 301 1
      tagmap := w 301 2
      tagerr := w 301 3
      waitLoad := h.pacer.waitLoad.map (freeLoad (w 303) h.cls (freeMask 96))
      vamoRet := h.pacer.vamoRet.map fun x => (x.1, freeRow 302 x.2) }
    anchor := { a with
      th := freeThread (w 310) (w 314) (fun m => freeMask (80 + m)) a.th
      vsat := w 311 0
      efc := w 311 1
      rngkey := w 311 2
      rngctr := (w 311 3).setWidth 128 + (w 311 4).setWidth 128 * 2 ^ 64
      topoctl := w 311 5
      xpc := a.xpc.zipIdx.map fun x => w 312 x.2
      shape := ⟨(w 311 6).toNat % 2 ^ 8, (w 311 7).toNat % 2 ^ 8, (w 311 8).toNat % 2 ^ 16⟩
      loop := a.loop.map fun l => { l with
        base := w 313 0
        modulo := (w 313 1).getLsbD 0
        stages := (w 313 2).toNat % 8
        trips := (w 313 3).toNat
        pass := (w 313 4).toNat }
      viq := a.viq.zipIdx.map fun x => freeEntry (w (400 + x.2)) (fun k => freeRow (500 + 8 * x.2 + k)) x.1
      tiles := if a.claim then Vector.ofFn fun t => freeTile (320 + t.val) a.tiles[t] else a.tiles
      vregs := Vector.ofFn fun v => freeReg v.val a.vregs[v]
      kregs := Vector.ofFn fun k => freeLinks (100 + k.val) }
    lq := Vector.ofFn fun q => rows (110 + 16 * q.val) h.lq[q]
    sq := Vector.ofFn fun q => rows (180 + 16 * q.val) h.sq[q]
    qa := h.qa.zipIdx.map fun x => w 220 x.2
    qc := h.qc.zipIdx.map fun x => w 221 x.2 }

/-- A hart comes back from its area, when its header holds; poison in the area is the trap 0x08 at its trap point, which keeps the area
(R401; log 16). The acquire is at a scope; m is the mode it gets. -/
def restoreHart (s : State) (i : Nat) (h : Hart) (sc : Scope) (m : HartMode) : State :=
  let loc := slotLoc s.parts[h.part].psave h.slot
  let (bs, bad) := homeRead s loc h.area.length
  if bad then
    postRecord (setHart s i { h with
      mode := .trapped, trapHeld := true, resumeOk := false
      trapWait := some { code := 0x08, thread := .pacer, iaddr := h.pacer.th.pc } }) h.part (trapNotice loc h.gang)
  else if !headerHolds h.area bs then
    postRecord (endGang s h.part h.gang) h.part (restoreNotice loc h.gang h.hartid)
  else
    let h' := reloadRewritable h bs
    let h' := if areaIntact h.area bs then h' else scramble h' bs
    let s := vectorAfter (cacheAcquire s h.core sc) i
    setHart s i { h' with mode := m, trapHeld := m == .trapped, resumeOk := false, trapWait := none }

/-- A hart that holds a claim gets a context of its core again (R268); none while none is free. -/
def takeContext (s : State) (i : Nat) (h : Hart) : Option State :=
  if !h.anchor.claim || s.contexts.any (fun c => c.2 == i) then some s
  else if contextFree s h.core then some { s with contexts := s.contexts ++ [(h.core, i)] }
  else none

/-- A hart is restored unless it waits for a context, or for a fenced unit that holds its area or a line to be written back (R130). -/
def restoreWhenOpen (s : State) (i : Nat) (h : Hart) (sc : Scope) (m : HartMode) : State :=
  if areaFenced s h || dirtyFenced s h.core then s
  else
    match takeContext s i h with
    | none => s
    | some s => restoreHart s i h sc m

/-- HART_RESUME: a saved hart of a gang that has started again; a trapped one stays stopped until the driver resumes it (R276). -/
def hartResume (s : State) (i : Nat) : State :=
  match s.harts[i]? with
  | none => s
  | some h =>
    if !gangIs s h.part h.gang .resident then s
    else if h.mode == .saved && !h.trapHeld then restoreWhenOpen s i h .package .running
    else if h.mode == .saved && !h.resumeOk then restoreWhenOpen s i h .package .trapped
    else if (h.mode == .saved || h.mode == .trapped) && h.resumeOk then restoreWhenOpen s i h .system .running
    else s

/-- TRAPPED_HART_RESUME: the driver resumes a stopped hart at once, or marks it while its gang is not resident or it must wait (R276). -/
def trappedResume (s : State) (p : Fin 8) (gang : BitVec 32) (id : Nat) : State :=
  match (gangHarts s p gang).find? fun i => match s.harts[i]? with
    | some h => h.hartid == id
    | none => false with
  | none => s
  | some i =>
    match s.harts[i]? with
    | none => s
    | some h =>
      if saveEnded h && h.trapHeld then
        let s := setHart s i { h with resumeOk := true }
        if h.mode == .trapped then hartResume s i else s
      else s

/-! ### GFORCE (R384, R387, R401) -/

/-- END 0: the named gang is pre-empted. On a gang that is being pre-empted, or that preempt() has selected already, it has no effect: the
earlier request's deadline governs (R401). -/
def forcePreempt (s : State) (p : Fin 8) (v : Word) : State :=
  let gang : BitVec 32 := v.setWidth 32
  if v.getLsbD 32 && !v.getLsbD 33 && s.parts[p].psave.getLsbD 0 && (findGang s p gang).any (fun g => g.mode == .resident && !g.selected) then
    beginSave s p gang (v.toNat / 2 ^ 40)
  else s

/-- END 1: the gang ends at a hard stop, without a save, also while it is being saved. -/
def forceEnd (s : State) (p : Fin 8) (v : Word) : State :=
  let gang : BitVec 32 := v.setWidth 32
  if v.getLsbD 32 && v.getLsbD 33 && (gangIs s p gang .resident || gangIs s p gang .saving) then endGang s p gang else s

/-! ### The meanings -/

/-- PREEMPTION_START (R385). -/
def execPreemptionStart (p : Fin 8) (gang : BitVec 32) (s : State) : Out := .next (preemptionStart s p gang)

/-- PREEMPT_DEADLINE_EXPIRY (R386). -/
def execPreemptDeadlineExpiry (p : Fin 8) (gang : BitVec 32) (elems : List Nat) (s : State) : Out :=
  .next (deadlineExpiry s p gang elems)

/-- SAVE_COMPLETE (R385). -/
def execSaveComplete (h : Nat) (s : State) : Out := .next (saveComplete s h)

/-- HART_RESUME (R393). -/
def execHartResume (h : Nat) (s : State) : Out := .next (hartResume s h)

/-- TRAPPED_HART_RESUME (R276). -/
def execTrappedHartResume (p : Fin 8) (gang : BitVec 32) (hart : Nat) (s : State) : Out := .next (trappedResume s p gang hart)

/-- GFORCE_PREEMPT (R384): the PF's register; a VF's write is ignored. -/
def execGforcePreempt (fn : Fn) (p : Fin 8) (v : BitVec 64) (s : State) : Out :=
  .next (if Fn.drives s fn then forcePreempt s p v else s)

/-- GFORCE_END (R384). -/
def execGforceEnd (fn : Fn) (p : Fin 8) (v : BitVec 64) (s : State) : Out := .next (if Fn.drives s fn then forceEnd s p v else s)

end Sys2Proof.Machine
end

