-- ==== Sys2Proof/Machine/Host.lean ====
section
/-! DEFINITION. What the driver, the host and peers do to the device: its registers, TLB invalidation, replays, the fault
queue, page requests, accesses to device memory (R331, R368, R384, R396 to R400, R405, R411, R413, R417, R418). -/
namespace Sys2Proof.Machine

open Sys2Proof

/-! ### Registers of a partition (R384, R413) -/

/-- Bits [hi:lo] of a register value, in place. -/
def fieldBits (v : Word) (hi lo : Nat) : Word := BitVec.ofNat 64 (v.toNat % 2 ^ (hi + 1) / 2 ^ lo * 2 ^ lo)

/-- A ring register (R384, R405): LOGN at most 11, ADDR. -/
def ringRegister (v : Word) : Word := fieldBits v 51 6 ||| BitVec.ofNat 64 (min (v.toNat % 16) 11)

/-- A write of HEAD frees room, and waiting records are posted (R398). -/
def writeFqHead (s : State) (p : Fin 8) (v : Word) : State :=
  let s := modPart s p fun x => { x with fqhead := v.setWidth 16 }
  postWaiting s.parts[p].waiting.length s p

/-- A write of DIES takes effect when the partition has no resident gang and no packet, and no die is another's (R413). -/
def shapeWrite (s : State) (p : Fin 8) (v : Word) : State :=
  let dies : BitVec 8 := v.setWidth 8
  let idle := !(s.gangs.any fun g => g.part == p && g.mode != .saved) && s.queues.all fun x => x.part != p || x.packets.isEmpty
  let apart := (List.finRange 8).all fun q => q == p || s.parts[q].dies &&& dies == 0
  if idle && apart then modPart s p fun x => { x with dies := dies } else s

/-! ### TLB invalidation (R397) -/

/-- A write of TLBINV starts an invalidation; while one runs it waits until BUSY clears (R384). -/
def startInvalidate (s : State) (p : Fin 8) (page : Option Nat) : State :=
  modPart s p fun x =>
    if x.tlbinvBusy then { x with tlbinvNext := x.tlbinvNext ++ [page] } else { x with tlbinvBusy := true, tlbinvPage := page }

/-- TLBINV_COMPLETE: the entries are gone, and every access that used one has performed. The write that has waited longest starts the next
invalidation. -/
def finishInvalidate (s : State) (p : Fin 8) : State :=
  let x := s.parts[p]
  if x.tlbinvBusy && allPerform s p then
    let e := match x.tlbinvPage with
      | some va => pageEntry p va
      | none => partEntry p
    modPart (tlbInvalidate (performAll s p) e) p fun x =>
      match x.tlbinvNext with
      | [] => { x with tlbinvBusy := false, tlbinvPage := none }
      | page :: rest => { x with tlbinvPage := page, tlbinvNext := rest }
  else s

/-! ### Replays and page requests (R396, R400) -/

/-- The partition of what waits. -/
def Waiter.part (s : State) : Waiter → Option (Fin 8)
  | .thread i _ _ _ => (s.harts[i]?).map (·.part)
  | .engine i _ => (s.harts[i]?).map (·.part)
  | .head p _ => some p

/-- The waiter walks again. -/
def retryWaiter (s : State) (tok : BitVec 32) : Waiter → Out
  | .thread i _ _ _ => .next (modHart s i fun h => dropToken h tok)
  | .engine i q => .next (modQueue s i q fun cs => cs.map fun c => if c.token == some tok then { c with token := none } else c)
  | .head p q =>
    let s := modLaunch s p q fun x => { x with token := none }
    if (queueAt s p q).head.isSome then waitRecheck s p q else headCheck s p q

/-- A declined fetch or load of a thread: every token of that unit lapses, and it traps (R145, R233, R238). A fetch names the word that
failed, also in a loop's body, and leaves the convoy before it in the VIQ. Code 0 is the fetch of a word before its turn: it is noted. -/
def declineThread (s : State) (i : Nat) (u : ExecUnit) (code : BitVec 8) (va : Word) : State :=
  let mine : Waiter → Bool
    | .thread j v _ _ => j == i && v == u
    | _ => false
  let s := { s with waiters := s.waiters.filter fun w => !mine w.2, requests := s.requests.filter fun r => !mine r.waiter }
  match s.harts[i]? with
  | none => s
  | some h =>
    let h := match u with
      | .pacer => { h with pacer := { h.pacer with th := { h.pacer.th with tokens := [] } } }
      | .anchor => { h with anchor := { h.anchor with th := { h.anchor.th with tokens := [] } } }
      | .vector => { h with anchor := { h.anchor with vtokens := [] } }
    if code == 0 then setAnchor s i h { h.anchor with ahead := some va } else
    let at_ := if u == .vector || code == 0x06 then va else (h.th u.thread).pc
    let info : TrapInfo := { code := code, thread := u.thread, iaddr := at_, faddr := va }
    if u == .anchor && code == 0x06 then deliverStopped (setHart s i h) i info else deliverTrap (setHart s i h) i info

/-- The waiter ends with its own outcome. -/
def declineWaiter (s : State) (tok : BitVec 32) : Waiter → State
  | .thread i u code va => declineThread s i u code va
  | .engine i q => modQueue s i q fun cs => cs.map fun c => if c.token == some tok then { c with token := none, declined := true } else c
  | .head p q => launchError s p q 1

/-- The waiter that holds a token of a partition. -/
def waiterOf (s : State) (p : Fin 8) (tok : BitVec 32) : Option Waiter :=
  ((s.waiters.find? fun w => w.1 == tok && w.2.part s == some p)).map (·.2)

def forgetToken (s : State) (tok : BitVec 32) : State := { s with waiters := s.waiters.filter fun w => w.1 != tok }

/-- REPLAY ACT 1. -/
def replayRetry (s : State) (p : Fin 8) (tok : BitVec 32) : Out :=
  match waiterOf s p tok with
  | none => .next s
  | some w => retryWaiter (forgetToken s tok) tok w

/-- REPLAY ACT 2. -/
def replayDecline (s : State) (p : Fin 8) (tok : BitVec 32) : State :=
  match waiterOf s p tok with
  | none => s
  | some w => declineWaiter (forgetToken s tok) tok w

/-- The requests that a PRI response answers, one after another. -/
def answerRequests (granted : Bool) : State → List PageRequest → Out
  | s, [] => .next s
  | s, r :: rs =>
    let s := { s with requests := s.requests.filter fun x => x.token != r.token }
    if granted then
      match retryWaiter s r.token r.waiter with
      | .next s => answerRequests granted s rs
      | o => o
    else answerRequests granted (declineWaiter s r.token r.waiter) rs

/-- PRI_RESPONSE: a granted page is known from then on; a refused one ends what waits for it, with no record (R396). -/
def priAnswer (s : State) (p : Fin 8) (page : Nat) (granted : Bool) : Out :=
  let rs := s.requests.filter fun r => r.part == p && r.page == page
  let s := if granted && !s.granted.contains (p, page) then { s with granted := s.granted ++ [(p, page)] } else s
  answerRequests granted s rs

/-! ### Device memory from outside (R331, R368) -/

/-- Whether bytes lie in device memory. -/
def inDevice (loc n : Nat) : Bool :=
  decide (loc + n ≤ farBytes) || (decide (2 ^ 52 ≤ loc) && decide (loc + n ≤ 2 ^ 52 + nearBytes))

/-- Consecutive bytes of an outside write perform at the home. -/
def outsideStore (s : State) (loc : Nat) (data : List Byte) : State :=
  if inDevice loc data.length then homeWrite s loc data false else s

/-- The answer to an outside read: the bytes at the home, or none where they are poison (log 20). -/
def outsideRead (s : State) (loc n : Nat) : State :=
  if inDevice loc n then
    let (bs, bad) := homeRead s loc n
    { s with reads := s.reads ++ [if bad then [] else bs] }
  else s

/-- The operations of R234 by number: j and whether it compares as natural. -/
def peerOp (j : Fin 10) : AmoOp :=
  match j.val with
  | 0 => .add | 1 => .swap | 2 => .cas | 3 => .min | 4 => .max | 5 => .and | 6 => .or | 7 => .xor | 8 => .minn | _ => .maxn

/-- What a peer's access does at this device's home: stores, Shuttle reads and atomics on its far memory (R102, R235). -/
def peerAccess (s : State) (r : PeerReq) : State :=
  match r with
  | .store loc data => if regionOf loc == .far then outsideStore s loc data else s
  | .copyRead loc n => if regionOf loc == .far then outsideRead s loc n else s
  | .atomic loc op wide x expected =>
    let n := if wide then 8 else 4
    if loc % n ≠ 0 || !inDevice loc n || regionOf loc != .far then s
    else
      let (bs, bad) := homeRead s loc n
      if bad then { s with reads := s.reads ++ [[]] }
      else
        let size := 2 ^ (8 * n)
        let s' := match amoNew (peerOp op) n (leNat bs) (x.toNat % size) (expected.toNat % size) with
          | some v => homeWrite s loc (leBytes n v) false
          | none => s
        { s' with reads := s'.reads ++ [bs] }

/-- The bytes a request reaches, as (first, bytes). -/
def reqRange : PeerReq → Nat × Nat
  | .store loc data => (loc, data.length)
  | .copyRead loc n => (loc, n)
  | .atomic loc _ wide _ _ => (loc, if wide then 8 else 4)

/-- A request of the host or of a peer performs at the home; in recovery mode device memory is not exposed (R409). -/
def performRequest (s : State) (who : Outsider) (r : PeerReq) : State :=
  if s.mgmt.recov then s
  else
    match who, r with
    | .peer _, r => peerAccess s r
    | .function _, .store loc data => outsideStore s loc data
    | .function _, .copyRead loc n => outsideRead s loc n
    | .function _, .atomic _ _ _ _ _ => s

/-- A request from outside performs, or waits at a fenced unit and behind those of the same function or peer that wait: none is dropped, and
those of one function perform in the order received (R130, R331). -/
def outsideRequest (s : State) (who : Outsider) (r : PeerReq) : State :=
  if (s.outside.any fun x => x.1 == who) || rangeFenced s (reqRange r).1 (reqRange r).2 then { s with outside := s.outside ++ [(who, .mem r)] }
  else performRequest s who r

/-- What waits is made again, in the order received. -/
def outsideAgain (s : State) : State :=
  s.outside.foldl (fun s x =>
    match x.1, x.2 with
    | who, .mem r => outsideRequest s who r
    | .function fn, .launch p q off data en cls => launchQueued s fn p q off data en cls
    | .peer _, .launch _ _ _ _ _ _ => s) { s with outside := [] }

/-! ### The registers as they read -/

/-- QSTAT (R370). -/
def qstat (x : LaunchQueue) : Nat :=
  (256 - x.packets.length) + x.ovf.toNat * 2 ^ 16 + x.rej.toNat * 2 ^ 32 + x.skip * 2 ^ 48 + bitNat x.hwait 56 + bitNat x.rsv 57

/-- QCFG (R370). -/
def qcfg (x : LaunchQueue) : Nat := bitNat x.en 0 + x.cls.val * 2 + x.weight * 2 ^ 8 + x.dline * 2 ^ 16

/-- A register of a queue's block. -/
def queueRegister (x : LaunchQueue) (off : Nat) : Word :=
  BitVec.ofNat 64 (match off with
    | 0x40 => qstat x
    | 0x48 => qcfg x
    | 0x50 => x.last.toNat
    | _ => 0)

/-- A register of a partition's block (R370, R384, R413); what is written only reads 0. -/
def partRegister (x : Partition) (off : Nat) : Word :=
  match off with
  | 0x00 => BitVec.ofNat 64 x.quantum
  | 0x08 => x.psave
  | 0x10 => x.ptroot
  | 0x18 => BitVec.ofNat 64 (bitNat x.tlbinvBusy 2)
  | 0x20 => x.fqbase
  | 0x28 => BitVec.ofNat 64 (x.fqhead.toNat + x.fqtail.toNat * 2 ^ 16)
  | 0x40 => x.dies.setWidth 64
  | _ => 0

/-- What a read of the BAR0 of a function gives (R370, R384, R405, R411, R413, R417, R418). -/
def readRegister (s : State) (fn : Fn) (off : Nat) : Word :=
  if s.mgmt.recov && !(off == 0x300000 || off == 0x300008 || off == 0x300010) then 0
  else match fn with
  | .vf p => if off < 0x4000 then queueRegister (queueAt s p (Fin.ofNat 64 (off / 0x100))) (off % 0x100) else 0
  | .pf =>
    if 0x100000 ≤ off ∧ off < 0x120000 then
      let o := off - 0x100000
      queueRegister (queueAt s (Fin.ofNat 8 (o / 0x4000)) (Fin.ofNat 64 (o % 0x4000 / 0x100))) (o % 0x100)
    else if 0x200000 ≤ off ∧ off < 0x200800 then
      let o := off - 0x200000
      partRegister s.parts[(Fin.ofNat 8 (o / 0x100))] (o % 0x100)
    else
      let m := s.mgmt
      match off with
      | 0x300000 => m.elbase
      | 0x300008 => BitVec.ofNat 64 (m.elhead.toNat + m.eltail.toNat * 2 ^ 16 + m.lost.toNat * 2 ^ 32)
      | 0x300010 => BitVec.ofNat 64 (bitNat m.fatal 0 + bitNat m.dump 1 + bitNat m.recov 2)
      | 0x300018 => BitVec.ofNat 64 (m.watts + bitNat m.throt 12 + m.tj.toNat * 2 ^ 16)
      | 0x310000 | 0x310008 | 0x310010 | 0x310018 => BitVec.ofNat 64 (leNat ((m.nonce.drop (off - 0x310000)).take 8))
      | 0x310020 => m.attBuf
      | 0x310030 => m.attStatus
      | 0x320000 => m.tsaddr
      | 0x320010 => m.tsstat
      | _ => 0

/-- A write of a register that stores its RW fields and does nothing else (R5); any other offset is left alone. Only the PF
reaches them (R384, R405). -/
def writeRegister (s : State) (off : Nat) (v : Word) : State :=
  if 0x200000 ≤ off ∧ off < 0x200800 then
    let p := Fin.ofNat 8 ((off - 0x200000) / 0x100)
    match (off - 0x200000) % 0x100 with
    | 0x08 => modPart s p fun x => { x with psave := fieldBits v 51 12 ||| fieldBits v 0 0 }
    | 0x10 => modPart s p fun x => { x with ptroot := fieldBits v 51 12 ||| fieldBits v 0 0 }
    | _ => s
  else
    let m := s.mgmt
    match off with
    | 0x300008 => { s with mgmt := { m with elhead := v.setWidth 16 } }
    | 0x310000 | 0x310008 | 0x310010 | 0x310018 =>
      { s with mgmt := { m with nonce := patchBytes m.nonce (off - 0x310000) (leBytes 8 v.toNat) } }
    | 0x310020 => { s with mgmt := { m with attBuf := v } }
    | 0x320000 => { s with mgmt := { m with tsaddr := v } }
    | _ => s

/-! ### The meanings -/

/-- TLBINV_PAGE (R397). -/
def execTlbinvPage (fn : Fn) (p : Fin 8) (v : BitVec 64) (s : State) : Out :=
  .next (if Fn.drives s fn && v.toNat % 4 = 1 then startInvalidate s p (some (fieldBits v 51 12).toNat) else s)

/-- TLBINV_PARTITION (R397). -/
def execTlbinvPartition (fn : Fn) (p : Fin 8) (v : BitVec 64) (s : State) : Out :=
  .next (if Fn.drives s fn && v.toNat % 4 = 2 then startInvalidate s p none else s)

/-- TLBINV_COMPLETE (R397). -/
def execTlbinvComplete (p : Fin 8) (s : State) : Out := .next (finishInvalidate s p)

/-- REPLAY_RETRY (R400). -/
def execReplayRetry (fn : Fn) (p : Fin 8) (token : BitVec 32) (s : State) : Out :=
  if Fn.drives s fn then replayRetry s p token else .next s

/-- REPLAY_DECLINE (R400). -/
def execReplayDecline (fn : Fn) (p : Fin 8) (token : BitVec 32) (s : State) : Out :=
  .next (if Fn.drives s fn then replayDecline s p token else s)

/-- FQPTR_WRITE (R398). -/
def execFqptrWrite (fn : Fn) (p : Fin 8) (v : BitVec 64) (s : State) : Out := .next (if Fn.drives s fn then writeFqHead s p v else s)

/-- FQBASE_WRITE (R384). -/
def execFqbaseWrite (fn : Fn) (p : Fin 8) (v : BitVec 64) (s : State) : Out :=
  .next (if Fn.drives s fn then modPart s p fun x => { x with fqbase := ringRegister v } else s)

/-- PSHAPE_WRITE (R413). -/
def execPshapeWrite (fn : Fn) (p : Fin 8) (v : BitVec 64) (s : State) : Out := .next (if Fn.drives s fn then shapeWrite s p v else s)

/-- PRI_RESPONSE (R396). -/
def execPriResponse (p : Fin 8) (page : Nat) (granted : Bool) (s : State) : Out := priAnswer s p page granted

/-- HOST_DEVICE_WRITE (R331). -/
def execHostDeviceWrite (fn : Fn) (loc : Nat) (data : List (BitVec 8)) (s : State) : Out :=
  .next (outsideRequest s (.function fn) (.store loc data))

/-- HOST_DEVICE_READ (R331). -/
def execHostDeviceRead (fn : Fn) (loc : Nat) (n : Nat) (s : State) : Out :=
  .next (outsideRequest s (.function fn) (.copyRead loc n))

/-- HOST_ATOMICOP (R368): completed with Unsupported Request; nothing changes. -/
def execHostAtomicop (_fn : Fn) (_loc : Nat) (s : State) : Out := .next s

/-- PEER_REQUEST (R331). -/
def execPeerRequest (peer : Fin 16) (req : PeerReq) (s : State) : Out := .next (outsideRequest s (.peer peer) req)

/-- REGISTER_WRITE (R5). -/
def execRegisterWrite (fn : Fn) (off : Nat) (v : BitVec 64) (s : State) : Out :=
  .next (if Fn.drives s fn || (fn == .pf && off == 0x300008) then writeRegister s off v else s)

end Sys2Proof.Machine
end

