-- ==== Sys2Proof/Machine/Errors.lean ====
section
/-! DEFINITION. Errors and recovery, the error log, fatal errors and the dump, firmware and attestation, telemetry, power and
temperature, and the resets (R383, R402 to R412, R417, R418). -/
namespace Sys2Proof.Machine

open Sys2Proof

/-! ### Recovery (R403, R404) -/

/-- What identifies a unit: its kind and place. -/
def unitKey : ErrUnit → List Nat
  | .nearRow core row => [0, core, row]
  | .nearBank core bank => [1, core, bank]
  | .hbmRow stack row => [2, stack, row]
  | .track core t => [3, core, t]

/-- CLASS, UNIT and DIE of a unit's record (R402, R405). -/
def unitClass : ErrUnit → Nat × Nat × Nat
  | .nearRow core _ => (0, 0, coreDie core)
  | .nearBank core _ => (0, 1, coreDie core)
  | .hbmRow stack _ => (1, 0, stack / 3)
  | .track core _ => (3, 2, coreDie core)

/-- Which spares a unit draws on, and how many there are (R404). -/
def sparesOf : ErrUnit → List Nat × Nat
  | .nearRow core row => ([0, core, row % 128], 16)
  | .nearBank core _ => ([1, core], 2)
  | .hbmRow stack row => ([2, stack, Config.hbmBank row], 4)
  | .track core t => ([3, core, t], 1)

/-- WHERE: the physical address, or core × 4 + track. -/
def placeOf (u : ErrUnit) (loc : Nat) : Nat :=
  match u with
  | .track core t => core * 4 + t
  | .hbmRow _ _ => loc
  | _ => 0xF000000000000 + (loc - 2 ^ 52)

def trackPositions (core t : Nat) : List Nat := positionsOf 3 core (BitVec.ofNat 4 (2 ^ t)) 0

/-- A track is fenced by pre-empting the gangs that hold it, with a deadline of 65,536 cycles. -/
def fenceTrack (s : State) (core t : Nat) : State :=
  let holds := fun (g : Gang) => g.mode == .resident && s.parts[g.part].psave.getLsbD 0 &&
    (gangPositions s g).any ((trackPositions core t).contains ·)
  (s.gangs.filter holds).foldl (fun s g => beginSave s g.part g.gangid 64) s

/-- Steps 1 and 2 of R403: a record with OUTCOME 0, and the fence. An error in a unit that is under recovery is only counted
and recorded (R412). -/
def startRecovery (s : State) (u : ErrUnit) (sev loc : Nat) : State :=
  let (cls, unit, die) := unitClass u
  let (s, cnt) := countError s (unitKey u)
  let s := postLog s (logRecord s cls unit sev 0 die (placeOf u loc) cnt)
  if s.mgmt.recoveries.any fun r => r.unit == u then s
  else
    let s := modMgmt s fun m => { m with recoveries := m.recoveries ++ [⟨u, cls, unit, placeOf u loc, sev⟩] }
    match u with
    | .track core t => fenceTrack s core t
    | _ => s

/-- A trap whose delivery waited for a fenced unit is delivered. -/
def deliverWaiting (s : State) (i : Nat) : State :=
  match s.harts[i]? with
  | none => s
  | some h =>
    match h.mode, h.trapWait with
    | .stopping, some info => deliverStopped s i info
    | _, _ => s

/-- What has waited at a unit that is open again: the requests from outside, and the saves of stopped harts. Whatever else waits is made
again by its own event. -/
def afterFence (s : State) : State :=
  let s := outsideAgain s
  (List.range s.harts.length).foldl deliverWaiting s

/-- RECOVERY_COMPLETE: steps 4 to 7. passed: all three march passes succeeded. A track is tested once no hart holds it. After a fatal error
the unit stays fenced (R412). -/
def finishRecovery (s : State) (u : ErrUnit) (passed : Bool) : State :=
  if s.mgmt.fatal then s else
  match s.mgmt.recoveries.find? fun r => r.unit == u with
  | none => s
  | some r =>
    let ready := match u with
      | .track core t => !s.harts.any fun h => holdsTracks s h && h.positions.any ((trackPositions core t).contains ·)
      | _ => true
    if !ready then s
    else
      let (key, spares) := sparesOf u
      let spare := decide (lookup s.mgmt.sparesUsed key < spares)
      let outcome := if passed then 1 else if spare then 2 else 3
      let s := modMgmt s fun m => { m with
        recoveries := m.recoveries.filter fun x => x.unit != u
        sparesUsed := if outcome = 2 then bump m.sparesUsed key else m.sparesUsed
        degraded := if outcome = 3 then m.degraded ++ [u] else m.degraded }
      let s := postLog s (logRecord s r.cls r.unitCode r.sev outcome (unitClass u).2.2 r.place (lookup s.mgmt.counts (unitKey u)))
      match u with
      | .track core t => (List.finRange 8).foldl (fun s p => if partHasCore s p core then freeTracks s p (trackPositions core t) else s) s
      | _ => afterFence s

/-! ### Where an error strikes (R402) -/

/-- The poison of an uncorrectable word or unit of memory. -/
def poisonMem (s : State) (loc : Nat) : State :=
  let n := poisonUnit loc
  { s with poison := poisonAfter s.poison (loc / n * n) n true }

/-- The elements of a type that a 32-bit word of a register holds. -/
def elemsOfWord (t : ElemType) (n word : Nat) : List Nat :=
  (List.range n).filter fun e => decide (e * width t < 32 * word + 32) && decide (32 * word < e * width t + width t)

def firstTrack (h : Hart) : Nat := ((List.range 4).find? fun t => h.tracks.getLsbD t).getD 0

/-- A record of a storage that no recovery covers. -/
def recordError (s : State) (cls unit sev die place : Nat) (key : List Nat) : State :=
  let (s, cnt) := countError s key
  postLog s (logRecord s cls unit sev 0 die place cnt)

def sevOf (correctable : Bool) : Nat := if correctable then 0 else 1

/-- ERROR_DETECTED. A corrected error changes nothing but the log and the recovery it starts. The stored bytes of a struck L1 line become
poison, the others are those of their home; where that is fenced the line stays until it can be written back. -/
def detectError (s : State) (e : ErrorEvent) : State :=
  match e with
  | .memory u ok loc =>
    match u with
    | .track _ _ => startRecovery s u (sevOf ok) loc
    | _ => if inUnit u loc && inDevice loc 1 then startRecovery (if ok then s else poisonMem s loc) u (sevOf ok) loc else s
  | .l1Line core ok line =>
    let s := recordError s 2 3 (sevOf ok) (coreDie core) (line * 64) [4, core, line]
    if ok then s
    else
      match l1Hit s core line with
      | none => s
      | some l =>
        let fresh := l.refresh s fun _ => true
        let l := { fresh with poison := fresh.poison ++ l.dirty }
        if rangeFenced s (line * 64) 64 && !l.dirty.isEmpty then l1Put s l else l1Drop (l1WriteBytes s l l.dirty) core line
  | .farLine die ok line =>
    let s := recordError s 2 3 (sevOf ok) die (line * 64) [5, die, line]
    if ok then s else farDrop s (some die) line
  | .vectorReg i ok v word =>
    match s.harts[i]? with
    | none => s
    | some h =>
      let r := h.anchor.vregs[v]
      let hit := match r.ty with
        | some t => (elemsOfWord t r.elems.length word).filter fun e => !r.poison.contains e
        | none => []
      let s := if ok then s else setAnchor s i h { h.anchor with vregs := h.anchor.vregs.set v { r with poison := r.poison ++ hit } }
      startRecovery s (.track h.core (firstTrack h)) (sevOf ok) 0
  | .scalarReg i ok t r =>
    match s.harts[i]? with
    | none => s
    | some h =>
      let s := recordError s 4 4 (sevOf ok) (coreDie h.core) (h.core * 4 + firstTrack h) [6, i, if t == .pacer then 0 else 1, r.val]
      if ok || r == 0 then s
      else
        let th := (h.th t)
        setHart { s with free := s.free + 1 } i (h.setTh t { th with
          regs := th.regs.set r (Config.freeBits s.free)
          lost := r :: th.lost.filter (· != r) })
  | .tile i ok t =>
    match s.harts[i]? with
    | none => s
    | some h =>
      let s := recordError s 5 4 (sevOf ok) (coreDie h.core) (h.core * 4 + firstTrack h) [7, i, t.val]
      if ok then s else setAnchor s i h (setTile h.anchor t { h.anchor.tiles[t] with poison := true })

/-! ### Fatal errors and the dump (R406, R407) -/

/-- A thermal trip's record has CLASS 0xFF; the spec gives its other fields no value, so they are free. -/
def thermalTrip (s : State) (tj : BitVec 8) : State :=
  let f := fun k => (Config.freeBits (s.free + k)).toNat
  fatalStop (modMgmt { s with free := s.free + 3 } fun m => { m with tj := tj, throt := true }) 0xFF (f 0 % 256) (f 1 % 10) (f 2)

/-- Padded with zeros or cut to a length. -/
def fit (n : Nat) (bs : List Byte) : List Byte := bs.take n ++ zeros (n - bs.length)

/-- The save area of a hart that was resident, as the firmware puts it into the dump: that of its trap as it lies in memory, or one with HARD
set; and whether it could be read intact. -/
def dumpArea (s : State) (h : Hart) : List Byte × Bool :=
  if h.trapHeld then
    let (bs, bad) := homeRead s (slotLoc s.parts[h.part].psave h.slot) h.area.length
    (bs, !bad)
  else (saveArea h none true, true)

def roundPage (n : Nat) : Nat := (n + 4095) / 4096 * 4096

/-- The directory and the areas, from an offset; an entry is VALID where its area is intact. -/
def dumpAreas (s : State) : Nat → List (Hart × Bool) → List Byte × List Byte
  | _, [] => ([], [])
  | off, (h, ok) :: rest =>
    let (a, intact) := dumpArea s h
    let (dir, body) := dumpAreas s (off + roundPage a.length) rest
    (leBytes 8 off ++ leBytes 4 a.length ++ leBytes 2 h.core ++ leBytes 1 h.part.val ++ leBytes 1 (bitNat (ok && intact) 0) ++ dir,
      fit (roundPage a.length) a ++ body)

/-- A queue in the dump: 256 bytes (log 13). -/
def dumpQueue (x : LaunchQueue) : List Byte :=
  fit 256 (leBytes 8 (qstat x) ++ leBytes 8 (qcfg x) ++ leBytes 8 (BitVec.ofInt 64 x.deficit).toNat ++
    ((x.packets.head?).map fun k => fit 64 k.bytes).getD (zeros 64))

/-- VALID of the dump's header: the error log, the Starter state, the directory and the areas, by bit. Which of them the firmware could read
intact is free (log 13); the areas are not while one of them is not. -/
def dumpValid (s : State) (areas : Bool) : Nat :=
  let ok := fun k => (Config.freeBits s.free).getLsbD k
  bitNat (ok 0) 0 + bitNat (ok 1) 1 + bitNat (ok 2) 2 + bitNat (ok 3 && areas) 3

/-- The harts that the dump records. -/
def dumpHartsOf (s : State) : List (Hart × Bool) := s.mgmt.dumpHarts.filterMap fun x => (s.harts[x.1]?).map fun h => (h, x.2)

/-- The dump region's contents. -/
def dumpBytes (s : State) : List Byte :=
  let m := s.mgmt
  let valid := dumpValid s ((dumpHartsOf s).all fun x => x.2 && (dumpArea s x.1).2)
  let header := leBytes 4 0x504D5544 ++ leBytes 2 1 ++ leBytes 2 valid ++ leBytes 1 m.dumpCause.toNat ++ leBytes 1 m.dumpDie ++ zeros 54 ++
    (List.range 10).flatMap fun d => leBytes 8 (dieCycle s d).toNat
  let log := ((m.log.drop (m.log.length - 4096)).map (fit 64)).flatten
  let starter := (List.finRange 8).flatMap fun p => (List.finRange 64).flatMap fun q => dumpQueue (queueAt s p q)
  let (dir, body) := dumpAreas s (548 * 1024) (dumpHartsOf s)
  fit 4096 header ++ fit (256 * 1024) log ++ starter ++ fit (160 * 1024) dir ++ body

/-- DUMP_COMPLETE. -/
def completeDump (s : State) : State :=
  let bs := dumpBytes s
  if s.mgmt.fatal && !s.mgmt.dump && !rangeFenced s dumpBase bs.length then
    modMgmt (homeWrite { s with free := s.free + 1 } dumpBase bs false) fun m => { m with dump := true }
  else s

/-! ### Firmware and attestation (R408 to R411) -/

/-- The image in a slot: as many bytes as its header says, a header of 4 KiB, then the body (R408; log 13). -/
def imageOf (slot : List Byte) : List Byte := slot.take (Config.fwLength (slot.take 4096))

/-- Whether the boot ROM accepts the image in a slot (R409). -/
def imageAccepted (minSvn : Nat) (slot : List Byte) : Bool :=
  let header := slot.take 4096
  decide (4096 ≤ Config.fwLength header) && decide (Config.fwLength header ≤ slot.length) && Config.fwMagic header == 0x57464E59 &&
    sha256 (Config.fwKey header) == Config.fusedDigest &&
    hssVerify (Config.fwKey header) (header.take 64) (Config.fwSignature header).toList &&
    sha256 ((imageOf slot).drop 4096) == Config.fwDigest header && decide (minSvn ≤ (Config.fwSvn header).toNat)

/-- FIRMWARE_BOOT: slot A, then slot B. An accepted image may raise the fused minimum; whether it does is free. -/
def bootFirmware (s : State) (a b : List Byte) : State :=
  if s.mgmt.running then s
  else
    let ok := imageAccepted s.mgmt.minSvn
    match (if ok a then some a else if ok b then some b else none) with
    | none => modMgmt s fun m => { m with recov := true }
    | some slot =>
      let image := imageOf slot
      let svn := (Config.fwSvn (slot.take 4096)).toNat
      let raise := (Config.freeBits s.free).getLsbD 0
      modMgmt { s with free := s.free + 1 } fun m => { m with
        running := true, recov := false, image := image, svn := svn, minSvn := if raise then max m.minSvn svn else m.minSvn }

/-- A buffer of n bytes for a request: a multiple of 64, each page of which the PF's translation reaches (R411, R417). -/
def goodBuffer (a : Word) (n : Nat) : Bool :=
  a.toNat % 64 == 0 && decide (a.toNat + n ≤ 2 ^ 52) &&
    (List.range ((a.toNat + n - 1) / 4096 - a.toNat / 4096 + 1)).all fun k => Config.hostReachable (a.toNat / 4096 + k)

/-- ATTESTATION_REQUEST: the leaf is spent before anything leaves the device. -/
def attestationRequest (s : State) : State :=
  let m := s.mgmt
  let status := fun (n : Nat) => modMgmt s fun m => { m with attStatus := BitVec.ofNat 64 n }
  if !m.running then s
  else if m.attestation.isSome then status 1
  else if !goodBuffer m.attBuf 5632 then status 2
  else if 2 ^ 20 ≤ m.leaf then status 3
  else modMgmt s fun m => { m with leaf := m.leaf + 1, attestation := some ⟨m.attBuf.toNat, m.nonce, m.leaf⟩ }

/-- The report (R411). -/
def attestationReport (m : Management) (a : Attestation) : List Byte :=
  let msg := fit 32 a.nonce ++ fit 32 (sha256 m.image) ++ fit 32 Config.microcodeDigest ++ leBytes 2 1 ++ leBytes 1 m.svn ++ zeros 1 ++
    leBytes 4 a.leaf ++ zeros 408
  msg ++ fit 5076 (Config.hssSign a.leaf msg) ++ zeros 44

/-- ATTESTATION_DONE. -/
def attestationDone (s : State) : State :=
  match s.mgmt.attestation with
  | none => s
  | some a =>
    modMgmt (homeWrite s (hostLoc pfPasid a.buffer) (attestationReport s.mgmt a) false) fun m => { m with attestation := none, attStatus := 0 }

/-! ### Telemetry (R417) -/

/-- When each of the ten dies is captured after the first, free within 32 cycles, and SPREAD: when the last is (R417). -/
def captureTimes (free : Nat) : List Nat × Nat :=
  let ks := (List.range 10).map fun d => (Config.freeBits (free + d)).toNat % 33
  let ks := ks.map fun k => k - ks.min?.getD 0
  (ks, ks.max?.getD 0)

/-- TELEMETRY_SNAPSHOT: the ten counters are captured within SPREAD, at most 32 cycles; how far apart is free. -/
def startSnapshot (s : State) : State :=
  let m := s.mgmt
  let status := fun (n : Nat) => modMgmt s fun m => { m with tsstat := BitVec.ofNat 64 n }
  if m.snapshot.isSome then status 1
  else if !goodBuffer m.tsaddr 128 then status 2
  else
    let (ks, spread) := captureTimes s.free
    let cyc := ks.zipIdx.map fun k => dieCycle s k.2 + BitVec.ofNat 64 k.1
    modMgmt { s with free := s.free + 10 } fun m => { m with snapshot := some ⟨m.tsaddr.toNat, cyc ++ [BitVec.ofNat 64 spread]⟩ }

/-- TELEMETRY_SNAPSHOT_DONE: 128 bytes, then TSSTAT. -/
def finishSnapshot (s : State) : State :=
  match s.mgmt.snapshot with
  | none => s
  | some x =>
    modMgmt (homeWrite s (hostLoc pfPasid x.buffer) (fit 128 (x.cycles.flatMap fun w => leBytes 8 w.toNat)) false)
      fun m => { m with snapshot := none, tsstat := 0 }

/-! ### Resets -/

/-- Function-level reset of VF p: packets are discarded, gangs end at a hard stop, counts return to their reset values (R383), and the
queues have accepted no packet since (R370, R378). -/
def resetVf (s : State) (p : Fin 8) : State :=
  let s := (s.gangs.filter fun g => g.part == p).foldl (fun s g => endGang s p g.gangid) s
  let ofHead : Waiter → Bool
    | .head p' _ => p' == p
    | _ => false
  let s := { s with
    queues := s.queues.map fun x => if x.part == p then
      { x with packets := [], ovf := 0, rej := 0, skip := 0, hwait := false, rsv := false, last := 0, seq := 0, head := none, token := none }
      else x
    waiters := s.waiters.filter fun w => !ofHead w.2
    requests := s.requests.filter fun r => !ofHead r.waiter
    watchers := s.watchers.filter fun w => match w.who with
      | .head p' _ => p' != p
      | _ => true }
  modPart s p fun x => { x with held := [] }

/-- What a device reset leaves: the model's own fields, memory with its poison, what is fused or retired (R407, R409, R410). -/
def resetDevice (s : State) : State :=
  { State.reset with
    mem := s.mem
    poison := s.poison
    mgmt := { Management.reset with
      leaf := s.mgmt.leaf, minSvn := s.mgmt.minSvn, sparesUsed := s.mgmt.sparesUsed, tj := s.mgmt.tj
      throt := decide (100 ≤ s.mgmt.tj.toNat) }
    reads := s.reads
    msix := s.msix
    tick := s.tick
    agenda := s.agenda
    free := s.free
    cur := s.cur }

/-- POWER_LOSS: device memory is lost beside all else; the leaf counter and the fuses stay (R410, R412). -/
def powerLoss (s : State) : State :=
  let s := resetDevice s
  { s with mem := s.mem.filter fun c => decide (2 ^ 60 ≤ c.1), poison := s.poison.filter fun a => decide (2 ^ 60 ≤ a) }

/-! ### The meanings -/

/-- ERROR_DETECTED (R402, R403). -/
def execErrorDetected (err : ErrorEvent) (s : State) : Out := .next (detectError s err)

/-- RECOVERY_COMPLETE (R403, R404). -/
def execRecoveryComplete (unit : ErrUnit) (passed : Bool) (s : State) : Out := .next (finishRecovery s unit passed)

/-- FATAL_ERROR (R406); UNIT and WHERE of its record are free. -/
def execFatalError (cause : BitVec 8) (die : Fin 16) (s : State) : Out :=
  .next (fatalStop { s with free := s.free + 2 } cause ((Config.freeBits s.free).toNat % 256) die.val (Config.freeBits (s.free + 1)).toNat)

/-- DUMP_COMPLETE (R407). -/
def execDumpComplete (s : State) : Out := .next (completeDump s)

/-- THERMAL_TRIP (R418). -/
def execThermalTrip (s : State) : Out := .next (thermalTrip s 115)

/-- THERMAL_THROTTLE (R418): issue rates are lowered while TJ is at or above 100 °C or the power lies above its cap; 115 °C is a trip. -/
def execThermalThrottle (tj : BitVec 8) (s : State) : Out :=
  .next (if 115 ≤ tj.toNat then thermalTrip s tj else modMgmt s fun m => { m with tj := tj, throt := m.overCap || decide (100 ≤ tj.toNat) })

/-- PLIMIT_WRITE (R418): WATTS is clamped. It governs from the next millisecond (R420). -/
def execPlimitWrite (fn : Fn) (v : BitVec 64) (s : State) : Out :=
  .next (if Fn.drives s fn then modMgmt s fun m => { m with watts := min (max (v.toNat % 2 ^ 12) 1400) 2800 } else s)

/-- POWER_CAP_THROTTLE (R418, R420): a millisecond ends; its average power against the cap that governed it, and TJ against 100 °C. The next
is governed by WATTS as it stands now. -/
def execPowerCapThrottle (watts : Nat) (s : State) : Out :=
  .next (modMgmt s fun m => { m with
    overCap := decide (m.cap < watts), throt := decide (m.cap < watts) || decide (100 ≤ m.tj.toNat), cap := m.watts })

/-- ELBASE_WRITE (R405). -/
def execElbaseWrite (fn : Fn) (v : BitVec 64) (s : State) : Out :=
  .next (if fn == .pf then modMgmt s fun m => { m with elbase := ringRegister v } else s)

/-- TELEMETRY_SNAPSHOT (R417). -/
def execTelemetrySnapshot (fn : Fn) (v : BitVec 64) (s : State) : Out := .next (if Fn.drives s fn && v == 1 then startSnapshot s else s)

/-- TELEMETRY_SNAPSHOT_DONE (R417). -/
def execTelemetrySnapshotDone (s : State) : Out := .next (finishSnapshot s)

/-- ATTESTATION_REQUEST (R411). -/
def execAttestationRequest (fn : Fn) (v : BitVec 64) (s : State) : Out :=
  .next (if Fn.drives s fn && v == 1 then attestationRequest s else s)

/-- ATTESTATION_DONE (R411). -/
def execAttestationDone (s : State) : Out := .next (attestationDone s)

/-- FIRMWARE_BOOT (R409). -/
def execFirmwareBoot (slotA : List (BitVec 8)) (slotB : List (BitVec 8)) (s : State) : Out := .next (bootFirmware s slotA slotB)

/-- VF_FUNCTION_LEVEL_RESET (R383). -/
def execVfFunctionLevelReset (p : Fin 8) (s : State) : Out := .next (resetVf s p)

/-- PF_FUNCTION_LEVEL_RESET (R406). -/
def execPfFunctionLevelReset (s : State) : Out := .next (resetDevice s)

/-- POWER_LOSS (R412). -/
def execPowerLoss (s : State) : Out := .next (powerLoss s)

end Sys2Proof.Machine
end

