-- ==== Sys2Proof/Machine/Vector.lean ====
section
/-! DEFINITION. The meanings of the Anchor's vector, mask, shape and forest instructions: each enters the VIQ in the front end,
and has its effect (effectOf) in the vector unit (R23, R189 to R230). -/
namespace Sys2Proof.Machine

open Sys2Proof

/-- VADD (R191, R195, R196, R197). -/
def execVadd (p : Pred) (d : VDst) (s1 : VSrc) (s2 : VSrc) (s : State) : Out := vectorInstr (.vadd p d s1 s2) s

/-- VSUB (R191, R195, R196, R197). -/
def execVsub (p : Pred) (d : VDst) (s1 : VSrc) (s2 : VSrc) (s : State) : Out := vectorInstr (.vsub p d s1 s2) s

/-- VMUL (R191, R195, R196, R197). -/
def execVmul (p : Pred) (d : VDst) (s1 : VSrc) (s2 : VSrc) (s : State) : Out := vectorInstr (.vmul p d s1 s2) s

/-- VMULH (R191, R195, R196, R197). -/
def execVmulh (p : Pred) (d : VDst) (s1 : VSrc) (s2 : VSrc) (s : State) : Out := vectorInstr (.vmulh p d s1 s2) s

/-- VFMA (R191, R195, R196, R197). -/
def execVfma (p : Pred) (d : VDst) (s1 : VSrc) (s2 : VSrc) (s3 : VSrc) (s : State) : Out := vectorInstr (.vfma p d s1 s2 s3) s

/-- VFMS (R191, R195, R196, R197). -/
def execVfms (p : Pred) (d : VDst) (s1 : VSrc) (s2 : VSrc) (s3 : VSrc) (s : State) : Out := vectorInstr (.vfms p d s1 s2 s3) s

/-- VDIV (R191, R195, R196, R197). -/
def execVdiv (p : Pred) (d : VDst) (s1 : VSrc) (s2 : VSrc) (s : State) : Out := vectorInstr (.vdiv p d s1 s2) s

/-- VSQRT (R191, R195, R196, R197). -/
def execVsqrt (p : Pred) (d : VDst) (s1 : VSrc) (s : State) : Out := vectorInstr (.vsqrt p d s1) s

/-- VRCP (R191, R195, R196, R197). -/
def execVrcp (p : Pred) (d : VDst) (s1 : VSrc) (s : State) : Out := vectorInstr (.vrcp p d s1) s

/-- VRSQ (R191, R195, R196, R197). -/
def execVrsq (p : Pred) (d : VDst) (s1 : VSrc) (s : State) : Out := vectorInstr (.vrsq p d s1) s

/-- VEXP2 (R191, R195, R196, R197). -/
def execVexp2 (p : Pred) (d : VDst) (s1 : VSrc) (s : State) : Out := vectorInstr (.vexp2 p d s1) s

/-- VLOG2 (R191, R195, R196, R197). -/
def execVlog2 (p : Pred) (d : VDst) (s1 : VSrc) (s : State) : Out := vectorInstr (.vlog2 p d s1) s

/-- VMIN (R191, R195, R196, R197). -/
def execVmin (p : Pred) (d : VDst) (s1 : VSrc) (s2 : VSrc) (s : State) : Out := vectorInstr (.vmin p d s1 s2) s

/-- VMAX (R191, R195, R196, R197). -/
def execVmax (p : Pred) (d : VDst) (s1 : VSrc) (s2 : VSrc) (s : State) : Out := vectorInstr (.vmax p d s1 s2) s

/-- VABS (R191, R195, R196, R197). -/
def execVabs (p : Pred) (d : VDst) (s1 : VSrc) (s : State) : Out := vectorInstr (.vabs p d s1) s

/-- VNEG (R191, R195, R196, R197). -/
def execVneg (p : Pred) (d : VDst) (s1 : VSrc) (s : State) : Out := vectorInstr (.vneg p d s1) s

/-- VAND (R191, R195, R196, R197). -/
def execVand (p : Pred) (d : VDst) (s1 : VSrc) (s2 : VSrc) (s : State) : Out := vectorInstr (.vand p d s1 s2) s

/-- VOR (R191, R195, R196, R197). -/
def execVor (p : Pred) (d : VDst) (s1 : VSrc) (s2 : VSrc) (s : State) : Out := vectorInstr (.vor p d s1 s2) s

/-- VXOR (R191, R195, R196, R197). -/
def execVxor (p : Pred) (d : VDst) (s1 : VSrc) (s2 : VSrc) (s : State) : Out := vectorInstr (.vxor p d s1 s2) s

/-- VNOT (R191, R195, R196, R197). -/
def execVnot (p : Pred) (d : VDst) (s1 : VSrc) (s : State) : Out := vectorInstr (.vnot p d s1) s

/-- VSHL (R191, R195, R196, R197). -/
def execVshl (p : Pred) (d : VDst) (s1 : VSrc) (s2 : VSrc) (s : State) : Out := vectorInstr (.vshl p d s1 s2) s

/-- VSHR (R191, R195, R196, R197). -/
def execVshr (p : Pred) (d : VDst) (s1 : VSrc) (s2 : VSrc) (s : State) : Out := vectorInstr (.vshr p d s1 s2) s

/-- VSRR (R191, R195, R196, R197). -/
def execVsrr (p : Pred) (d : VDst) (s1 : VSrc) (s2 : VSrc) (s : State) : Out := vectorInstr (.vsrr p d s1 s2) s

/-- VADDS (R191, R195, R196, R197). -/
def execVadds (p : Pred) (d : VDst) (s1 : VSrc) (s2 : VSrc) (s : State) : Out := vectorInstr (.vadds p d s1 s2) s

/-- VSUBS (R191, R195, R196, R197). -/
def execVsubs (p : Pred) (d : VDst) (s1 : VSrc) (s2 : VSrc) (s : State) : Out := vectorInstr (.vsubs p d s1 s2) s

/-- VMAC2 (R191, R195, R196, R197). -/
def execVmac2 (p : Pred) (d : VDst) (s1 : VSrc) (s2 : VSrc) (s3 : VSrc) (s : State) : Out := vectorInstr (.vmac2 p d s1 s2 s3) s

/-- VSEL (R191, R195, R196, R197). -/
def execVsel (p : Pred) (d : VDst) (s1 : VSrc) (s2 : VSrc) (s : State) : Out := vectorInstr (.vsel p d s1 s2) s

/-- VCMP_EQ (R191, R195, R196, R197). -/
def execVcmpEq (p : Pred) (m : MaskReg) (s1 : VSrc) (s2 : VSrc) (s : State) : Out := vectorInstr (.vcmpEq p m s1 s2) s

/-- VCMP_NE (R191, R195, R196, R197). -/
def execVcmpNe (p : Pred) (m : MaskReg) (s1 : VSrc) (s2 : VSrc) (s : State) : Out := vectorInstr (.vcmpNe p m s1 s2) s

/-- VCMP_LT (R191, R195, R196, R197). -/
def execVcmpLt (p : Pred) (m : MaskReg) (s1 : VSrc) (s2 : VSrc) (s : State) : Out := vectorInstr (.vcmpLt p m s1 s2) s

/-- VCMP_LE (R191, R195, R196, R197). -/
def execVcmpLe (p : Pred) (m : MaskReg) (s1 : VSrc) (s2 : VSrc) (s : State) : Out := vectorInstr (.vcmpLe p m s1 s2) s

/-- VCMP_GT (R191, R195, R196, R197). -/
def execVcmpGt (p : Pred) (m : MaskReg) (s1 : VSrc) (s2 : VSrc) (s : State) : Out := vectorInstr (.vcmpGt p m s1 s2) s

/-- VCMP_GE (R191, R195, R196, R197). -/
def execVcmpGe (p : Pred) (m : MaskReg) (s1 : VSrc) (s2 : VSrc) (s : State) : Out := vectorInstr (.vcmpGe p m s1 s2) s

/-- VCMP_UN (R191, R195, R196, R197). -/
def execVcmpUn (p : Pred) (m : MaskReg) (s1 : VSrc) (s2 : VSrc) (s : State) : Out := vectorInstr (.vcmpUn p m s1 s2) s

/-- VCMP_OD (R191, R195, R196, R197). -/
def execVcmpOd (p : Pred) (m : MaskReg) (s1 : VSrc) (s2 : VSrc) (s : State) : Out := vectorInstr (.vcmpOd p m s1 s2) s

/-- VADD_SCALAR (R192, R196, R197). -/
def execVaddScalar (p : Pred) (d : VDst) (s1 : VSrc) (c : Reg) (s : State) : Out := vectorInstr (.vaddScalar p d s1 c) s

/-- VSUB_SCALAR (R192, R196, R197). -/
def execVsubScalar (p : Pred) (d : VDst) (s1 : VSrc) (c : Reg) (s : State) : Out := vectorInstr (.vsubScalar p d s1 c) s

/-- VMUL_SCALAR (R192, R196, R197). -/
def execVmulScalar (p : Pred) (d : VDst) (s1 : VSrc) (c : Reg) (s : State) : Out := vectorInstr (.vmulScalar p d s1 c) s

/-- VMULH_SCALAR (R192, R196, R197). -/
def execVmulhScalar (p : Pred) (d : VDst) (s1 : VSrc) (c : Reg) (s : State) : Out := vectorInstr (.vmulhScalar p d s1 c) s

/-- VFMA_SCALAR (R192, R196, R197). -/
def execVfmaScalar (p : Pred) (d : VDst) (s1 : VSrc) (c : Reg) (s3 : VSrc) (s : State) : Out := vectorInstr (.vfmaScalar p d s1 c s3) s

/-- VFMS_SCALAR (R192, R196, R197). -/
def execVfmsScalar (p : Pred) (d : VDst) (s1 : VSrc) (c : Reg) (s3 : VSrc) (s : State) : Out := vectorInstr (.vfmsScalar p d s1 c s3) s

/-- VDIV_SCALAR (R192, R196, R197). -/
def execVdivScalar (p : Pred) (d : VDst) (s1 : VSrc) (c : Reg) (s : State) : Out := vectorInstr (.vdivScalar p d s1 c) s

/-- VMIN_SCALAR (R192, R196, R197). -/
def execVminScalar (p : Pred) (d : VDst) (s1 : VSrc) (c : Reg) (s : State) : Out := vectorInstr (.vminScalar p d s1 c) s

/-- VMAX_SCALAR (R192, R196, R197). -/
def execVmaxScalar (p : Pred) (d : VDst) (s1 : VSrc) (c : Reg) (s : State) : Out := vectorInstr (.vmaxScalar p d s1 c) s

/-- VAND_SCALAR (R192, R196, R197). -/
def execVandScalar (p : Pred) (d : VDst) (s1 : VSrc) (c : Reg) (s : State) : Out := vectorInstr (.vandScalar p d s1 c) s

/-- VOR_SCALAR (R192, R196, R197). -/
def execVorScalar (p : Pred) (d : VDst) (s1 : VSrc) (c : Reg) (s : State) : Out := vectorInstr (.vorScalar p d s1 c) s

/-- VXOR_SCALAR (R192, R196, R197). -/
def execVxorScalar (p : Pred) (d : VDst) (s1 : VSrc) (c : Reg) (s : State) : Out := vectorInstr (.vxorScalar p d s1 c) s

/-- VSHL_SCALAR (R192, R196, R197). -/
def execVshlScalar (p : Pred) (d : VDst) (s1 : VSrc) (c : Reg) (s : State) : Out := vectorInstr (.vshlScalar p d s1 c) s

/-- VSHR_SCALAR (R192, R196, R197). -/
def execVshrScalar (p : Pred) (d : VDst) (s1 : VSrc) (c : Reg) (s : State) : Out := vectorInstr (.vshrScalar p d s1 c) s

/-- VSRR_SCALAR (R192, R196, R197). -/
def execVsrrScalar (p : Pred) (d : VDst) (s1 : VSrc) (c : Reg) (s : State) : Out := vectorInstr (.vsrrScalar p d s1 c) s

/-- VADDS_SCALAR (R192, R196, R197). -/
def execVaddsScalar (p : Pred) (d : VDst) (s1 : VSrc) (c : Reg) (s : State) : Out := vectorInstr (.vaddsScalar p d s1 c) s

/-- VSUBS_SCALAR (R192, R196, R197). -/
def execVsubsScalar (p : Pred) (d : VDst) (s1 : VSrc) (c : Reg) (s : State) : Out := vectorInstr (.vsubsScalar p d s1 c) s

/-- VMAC2_SCALAR (R192, R196, R197). -/
def execVmac2Scalar (p : Pred) (d : VDst) (s1 : VSrc) (c : Reg) (s3 : VSrc) (s : State) : Out := vectorInstr (.vmac2Scalar p d s1 c s3) s

/-- VSEL_SCALAR (R192, R196, R197). -/
def execVselScalar (p : Pred) (d : VDst) (s1 : VSrc) (c : Reg) (s : State) : Out := vectorInstr (.vselScalar p d s1 c) s

/-- VCMP_EQ_SCALAR (R192, R196, R197). -/
def execVcmpEqScalar (p : Pred) (m : MaskReg) (s1 : VSrc) (c : Reg) (s : State) : Out := vectorInstr (.vcmpEqScalar p m s1 c) s

/-- VCMP_NE_SCALAR (R192, R196, R197). -/
def execVcmpNeScalar (p : Pred) (m : MaskReg) (s1 : VSrc) (c : Reg) (s : State) : Out := vectorInstr (.vcmpNeScalar p m s1 c) s

/-- VCMP_LT_SCALAR (R192, R196, R197). -/
def execVcmpLtScalar (p : Pred) (m : MaskReg) (s1 : VSrc) (c : Reg) (s : State) : Out := vectorInstr (.vcmpLtScalar p m s1 c) s

/-- VCMP_LE_SCALAR (R192, R196, R197). -/
def execVcmpLeScalar (p : Pred) (m : MaskReg) (s1 : VSrc) (c : Reg) (s : State) : Out := vectorInstr (.vcmpLeScalar p m s1 c) s

/-- VCMP_GT_SCALAR (R192, R196, R197). -/
def execVcmpGtScalar (p : Pred) (m : MaskReg) (s1 : VSrc) (c : Reg) (s : State) : Out := vectorInstr (.vcmpGtScalar p m s1 c) s

/-- VCMP_GE_SCALAR (R192, R196, R197). -/
def execVcmpGeScalar (p : Pred) (m : MaskReg) (s1 : VSrc) (c : Reg) (s : State) : Out := vectorInstr (.vcmpGeScalar p m s1 c) s

/-- VCMP_UN_SCALAR (R192, R196, R197). -/
def execVcmpUnScalar (p : Pred) (m : MaskReg) (s1 : VSrc) (c : Reg) (s : State) : Out := vectorInstr (.vcmpUnScalar p m s1 c) s

/-- VCMP_OD_SCALAR (R192, R196, R197). -/
def execVcmpOdScalar (p : Pred) (m : MaskReg) (s1 : VSrc) (c : Reg) (s : State) : Out := vectorInstr (.vcmpOdScalar p m s1 c) s

/-- VADD_IMM (R192, R196, R197). -/
def execVaddImm (p : Pred) (d : VDst) (s1 : VSrc) (imm : BitVec 16) (s : State) : Out := vectorInstr (.vaddImm p d s1 imm) s

/-- VSUB_IMM (R192, R196, R197). -/
def execVsubImm (p : Pred) (d : VDst) (s1 : VSrc) (imm : BitVec 16) (s : State) : Out := vectorInstr (.vsubImm p d s1 imm) s

/-- VMUL_IMM (R192, R196, R197). -/
def execVmulImm (p : Pred) (d : VDst) (s1 : VSrc) (imm : BitVec 16) (s : State) : Out := vectorInstr (.vmulImm p d s1 imm) s

/-- VMIN_IMM (R192, R196, R197). -/
def execVminImm (p : Pred) (d : VDst) (s1 : VSrc) (imm : BitVec 16) (s : State) : Out := vectorInstr (.vminImm p d s1 imm) s

/-- VMAX_IMM (R192, R196, R197). -/
def execVmaxImm (p : Pred) (d : VDst) (s1 : VSrc) (imm : BitVec 16) (s : State) : Out := vectorInstr (.vmaxImm p d s1 imm) s

/-- VAND_IMM (R192, R196, R197). -/
def execVandImm (p : Pred) (d : VDst) (s1 : VSrc) (imm : BitVec 16) (s : State) : Out := vectorInstr (.vandImm p d s1 imm) s

/-- VOR_IMM (R192, R196, R197). -/
def execVorImm (p : Pred) (d : VDst) (s1 : VSrc) (imm : BitVec 16) (s : State) : Out := vectorInstr (.vorImm p d s1 imm) s

/-- VXOR_IMM (R192, R196, R197). -/
def execVxorImm (p : Pred) (d : VDst) (s1 : VSrc) (imm : BitVec 16) (s : State) : Out := vectorInstr (.vxorImm p d s1 imm) s

/-- VSHL_IMM (R192, R196, R197). -/
def execVshlImm (p : Pred) (d : VDst) (s1 : VSrc) (imm : BitVec 16) (s : State) : Out := vectorInstr (.vshlImm p d s1 imm) s

/-- VSHR_IMM (R192, R196, R197). -/
def execVshrImm (p : Pred) (d : VDst) (s1 : VSrc) (imm : BitVec 16) (s : State) : Out := vectorInstr (.vshrImm p d s1 imm) s

/-- VSRR_IMM (R192, R196, R197). -/
def execVsrrImm (p : Pred) (d : VDst) (s1 : VSrc) (imm : BitVec 16) (s : State) : Out := vectorInstr (.vsrrImm p d s1 imm) s

/-- VADDS_IMM (R192, R196, R197). -/
def execVaddsImm (p : Pred) (d : VDst) (s1 : VSrc) (imm : BitVec 16) (s : State) : Out := vectorInstr (.vaddsImm p d s1 imm) s

/-- VSUBS_IMM (R192, R196, R197). -/
def execVsubsImm (p : Pred) (d : VDst) (s1 : VSrc) (imm : BitVec 16) (s : State) : Out := vectorInstr (.vsubsImm p d s1 imm) s

/-- VCMP_EQ_IMM (R192, R196, R197). -/
def execVcmpEqImm (p : Pred) (m : MaskReg) (s1 : VSrc) (imm : BitVec 16) (s : State) : Out := vectorInstr (.vcmpEqImm p m s1 imm) s

/-- VCMP_NE_IMM (R192, R196, R197). -/
def execVcmpNeImm (p : Pred) (m : MaskReg) (s1 : VSrc) (imm : BitVec 16) (s : State) : Out := vectorInstr (.vcmpNeImm p m s1 imm) s

/-- VCMP_LT_IMM (R192, R196, R197). -/
def execVcmpLtImm (p : Pred) (m : MaskReg) (s1 : VSrc) (imm : BitVec 16) (s : State) : Out := vectorInstr (.vcmpLtImm p m s1 imm) s

/-- VCMP_LE_IMM (R192, R196, R197). -/
def execVcmpLeImm (p : Pred) (m : MaskReg) (s1 : VSrc) (imm : BitVec 16) (s : State) : Out := vectorInstr (.vcmpLeImm p m s1 imm) s

/-- VCMP_GT_IMM (R192, R196, R197). -/
def execVcmpGtImm (p : Pred) (m : MaskReg) (s1 : VSrc) (imm : BitVec 16) (s : State) : Out := vectorInstr (.vcmpGtImm p m s1 imm) s

/-- VCMP_GE_IMM (R192, R196, R197). -/
def execVcmpGeImm (p : Pred) (m : MaskReg) (s1 : VSrc) (imm : BitVec 16) (s : State) : Out := vectorInstr (.vcmpGeImm p m s1 imm) s

/-- VTAG (R189, R190, R247). -/
def execVtag (j : Bool) (v : Reg) (ty : ElemType) (s : State) : Out := vectorInstr (.vtag j v ty) s

/-- VRETAG (R189, R190, R247). -/
def execVretag (j : Bool) (v : Reg) (ty : ElemType) (s : State) : Out := vectorInstr (.vretag j v ty) s

/-- VSPLAT (R189, R190, R247). -/
def execVsplat (p : Pred) (d : VDst) (c : Reg) (s : State) : Out := vectorInstr (.vsplat p d c) s

/-- VPUSH (R189, R190, R247). -/
def execVpush (p : Pred) (q : Fin 2) (s1 : VSrc) (s : State) : Out := vectorInstr (.vpush p q s1) s

/-- VCVT (R200 to R206). -/
def execVcvt (p : Pred) (d : VDst) (s1 : VSrc) (ty : ElemType) (s : State) : Out := vectorInstr (.vcvt p d s1 ty) s

/-- VCVT_S (R200 to R206). -/
def execVcvtS (p : Pred) (d : VDst) (s1 : VSrc) (ty : ElemType) (s : State) : Out := vectorInstr (.vcvtS p d s1 ty) s

/-- VQCVT (R200 to R206). -/
def execVqcvt (p : Pred) (d : VDst) (s1 : VSrc) (c : Reg) (s3 : Reg) (k : Fin 32) (s : State) : Out := vectorInstr (.vqcvt p d s1 c s3 k) s

/-- VDQ (R200 to R206). -/
def execVdq (p : Pred) (d : VDst) (s1 : VSrc) (c : Reg) (s3 : VSrc) (ty : ElemType) (s : State) : Out := vectorInstr (.vdq p d s1 c s3 ty) s

/-- VBFLY (R200 to R206). -/
def execVbfly (p : Pred) (d : VDst) (s1 : VSrc) (dist : Fin 6) (s : State) : Out := vectorInstr (.vbfly p d s1 dist) s

/-- VBFLY_F (R200 to R206). -/
def execVbflyF (j : Bool) (s1 : VSrc) (dist : Fin 6) (s : State) : Out := vectorInstr (.vbflyF j s1 dist) s

/-- VRAND (R200 to R206). -/
def execVrand (p : Pred) (d : VDst) (s : State) : Out := vectorInstr (.vrand p d) s

/-- VUTF8 (R200 to R206). -/
def execVutf8 (j : Bool) (d : VDst) (s1 : VSrc) (s2 : Reg) (h2 : Bool) (s : State) : Out := vectorInstr (.vutf8 j d s1 s2 h2) s

/-- MAND (R199). -/
def execMand (j : Bool) (m : MaskReg) (a : MaskReg) (b : MaskReg) (s : State) : Out := vectorInstr (.mand j m a b) s

/-- MOR (R199). -/
def execMor (j : Bool) (m : MaskReg) (a : MaskReg) (b : MaskReg) (s : State) : Out := vectorInstr (.mor j m a b) s

/-- MXOR (R199). -/
def execMxor (j : Bool) (m : MaskReg) (a : MaskReg) (b : MaskReg) (s : State) : Out := vectorInstr (.mxor j m a b) s

/-- MNOT (R199). -/
def execMnot (j : Bool) (m : MaskReg) (a : MaskReg) (s : State) : Out := vectorInstr (.mnot j m a) s

/-- MSET (R199). -/
def execMset (j : Bool) (m : MaskReg) (b : Bool) (s : State) : Out := vectorInstr (.mset j m b) s

/-- VSLIDEUP (R207 to R217). -/
def execVslideup (p : Pred) (d : VDst) (s1 : VSrc) (amt : Reg) (fill : Fill) (s : State) : Out := vectorInstr (.vslideup p d s1 amt fill) s

/-- VSLIDEDN (R207 to R217). -/
def execVslidedn (p : Pred) (d : VDst) (s1 : VSrc) (amt : Reg) (fill : Fill) (s : State) : Out := vectorInstr (.vslidedn p d s1 amt fill) s

/-- VSLIDEUP_IMM (R207 to R217). -/
def execVslideupImm (p : Pred) (d : VDst) (s1 : VSrc) (amt : Fin 1024) (fill : Fill) (s : State) : Out := vectorInstr (.vslideupImm p d s1 amt fill) s

/-- VSLIDEDN_IMM (R207 to R217). -/
def execVslidednImm (p : Pred) (d : VDst) (s1 : VSrc) (amt : Fin 1024) (fill : Fill) (s : State) : Out := vectorInstr (.vslidednImm p d s1 amt fill) s

/-- VRGATHER (R207 to R217). -/
def execVrgather (p : Pred) (d : VDst) (s1 : VSrc) (s2 : VSrc) (s : State) : Out := vectorInstr (.vrgather p d s1 s2) s

/-- VRGATHER2 (R207 to R217). -/
def execVrgather2 (p : Pred) (d : VDst) (s1 : VSrc) (s2 : VSrc) (s3 : VSrc) (s : State) : Out := vectorInstr (.vrgather2 p d s1 s2 s3) s

/-- VCOMPRESS (R207 to R217). -/
def execVcompress (p : Pred) (d : VDst) (s1 : VSrc) (s : State) : Out := vectorInstr (.vcompress p d s1) s

/-- VEXPAND (R207 to R217). -/
def execVexpand (p : Pred) (d : VDst) (s1 : VSrc) (s : State) : Out := vectorInstr (.vexpand p d s1) s

/-- VIOTA (R207 to R217). -/
def execViota (p : Pred) (d : VDst) (m : MaskReg) (s : State) : Out := vectorInstr (.viota p d m) s

/-- VEXTR (R207 to R217). -/
def execVextr (j : Bool) (d : Reg) (s1 : VSrc) (idx : Reg) (s : State) : Out := vectorInstr (.vextr j d s1 idx) s

/-- VEXTR_IMM (R207 to R217). -/
def execVextrImm (j : Bool) (d : Reg) (s1 : VSrc) (idx : BitVec 16) (s : State) : Out := vectorInstr (.vextrImm j d s1 idx) s

/-- VINS (R207 to R217). -/
def execVins (j : Bool) (d : VDst) (c : Reg) (idx : Reg) (s : State) : Out := vectorInstr (.vins j d c idx) s

/-- VINS_IMM (R207 to R217). -/
def execVinsImm (j : Bool) (d : VDst) (c : Reg) (idx : BitVec 16) (s : State) : Out := vectorInstr (.vinsImm j d c idx) s

/-- VREDSUM (R218 to R222). -/
def execVredsum (j : Bool) (sel : MaskSel) (d : Reg) (s1 : VSrc) (acc : Reg) (s : State) : Out := vectorInstr (.vredsum j sel d s1 acc) s

/-- VREDMAX (R218 to R222). -/
def execVredmax (j : Bool) (sel : MaskSel) (d : Reg) (s1 : VSrc) (acc : Reg) (s : State) : Out := vectorInstr (.vredmax j sel d s1 acc) s

/-- VREDMIN (R218 to R222). -/
def execVredmin (j : Bool) (sel : MaskSel) (d : Reg) (s1 : VSrc) (acc : Reg) (s : State) : Out := vectorInstr (.vredmin j sel d s1 acc) s

/-- VREDBIT_AND (R218 to R222). -/
def execVredbitAnd (j : Bool) (sel : MaskSel) (d : Reg) (s1 : VSrc) (acc : Reg) (s : State) : Out := vectorInstr (.vredbitAnd j sel d s1 acc) s

/-- VREDBIT_OR (R218 to R222). -/
def execVredbitOr (j : Bool) (sel : MaskSel) (d : Reg) (s1 : VSrc) (acc : Reg) (s : State) : Out := vectorInstr (.vredbitOr j sel d s1 acc) s

/-- VREDBIT_XOR (R218 to R222). -/
def execVredbitXor (j : Bool) (sel : MaskSel) (d : Reg) (s1 : VSrc) (acc : Reg) (s : State) : Out := vectorInstr (.vredbitXor j sel d s1 acc) s

/-- VSCAN_SUM (R218 to R222). -/
def execVscanSum (p : Pred) (d : VDst) (s1 : VSrc) (cin : Reg) (cout : Reg) (s : State) : Out := vectorInstr (.vscanSum p d s1 cin cout) s

/-- VSCAN_MAX (R218 to R222). -/
def execVscanMax (p : Pred) (d : VDst) (s1 : VSrc) (cin : Reg) (cout : Reg) (s : State) : Out := vectorInstr (.vscanMax p d s1 cin cout) s

/-- VSCAN_MIN (R218 to R222). -/
def execVscanMin (p : Pred) (d : VDst) (s1 : VSrc) (cin : Reg) (cout : Reg) (s : State) : Out := vectorInstr (.vscanMin p d s1 cin cout) s

/-- VSCAN_SUM_X (R218 to R222). -/
def execVscanSumX (p : Pred) (d : VDst) (s1 : VSrc) (cin : Reg) (cout : Reg) (s : State) : Out := vectorInstr (.vscanSumX p d s1 cin cout) s

/-- VSCAN_MAX_X (R218 to R222). -/
def execVscanMaxX (p : Pred) (d : VDst) (s1 : VSrc) (cin : Reg) (cout : Reg) (s : State) : Out := vectorInstr (.vscanMaxX p d s1 cin cout) s

/-- VSCAN_MIN_X (R218 to R222). -/
def execVscanMinX (p : Pred) (d : VDst) (s1 : VSrc) (cin : Reg) (cout : Reg) (s : State) : Out := vectorInstr (.vscanMinX p d s1 cin cout) s

/-- VARGMAX (R218 to R222). -/
def execVargmax (j : Bool) (sel : MaskSel) (d : Reg) (s1 : VSrc) (s : State) : Out := vectorInstr (.vargmax j sel d s1) s

/-- VARGMIN (R218 to R222). -/
def execVargmin (j : Bool) (sel : MaskSel) (d : Reg) (s1 : VSrc) (s : State) : Out := vectorInstr (.vargmin j sel d s1) s

/-- MPOPC (R218 to R222). -/
def execMpopc (j : Bool) (sel : MaskSel) (d : Reg) (m : MaskReg) (s : State) : Out := vectorInstr (.mpopc j sel d m) s

/-- MFIRST (R218 to R222). -/
def execMfirst (j : Bool) (sel : MaskSel) (d : Reg) (m : MaskReg) (s : State) : Out := vectorInstr (.mfirst j sel d m) s

/-- KSET (R223 to R230). -/
def execKset (p : Pred) (k : TopoReg) (s1 : VSrc) (s : State) : Out := vectorInstr (.kset p k s1) s

/-- KGET (R223 to R230). -/
def execKget (p : Pred) (d : VDst) (k : TopoReg) (s : State) : Out := vectorInstr (.kget p d k) s

/-- KUP_SUM (R223 to R230). -/
def execKupSum (p : Pred) (d : VDst) (s1 : VSrc) (k : TopoReg) (fm : ForestMasks) (s : State) : Out := vectorInstr (.kupSum p d s1 k fm) s

/-- KUP_MAX (R223 to R230). -/
def execKupMax (p : Pred) (d : VDst) (s1 : VSrc) (k : TopoReg) (fm : ForestMasks) (s : State) : Out := vectorInstr (.kupMax p d s1 k fm) s

/-- KUP_MIN (R223 to R230). -/
def execKupMin (p : Pred) (d : VDst) (s1 : VSrc) (k : TopoReg) (fm : ForestMasks) (s : State) : Out := vectorInstr (.kupMin p d s1 k fm) s

/-- KDOWN_SUM (R223 to R230). -/
def execKdownSum (p : Pred) (d : VDst) (s1 : VSrc) (k : TopoReg) (fm : ForestMasks) (s : State) : Out := vectorInstr (.kdownSum p d s1 k fm) s

/-- KDOWN_MAX (R223 to R230). -/
def execKdownMax (p : Pred) (d : VDst) (s1 : VSrc) (k : TopoReg) (fm : ForestMasks) (s : State) : Out := vectorInstr (.kdownMax p d s1 k fm) s

/-- KDOWN_MIN (R223 to R230). -/
def execKdownMin (p : Pred) (d : VDst) (s1 : VSrc) (k : TopoReg) (fm : ForestMasks) (s : State) : Out := vectorInstr (.kdownMin p d s1 k fm) s

/-- KBCAST (R223 to R230). -/
def execKbcast (p : Pred) (d : VDst) (s1 : VSrc) (k : TopoReg) (fm : ForestMasks) (s : State) : Out := vectorInstr (.kbcast p d s1 k fm) s

/-- KDEPTH (R223 to R230). -/
def execKdepth (p : Pred) (d : VDst) (k : TopoReg) (fm : ForestMasks) (s : State) : Out := vectorInstr (.kdepth p d k fm) s

/-- KANC (R223 to R230). -/
def execKanc (p : Pred) (d : VDst) (c : Reg) (k : TopoReg) (fm : ForestMasks) (s : State) : Out := vectorInstr (.kanc p d c k fm) s

/-- KANC_IS (R223 to R230). -/
def execKancIs (p : Pred) (m : MaskReg) (s1 : VSrc) (k : TopoReg) (fm : ForestMasks) (s : State) : Out := vectorInstr (.kancIs p m s1 k fm) s

/-- KCONTRACT (R223 to R230). -/
def execKcontract (p : Pred) (kd : TopoReg) (k : TopoReg) (fm : ForestMasks) (s : State) : Out := vectorInstr (.kcontract p kd k fm) s

/-- KROOT (R223 to R230). -/
def execKroot (p : Pred) (d : VDst) (k : TopoReg) (fm : ForestMasks) (s : State) : Out := vectorInstr (.kroot p d k fm) s

/-- KCHECK (R223 to R230). -/
def execKcheck (p : Pred) (m : MaskReg) (k : TopoReg) (s : State) : Out := vectorInstr (.kcheck p m k) s

end Sys2Proof.Machine
end

