-- ==== Sys2Proof/Machine/Dispatch.lean ====
section
/-! DEFINITION. The meaning of every instruction and event, one arm each (R163). -/
namespace Sys2Proof.Machine

open Sys2Proof

/-- What an instruction, or an event, does. -/
def exec (i : Instr) (s : State) : Host.Outcome State Fault Refusal :=
  match i with
  | .add d s1 s2 => Sys2Proof.Machine.execAdd d s1 s2 s
  | .sub d s1 s2 => Sys2Proof.Machine.execSub d s1 s2 s
  | .mul d s1 s2 => Sys2Proof.Machine.execMul d s1 s2 s
  | .mulh d s1 s2 => Sys2Proof.Machine.execMulh d s1 s2 s
  | .mulhn d s1 s2 => Sys2Proof.Machine.execMulhn d s1 s2 s
  | .div d s1 s2 => Sys2Proof.Machine.execDiv d s1 s2 s
  | .divn d s1 s2 => Sys2Proof.Machine.execDivn d s1 s2 s
  | .rem d s1 s2 => Sys2Proof.Machine.execRem d s1 s2 s
  | .remn d s1 s2 => Sys2Proof.Machine.execRemn d s1 s2 s
  | .and d s1 s2 => Sys2Proof.Machine.execAnd d s1 s2 s
  | .or d s1 s2 => Sys2Proof.Machine.execOr d s1 s2 s
  | .xor d s1 s2 => Sys2Proof.Machine.execXor d s1 s2 s
  | .andn d s1 s2 => Sys2Proof.Machine.execAndn d s1 s2 s
  | .shl d s1 s2 => Sys2Proof.Machine.execShl d s1 s2 s
  | .shr d s1 s2 => Sys2Proof.Machine.execShr d s1 s2 s
  | .sra d s1 s2 => Sys2Proof.Machine.execSra d s1 s2 s
  | .rot d s1 s2 => Sys2Proof.Machine.execRot d s1 s2 s
  | .min d s1 s2 => Sys2Proof.Machine.execMin d s1 s2 s
  | .max d s1 s2 => Sys2Proof.Machine.execMax d s1 s2 s
  | .minn d s1 s2 => Sys2Proof.Machine.execMinn d s1 s2 s
  | .maxn d s1 s2 => Sys2Proof.Machine.execMaxn d s1 s2 s
  | .slt d s1 s2 => Sys2Proof.Machine.execSlt d s1 s2 s
  | .sltn d s1 s2 => Sys2Proof.Machine.execSltn d s1 s2 s
  | .seq d s1 s2 => Sys2Proof.Machine.execSeq d s1 s2 s
  | .cmov d s1 s2 s3 => Sys2Proof.Machine.execCmov d s1 s2 s3 s
  | .clz d s1 => Sys2Proof.Machine.execClz d s1 s
  | .ctz d s1 => Sys2Proof.Machine.execCtz d s1 s
  | .popc d s1 => Sys2Proof.Machine.execPopc d s1 s
  | .addImm d s1 imm => Sys2Proof.Machine.execAddImm d s1 imm s
  | .subImm d s1 imm => Sys2Proof.Machine.execSubImm d s1 imm s
  | .mulImm d s1 imm => Sys2Proof.Machine.execMulImm d s1 imm s
  | .mulhImm d s1 imm => Sys2Proof.Machine.execMulhImm d s1 imm s
  | .mulhnImm d s1 imm => Sys2Proof.Machine.execMulhnImm d s1 imm s
  | .divImm d s1 imm => Sys2Proof.Machine.execDivImm d s1 imm s
  | .divnImm d s1 imm => Sys2Proof.Machine.execDivnImm d s1 imm s
  | .remImm d s1 imm => Sys2Proof.Machine.execRemImm d s1 imm s
  | .remnImm d s1 imm => Sys2Proof.Machine.execRemnImm d s1 imm s
  | .andImm d s1 imm => Sys2Proof.Machine.execAndImm d s1 imm s
  | .orImm d s1 imm => Sys2Proof.Machine.execOrImm d s1 imm s
  | .xorImm d s1 imm => Sys2Proof.Machine.execXorImm d s1 imm s
  | .andnImm d s1 imm => Sys2Proof.Machine.execAndnImm d s1 imm s
  | .shlImm d s1 sh => Sys2Proof.Machine.execShlImm d s1 sh s
  | .shrImm d s1 sh => Sys2Proof.Machine.execShrImm d s1 sh s
  | .sraImm d s1 sh => Sys2Proof.Machine.execSraImm d s1 sh s
  | .rotImm d s1 sh => Sys2Proof.Machine.execRotImm d s1 sh s
  | .minImm d s1 imm => Sys2Proof.Machine.execMinImm d s1 imm s
  | .maxImm d s1 imm => Sys2Proof.Machine.execMaxImm d s1 imm s
  | .minnImm d s1 imm => Sys2Proof.Machine.execMinnImm d s1 imm s
  | .maxnImm d s1 imm => Sys2Proof.Machine.execMaxnImm d s1 imm s
  | .sltImm d s1 imm => Sys2Proof.Machine.execSltImm d s1 imm s
  | .sltnImm d s1 imm => Sys2Proof.Machine.execSltnImm d s1 imm s
  | .seqImm d s1 imm => Sys2Proof.Machine.execSeqImm d s1 imm s
  | .li d imm => Sys2Proof.Machine.execLi d imm s
  | .lih d imm => Sys2Proof.Machine.execLih d imm s
  | .fadd d s1 s2 f => Sys2Proof.Machine.execFadd d s1 s2 f s
  | .fsub d s1 s2 f => Sys2Proof.Machine.execFsub d s1 s2 f s
  | .fmul d s1 s2 f => Sys2Proof.Machine.execFmul d s1 s2 f s
  | .ffma d s1 s2 s3 f => Sys2Proof.Machine.execFfma d s1 s2 s3 f s
  | .fdiv d s1 s2 f => Sys2Proof.Machine.execFdiv d s1 s2 f s
  | .fsqrt d s1 s2 f => Sys2Proof.Machine.execFsqrt d s1 s2 f s
  | .fmin d s1 s2 f => Sys2Proof.Machine.execFmin d s1 s2 f s
  | .fmax d s1 s2 f => Sys2Proof.Machine.execFmax d s1 s2 f s
  | .fcvt d s1 s2 dst src => Sys2Proof.Machine.execFcvt d s1 s2 dst src s
  | .fcmpEq d s1 s2 f => Sys2Proof.Machine.execFcmpEq d s1 s2 f s
  | .fcmpLt d s1 s2 f => Sys2Proof.Machine.execFcmpLt d s1 s2 f s
  | .fcmpLe d s1 s2 f => Sys2Proof.Machine.execFcmpLe d s1 s2 f s
  | .fcmpUn d s1 s2 f => Sys2Proof.Machine.execFcmpUn d s1 s2 f s
  | .getc d num => Sys2Proof.Machine.execGetc d num s
  | .setc num s1 => Sys2Proof.Machine.execSetc num s1 s
  | .setvl d s1 ty => Sys2Proof.Machine.execSetvl d s1 ty s
  | .setvlm d m => Sys2Proof.Machine.execSetvlm d m s
  | .qpush q s1 => Sys2Proof.Machine.execQpush q s1 s
  | .qpop d q => Sys2Proof.Machine.execQpop d q s
  | .beq s1 s2 off => Sys2Proof.Machine.execBeq s1 s2 off s
  | .bne s1 s2 off => Sys2Proof.Machine.execBne s1 s2 off s
  | .blt s1 s2 off => Sys2Proof.Machine.execBlt s1 s2 off s
  | .bge s1 s2 off => Sys2Proof.Machine.execBge s1 s2 off s
  | .bltn s1 s2 off => Sys2Proof.Machine.execBltn s1 s2 off s
  | .bgen s1 s2 off => Sys2Proof.Machine.execBgen s1 s2 off s
  | .jal d off => Sys2Proof.Machine.execJal d off s
  | .jalr d s1 off => Sys2Proof.Machine.execJalr d s1 off s
  | .bmskAny m off => Sys2Proof.Machine.execBmskAny m off s
  | .bmskNone m off => Sys2Proof.Machine.execBmskNone m off s
  | .lap n ty p0 p1 p2 p3 off => Sys2Proof.Machine.execLap n ty p0 p1 p2 p3 off s
  | .vfetch sel off => Sys2Proof.Machine.execVfetch sel off s
  | .tfetch sel off => Sys2Proof.Machine.execTfetch sel off s
  | .tstop sel => Sys2Proof.Machine.execTstop sel s
  | .vloop n => Sys2Proof.Machine.execVloop n s
  | .vloopS n trip stages => Sys2Proof.Machine.execVloopS n trip stages s
  | .vadd p d s1 s2 => Sys2Proof.Machine.execVadd p d s1 s2 s
  | .vsub p d s1 s2 => Sys2Proof.Machine.execVsub p d s1 s2 s
  | .vmul p d s1 s2 => Sys2Proof.Machine.execVmul p d s1 s2 s
  | .vmulh p d s1 s2 => Sys2Proof.Machine.execVmulh p d s1 s2 s
  | .vfma p d s1 s2 s3 => Sys2Proof.Machine.execVfma p d s1 s2 s3 s
  | .vfms p d s1 s2 s3 => Sys2Proof.Machine.execVfms p d s1 s2 s3 s
  | .vdiv p d s1 s2 => Sys2Proof.Machine.execVdiv p d s1 s2 s
  | .vsqrt p d s1 => Sys2Proof.Machine.execVsqrt p d s1 s
  | .vrcp p d s1 => Sys2Proof.Machine.execVrcp p d s1 s
  | .vrsq p d s1 => Sys2Proof.Machine.execVrsq p d s1 s
  | .vexp2 p d s1 => Sys2Proof.Machine.execVexp2 p d s1 s
  | .vlog2 p d s1 => Sys2Proof.Machine.execVlog2 p d s1 s
  | .vmin p d s1 s2 => Sys2Proof.Machine.execVmin p d s1 s2 s
  | .vmax p d s1 s2 => Sys2Proof.Machine.execVmax p d s1 s2 s
  | .vabs p d s1 => Sys2Proof.Machine.execVabs p d s1 s
  | .vneg p d s1 => Sys2Proof.Machine.execVneg p d s1 s
  | .vand p d s1 s2 => Sys2Proof.Machine.execVand p d s1 s2 s
  | .vor p d s1 s2 => Sys2Proof.Machine.execVor p d s1 s2 s
  | .vxor p d s1 s2 => Sys2Proof.Machine.execVxor p d s1 s2 s
  | .vnot p d s1 => Sys2Proof.Machine.execVnot p d s1 s
  | .vshl p d s1 s2 => Sys2Proof.Machine.execVshl p d s1 s2 s
  | .vshr p d s1 s2 => Sys2Proof.Machine.execVshr p d s1 s2 s
  | .vsrr p d s1 s2 => Sys2Proof.Machine.execVsrr p d s1 s2 s
  | .vadds p d s1 s2 => Sys2Proof.Machine.execVadds p d s1 s2 s
  | .vsubs p d s1 s2 => Sys2Proof.Machine.execVsubs p d s1 s2 s
  | .vmac2 p d s1 s2 s3 => Sys2Proof.Machine.execVmac2 p d s1 s2 s3 s
  | .vsel p d s1 s2 => Sys2Proof.Machine.execVsel p d s1 s2 s
  | .vcmpEq p m s1 s2 => Sys2Proof.Machine.execVcmpEq p m s1 s2 s
  | .vcmpNe p m s1 s2 => Sys2Proof.Machine.execVcmpNe p m s1 s2 s
  | .vcmpLt p m s1 s2 => Sys2Proof.Machine.execVcmpLt p m s1 s2 s
  | .vcmpLe p m s1 s2 => Sys2Proof.Machine.execVcmpLe p m s1 s2 s
  | .vcmpGt p m s1 s2 => Sys2Proof.Machine.execVcmpGt p m s1 s2 s
  | .vcmpGe p m s1 s2 => Sys2Proof.Machine.execVcmpGe p m s1 s2 s
  | .vcmpUn p m s1 s2 => Sys2Proof.Machine.execVcmpUn p m s1 s2 s
  | .vcmpOd p m s1 s2 => Sys2Proof.Machine.execVcmpOd p m s1 s2 s
  | .vaddScalar p d s1 c => Sys2Proof.Machine.execVaddScalar p d s1 c s
  | .vsubScalar p d s1 c => Sys2Proof.Machine.execVsubScalar p d s1 c s
  | .vmulScalar p d s1 c => Sys2Proof.Machine.execVmulScalar p d s1 c s
  | .vmulhScalar p d s1 c => Sys2Proof.Machine.execVmulhScalar p d s1 c s
  | .vfmaScalar p d s1 c s3 => Sys2Proof.Machine.execVfmaScalar p d s1 c s3 s
  | .vfmsScalar p d s1 c s3 => Sys2Proof.Machine.execVfmsScalar p d s1 c s3 s
  | .vdivScalar p d s1 c => Sys2Proof.Machine.execVdivScalar p d s1 c s
  | .vminScalar p d s1 c => Sys2Proof.Machine.execVminScalar p d s1 c s
  | .vmaxScalar p d s1 c => Sys2Proof.Machine.execVmaxScalar p d s1 c s
  | .vandScalar p d s1 c => Sys2Proof.Machine.execVandScalar p d s1 c s
  | .vorScalar p d s1 c => Sys2Proof.Machine.execVorScalar p d s1 c s
  | .vxorScalar p d s1 c => Sys2Proof.Machine.execVxorScalar p d s1 c s
  | .vshlScalar p d s1 c => Sys2Proof.Machine.execVshlScalar p d s1 c s
  | .vshrScalar p d s1 c => Sys2Proof.Machine.execVshrScalar p d s1 c s
  | .vsrrScalar p d s1 c => Sys2Proof.Machine.execVsrrScalar p d s1 c s
  | .vaddsScalar p d s1 c => Sys2Proof.Machine.execVaddsScalar p d s1 c s
  | .vsubsScalar p d s1 c => Sys2Proof.Machine.execVsubsScalar p d s1 c s
  | .vmac2Scalar p d s1 c s3 => Sys2Proof.Machine.execVmac2Scalar p d s1 c s3 s
  | .vselScalar p d s1 c => Sys2Proof.Machine.execVselScalar p d s1 c s
  | .vcmpEqScalar p m s1 c => Sys2Proof.Machine.execVcmpEqScalar p m s1 c s
  | .vcmpNeScalar p m s1 c => Sys2Proof.Machine.execVcmpNeScalar p m s1 c s
  | .vcmpLtScalar p m s1 c => Sys2Proof.Machine.execVcmpLtScalar p m s1 c s
  | .vcmpLeScalar p m s1 c => Sys2Proof.Machine.execVcmpLeScalar p m s1 c s
  | .vcmpGtScalar p m s1 c => Sys2Proof.Machine.execVcmpGtScalar p m s1 c s
  | .vcmpGeScalar p m s1 c => Sys2Proof.Machine.execVcmpGeScalar p m s1 c s
  | .vcmpUnScalar p m s1 c => Sys2Proof.Machine.execVcmpUnScalar p m s1 c s
  | .vcmpOdScalar p m s1 c => Sys2Proof.Machine.execVcmpOdScalar p m s1 c s
  | .vaddImm p d s1 imm => Sys2Proof.Machine.execVaddImm p d s1 imm s
  | .vsubImm p d s1 imm => Sys2Proof.Machine.execVsubImm p d s1 imm s
  | .vmulImm p d s1 imm => Sys2Proof.Machine.execVmulImm p d s1 imm s
  | .vminImm p d s1 imm => Sys2Proof.Machine.execVminImm p d s1 imm s
  | .vmaxImm p d s1 imm => Sys2Proof.Machine.execVmaxImm p d s1 imm s
  | .vandImm p d s1 imm => Sys2Proof.Machine.execVandImm p d s1 imm s
  | .vorImm p d s1 imm => Sys2Proof.Machine.execVorImm p d s1 imm s
  | .vxorImm p d s1 imm => Sys2Proof.Machine.execVxorImm p d s1 imm s
  | .vshlImm p d s1 imm => Sys2Proof.Machine.execVshlImm p d s1 imm s
  | .vshrImm p d s1 imm => Sys2Proof.Machine.execVshrImm p d s1 imm s
  | .vsrrImm p d s1 imm => Sys2Proof.Machine.execVsrrImm p d s1 imm s
  | .vaddsImm p d s1 imm => Sys2Proof.Machine.execVaddsImm p d s1 imm s
  | .vsubsImm p d s1 imm => Sys2Proof.Machine.execVsubsImm p d s1 imm s
  | .vcmpEqImm p m s1 imm => Sys2Proof.Machine.execVcmpEqImm p m s1 imm s
  | .vcmpNeImm p m s1 imm => Sys2Proof.Machine.execVcmpNeImm p m s1 imm s
  | .vcmpLtImm p m s1 imm => Sys2Proof.Machine.execVcmpLtImm p m s1 imm s
  | .vcmpLeImm p m s1 imm => Sys2Proof.Machine.execVcmpLeImm p m s1 imm s
  | .vcmpGtImm p m s1 imm => Sys2Proof.Machine.execVcmpGtImm p m s1 imm s
  | .vcmpGeImm p m s1 imm => Sys2Proof.Machine.execVcmpGeImm p m s1 imm s
  | .vtag j v ty => Sys2Proof.Machine.execVtag j v ty s
  | .vretag j v ty => Sys2Proof.Machine.execVretag j v ty s
  | .vsplat p d c => Sys2Proof.Machine.execVsplat p d c s
  | .vpush p q s1 => Sys2Proof.Machine.execVpush p q s1 s
  | .vcvt p d s1 ty => Sys2Proof.Machine.execVcvt p d s1 ty s
  | .vcvtS p d s1 ty => Sys2Proof.Machine.execVcvtS p d s1 ty s
  | .vqcvt p d s1 c s3 k => Sys2Proof.Machine.execVqcvt p d s1 c s3 k s
  | .vdq p d s1 c s3 ty => Sys2Proof.Machine.execVdq p d s1 c s3 ty s
  | .vbfly p d s1 dist => Sys2Proof.Machine.execVbfly p d s1 dist s
  | .vbflyF j s1 dist => Sys2Proof.Machine.execVbflyF j s1 dist s
  | .vrand p d => Sys2Proof.Machine.execVrand p d s
  | .vutf8 j d s1 s2 h2 => Sys2Proof.Machine.execVutf8 j d s1 s2 h2 s
  | .mand j m a b => Sys2Proof.Machine.execMand j m a b s
  | .mor j m a b => Sys2Proof.Machine.execMor j m a b s
  | .mxor j m a b => Sys2Proof.Machine.execMxor j m a b s
  | .mnot j m a => Sys2Proof.Machine.execMnot j m a s
  | .mset j m b => Sys2Proof.Machine.execMset j m b s
  | .vslideup p d s1 amt fill => Sys2Proof.Machine.execVslideup p d s1 amt fill s
  | .vslidedn p d s1 amt fill => Sys2Proof.Machine.execVslidedn p d s1 amt fill s
  | .vslideupImm p d s1 amt fill => Sys2Proof.Machine.execVslideupImm p d s1 amt fill s
  | .vslidednImm p d s1 amt fill => Sys2Proof.Machine.execVslidednImm p d s1 amt fill s
  | .vrgather p d s1 s2 => Sys2Proof.Machine.execVrgather p d s1 s2 s
  | .vrgather2 p d s1 s2 s3 => Sys2Proof.Machine.execVrgather2 p d s1 s2 s3 s
  | .vcompress p d s1 => Sys2Proof.Machine.execVcompress p d s1 s
  | .vexpand p d s1 => Sys2Proof.Machine.execVexpand p d s1 s
  | .viota p d m => Sys2Proof.Machine.execViota p d m s
  | .vextr j d s1 idx => Sys2Proof.Machine.execVextr j d s1 idx s
  | .vextrImm j d s1 idx => Sys2Proof.Machine.execVextrImm j d s1 idx s
  | .vins j d c idx => Sys2Proof.Machine.execVins j d c idx s
  | .vinsImm j d c idx => Sys2Proof.Machine.execVinsImm j d c idx s
  | .vredsum j sel d s1 acc => Sys2Proof.Machine.execVredsum j sel d s1 acc s
  | .vredmax j sel d s1 acc => Sys2Proof.Machine.execVredmax j sel d s1 acc s
  | .vredmin j sel d s1 acc => Sys2Proof.Machine.execVredmin j sel d s1 acc s
  | .vredbitAnd j sel d s1 acc => Sys2Proof.Machine.execVredbitAnd j sel d s1 acc s
  | .vredbitOr j sel d s1 acc => Sys2Proof.Machine.execVredbitOr j sel d s1 acc s
  | .vredbitXor j sel d s1 acc => Sys2Proof.Machine.execVredbitXor j sel d s1 acc s
  | .vscanSum p d s1 cin cout => Sys2Proof.Machine.execVscanSum p d s1 cin cout s
  | .vscanMax p d s1 cin cout => Sys2Proof.Machine.execVscanMax p d s1 cin cout s
  | .vscanMin p d s1 cin cout => Sys2Proof.Machine.execVscanMin p d s1 cin cout s
  | .vscanSumX p d s1 cin cout => Sys2Proof.Machine.execVscanSumX p d s1 cin cout s
  | .vscanMaxX p d s1 cin cout => Sys2Proof.Machine.execVscanMaxX p d s1 cin cout s
  | .vscanMinX p d s1 cin cout => Sys2Proof.Machine.execVscanMinX p d s1 cin cout s
  | .vargmax j sel d s1 => Sys2Proof.Machine.execVargmax j sel d s1 s
  | .vargmin j sel d s1 => Sys2Proof.Machine.execVargmin j sel d s1 s
  | .mpopc j sel d m => Sys2Proof.Machine.execMpopc j sel d m s
  | .mfirst j sel d m => Sys2Proof.Machine.execMfirst j sel d m s
  | .kset p k s1 => Sys2Proof.Machine.execKset p k s1 s
  | .kget p d k => Sys2Proof.Machine.execKget p d k s
  | .kupSum p d s1 k fm => Sys2Proof.Machine.execKupSum p d s1 k fm s
  | .kupMax p d s1 k fm => Sys2Proof.Machine.execKupMax p d s1 k fm s
  | .kupMin p d s1 k fm => Sys2Proof.Machine.execKupMin p d s1 k fm s
  | .kdownSum p d s1 k fm => Sys2Proof.Machine.execKdownSum p d s1 k fm s
  | .kdownMax p d s1 k fm => Sys2Proof.Machine.execKdownMax p d s1 k fm s
  | .kdownMin p d s1 k fm => Sys2Proof.Machine.execKdownMin p d s1 k fm s
  | .kbcast p d s1 k fm => Sys2Proof.Machine.execKbcast p d s1 k fm s
  | .kdepth p d k fm => Sys2Proof.Machine.execKdepth p d k fm s
  | .kanc p d c k fm => Sys2Proof.Machine.execKanc p d c k fm s
  | .kancIs p m s1 k fm => Sys2Proof.Machine.execKancIs p m s1 k fm s
  | .kcontract p kd k fm => Sys2Proof.Machine.execKcontract p kd k fm s
  | .kroot p d k fm => Sys2Proof.Machine.execKroot p d k fm s
  | .kcheck p m k => Sys2Proof.Machine.execKcheck p m k s
  | .settl c1 c2 c3 => Sys2Proof.Machine.execSettl c1 c2 c3 s
  | .mzero t => Sys2Proof.Machine.execMzero t s
  | .mstageA c1 v planes => Sys2Proof.Machine.execMstageA c1 v planes s
  | .mstageB c1 v planes => Sys2Proof.Machine.execMstageB c1 v planes s
  | .mma t c1 c2 => Sys2Proof.Machine.execMma t c1 c2 s
  | .mldt t c1 tt => Sys2Proof.Machine.execMldt t c1 tt s
  | .mstt t c1 => Sys2Proof.Machine.execMstt t c1 s
  | .mtov v t c1 => Sys2Proof.Machine.execMtov v t c1 s
  | .trap imm => Sys2Proof.Machine.execTrap imm s
  | .brk imm => Sys2Proof.Machine.execBrk imm s
  | .hcall imm => Sys2Proof.Machine.execHcall imm s
  | .sgetc d num => Sys2Proof.Machine.execSgetc d num s
  | .ssetc num s1 => Sys2Proof.Machine.execSsetc num s1 s
  | .nop => Sys2Proof.Machine.execNop s
  | .mclaim => Sys2Proof.Machine.execMclaim s
  | .mrel => Sys2Proof.Machine.execMrel s
  | .gbar => Sys2Proof.Machine.execGbar s
  | .yield => Sys2Proof.Machine.execYield s
  | .vrel => Sys2Proof.Machine.execVrel s
  | .hexit => Sys2Proof.Machine.execHexit s
  | .eret => Sys2Proof.Machine.execEret s
  | .vld sel q base off => Sys2Proof.Machine.execVld sel q base off s
  | .vlds sel q base stride => Sys2Proof.Machine.execVlds sel q base stride s
  | .vldx sel q base list sc => Sys2Proof.Machine.execVldx sel q base list sc s
  | .vldff sel q base m off => Sys2Proof.Machine.execVldff sel q base m off s
  | .vst sel q base off => Sys2Proof.Machine.execVst sel q base off s
  | .vsts sel q base stride => Sys2Proof.Machine.execVsts sel q base stride s
  | .vstx sel q base list sc => Sys2Proof.Machine.execVstx sel q base list sc s
  | .vldw q base off => Sys2Proof.Machine.execVldw q base off s
  | .vstw q base off => Sys2Proof.Machine.execVstw q base off s
  | .vspl q base off => Sys2Proof.Machine.execVspl q base off s
  | .vfil q base off => Sys2Proof.Machine.execVfil q base off s
  | .vamo sel q base list sc op ret => Sys2Proof.Machine.execVamo sel q base list sc op ret s
  | .ldB d s1 ord off => Sys2Proof.Machine.execLdB d s1 ord off s
  | .ldH d s1 ord off => Sys2Proof.Machine.execLdH d s1 ord off s
  | .ldW d s1 ord off => Sys2Proof.Machine.execLdW d s1 ord off s
  | .ldD d s1 ord off => Sys2Proof.Machine.execLdD d s1 ord off s
  | .ldBn d s1 ord off => Sys2Proof.Machine.execLdBn d s1 ord off s
  | .ldHn d s1 ord off => Sys2Proof.Machine.execLdHn d s1 ord off s
  | .ldWn d s1 ord off => Sys2Proof.Machine.execLdWn d s1 ord off s
  | .stB d s1 ord off => Sys2Proof.Machine.execStB d s1 ord off s
  | .stH d s1 ord off => Sys2Proof.Machine.execStH d s1 ord off s
  | .stW d s1 ord off => Sys2Proof.Machine.execStW d s1 ord off s
  | .stD d s1 ord off => Sys2Proof.Machine.execStD d s1 ord off s
  | .amoaddW d s1 s2 ord off => Sys2Proof.Machine.execAmoaddW d s1 s2 ord off s
  | .amoaddD d s1 s2 ord off => Sys2Proof.Machine.execAmoaddD d s1 s2 ord off s
  | .amoswapW d s1 s2 ord off => Sys2Proof.Machine.execAmoswapW d s1 s2 ord off s
  | .amoswapD d s1 s2 ord off => Sys2Proof.Machine.execAmoswapD d s1 s2 ord off s
  | .amocasW d s1 s2 ord off => Sys2Proof.Machine.execAmocasW d s1 s2 ord off s
  | .amocasD d s1 s2 ord off => Sys2Proof.Machine.execAmocasD d s1 s2 ord off s
  | .amominW d s1 s2 ord off => Sys2Proof.Machine.execAmominW d s1 s2 ord off s
  | .amominD d s1 s2 ord off => Sys2Proof.Machine.execAmominD d s1 s2 ord off s
  | .amomaxW d s1 s2 ord off => Sys2Proof.Machine.execAmomaxW d s1 s2 ord off s
  | .amomaxD d s1 s2 ord off => Sys2Proof.Machine.execAmomaxD d s1 s2 ord off s
  | .amoandW d s1 s2 ord off => Sys2Proof.Machine.execAmoandW d s1 s2 ord off s
  | .amoandD d s1 s2 ord off => Sys2Proof.Machine.execAmoandD d s1 s2 ord off s
  | .amoorW d s1 s2 ord off => Sys2Proof.Machine.execAmoorW d s1 s2 ord off s
  | .amoorD d s1 s2 ord off => Sys2Proof.Machine.execAmoorD d s1 s2 ord off s
  | .amoxorW d s1 s2 ord off => Sys2Proof.Machine.execAmoxorW d s1 s2 ord off s
  | .amoxorD d s1 s2 ord off => Sys2Proof.Machine.execAmoxorD d s1 s2 ord off s
  | .amominWn d s1 s2 ord off => Sys2Proof.Machine.execAmominWn d s1 s2 ord off s
  | .amominDn d s1 s2 ord off => Sys2Proof.Machine.execAmominDn d s1 s2 ord off s
  | .amomaxWn d s1 s2 ord off => Sys2Proof.Machine.execAmomaxWn d s1 s2 ord off s
  | .amomaxDn d s1 s2 ord off => Sys2Proof.Machine.execAmomaxDn d s1 s2 ord off s
  | .rsadd d s1 ord off => Sys2Proof.Machine.execRsadd d s1 ord off s
  | .rsfin d s1 ord off => Sys2Proof.Machine.execRsfin d s1 ord off s
  | .cpy tag dst src n => Sys2Proof.Machine.execCpy tag dst src n s
  | .cpy2 tag dst src rows rowBytes spitch dpitch sw => Sys2Proof.Machine.execCpy2 tag dst src rows rowBytes spitch dpitch sw s
  | .cpyx tag dst dpitch base tpitch rowBytes list count limit sw => Sys2Proof.Machine.execCpyx tag dst dpitch base tpitch rowBytes list count limit sw s
  | .pftopk tag blk => Sys2Proof.Machine.execPftopk tag blk s
  | .pfscan tag blk => Sys2Proof.Machine.execPfscan tag blk s
  | .seam tag blk => Sys2Proof.Machine.execSeam tag blk s
  | .fcinv e1 e2 => Sys2Proof.Machine.execFcinv e1 e2 s
  | .fcwb e1 e2 => Sys2Proof.Machine.execFcwb e1 e2 s
  | .twany e1 => Sys2Proof.Machine.execTwany e1 s
  | .twall e1 => Sys2Proof.Machine.execTwall e1 s
  | .tfirst e1 e2 => Sys2Proof.Machine.execTfirst e1 e2 s
  | .tclr e1 => Sys2Proof.Machine.execTclr e1 s
  | .qfence qmask => Sys2Proof.Machine.execQfence qmask s
  | .fenceSv scope => Sys2Proof.Machine.execFenceSv scope s
  | .fenceVs scope => Sys2Proof.Machine.execFenceVs scope s
  | .fenceVv scope => Sys2Proof.Machine.execFenceVv scope s
  | .fenceAll scope => Sys2Proof.Machine.execFenceAll scope s
  | .waitmEq s1 s2 => Sys2Proof.Machine.execWaitmEq s1 s2 s
  | .waitmNe s1 s2 => Sys2Proof.Machine.execWaitmNe s1 s2 s
  | .glaunch d s1 s2 => Sys2Proof.Machine.execGlaunch d s1 s2 s
  | .ktlbiVa s1 s2 => Sys2Proof.Machine.execKtlbiVa s1 s2 s
  | .ktlbiPart s2 => Sys2Proof.Machine.execKtlbiPart s2 s
  | .ktlbiAll => Sys2Proof.Machine.execKtlbiAll s
  | .viqCommit h => Sys2Proof.Machine.execViqCommit h s
  | .vfetchPass h => Sys2Proof.Machine.execVfetchPass h s
  | .matrixQueuePerform h => Sys2Proof.Machine.execMatrixQueuePerform h s
  | .mclaimGrant h => Sys2Proof.Machine.execMclaimGrant h s
  | .vectorLoadDelivery h q => Sys2Proof.Machine.execVectorLoadDelivery h q s
  | .engineCommandStart h q => Sys2Proof.Machine.execEngineCommandStart h q s
  | .shuttleComplete h => Sys2Proof.Machine.execShuttleComplete h s
  | .photoFinishComplete h => Sys2Proof.Machine.execPhotoFinishComplete h s
  | .seamComplete h => Sys2Proof.Machine.execSeamComplete h s
  | .cacheOpComplete h => Sys2Proof.Machine.execCacheOpComplete h s
  | .rsaddRenormalise loc => Sys2Proof.Machine.execRsaddRenormalise loc s
  | .dirtyLineWriteback core line => Sys2Proof.Machine.execDirtyLineWriteback core line s
  | .queueDeadlockTrap h => Sys2Proof.Machine.execQueueDeadlockTrap h s
  | .gbarComplete p gang => Sys2Proof.Machine.execGbarComplete p gang s
  | .waitmWake h => Sys2Proof.Machine.execWaitmWake h s
  | .waitmTimeout h => Sys2Proof.Machine.execWaitmTimeout h s
  | .hartRetire h => Sys2Proof.Machine.execHartRetire h s
  | .launchPacketWrite fn p q off data => Sys2Proof.Machine.execLaunchPacketWrite fn p q off data s
  | .qcfgWrite fn p q v => Sys2Proof.Machine.execQcfgWrite fn p q v s
  | .pquantWrite fn p v => Sys2Proof.Machine.execPquantWrite fn p v s
  | .headPacketCheck p q => Sys2Proof.Machine.execHeadPacketCheck p q s
  | .headWaitRecheck p q => Sys2Proof.Machine.execHeadWaitRecheck p q s
  | .starterRound p => Sys2Proof.Machine.execStarterRound p s
  | .preemptionStart p gang => Sys2Proof.Machine.execPreemptionStart p gang s
  | .preemptDeadlineExpiry p gang elems => Sys2Proof.Machine.execPreemptDeadlineExpiry p gang elems s
  | .saveComplete h => Sys2Proof.Machine.execSaveComplete h s
  | .hartResume h => Sys2Proof.Machine.execHartResume h s
  | .gforcePreempt fn p v => Sys2Proof.Machine.execGforcePreempt fn p v s
  | .gforceEnd fn p v => Sys2Proof.Machine.execGforceEnd fn p v s
  | .tlbinvPage fn p v => Sys2Proof.Machine.execTlbinvPage fn p v s
  | .tlbinvPartition fn p v => Sys2Proof.Machine.execTlbinvPartition fn p v s
  | .tlbinvComplete p => Sys2Proof.Machine.execTlbinvComplete p s
  | .replayRetry fn p token => Sys2Proof.Machine.execReplayRetry fn p token s
  | .replayDecline fn p token => Sys2Proof.Machine.execReplayDecline fn p token s
  | .fqptrWrite fn p v => Sys2Proof.Machine.execFqptrWrite fn p v s
  | .priResponse p page granted => Sys2Proof.Machine.execPriResponse p page granted s
  | .hostDeviceWrite fn loc data => Sys2Proof.Machine.execHostDeviceWrite fn loc data s
  | .hostDeviceRead fn loc n => Sys2Proof.Machine.execHostDeviceRead fn loc n s
  | .hostAtomicop fn loc => Sys2Proof.Machine.execHostAtomicop fn loc s
  | .peerRequest peer req => Sys2Proof.Machine.execPeerRequest peer req s
  | .errorDetected err => Sys2Proof.Machine.execErrorDetected err s
  | .recoveryComplete unit passed => Sys2Proof.Machine.execRecoveryComplete unit passed s
  | .fatalError cause die => Sys2Proof.Machine.execFatalError cause die s
  | .dumpComplete => Sys2Proof.Machine.execDumpComplete s
  | .thermalTrip => Sys2Proof.Machine.execThermalTrip s
  | .thermalThrottle tj => Sys2Proof.Machine.execThermalThrottle tj s
  | .plimitWrite fn v => Sys2Proof.Machine.execPlimitWrite fn v s
  | .pshapeWrite fn p v => Sys2Proof.Machine.execPshapeWrite fn p v s
  | .fqbaseWrite fn p v => Sys2Proof.Machine.execFqbaseWrite fn p v s
  | .elbaseWrite fn v => Sys2Proof.Machine.execElbaseWrite fn v s
  | .telemetrySnapshot fn v => Sys2Proof.Machine.execTelemetrySnapshot fn v s
  | .telemetrySnapshotDone => Sys2Proof.Machine.execTelemetrySnapshotDone s
  | .attestationRequest fn v => Sys2Proof.Machine.execAttestationRequest fn v s
  | .attestationDone => Sys2Proof.Machine.execAttestationDone s
  | .firmwareBoot slotA slotB => Sys2Proof.Machine.execFirmwareBoot slotA slotB s
  | .vfFunctionLevelReset p => Sys2Proof.Machine.execVfFunctionLevelReset p s
  | .pfFunctionLevelReset => Sys2Proof.Machine.execPfFunctionLevelReset s
  | .registerWrite fn off v => Sys2Proof.Machine.execRegisterWrite fn off v s
  | .accessPerformed h idx => Sys2Proof.Machine.execAccessPerformed h idx s
  | .farCacheLineEviction die line => Sys2Proof.Machine.execFarCacheLineEviction die line s
  | .powerCapThrottle watts => Sys2Proof.Machine.execPowerCapThrottle watts s
  | .powerLoss => Sys2Proof.Machine.execPowerLoss s
  | .trappedHartResume p gang hart => Sys2Proof.Machine.execTrappedHartResume p gang hart s

end Sys2Proof.Machine
end

