-- ==== Sys2Proof/Machine/Front.lean ====
section
/-! DEFINITION. A turn of a thread: what keeps it from going on, the fetch, the decoding, the checks of the front end, and the
execution of the instruction it stands at; and a turn of an event (R14, R23, R26, R34, R145, R153, R166, R167, R402). -/
namespace Sys2Proof.Machine

open Sys2Proof

/-! ### What an instruction reads -/

/-- The scalar registers an instruction reads. -/
def scalarReads (i : Instr) : List Reg :=
  match i with
  | .add _ s1 s2 => [s1, s2]
  | .sub _ s1 s2 => [s1, s2]
  | .mul _ s1 s2 => [s1, s2]
  | .mulh _ s1 s2 => [s1, s2]
  | .mulhn _ s1 s2 => [s1, s2]
  | .div _ s1 s2 => [s1, s2]
  | .divn _ s1 s2 => [s1, s2]
  | .rem _ s1 s2 => [s1, s2]
  | .remn _ s1 s2 => [s1, s2]
  | .and _ s1 s2 => [s1, s2]
  | .or _ s1 s2 => [s1, s2]
  | .xor _ s1 s2 => [s1, s2]
  | .andn _ s1 s2 => [s1, s2]
  | .shl _ s1 s2 => [s1, s2]
  | .shr _ s1 s2 => [s1, s2]
  | .sra _ s1 s2 => [s1, s2]
  | .rot _ s1 s2 => [s1, s2]
  | .min _ s1 s2 => [s1, s2]
  | .max _ s1 s2 => [s1, s2]
  | .minn _ s1 s2 => [s1, s2]
  | .maxn _ s1 s2 => [s1, s2]
  | .slt _ s1 s2 => [s1, s2]
  | .sltn _ s1 s2 => [s1, s2]
  | .seq _ s1 s2 => [s1, s2]
  | .cmov _ s1 s2 s3 => [s1, s2, s3]
  | .clz _ s1 => [s1]
  | .ctz _ s1 => [s1]
  | .popc _ s1 => [s1]
  | .addImm _ s1 _ => [s1]
  | .subImm _ s1 _ => [s1]
  | .mulImm _ s1 _ => [s1]
  | .mulhImm _ s1 _ => [s1]
  | .mulhnImm _ s1 _ => [s1]
  | .divImm _ s1 _ => [s1]
  | .divnImm _ s1 _ => [s1]
  | .remImm _ s1 _ => [s1]
  | .remnImm _ s1 _ => [s1]
  | .andImm _ s1 _ => [s1]
  | .orImm _ s1 _ => [s1]
  | .xorImm _ s1 _ => [s1]
  | .andnImm _ s1 _ => [s1]
  | .shlImm _ s1 _ => [s1]
  | .shrImm _ s1 _ => [s1]
  | .sraImm _ s1 _ => [s1]
  | .rotImm _ s1 _ => [s1]
  | .minImm _ s1 _ => [s1]
  | .maxImm _ s1 _ => [s1]
  | .minnImm _ s1 _ => [s1]
  | .maxnImm _ s1 _ => [s1]
  | .sltImm _ s1 _ => [s1]
  | .sltnImm _ s1 _ => [s1]
  | .seqImm _ s1 _ => [s1]
  | .lih d _ => [d]
  | .fadd _ s1 s2 _ => [s1, s2]
  | .fsub _ s1 s2 _ => [s1, s2]
  | .fmul _ s1 s2 _ => [s1, s2]
  | .ffma _ s1 s2 s3 _ => [s1, s2, s3]
  | .fdiv _ s1 s2 _ => [s1, s2]
  | .fsqrt _ s1 s2 _ => [s1, s2]
  | .fmin _ s1 s2 _ => [s1, s2]
  | .fmax _ s1 s2 _ => [s1, s2]
  | .fcvt _ s1 s2 _ _ => [s1, s2]
  | .fcmpEq _ s1 s2 _ => [s1, s2]
  | .fcmpLt _ s1 s2 _ => [s1, s2]
  | .fcmpLe _ s1 s2 _ => [s1, s2]
  | .fcmpUn _ s1 s2 _ => [s1, s2]
  | .setc _ s1 => [s1]
  | .setvl _ s1 _ => [s1]
  | .qpush _ s1 => [s1]
  | .beq s1 s2 _ => [s1, s2]
  | .bne s1 s2 _ => [s1, s2]
  | .blt s1 s2 _ => [s1, s2]
  | .bge s1 s2 _ => [s1, s2]
  | .bltn s1 s2 _ => [s1, s2]
  | .bgen s1 s2 _ => [s1, s2]
  | .jalr _ s1 _ => [s1]
  | .lap n _ p0 p1 p2 p3 _ => n :: lapRegs p0 p1 p2 p3
  | .vloopS _ trip _ => [trip]
  | .vld _ _ base _ => [base]
  | .vlds _ _ base stride => [base, stride]
  | .vldx _ _ base list _ => [base, list]
  | .vldff _ _ base _ _ => [base]
  | .vst _ _ base _ => [base]
  | .vsts _ _ base stride => [base, stride]
  | .vstx _ _ base list _ => [base, list]
  | .vldw _ base _ => [base]
  | .vstw _ base _ => [base]
  | .vspl _ base _ => [base]
  | .vfil _ base _ => [base]
  | .vamo _ _ base list _ _ _ => [base, list]
  | .ldB _ s1 _ _ => [s1]
  | .ldH _ s1 _ _ => [s1]
  | .ldW _ s1 _ _ => [s1]
  | .ldD _ s1 _ _ => [s1]
  | .ldBn _ s1 _ _ => [s1]
  | .ldHn _ s1 _ _ => [s1]
  | .ldWn _ s1 _ _ => [s1]
  | .stB d s1 _ _ => [d, s1]
  | .stH d s1 _ _ => [d, s1]
  | .stW d s1 _ _ => [d, s1]
  | .stD d s1 _ _ => [d, s1]
  | .amoaddW _ s1 s2 _ _ => [s1, s2]
  | .amoaddD _ s1 s2 _ _ => [s1, s2]
  | .amoswapW _ s1 s2 _ _ => [s1, s2]
  | .amoswapD _ s1 s2 _ _ => [s1, s2]
  | .amocasW d s1 s2 _ _ => [d, s1, s2]
  | .amocasD d s1 s2 _ _ => [d, s1, s2]
  | .amominW _ s1 s2 _ _ => [s1, s2]
  | .amominD _ s1 s2 _ _ => [s1, s2]
  | .amomaxW _ s1 s2 _ _ => [s1, s2]
  | .amomaxD _ s1 s2 _ _ => [s1, s2]
  | .amoandW _ s1 s2 _ _ => [s1, s2]
  | .amoandD _ s1 s2 _ _ => [s1, s2]
  | .amoorW _ s1 s2 _ _ => [s1, s2]
  | .amoorD _ s1 s2 _ _ => [s1, s2]
  | .amoxorW _ s1 s2 _ _ => [s1, s2]
  | .amoxorD _ s1 s2 _ _ => [s1, s2]
  | .amominWn _ s1 s2 _ _ => [s1, s2]
  | .amominDn _ s1 s2 _ _ => [s1, s2]
  | .amomaxWn _ s1 s2 _ _ => [s1, s2]
  | .amomaxDn _ s1 s2 _ _ => [s1, s2]
  | .rsadd d s1 _ _ => [d, s1]
  | .rsfin _ s1 _ _ => [s1]
  | .cpy _ dst src n => [dst, src, n]
  | .cpy2 _ dst src rows rowBytes spitch dpitch _ => [dst, src, rows, rowBytes, spitch, dpitch]
  | .cpyx _ dst dpitch base tpitch rowBytes list count limit _ => [dst, dpitch, base, tpitch, rowBytes, list, count, limit]
  | .pftopk _ blk => [blk]
  | .pfscan _ blk => [blk]
  | .seam _ blk => [blk]
  | .fcinv e1 e2 => [e1, e2]
  | .fcwb e1 e2 => [e1, e2]
  | .twany e1 => [e1]
  | .twall e1 => [e1]
  | .tfirst _ e2 => [e2]
  | .tclr e1 => [e1]
  | .waitmEq s1 s2 => [s1, s2]
  | .waitmNe s1 s2 => [s1, s2]
  | .glaunch _ s1 s2 => [s1, s2]
  | .ssetc _ s1 => [s1]
  | .ktlbiVa s1 s2 => [s1, s2]
  | .ktlbiPart s2 => [s2]
  | i =>
    match useOf i with
    | some u => u.scal1.toList ++ u.scal2.toList ++ u.scal3.toList
    | none => []

/-- Whether it reads a register that an uncorrectable error has struck (R402). -/
def readsLost (th : ThreadState) (i : Instr) : Bool := (scalarReads i).any (th.lost.contains ·)

/-- The scalar instructions that read or write `vl` (R26). -/
def usesVl : Instr → Bool
  | .setvl _ _ _ | .setvlm _ _ | .lap _ _ _ _ _ _ _ | .bmskAny _ _ | .bmskNone _ _ => true
  | .getc _ n | .setc n _ => n.val = 0
  | _ => false

/-! ### A turn of a thread -/

/-- Whether a thread may go on: its hart runs, and it waits for no replay, no barrier and has not exited. -/
def mayGo (h : Hart) (th : ThreadState) : Bool := h.mode == .running && threadStands th

/-- Whether an instruction of a loop's body is skipped in this pass (R37). -/
def skippedHere (h : Hart) (u : ExecUnit) (ins : Instr) : Bool :=
  u == .anchor && ((useOf ins).map (skipsStage h.anchor)).getD false

/-- Whether a word passes the checks that come before it reads anything (R166): its thread, the control register it names, its convoy. -/
def passesChecks (h : Hart) (u : ExecUnit) (ins : Instr) : Bool :=
  Instr.allowed ins u.thread && namesKnown u.thread ins &&
    (u.thread == .pacer || (match useOf ins with
      | some v =>
        (inLoop h.anchor).isSome ||
          (if v.pred.joined && v.vform then !joinFault h.anchor v else v.vfCount == 0 && !lastForwards h.anchor)
      | none => true))

/-- The instruction at which a thread stands runs; a scalar it reads may have been lost (R402), unless it does not execute at all (R37)
or is illegal (R166). -/
def runInstr (s : State) (i : Nat) (h : Hart) (u : ExecUnit) (ins : Instr) : Out :=
  if !skippedHere h u ins && passesChecks h u ins && readsLost (h.th u.thread) ins then trapHere s i h u.thread 0x08
  else exec ins { s with cur := ⟨i, u⟩ }

/-- The word at which the Pacer stands. -/
noncomputable def pacerWord (s : State) (i : Nat) (h : Hart) : Out :=
  match fetchWord s h h.pacer.th.pc with
  | .error (.trap code fa) => .next (trapAt s i h .pacer code fa)
  | .error e => stopAccess s i h .pacer 0x06 .fetch 0 h.pacer.th.pc e
  | .ok (s, w, bad) =>
    if bad then .next (trapAt s i h .pacer 0x08 h.pacer.th.pc)
    else
      match decodeWord w with
      | .error _ => .next (refuseWord s i h .pacer 0x01)
      | .ok ins => runInstr s i h .pacer ins

/-- A turn of the Pacer: a load that waited for a replay is made again first (R239, R391). -/
noncomputable def pacerTurn (s : State) (i : Nat) : Out :=
  match s.harts[i]? with
  | none => .next s
  | some h =>
    if !mayGo h h.pacer.th || h.pacer.asleep then .next s
    else
      match h.pacer.waitLoad with
      | some w => vectorLoad (!h.pacer.reissue) w { s with cur := ⟨i, .pacer⟩ } i h
      | none => pacerWord s i h

/-- Whether a word has the C bit of the V form (R149, R153). -/
def joinsWord (w : Word) : Bool :=
  let major := w.toNat / 2 ^ 58
  decide (16 ≤ major) && decide (major ≤ 24) && w.getLsbD 57

/-- A decoded instruction in the front end; the convoy before it has been closed unless it joins it. What it pops and pushes itself comes behind
what the VIQ has still to pop and push: a thread's baton events are in its program's order (R337; log 28). -/
def frontInstr (s : State) (i : Nat) (h : Hart) (joins : Bool) (ins : Instr) : Out :=
  if !joins && (scalarPending h.anchor || (batonInstr ins && batonPending h.anchor) || (vlPending h.anchor && (usesVl ins || (useOf ins).isSome))) then .next s
  else runInstr s i h .anchor ins

/-- Whether an access waits for a reply: a replay or the host's answer. -/
def Stop.awaitsReply : Stop → Bool
  | .missing _ _ _ | .ats _ => true
  | _ => false

/-- What the word after the Anchor's next one says: it joins it, it does not, or it cannot be fetched yet. -/
inductive Ahead where
  | joins
  | alone
  | waits (e : Stop)

/-- The word after the Anchor's next one (R153). One whose fetch traps, or whose replay was declined, joins nothing: its trap comes at its
own turn. -/
def joinedAhead (s : State) (h : Hart) : Ahead :=
  let pc := h.anchor.th.pc + 8
  match fetchWord s h pc with
  | .ok (_, w, bad) => if !bad && joinsWord w then .joins else .alone
  | .error (.trap _ _) => .alone
  | .error (.hole _) => .alone
  | .error e => if h.anchor.ahead == some pc && e.awaitsReply then .alone else .waits e

/-- Whether an instruction outside a loop must not be joined: it writes a scalar or `vl` in the front end (R153, R167), which then starts no
part of a convoy that begins with it. -/
def mustStandAlone (h : Hart) (joins : Bool) (ins : Instr) : Bool :=
  !joins && (inLoop h.anchor).isNone && ((useOf ins).map fun u => u.out.isSome).getD false

/-- A word of the front end: a word without C closes the convoy before it (R153). -/
noncomputable def frontWord (s : State) (i : Nat) (h : Hart) (w : Word) : Out :=
  match (if joinsWord w then .ok h else closeConvoy s i h : Except State Hart) with
  | .error s' => .next s'
  | .ok h =>
    let s := setHart s i h
    match decodeWord w with
    | .error _ => .next (refuseWord s i h .anchor 0x01)
    | .ok ins =>
      if mustStandAlone h (joinsWord w) ins then
        match joinedAhead s h with
        | .joins => .next (refuseAt s i h 0x01 (h.anchor.th.pc + 8))
        | .alone => frontInstr s i h (joinsWord w) ins
        | .waits e => stopAccess s i h .anchor 0 .fetch 0 (h.anchor.th.pc + 8) e
      else frontInstr s i h (joinsWord w) ins

/-- A withdrawn convoy's trap is taken once the VIQ has committed what stands before it (R167). -/
def frontTrap (s : State) (i : Nat) (h : Hart) (f : FrontTrap) : State :=
  if h.anchor.viq.isEmpty then
    deliverTrap (setAnchor s i h { h.anchor with withdrawn := none }) i { code := f.code, thread := .anchor, iaddr := f.iaddr }
  else s

/-- Whether the front end stands behind the last word of its loop's body (R33, R36). -/
def atBoundary (l : LoopState) (pc : Word) : Bool := pc == l.base + BitVec.ofNat 64 (8 * l.words.length)

/-- A fetched word of the front end runs, or its fetch traps or waits (R145): the PC names the word. -/
noncomputable def frontFetched (s : State) (i : Nat) (h : Hart) (r : Except Stop (State × Word × Bool)) : Out :=
  match r with
  | .error (.trap code fa) => .next (fetchTrap s i h code fa)
  | .error e =>
    if h.anchor.ahead == some h.anchor.th.pc && e.awaitsReply then .next (fetchTrap s i h 0x06 h.anchor.th.pc)
    else stopAccess s i h .anchor 0x06 .fetch 0 h.anchor.th.pc e
  | .ok (s, w, bad) =>
    if bad then .next (fetchTrap s i h 0x08 h.anchor.th.pc)
    else frontWord s i { h with anchor := { h.anchor with ahead := h.anchor.ahead.filter (· == h.anchor.th.pc + 8) } } w

/-- A turn of the Anchor's front end. -/
noncomputable def anchorTurn (s : State) (i : Nat) : Out :=
  match s.harts[i]? with
  | none => .next s
  | some h =>
    if !mayGo h h.anchor.th || !h.anchor.vtokens.isEmpty then .next s
    else
      match h.anchor.withdrawn with
      | some f => .next (frontTrap s i h f)
      | none =>
        match inLoop h.anchor with
        | some l =>
          if atBoundary l h.anchor.th.pc then .next (loopBoundary s i h l) else frontFetched s i h (threadWord s h .anchor)
        | none => frontFetched s i h (threadWord s h .anchor)

/-! ### A turn of the device -/

/-- What an agent does: a thread's turn; an event. An instruction point is no event and does nothing so. -/
noncomputable def runAgent (s : State) : Agent → Out
  | .pacer i => pacerTurn s i
  | .anchor i => anchorTurn s i
  | .event e => if (encode e).isNone then exec e s else .next s

/-- Whose turn it is: the head of the agenda, else the schedule's (log 1). -/
def nextTurn (s : State) : Turn := (s.agenda.head?).getD (Config.schedule s.tick)

/-- The clock moves on (R67, R379), and the turn is taken from the agenda. -/
def beginTurn (s : State) : State :=
  let dt := (nextTurn s).dt
  charge { s with tick := s.tick + 1, agenda := s.agenda.tail } dt

/-- After a turn, passes that freed tracks have made due are run (R379). -/
def endTurn : Out → Out
  | .next s => .next (runDue s)
  | o => o

/-! ### A word to fetch -/

/-- A class-128 hart of a gang of one in partition 0, at an address, in supervisor mode. -/
def probeHart (pc : Word) : Hart :=
  { Hart.launch 0 ⟨[], 1, false⟩ ⟨pc, pc, []⟩ 0 ⟨0, 1, 0⟩ 0 with super := true, gangsize := 1 }

def probeGang : Gang := ⟨false, 0, 1, 0, false, 0, 1, false, .resident, 0, 0, 0, 0, false⟩

/-- A root table at 0x1000, a table at 0x2000 whose first entry maps 64 GiB from 0 with R, W and X, and a word at 0x3000
(R394, R395). -/
def probeMemory (m : List Host.Cell) (w : Word) : List Host.Cell :=
  let m := Memory.writeAll m 0x1000 (leBytes 8 0x2001)
  let m := Memory.writeAll m 0x2000 (leBytes 8 0x1F)
  Memory.writeAll m 0x3000 (leBytes 8 w.toNat)

/-- The thread that a word is for: the Anchor, when the Pacer may not run it (R14). -/
noncomputable def probeAgent (w : Word) (i : Nat) : Agent :=
  match decodeWord w with
  | .ok ins => if Instr.allowed ins .pacer then .pacer i else .anchor i
  | .error _ => .pacer i

/-- A state in which the next turn fetches a word: a hart that stands at it, its translation, and nothing that keeps the fetch
from the bytes at their home. -/
noncomputable def probeState (s : State) (w : Word) : State :=
  { s with
    mem := probeMemory s.mem w
    poison := s.poison.filter fun a => decide (a < 0x1000) || decide (0x4000 ≤ a)
    farCache := []
    tlb := []
    walkCache := []
    harts := s.harts ++ [probeHart 0x3000]
    gangs := s.gangs ++ [probeGang]
    parts := s.parts.set 0 { s.parts[(0 : Fin 8)] with ptroot := 0x1001 }
    mgmt := { s.mgmt with recoveries := [] }
    agenda := ⟨0, probeAgent w s.harts.length⟩ :: s.agenda }

end Sys2Proof.Machine
end

