-- ==== Sys2Proof/Machine/Step.lean ====
section
/-! DEFINITION. One step of the device, and the state whose next step fetches a given word. Everything they do is in Front. -/
namespace Sys2Proof.Machine

open Sys2Proof

/-- One step: the clock, one agent's turn, the passes it made due. -/
noncomputable def step (s : State) : Host.Outcome State Fault Refusal := endTurn (runAgent (beginTurn s) (nextTurn s).who)

/-- s with an instruction where the next step fetches (log 21). -/
noncomputable def State.withFetchWord (s : State) (nbits w : Nat) : State := probeState s (BitVec.ofNat 64 (w % 2 ^ nbits))

end Sys2Proof.Machine
end

