-- ==== Sys2Proof/Safety.lean ====
section
/-! DEFINITION. The words in which the statements speak: who executes, the state with one hart replaced, what counts as a
state in good form. -/
namespace Sys2Proof.Machine

open Sys2Proof

/-- A step's outcome is a next state: no fault, no refusal. -/
def Out.goesOn (o : Out) : Prop := ∃ t, o = .next t

/-- Hart h of the state executes, as thread t (log 1). -/
def State.runs (s : State) (h : Hart) (t : Thread) : Prop := s.harts[s.cur.hart]? = some h ∧ s.cur.unit.thread = t

/-- The vector unit of hart h executes: an instruction of the VIQ takes its effect (R23). -/
def State.performs (s : State) (h : Hart) : Prop := s.harts[s.cur.hart]? = some h ∧ s.cur.unit = .vector

/-- The Anchor's front end of hart h executes (R23). -/
def State.fronts (s : State) (h : Hart) : Prop := s.harts[s.cur.hart]? = some h ∧ s.cur.unit = .anchor

/-- The state with the executing hart replaced. -/
def State.put (s : State) (h : Hart) : State := { s with harts := s.harts.set s.cur.hart h }

/-- The memory is in its one canonical form (log 3). -/
def State.memoryOk (s : State) : Prop := Memory.wf s.mem = true

/-- No scalar queue of a hart holds more than its 16 entries (R15). -/
def State.scalarQueuesOk (s : State) : Prop := ∀ h ∈ s.harts, h.qa.length ≤ 16 ∧ h.qc.length ≤ 16

/-- Thread t of a hart may have changed its own registers, control registers and PC, and for a Pacer its marks of values from
`qa`; everything else of the hart is as it was: the partner thread, the queues, the vector state, the accesses on their way. -/
def Hart.onlyThread (h h' : Hart) (t : Thread) : Prop :=
  (∀ u, u ≠ t → h'.th u = h.th u) ∧
  { h' with pacer := h.pacer, anchor := h.anchor } = h ∧
  { h'.pacer with th := h.pacer.th, fromQa := h.pacer.fromQa } = h.pacer ∧
  { h'.anchor with th := h.anchor.th } = h.anchor

/-- The hart with a loss-of-decoupling branch counted: a Pacer branch on a value popped from `qa` (R20). -/
def Hart.counted (h : Hart) (t : Thread) (fromQa : Bool) : Hart :=
  if t = .pacer ∧ fromQa = true then
    { h with pacer := { h.pacer with lod := BitVec.ofNat 64 ((h.pacer.lod.toNat + 1) % 2 ^ 32) } }
  else h

/-- Whether element e of a Pacer's vector memory instruction is active: from `vstart` below `vl`, and picked by the selector (R151,
R239, R240). -/
def Hart.pacerActive (h : Hart) (sel : MaskSel) (e : Nat) : Bool :=
  decide (h.pacer.th.vstart.toNat ≤ e) && decide (e < h.pacer.th.vl.toNat) && (match sel with
    | none => decide (e < 8 * (128 * 2 ^ h.cls.val))
    | some m => (h.pacer.th.masks[m]).testBit e)

/-- The Pacer after a vector load has been issued: the load is in flight, `vstart` is 0 unless it moved an image (R239, R242). -/
def Hart.afterLoad (h : Hart) (f : LoadFlight) (image : Bool) : Hart :=
  let th := h.pacer.th
  { h with pacer := { h.pacer with
    th := { th with vstart := if image then th.vstart else 0, pc := th.pc + 8 }
    loads := h.pacer.loads ++ [f]
    waitLoad := none
    reissue := false } }

/-- The Pacer after a vector store has committed: its entry is popped, the stores are on their way (R240, R242). -/
def Hart.afterStore (h : Hart) (q : Fin 2) (fs : List StoreFlight) (image : Bool) : Hart :=
  let th := h.pacer.th
  { h with
    sq := h.sq.set q h.sq[q].tail
    pacer := { h.pacer with
      th := { th with vstart := if image then th.vstart else 0, pc := th.pc + 8 }
      stores := h.pacer.stores ++ fs } }

/-- What an element of a vector load of hart i may become as the load is issued (R134, R324): its place, read at the delivery; or at once the bits
that its aligned 8-byte word held before a scalar store that nothing orders before the load. -/
def State.mayIssue (s : State) (i : Nat) (ty : ElemType) (src x : ElemSource) : Prop :=
  x = src ∨ ∃ w ∈ s.earlier, w.hart = i ∧ (match src with
    | .bytes loc c => w.word = loc / 8 ∧ (c = false → w.copy = false) ∧
      x = if w.poison then .poison else .value (BitVec.ofNat 64 (leNat ((w.bytes.drop (loc % 8)).take (width ty / 8))))
    | .nibble loc high c => w.word = loc / 8 ∧ (c = false → w.copy = false) ∧
      x = if w.poison then .poison
        else .value (BitVec.ofNat 64 (leNat ((w.bytes.drop (loc % 8)).take 1) / (if high then 16 else 1) % 16))
    | _ => False)

/-- The elements of an issued load: each one that its place may give. -/
def State.issues (s : State) (i : Nat) (ty : ElemType) (srcs xs : List ElemSource) : Prop :=
  xs.length = srcs.length ∧ ∀ (k : Nat) (a x : ElemSource), srcs[k]? = some a → xs[k]? = some x → s.mayIssue i ty a x

/-- No word of n bytes has an earlier value that a vector load of hart i may still read (R134). -/
def State.settled (s : State) (i loc n : Nat) : Prop := ∀ w ∈ s.earlier, w.hart = i → 8 * w.word + 8 ≤ loc ∨ loc + n ≤ 8 * w.word

/-- Every entry of the translation caches holds what a walk of its addresses gives (R396). -/
def State.cachesAgree (s : State) : Prop :=
  ∀ e ∈ s.tlb ++ s.walkCache, ∀ va, va / 2 ^ e.leaf.bits = e.page →
    walkFrom s.mem va 4 ((s.parts[e.part].ptroot).toNat / 2 ^ 12 % 2 ^ 40 * 2 ^ 12) = .ok e.leaf

/-- A vector store of hart h has committed (R17, R240, R242): those of its stores that come after every `RSADD` of an accumulator they meet are
performed (log 19), the others are on their way. -/
def State.sent (s t : State) (h : Hart) (q : Fin 2) (fs : List StoreFlight) (image : Bool) : Prop :=
  (∃ s1 : State, { s1 with tlb := s.tlb, walkCache := s.walkCache, nbconf := s.nbconf, farCache := s.farCache } = s ∧
    t.mem = (sendStores s1 s.cur.hart fs).1.mem ∧
    t.harts = ((sendStores s1 s.cur.hart fs).1.harts).modify s.cur.hart fun h' =>
      h'.afterStore q (sendStores s1 s.cur.hart fs).2 image) ∧
  ((∀ f ∈ fs, accOrdered s s.cur.hart .vector f.loc f.data.length = false) →
    t.mem = s.mem ∧ t.harts = s.harts.set s.cur.hart (h.afterStore q fs image))

/-- Atomics one after another on memory: the items (location, operand) in order, what each item held before, and the memory
they leave. -/
def atomicsInOrder (n : Nat) (new : Nat → Nat → Nat) : List Host.Cell → List (Nat × Nat) → List Nat × List Host.Cell
  | m, [] => ([], m)
  | m, (loc, x) :: rest =>
    let old := leNat (Memory.readAll m loc n)
    let r := atomicsInOrder n new (Memory.writeAll m loc (leBytes n (new old x))) rest
    (old :: r.1, r.2)

/-- What a scalar float instruction leaves (R9, R173, R279): the result in d, the PC behind the instruction, its exceptions ORed
into the thread's fflags; then, if the partition enables one of those exceptions, the arithmetic trap. -/
def floatOutcome (s : State) (h : Hart) (t : Thread) (d : Reg) (r : Word) (fl : Flags) : Out :=
  let th := ((h.setReg t d r).advance t).th t
  let h' := ((h.setReg t d r).advance t).setTh t { th with fflags := th.fflags ||| fl.setWidth 64 }
  if (s.parts[h.part].fptrap &&& fl.setWidth 64) = 0 then .next (s.put h')
  else .next (deliverTrap (s.put h') s.cur.hart { code := 0x0C, thread := t, iaddr := (h.th t).pc })

/-! ### The vector unit -/

/-- A source of an Anchor instruction outside a convoy: a live register, or the oldest row of a load queue (R16, R51). -/
def Hart.operand (h : Hart) : VSrc → Option VSource
  | .reg r _ => VSource.ofReg h.anchor.vregs[r]
  | .lq q => h.lq[q].head?.map VSource.ofRow
  | .vf => none

/-- The hart once the rows that the sources name have been popped, each queue once (R16). -/
def Hart.taken (h : Hart) (srcs : List VSrc) : Hart :=
  { h with lq := Vector.ofFn fun q => if srcs.contains (.lq q) then h.lq[q].tail else h.lq[q] }

/-- The Anchor's `vl` and `vstart` as numbers. -/
def Hart.vlen (h : Hart) : Nat := h.anchor.th.vl.toNat
def Hart.vfirst (h : Hart) : Nat := h.anchor.th.vstart.toNat

/-- The selected mask bit of an element (R151). -/
def Hart.picks (h : Hart) (sel : MaskSel) (e : Nat) : Bool :=
  match sel with
  | none => true
  | some m => (h.anchor.th.masks[m]).testBit e

/-- Element e of an Anchor instruction is active (R7, R151). -/
def Hart.acts (h : Hart) (sel : MaskSel) (e : Nat) : Bool :=
  decide (h.vfirst ≤ e) && decide (e < h.vlen) && h.picks sel e

/-- What an element-wise instruction computes (R191): f on active elements, 0 of the type on inactive ones when z is set, nothing
below `vstart`. -/
def Hart.computes (h : Hart) (p : Pred) (t : ElemType) (f : Nat → Elt) : List (Option Elt) :=
  (List.range h.vlen).map fun e =>
    if e < h.vfirst then none
    else if h.picks p.sel e then some (f e)
    else if p.z then some (.quiet (zeroOf t)) else none

/-- A register keeps what is not written by the rules of R52; a row pushed to a store queue holds 0 there (R17). -/
def Hart.deliver (h : Hart) (d : VDst) (t : ElemType) (es : List (Option Elt)) : Hart :=
  match d with
  | .reg r => { h with anchor := { h.anchor with
      vregs := h.anchor.vregs.set r (writeReg h.anchor.vregs[r] t (es.map (Option.map Elt.bits))) } }
  | .sq q => { h with sq := h.sq.set q (h.sq[q] ++ [⟨t, es.map fun e => (e.map Elt.bits).getD (zeroOf t), []⟩]) }

/-- A destination can take its result: a store queue holds at most eight rows (R18). -/
def Hart.hasRoom (h : Hart) (d : VDst) : Prop :=
  match d with
  | .reg _ => True
  | .sq q => h.sq[q].length < 8

/-- The instruction may start inside its elements: unless its destination is one of its sources (R61, R194, R207). -/
def Hart.mayResume (h : Hart) (d : VDst) (srcs : List VSrc) : Prop :=
  h.anchor.th.vstart = 0 ∨ ∀ r z, d = .reg r → .reg r z ∉ srcs

/-- Setting a mask, a scalar register of the Anchor. -/
def Hart.withMask (h : Hart) (m : MaskReg) (new : Nat) : Hart :=
  { h with anchor := { h.anchor with th := { h.anchor.th with masks := h.anchor.th.masks.set m new } } }
def Hart.withScalar (h : Hart) (r : Reg) (v : Word) : Hart :=
  { h with anchor := { h.anchor with th := { h.anchor.th with regs := if r = 0 then h.anchor.th.regs else h.anchor.th.regs.set r v } } }

/-- What an instruction of the vector unit leaves (R9, R23, R61, R279): its effect h', `vstart` 0, its exceptions ORed into `fflags`,
`vsat` set when it saturated; then, if the partition enables one of those exceptions, the arithmetic trap. -/
def vectorOutcome (s : State) (h' : Hart) (fl : Flags) (sat : Bool) : Out :=
  let th := h'.anchor.th
  let t := s.put { h' with anchor := { h'.anchor with
      th := { th with fflags := th.fflags ||| fl.setWidth 64, vstart := 0 }
      vsat := if sat then 1 else h'.anchor.vsat } }
  if (s.parts[h'.part].fptrap &&& fl.setWidth 64) = 0 then .next t
  else .next (deliverTrap t s.cur.hart { code := 0x0C, thread := .anchor, iaddr := th.pc })

/-- The exceptions of what was computed, and whether something saturated (R9, R72). -/
def raisedBy (es : List (Option Elt)) : Flags := flagsOf (es.filterMap id)
def saturatedBy (es : List (Option Elt)) : Bool := satOf (es.filterMap id)

/-! ### Engines -/

/-- A running hart once the head of an engine queue has completed (R112, R114): its tag's bits are set, what it wrote waits to be
observed. -/
def Hart.completed (h : Hart) (q : Fin 4) (tag : Option (Fin 64)) (err : Bool) (ranges : List (Nat × Nat)) : Hart :=
  let p := { h.pacer with engines := h.pacer.engines.set q h.pacer.engines[q].tail }
  { h with pacer := match tag with
    | none => p
    | some t => { p with
      tagmap := p.tagmap ||| BitVec.ofNat 64 (2 ^ t.val)
      tagerr := if err then p.tagerr ||| BitVec.ofNat 64 (2 ^ t.val) else p.tagerr
      wrote := p.wrote ++ [⟨q, t, ranges⟩] } }

/-- A command at the end of its queue, and the Pacer behind the instruction (R248). -/
def Hart.issued (h : Hart) (q : Fin 4) (op : EngineOp) (tag : Option (Fin 64)) : Hart :=
  { h with pacer := { h.pacer with
    engines := h.pacer.engines.set q (h.pacer.engines[q] ++ [.fresh op h.core tag])
    th := { h.pacer.th with pc := h.pacer.th.pc + 8 } } }

/-- The Pacer behind its instruction, the scalar or vector stores it may have held performed. -/
def Hart.after (h : Hart) (stores : List StoreFlight) : Hart :=
  { h with pacer := { h.pacer with stores := stores, th := { h.pacer.th with pc := h.pacer.th.pc + 8 } } }

/-- The register value of an integer result of FCVT: I types sign-extended, N types zero-extended (R175). -/
def extendResult (dst : ElemType) (i : Int) : Word :=
  if isSigned dst then BitVec.ofInt 64 i else BitVec.ofNat 64 i.toNat

/-- The exact value of a number that is neither a NaN nor an infinity. -/
def ratOf : FVal → Rat
  | .fin neg m e => (if neg then -(m : Rat) else m) * (2 : Rat) ^ e
  | _ => 0

/-- Neither a NaN nor an infinity. -/
def isNumber : FVal → Bool
  | .nan _ => false
  | .inf _ => false
  | _ => true

end Sys2Proof.Machine
end

