-- ==== Sys2Proof/Certificates/Slice0/Obligations.lean ====
section
/-! DEFINITION. The statements for the provers. Each docstring names the rules of spec/ it formalises. -/

open Sys2Proof Sys2Proof.Machine


/-! ## Scalar registers, results and floats -/

/-- What writing a register and going on leaves (R47): register 0 stays 0, the register named reads as the value, every
other register of both threads, every mask, flag, queue, vector register and accumulator of the hart stays. Replacing the executing hart changes no other hart and nothing else: every byte of memory, every cache line, every
partition register, the clock and the free values stay. -/
def Obligations.RegisterWriteFrame : Prop :=
  (∀ (h : Hart) (t : Thread) (d : Reg) (v : Word),
    let h' := (h.setReg t d v).advance t
    h'.reg t 0 = 0 ∧ (d ≠ 0 → h'.reg t d = v) ∧ (∀ r, r ≠ d → h'.reg t r = h.reg t r) ∧
    (h'.th t).pc = (h.th t).pc + 8 ∧
    (∀ u, u ≠ t → h'.th u = h.th u) ∧
    { h'.th t with pc := (h.th t).pc, regs := (h.th t).regs, lost := (h.th t).lost } = h.th t ∧
    { h' with pacer := h.pacer, anchor := h.anchor } = h ∧
    { h'.pacer with th := h.pacer.th, fromQa := h.pacer.fromQa } = h.pacer ∧
    { h'.anchor with th := h.anchor.th } = h.anchor) ∧
  (∀ (s : State) (h h' : Hart), s.harts[s.cur.hart]? = some h →
    (s.put h').harts[s.cur.hart]? = some h' ∧
    (∀ i, i ≠ s.cur.hart → (s.put h').harts[i]? = s.harts[i]?) ∧
    (s.put h').harts.length = s.harts.length ∧
    { s.put h' with harts := s.harts } = s ∧
    ∀ a, Memory.read (s.put h').mem a = Memory.read s.mem a)

/-- Division never traps (R170): division by 0 and the one overflowing quotient. -/
def Obligations.DivisionBoundaries : Prop :=
  ∀ (s : State) (h : Hart) (t : Thread) (d s1 s2 : Reg), s.runs h t →
    let x := h.reg t s1
    let y := h.reg t s2
    let writes := fun (i : Instr) (v : Word) => exec i s = .next (s.put ((h.setReg t d v).advance t))
    (y = 0 → writes (.div d s1 s2) 0xFFFFFFFFFFFFFFFF ∧ writes (.divn d s1 s2) 0xFFFFFFFFFFFFFFFF ∧
      writes (.rem d s1 s2) x ∧ writes (.remn d s1 s2) x) ∧
    (x = 0x8000000000000000 → y = 0xFFFFFFFFFFFFFFFF →
      writes (.div d s1 s2) 0x8000000000000000 ∧ writes (.rem d s1 s2) 0)

/-- The register forms of major 0x01 (R169), in either thread. `CLZ`, `CTZ` and `POPC` (R169): the counts are told by the bits themselves. -/
def Obligations.ScalarRegisterForms : Prop :=
  (∀ (s : State) (h : Hart) (t : Thread) (d s1 s2 : Reg), s.runs h t →
    let x := h.reg t s1
    let y := h.reg t s2
    let n := y.toNat % 64
    let writes := fun (i : Instr) (v : Word) => exec i s = .next (s.put ((h.setReg t d v).advance t))
    writes (.add d s1 s2) (x + y) ∧
    writes (.sub d s1 s2) (x - y) ∧
    writes (.mul d s1 s2) (x * y) ∧
    writes (.mulh d s1 s2) (BitVec.ofInt 64 (x.toInt * y.toInt / 2 ^ 64)) ∧
    writes (.mulhn d s1 s2) (BitVec.ofNat 64 (x.toNat * y.toNat / 2 ^ 64)) ∧
    (y ≠ 0 → writes (.div d s1 s2) (BitVec.ofInt 64 (x.toInt.tdiv y.toInt))) ∧
    (y ≠ 0 → writes (.divn d s1 s2) (x / y)) ∧
    (y ≠ 0 → writes (.rem d s1 s2) (BitVec.ofInt 64 (x.toInt.tmod y.toInt))) ∧
    (y ≠ 0 → writes (.remn d s1 s2) (x % y)) ∧
    writes (.and d s1 s2) (x &&& y) ∧
    writes (.or d s1 s2) (x ||| y) ∧
    writes (.xor d s1 s2) (x ^^^ y) ∧
    writes (.andn d s1 s2) (x &&& ~~~y) ∧
    writes (.shl d s1 s2) (x <<< n) ∧
    writes (.shr d s1 s2) (x >>> n) ∧
    writes (.sra d s1 s2) (x.sshiftRight n) ∧
    writes (.rot d s1 s2) (x <<< n ||| x >>> (64 - n)) ∧
    writes (.min d s1 s2) (if x.toInt < y.toInt then x else y) ∧
    writes (.max d s1 s2) (if x.toInt < y.toInt then y else x) ∧
    writes (.minn d s1 s2) (if x.toNat < y.toNat then x else y) ∧
    writes (.maxn d s1 s2) (if x.toNat < y.toNat then y else x) ∧
    writes (.slt d s1 s2) (if x.toInt < y.toInt then 1 else 0) ∧
    writes (.sltn d s1 s2) (if x.toNat < y.toNat then 1 else 0) ∧
    writes (.seq d s1 s2) (if x = y then 1 else 0) ∧
    ∀ s3, writes (.cmov d s1 s2 s3) (if h.reg t s3 ≠ 0 then x else y)) ∧
  (∀ (s : State) (h : Hart) (t : Thread) (d s1 : Reg), s.runs h t →
    let x := h.reg t s1
    let writes := fun (i : Instr) (v : Word) => exec i s = .next (s.put ((h.setReg t d v).advance t))
    (∃ n : Nat, writes (.clz d s1) (BitVec.ofNat 64 n) ∧ n ≤ 64 ∧
      (∀ k, 64 - n ≤ k → x.getLsbD k = false) ∧ (n < 64 → x.getLsbD (63 - n) = true)) ∧
    (∃ n : Nat, writes (.ctz d s1) (BitVec.ofNat 64 n) ∧ n ≤ 64 ∧
      (∀ k, k < n → x.getLsbD k = false) ∧ (n < 64 → x.getLsbD n = true)) ∧
    writes (.popc d s1) (BitVec.ofNat 64 ((List.range 64).countP fun k => x.getLsbD k)))

/-- The immediate forms of major 0x02 (R171) do what the register forms do with imm32, sign-extended, as second operand;
a shift amount is the immediate. `LI`, `LIH` (R172) and `NOP` (R176). The pair `LI`, `LIH` loads any 64-bit constant, whatever the sign of its low half (R172). -/
def Obligations.ScalarImmediatesAndConstants : Prop :=
  (∀ (s : State) (h : Hart) (t : Thread) (d s1 : Reg) (imm : BitVec 32) (sh : Fin 64), s.runs h t →
    let x := h.reg t s1
    let y : Word := imm.signExtend 64
    let n := sh.val
    let writes := fun (i : Instr) (v : Word) => exec i s = .next (s.put ((h.setReg t d v).advance t))
    writes (.addImm d s1 imm) (x + y) ∧
    writes (.subImm d s1 imm) (x - y) ∧
    writes (.mulImm d s1 imm) (x * y) ∧
    writes (.mulhImm d s1 imm) (BitVec.ofInt 64 (x.toInt * y.toInt / 2 ^ 64)) ∧
    writes (.mulhnImm d s1 imm) (BitVec.ofNat 64 (x.toNat * y.toNat / 2 ^ 64)) ∧
    writes (.divImm d s1 imm) (if imm = 0 then 0xFFFFFFFFFFFFFFFF else BitVec.ofInt 64 (x.toInt.tdiv y.toInt)) ∧
    writes (.divnImm d s1 imm) (if imm = 0 then 0xFFFFFFFFFFFFFFFF else x / y) ∧
    writes (.remImm d s1 imm) (if imm = 0 then x else BitVec.ofInt 64 (x.toInt.tmod y.toInt)) ∧
    writes (.remnImm d s1 imm) (if imm = 0 then x else x % y) ∧
    writes (.andImm d s1 imm) (x &&& y) ∧
    writes (.orImm d s1 imm) (x ||| y) ∧
    writes (.xorImm d s1 imm) (x ^^^ y) ∧
    writes (.andnImm d s1 imm) (x &&& ~~~y) ∧
    writes (.shlImm d s1 sh) (x <<< n) ∧
    writes (.shrImm d s1 sh) (x >>> n) ∧
    writes (.sraImm d s1 sh) (x.sshiftRight n) ∧
    writes (.rotImm d s1 sh) (x <<< n ||| x >>> (64 - n)) ∧
    writes (.minImm d s1 imm) (if x.toInt < y.toInt then x else y) ∧
    writes (.maxImm d s1 imm) (if x.toInt < y.toInt then y else x) ∧
    writes (.minnImm d s1 imm) (if x.toNat < y.toNat then x else y) ∧
    writes (.maxnImm d s1 imm) (if x.toNat < y.toNat then y else x) ∧
    writes (.sltImm d s1 imm) (if x.toInt < y.toInt then 1 else 0) ∧
    writes (.sltnImm d s1 imm) (if x.toNat < y.toNat then 1 else 0) ∧
    writes (.seqImm d s1 imm) (if x = y then 1 else 0)) ∧
  (∀ (s : State) (h : Hart) (t : Thread) (d : Reg) (imm : BitVec 32), s.runs h t →
    exec (.li d imm) s = .next (s.put ((h.setReg t d (imm.signExtend 64)).advance t)) ∧
    exec (.lih d imm) s =
      .next (s.put ((h.setReg t d (BitVec.ofNat 64 (imm.toNat * 2 ^ 32 + (h.reg t d).toNat % 2 ^ 32))).advance t)) ∧
    exec .nop s = .next (s.put (h.advance t))) ∧
  (∀ (s s' : State) (h : Hart) (t : Thread) (d : Reg) (v : Word), s.runs h t → d ≠ 0 →
    exec (.li d (v.setWidth 32)) s = .next s' →
    ∃ h' : Hart, s'.runs h' t ∧
      exec (.lih d ((v >>> 32).setWidth 32)) s' = .next (s'.put ((h'.setReg t d v).advance t)))

/-- The scalar float results (R173, R174): operands are the slots of their registers, each result is one rounding of the
exact value, bits above the slot are 0. The scalar float compares write 0 or 1 to all of d (R174): a NaN makes every order false, −0 equals +0, and NV is
raised as R174 says. `FCVT` (R80, R175) between a float and a float, a float and an integer type, an integer type and a float. -/
def Obligations.ScalarFloats : Prop :=
  (∀ (s : State) (h : Hart) (t : Thread) (d s1 s2 s3 : Reg) (f : FloatFmt), s.runs h t →
    let w := FloatFmt.frac f + FloatFmt.expo f + 1
    let x := fDecode f ((h.reg t s1).toNat % 2 ^ w)
    let y := fDecode f ((h.reg t s2).toNat % 2 ^ w)
    let z := fDecode f ((h.reg t s3).toNat % 2 ^ w)
    let rm := Rounding.ofWord (h.th t).frm
    let writes := fun (i : Instr) (r : Nat × Flags) => exec i s = floatOutcome s h t d (BitVec.ofNat 64 r.1) r.2
    writes (.fadd d s1 s2 f) (fAddV f rm x y) ∧
    writes (.fsub d s1 s2 f) (fSubV f rm x y) ∧
    writes (.fmul d s1 s2 f) (fMulV f rm x y) ∧
    writes (.ffma d s1 s2 s3 f) (fFmaV f rm x y z) ∧
    writes (.fdiv d s1 s2 f) (fDivV f rm x y) ∧
    writes (.fsqrt d s1 s2 f) (fSqrtV f rm x) ∧
    writes (.fmin d s1 s2 f) (fMinMaxV f false ((h.reg t s1).toNat % 2 ^ w) ((h.reg t s2).toNat % 2 ^ w)) ∧
    writes (.fmax d s1 s2 f) (fMinMaxV f true ((h.reg t s1).toNat % 2 ^ w) ((h.reg t s2).toNat % 2 ^ w))) ∧
  (∀ (s : State) (h : Hart) (t : Thread) (d s1 s2 : Reg) (f : FloatFmt), s.runs h t →
    let w := FloatFmt.frac f + FloatFmt.expo f + 1
    let x := fDecode f ((h.reg t s1).toNat % 2 ^ w)
    let y := fDecode f ((h.reg t s2).toNat % 2 ^ w)
    let nan := x.isNan || y.isNan
    let quiet : Flags := if x.isSignalling || y.isSignalling then flagNV else 0
    let loud : Flags := if nan then flagNV else 0
    let writes := fun (i : Instr) (b : Bool) (fl : Flags) => exec i s = floatOutcome s h t d (if b then 1 else 0) fl
    writes (.fcmpEq d s1 s2 f) (!nan && fEqV x y) quiet ∧
    writes (.fcmpLt d s1 s2 f) (!nan && fLtV x y) loud ∧
    writes (.fcmpLe d s1 s2 f) (!nan && !fLtV y x) loud ∧
    writes (.fcmpUn d s1 s2 f) nan quiet) ∧
  (∀ (s : State) (h : Hart) (t : Thread) (d s1 s2 : Reg) (dst src : ElemType), s.runs h t →
    let x := h.reg t s1
    let rm := Rounding.ofWord (h.th t).frm
    (∀ f g, fmtOf src = some f → fmtOf dst = some g →
      exec (.fcvt d s1 s2 dst src) s =
        floatOutcome s h t d (BitVec.ofNat 64 (fResult g rm (fDecode f x.toNat) false).1) (fResult g rm (fDecode f x.toNat) false).2) ∧
    (∀ f, fmtOf src = some f → dst.isScalarCvt = true → fmtOf dst = none →
      let r := fToInt rm (intLo dst) (intHi dst) (fDecode f x.toNat)
      exec (.fcvt d s1 s2 dst src) s = floatOutcome s h t d (extendResult dst r.1) r.2) ∧
    (∀ g, src.isScalarCvt = true → fmtOf src = none → fmtOf dst = some g →
      let r := fFromInt g rm (intVal src x)
      exec (.fcvt d s1 s2 dst src) s = floatOutcome s h t d (BitVec.ofNat 64 r.1) r.2))

/-- The sums and products that are rounded are the exact ones (R76, R77): of two numbers, the value before rounding is
x + y and x × y, and no flag is raised before it is rounded. A value that a format holds is not changed by rounding to that format in any mode, and raises nothing (R76, R78). Rounding to nearest gives a number of the format that no other number of the format is nearer to than the exact value,
whenever it gives a number at all; it raises NX exactly when it changes the value (R76, R78). -/
def Obligations.RoundingIsCorrect : Prop :=
  (∀ (rm : Rounding) (x y : FVal), isNumber x = true → isNumber y = true →
    let a := fAddExact rm x y
    let p := fMulExact x y
    isNumber a.1 = true ∧ ratOf a.1 = ratOf x + ratOf y ∧ a.2 = 0 ∧
    isNumber p.1 = true ∧ ratOf p.1 = ratOf x * ratOf y ∧ p.2 = 0) ∧
  (∀ (f : FloatFmt) (rm : Rounding) (b : Nat) (neg : Bool) (m : Nat) (e : Int),
    b < 2 ^ FloatFmt.width f → fDecode f b = .fin neg m e → fRound f rm neg m e false = (b, 0)) ∧
  (∀ (f : FloatFmt) (neg : Bool) (m : Nat) (e : Int), 0 < m →
    let r := fRound f .nearestEven neg m e false
    let v := ratOf (.fin neg m e)
    isNumber (fDecode f r.1) = true →
      (∀ b, b < 2 ^ FloatFmt.width f → isNumber (fDecode f b) = true →
        |ratOf (fDecode f r.1) - v| ≤ |ratOf (fDecode f b) - v|) ∧
      (ratOf (fDecode f r.1) = v ↔ r.2 &&& flagNX = 0))

/-! ## Control registers, grants, scalar queues -/

/-- What `GETC` gives (R59, R65 to R67, R176), once nothing is left of what it waits for (R26, R68); a number that the thread
cannot reach is an illegal instruction. The value of `cycle` is the die's count, whose offset and `featver`.STEP are
Config's (log 4, log 5). What `SETC` stores (R19, R59 to R62, R66, R176), once the Anchor's VIQ has committed (R26): `vl`, `rl` and `slip` limited,
reserved bits 0, an RO register left as it is, 5, 6 and 7 refused for `frm`. An Anchor `SETC` of `frm`, `rngkey` or `topoctl`
also takes a place in the VIQ, as an entry that holds what was in force before it, and waits while there is none or while an entry has still to set `vl`, which it captures (R23, R177, R213). While what R26 and R68 make an access wait for is outstanding, the access changes nothing: the Anchor's accesses of `vl`,
`vstart`, `fflags`, `vsat`, `efc`, `rngctr` and `xpc` while the VIQ holds an entry, a Pacer `GETC` of `vstart` or `fflags` while a
vector load is in flight. Where the spec leaves a choice, the model's: log 4, 5. -/
def Obligations.ControlRegisters : Prop :=
  (∀ (s : State) (h : Hart) (t : Thread) (d : Reg), s.runs h t →
    (t = .anchor → h.anchor.viq = []) →
    (t = .pacer → h.pacer.loads = [] ∧ ∀ f ∈ h.pacer.stores, f.side ≠ .vector) →
    let th := h.th t
    let reads := fun (num : Fin 4096) (w : Word) => exec (.getc d num) s = .next (s.put ((h.setReg t d w).advance t))
    let illegal := fun (num : Fin 4096) => exec (.getc d num) s = .next (refuseWord s s.cur.hart h t 0x01)
    reads 0x000 th.vl ∧ reads 0x001 (BitVec.ofNat 64 (128 * 2 ^ h.cls.val)) ∧ reads 0x002 th.rl ∧
    reads 0x003 (BitVec.ofNat 64 (4 * (128 * 2 ^ h.cls.val))) ∧ reads 0x004 th.vstart ∧ reads 0x008 th.fflags ∧
    reads 0x009 th.frm ∧ reads 0x030 (BitVec.ofNat 64 h.hartid) ∧ reads 0x031 (h.gang.setWidth 64) ∧
    reads 0x032 (BitVec.ofNat 64 h.gangsize) ∧ reads 0x038 (Config.step.setWidth 64 <<< 16 ||| 1) ∧
    reads 0x039 (cycleOf s h) ∧ reads 0x041 th.trapvec ∧
    (t = .pacer → reads 0x011 h.pacer.tagerr ∧ reads 0x019 h.pacer.slip ∧ reads 0x01A h.pacer.lod ∧
      (s.mgmt.recoveries = [] → exec (.getc d 0x010) s = .next (modHart (observeTags s s.cur.hart h.core (setTags h.pacer.tagmap)) s.cur.hart
        fun h' => (h'.setReg .pacer d h.pacer.tagmap).advance .pacer))) ∧
    (t = .anchor → reads 0x00A h.anchor.vsat ∧ reads 0x00B h.anchor.efc ∧ reads 0x018 th.pc ∧ reads 0x020 h.anchor.rngkey ∧
      reads 0x021 (h.anchor.rngctr.setWidth 64) ∧ reads 0x022 ((h.anchor.rngctr >>> 64).setWidth 64) ∧
      reads 0x028 ((nextBlock h.anchor.xpc).getD 0) ∧ reads 0x040 h.anchor.topoctl ∧
      reads 0x048 (BitVec.ofNat 64 h.anchor.shape.word)) ∧
    (t = .pacer → ∀ num : Fin 4096, num.val ∈ [0x00A, 0x00B, 0x018, 0x020, 0x021, 0x022, 0x028, 0x040, 0x048] → illegal num) ∧
    (t = .anchor → ∀ num : Fin 4096, num.val ∈ [0x010, 0x011, 0x019, 0x01A] → illegal num) ∧
    ∀ num : Fin 4096, num.val ∉ [0x000, 0x001, 0x002, 0x003, 0x004, 0x008, 0x009, 0x00A, 0x00B, 0x010, 0x011, 0x018, 0x019, 0x01A,
      0x020, 0x021, 0x022, 0x028, 0x030, 0x031, 0x032, 0x038, 0x039, 0x040, 0x041, 0x048] → illegal num) ∧
  (∀ (s : State) (h : Hart) (t : Thread) (s1 : Reg), s.runs h t → (t = .anchor → h.anchor.viq = []) →
    let w := h.reg t s1
    let th := h.th t
    let a := h.anchor
    let p := h.pacer
    let leaves := fun (num : Fin 4096) (h' : Hart) => exec (.setc num s1) s = .next (s.put (h'.advance t))
    let illegal := fun (num : Fin 4096) => exec (.setc num s1) s = .next (refuseWord s s.cur.hart h t 0x01)
    leaves 0x000 (h.setTh t { th with vl := BitVec.ofNat 64 (min w.toNat (8 * (128 * 2 ^ h.cls.val))) }) ∧
    leaves 0x002 (h.setTh t { th with rl := BitVec.ofNat 64 (min w.toNat 64) }) ∧
    leaves 0x004 (h.setTh t { th with vstart := w }) ∧
    leaves 0x008 (h.setTh t { th with fflags := w &&& 0x1F }) ∧
    (t = .pacer → w.toNat % 8 < 5 → leaves 0x009 (h.setTh t { th with frm := w &&& 0x7 })) ∧
    (5 ≤ w.toNat % 8 → exec (.setc 0x009 s1) s = .next (trapAt s s.cur.hart h t 0x01 0)) ∧
    leaves 0x041 (h.setTh t { th with trapvec := w &&& ~~~0x6 }) ∧
    (∀ num : Fin 4096, num.val ∈ [0x001, 0x003, 0x030, 0x031, 0x032, 0x038, 0x039] → leaves num h) ∧
    (t = .pacer →
      leaves 0x019 { h with pacer := { p with slip := if w = 0 then 1 else if 8 < w.toNat then 8 else w } } ∧
      leaves 0x01A { h with pacer := { p with lod := w &&& 0xFFFFFFFF } } ∧
      leaves 0x010 h ∧ leaves 0x011 h ∧
      ∀ num : Fin 4096, num.val ∈ [0x00A, 0x00B, 0x018, 0x020, 0x021, 0x022, 0x028, 0x040, 0x048] → illegal num) ∧
    (t = .anchor →
      leaves 0x00A { h with anchor := { a with vsat := w &&& 1 } } ∧
      leaves 0x00B { h with anchor := { a with efc := w &&& 0xFFFFFFFF } } ∧
      leaves 0x021 { h with anchor := { a with rngctr := (a.rngctr >>> 64).setWidth 64 ++ w } } ∧
      leaves 0x022 { h with anchor := { a with rngctr := w ++ a.rngctr.setWidth 64 } } ∧
      leaves 0x018 h ∧ leaves 0x028 h ∧ leaves 0x048 h ∧
      ∀ num : Fin 4096, num.val ∈ [0x010, 0x011, 0x019, 0x01A] → illegal num) ∧
    ∀ num : Fin 4096, num.val ∉ [0x000, 0x001, 0x002, 0x003, 0x004, 0x008, 0x009, 0x00A, 0x00B, 0x010, 0x011, 0x018, 0x019, 0x01A,
      0x020, 0x021, 0x022, 0x028, 0x030, 0x031, 0x032, 0x038, 0x039, 0x040, 0x041, 0x048] → illegal num) ∧
  (∀ (s : State) (h : Hart) (d s1 : Reg),
    (s.runs h .anchor → h.anchor.viq ≠ [] →
      ∀ num : Fin 4096, num.val ∈ [0x000, 0x004, 0x008, 0x00A, 0x00B, 0x021, 0x022, 0x028] →
        exec (.getc d num) s = .next s ∧ exec (.setc num s1) s = .next s) ∧
    (s.runs h .anchor →
      let w := h.reg .anchor s1
      let a := h.anchor
      let enters := fun (num : Fin 4096) (h' : Hart) =>
        (64 ≤ a.viq.length ∨ vlPending a = true → exec (.setc num s1) s = .next s) ∧
        (a.viq.length < 64 → vlPending a = false → ∃ e : VEntry, e.instr = .setc num s1 ∧ e.addr = a.th.pc ∧ e.scal1 = w ∧
          e.frm = a.th.frm ∧ e.topoctl = a.topoctl ∧ e.rngkey = a.rngkey ∧
          exec (.setc num s1) s = .next (s.put (Hart.advance
            { h' with anchor := { h'.anchor with viq := a.viq ++ [e], openLen := none } } .anchor)))
      (w.toNat % 8 < 5 → enters 0x009 (h.setTh .anchor { a.th with frm := w &&& 0x7 })) ∧
      enters 0x020 { h with anchor := { a with rngkey := w } } ∧
      enters 0x040 { h with anchor := { a with topoctl := w &&& 1 } }) ∧
    (s.runs h .pacer → h.pacer.loads ≠ [] →
      exec (.getc d 0x004) s = .next s ∧ exec (.getc d 0x008) s = .next s))

/-- `SETVL` (R49, R188): the grant is the smaller of the request and the capacity, one superblock at most for QN4; it goes to
`vl`, to d, and makes the type the one in force. `SETVLM` (R35, R183): 0 when no bit below `mvl` is set; otherwise the highest set bit plus one, rounded up to a multiple of
64, at most `mvl`. It waits while an entry of the VIQ has still to write the mask. -/
def Obligations.VectorLengths : Prop :=
  (∀ (s : State) (h : Hart) (t : Thread) (d s1 : Reg) (ty : ElemType), s.runs h t →
    let bytes := 4 * (128 * 2 ^ h.cls.val)
    let cap := bytes * 8 / width ty
    let g := min (h.reg t s1).toNat (if ty = .qn4 then min cap 16384 else cap)
    exec (.setvl d s1 ty) s =
      .next (s.put (((h.setTh t { h.th t with vl := BitVec.ofNat 64 g, grant := ty }).setReg t d (BitVec.ofNat 64 g)).advance t))) ∧
  (∀ (s : State) (h : Hart) (d : Reg) (m : MaskReg), s.runs h .anchor →
    let mvl := 128 * 2 ^ h.cls.val
    let leaves := fun (v : Nat) => exec (.setvlm d m) s =
      .next (s.put (((h.setTh .anchor { h.anchor.th with vl := BitVec.ofNat 64 v }).setReg .anchor d (BitVec.ofNat 64 v)).advance .anchor))
    (maskPending h.anchor m = true → exec (.setvlm d m) s = .next s) ∧
    (maskPending h.anchor m = false →
      ((∀ k, k < mvl → (h.anchor.th.masks[m]).testBit k = false) → leaves 0) ∧
      ∀ b, b < mvl → (h.anchor.th.masks[m]).testBit b = true → (∀ k, b < k → k < mvl → (h.anchor.th.masks[m]).testBit k = false) →
        leaves (min ((b + 64) / 64 * 64) mvl)))

/-- The scalar baton queues (R14, R15, R18, R246): first in, first out; a push waits at 16 entries, a pop at none; a pop marks its
Pacer register as a value from `qa` (R20). -/
def Obligations.ScalarQueues : Prop :=
  ∀ (s : State) (h : Hart) (d s1 : Reg),
    (s.runs h .pacer →
      (h.qc.length < 16 → exec (.qpush .qc s1) s = .next (s.put ({ h with qc := h.qc ++ [h.reg .pacer s1] }.advance .pacer))) ∧
      (16 ≤ h.qc.length → exec (.qpush .qc s1) s = .next s) ∧
      (h.qa = [] → exec (.qpop d .qa) s = .next s) ∧
      ∀ w rest, h.qa = w :: rest →
        exec (.qpop d .qa) s =
          .next (s.put ((markFromQa (({ h with qa := rest } : Hart).setReg .pacer d w) .pacer d).advance .pacer))) ∧
    (s.runs h .anchor →
      (h.qa.length < 16 → exec (.qpush .qa s1) s = .next (s.put ({ h with qa := h.qa ++ [h.reg .anchor s1] }.advance .anchor))) ∧
      (16 ≤ h.qa.length → exec (.qpush .qa s1) s = .next s) ∧
      (h.qc = [] → exec (.qpop d .qc) s = .next s) ∧
      ∀ w rest, h.qc = w :: rest →
        exec (.qpop d .qc) s = .next (s.put ((({ h with qc := rest } : Hart).setReg .anchor d w).advance .anchor)))

/-! ## Control flow and divergence -/

/-- The conditional branches (R158, R178): the target is off39 words from the branch; an untaken one goes on at PC + 8. A Pacer
branch on a value popped from `qa` counts in `lod` (R20). `JAL` and `JALR` (R158, R178): d takes PC + 8; the target of `JALR` uses s1 as it was before d is written, its low three bits
cleared. `BMSK` (R180): it waits while an entry of the VIQ has still to write the mask, then tests the bits below the Anchor's
`vl`. -/
def Obligations.Branches : Prop :=
  (∀ (s : State) (h : Hart) (t : Thread) (s1 s2 : Reg) (off : BitVec 39), s.runs h t →
    let x := h.reg t s1
    let y := h.reg t s2
    let pc := (h.th t).pc
    let goes := fun (i : Instr) (taken : Bool) => exec i s =
      .next (s.put ((h.counted t (h.pacer.fromQa[s1] || h.pacer.fromQa[s2])).goto t
        (if taken then pc + off.signExtend 64 * 8 else pc + 8)))
    goes (.beq s1 s2 off) (decide (x = y)) ∧ goes (.bne s1 s2 off) (decide (x ≠ y)) ∧
    goes (.blt s1 s2 off) (decide (x.toInt < y.toInt)) ∧ goes (.bge s1 s2 off) (decide (y.toInt ≤ x.toInt)) ∧
    goes (.bltn s1 s2 off) (decide (x.toNat < y.toNat)) ∧ goes (.bgen s1 s2 off) (decide (y.toNat ≤ x.toNat))) ∧
  (∀ (s : State) (h : Hart) (t : Thread) (d s1 : Reg) (off : BitVec 39), s.runs h t →
    let pc := (h.th t).pc
    exec (.jal d off) s = .next (s.put ((h.setReg t d (pc + 8)).goto t (pc + off.signExtend 64 * 8))) ∧
    exec (.jalr d s1 off) s = .next (s.put (((h.counted t h.pacer.fromQa[s1]).setReg t d (pc + 8)).goto t
      ((h.reg t s1 + off.signExtend 64 * 8) &&& ~~~7)))) ∧
  (∀ (s : State) (h : Hart) (m : MaskReg) (off : BitVec 39), s.runs h .anchor →
    let pc := h.anchor.th.pc
    let target := pc + off.signExtend 64 * 8
    let isSet := ∃ k, k < h.anchor.th.vl.toNat ∧ (h.anchor.th.masks[m]).testBit k = true
    let goes := fun (i : Instr) (a : Word) => exec i s = .next (s.put (h.goto .anchor a))
    (maskPending h.anchor m = true → exec (.bmskAny m off) s = .next s ∧ exec (.bmskNone m off) s = .next s) ∧
    (maskPending h.anchor m = false →
      (isSet → goes (.bmskAny m off) target ∧ goes (.bmskNone m off) (pc + 8)) ∧
      (¬ isSet → goes (.bmskAny m off) (pc + 8) ∧ goes (.bmskNone m off) target)))

/-- `LAP` (R181): the count goes down by `vl`, not below 0; each pointer goes up by `vl` elements of its size; `vl` takes the
grant of the new count and the type becomes the one in force; it branches while the count is not 0. Nothing else changes. -/
def Obligations.LapEndsAStrip : Prop :=
  ∀ (s : State) (h : Hart) (t : Thread) (n : Reg) (ty : ElemType) (p0 p1 p2 p3 : Option LapPtr) (off : BitVec 17),
    s.runs h t → lapPtrsOk n p0 p1 p2 p3 = true →
    let ps := p0.toList ++ p1.toList ++ p2.toList ++ p3.toList
    let vl := (h.th t).vl.toNat
    let cnt := (h.reg t n).toNat - vl
    let cap := 4 * (128 * 2 ^ h.cls.val) * 8 / width ty
    ∃ h' : Hart, exec (.lap n ty p0 p1 p2 p3 off) s = .next (s.put h') ∧
      h'.reg t n = BitVec.ofNat 64 cnt ∧
      (∀ p ∈ ps, h'.reg t p.reg = h.reg t p.reg + BitVec.ofNat 64 (vl * 2 ^ p.size.val)) ∧
      (∀ r, r ≠ n → r ∉ ps.map LapPtr.reg → h'.reg t r = h.reg t r) ∧
      (h'.th t).vl = BitVec.ofNat 64 (min cnt (if ty = .qn4 then min cap 16384 else cap)) ∧ (h'.th t).grant = ty ∧
      (h'.th t).pc = (if cnt ≠ 0 then (h.th t).pc + off.signExtend 64 * 8 else (h.th t).pc + 8) ∧
      { h'.th t with pc := (h.th t).pc, regs := (h.th t).regs, vl := (h.th t).vl, grant := (h.th t).grant, lost := (h.th t).lost } =
        h.th t ∧
      h.onlyThread h' t

/-- `VLOOP` and `VLOOP.s` start a loop (R33, R36, R184), once the body's words have been fetched, decoded and found legal (R34):
the words are captured, the front end goes on at the body's first word. A `VLOOP.s` clears m8 to m(7+S), and m8 then holds all
ones when T is not 0. The end of a pass (R33, R36). A plain loop goes back to its first word while `vl` is not 0. A modulo loop runs T + S − 1 passes;
before each, the stage predicates m9 to m(7+S) take the mask below and m8 is all ones while iterations are left; after the last,
m8 to m(7+S) are 0. Nothing else changes. Where the spec leaves a choice, the model's: log 50. -/
def Obligations.Loops : Prop :=
  (∀ (s s' : State) (h : Hart) (n : Fin 32) (trip : Reg) (stages : Fin 32) (ws : List Word) (is : List Instr), s.runs h .anchor →
    let pc := h.anchor.th.pc
    bodyWords h (n.val + 1) s (pc + 8) = .ok (s', .ok ws) → decodeAll ws = some is → bodyLegal ⟨false, false⟩ is = true →
    let starts := fun (l : LoopState) (ms : Vector Nat 12) =>
      (Host.Outcome.next (φ := Fault) (ρ := Refusal) (setHart s' s.cur.hart { h with anchor := { h.anchor with
        loop := some l, th := { h.anchor.th with pc := pc + 8, masks := ms } } }))
    exec (.vloop n) s = starts ⟨pc + 8, ws, false, 0, 0, 0⟩ h.anchor.th.masks ∧
    ((h.reg .anchor trip).toNat < 2 ^ 32 → 2 ≤ stages.val → stages.val ≤ 4 → stagesPending h.anchor stages.val = false →
      exec (.vloopS n trip stages) s = starts ⟨pc + 8, ws, true, stages.val, (h.reg .anchor trip).toNat, 0⟩
        (Vector.ofFn fun m =>
          if m.val = 8 then (if (h.reg .anchor trip).toNat = 0 then 0 else 2 ^ (8 * (128 * 2 ^ h.cls.val)) - 1)
          else if 8 < m.val ∧ m.val < 8 + stages.val then 0 else h.anchor.th.masks[m])) ∧
    (2 ^ 32 ≤ (h.reg .anchor trip).toNat → exec (.vloopS n trip stages) s = .next (refuseWord s s.cur.hart h .anchor 0x01))) ∧
  (∀ (s : State) (i : Nat) (h : Hart) (l : LoopState), s.harts[i]? = some h → mayGo h h.anchor.th = true →
    h.anchor.vtokens = [] → l.base.toNat + 8 * l.words.length < 2 ^ 64 →
    h.anchor.withdrawn = none → h.anchor.loop = some l → h.anchor.viq = [] → h.anchor.openLen = none →
    h.anchor.th.pc = l.base + BitVec.ofNat 64 (8 * l.words.length) →
    let a := h.anchor
    let goes := fun (a' : AnchorState) => anchorTurn s i = .next { s with harts := s.harts.set i { h with anchor := a' } }
    (l.modulo = false → a.th.vl = 0 → goes { a with loop := none }) ∧
    (l.modulo = false → a.th.vl ≠ 0 → goes { a with loop := some { l with pass := l.pass + 1 }, th := { a.th with pc := l.base } }) ∧
    (l.modulo = true → l.pass + 1 < l.trips + l.stages - 1 →
      goes { a with
        loop := some { l with pass := l.pass + 1 }
        th := { a.th with
          pc := l.base
          masks := Vector.ofFn fun m =>
            if m.val = 8 then (if l.pass + 1 < l.trips then 2 ^ (8 * (128 * 2 ^ h.cls.val)) - 1 else 0)
            else if 8 < m.val ∧ m.val < 8 + l.stages then a.th.masks[m.val - 1]'(by omega) else a.th.masks[m] } }) ∧
    (l.modulo = true → l.trips + l.stages - 1 ≤ l.pass + 1 →
      goes { a with
        loop := none
        th := { a.th with masks := Vector.ofFn fun m => if 8 ≤ m.val ∧ m.val < 8 + l.stages then 0 else a.th.masks[m] } }))

/-- An instruction that a thread may not run is an illegal word there (R14, R167): in the Pacer the trap is taken at once; in
the Anchor the convoy is withdrawn, and the trap waits for the entries before it. -/
def Obligations.InstructionsOfTheOtherThread : Prop :=
  ∀ (s : State) (h : Hart) (t : Thread) (i : Instr), s.runs h t → (encode i).isSome = true → Instr.allowed i t = false →
    exec i s = .next (refuseWord s s.cur.hart h t 0x01) ∧
    (t = .pacer → refuseWord s s.cur.hart h t 0x01 =
      deliverTrap s s.cur.hart { code := 0x01, thread := .pacer, iaddr := h.pacer.th.pc }) ∧
    (t = .anchor → h.anchor.viq = [] → h.anchor.openLen = none → refuseWord s s.cur.hart h t 0x01 =
      deliverTrap (s.put h) s.cur.hart { code := 0x01, thread := .anchor, iaddr := h.anchor.th.pc })

/-- `VFETCH` performed (R29, R185): `xpc` of every active element is the block at the label, of every other one 0; it stands
started at the head of the VIQ, or is done when no element is active, and `vstart` is 0 in both cases; with `vstart` at or above `vl` nothing is
written and every block stays (R61). One whose `vl` exceeds `mvl` is an illegal
instruction. `TFETCH` and `TSTOP` on the group G of the running block (R31, R186): each element of G below the captured `vl` that the selector picks goes to the
target, 0 for `TSTOP`; every other element keeps its block. Outside a running block the word is illegal. A pass (R31, R32, R186): the block at the lowest nonzero `xpc` runs on the elements that wait on it; it commits whole, and each element of the group then waits on the block it was directed to; every other element's block stays. A pass waits
while the matrix queue has still to read or write a register of its block (R27, R265). When no block is left the pass does nothing, and the
`VFETCH` commits with `vstart` 0. Where the spec leaves a choice, the model's: log 56, 66. -/
def Obligations.Divergence : Prop :=
  (∀ (s : State) (h : Hart) (sel : MaskSel) (off : BitVec 39), s.performs h →
    let th := h.anchor.th
    let mvl := 128 * 2 ^ h.cls.val
    let target := th.pc + off.signExtend 64 * 8
    let act := fun (k : Nat) => decide (th.vstart.toNat ≤ k) && decide (k < th.vl.toNat) && (match sel with
      | none => true
      | some m => (th.masks[m]).testBit k)
    let xpc := (List.range mvl).map fun k => if act k = true then target else 0
    (mvl < th.vl.toNat → exec (.vfetch sel off) s =
      .next (deliverTrap s s.cur.hart { code := 0x01, thread := .anchor, iaddr := th.pc })) ∧
    (th.vl.toNat ≤ mvl → target ≠ 0 → (∃ k, act k = true) →
      ∃ e : VEntry, e.instr = .vfetch sel off ∧ e.addr = th.pc ∧ e.vl = th.vl.toNat ∧ e.file = th.regs ∧ e.started = true ∧
        exec (.vfetch sel off) s =
          .next (s.put { h with anchor := { h.anchor with
            xpc := xpc, viq := e :: h.anchor.viq, th := { th with vstart := 0 } } })) ∧
    (th.vl.toNat ≤ mvl → (target = 0 ∨ ∀ k, act k = false) →
      exec (.vfetch sel off) s = .next (s.put { h with anchor := { h.anchor with
        xpc := if th.vl.toNat ≤ th.vstart.toNat then h.anchor.xpc else List.replicate mvl 0
        th := { th with vstart := 0 } } }))) ∧
  (∀ (s : State) (h : Hart) (sel : MaskSel) (off : BitVec 39),
    (∀ (e : VEntry) (rest : List VEntry) (b : Word), s.performs h → h.anchor.viq = e :: rest → e.started = true →
      h.anchor.xpc.length = 128 * 2 ^ h.cls.val → b ≠ 0 → b ∈ h.anchor.xpc → (∀ x ∈ h.anchor.xpc, x ≠ 0 → b.toNat ≤ x.toNat) →
      let bit := fun (k : Nat) => decide (k < e.vl) && (match sel with
        | none => true
        | some m => (h.anchor.th.masks[m]).testBit k)
      let directs := fun (i : Instr) (target : Word) => ∃ xpc : List Word,
        exec i s = .next (s.put { h with anchor := { h.anchor with xpc := xpc } }) ∧ xpc.length = h.anchor.xpc.length ∧
        ∀ k x, h.anchor.xpc[k]? = some x → xpc[k]? = some (if x = b ∧ bit k = true then target else x)
      directs (.tfetch sel off) (b + off.signExtend 64 * 8) ∧ directs (.tstop sel) 0) ∧
    (s.fronts h →
      exec (.tfetch sel off) s = .next (refuseWord s s.cur.hart h .anchor 0x01) ∧
      exec (.tstop sel) s = .next (refuseWord s s.cur.hart h .anchor 0x01))) ∧
  (∀ (s s' : State) (i : Nat) (h : Hart) (e : VEntry) (rest : List VEntry) (b : Word) (is : List (Word × Instr)) (p : PassState),
    s.harts[i]? = some h → h.mode = .running → h.stopHard = false → h.anchor.viq = e :: rest → e.started = true →
    h.anchor.vtokens = [] →
    ((∀ x ∈ h.anchor.xpc, x = 0) → exec (.vfetchPass i) s = .next s ∧
      ∀ sel off, e.instr = .vfetch sel off → (∀ x ∈ rest.head?, x.joins = false) → h.anchor.openLen = none → h.anchor.deferredErr = none →
        exec (.viqCommit i) s = .next { s with harts := s.harts.set i { h with anchor := { h.anchor with
          viq := rest, th := { h.anchor.th with vstart := 0 } } } }) ∧
    (b ∈ h.anchor.xpc → b ≠ 0 → (∀ x ∈ h.anchor.xpc, x ≠ 0 → b.toNat ≤ x.toNat) →
      blockWords h 32 s b = .ok (s', .ok is) → blockConvoys [] is = none →
      runBlock e (passGroup h.anchor.xpc b) ⟨h, List.replicate (128 * 2 ^ h.cls.val) none, 0, false⟩ is = .ok p →
      let held := is.any fun x => ((useOf x.2).map (matrixHolds h.anchor)).getD false
      (held = true → exec (.vfetchPass i) s = .next s') ∧
      (held = false → (s'.parts[h.part].fptrap &&& p.raised.setWidth 64) = 0 →
      ∃ xpc : List Word, exec (.vfetchPass i) s =
          .next { s' with
            harts := s'.harts.set i { p.h with anchor := { p.h.anchor with
              xpc := xpc
              th := { p.h.anchor.th with fflags := p.h.anchor.th.fflags ||| p.raised.setWidth 64 }
              vsat := if p.sat then 1 else p.h.anchor.vsat } } } ∧
        xpc.length = h.anchor.xpc.length ∧
        ∀ k x, h.anchor.xpc[k]? = some x → xpc[k]? = some (if x = b then (p.dirs.getD k none).getD 0 else x))))

/-! ## Translation and scalar memory -/

/-- What an address reaches (R102, R103, R233, R396): nothing at 2^52 and above, near memory only of the partition's own dies, and a mapped
address through its leaf: its location is the frame plus the offset in the page, in host memory under the partition's PASID, in the stack that the leaf names, the frame being the offset there, when the page is stack-local (R106); a missing permission and a load of peer memory are
access faults, a page that is not there is a fault record. A page table walk (R394 to R396): five levels of eight address bits each above the page offset; an entry with V 0 is missing, a malformed
one is a fault, a leaf at level n maps 2^(12 + 8n) bytes, one with CONT set 2^(16 + 8n) where its aligned group of 16 agrees, any other entry leads to the table at its frame. A translation that was used, its walk waiting for no fenced unit (R130), changes only the TLB and the walk cache, and the address is translated as before (R396);
while both hold what walks give, so they do after it, and every address of every partition is translated on every core as before. Where the spec leaves a choice, the model's: log 52, 57. -/
def Obligations.Translation : Prop :=
  (∀ (s : State) (core : Nat) (p : Fin 8) (va : Word) (k : AccessKind), s.mgmt.recoveries = [] →
    let a := va.toNat
    let off := a - 0xF000000000000
    (0xF000140000000 ≤ a → translate s core p va k false = .error (.trap 0x07 va)) ∧
    (0xF000000000000 ≤ a → a < 0xF000140000000 → (s.parts[p].dies).getLsbD (off / 2 ^ 24 / 40) = true →
      translate s core p va k false = .ok (2 ^ 52 + off, false)) ∧
    (0xF000000000000 ≤ a → a < 0xF000140000000 → (s.parts[p].dies).getLsbD (off / 2 ^ 24 / 40) = false →
      translate s core p va k false = .error (.trap 0x07 va)) ∧
    (a < 0xF000000000000 → (s.parts[p].ptroot).getLsbD 0 = false → translate s core p va k false = .error (.missing va 4 3)) ∧
    ∀ l, a < 0xF000000000000 → leafOf s core p a = .ok l →
      (leafPermits l k = false → translate s core p va k false = .error (.trap 0x07 va)) ∧
      (l.tgt = 2 → k = .load → translate s core p va k false = .error (.trap 0x07 va)) ∧
      (leafPermits l k = true → l.tgt = 0 → l.sl = false → l.pa + a % 2 ^ l.bits < 1536 * 2 ^ 30 →
        translate s core p va k false = .ok (l.pa + a % 2 ^ l.bits, l.c)) ∧
      (let q := l.pa + a % 2 ^ l.bits
       leafPermits l k = true → l.tgt = 0 → l.sl = true → l.stack < 24 → q < 64 * 2 ^ 30 →
        ∃ loc, translate s core p va k false = .ok (loc, l.c) ∧ loc / 4096 % 24 = l.stack ∧ loc / 4096 / 24 = q / 4096 ∧
          loc % 4096 = q % 4096) ∧
      (leafPermits l k = true → l.tgt = 1 → (p, (l.pa + a % 2 ^ l.bits) / 4096) ∈ s.granted →
        translate s core p va k false =
          .ok (2 ^ 72 + (pasidOf s p).toNat * 2 ^ 52 + (l.pa + a % 2 ^ l.bits), l.c))) ∧
  (∀ (m : List Host.Cell) (va level table : Nat),
    let e := readPte m (table + 8 * (va / 2 ^ (12 + 8 * level) % 256))
    (e.v = false → walkFrom m va level table = .error (level, 1)) ∧
    (e.v = true → e.malformed level = true → walkFrom m va level table = .error (level, 2)) ∧
    (e.v = true → e.malformed level = false → e.leaf = true →
      let member := fun (k : Nat) => readPte m (table + 8 * (va / 2 ^ (12 + 8 * level) % 256 / 16 * 16 + k))
      let base := (member 0).pa
      let together := e.cont = true ∧ level < 3 ∧ base % 2 ^ (16 + 8 * level) = 0 ∧
        (∀ k, k < 16 → member k = { e with pa := base + k * 2 ^ (12 + 8 * level) }) ∧
        (e.tgt = 0 → leafMeetsDump { e with pa := base } (16 + 8 * level) = false)
      ∃ l, walkFrom m va level table = .ok l ∧ l.tgt = e.tgt ∧ l.r = e.r ∧ l.w = e.w ∧ l.x = e.x ∧ l.c = e.c ∧ l.sl = e.sl ∧
        l.stack = e.stack ∧ l.peer = e.peer ∧
        (together → l.bits = 16 + 8 * level ∧ l.pa = base) ∧ (¬ together → l.bits = 12 + 8 * level ∧ l.pa = e.pa)) ∧
    (e.v = true → e.malformed level = false → e.leaf = false →
      ∃ n, level = n + 1 ∧ walkFrom m va level table = walkFrom m va n e.pa)) ∧
  (∀ (s : State) (core : Nat) (p : Fin 8) (va : Word) (k : AccessKind) (b : Bool), tableFenced s core p va.toNat = false →
    { noteTlb s core p va with tlb := s.tlb, walkCache := s.walkCache } = s ∧
    translate (noteTlb s core p va) core p va k b = translate s core p va k b ∧
    (s.cachesAgree → s.mgmt.recoveries = [] →
      (noteTlb s core p va).cachesAgree ∧
      ∀ (core' : Nat) (p' : Fin 8) (va' : Word) (k' : AccessKind) (b' : Bool),
        translate (noteTlb s core p va) core' p' va' k' b' = translate s core' p' va' k' b'))

/-- The scalar loads (R232, R233): of an item whose page can be read, the value comes from the scalar side's view of memory under
the order and scope (R107, R108, R327), little-endian, sign- or zero-extended to 64 bits, to d. A plain load of a page that is not cached, with no store of its hart on the way, gives the bytes at their home, and changes
nothing but its register, the PC, the translation caches and the caches of far memory, whose line holds no stored byte here: no byte of memory (R232, R323). A misaligned scalar access raises 0x09 at its address before it reads or writes anything (R233), whatever its order and
scope; an accumulator is 32 bytes (R236). Where the spec leaves a choice, the model's: log 32. -/
def Obligations.ScalarLoads : Prop :=
  (∀ (s s' : State) (h : Hart) (d s1 : Reg) (ord : MemOrder) (off : BitVec 32) (loc n : Nat) (cached : Bool) (bs : List Byte),
    s.runs h .pacer →
    let va := h.reg .pacer s1 + off.signExtend 64
    let k := s.cur.hart
    s.mgmt.recoveries = [] → translate s h.core h.part va .load false = .ok (loc, cached) → va.toNat % n = 0 →
    loadValue (noteAcquire (settleSide (noteTlb s h.core h.part va) k .scalar loc n) k ord loc n) h.core loc n cached ord = (s', bs, false) →
    let loads := fun (i : Instr) (v : Word) =>
      exec i s = .next (modHart s' k fun h' => (h'.setReg .pacer d v).advance .pacer)
    let u := leNat bs
    (n = 1 → loads (.ldB d s1 ord off) ((BitVec.ofNat 8 u).signExtend 64) ∧ loads (.ldBn d s1 ord off) (BitVec.ofNat 64 u)) ∧
    (n = 2 → loads (.ldH d s1 ord off) ((BitVec.ofNat 16 u).signExtend 64) ∧ loads (.ldHn d s1 ord off) (BitVec.ofNat 64 u)) ∧
    (n = 4 → loads (.ldW d s1 ord off) ((BitVec.ofNat 32 u).signExtend 64) ∧ loads (.ldWn d s1 ord off) (BitVec.ofNat 64 u)) ∧
    (n = 8 → loads (.ldD d s1 ord off) (BitVec.ofNat 64 u))) ∧
  (∀ (s : State) (h : Hart) (d s1 : Reg) (off : BitVec 32) (loc n : Nat) (i : Instr), s.runs h .pacer →
    let va := h.reg .pacer s1 + off.signExtend 64
    s.mgmt.recoveries = [] → translate s h.core h.part va .load false = .ok (loc, false) → va.toNat % n = 0 → h.pacer.stores = [] →
    (∀ p ∈ s.poison, p < loc ∨ loc + n ≤ p) → (∀ l, l1Hit s h.core (lineOf loc) = some l → l.dirty = []) →
    (i, n) ∈ [(Instr.ldB d s1 .plain off, 1), (.ldBn d s1 .plain off, 1), (.ldH d s1 .plain off, 2), (.ldHn d s1 .plain off, 2),
      (.ldW d s1 .plain off, 4), (.ldWn d s1 .plain off, 4), (.ldD d s1 .plain off, 8)] →
    ∃ (t : State) (v : Word), exec i s = .next t ∧
      { t with l1 := s.l1, farCache := s.farCache } =
        { noteTlb s h.core h.part va with harts := s.harts.set s.cur.hart ((h.setReg .pacer d v).advance .pacer) } ∧
      v.toNat % 2 ^ (8 * n) = leNat (Memory.readAll s.mem loc n) ∧
      ∀ a, Memory.read t.mem a = Memory.read s.mem a) ∧
  (∀ (s : State) (h : Hart) (d s1 s2 : Reg) (ord : MemOrder) (off : BitVec 32), s.runs h .pacer →
    let va := h.reg .pacer s1 + off.signExtend 64
    let traps := fun (n : Nat) (i : Instr) => va.toNat % n ≠ 0 → exec i s =
      .next (deliverTrap s s.cur.hart { code := 0x09, thread := .pacer, iaddr := h.pacer.th.pc, faddr := va })
    traps 2 (.ldH d s1 ord off) ∧ traps 4 (.ldW d s1 ord off) ∧ traps 8 (.ldD d s1 ord off) ∧
    traps 2 (.ldHn d s1 ord off) ∧ traps 4 (.ldWn d s1 ord off) ∧
    traps 2 (.stH d s1 ord off) ∧ traps 4 (.stW d s1 ord off) ∧ traps 8 (.stD d s1 ord off) ∧
    traps 4 (.amoaddW d s1 s2 ord off) ∧ traps 8 (.amoaddD d s1 s2 ord off) ∧
    traps 4 (.amoswapW d s1 s2 ord off) ∧ traps 8 (.amoswapD d s1 s2 ord off) ∧
    traps 4 (.amocasW d s1 s2 ord off) ∧ traps 8 (.amocasD d s1 s2 ord off) ∧
    traps 4 (.amominW d s1 s2 ord off) ∧ traps 8 (.amominD d s1 s2 ord off) ∧
    traps 4 (.amomaxW d s1 s2 ord off) ∧ traps 8 (.amomaxD d s1 s2 ord off) ∧
    traps 4 (.amoandW d s1 s2 ord off) ∧ traps 8 (.amoandD d s1 s2 ord off) ∧
    traps 4 (.amoorW d s1 s2 ord off) ∧ traps 8 (.amoorD d s1 s2 ord off) ∧
    traps 4 (.amoxorW d s1 s2 ord off) ∧ traps 8 (.amoxorD d s1 s2 ord off) ∧
    traps 4 (.amominWn d s1 s2 ord off) ∧ traps 8 (.amominDn d s1 s2 ord off) ∧
    traps 4 (.amomaxWn d s1 s2 ord off) ∧ traps 8 (.amomaxDn d s1 s2 ord off) ∧
    traps 32 (.rsadd d s1 ord off) ∧ traps 32 (.rsfin d s1 ord off))

/-- The scalar stores (R232, R233, R323): the low bytes of d, little-endian. To a page that is not cached the store leaves on
its way to its home, and the core's L1 keeps no line of it; to a cacheable page it goes into the core's scalar L1 (R107). One over an accumulator every `RSADD` of
which comes before it is performed at once, which is the model's choice (log 19). A release first performs the scalar side's
earlier stores and writes dirty lines back (R327). No register changes; the PC goes on. A load sees the store before it (R324): after a plain store of 8 bytes, a plain load of the same address by the same Pacer
gives the value stored, wherever the bytes lie and whether or not the page is cached. -/
def Obligations.ScalarStores : Prop :=
  (∀ (s : State) (h : Hart) (d s1 : Reg) (ord : MemOrder) (off : BitVec 32) (loc n : Nat) (cached : Bool),
    s.runs h .pacer →
    let va := h.reg .pacer s1 + off.signExtend 64
    let k := s.cur.hart
    s.mgmt.recoveries = [] → translate s h.core h.part va .store false = .ok (loc, cached) → va.toNat % n = 0 →
    let s' := noteRelease (releaseFor (noteTlb s h.core h.part va) k h.core ord) k ord loc n
    let stores := fun (i : Instr) =>
      let bs := leBytes n (h.reg .pacer d).toNat
      (accOrdered s' k .scalar loc n = false → (cached = false ∨ 2 ^ 52 ≤ loc) → exec i s = .next (modHart (passL1 s' h.core loc) k fun h' =>
        ({ h' with pacer := { h'.pacer with stores := h'.pacer.stores ++ [⟨.scalar, loc, bs, [], false⟩] } } : Hart).advance .pacer)) ∧
      (accOrdered s' k .scalar loc n = false → cached = true → loc < 2 ^ 52 →
        exec i s = .next (modHart (l1Store (settleSide s' k .scalar loc n) h.core loc bs) k fun h' => h'.advance .pacer)) ∧
      (accOrdered s' k .scalar loc n = true → ∃ t : State, exec i s = .next t ∧
        t.harts = ((settleSide s' k .scalar loc n).harts).modify k (fun h' => h'.advance .pacer) ∧
        (s.memoryOk → ∀ o, o < n → Memory.read t.mem (loc + o) = bs.getD o 0))
    (n = 1 → stores (.stB d s1 ord off)) ∧ (n = 2 → stores (.stH d s1 ord off)) ∧
    (n = 4 → stores (.stW d s1 ord off)) ∧ (n = 8 → stores (.stD d s1 ord off))) ∧
  (∀ (s s' : State) (h h' : Hart) (d d' s1 : Reg) (off : BitVec 32) (loc : Nat) (cached : Bool),
    s.runs h .pacer → s.memoryOk → s.mgmt.recoveries = [] →
    let va := h.reg .pacer s1 + off.signExtend 64
    (∀ l ∈ s.l1, l.bytes.length = 64) → (∀ l ∈ s.farCache, l.bytes.length = 64) → loc % 8 = 0 → va.toNat % 8 = 0 →
    translate s h.core h.part va .store false = .ok (loc, cached) → exec (.stD d s1 .plain off) s = .next s' →
    s'.runs h' .pacer → translate s' h.core h.part va .load false = .ok (loc, cached) → d' ≠ 0 →
    ∃ t h'', exec (.ldD d' s1 .plain off) s' = .next t ∧ t.runs h'' .pacer ∧ h''.reg .pacer d' = h.reg .pacer d)

/-- The scalar atomics (R234, R235), with no store of the hart on its way and no dirty line in its core: the item at its home is replaced by
the new value and d takes the old one, sign-extended, zero-extended for a natural form; every byte of memory outside the item
stays, and every other register. A compare and swap whose expected value is not there writes nothing. In host memory only add,
swap and compare and swap exist; the others are access faults. -/
def Obligations.ScalarAtomics : Prop :=
  ∀ (s : State) (h : Hart) (d s1 s2 : Reg) (ord : MemOrder) (off : BitVec 32) (loc n : Nat) (cached : Bool),
    s.runs h .pacer → s.memoryOk → s.mgmt.recoveries = [] →
    let va := h.reg .pacer s1 + off.signExtend 64
    translate s h.core h.part va .atomic false = .ok (loc, cached) → va.toNat % n = 0 → h.pacer.stores = [] →
    (∀ l ∈ s.l1, l.core = h.core → l.dirty = []) → (∀ p ∈ s.poison, p < loc ∨ loc + n ≤ p) →
    let m := leNat (Memory.readAll s.mem loc n)
    let x := (h.reg .pacer s2).toNat % 2 ^ (8 * n)
    let old := fun (natural : Bool) => if natural then BitVec.ofNat 64 m else BitVec.ofInt 64 (BitVec.ofNat (8 * n) m).toInt
    let signed := fun (v : Nat) => (BitVec.ofNat (8 * n) v).toInt
    let add := some ((m + x) % 2 ^ (8 * n))
    let cas := if m = (h.reg .pacer d).toNat % 2 ^ (8 * n) then some x else none
    let least := some (if signed m ≤ signed x then m else x)
    let most := some (if signed m ≤ signed x then x else m)
    -- the form, whether it is natural, whether host memory has it, the new value
    let forms : List (Instr × Bool × Bool × Option Nat) :=
      if n = 4 then
        [(.amoaddW d s1 s2 ord off, false, true, add), (.amoswapW d s1 s2 ord off, false, true, some x),
         (.amocasW d s1 s2 ord off, false, true, cas), (.amominW d s1 s2 ord off, false, false, least),
         (.amomaxW d s1 s2 ord off, false, false, most), (.amoandW d s1 s2 ord off, false, false, some (m &&& x)),
         (.amoorW d s1 s2 ord off, false, false, some (m ||| x)), (.amoxorW d s1 s2 ord off, false, false, some (m ^^^ x)),
         (.amominWn d s1 s2 ord off, true, false, some (min m x)), (.amomaxWn d s1 s2 ord off, true, false, some (max m x))]
      else if n = 8 then
        [(.amoaddD d s1 s2 ord off, false, true, add), (.amoswapD d s1 s2 ord off, false, true, some x),
         (.amocasD d s1 s2 ord off, false, true, cas), (.amominD d s1 s2 ord off, false, false, least),
         (.amomaxD d s1 s2 ord off, false, false, most), (.amoandD d s1 s2 ord off, false, false, some (m &&& x)),
         (.amoorD d s1 s2 ord off, false, false, some (m ||| x)), (.amoxorD d s1 s2 ord off, false, false, some (m ^^^ x)),
         (.amominDn d s1 s2 ord off, true, false, some (min m x)), (.amomaxDn d s1 s2 ord off, true, false, some (max m x))]
      else []
    ∀ f ∈ forms,
      (regionOf loc ≠ .host ∨ f.2.2.1 = true →
        ∃ t : State, exec f.1 s = .next t ∧
          t.harts = s.harts.set s.cur.hart ((h.setReg .pacer d (old f.2.1)).advance .pacer) ∧
          t.mem = (match f.2.2.2 with
            | some v => Memory.writeAll s.mem loc (leBytes n v)
            | none => s.mem) ∧
          t.parts = s.parts ∧
          ∀ a, (a < loc ∨ loc + n ≤ a) → Memory.read t.mem a = Memory.read s.mem a) ∧
      (regionOf loc = .host → f.2.2.1 = false →
        exec f.1 s = .next (trapAt (noteTlb s h.core h.part va) s.cur.hart h .pacer 0x07 va))

/-- `RSADD` and `RSFIN` (R96, R98, R236), with no store of the hart on its way and no dirty line in its core, on an accumulator of which no part has been stored over (R101): the 32 bytes at their home
are updated as one, or read as one; d takes the F32 value, its flags are ORed; memory outside the 32 bytes stays. Adding to an accumulator is exact (R95, R96): while V stays within the bins' range, adding a number that is a multiple of the
accumulator's unit changes V by exactly that number, in any order of additions; renormalising leaves V as it is, and puts every bin into its range while V is in its own. Where the spec leaves a choice, the model's: log 19. -/
def Obligations.ReproducibleAccumulators : Prop :=
  (∀ (s : State) (h : Hart) (d s1 : Reg) (ord : MemOrder) (off : BitVec 32) (loc : Nat) (cached : Bool),
    s.runs h .pacer → s.memoryOk → s.mgmt.recoveries = [] →
    let va := h.reg .pacer s1 + off.signExtend 64
    va.toNat % 32 = 0 → loc < 2 ^ 52 → h.pacer.stores = [] →
    (∀ l ∈ s.l1, l.core = h.core → l.dirty = []) → (∀ p ∈ s.poison, p < loc ∨ loc + 32 ≤ p) → accTorn s loc = false →
    let old := Memory.readAll s.mem loc 32
    let acc := Accumulator.ofBytes old
    let new := acc.add (fDecode .f32 ((h.reg .pacer d).toNat % 2 ^ 32))
    (translate s h.core h.part va .atomic false = .ok (loc, cached) → new.fits = true →
      ∃ t : State, exec (.rsadd d s1 ord off) s = .next t ∧ t.harts = s.harts.set s.cur.hart (h.advance .pacer) ∧
        t.mem = Memory.writeAll s.mem loc (new.toBytes old) ∧
        ∀ a, (a < loc ∨ loc + 32 ≤ a) → Memory.read t.mem a = Memory.read s.mem a) ∧
    (translate s h.core h.part va .load false = .ok (loc, cached) → (s.parts[h.part].fptrap &&& acc.result.2.setWidth 64) = 0 →
      ∃ t : State, exec (.rsfin d s1 ord off) s = .next t ∧ t.mem = s.mem ∧
        t.harts = s.harts.set s.cur.hart (((h.setReg .pacer d (BitVec.ofNat 64 acc.result.1)).raise .pacer acc.result.2).advance .pacer))) ∧
  (∀ (a : Accumulator) (neg : Bool) (m n : Nat) (e : Int), a.b ≤ 8 → 0 < m →
    (m : Rat) * 2 ^ e = (n : Rat) * 2 ^ (40 * (a.b : Int) - 200) → n < 2 ^ 120 →
    (a.add (.fin neg m e)).value = a.value + (if neg then -(n : Int) else n) ∧
    (a.renormalise).value = a.value ∧
    (-(2 ^ 143) ≤ a.value → a.value < 2 ^ 143 → 0 ≤ a.renormalise.bin0 ∧ a.renormalise.bin0 < 2 ^ 40 ∧
      0 ≤ a.renormalise.bin1 ∧ a.renormalise.bin1 < 2 ^ 40 ∧ -(2 ^ 63) ≤ a.renormalise.bin2 ∧ a.renormalise.bin2 < 2 ^ 63) ∧
    (a.add (.zero neg)) = a)

/-- What becomes of a scalar access on its way (R107, R323, R324, R334): a store performed puts its bytes at its home and leaves
the list, and one of the scalar side to far memory takes the bytes stored into its line of the core's L1 to their home before it; one that an earlier store of its side meets in an aligned 8-byte word waits; a line written back leaves the L1, its dirty bytes
stand at their home and every other byte stays; an evicted far-cache line changes no byte
at home. Where the spec leaves a choice, the model's: log 53. -/
def Obligations.AccessesOnTheirWay : Prop :=
  ∀ (s : State) (i idx : Nat) (h : Hart) (f : StoreFlight) (core line die : Nat),
    s.mgmt.recoveries = [] → s.memoryOk →
    (s.harts[i]? = some h → h.pacer.stores[idx]? = some f → (∀ g ∈ h.pacer.stores.take idx, storesMeet g f = false) →
      let home := lineOf f.loc * 64
      let held := fun (l : L1Line) (o : Nat) =>
        f.side = .scalar ∧ regionOf f.loc = .far ∧ l1Hit s h.core (lineOf f.loc) = some l ∧ o ∈ l.dirty ∧ o < l.bytes.length
      ∃ t : State, exec (.accessPerformed i idx) s = .next t ∧
        t.harts = s.harts.set i { h with pacer := { h.pacer with stores := h.pacer.stores.eraseIdx idx } } ∧
        (∀ o, o < f.data.length → Memory.read t.mem (f.loc + o) = f.data.getD o 0) ∧
        (∀ l o, held l o → (home + o < f.loc ∨ f.loc + f.data.length ≤ home + o) → Memory.read t.mem (home + o) = l.bytes.getD o 0) ∧
        (∀ a, (a < f.loc ∨ f.loc + f.data.length ≤ a) → (∀ l o, held l o → a ≠ home + o) →
          Memory.read t.mem a = Memory.read s.mem a) ∧
        ((∀ l o, ¬ held l o) → t.mem = Memory.writeAll s.mem f.loc f.data)) ∧
    (s.harts[i]? = some h → h.pacer.stores[idx]? = some f → (∃ g ∈ h.pacer.stores.take idx, storesMeet g f = true) →
      exec (.accessPerformed i idx) s = .next s) ∧
    (∃ t : State, exec (.dirtyLineWriteback core line) s = .next t ∧ l1Hit t core line = none ∧
      (l1Hit s core line = none → t.mem = s.mem) ∧
      ∀ l, l1Hit s core line = some l →
        (∀ o ∈ l.dirty, o < l.bytes.length → Memory.read t.mem (line * 64 + o) = l.bytes.getD o 0) ∧
        ∀ a, (∀ o ∈ l.dirty, a ≠ line * 64 + o) → Memory.read t.mem a = Memory.read s.mem a) ∧
    (∃ t : State, exec (.farCacheLineEviction die line) s = .next t ∧ farHit t die line = none ∧
      { t with farCache := s.farCache } = s)

/-! ## Vector memory -/

/-- `VLD` and `VLDS` (R11, R237, R239): with the element addresses of R237 aligned and their pages readable, and room under `slip`
(R18), one load goes into flight: elements of the grant type in force, `vl` of them, each active one from its address, each other one 0 of the type; one whose word the scalar side has stored into with nothing to order
the load after it may take, as it is issued, the bits that the word held before (R134). `vstart` becomes 0. No memory changes. QN4 moves only through an unmasked `VLD` from a multiple of 32. `VLDX` (R237, R239): element e lies at s1 + idx[e]·2^sc, idx[e] the N32 at s2 + 4e (here read from pages that are not cached, and from bytes that no load on its way reads). `VLDFF` (R241): the lowest active element whose page fails, f, trims the load unless it is the first: the entry and `vl` get f
elements, the mask's bits below f are set for active elements and cleared for the others, those from f below the old `vl` are cleared,
higher ones stay. The delivery of a vector load (R15, R239): the oldest load of a queue pushes its whole entry; an element takes the bytes at its
place, little-endian, half a byte for QN4, or is poison where they carry poison. A load waits while one issued before it to another queue reads an aligned 8-byte word of it (R245). Here the elements lie on pages that are not cached. Where the spec leaves a choice, the model's: log 32, 35. -/
def Obligations.VectorLoads : Prop :=
  (∀ (s : State) (h : Hart) (sel : MaskSel) (q : Fin 4) (base stride : Reg) (off : BitVec 16) (at' : Nat → Nat × Bool),
    s.runs h .pacer →
    let th := h.pacer.th
    let ty := th.grant
    let b := h.reg .pacer base
    th.vrel = false → th.vl.toNat ≤ capacity h.cls ty → slipCount h q < h.pacer.slip.toNat → h.pacer.stores = [] →
    let issues := fun (i : Instr) (va : Nat → Word) =>
      (∀ e, h.pacerActive sel e = true → (va e).toNat % max 1 (width ty / 8) = 0 ∧
        translate s h.core h.part (va e) .load false = .ok (at' e)) →
      ∃ (t : State) (xs : List ElemSource), exec i s = .next t ∧ t.mem = s.mem ∧
        t.harts = s.harts.set s.cur.hart (h.afterLoad ⟨q, ty, xs⟩ false) ∧
        s.issues s.cur.hart ty ((List.range th.vl.toNat).map fun e =>
          if h.pacerActive sel e = true then
            (if ty = .qn4 then .nibble (at' e).1 (decide (e % 2 = 1)) (at' e).2 else .bytes (at' e).1 (at' e).2)
          else .value (zeroOf ty)) xs
    (ty ≠ .qn4 ∨ (sel = none ∧ (b + off.signExtend 64).toNat % 32 = 0) →
      issues (.vld sel q base off) fun e => b + off.signExtend 64 + BitVec.ofNat 64 (e * width ty / 8)) ∧
    (ty ≠ .qn4 → issues (.vlds sel q base stride) fun e => b + BitVec.ofNat 64 e * h.reg .pacer stride) ∧
    (ty = .qn4 → exec (.vlds sel q base stride) s = .next (trapAt s s.cur.hart h .pacer 0x02 0)) ∧
    (ty = .qn4 → ∀ m, exec (.vld (some m) q base off) s = .next (trapAt s s.cur.hart h .pacer 0x02 0))) ∧
  (∀ (s : State) (h : Hart) (sel : MaskSel) (q : Fin 4) (base list : Reg) (sc : Fin 4) (li : Nat → Nat) (at' : Nat → Nat × Bool),
    s.runs h .pacer →
    let th := h.pacer.th
    let ty := th.grant
    let acts := (List.range th.vl.toNat).filter fun e => h.pacerActive sel e
    let entry := fun (e : Nat) => h.reg .pacer list + BitVec.ofNat 64 (4 * e)
    let idx := fun (e : Nat) => leNat (Memory.readAll s.mem (li e) 4)
    let va := fun (e : Nat) => h.reg .pacer base + BitVec.ofNat 64 (idx e * 2 ^ sc.val)
    let s' := noteAll s h (acts.map fun e => ⟨e, entry e⟩)
    th.vrel = false → th.vl.toNat ≤ capacity h.cls ty → ty ≠ .qn4 → slipCount h q < h.pacer.slip.toNat → h.pacer.stores = [] →
    s.mgmt.recoveries = [] → (∀ g ∈ h.pacer.loads, ∀ e ∈ acts, g.reads (li e) 4 = false) →
    (∀ e ∈ acts, (entry e).toNat % 4 = 0 ∧ translate s h.core h.part (entry e) .load false = .ok (li e, false) ∧
      (∀ p ∈ s.poison, p < li e ∨ li e + 4 ≤ p) ∧ s.settled s.cur.hart (li e) 4 ∧ (va e).toNat % max 1 (width ty / 8) = 0 ∧
      translate s' h.core h.part (va e) .load false = .ok (at' e)) →
    ∃ (t : State) (xs : List ElemSource), exec (.vldx sel q base list sc) s = .next t ∧ t.mem = s.mem ∧
      t.harts = s.harts.set s.cur.hart (h.afterLoad ⟨q, ty, xs⟩ false) ∧
      s.issues s.cur.hart ty ((List.range th.vl.toNat).map fun e =>
        if h.pacerActive sel e = true then .bytes (at' e).1 (at' e).2 else .value (zeroOf ty)) xs) ∧
  (∀ (s : State) (h : Hart) (sel : MaskSel) (q : Fin 4) (base : Reg) (m : MaskReg) (off : BitVec 16) (f : Nat)
    (at' : Nat → Nat × Bool),
    s.runs h .pacer →
    let th := h.pacer.th
    let ty := th.grant
    let va := fun (e : Nat) => h.reg .pacer base + off.signExtend 64 + BitVec.ofNat 64 (e * width ty / 8)
    th.vrel = false → th.vl.toNat ≤ capacity h.cls ty → ty ≠ .qn4 → slipCount h q < h.pacer.slip.toNat → h.pacer.stores = [] →
    (∀ e, h.pacerActive sel e = true → (va e).toNat % (width ty / 8) = 0) →
    (∀ e, h.pacerActive sel e = true → e < f → translate s h.core h.part (va e) .load false = .ok (at' e)) →
    f ≤ th.vl.toNat →
    (f < th.vl.toNat → (∃ e, e < f ∧ h.pacerActive sel e = true) ∧ h.pacerActive sel f = true ∧
      ∃ err, translate s h.core h.part (va f) .load false = .error err ∧ err ≠ .fenced) →
    ∃ (t : State) (new : Nat) (xs : List ElemSource), exec (.vldff sel q base m off) s = .next t ∧ t.mem = s.mem ∧
      s.issues s.cur.hart ty ((List.range f).map fun e =>
        if h.pacerActive sel e = true then .bytes (at' e).1 (at' e).2 else .value (zeroOf ty)) xs ∧
      (let h' := h.afterLoad ⟨q, ty, xs⟩ false;
        t.harts = s.harts.set s.cur.hart { h' with pacer := { h'.pacer with th := { h'.pacer.th with
          vl := BitVec.ofNat 64 f, masks := h'.pacer.th.masks.set m new } } }) ∧
      (∀ e, e < f → new.testBit e = h.pacerActive sel e) ∧
      (∀ e, f ≤ e → e < th.vl.toNat → new.testBit e = false) ∧
      (∀ e, th.vl.toNat ≤ e → new.testBit e = (th.masks[m]).testBit e)) ∧
  (∀ (s : State) (i : Nat) (q : Fin 4) (h : Hart) (f : LoadFlight) (pre post : List LoadFlight),
    s.mgmt.recoveries = [] → s.harts[i]? = some h → h.pacer.loads = pre ++ f :: post → f.q = q → (∀ g ∈ pre, g.q ≠ q) →
    (∀ e ∈ f.elems, ∀ loc c, e = .bytes loc c → c = false) → (∀ e ∈ f.elems, ∀ loc hi c, e = .nibble loc hi c → c = false) →
    (loadBehind h f = true → exec (.vectorLoadDelivery i q) s = .next s) ∧
    (loadBehind h f = false → ∃ (t : State) (row : Row), exec (.vectorLoadDelivery i q) s = .next t ∧
      { t with farCache := s.farCache } = { s with harts := s.harts.set i { h with
        pacer := { h.pacer with loads := pre ++ post }
        lq := h.lq.set q (h.lq[q] ++ [row]) } } ∧
      row.ty = f.ty ∧ row.elems.length = f.elems.length ∧
      ∀ k e, f.elems[k]? = some e →
        (∀ w, e = .value w → row.elems[k]? = some w ∧ k ∉ row.poison) ∧
        (e = .poison → k ∈ row.poison) ∧
        (∀ loc c, e = .bytes loc c →
          row.elems[k]? = some (BitVec.ofNat 64 (leNat (Memory.readAll s.mem loc (width f.ty / 8)))) ∧
          (k ∈ row.poison ↔ ∃ p ∈ s.poison, loc ≤ p ∧ p < loc + width f.ty / 8)) ∧
        (∀ loc hi c, e = .nibble loc hi c →
          row.elems[k]? = some (BitVec.ofNat 64 (if hi then (Memory.read s.mem loc).toNat / 16 else (Memory.read s.mem loc).toNat % 16)))))

/-- `VST`, `VSTS` and `VSTX` (R17, R237, R240): the oldest entry of the store queue is popped and each active element's bytes leave
for its address, poison as poison (one over an accumulator every `RSADD` of which comes before it arrives at once, log 19); an element past the entry's end is 0. `vstart` becomes 0; nothing else of the hart changes. A `VST` of QN4 (R237, R240): whole bytes of two codes, from the one that holds element `vstart` to the end of the last block of
64; past `vl` the code is 15. Any other QN4 store of elements is a type mismatch. -/
def Obligations.VectorStores : Prop :=
  (∀ (s : State) (h : Hart) (sel : MaskSel) (q : Fin 2) (base stride : Reg) (off : BitVec 16) (sc : Fin 4) (r : Row) (rest : List Row)
    (li : Nat → Nat) (at' : Nat → Nat × Bool),
    s.runs h .pacer →
    let th := h.pacer.th
    let acts := (List.range th.vl.toNat).filter fun e => h.pacerActive sel e
    let b := h.reg .pacer base
    let st := h.reg .pacer stride
    let entry := fun (e : Nat) => st + BitVec.ofNat 64 (4 * e)
    let idx := fun (e : Nat) => leNat (Memory.readAll s.mem (li e) 4)
    th.vrel = false → h.sq[q] = r :: rest → th.vl.toNat ≤ capacity h.cls r.ty → r.ty ≠ .qn4 → h.pacer.loads = [] →
    h.pacer.stores = [] →
    let stores := fun (i : Instr) (s' : State) (va : Nat → Word) =>
      (∀ e ∈ acts, (va e).toNat % (width r.ty / 8) = 0 ∧ translate s' h.core h.part (va e) .store false = .ok (at' e)) →
      ∃ t : State, exec i s = .next t ∧ s.sent t h q
        (acts.map fun e => ⟨.vector, (at' e).1, leBytes (width r.ty / 8) (r.elems.getD e 0).toNat, 
          if r.poison.contains e = true then List.range (width r.ty / 8) else [], (at' e).2⟩)
        false
    stores (.vst sel q base off) s (fun e => b + off.signExtend 64 + BitVec.ofNat 64 (e * width r.ty / 8)) ∧
    stores (.vsts sel q base stride) s (fun e => b + BitVec.ofNat 64 e * st) ∧
    (s.mgmt.recoveries = [] → (∀ e ∈ acts, (entry e).toNat % 4 = 0 ∧ translate s h.core h.part (entry e) .load false = .ok (li e, false) ∧
        s.settled s.cur.hart (li e) 4 ∧ ∀ p ∈ s.poison, p < li e ∨ li e + 4 ≤ p) →
      stores (.vstx sel q base stride sc) (noteAll s h (acts.map fun e => ⟨e, entry e⟩))
        fun e => b + BitVec.ofNat 64 (idx e * 2 ^ sc.val))) ∧
  (∀ (s : State) (h : Hart) (q : Fin 2) (base stride : Reg) (off : BitVec 16) (sc : Fin 4) (r : Row) (rest : List Row)
    (at' : Nat → Nat × Bool),
    s.runs h .pacer →
    let th := h.pacer.th
    let vl := th.vl.toNat
    let va := h.reg .pacer base + off.signExtend 64
    let code := fun (e : Nat) => if e < vl then (r.elems.getD e 7).toNat % 16 else 15
    let bytes := (List.range ((vl + 63) / 64 * 32)).filter fun b => decide (th.vstart.toNat / 2 ≤ b)
    th.vrel = false → h.sq[q] = r :: rest → r.ty = .qn4 → vl ≤ capacity h.cls .qn4 → h.pacer.loads = [] → r.poison = [] →
    (∀ sel, exec (.vsts sel q base stride) s = .next (trapAt s s.cur.hart h .pacer 0x02 0)) ∧
    (∀ sel, exec (.vstx sel q base stride sc) s = .next (trapAt s s.cur.hart h .pacer 0x02 0)) ∧
    (∀ m, exec (.vst (some m) q base off) s = .next (trapAt s s.cur.hart h .pacer 0x02 0)) ∧
    (th.vstart.toNat < vl → va.toNat % 32 = 0 →
      (∀ b ∈ bytes, translate s h.core h.part (va + BitVec.ofNat 64 b) .store false = .ok (at' b)) →
      ∃ t : State, exec (.vst none q base off) s = .next t ∧ s.sent t h q
        (bytes.map fun b => ⟨.vector, (at' b).1, leBytes 1 (code (2 * b) + 16 * code (2 * b + 1)), [], (at' b).2⟩) false))

/-- `VSTW` and `VSPL` (R242, R243): the oldest entry is popped and leaves as an image of a 64-byte header (tag, count, and for
`VSTW` the device's layout identifier) and a body: `rlen` bytes in the lane layout, or the packed elements padded to a multiple of 64.
`vl` and `vstart` play no part. `VLDW` and `VFIL` (R242, R243), with a header on a page that is not cached, without poison, that no load on its way reads and no earlier value of which may still be read (R134): a header that names this device's layout
(for `VLDW`), a type, and a count within its capacity, gives a load of that type and count, its elements at their places in the body; any other
header (another layout, a tag that is no type, a count above the capacity, a reserved bit) is a type mismatch for both. An image holds an entry whole (R242, R243): the elements read back from the body a `VSTW` or a `VSPL` writes are those it was
given, whatever the device's lane layout is. Where the spec leaves a choice, the model's: log 12, 34. -/
def Obligations.Images : Prop :=
  (∀ (s : State) (h : Hart) (q : Fin 2) (base : Reg) (off : BitVec 16) (r : Row) (rest : List Row) (at' : Nat → Nat × Bool),
    s.runs h .pacer →
    let th := h.pacer.th
    let va := h.reg .pacer base + off.signExtend 64
    let rl := 4 * (128 * 2 ^ h.cls.val)
    let count := r.elems.length
    th.vrel = false → h.sq[q] = r :: rest → h.pacer.loads = [] → r.poison = [] → va.toNat % 64 = 0 →
    let stores := fun (i : Instr) (n layout : Nat) (body : List Byte) =>
      (∀ k, k < (64 + n) / 64 → translate s h.core h.part (va + BitVec.ofNat 64 (64 * k)) .store false = .ok (at' k)) →
      ∃ t : State, exec i s = .next t ∧ s.sent t h q
        (imageFlights (leBytes 64 (r.ty.code + count * 2 ^ 16 + layout * 2 ^ 48) ++ body) (fun _ => false)
          ((List.range ((64 + n) / 64)).map fun k => (⟨k, va + BitVec.ofNat 64 (64 * k)⟩, at' k))) true
    stores (.vstw q base off) rl (Config.laneLayout rl).toNat (laneBytes rl r.ty r.elems) ∧
    (let n := (count * width r.ty + 511) / 512 * 64;
      stores (.vspl q base off) n 0 (leBytes n (packElems r.ty r.elems)))) ∧
  (∀ (s : State) (h : Hart) (q : Fin 4) (base : Reg) (off : BitVec 16) (at' : Nat → Nat),
    s.runs h .pacer →
    let th := h.pacer.th
    let va := h.reg .pacer base + off.signExtend 64
    let rl := 4 * (128 * 2 ^ h.cls.val)
    let piece := fun (k : Nat) => va + BitVec.ofNat 64 (64 * k)
    let header := leNat (Memory.readAll s.mem (at' 0) 64)
    let s1 := fun (n : Nat) => noteAll s h ((List.range n).map fun k => ⟨k, piece k⟩)
    th.vrel = false → slipCount h q < h.pacer.slip.toNat → h.pacer.stores = [] → va.toNat % 64 = 0 →
    s.mgmt.recoveries = [] → (∀ g ∈ h.pacer.loads, g.reads (at' 0) 64 = false) →
    (∀ p ∈ s.poison, p < at' 0 ∨ at' 0 + 64 ≤ p) → s.settled s.cur.hart (at' 0) 64 →
    (∀ (ty : ElemType) (count : Nat), count < 2 ^ 16 → count ≤ capacity h.cls ty →
      (header = ty.code + count * 2 ^ 16 + (Config.laneLayout rl).toNat * 2 ^ 48 →
        (∀ k, k < rl / 64 + 1 → translate s h.core h.part (piece k) .load false = .ok (at' k, false)) →
        ∀ at2 : Nat → Nat × Bool,
          (∀ e, e < count → translate (s1 (rl / 64 + 1)) h.core h.part
            (va + 64 + BitVec.ofNat 64 (lanePlace rl ty e * width ty / 8)) .load false = .ok (at2 e)) →
        ∃ (t : State) (xs : List ElemSource), exec (.vldw q base off) s = .next t ∧ t.mem = s.mem ∧
          t.harts = s.harts.set s.cur.hart (h.afterLoad ⟨q, ty, xs⟩ true) ∧
          s.issues s.cur.hart ty ((List.range count).map fun e =>
            if ty = .qn4 then .nibble (at2 e).1 (decide (lanePlace rl ty e % 2 = 1)) (at2 e).2
            else .bytes (at2 e).1 (at2 e).2) xs) ∧
      (header = ty.code + count * 2 ^ 16 →
        translate s h.core h.part va .load false = .ok (at' 0, false) →
        ∀ at2 : Nat → Nat × Bool,
          (∀ e, e < count → translate (s1 1) h.core h.part (va + 64 + BitVec.ofNat 64 (e * width ty / 8)) .load false = .ok (at2 e)) →
        ∃ (t : State) (xs : List ElemSource), exec (.vfil q base off) s = .next t ∧ t.mem = s.mem ∧
          t.harts = s.harts.set s.cur.hart (h.afterLoad ⟨q, ty, xs⟩ true) ∧
          s.issues s.cur.hart ty ((List.range count).map fun e =>
            if ty = .qn4 then .nibble (at2 e).1 (decide (e % 2 = 1)) (at2 e).2 else .bytes (at2 e).1 (at2 e).2) xs)) ∧
    ((∀ (ty : ElemType) (count : Nat), count < 2 ^ 16 → count ≤ capacity h.cls ty → header ≠ ty.code + count * 2 ^ 16) →
      translate s h.core h.part va .load false = .ok (at' 0, false) →
      ∃ far, exec (.vfil q base off) s = .next (trapAt { s1 1 with farCache := far } s.cur.hart h .pacer 0x02 0)) ∧
    ((∀ (ty : ElemType) (count : Nat), count < 2 ^ 16 → count ≤ capacity h.cls ty →
        header ≠ ty.code + count * 2 ^ 16 + (Config.laneLayout rl).toNat * 2 ^ 48) →
      (∀ k, k < rl / 64 + 1 → translate s h.core h.part (piece k) .load false = .ok (at' k, false)) →
      ∃ far, exec (.vldw q base off) s = .next (trapAt { s1 (rl / 64 + 1) with farCache := far } s.cur.hart h .pacer 0x02 0))) ∧
  (∀ (ty : ElemType) (es : List Word) (n : Nat), (∀ w ∈ es, w.toNat < 2 ^ width ty) → es.length * width ty ≤ 8 * n →
    unlane ty es.length (laneBytes n ty es) = es ∧
    unpackElems ty es.length (leNat (leBytes n (packElems ty es))) = es)

/-- `VAMO` (R244): the active elements' items are updated at their homes in ascending order, each from what the ones before have left;
the old values, 0 for inactive elements, go back as an entry when asked for. The entry of operands is popped, `vstart` becomes 0.
Here nothing of the hart is on its way, nothing carries poison, and no earlier value of the index list may still be read (R134). Where the spec leaves a choice, the model's: log 35. -/
def Obligations.VectorAtomics : Prop :=
  ∀ (s : State) (h : Hart) (sel : MaskSel) (q : Fin 2) (base list : Reg) (sc : Fin 4) (op : VAmoOp) (ret : Option (Fin 4)) (r : Row)
    (rest : List Row) (li : Nat → Nat) (at' : Nat → Nat × Bool),
    s.runs h .pacer →
    let th := h.pacer.th
    let vl := th.vl.toNat
    let n := width r.ty / 8
    let acts := (List.range vl).filter fun e => h.pacerActive sel e
    let entry := fun (e : Nat) => h.reg .pacer list + BitVec.ofNat 64 (4 * e)
    let idx := fun (e : Nat) => leNat (Memory.readAll s.mem (li e) 4)
    let va := fun (e : Nat) => h.reg .pacer base + BitVec.ofNat 64 (idx e * 2 ^ sc.val)
    let s' := noteAll s h (acts.map fun e => ⟨e, entry e⟩)
    let did := atomicsInOrder n (vamoNew op r.ty) s.mem (acts.map fun e => ((at' e).1, (r.elems.getD e 0).toNat % 2 ^ width r.ty))
    th.vrel = false → h.sq[q] = r :: rest → vl ≤ capacity h.cls r.ty → vamoTakes op r.ty = true →
    (h.det = true → vamoRefusedDet op r.ty = false) → h.pacer.loads = [] → h.pacer.stores = [] → h.pacer.vamoRet = none →
    s.mgmt.recoveries = [] →
    s.poison = [] → r.poison = [] → (∀ p, ret = some p → slipCount h p < h.pacer.slip.toNat) →
    (∀ e ∈ acts, (entry e).toNat % 4 = 0 ∧ translate s h.core h.part (entry e) .load false = .ok (li e, false) ∧
      s.settled s.cur.hart (li e) 4 ∧
      (va e).toNat % n = 0 ∧ translate s' h.core h.part (va e) .atomic false = .ok (at' e) ∧
      (regionOf (at' e).1 = .host → vamoHostOk op r.ty = true)) →
    ∃ t : State, exec (.vamo sel q base list sc op ret) s = .next t ∧ t.mem = did.2 ∧
      (let h' := h.afterStore q [] false;
        t.harts = s.harts.set s.cur.hart (match ret with
          | none => h'
          | some p => { h' with lq := h'.lq.set p (h'.lq[p] ++ [⟨r.ty,
              (List.range vl).map fun e => (((acts.zip did.1).find? fun x => x.1 == e).map fun x => BitVec.ofNat 64 x.2).getD 0, []⟩]) }))

/-! ## The vector unit -/

/-- The two-source element-wise instructions (R191, R192, R195, R196, R197), in the vector unit, with a second vector source, a scalar
or an immediate: element e of the result is the operation on element e of the sources, under the Anchor's rounding mode; exceptions and
saturation are those of active elements. A tag the operation does not take, two tags that differ, or an immediate with a float tag, is a
type mismatch, before anything is written. The one- and three-source element-wise instructions, `VSEL`, `VSPLAT`, `VPUSH` and `VCVT` (R190, R191, R192, R196, R198,
R200, R247), in the vector unit. `VSEL` writes every element from `vstart`, its mask an operand; `VSPLAT` writes under the grant type. Where the spec leaves a choice, the model's: log 9, 49. -/
def Obligations.VectorElementwise : Prop :=
  (∀ (s : State) (h : Hart) (p : Pred) (d : VDst) (s1 s2 : VSrc) (c : Reg) (imm : BitVec 16) (a : VSource),
    s.performs h → h.operand s1 = some a →
    let t := a.ty
    let scal := trunc t (h.reg .anchor c)
    let vv : List (Instr × Op2) := [(.vadd p d s1 s2, .add), (.vsub p d s1 s2, .sub), (.vmul p d s1 s2, .mul),
      (.vmulh p d s1 s2, .mulh), (.vdiv p d s1 s2, .div), (.vmin p d s1 s2, .min), (.vmax p d s1 s2, .max), (.vand p d s1 s2, .and),
      (.vor p d s1 s2, .or), (.vxor p d s1 s2, .xor), (.vshl p d s1 s2, .shl), (.vshr p d s1 s2, .shr), (.vsrr p d s1 s2, .srr),
      (.vadds p d s1 s2, .adds), (.vsubs p d s1 s2, .subs)]
    let vs : List (Instr × Op2) := [(.vaddScalar p d s1 c, .add), (.vsubScalar p d s1 c, .sub), (.vmulScalar p d s1 c, .mul),
      (.vmulhScalar p d s1 c, .mulh), (.vdivScalar p d s1 c, .div), (.vminScalar p d s1 c, .min), (.vmaxScalar p d s1 c, .max),
      (.vandScalar p d s1 c, .and), (.vorScalar p d s1 c, .or), (.vxorScalar p d s1 c, .xor), (.vshlScalar p d s1 c, .shl),
      (.vshrScalar p d s1 c, .shr), (.vsrrScalar p d s1 c, .srr), (.vaddsScalar p d s1 c, .adds), (.vsubsScalar p d s1 c, .subs)]
    let vi : List (Instr × Op2) := [(.vaddImm p d s1 imm, .add), (.vsubImm p d s1 imm, .sub), (.vmulImm p d s1 imm, .mul),
      (.vminImm p d s1 imm, .min), (.vmaxImm p d s1 imm, .max), (.vandImm p d s1 imm, .and), (.vorImm p d s1 imm, .or),
      (.vxorImm p d s1 imm, .xor), (.vshlImm p d s1 imm, .shl), (.vshrImm p d s1 imm, .shr), (.vsrrImm p d s1 imm, .srr),
      (.vaddsImm p d s1 imm, .adds), (.vsubsImm p d s1 imm, .subs)]
    let mismatch := State.put s
    let traps := fun (i : Instr) => exec i s =
      .next (deliverTrap (mismatch h) s.cur.hart { code := 0x02, thread := .anchor, iaddr := h.anchor.th.pc })
    (h.hasRoom d → h.vlen ≤ capacity h.cls t → h.vfirst < h.vlen → a.poison = [] →
      let does := fun (x : Instr × Op2) (srcs : List VSrc) (y : Nat → Word) =>
        let es := h.computes p t fun e => elt2 x.2 (Rounding.ofWord h.anchor.th.frm) t (a.get e) (y e)
        x.2.accepts t = true → exec x.1 s = vectorOutcome s ((h.taken srcs).deliver d t es) (raisedBy es) (saturatedBy es)
      (∀ b, h.operand s2 = some b → b.ty = t → b.poison = [] → ∀ x ∈ vv, does x [s1, s2] b.get) ∧
      (∀ x ∈ vs, does x [s1] fun _ => scal) ∧
      (isInt t = true → ∀ x ∈ vi, does x [s1] fun _ => trunc t (imm.signExtend 64))) ∧
    (h.hasRoom d →
      (∀ b, h.operand s2 = some b → ∀ x ∈ vv, b.ty ≠ t ∨ x.2.accepts t = false → traps x.1) ∧
      (∀ x ∈ vs, x.2.accepts t = false → traps x.1) ∧
      (∀ x ∈ vi, x.2.accepts t = false ∨ isInt t = false → traps x.1))) ∧
  (∀ (s : State) (h : Hart) (p : Pred) (d : VDst) (s1 s2 s3 : VSrc) (c : Reg) (a b z : VSource) (u : ElemType) (q : Fin 2),
    s.performs h → h.operand s1 = some a → a.poison = [] → h.vlen ≤ capacity h.cls a.ty → h.vfirst < h.vlen → h.hasRoom d →
    let t := a.ty
    let rm := Rounding.ofWord h.anchor.th.frm
    let scal := trunc t (h.reg .anchor c)
    let does := fun (i : Instr) (d : VDst) (p : Pred) (u : ElemType) (srcs : List VSrc) (f : Nat → Elt) =>
      let es := h.computes p u f
      exec i s = vectorOutcome s ((h.taken srcs).deliver d u es) (raisedBy es) (saturatedBy es)
    (∀ x ∈ ([(.vsqrt p d s1, .sqrt), (.vrcp p d s1, .rcp), (.vrsq p d s1, .rsq), (.vexp2 p d s1, .exp2), (.vlog2 p d s1, .log2),
        (.vabs p d s1, .abs), (.vneg p d s1, .neg), (.vnot p d s1, .not)] : List (Instr × Op1)), x.2.accepts t = true →
      does x.1 d p t [s1] fun e => elt1 x.2 rm t (a.get e)) ∧
    (h.operand s2 = some b → b.ty = t → b.poison = [] → h.operand s3 = some z → z.ty = t → z.poison = [] →
      ∀ x ∈ ([(.vfma p d s1 s2 s3, .fma), (.vfms p d s1 s2 s3, .fms), (.vmac2 p d s1 s2 s3, .mac2)] : List (Instr × Op3)),
        x.2.accepts t = true → does x.1 d p t [s1, s2, s3] fun e => elt3 x.2 rm t (a.get e) (b.get e) (z.get e)) ∧
    (h.operand s3 = some z → z.ty = t → z.poison = [] →
      ∀ x ∈ ([(.vfmaScalar p d s1 c s3, .fma), (.vfmsScalar p d s1 c s3, .fms), (.vmac2Scalar p d s1 c s3, .mac2)] :
          List (Instr × Op3)), x.2.accepts t = true → does x.1 d p t [s1, s3] fun e => elt3 x.2 rm t (a.get e) scal (z.get e)) ∧
    (h.operand s2 = some b → b.ty = t → b.poison = [] → does (.vsel p d s1 s2) d ⟨p.joined, none, false⟩ t [s1, s2] fun e =>
      .quiet (if h.picks p.sel e = true then trunc t (a.get e) else b.get e)) ∧
    (does (.vselScalar p d s1 c) d ⟨p.joined, none, false⟩ t [s1] fun e =>
      .quiet (if h.picks p.sel e = true then trunc t (a.get e) else scal)) ∧
    (h.vlen ≤ capacity h.cls h.anchor.th.grant → does (.vsplat p d c) d p h.anchor.th.grant [] fun _ =>
      .quiet (trunc h.anchor.th.grant (h.reg .anchor c))) ∧
    (h.sq[q].length < 8 → h.vfirst = 0 → does (.vpush p q s1) (.sq q) p t [s1] fun e => .quiet (trunc t (a.get e))) ∧
    (t ≠ .qn4 → h.vlen ≤ capacity h.cls u → (u = t ∨ h.mayResume d [s1]) →
      (does (.vcvt p d s1 u) d p u [s1] fun e => eltConvert rm false t u (a.get e)) ∧
      (isInt t = true → does (.vcvtS p d s1 u) d p u [s1] fun e => eltConvert rm true t u (a.get e))))

/-- What an integer element of a two-source result is (R73, R196): sums, products and left shifts wrap to the width; `VMULH` is the
high half; `VSHR` rounds down, `VSRR` to nearest with halves away from zero; `VADDS` and `VSUBS` clamp and report it. -/
def Obligations.IntegerElementResults : Prop :=
  ∀ (t : ElemType) (rm : Rounding) (x y : Word), isInt t = true →
    let X := intVal t x
    let Y := intVal t y
    let W : Int := 2 ^ width t
    let n := y.toNat % 2 ^ width t
    let v := fun (o : Op2) => intVal t (elt2 o rm t x y).bits
    (∀ o, (elt2 o rm t x y).bits.toNat < 2 ^ width t ∧ (elt2 o rm t x y).flags = 0) ∧
    (v .add - (X + Y)) % W = 0 ∧ (v .sub - (X - Y)) % W = 0 ∧ (v .mul - X * Y) % W = 0 ∧ (v .shl - X * 2 ^ n) % W = 0 ∧
    v .mulh = X * Y / W ∧ v .min = min X Y ∧ v .max = max X Y ∧
    (∀ k, k < width t →
      (elt2 .and rm t x y).bits.getLsbD k = (x.getLsbD k && y.getLsbD k) ∧
      (elt2 .or rm t x y).bits.getLsbD k = (x.getLsbD k || y.getLsbD k) ∧
      (elt2 .xor rm t x y).bits.getLsbD k = (x.getLsbD k ^^ y.getLsbD k)) ∧
    v .shr = X / 2 ^ n ∧
    (2 * (v .srr * 2 ^ n - X).natAbs ≤ 2 ^ n ∧ (2 * (v .srr * 2 ^ n - X).natAbs = 2 ^ n → X.natAbs < (v .srr * 2 ^ n).natAbs)) ∧
    v .adds = max (intLo t) (min (intHi t) (X + Y)) ∧ ((elt2 .adds rm t x y).sat = true ↔ v .adds ≠ X + Y) ∧
    v .subs = max (intLo t) (min (intHi t) (X - Y)) ∧ ((elt2 .subs rm t x y).sat = true ↔ v .subs ≠ X - Y)

/-- The vector compares (R56, R192, R197): bit e of the mask is the condition on element e where e is active; an inactive element's
bit is cleared when z is set, kept otherwise; bits outside [`vstart`, `vl`) stay. Exceptions are those of active elements. The mask instructions and what counts mask bits (R199, R215, R222): `MAND`, `MOR`, `MXOR`, `MNOT` and `MSET` write the bits of
[`vstart`, `vl`) and no other; `MPOPC` counts the bits of active elements, `MFIRST` gives the lowest, or −1; `VIOTA` numbers. -/
def Obligations.VectorComparesAndMasks : Prop :=
  (∀ (s : State) (h : Hart) (p : Pred) (m : MaskReg) (s1 s2 : VSrc) (c : Reg) (imm : BitVec 16) (a : VSource),
    s.performs h → h.operand s1 = some a → a.poison = [] → h.vlen ≤ capacity h.cls a.ty → h.vfirst < h.vlen →
    let t := a.ty
    let old := h.anchor.th.masks[m]
    let does := fun (x : Instr × Cond) (srcs : List VSrc) (y : Nat → Word) => x.2.accepts t = true →
      ∃ (new : Nat) (fl : Flags), exec x.1 s = vectorOutcome s ((h.taken srcs).withMask m new) fl false ∧
        (∀ e, new.testBit e =
          if h.acts p.sel e then (eltCond x.2 t (a.get e) (y e)).1
          else if h.vfirst ≤ e ∧ e < h.vlen ∧ p.z = true then false else old.testBit e) ∧
        (∀ k, fl.getLsbD k = (List.range h.vlen).any fun e => h.acts p.sel e && (eltCond x.2 t (a.get e) (y e)).2.getLsbD k)
    (∀ b, h.operand s2 = some b → b.ty = t → b.poison = [] →
      ∀ x ∈ ([(.vcmpEq p m s1 s2, .eq), (.vcmpNe p m s1 s2, .ne), (.vcmpLt p m s1 s2, .lt), (.vcmpLe p m s1 s2, .le),
        (.vcmpGt p m s1 s2, .gt), (.vcmpGe p m s1 s2, .ge), (.vcmpUn p m s1 s2, .un), (.vcmpOd p m s1 s2, .od)] : List (Instr × Cond)),
      does x [s1, s2] b.get) ∧
    (∀ x ∈ ([(.vcmpEqScalar p m s1 c, .eq), (.vcmpNeScalar p m s1 c, .ne), (.vcmpLtScalar p m s1 c, .lt),
        (.vcmpLeScalar p m s1 c, .le), (.vcmpGtScalar p m s1 c, .gt), (.vcmpGeScalar p m s1 c, .ge),
        (.vcmpUnScalar p m s1 c, .un), (.vcmpOdScalar p m s1 c, .od)] : List (Instr × Cond)),
      does x [s1] fun _ => trunc t (h.reg .anchor c)) ∧
    (isInt t = true → ∀ x ∈ ([(.vcmpEqImm p m s1 imm, .eq), (.vcmpNeImm p m s1 imm, .ne), (.vcmpLtImm p m s1 imm, .lt),
        (.vcmpLeImm p m s1 imm, .le), (.vcmpGtImm p m s1 imm, .gt), (.vcmpGeImm p m s1 imm, .ge)] : List (Instr × Cond)),
      does x [s1] fun _ => trunc t (imm.signExtend 64))) ∧
  (∀ (s : State) (h : Hart) (j v : Bool) (m ma mb : MaskReg) (sel : MaskSel) (p : Pred) (d : Reg) (vd : VDst),
    s.performs h → h.vfirst < h.vlen →
    let bit := fun (k : MaskReg) (e : Nat) => (h.anchor.th.masks[k]).testBit e
    let mask := fun (i : Instr) (f : Nat → Bool) => ∃ new, exec i s = vectorOutcome s (h.withMask m new) 0 false ∧
      ∀ e, new.testBit e = if h.vfirst ≤ e ∧ e < h.vlen then f e else bit m e
    (mask (.mand j m ma mb) fun e => bit ma e && bit mb e) ∧ (mask (.mor j m ma mb) fun e => bit ma e || bit mb e) ∧
    (mask (.mxor j m ma mb) fun e => bit ma e ^^ bit mb e) ∧ (mask (.mnot j m ma) fun e => !bit ma e) ∧
    (mask (.mset j m v) fun _ => v) ∧
    (h.vfirst = 0 →
      let set := (List.range h.vlen).filter fun e => h.picks sel e && bit m e
      exec (.mpopc j sel d m) s = vectorOutcome s (h.withScalar d (BitVec.ofNat 64 set.length)) 0 false ∧
      exec (.mfirst j sel d m) s = vectorOutcome s (h.withScalar d ((set.head?.map (BitVec.ofNat 64)).getD (-1))) 0 false) ∧
    (isInt h.anchor.th.grant = true → h.vlen ≤ capacity h.cls h.anchor.th.grant → h.hasRoom vd →
      exec (.viota p vd m) s = vectorOutcome s (h.deliver vd h.anchor.th.grant (h.computes p h.anchor.th.grant fun e =>
        .quiet (intBits h.anchor.th.grant ((List.range e).filter (bit m)).length))) 0 false))

/-- Slides, gathers, compress and expand, and single elements (R208 to R217), in the vector unit. Elements from outside the vector are the
fill, or 0 of the type. `VCOMPRESS` sets `vl` to the number it packs; `VINS` writes under the destination's own tag. -/
def Obligations.ElementMoves : Prop :=
  ∀ (s : State) (h : Hart) (j : Bool) (p : Pred) (d : VDst) (s1 s2 s3 : VSrc) (r c : Reg) (n : Fin 1024) (idx : BitVec 16) (fill : Fill)
    (a : VSource),
    s.performs h → h.operand s1 = some a → a.poison = [] → h.vlen ≤ capacity h.cls a.ty → h.vfirst < h.vlen → h.hasRoom d →
    let t := a.ty
    let vl := h.vlen
    let does := fun (i : Instr) (srcs : List VSrc) (f : Nat → Word) => h.mayResume d srcs →
      exec i s = vectorOutcome s ((h.taken srcs).deliver d t (h.computes p t fun e => .quiet (f e))) 0 false
    let up := fun (k : Nat) (w : Word) (e : Nat) => if k ≤ e then a.get (e - k) else w
    let dn := fun (k : Nat) (w : Word) (e : Nat) => if e + k < vl then a.get (e + k) else w
    let k := (h.reg .anchor c).toNat
    let scalar := fun (k : Nat) => eltScalar t (if k < vl then a.get k else zeroOf t)
    let dt := match d with
      | .reg r => (h.anchor.vregs[r].ty).getD h.anchor.th.grant
      | .sq _ => h.anchor.th.grant
    let puts := fun (i : Instr) (k : Nat) => vl ≤ capacity h.cls dt → exec i s = vectorOutcome s (h.deliver d dt
      ((List.range vl).map fun e => if e = k then some (.quiet (trunc dt (h.reg .anchor r))) else none)) 0 false
    (∀ w, fillValue fill t (match fill with | .scalar x => h.reg .anchor x | _ => 0) = some w →
      does (.vslideup p d s1 c fill) [s1] (up k w) ∧ does (.vslidedn p d s1 c fill) [s1] (dn k w) ∧
      does (.vslideupImm p d s1 n fill) [s1] (up n w) ∧ does (.vslidednImm p d s1 n fill) [s1] (dn n w)) ∧
    (∀ b, h.operand s2 = some b → b.poison = [] → vl ≤ capacity h.cls b.ty →
      (isInt b.ty = true → does (.vrgather p d s1 s2) [s1, s2] fun e =>
        let x := (b.get e).toNat % 2 ^ width b.ty
        if x < vl then a.get x else zeroOf t) ∧
      (∀ i, h.operand s3 = some i → i.poison = [] → vl ≤ capacity h.cls i.ty → isInt i.ty = true → b.ty = t →
        does (.vrgather2 p d s1 s2 s3) [s1, s2, s3] fun e =>
          let x := (i.get e).toNat % 2 ^ width i.ty
          if x < vl then a.get x else if x < 2 * vl then b.get (x - vl) else zeroOf t)) ∧
    (does (.vexpand p d s1) [s1] fun e => a.get ((List.range e).filter (h.picks p.sel)).length) ∧
    (h.vfirst = 0 →
      (let packed := ((List.range vl).filter (h.picks p.sel)).map a.get
        let h' := (h.taken [s1]).deliver d t (packed.map fun w => some (.quiet w));
        exec (.vcompress p d s1) s = vectorOutcome s { h' with anchor := { h'.anchor with
          th := { h'.anchor.th with vl := BitVec.ofNat 64 packed.length } } } 0 false) ∧
      exec (.vextr j r s1 c) s = vectorOutcome s ((h.taken [s1]).withScalar r (scalar k)) 0 false ∧
      exec (.vextrImm j r s1 idx) s = vectorOutcome s ((h.taken [s1]).withScalar r (scalar idx.toNat)) 0 false ∧
      puts (.vins j d r c) k ∧ puts (.vinsImm j d r idx) idx.toNat)

/-- Reductions, scans and the index of an extreme (R89 to R92, R208, R218 to R221), in the vector unit: a tree over each group of 64
with the identity at inactive elements, the groups folded into the accumulator in ascending order; a scan's carry runs through the groups
alike, and the roundings of its local scan at active elements raise their exceptions (log 61). `VARGMAX` and `VARGMIN` give the lowest index of a NaN, else of the extreme, −1 with none active. -/
def Obligations.ReductionsAndScans : Prop :=
  ∀ (s : State) (h : Hart) (j : Bool) (sel : MaskSel) (p : Pred) (d : VDst) (s1 : VSrc) (r c out : Reg) (a : VSource),
    s.performs h → h.operand s1 = some a → a.poison = [] → h.vlen ≤ capacity h.cls a.ty → 0 < h.vlen → h.vfirst = 0 →
    let t := a.ty
    let vl := h.vlen
    let groups := List.range ((vl + 63) / 64)
    let scal := h.reg .anchor c
    let entries := fun (o : CanonOp) (sel : MaskSel) (u : ElemType) (conv : Word → Elt) (g : Nat) => (List.range 64).map fun i =>
      if h.acts sel (64 * g + i) = true then conv (a.get (64 * g + i)) else .quiet (canonId o u)
    (isInt t = true ∨ isFlt t = true →
      (∀ x ∈ ([(.vredsum j sel r s1 c, .sum), (.vredmax j sel r s1 c, .max), (.vredmin j sel r s1 c, .min)] : List (Instr × CanonOp)),
        let u := redType x.2 t
        let res := groups.foldl (fun v g => canonComb x.2 u v (groupTree x.2 u (entries x.2 sel u (toRed x.2 t) g))) (.quiet (trunc u scal))
        exec x.1 s = vectorOutcome s ((h.taken [s1]).withScalar r (eltScalar u res.bits)) res.flags false) ∧
      (∀ x ∈ ([(.vscanSum p d s1 c out, .sum, false), (.vscanMax p d s1 c out, .max, false), (.vscanMin p d s1 c out, .min, false),
          (.vscanSumX p d s1 c out, .sum, true), (.vscanMaxX p d s1 c out, .max, true), (.vscanMinX p d s1 c out, .min, true)] :
          List (Instr × CanonOp × Bool)),
        let u := accType x.2.1 t
        let res := scanGroups x.2.1 x.2.2 u (groups.map (entries x.2.1 p.sel u (toAcc x.2.1 t))) (.quiet (trunc u scal))
        let es := h.computes p u fun e => res.1.getD e (.quiet 0)
        h.hasRoom d → vl ≤ capacity h.cls u →
        exec x.1 s = vectorOutcome s (((h.taken [s1]).deliver d u es).withScalar out (eltScalar u res.2.2.bits))
          (raisedBy es ||| raisedBy ((List.range vl).map fun e => if h.acts p.sel e = true then res.2.1[e]? else none) |||
            res.2.2.flags) false) ∧
      (∀ x ∈ ([(.vargmax j sel r s1, true), (.vargmin j sel r s1, false)] : List (Instr × Bool)), ∃ (w : Word) (fl : Flags),
        exec x.1 s = vectorOutcome s ((h.taken [s1]).withScalar r w) fl false ∧
        let acts := (List.range vl).filter (h.acts sel)
        let nan := fun (e : Nat) => match fmtOf t with
          | some f => (fDecode f (a.get e).toNat).isNan
          | none => false
        ((∀ e, acts.find? nan = some e → w = BitVec.ofNat 64 e) ∧
         (acts.find? nan = none → acts = [] → w = -1) ∧
         (acts.find? nan = none → acts ≠ [] → ∃ e ∈ acts, w = BitVec.ofNat 64 e ∧
           (∀ k ∈ acts, beats x.2 t (a.get e) (a.get k) = false) ∧ ∀ k ∈ acts, k < e → beats x.2 t (a.get k) (a.get e) = true)))) ∧
    (isInt t = true → ∀ x ∈ ([(.vredbitAnd j sel r s1 c, .and), (.vredbitOr j sel r s1 c, .or), (.vredbitXor j sel r s1 c, .xor)] :
        List (Instr × Op2)),
      let res := ((List.range vl).filter (h.acts sel)).foldl (fun v e => (int2 x.2 t v (a.get e)).bits) (trunc t scal)
      exec x.1 s = vectorOutcome s ((h.taken [s1]).withScalar r (eltScalar t res)) 0 false)

/-- The narrow format, the butterfly, random draws and UTF-8 (R84 to R88, R99, R100, R201 to R206), in the vector unit. `VQCVT` names three
different registers (R201) and has a positive finite scale (R85); it sets `vsat` from its chain, and from a block maximum above the scale
when some element from `vstart` below `vl` is selected (R84, R193). Where the spec leaves a choice, the model's: log 59 (`efc` of a carry of 0). -/
def Obligations.NarrowButterflyRandomText : Prop :=
  ∀ (s : State) (h : Hart) (j : Bool) (p : Pred) (d : VDst) (s1 s3 : VSrc) (r c : Reg) (u : ElemType) (lg : Fin 6) (k : Fin 32) (uc : Bool),
    s.performs h → h.hasRoom d → h.vfirst < h.vlen →
    let vl := h.vlen
    let scal := h.reg .anchor c
    (h.anchor.th.grant ≠ .qn4 → vl ≤ capacity h.cls h.anchor.th.grant →
      (let h' := h.deliver d h.anchor.th.grant (h.computes p h.anchor.th.grant fun e =>
          .quiet (drawElt h.anchor.th.grant (mix h.anchor.rngkey (h.anchor.rngctr + BitVec.ofNat 128 e))));
        exec (.vrand p d) s = vectorOutcome s { h' with anchor := { h'.anchor with
          rngctr := h.anchor.rngctr + BitVec.ofNat 128 vl } } 0 false)) ∧
    (∀ a, h.operand s1 = some a → a.poison = [] →
      (a.ty = .f32 → vl ≤ capacity h.cls .f32 →
        (let es := h.computes p .f32 (butterfly vl lg a.get);
          exec (.vbfly p d s1 lg) s = vectorOutcome s ((h.taken [s1]).deliver d .f32 es) (raisedBy es) false) ∧
        exec (.vbflyF j s1 lg) s = vectorOutcome s (h.taken [s1])
          (raisedBy (h.computes ⟨false, none, false⟩ .f32 (butterfly vl lg a.get))) false) ∧
      (∀ b, h.operand s3 = some b → b.poison = [] → a.ty = .qn4 → b.ty = .n8 → u = .f32 ∨ u = .bf16 →
        vl ≤ capacity h.cls .qn4 → vl ≤ capacity h.cls .n8 → vl ≤ capacity h.cls u → h.mayResume d [s1, s3] →
        let es := h.computes p u fun e => eltDequant (if u = .bf16 then .bf16 else .f32) scal (a.get e).toNat
          ((b.get (e / 64)).toNat % 256)
        exec (.vdq p d s1 c s3 u) s = vectorOutcome s ((h.taken [s1, s3]).deliver d u es) (raisedBy es) false) ∧
      (∀ st, VSource.ofReg h.anchor.vregs[r] = some st → st.poison = [] → a.ty = .n8 → st.ty = .n32 → vl ≤ capacity h.cls .n8 →
        vl ≤ capacity h.cls .n32 → h.vfirst = 0 →
        let run := utf8Run (utf8Carry (st.get 0).toNat) ((List.range vl).map fun e => (a.get e).toNat % 256)
        let h' := (h.taken [s1]).deliver d .n32 (run.1.map fun o => some (.quiet (BitVec.ofNat 64 o)))
        exec (.vutf8 j d s1 r uc) s = vectorOutcome s (h'.deliver (.reg r) .n32
          [some (.quiet (BitVec.ofNat 64 (utf8Pack run.2.1)))]) 0 false) ∧
      (∀ m e, posScale scal = some (m, e) → d ≠ .reg r → (∀ x z, s1 = .reg x z → x ≠ r ∧ d ≠ .reg x) → a.ty = .f32 → vl ≤ capacity h.cls .f32 → vl ≤ capacity h.cls .qn4 → vl ≤ capacity h.cls .n8 →
        let nb := (vl + 63) / 64
        let picked := fun (i : Nat) => decide (i < vl) && h.picks p.sel i
        let mx := fun (b : Nat) => (List.range 64).foldl (fun mx i =>
          if picked (64 * b + i) = true ∧ (fDecode .f32 (a.get (64 * b + i)).toNat).isNan = false then
            max mx ((prescale (a.get (64 * b + i)) k).1 % 2 ^ 31) else mx) 0
        let sc := fun (b : Nat) => blockScale (mx b) m e
        let chain := (List.range (64 * nb)).foldl (fun (q : QuantChain) i =>
          if i < h.vfirst then { q with codes := q.codes ++ [none] }
          else if vl ≤ i then { q with codes := q.codes ++ [some 15] }
          else if picked i = true then quantStep k m e (sc (i / 64)).1 (a.get i) q
          else { q with codes := q.codes ++ [if p.z then some 7 else none] }) ⟨[], h.anchor.efc.toNat, 0, false⟩
        let h1 := (h.taken [s1]).deliver d .qn4 (chain.codes.map (Option.map Elt.quiet))
        let h2 := h1.deliver (.reg r) .n8 ((List.range nb).map fun b => some (.quiet (BitVec.ofNat 64 (sc b).1)))
        exec (.vqcvt p d s1 c r k) s = vectorOutcome s { h2 with anchor := { h2.anchor with efc := BitVec.ofNat 64 chain.carry } }
          chain.flags (chain.sat || ((List.range vl).any (h.acts p.sel) && (List.range nb).any fun b => (sc b).2))))

/-- The forest instructions (R55, R223 to R230), in the vector unit, where the forest has no cycle or the cycle trap is off: links
outside the nodes make roots; paths combine by pointer doubling; roots, depths and ancestors follow the links; cyclic nodes give the
cyclic result; the output masks get a bit for every node. -/
def Obligations.ForestInstructions : Prop :=
  ∀ (s : State) (h : Hart) (p : Pred) (d : VDst) (k kd : TopoReg) (m : MaskReg) (c : Reg) (s1 : VSrc) (fm : ForestMasks),
    s.performs h → h.hasRoom d → 0 < h.vlen → h.vfirst = 0 → h.vlen ≤ topoCapacity h.cls →
    let n := h.vlen
    let kr := h.anchor.kregs[k]
    let ps := parents n kr
    let al := lastChain n kr
    let cyc := isCyclic al
    let masks : Hart → Hart := fun h' => writeForestMasks h' fm n cyc (isCut n kr)
    let quiet := h.anchor.topoctl.getLsbD 0 = true → ∀ e, e < n → cyc e = false
    let links := fun (h' : Hart) (k : TopoReg) (w : List (Option (BitVec 16))) =>
      ({ h' with anchor := { h'.anchor with kregs := h'.anchor.kregs.set k (writeKReg h'.anchor.kregs[k] w) } } : Hart)
    let nodes := fun (i : Instr) (f : Nat → Nat) => quiet → n ≤ capacity h.cls .idx16 → exec i s = vectorOutcome s
      (masks (h.deliver d .idx16 (h.computes p .idx16 fun e =>
        .quiet (if cyc e = true then cyclicResult .idx16 else BitVec.ofNat 64 (f e % 2 ^ 16))))) 0 false
    let bits := fun (i : Instr) (h0 : Hart) (out : Hart → Hart) (f : Nat → Bool) =>
      ∃ new, exec i s = vectorOutcome s (out (h0.withMask m new)) 0 false ∧
        ∀ e, new.testBit e = if e < n ∧ h.picks p.sel e = true then f e
          else if e < n ∧ p.z = true then false else (h.anchor.th.masks[m]).testBit e
    (n ≤ capacity h.cls .idx16 → exec (.kget p d k) s = vectorOutcome s (h.deliver d .idx16 (h.computes p .idx16 fun e =>
      .quiet ((kr.get e).setWidth 64))) 0 false) ∧
    nodes (.kdepth p d k fm) (fun e => (rootFrom ps n e 0).2) ∧ nodes (.kroot p d k fm) (fun e => (rootFrom ps n e 0).1) ∧
    nodes (.kanc p d c k fm) (fun e => (ancestorFrom ps (min (h.reg .anchor c).toNat (n + 1)) e).getD 0xFFFF) ∧
    bits (.kcheck p m k) h id cyc ∧
    (quiet → exec (.kcontract p kd k fm) s = vectorOutcome s (masks (links h kd ((List.range n).map fun e =>
      some (if cyc e = true then 0x8000 else contractFrom kr n (h.picks p.sel) ps (n + 1) e)))) 0 false) ∧
    (∀ a, h.operand s1 = some a → a.poison = [] → n ≤ capacity h.cls a.ty →
      (a.ty = .idx16 → exec (.kset p k s1) s = vectorOutcome s (links (h.taken [s1]) k ((List.range n).map fun e =>
        if h.picks p.sel e = true then some ((a.get e).setWidth 16) else if p.z then some 0xFFFF else none)) 0 false) ∧
      (a.ty = .idx16 → quiet → bits (.kancIs p m s1 k fm) (h.taken [s1]) masks fun e =>
        let i := (a.get e).toNat % 2 ^ 16
        decide (i < n) && !cyc e && !cyc i && onPath ps i n e) ∧
      (quiet → exec (.kbcast p d s1 k fm) s = vectorOutcome s (masks ((h.taken [s1]).deliver d a.ty (h.computes p a.ty fun e =>
        .quiet (if cyc e = true then cyclicResult a.ty else a.get (rootFrom ps n e 0).1)))) 0 false) ∧
      (isInt a.ty = true ∨ isFlt a.ty = true → quiet →
        ∀ x ∈ ([(.kupSum p d s1 k fm, .sum, false), (.kupMax p d s1 k fm, .max, false), (.kupMin p d s1 k fm, .min, false),
          (.kdownSum p d s1 k fm, .sum, true), (.kdownMax p d s1 k fm, .max, true), (.kdownMin p d s1 k fm, .min, true)] :
          List (Instr × CanonOp × Bool)),
        let t := accType x.2.1 a.ty
        let v := (List.range n).map fun e => if h.picks p.sel e = true then toAcc x.2.1 a.ty (a.get e) else .quiet (canonId x.2.1 t)
        let res := if x.2.2 then (downRun x.2.1 t (doublings n) (v, ps)).1 else upRun x.2.1 t (doublings n) ps v
        let es := h.computes p t fun e => if cyc e = true then .quiet (cyclicResult t) else res.getD e (.quiet 0)
        n ≤ capacity h.cls t → exec x.1 s = vectorOutcome s (masks ((h.taken [s1]).deliver d t es)) (raisedBy es) false))

/-- The tag rules (R48, R52, R53): writing a register of the same tag keeps what is not written and its length; of another tag, the
rest is 0 and the length is the last written element plus one; with nothing written a dead register stays dead. `VTAG` gives a live
register without elements, `VRETAG` to its own tag changes the dirty bit alone and leaves a dead register dead. Where the spec leaves a choice, the model's: log 39. -/
def Obligations.ValueRegisterTags : Prop :=
  (∀ (r : VReg) (t : ElemType) (w : Written) (e : Nat),
    let r' := writeReg r t w
    (r'.dirty = true ∨ (r' = r ∧ r.ty = none ∧ ∀ x ∈ w, x = none)) ∧
    (∀ v, w.getD e none = some v → r'.ty = some t ∧ r'.elems.getD e (zeroOf t) = v ∧ e ∉ r'.poison) ∧
    (r.ty = some t → w.getD e none = none → r'.elems.getD e (zeroOf t) = r.elems.getD e (zeroOf t) ∧ r.elems.length ≤ r'.elems.length) ∧
    (r.ty ≠ some t → r'.ty = some t → w.getD e none = none → r'.elems.getD e (zeroOf t) = zeroOf t ∧ r'.elems.length ≤ w.length)) ∧
  (∀ (s : State) (h : Hart) (j : Bool) (v : Reg) (t : ElemType), s.performs h →
    let set := fun (r : VReg) => ({ h with anchor := { h.anchor with vregs := h.anchor.vregs.set v r } } : Hart)
    exec (.vtag j v t) s = vectorOutcome s (set ⟨some t, true, [], []⟩) 0 false ∧
    (h.anchor.vregs[v].ty = none → exec (.vretag j v t) s = vectorOutcome s h 0 false) ∧
    (h.anchor.vregs[v].ty = some t → exec (.vretag j v t) s = vectorOutcome s (set { h.anchor.vregs[v] with dirty := true }) 0 false) ∧
    (∀ u, h.anchor.vregs[v].ty = some u → u ≠ t → ∃ es,
      exec (.vretag j v t) s = vectorOutcome s (set ⟨some t, true, es, []⟩) 0 false ∧
      es.length = min ((h.anchor.vregs[v].elems.length * width u + width t - 1) / width t) (capacity h.cls t)))

/-- The vector instruction queue (R23, R153, R155): in the Anchor's front end an instruction is appended with what it captures and the
front end goes on; the head convoy commits as a whole, its members one after another on the results of those before it, forwarding
included, and leaves the queue with `vstart` 0; what a member raised below an earlier data error it commits now (R285). Where the spec leaves a choice, the model's: log 9, 25, 70. -/
def Obligations.VectorQueue : Prop :=
  (∀ (s : State) (h : Hart) (i : Instr) (u : VUse), s.fronts h → useOf i = some u → u.out = none → u.pred.joined = false →
    u.vfCount = 0 → h.anchor.loop = none → h.anchor.openLen = none → h.anchor.overlong = none → h.anchor.th.vrel = false → h.anchor.viq.length < 64 →
    (∀ e ∈ h.anchor.viq, ∀ w, useOf e.instr = some w → w.setsVl = false) →
    exec i s = .next (s.put { h with anchor := { h.anchor with
      viq := h.anchor.viq ++ [capture h i u none]
      openLen := if u.vform then some 1 else none
      th := { h.anchor.th with pc := h.anchor.th.pc + 8 } } })) ∧
  (∀ (s : State) (i : Nat) (h : Hart) (es rest : List VEntry) (r : ConvoyRun),
    s.harts[i]? = some h → h.mode = .running → h.stopHard = false → h.anchor.viq = es ++ rest → es ≠ [] → (∀ e ∈ es.tail, e.joins = true) →
    (∀ e, rest.head? = some e → e.joins = false) → (h.anchor.openLen = none ∨ ∃ n, h.anchor.openLen = some n ∧ n < h.anchor.viq.length) →
    h.anchor.mqueue = [] → h.anchor.deferredErr = none →
    (∀ e ∈ es, ∃ u, useOf e.instr = some u ∧ u.vform = true ∧ u.lqs = [] ∧ u.sqs = []) →
    convoyRun ⟨h, none, [], false, none, [], 0⟩ es none = .whole r → r.cycle = none →
    (∀ x : Word × Flags, x ∈ r.raised → (s.parts[h.part].fptrap &&& x.2.setWidth 64) = 0) →
    (∀ e ∈ es, (s.parts[h.part].fptrap &&& e.raised.setWidth 64) = 0) →
    r.h.anchor.deferredErr = none →
    ∃ t h' , exec (.viqCommit i) s = .next t ∧ t.mem = s.mem ∧ t.harts = s.harts.set i h' ∧
      h' = { r.h with anchor := { r.h.anchor with
        viq := rest
        vsat := if r.sat then 1 else r.h.anchor.vsat
        th := { r.h.anchor.th with
          vstart := 0
          fflags := r.h.anchor.th.fflags ||| (r.raised.foldl (fun (f : Flags) (x : Word × Flags) => f ||| x.2) 0).setWidth 64 } } } ∧
      (∀ e1 e2 f1 f2 h1 vf1 fl1 b1 p1 h2 vf2 fl2 b2 p2, es = [e1, e2] → effectOf e1.instr = some f1 → effectOf e2.instr = some f2 →
        f1 (e1.ctx h.anchor.th.vstart.toNat none none 0) h = .done h1 vf1 fl1 b1 p1 false →
        f2 (e2.ctx h.anchor.th.vstart.toNat none vf1 0) h1 = .done h2 vf2 fl2 b2 p2 false →
        r.h = h2 ∧ r.raised = [(e1.addr, e1.owed ||| fl1), (e2.addr, e2.owed ||| fl2)] ∧
        r.sat = (e1.owedSat || b1 || e2.owedSat || b2)))

/-! ## The matrix engine and the other engines -/

/-- Matrix instructions at commit (R128, R256 to R264), in the vector unit: without a context each is an illegal instruction and with
one a second `MCLAIM` is; `SETTL` grants the shape; the others enter the matrix queue with what they capture while it has room; `MREL`
gives up the claim at once. Areas must be aligned and lie in the hart's own slice. A waiting `MCLAIM` (R256): when a context of its core is free, the first to wait is granted it, every tile empty. Where the spec leaves a choice, the model's: log 18, 26. -/
def Obligations.MatrixCommit : Prop :=
  (∀ (s : State) (h : Hart) (t : Tile) (tt : TileType) (v c1 c2 c3 : Reg) (p : Fin 32),
    s.performs h → h.anchor.deferredErr = none → h.anchor.mqueue.length < 32 →
    let a := h.anchor
    let x1 := h.reg .anchor c1
    let x2 := h.reg .anchor c2
    let illegal := fun (i : Instr) => exec i s =
      .next (deliverTrap s s.cur.hart { code := 0x01, thread := .anchor, iaddr := a.th.pc })
    let entry := fun (op : MOp) (y1 y2 : Word) => (⟨op, a.th.pc, a.th.vl.toNat, a.th.rl.toNat, y1, y2, y2, a.shape⟩ : MEntry)
    let queued := fun (i : Instr) (op : MOp) (y1 y2 : Word) =>
      exec i s = .next (s.put { h with anchor := { a with mqueue := a.mqueue ++ [entry op y1 y2] } })
    let area := fun (y : Word) => mmaArea s a (a.shape.k / 64) (2 ^ 52 + (y.toNat - 0xF000000000000))
    let inSlice := fun (y : Word) (n : Nat) =>
      0xF000000000000 + h.core * 2 ^ 24 ≤ y.toNat ∧ y.toNat + n ≤ 0xF000000000000 + (h.core + 1) * 2 ^ 24
    (a.claim = true → illegal .mclaim) ∧
    (a.claim = false → ∀ i ∈ ([.settl c1 c2 c3, .mrel, .mzero t, .mma t c1 c2, .mldt t c1 tt, .mstt t c1, .mtov v t c1,
      .mstageA c1 v p, .mstageB c1 v p] : List Instr),
      illegal i) ∧
    (a.claim = false → s.claimWait = [] → (s.contexts.filter fun c => c.1 == h.core).length < 2 →
      (∀ e ∈ a.mqueue, e.op ≠ .rel) →
      let a' : AnchorState := { a with claim := true, shape := ⟨0, 0, 0⟩, tiles := Vector.replicate 8 ⟨.empty, [], false⟩ }
      exec .mclaim s = .next { s.put { h with anchor := a' } with contexts := s.contexts ++ [(h.core, s.cur.hart)] }) ∧
    (a.claim = true →
      (let m := min x1.toNat 64;
        let n := min x2.toNat 64;
        let k := min (h.reg .anchor c3).toNat 4096;
        let h' := ((h.withScalar c1 (BitVec.ofNat 64 m)).withScalar c2 (BitVec.ofNat 64 n)).withScalar c3 (BitVec.ofNat 64 k);
        exec (.settl c1 c2 c3) s = .next (s.put { h' with anchor := { h'.anchor with
          th := { h'.anchor.th with lost := ((a.th.lost.filter (· != c1)).filter (· != c2)).filter (· != c3) },
          shape := ⟨m, n, (k + 63) / 64 * 64⟩ } })) ∧
      exec .mrel s = .next (s.put { h with anchor := { a with claim := false, shape := ⟨0, 0, 0⟩, mqueue := a.mqueue ++ [entry .rel 0 0] } }) ∧
      queued (.mzero t) (.zero t) 0 0 ∧
      (x1.toNat % 64 = 0 → inSlice x1 16384 →
        queued (.mldt t c1 tt) (.load t tt) x1 0 ∧ queued (.mstt t c1) (.store t) x1 0) ∧
      (64 * a.th.rl.toNat ≤ capacity h.cls .f32 → queued (.mtov v t c1) (.toV v t) x1 0) ∧
      (x1.toNat % 256 = 0 → x2.toNat % 256 = 0 → inSlice x1 (area x1) → inSlice x2 (area x2) →
        queued (.mma t c1 c2) (.mma t) x1 x2) ∧
      (∀ u, a.vregs[v].ty = some u → u ∈ ([.i8, .i16, .i32, .n8, .n16, .n32, .f16, .bf16, .f32, .qn4] : List ElemType) →
        let kc := (a.th.vl.toNat + 63) / 64
        (u = .qn4 → 12 ≤ p.val ∧ kc % 64 = 0 ∧ v ≠ 31 ∧ (a.vregs[(v + 1 : Reg)]).ty = some .n8) →
        x1.toNat % 256 = 0 → inSlice x1 ((kc + 63) / 64 * (512 * p.val + 256)) →
        queued (.mstageA c1 v p) (.stage true v p) x1 (h.reg .anchor v) ∧
        queued (.mstageB c1 v p) (.stage false v p) x1 (h.reg .anchor v)))) ∧
  (∀ (s : State) (i : Nat) (h : Hart) (e : VEntry) (rest : List VEntry),
    s.harts[i]? = some h → h.mode = .running → h.stopHard = false → h.anchor.viq = e :: rest → e.instr = .mclaim →
    (∀ x, rest.head? = some x → x.joins = false) → h.anchor.openLen = none → h.anchor.claim = false → h.anchor.deferredErr = none →
    (s.claimWait.find? fun c => c.1 == h.core) = some (h.core, i) → (s.contexts.filter fun c => c.1 == h.core).length < 2 →
    h.anchor.mqueue = [] →
    let a : AnchorState := { h.anchor with claim := true, shape := ⟨0, 0, 0⟩, tiles := Vector.replicate 8 ⟨.empty, [], false⟩ }
    exec (.mclaimGrant i) s = .next { s with
      contexts := s.contexts ++ [(h.core, i)]
      claimWait := s.claimWait.filter fun c => c.2 != i
      harts := s.harts.set i { h with anchor := { a with viq := rest } } })

/-- The matrix queue (R27, R57, R256, R258 to R266, R268): the oldest entry is performed whole and leaves the queue. `MMA` adds, group
by group, the exact dot product of a staged row of A and of B into each element of the M × N block: modulo 2^32 for integers, else one
fused step of F32; where the staging has not left an operand, or another agent has stored into it, each element of the block is a free value and the others stay. `MSTT` stores and `MTOV` delivers what the tile holds, zeros of an empty one. A released context is free again, its tiles empty; an `MTOV` of no rows writes nothing. Where the spec leaves a choice, the model's: log 38, 62. -/
def Obligations.MatrixQueue : Prop :=
  ∀ (s : State) (i : Nat) (h : Hart) (e : MEntry) (rest : List MEntry),
    s.harts[i]? = some h → h.mode = .running → s.mgmt.recoveries = [] → s.poison = [] → s.memoryOk →
    h.anchor.mqueue = e :: rest →
    let a := h.anchor
    let loc := 2 ^ 52 + (e.scal1.toNat - 0xF000000000000)
    let put := fun (s : State) (a : AnchorState) => ({ s with harts := s.harts.set i { h with anchor := { a with mqueue := rest } } } : State)
    let tile := fun (t : Tile) (d : TileData) => ({ a with tiles := a.tiles.set t d } : AnchorState)
    let el := fun (t : Tile) (k : Nat) => if (a.tiles[t]).elems = [] then (0 : BitVec 32) else (a.tiles[t]).elems.getD k 0
    let filled := fun (t : Tile) => (a.tiles[t]).poison = false ∧ ((a.tiles[t]).elems = [] ∨ (a.tiles[t]).elems.length = 4096)
    let did := fun (t : State) => exec (.matrixQueuePerform i) s = .next t
    (∀ t, e.op = .zero t → did (put s (tile t ⟨.empty, [], false⟩))) ∧
    (e.op = .rel → did (put { s with contexts := s.contexts.eraseP fun c => c.2 == i }
      { a with tiles := Vector.replicate 8 ⟨.empty, [], false⟩ })) ∧
    (∀ t tt, e.op = .load t tt → ∃ d, did (put s (tile t d)) ∧ d.tag = (match tt with | .f32 => .f32 | .i32 => .i32) ∧ d.poison = false ∧
      d.elems.length = 4096 ∧ ∀ k, k < 4096 →
        d.elems[k]? = some (BitVec.ofNat 32 (leNat (Memory.readAll s.mem (loc + 4 * k) 4)))) ∧
    (∀ t, e.op = .store t → filled t → ∃ t', did t' ∧
      t'.harts = (put s a).harts ∧
      (∀ k, k < 4096 → leNat (Memory.readAll t'.mem (loc + 4 * k) 4) = (el t k).toNat) ∧
      (∀ x, x < loc ∨ loc + 16384 ≤ x → Memory.read t'.mem x = Memory.read s.mem x)) ∧
    (∀ v t, e.op = .toV v t → (a.tiles[t]).poison = false → e.rl = 0 → did (put s a)) ∧
    (∀ v t, e.op = .toV v t → filled t → 0 < e.rl → h.pacer.th.vrel = false ∨ a.th.vrel = false →
      did (put s { a with vregs := a.vregs.set v (writeReg a.vregs[v] (if (a.tiles[t]).tag = .i32 then .i32 else .f32)
        ((List.range (64 * e.rl)).map fun k =>
          let row := e.scal1.toNat + k / 64
          some (if row < 64 then (el t (row * 64 + k % 64)).setWidth 64 else 0))) })) ∧
    (∀ t, e.op = .mma t →
      let k := e.shape.k / 64
      let loc2 := 2 ^ 52 + (e.scal2.toNat - 0xF000000000000)
      let as := groupsAt s.staged k loc
      let bs := groupsAt s.staged k loc2
      let ints := operandInt s.staged k loc && operandInt s.staged k loc2
      let staged := as.length = k ∧ bs.length = k ∧ ∀ g ∈ as ++ bs, g.corrupt = false
      filled t → ((a.tiles[t]).tag = .empty ∨ (a.tiles[t]).tag = (if ints then .i32 else .f32)) →
      ∃ (d : TileData) (free : Nat → Word), did (put s (tile t d)) ∧ d.tag = (if ints then .i32 else .f32) ∧ d.poison = false ∧
        (∃ made, free = Config.undefined made) ∧
        ∀ m n, m < 64 → n < 64 →
          (m < e.shape.m → n < e.shape.n → staged → d.elems[64 * m + n]? = some
            ((as.zip bs).foldl (fun v g => mmaElem ints v (g.1.rows.getD m zeroRow) (g.2.rows.getD n zeroRow)) (el t (64 * m + n)))) ∧
          (m < e.shape.m → n < e.shape.n → ¬ staged → d.elems[64 * m + n]? = some ((free (64 * m + n)).setWidth 32)) ∧
          (e.shape.m ≤ m ∨ e.shape.n ≤ n → d.elems[64 * m + n]? = some (el t (64 * m + n)))) ∧
    (∀ isA v p, e.op = .stage isA v p → (a.vregs[v]).poison = [] → (a.vregs[(v + 1 : Reg)]).poison = [] → ∃ t', did t' ∧ t'.harts = (put s a).harts ∧
      let gs := stageGroups a.vregs[v] a.vregs[(v + 1 : Reg)] ((a.vregs[v]).ty.getD .i8) loc e.vl p (if isA then e.shape.m else e.shape.n) e.scale
      let n := gs.length * (512 * p + 256)
      (∀ g ∈ gs, g ∈ t'.staged) ∧ ∀ x, x < loc ∨ loc + n ≤ x → Memory.read t'.mem x = Memory.read s.mem x)

/-- Issuing engine commands (R111 to R113, R117 to R121, R125, R248 to R251): a command whose operands keep the limits and whose tag is
neither outstanding nor set is appended to its queue with the operand values it reads, once the Pacer's earlier accesses have been performed (R135), and the Pacer goes on; otherwise the engine
operand fault 0x10; while the queue holds 16, or such an access waits at a fenced unit, the Pacer waits. With the swizzle flag, rows, pitch and destination keep the limits of R118. Parameter blocks are 64 bytes read at issue. Tags (R112, R114, R252 to R254): `TWALL` goes on once every tag of its mask is set and waits while one is outstanding, `TWANY` once one is set, `TFIRST` gives the lowest
set tag or 64, `TCLR` clears tags none of which is outstanding, `QFENCE` goes on once the queues it names are empty; what the observed
commands wrote is then visible. A wait for a tag that nothing will set is the engine operand fault. -/
def Obligations.EngineCommandsAndTags : Prop :=
  (∀ (s : State) (h : Hart) (tag : Fin 64) (a b c d e f g k : Reg) (sw : Bool) (loc : Nat),
    s.runs h .pacer →
    let r := h.reg .pacer
    let n := fun (x : Reg) => (r x).toNat
    let tagFree := (∀ q : Fin 4, ∀ c ∈ h.pacer.engines[q], c.tag ≠ some tag) ∧ h.pacer.tagmap.getLsbD tag.val = false
    let refused := fun (s : State) (i : Instr) (s0 : State) => exec i s0 = .next (trapAt s s.cur.hart h .pacer 0x10 0)
    let pitch := fun (w : Word) => w.toInt.natAbs < 2 ^ 40
    let enters := fun (s : State) (q : Fin 4) (op : EngineOp) (tag : Option (Fin 64)) =>
      (Host.Outcome.next (φ := Fault) (ρ := Refusal)
        (modHart (settleScalar (settleVector s s.cur.hart) s.cur.hart h.core) s.cur.hart fun h' => h'.issued q op tag))
    let issues := fun (i : Instr) (q : Fin 4) (op : EngineOp) (tag : Option (Fin 64)) (ok : Prop) =>
      (ok → (h.pacer.engines[q].length < 16 → allSettle s h = true → exec i s = enters s q op tag) ∧
        (16 ≤ h.pacer.engines[q].length ∨ allSettle s h = false → exec i s = .next s)) ∧
      (¬ ok → refused s i s)
    issues (.cpy tag a b c) 0 (.copy (n a) (n b) (n c)) (some tag) (tagFree ∧ n c < 2 ^ 40) ∧
    issues (.cpy2 tag a b c d e f false) 0 (.copy2 (r a) (r b) (n c) (n d) (r e) (r f) false) (some tag)
      (tagFree ∧ n c ≤ 65535 ∧ n d ≤ 2 ^ 24 ∧ pitch (r e) ∧ pitch (r f)) ∧
    issues (.cpyx tag a b c d e f g k false) 0 (.copyX (r a) (r b) (r c) (r d) (n e) (r f) (n g) (n k) false) (some tag)
      (tagFree ∧ n g ≤ 65535 ∧ n e ≤ 2 ^ 24 ∧ 1 ≤ n k ∧ n k < 2 ^ 32 ∧ n f % 4 = 0) ∧
    (sw = true → tagFree → n c ≤ 65535 → n d ≤ 2 ^ 24 → pitch (r e) → pitch (r f) →
      (swizzleOk (r a) (r f) (n c) (n d) = true → h.pacer.engines[(0 : Fin 4)].length < 16 → allSettle s h = true →
        exec (.cpy2 tag a b c d e f sw) s = enters s 0 (.copy2 (r a) (r b) (n c) (n d) (r e) (r f) sw) (some tag)) ∧
      (swizzleOk (r a) (r f) (n c) (n d) = false → refused s (.cpy2 tag a b c d e f sw) s)) ∧
    (sw = true → tagFree → n g ≤ 65535 → n e ≤ 2 ^ 24 → 1 ≤ n k → n k < 2 ^ 32 → n f % 4 = 0 →
      (swizzleOk (r a) (r b) (n g) (n e) = true → h.pacer.engines[(0 : Fin 4)].length < 16 → allSettle s h = true →
        exec (.cpyx tag a b c d e f g k sw) s =
          enters s 0 (.copyX (r a) (r b) (r c) (r d) (n e) (r f) (n g) (n k) sw) (some tag)) ∧
      (swizzleOk (r a) (r b) (n g) (n e) = false → refused s (.cpyx tag a b c d e f g k sw) s)) ∧
    issues (.fcinv a b) 3 (.fcinv (n a) (n b)) none (n a + n b ≤ 2 ^ 52) ∧
    issues (.fcwb a b) 3 (.fcwb (n a) (n b)) none (n a + n b ≤ 2 ^ 52) ∧
    (s.mgmt.recoveries = [] → n a % 64 = 0 → translate s h.core h.part (r a) .load false = .ok (loc, false) → h.pacer.stores = [] →
      (∀ p ∈ s.poison, p < loc ∨ loc + 64 ≤ p) → (∀ l, l1Hit s h.core (lineOf loc) = some l → l.dirty = []) →
      let blk := leNat (Memory.readAll s.mem loc 64)
      let s' := (scalarRead (noteTlb s h.core h.part (r a)) h.core loc 64 false).1
      let block := fun (i : Instr) (q : Fin 4) (op : EngineOp) (ok : Bool) =>
        (ok = true → tagFree → h.pacer.engines[q].length < 16 → exec i s = enters s' q op (some tag)) ∧
        (ok = false ∨ ¬ tagFree → refused s' i s)
      block (.pftopk tag a) 1 (.photo (PfBlock.ofNat blk)) (pfBlockOk s' h.part false blk) ∧
      block (.pfscan tag a) 1 (.photo (PfBlock.ofNat blk)) (pfBlockOk s' h.part true blk) ∧
      block (.seam tag a) 2 (.seam (SeamBlock.ofNat blk)) (seamBlockOk blk))) ∧
  (∀ (s : State) (h : Hart) (m d : Reg) (qm : Fin 16),
    s.runs h .pacer → s.mgmt.recoveries = [] →
    let w := h.reg .pacer m
    let set := fun (t : Fin 64) => w.getLsbD t.val && h.pacer.tagmap.getLsbD t.val
    let coming := fun (t : Fin 64) => ∃ q : Fin 4, ∃ c ∈ h.pacer.engines[q], c.tag = some t
    let seen := fun (h' : Hart) (p : Fin 64 → Bool) =>
      ({ h' with pacer := { h'.pacer with wrote := h.pacer.wrote.filter fun x => !p x.tag } } : Hart).after h.pacer.stores
    let goes := fun (i : Instr) (h' : Hart) => ∃ t, exec i s = .next t ∧ t.harts = s.harts.set s.cur.hart h'
    let traps := fun (i : Instr) => exec i s = .next (trapAt s s.cur.hart h .pacer 0x10 0)
    ((∀ t : Fin 64, w.getLsbD t.val = true → h.pacer.tagmap.getLsbD t.val = true) → goes (.twall m) (seen h set)) ∧
    ((∃ t : Fin 64, w.getLsbD t.val = true ∧ h.pacer.tagmap.getLsbD t.val = false ∧ ¬ coming t) → traps (.twall m)) ∧
    ((∃ t : Fin 64, w.getLsbD t.val = true ∧ h.pacer.tagmap.getLsbD t.val = false) →
      (∀ t : Fin 64, w.getLsbD t.val = true → h.pacer.tagmap.getLsbD t.val = false → coming t) → exec (.twall m) s = .next s) ∧
    (w = 0 ∨ (∃ t : Fin 64, set t = true) → goes (.twany m) (seen h set)) ∧
    (w ≠ 0 → (∀ t : Fin 64, set t = false) → (∀ t : Fin 64, w.getLsbD t.val = true → ¬ coming t) → traps (.twany m)) ∧
    ((∀ t : Fin 64, set t = false) → (∃ t : Fin 64, w.getLsbD t.val = true ∧ coming t) → exec (.twany m) s = .next s) ∧
    (∀ t : Fin 64, set t = true → (∀ u : Fin 64, u < t → set u = false) →
      goes (.tfirst d m) (seen (h.setReg .pacer d (BitVec.ofNat 64 t.val)) fun u => u == t)) ∧
    ((∀ t : Fin 64, set t = false) → goes (.tfirst d m) ((h.setReg .pacer d 64).after h.pacer.stores)) ∧
    ((∀ t : Fin 64, w.getLsbD t.val = true → ¬ coming t) → exec (.tclr m) s = .next (s.put (({ h with pacer := { h.pacer with
      tagmap := h.pacer.tagmap &&& ~~~ w
      tagerr := h.pacer.tagerr &&& ~~~ w } } : Hart).after h.pacer.stores))) ∧
    ((∃ t : Fin 64, w.getLsbD t.val = true ∧ coming t) → traps (.tclr m)) ∧
    ((∀ q : Fin 4, qm.val.testBit q.val = true → h.pacer.engines[q] = []) → goes (.qfence qm)
      (seen h fun t => h.pacer.wrote.any fun x => x.tag == t && qm.val.testBit x.queue.val)) ∧
    ((∃ q : Fin 4, qm.val.testBit q.val = true ∧ h.pacer.engines[q] ≠ []) → exec (.qfence qm) s = .next s))

/-- The Shuttle and the cache operations (R109, R114, R116, R117, R130, R135): the head of a queue starts; a part of the bytes of a `CPY`, none or
all of them, may land at its destination before it completes, and of each aligned word of the source that went into them the rest is kept as it was read (R130); it then leaves the source's bytes, as kept, there and nothing else changed, and its tag
set, for the core that issued it. `CPY2` leaves row j of its source in row j of its destination, `CPYX` the table row that entry j of its index list names, here with
no destination over a source or the list: under the swizzle chunk c of 16 bytes of row j at the chunk c XOR j of its 16 (R118). A `CPYX` index at or above N leaves a row of zeros, an index that is poison a row of poison, and either sets
`tagerr` (R119); `FCWB`
leaves no dirty line of its range, `FCINV` no line of it in the L1 or the die's far cache. Where the spec leaves a choice, the model's: log 8. -/
def Obligations.EnginesRun : Prop :=
  ∀ (s : State) (i : Nat) (h : Hart) (q : Fin 4) (c : EngineCmd) (rest : List EngineCmd),
    s.harts[i]? = some h → h.mode = .running → s.mgmt.recoveries = [] → h.pacer.engines[q] = c :: rest →
    s.l1.Pairwise (fun a b => ¬ (a.core = b.core ∧ a.line = b.line)) →
    let at' := { h with core := c.core }
    let asRead := fun (loc : Nat) => ((c.kept.find? fun x => x.1 == loc).map fun x => x.2.1).getD (Memory.read s.mem loc)
    let place := fun (sw : Bool) (j y : Nat) =>
      if sw = true then (y / 16 / 16 * 16 + (y / 16 % 16 ^^^ j % 16)) * 16 + y % 16 else y
    let copies := fun (d a n ld la : Nat) => q = 0 ∧ c.op = .copy d a n ∧ c.failed = false ∧ 0 < n ∧ a % 4096 + n ≤ 4096 ∧
      d % 4096 + n ≤ 4096 ∧ translate s c.core h.part (BitVec.ofNat 64 a) .engineRead true = .ok (la, false) ∧
      translate s c.core h.part (BitVec.ofNat 64 d) .engineWrite true = .ok (ld, false) ∧ a < 2 ^ 64 ∧ d < 2 ^ 64 ∧
      (la + n ≤ ld ∨ ld + n ≤ la) ∧ (∀ p ∈ s.poison, p < la ∨ la + n ≤ p) ∧ s.memoryOk
    (c.started = false → ∃ (t : State) (c' : EngineCmd), exec (.engineCommandStart i q) s = .next t ∧
      t.harts = s.harts.set i { h with pacer := { h.pacer with engines := h.pacer.engines.set q (c' :: rest) } } ∧
      c'.started = true ∧ c'.op = c.op ∧ c'.core = c.core ∧ c'.tag = c.tag ∧
      (copyRows c.op = none → gatherOp c.op = none → t.mem = s.mem) ∧
      (∀ d a n ld la, copies d a n ld la → c.kept = [] → c'.failed = false ∧
        (∀ k, k < n → Memory.read t.mem (ld + k) =
          if inRanges c'.landed (ld + k) = true then Memory.read s.mem (la + k) else Memory.read s.mem (ld + k)) ∧
        (∀ x, x < ld ∨ ld + n ≤ x → Memory.read t.mem x = Memory.read s.mem x) ∧
        ((∀ x ∈ c'.kept, ∃ k, k < n ∧ x = (la + k, Memory.read s.mem (la + k), false)) ∧
          ∀ k j, k < n → j < n → inRanges c'.landed (ld + k) = true → (la + j) / 8 = (la + k) / 8 → ∃ x ∈ c'.kept, x.1 = la + j))) ∧
    (c.started = true → c.token = none →
      (∀ (d a n ld la : Nat), copies d a n ld la → c.declined = false → c.wrote = [] → (∀ x ∈ c.kept, x.2.2 = false) →
        (c.plan = none ∨ ∃ odd, c.plan = some ([⟨[⟨la, n, false⟩], [⟨ld, n, false⟩], 0, none⟩], odd)) →
        ∃ t, exec (.shuttleComplete i) s = .next t ∧ t.harts = s.harts.set i (h.completed 0 c.tag false [(ld, n)]) ∧
          (∀ k, k < n → Memory.read t.mem (ld + k) =
            if inRanges c.landed (ld + k) = true then Memory.read s.mem (ld + k) else asRead (la + k)) ∧
          ∀ x, x < ld ∨ ld + n ≤ x → Memory.read t.mem x = Memory.read s.mem x) ∧
      (∀ (d a sp dp : Word) (rows n : Nat) (sw : Bool) (ld la : Nat → Nat),
        q = 0 → c.op = .copy2 d a rows n sp dp sw → s.memoryOk → 0 < n → (sw = true → n % 256 = 0) →
        c.failed = false → c.declined = false → c.wrote = [] → (∀ x ∈ c.kept, x.2.2 = false) →
        (∀ j, j < rows → (rowVa a sp j).toNat % 4096 + n ≤ 4096 ∧ (rowVa d dp j).toNat % 4096 + n ≤ 4096 ∧
          translate s c.core h.part (rowVa a sp j) .engineRead true = .ok (la j, false) ∧
          translate s c.core h.part (rowVa d dp j) .engineWrite true = .ok (ld j, false) ∧ ∀ p ∈ s.poison, p < la j ∨ la j + n ≤ p) →
        (∀ j k, j < rows → k < rows → (la j + n ≤ ld k ∨ ld k + n ≤ la j) ∧ (j < k → ld j + n ≤ ld k ∨ ld k + n ≤ ld j)) →
        (c.plan = none ∨ ∃ odd,
          c.plan = some ((List.range rows).map fun j => ⟨[⟨la j, n, false⟩], [⟨ld j, n, false⟩], j, none⟩, odd)) →
        ∃ t, exec (.shuttleComplete i) s = .next t ∧
          t.harts = s.harts.set i (h.completed 0 c.tag false ((List.range rows).map fun j => (ld j, n))) ∧
          (∀ j y, j < rows → y < n → Memory.read t.mem (ld j + y) =
            if inRanges c.landed (ld j + y) = true then Memory.read s.mem (ld j + y) else asRead (la j + place sw j y)) ∧
          ∀ x, (∀ j, j < rows → x < ld j ∨ ld j + n ≤ x) → Memory.read t.mem x = Memory.read s.mem x) ∧
      (∀ (d dp b tp list : Word) (n count limit : Nat) (sw : Bool) (li ld la : Nat → Nat),
        let idx := fun (j : Nat) => leNat (Memory.readAll s.mem (li j) 4)
        let bad := fun (j : Nat) => s.poison.any fun p => decide (li j ≤ p) && decide (p < li j + 4)
        let odd := fun (j : Nat) => bad j || decide (limit ≤ idx j)
        let row := fun (j : Nat) => (⟨if odd j = true then [] else [⟨la j, n, false⟩], [⟨ld j, n, false⟩], j,
          if odd j = true then some (0, bad j) else none⟩ : RowJob)
        let found := fun (va : Word) (k : AccessKind) (loc : Nat) =>
          ∀ m, translate { s with mem := m } c.core h.part va k true = .ok (loc, false)
        let first := List.range (min 8 count)
        q = 0 → c.op = .copyX d dp b tp n list count limit sw → s.memoryOk → 0 < n → (sw = true → n % 256 = 0) →
        c.failed = false → c.declined = false → c.batch = 0 → c.wrote = [] → (∀ x ∈ c.kept, x.2.2 = false) →
        (∀ j, j < count → found (list + BitVec.ofNat 64 (4 * j)) .engineRead (li j) ∧
          (rowVa d dp j).toNat % 4096 + n ≤ 4096 ∧ found (rowVa d dp j) .engineWrite (ld j) ∧
          (odd j = false → (rowVa b tp (idx j)).toNat % 4096 + n ≤ 4096 ∧ found (rowVa b tp (idx j)) .engineRead (la j) ∧
            ∀ p ∈ s.poison, p < la j ∨ la j + n ≤ p)) →
        (∀ j k, j < count → k < count → (la j + n ≤ ld k ∨ ld k + n ≤ la j) ∧ (li j + 4 ≤ ld k ∨ ld k + n ≤ li j) ∧
          (j < k → ld j + n ≤ ld k ∨ ld k + n ≤ ld j)) →
        (∀ p ∈ c.sources, ∀ j, j < count → p.loc + p.len ≤ ld j ∨ ld j + n ≤ p.loc) →
        (∀ x, inRanges c.landed x = true → ∃ j ∈ first, ld j ≤ x ∧ x < ld j + n) →
        (c.plan = none ∨ c.plan = some (first.map row, first.any odd)) →
        ∃ t, exec (.shuttleComplete i) s = .next t ∧
          t.harts = s.harts.set i (h.completed 0 c.tag ((List.range count).any odd) ((List.range count).map fun j => (ld j, n))) ∧
          (∀ j y, j < count → y < n →
            (inRanges c.landed (ld j + y) = true → Memory.read t.mem (ld j + y) = Memory.read s.mem (ld j + y)) ∧
            (inRanges c.landed (ld j + y) = false →
              Memory.read t.mem (ld j + y) = (if odd j = true then 0 else asRead (la j + place sw j y)) ∧
              (bad j = true → ld j + y ∈ t.poison))) ∧
          ∀ x, (∀ j, j < count → x < ld j ∨ ld j + n ≤ x) → Memory.read t.mem x = Memory.read s.mem x) ∧
      (∀ (a n : Nat) (inv : Bool), q = 3 → c.op = (if inv then .fcinv a n else .fcwb a n) →
        let meets := fun (line : Nat) => ∃ r ∈ cacheSpans s at' a n, line * 64 < r.1 + r.2 ∧ r.1 < line * 64 + 64
        ∃ t, exec (.cacheOpComplete i) s = .next t ∧ t.harts = s.harts.set i (h.completed 3 none false []) ∧
          (∀ l ∈ t.l1, l.core = c.core → meets l.line → inv = false ∧ l.dirty = []) ∧
          (inv = true → ∀ l ∈ t.farCache, l.die = coreDie c.core → ¬ meets l.line)))

/-- Photo-finish and Seam (R122, R123, R125 to R127), on data without poison: Photo-finish writes the values, their indices and the
header R123 lays out, top-k in the order of R122, a scan in the order of the region; Seam combines the buffers, which nothing has stored to while it ran, element by element by the
fixed tree and then writes the flag word with the engine's next SEQ. Where the spec leaves a choice, the model's: log 8, 37. -/
def Obligations.NearDataEngines : Prop :=
  ∀ (s : State) (i : Nat) (h : Hart) (c : EngineCmd) (rest : List EngineCmd) (t : ElemType),
    s.harts[i]? = some h → h.mode = .running → s.mgmt.recoveries = [] → s.poison = [] → c.started = true → c.token = none → c.declined = false →
    let at' := { h with core := c.core }
    let w := width t / 8
    (∀ (b : PfBlock) (region : List Span), c.op = .photo b → h.pacer.engines[(1 : Fin 4)] = c :: rest → ElemType.ofCode b.ty = some t →
      b.mask = false → pfSpans s at' (cutRange 4096 b.src (b.count * w)) = .ok region →
      let elt := fun (k : Nat) => BitVec.ofNat 64 (leNat (homeBytes s region (k * w) w).1)
      let ks := (List.range b.count).filter fun k => !isNanElt t (elt k) &&
        (b.op != 2 || (eltCond (condOf b.cond) t (elt k) (BitVec.ofNat 64 b.thresh)).1)
      let q := orderPf b t (ks.map fun k => (elt k, k))
      let top := q.take b.limit
      let dst := 2 ^ 52 + (b.dst - 0xF000000000000)
      let values := top.flatMap fun x => leBytes w x.1.toNat
      let indices := top.flatMap fun x => leBytes 4 x.2
      let nans := (List.range b.count).any fun k => isNanElt t (elt k)
      let header := leBytes 64 (min b.limit q.length + min q.length (2 ^ 32 - 1) * 2 ^ 32 + bitNat nans 64 +
        bitNat (b.op == 2 && decide (b.limit < q.length)) 65)
      ∃ s', exec (.photoFinishComplete i) s = .next s' ∧
        s'.mem = Memory.writeAll (Memory.writeAll (Memory.writeAll s.mem (dst + 64) values) (dst + 64 + pfValueBytes b) indices) dst header ∧
        s'.harts = s.harts.set i (h.completed 1 c.tag false
          [(dst, 64 + values.length), (dst + 64 + pfValueBytes b, indices.length)])) ∧
    (∀ (b : SeamBlock) (bufs : List (List Span)) (floc dloc : Nat) (cd : Bool), c.op = .seam b → c.refused = false →
      h.pacer.engines[(2 : Fin 4)] = c :: rest → ElemType.ofCode b.ty = some t → 0 < w → 0 < b.count → b.flagVal < 2 ^ 16 →
      let n := b.count * w
      flagLoc s at' b = .ok floc → seamBuffers s at' b n (List.range b.nbuf) = .ok bufs →
      probeRange s at' .engineWrite (BitVec.ofNat 64 b.dst) n = .ok [⟨dloc, n, cd⟩] → dloc % w = 0 →
      (∀ a ∈ ((List.range b.nbuf).map (seamBuffer b) ++ [b.dst]).flatMap (fun a => (cutRange 4096 a n).map (·.1)),
        localStack s at' a = some (seamEngine s at' b)) →
      (∀ e, e < b.count → (seamEltAt s b t bufs [⟨dloc, n, cd⟩]
        ((s.seams.filter fun x => x.hart == i).flatMap SeamWatch.writes) e).undef = false) → (floc + 8 ≤ dloc ∨ dloc + n ≤ floc) → s.memoryOk →
      let value := fun (e : Nat) => seamElt b.op t (bufs.map fun sp => BitVec.ofNat 64 (leNat (homeBytes s sp (e * w) w).1))
      let flags := (List.range b.count).foldl (fun f e => f ||| (value e).2) (0 : Flags)
      let err := bitNat (flags &&& flagNV != 0) 4 + bitNat (flags &&& flagOF != 0) 5
      let k : Fin 24 := Fin.ofNat 24 (seamEngine s at' b)
      ∃ s', exec (.seamComplete i) s = .next s' ∧ s'.seamSeq = s.seamSeq.set k (s.seamSeq[k] + 1) ∧
        s'.harts = s.harts.set i (h.completed 2 c.tag false [(dloc, n), (floc, 8)]) ∧
        leNat (Memory.readAll s'.mem floc 8) = b.flagVal + err * 2 ^ 16 + (s.seamSeq[k] + 1).toNat * 2 ^ 32 ∧
        (∀ e, e < b.count → leNat (Memory.readAll s'.mem (dloc + e * w) w) = (value e).1.toNat % 2 ^ (8 * w)) ∧
        ∀ x, (x < dloc ∨ dloc + n ≤ x) → (x < floc ∨ floc + 8 ≤ x) → Memory.read s'.mem x = Memory.read s.mem x)

/-! ## Synchronisation, traps and supervisor instructions -/

/-- Fences (R269, R326): with no unit under recovery and no load in flight each goes on at once, its side's stores performed: after
`FENCE.vv` and `FENCE.vs` none of the vector side is on its way, after `FENCE.sv` none of the scalar side and no dirty line of its core is left in the L1, after `FENCE.all` none at all and no line of its core; a line that `FENCE.vs` leaves there holds stored bytes, its others of the same aligned words as they stand at their home, the rest as a new read finds them, at
their home or in the die's copy (R329); the effect is the same at every scope, which is the model's choice (log 32); a store performed reads back from its home. The gang barrier and waiting on memory (R43, R140, R267, R270, R271): a thread that arrives stands at the barrier; once every
thread of every hart of the gang has arrived or left, each that waits goes on. `WAITM` goes on when its test holds; else the Pacer
sleeps on the word's line and goes on when that line has been written or the time is up. Where the spec leaves a choice, the model's: log 32, 33. -/
def Obligations.FencesAndBarriers : Prop :=
  (∀ (s : State) (h : Hart) (sc : Scope),
    s.runs h .pacer → s.mgmt.recoveries = [] → h.pacer.loads = [] → s.memoryOk →
    s.l1.Pairwise (fun a b => ¬ (a.core = b.core ∧ a.line = b.line)) →
    let goes := fun (i : Instr) (left : StoreFlight → Bool) (p : State → Prop) =>
      ∃ t, exec i s = .next t ∧ t.harts = s.harts.set s.cur.hart (h.after (h.pacer.stores.filter left)) ∧ p t ∧
        (∀ f, h.pacer.stores = [f] → left f = false → (∀ l ∈ s.l1, l.dirty = []) →
          Memory.readAll t.mem f.loc f.data.length = f.data ∧
          ∀ x, x < f.loc ∨ f.loc + f.data.length ≤ x → Memory.read t.mem x = Memory.read s.mem x)
    let clean := fun (t : State) => ∀ l ∈ t.l1, l.core = h.core → l.dirty = []
    goes (.fenceSv sc) (fun f => f.side != .scalar) clean ∧
    goes (.fenceVs sc) (fun f => f.side != .vector) (fun t => ∀ l ∈ t.l1, l.core = h.core →
      l.dirty ≠ [] ∧ ∀ o < 64, o ∉ l.dirty →
        let home := l.bytes.getD o 0 = Memory.read t.mem (l.line * 64 + o)
        let copy := ∃ f ∈ s.farCache, f.die = coreDie h.core ∧ f.line = l.line ∧ l.bytes.getD o 0 = f.bytes.getD o 0
        (home ∨ copy) ∧ ((∃ d ∈ l.dirty, d / 8 = o / 8) → home)) ∧
    goes (.fenceVv sc) (fun f => f.side != .vector) (fun _ => True) ∧
    goes (.fenceAll sc) (fun _ => false) (fun t => ∀ l ∈ t.l1, l.core ≠ h.core)) ∧
  ((∀ (s : State) (h : Hart) (t : Thread), s.runs h t → (h.th t).inGbar = false → s.mgmt.recoveries = [] →
    (t = .pacer → h.pacer.loads = [] ∧ h.pacer.stores = []) →
    (t = .anchor → h.anchor.viq = [] ∧ h.anchor.mqueue = [] ∧ h.anchor.deferredErr = none) →
    ∃ s', exec .gbar s = .next s' ∧ s'.harts = s.harts.set s.cur.hart (h.setTh t { h.th t with inGbar := true })) ∧
  (∀ (s : State) (p : Fin 8) (gang : BitVec 32), s.mgmt.recoveries = [] →
    let mine := fun (h : Hart) => h.part = p ∧ h.gang = gang ∧ h.mode ≠ .retired
    let there := fun (th : ThreadState) => th.inGbar = true ∨ th.hexit = true
    let goOn := fun (th : ThreadState) => if th.inGbar then { th with inGbar := false, pc := th.pc + 8 } else th
    (∃ h ∈ s.harts, mine h) → (∀ h ∈ s.harts, mine h → h.mode = .running ∧ there h.pacer.th ∧ there h.anchor.th) →
    ∃ s', exec (.gbarComplete p gang) s = .next s' ∧ ∀ (j : Nat) (h : Hart), s.harts[j]? = some h →
      (mine h → s'.harts[j]? = some { h with
        pacer := { h.pacer with th := goOn h.pacer.th }
        anchor := { h.anchor with th := goOn h.anchor.th } }) ∧
      (¬ mine h → s'.harts[j]? = some h)) ∧
  (∀ (s : State) (p : Fin 8) (gang : BitVec 32) (j : Nat) (h : Hart), s.harts[j]? = some h → h.part = p → h.gang = gang →
    h.mode = .running → h.pacer.th.inGbar = false → h.pacer.th.hexit = false → exec (.gbarComplete p gang) s = .next s) ∧
  (∀ (s : State) (h : Hart) (s1 s2 : Reg) (loc : Nat) (cached eq : Bool), s.runs h .pacer → (h.reg .pacer s1).toNat % 8 = 0 →
    translate s h.core h.part (h.reg .pacer s1) .load false = .ok (loc, cached) → regionOf loc = .far ∨ regionOf loc = .near →
    h.pacer.stores = [] → (∀ p ∈ s.poison, p < loc ∨ loc + 8 ≤ p) →
    s.mgmt.recoveries = [] → (∀ l ∈ s.l1, l.core = h.core → l.dirty = []) →
    let i : Instr := if eq then .waitmEq s1 s2 else .waitmNe s1 s2
    let holds := (leNat (Memory.readAll s.mem loc 8) = (h.reg .pacer s2).toNat) ↔ eq = true
    ∃ t, exec i s = .next t ∧ t.mem = s.mem ∧
      (holds → t.harts = s.harts.set s.cur.hart (h.after []) ∧ t.watchers = s.watchers) ∧
      (¬ holds → t.harts = s.harts.set s.cur.hart { h with pacer := { h.pacer with asleep := true } } ∧
        t.watchers = s.watchers ++ [⟨.hart s.cur.hart, loc / 64, false, s.now⟩])) ∧
  (∀ (s : State) (i : Nat) (h : Hart) (w : Watcher), s.harts[i]? = some h → w ∈ s.watchers → w.who = .hart i → h.pacer.asleep = true →
    let woken := { s with
      watchers := s.watchers.filter fun w => w.who != .hart i
      harts := s.harts.set i { h with pacer := { h.pacer with asleep := false, th := { h.pacer.th with pc := h.pacer.th.pc + 8 } } } }
    (w.woken = true → exec (.waitmWake i) s = .next woken) ∧ exec (.waitmTimeout i) s = .next woken ∧
    ((∀ x ∈ s.watchers, x.who = .hart i → x.woken = false) → exec (.waitmWake i) s = .next s)))

/-- Leaving (R44, R45, R272, R274): `YIELD` only goes on; `VREL` ends a thread's use of vector state, and once both threads have
released it every register is dead and every row gone; `HEXIT` stops the thread there, the Anchor once its vector queue is empty; a hart whose threads have both left retires when its matrix queue is empty and no tag is outstanding, its claim and its matrix context released, its stores performed and its queues empty; its gang stays while another of its harts is not retired, and is gone, its save slots free, with the last. A matrix error found before is taken at `HEXIT`, or at the retirement. Where the spec leaves a choice, the model's: log 40, 73. -/
def Obligations.Leaving : Prop :=
  (∀ (s : State) (h : Hart) (t : Thread), s.runs h t →
    exec .yield s = .next (s.put (h.advance t)) ∧
    (s.mgmt.recoveries = [] → (t = .pacer → h.pacer.loads = [] ∧ h.pacer.stores = []) → (t = .anchor → h.anchor.viq = []) →
      let rel := h.setTh t { h.th t with vrel := true }
      let dead : VReg := ⟨none, false, [], []⟩
      let h' := if rel.pacer.th.vrel = true ∧ rel.anchor.th.vrel = true then { rel with
          anchor := { rel.anchor with vregs := Vector.replicate 32 dead, kregs := Vector.replicate 8 ⟨false, []⟩ }
          lq := Vector.replicate 4 []
          sq := Vector.replicate 2 [] } else rel
      ((h.th t).vrel = false → exec .vrel s = .next (s.put (h'.advance t))) ∧
      ((h.th t).vrel = true → exec .vrel s = .next (refuseWord s s.cur.hart h t 0x01)) ∧
      ((t = .anchor → h.anchor.deferredErr = none) →
        let h'' := if (h.th t).vrel = true then h else h'
        exec .hexit s = .next (s.put (h''.setTh t { h''.th t with hexit := true })))) ∧
    (t = .anchor → (h.anchor.viq ≠ [] → exec .hexit s = .next s) ∧
      (h.anchor.viq = [] → h.anchor.deferredErr ≠ none → exec .hexit s = .next (takeDeferred s s.cur.hart)))) ∧
  (∀ (s : State) (i : Nat) (h : Hart), s.harts[i]? = some h → h.mode = .running → s.mgmt.recoveries = [] →
    let mine := fun (x : Hart) => x.part = h.part ∧ x.gang = h.gang
    let others := ∃ j x, j ≠ i ∧ s.harts[j]? = some x ∧ mine x ∧ x.mode ≠ .retired
    let left := fun (held : Bool) => { h with
      mode := .retired
      slotHeld := held
      pacer := { h.pacer with stores := [] }
      anchor := { h.anchor with claim := false }
      lq := Vector.replicate 4 []
      sq := Vector.replicate 2 []
      qa := []
      qc := [] }
    let may := h.pacer.th.hexit = true ∧ h.anchor.th.hexit = true ∧ h.anchor.mqueue = [] ∧
      ∀ q : Fin 4, ∀ c ∈ h.pacer.engines[q], c.tag = none
    (may → h.anchor.deferredErr = none → ∃ t, exec (.hartRetire i) s = .next t ∧ t.queues = s.queues ∧ t.harts.length = s.harts.length ∧
      (∀ c, c ∈ t.contexts ↔ c ∈ s.contexts ∧ c.2 ≠ i) ∧
      (others → t.gangs = s.gangs ∧ t.harts = s.harts.set i (left h.slotHeld)) ∧
      (¬ others → (∀ g, g ∈ t.gangs ↔ g ∈ s.gangs ∧ ¬ (g.part = h.part ∧ g.gangid = h.gang)) ∧ t.harts[i]? = some (left false) ∧
        ∀ j x, j ≠ i → s.harts[j]? = some x →
          (mine x → t.harts[j]? = some { x with slotHeld := false }) ∧ (¬ mine x → t.harts[j]? = some x))) ∧
    (may → h.anchor.deferredErr ≠ none → exec (.hartRetire i) s = .next (takeDeferred s i)) ∧
    (¬ may → exec (.hartRetire i) s = .next s))

/-- The return from a trap (R283), in supervisor mode: the thread goes on at `sepc`, and its PC is all that changes. -/
def Obligations.TrapReturn : Prop :=
  ∀ (s : State) (h : Hart) (t : Thread), s.runs h t → h.super = true →
    ∃ h' : Hart, exec .eret s = .next (s.put h') ∧ (h'.th t).pc = (h.th t).sepc ∧
      h'.setTh t { h'.th t with pc := (h.th t).pc } = h

/-- Traps a program raises, and the return (R278, R281, R283): with `trapvec` bit 0 set, `TRAP` and `BRK` enter the thread's own
handler at `trapvec` bits 63 to 3, with PC + 8 and the cause in registers 31 and 30 in user mode, in `sepc` and `scause` in supervisor
mode; `ERET` goes to `sepc`. In user mode every supervisor instruction is an illegal word. Taking an exception to the supervisor (R276, R277, R385): with PSAVE.EN set the hart is trapped, both threads' scalar registers, the
Anchor's masks and the scalar queues as they were, every access of its Pacer performed; the Pacer's PC is the one it stands at, or the next where what it stood at is done but for its waiting; a save area that ends beyond far memory cannot be written and stops the device (R406). `TRAP`, `BRK` with `trapvec` bit 0 clear and `HCALL` take it with the PC behind the
instruction. Where the spec leaves a choice, the model's: log 29. -/
def Obligations.Traps : Prop :=
  (∀ (s : State) (h : Hart) (t : Thread) (imm : BitVec 20) (d s1 s2 : Reg) (num : Fin 4096),
    s.runs h t →
    let th := h.th t
    let handler := BitVec.ofNat 64 (th.trapvec.toNat / 8 * 8)
    let enters := fun (i : Instr) (cause : Word) =>
      (h.super = false → exec i s = .next (s.put (((h.setReg t 31 (th.pc + 8)).setReg t 30 cause).goto t handler))) ∧
      (h.super = true → exec i s = .next (s.put ((h.setTh t { th with sepc := th.pc + 8, scause := cause }).goto t handler)))
    (th.trapvec.getLsbD 0 = true →
      enters (.trap imm) (BitVec.ofNat 64 (0x0D + imm.toNat * 2 ^ 12)) ∧
      enters (.brk imm) (BitVec.ofNat 64 (0x0D + 2 ^ 8 + imm.toNat * 2 ^ 12))) ∧
    (h.super = true → exec .eret s = .next (s.put (h.goto t th.sepc))) ∧
    (h.super = false → (∀ i ∈ ([.eret, .sgetc d num, .ssetc num s1] : List Instr), exec i s = .next (refuseWord s s.cur.hart h t 0x01)) ∧
      (t = .pacer → ∀ i ∈ ([.ktlbiVa s1 s2, .ktlbiPart s2, .ktlbiAll] : List Instr),
        exec i s = .next (trapAt s s.cur.hart h .pacer 0x01 0)))) ∧
  ((∀ (s : State) (i : Nat) (h : Hart) (info : TrapInfo), s.harts[i]? = some h → h.mode = .running →
    (s.parts[h.part].psave).getLsbD 0 = true → s.mgmt.recoveries = [] → s.mgmt.fatal = false →
    (∀ g ∈ s.gangs, g.part = h.part → g.gangid = h.gang → g.mode = .resident) →
    let t := deliverTrap s i info
    t.harts.length = s.harts.length ∧
    ∀ h1, (quiesce (modAnchor s i abandonOpen) i).harts[i]? = some h1 →
    let area := saveArea h1 (some info) h.stopHard
    let loc := slotLoc s.parts[h.part].psave h.slot
    (1536 * 2 ^ 30 < loc + area.length → t.mgmt.fatal = true ∧ ∀ h' ∈ t.harts, h'.mode = .retired) ∧
    (loc + area.length ≤ 1536 * 2 ^ 30 → ∃ h', t.harts[i]? = some h' ∧ h'.mode = .trapped ∧ h'.trapHeld = true ∧ h'.resumeOk = false ∧ h'.area = area ∧
      h'.pacer.th.pc = (if h.pacer.asleep = true ∨ (h.pacer.waitLoad.isSome = true ∧ h.pacer.reissue = false ∧ h.pacer.th.tokens ≠ [])
        then h.pacer.th.pc + (if h.pacer.asleep = true ∧ h.pacer.waitLoad.isSome = true ∧ h.pacer.reissue = false ∧
          h.pacer.th.tokens ≠ [] then 16 else 8) else h.pacer.th.pc) ∧
      h'.pacer.th.regs = h.pacer.th.regs ∧ h'.anchor.th.regs = h.anchor.th.regs ∧ h'.anchor.th.masks = h.anchor.th.masks ∧
      h'.pacer.stores = [] ∧ h'.pacer.loads = [] ∧ h'.qa = h.qa ∧ h'.qc = h.qc)) ∧
  (∀ (s : State) (h : Hart) (t : Thread) (imm : BitVec 20), s.runs h t →
    let next := h.advance t
    ((h.th t).trapvec.getLsbD 0 = false →
      exec (.trap imm) s = .next (deliverTrap (s.put next) s.cur.hart { code := 0x0D, thread := t, iaddr := (h.th t).pc, imm := imm }) ∧
      exec (.brk imm) s = .next (deliverTrap (s.put next) s.cur.hart
        { code := 0x0D, thread := t, iaddr := (h.th t).pc, brk := true, imm := imm })) ∧
    (s.mgmt.recoveries = [] → ∃ s', exec (.hcall imm) s = .next (deliverTrap s' s.cur.hart
        { code := 0x0E, thread := t, iaddr := (h.th t).pc, imm := imm }) ∧
      ∃ h', s'.harts[s.cur.hart]? = some h' ∧ (h'.th t).pc = (h.th t).pc + 8 ∧ h'.pacer.stores = [] ∧ h'.pacer.loads = [])))

/-- Supervisor registers and TLB invalidation (R282, R284, R397), in supervisor mode: `SGETC` reads, `SSETC` writes `sepc`, `scause`,
`nbconf` and `fptrap` (five bits) and leaves the read-only ones; any other number is illegal. `KTLBI` removes the translations of a page,
of a partition or of all; a partition above 7 raises 0x07. -/
def Obligations.SupervisorInstructions : Prop :=
  (∀ (s : State) (h : Hart) (t : Thread) (d s1 : Reg), s.runs h t → h.super = true →
    let x := h.reg t s1
    let th := h.th t
    let reads := fun (num : Fin 4096) (w : Word) => exec (.sgetc d num) s = .next (s.put ((h.setReg t d w).advance t))
    let writes := fun (num : Fin 4096) (s' : State) (h' : Hart) => exec (.ssetc num s1) s = .next (s'.put (h'.advance t))
    reads 0x801 th.sepc ∧ reads 0x802 th.scause ∧ reads 0x880 (confOf s h.core) ∧ reads 0x881 s.parts[h.part].fptrap ∧
    reads 0x890 (BitVec.ofNat 64 h.part.val) ∧ reads 0x891 (BitVec.ofNat 64 h.core) ∧
    writes 0x801 s (h.setTh t { th with sepc := x }) ∧ writes 0x802 s (h.setTh t { th with scause := x }) ∧
    writes 0x880 (setConf s h.core x) h ∧
    writes 0x881 { s with parts := s.parts.set h.part { s.parts[h.part] with fptrap := BitVec.ofNat 64 (x.toNat % 32) } } h ∧
    writes 0x890 s h ∧ writes 0x891 s h ∧
    (∀ num : Fin 4096, num.val ∉ [0x801, 0x802, 0x880, 0x881, 0x890, 0x891] →
      exec (.sgetc d num) s = .next (refuseWord s s.cur.hart h t 0x01) ∧ exec (.ssetc num s1) s = .next (refuseWord s s.cur.hart h t 0x01))) ∧
  (∀ (s : State) (h : Hart) (s1 s2 : Reg), s.runs h .pacer → h.super = true →
    let p := (h.reg .pacer s2).toNat
    let va := (h.reg .pacer s1).toNat
    let quiet := s.mgmt.recoveries = [] ∧ ∀ g ∈ s.harts, g.pacer.loads = [] ∧ g.pacer.stores = []
    let drops := fun (i : Instr) (gone : TlbEntry → Prop) => ∃ t, exec i s = .next t ∧
      t.harts = s.harts.set s.cur.hart (h.advance .pacer) ∧ (∀ e ∈ t.tlb ++ t.walkCache, ¬ gone e) ∧
      (∀ e ∈ s.tlb, ¬ gone e → e ∈ t.tlb)
    (8 ≤ p → exec (.ktlbiVa s1 s2) s = .next (trapAt s s.cur.hart h .pacer 0x07 0) ∧
      exec (.ktlbiPart s2) s = .next (trapAt s s.cur.hart h .pacer 0x07 0)) ∧
    (quiet → p < 8 → drops (.ktlbiVa s1 s2) (fun e => e.part.val = p ∧ va / 2 ^ e.leaf.bits = e.page) ∧
      drops (.ktlbiPart s2) fun e => e.part.val = p) ∧
    (quiet → drops .ktlbiAll fun _ => True))

/-! ## The Starter and pre-emption -/

/-- Putting packets into a launch queue (R273, R370, R373, R376 to R378): 64 bytes at offset 0 that pass the checks of R373 in an enabled
queue take the next number and their place; with 256 packets there OVF counts them; anything else is counted in REJ. `GLAUNCH` reads
its packet and answers 0 accepted, 1 full, 2 failed checks, 3 disabled or no such queue, and counts nothing. The check of a packet at the head of its queue (R371, R372, R374, R382): from the entry record, read at its home, the entry PCs; from
the packet, its arguments; the wait condition on the watched word decides HWAIT, and its line is watched; it is read again at a recheck. A record whose class
is not the packet's, whose FVER is above 1 or whose PC is no multiple of 8 removes the packet. Where the spec leaves a choice, the model's: log 42. -/
def Obligations.LaunchQueues : Prop :=
  ((∀ (s : State) (p : Fin 8) (k : Packet) (system super : Bool),
    packetOk s p system super k = true ↔
      k.bits 63 59 = 0 ∧ k.bits 127 126 = 0 ∧ k.bits 2 0 < 6 ∧
      k.bits 55 52 ≤ (if k.bits 58 58 = 1 then 8 else if k.bits 57 56 = 0 then 6 else 4) ∧
      (k.bits 58 58 = 1 → k.bits 191 128 % 64 = 0) ∧ (k.bits 57 56 ≠ 0 → k.bits 447 384 % 8 = 0) ∧
      1 ≤ k.bits 125 112 ∧ k.bits 125 112 ≤ (coresOf s p).length * hartsPerCore (k.bits 2 0) ∧
      (k.bits 4 4 = 1 ∨ k.bits 5 5 = 1 → system = true) ∧
      (k.bits 4 4 = 1 ∨ k.bits 5 5 = 1 ∨ system = true → super = true)) ∧
  (∀ (s : State) (fn : Fn) (p : Fin 8) (q : Fin 64) (data : List Byte),
    s.mgmt.fatal = false → s.mgmt.running = true → s.mgmt.recov = false → (fn = .pf ∨ fn = .vf p) →
    (∀ x ∈ s.outside, x.1 ≠ .function fn) →
    let x := queueAt s p q
    let m := if x.seq = 2 ^ 24 - 1 then 1 else x.seq + 1
    let id := BitVec.ofNat 32 (q.val * 2 ^ 24 + m)
    let takes := data.length = 64 ∧ x.en = true ∧ packetOk s p (x.cls == 3) true ⟨data, 0, fn == .pf⟩ = true ∧ (x.cls = 3 → fn = .pf)
    let write := fun off => exec (.launchPacketWrite fn p q off data) s
    (takes → x.packets.length < 256 → gangLive s p id = false →
      write 0 = .next (putQueue s { x with packets := x.packets ++ [⟨data, id, fn == .pf⟩], seq := m, last := id })) ∧
    (takes → 256 ≤ x.packets.length → write 0 = .next (putQueue s { x with ovf := x.ovf + 1 })) ∧
    (∀ off < 64, (off ≠ 0 ∨ ¬ takes) → write off = .next (putQueue s { x with rej := x.rej + 1 }))) ∧
  (∀ (s : State) (h : Hart) (d s1 s2 : Reg) (loc : Nat), s.runs h .pacer →
    let va := h.reg .pacer s1
    translate s h.core h.part va .load false = .ok (loc, false) → va.toNat % 64 = 0 → h.pacer.stores = [] → h.pacer.loads = [] →
    s.mgmt.recoveries = [] → (∀ l ∈ s.l1, l.core = h.core → l.dirty = []) → (∀ a ∈ s.poison, a < loc ∨ loc + 64 ≤ a) →
    let bs := Memory.readAll s.mem loc 64
    let q := (h.reg .pacer s2).toNat
    let answers := fun (st : Nat) (queues : List LaunchQueue) => ∃ t : State, exec (.glaunch d s1 s2) s = .next t ∧ t.queues = queues ∧
      t.harts = s.harts.set s.cur.hart ((h.setReg .pacer d (BitVec.ofNat 64 st)).advance .pacer)
    (64 ≤ q → answers 3 s.queues) ∧
    ∀ (qn : Fin 64), qn.val = q →
      let x := queueAt s h.part qn
      let m := if x.seq = 2 ^ 24 - 1 then 1 else x.seq + 1
      let id := BitVec.ofNat 32 (q * 2 ^ 24 + m)
      let ok := packetOk s h.part (x.cls == 3) h.super ⟨bs, 0, false⟩
      (x.en = false → answers 3 s.queues) ∧ (x.en = true → ok = false → answers 2 s.queues) ∧
      (x.en = true → ok = true → 256 ≤ x.packets.length → answers 1 s.queues) ∧
      (x.en = true → ok = true → x.packets.length < 256 → gangLive s h.part id = false →
        answers 0 (putQueue s { x with packets := x.packets ++ [⟨bs, id, false⟩], seq := m, last := id }).queues))) ∧
  (∀ (s : State) (p : Fin 8) (q : Fin 64) (k : Packet) (rest : List Packet) (loc : Nat) (c : Bool),
    let x := queueAt s p q
    x.packets = k :: rest → k.argx = false → s.mgmt.recoveries = [] → (∀ g ∈ s.gangs, ¬ (g.part = p ∧ g.queue = q ∧ g.mode = .saved)) →
    let entry := leNat (Memory.readAll s.mem loc 64)
    let pe := entry % 2 ^ 64
    let ae := entry / 2 ^ 64 % 2 ^ 64
    let good := entry / 2 ^ 128 % 2 ^ 8 = k.cls ∧ entry / 2 ^ 136 % 2 ^ 16 ≤ 1 ∧ pe % 8 = 0 ∧ ae % 8 = 0
    let info : HeadInfo := ⟨BitVec.ofNat 64 pe, BitVec.ofNat 64 ae, (List.range k.argc).map fun n => BitVec.ofNat 64 (k.arg n)⟩
    let watching := fun (wloc : Nat) =>
      { s with watchers := ⟨.head p q, wloc / 64, false, s.now⟩ :: s.watchers.filter fun w => w.who != .head p q }
    let holds := fun (w : Nat) => (k.wcmp = 1 → w = k.wval) ∧ (k.wcmp = 2 → w ≠ k.wval) ∧ (k.wcmp = 3 → k.wval ≤ w)
    (x.head = none → x.token = none → translate s 320 p (BitVec.ofNat 64 k.entry) .load false = .ok (loc, c) →
      (good → k.wcmp = 0 → exec (.headPacketCheck p q) s = .next (putQueue s { x with head := some info, hwait := false })) ∧
      (good → k.wcmp ≠ 0 → watchedOk s p k.waddr = true → ∀ wloc wc,
        translate s 320 p (BitVec.ofNat 64 k.waddr) .load false = .ok (wloc, wc) →
        ∃ w : Bool, exec (.headPacketCheck p q) s = .next (putQueue (watching wloc) { x with head := some info, hwait := w }) ∧
          (w = false ↔ holds (leNat (Memory.readAll s.mem wloc 8)))) ∧
      (¬ good → ∃ t : State, exec (.headPacketCheck p q) s = .next t ∧ (queueAt t p q).packets = rest ∧
        (queueAt t p q).head = none ∧ t.harts = s.harts ∧ (x.rsv = false → t.gangs = s.gangs))) ∧
    (∀ i, x.head = some i → x.token = none → k.wcmp ≠ 0 → watchedOk s p k.waddr = true → ∀ wloc wc,
      translate s 320 p (BitVec.ofNat 64 k.waddr) .load false = .ok (wloc, wc) →
      ∃ w : Bool, exec (.headWaitRecheck p q) s = .next (putQueue (watching wloc) { x with head := some i, hwait := w }) ∧
        (w = false ↔ holds (leNat (Memory.readAll s.mem wloc 8)))))

/-- A round of the Starter (R10, R40, R370, R379): before QUANTUM cycles have passed nothing happens; then the registers come into force,
and a ready head of one hart, alone in its partition, starts: on the lowest place of the partition's first core, both threads at
their entries with the arguments in registers 1 to 8 and COUNT in register 9. Where the spec leaves a choice, the model's: log 40, 41. -/
def Obligations.GangStarts : Prop :=
  ∀ (s : State) (p : Fin 8),
    (s.parts[p].sinceRound < s.parts[p].schedQuantum → exec (.starterRound p) s = .next s) ∧
    ∀ (x : LaunchQueue) (k : Packet) (info : HeadInfo) (core : Nat) (cores : List Nat),
      s.parts[p].schedQuantum ≤ s.parts[p].sinceRound → 0 < s.parts[p].quantum → s.parts[p].held = [] →
      s.mgmt.fatal = false → s.mgmt.running = true → s.mgmt.recov = false → s.mgmt.recoveries = [] →
      s.queues = [x] → x.part = p → x.packets = [k] → x.head = some info → x.token = none → x.hwait = false → x.en = true →
      0 < x.weight → 0 ≤ x.deficit → s.gangs = [] → s.harts = [] →
      (∀ w ∈ s.watchers, w.who ≠ .head p x.q) → k.wcmp = 0 → k.cls < 6 → k.size = 1 → coresOf s p = core :: cores →
      ∃ (t : State) (g : Gang) (h : Hart), exec (.starterRound p) s = .next t ∧ t.gangs = [g] ∧ t.harts = [h] ∧
        g.part = p ∧ g.gangid = k.gangid ∧ g.mode = .resident ∧ g.queue = x.q ∧
        (∀ y ∈ t.queues, y.packets = []) ∧ t.parts[p].schedQuantum = s.parts[p].quantum ∧
        h.part = p ∧ h.gang = k.gangid ∧ h.hartid = 0 ∧ h.gangsize = 1 ∧ h.cls.val = k.cls ∧ h.mode = .running ∧ h.core = core ∧
        h.tracks = (if k.cls ≤ 3 then 1 else if k.cls = 4 then 3 else 15) ∧ h.share = 0 ∧
        h.pacer.th.pc = info.pentry ∧ h.anchor.th.pc = info.aentry ∧ h.pacer.slip = 8 ∧
        ∀ (tt : Thread) (r : Fin 32), h.reg tt r =
          (if 1 ≤ r.val ∧ r.val ≤ 8 then info.args.getD (r.val - 1) 0 else if r.val = 9 then BitVec.ofNat 64 k.count else 0)

/-- A pre-emption begins, and its deadline passes (R381, R384 to R386): a selected gang, or one that `GFORCE` names with END 0 and that is not selected yet, is being
saved from then on: every running hart of it stops issuing, and the time and the deadline of a selected gang are those of its selection. At the deadline a hart whose vector unit still has work, its head no V
form, stops hard. A VF's write has no effect. The end of a save, and of a gang (R381, R384, R385, R388, R389): a hart whose vector instruction queue has drained, or stands between two passes of a `VFETCH` (R32), is saved with what that queue still holds: its area,
which begins with MAGIC, lies at its slot, and it is `saved`; an area that ends beyond far memory cannot be written and stops the device (R406); once the last hart of its gang has ended, the gang is saved. While the
queue still has another entry that does not wait on the partner nothing happens. `GFORCE` with END 1 ends the gang and retires its harts. Where the spec leaves a choice, the model's: log 29, 43. -/
def Obligations.Preemption : Prop :=
  (∀ (s : State) (p : Fin 8) (gang : BitVec 32) (g : Gang), s.gangs.find? (fun g => g.part == p && g.gangid == gang) = some g →
    let mine := fun (h : Hart) => h.part = p ∧ h.gang = gang ∧ h.mode = .running
    let begins := fun (i : Instr) (deadline : Nat) => ∃ t : State, exec i s = .next t ∧ t.mem = s.mem ∧
      t.gangs = s.gangs.map (fun y => if y.part = p ∧ y.gangid = gang then
        { y with
          mode := .saving, selected := false
          saveStart := if y.selected = true then y.saveStart else s.now
          deadline := if y.selected = true then y.deadline else deadline } else y) ∧
      ∀ (j : Nat) (h : Hart), s.harts[j]? = some h →
        (mine h → t.harts[j]? =
          some { h with mode := .saving, stopHard := false, anchor := { abandonOpen h.anchor with withdrawn := none } }) ∧
        (¬ mine h → t.harts[j]? = some h)
    ((∃ h ∈ s.harts, mine h) → g.mode = .resident → (s.parts[p].psave).getLsbD 0 = true →
      (g.selected = true → begins (.preemptionStart p gang) g.deadline) ∧
      (∀ v : Word, v.setWidth 32 = gang → v.getLsbD 32 = true → v.getLsbD 33 = false → s.mgmt.recov = false →
        (g.selected = false → begins (.gforcePreempt .pf p v) (v.toNat / 2 ^ 40)) ∧
        (g.selected = true → exec (.gforcePreempt .pf p v) s = .next s))) ∧
    (g.selected = false → exec (.preemptionStart p gang) s = .next s) ∧
    (∀ (f : Fin 8) (v : Word), exec (.gforcePreempt (.vf f) p v) s = .next s ∧ exec (.gforceEnd (.vf f) p v) s = .next s) ∧
    (∀ elems : List Nat,
      ((g.deadline = 0 ∨ s.now < g.saveStart + g.deadline * 1024) → exec (.preemptDeadlineExpiry p gang elems) s = .next s) ∧
      (elems.length ≤ (gangHarts s p gang).length → g.mode = .saving → g.deadline ≠ 0 → g.saveStart + g.deadline * 1024 ≤ s.now →
        (∀ h ∈ s.harts, h.part = p → h.gang = gang → h.mode = .saving → ∀ e, h.anchor.viq.head? = some e →
          ((useOf e.instr).map VUse.vform).getD false = false) →
        ∃ t : State, exec (.preemptDeadlineExpiry p gang elems) s = .next t ∧ t.mem = s.mem ∧
          ∀ (j : Nat) (h : Hart), s.harts[j]? = some h →
            t.harts[j]? = some (if h.part = p ∧ h.gang = gang ∧ h.mode = .saving ∧ drained s j h = false then { h with stopHard := true } else h)))) ∧
  ((∀ (s : State) (i : Nat) (h : Hart), s.harts[i]? = some h → h.mode = .saving → s.mgmt.recoveries = [] → s.mgmt.fatal = false →
    ((h.anchor.viq = [] ∨ ∃ e pr off, h.anchor.viq.head? = some e ∧ e.started = true ∧ e.instr = .vfetch pr off) → h.pacer.loads = [] → h.pacer.stores = [] → h.anchor.mqueue = [] → s.memoryOk →
      let loc := slotLoc s.parts[h.part].psave h.slot
      ∀ h1, (quiesce s i).harts[i]? = some h1 → let area := saveArea h1 none h.stopHard
      (1536 * 2 ^ 30 < loc + area.length →
        ∃ t : State, exec (.saveComplete i) s = .next t ∧ t.mgmt.fatal = true ∧ ∀ h' ∈ t.harts, h'.mode = .retired) ∧
      (loc + area.length ≤ 1536 * 2 ^ 30 →
        ∃ (t : State) (h' : Hart), exec (.saveComplete i) s = .next t ∧ t.harts[i]? = some h' ∧ h'.mode = .saved ∧ h'.area = area ∧
        Memory.readAll t.mem loc h'.area.length = h'.area ∧ leNat (h'.area.take 4) = 0x53464153 ∧
        h'.pacer.th.regs = h.pacer.th.regs ∧ h'.anchor.th.regs = h.anchor.th.regs ∧ h'.anchor.th.masks = h.anchor.th.masks ∧
        h'.anchor.vregs = h.anchor.vregs ∧ h'.anchor.viq = h.anchor.viq ∧ h'.anchor.xpc = h.anchor.xpc ∧
        h'.lq = h.lq ∧ h'.sq = h.sq ∧ h'.qa = h.qa ∧ h'.qc = h.qc ∧
        ((∃ j h2, j ≠ i ∧ s.harts[j]? = some h2 ∧ h2.part = h.part ∧ h2.gang = h.gang ∧ h2.mode = .saving) → t.gangs = s.gangs) ∧
        (∀ g, s.gangs.find? (fun g => g.part == h.part && g.gangid == h.gang) = some g → g.mode = .saving →
          (∀ j h2, j ≠ i → s.harts[j]? = some h2 → h2.part = h.part → h2.gang = h.gang →
            h2.mode = .saved ∨ h2.mode = .trapped ∨ h2.mode = .retired) →
          t.gangs.head? = some { g with mode := .saved, selected := false, skip := 0, rsv := false }))) ∧
    (h.stopHard = false → h.anchor.viq ≠ [] → partnerWait h = none → (∀ e, h.anchor.viq.head? = some e → e.started = false) →
      (∀ c ∈ s.claimWait, c.2 ≠ i) → exec (.saveComplete i) s = .next s)) ∧
  (∀ (s : State) (p : Fin 8) (v : Word), v.getLsbD 32 = true → v.getLsbD 33 = true →
    s.mgmt.recov = false →
    let gang : BitVec 32 := v.setWidth 32
    (∃ g, s.gangs.find? (fun g => g.part == p && g.gangid == gang) = some g ∧ (g.mode = .resident ∨ g.mode = .saving)) →
    ∃ t : State, exec (.gforceEnd .pf p v) s = .next t ∧
      t.gangs = s.gangs.filter (fun g => !(g.part == p && g.gangid == gang)) ∧
      ∀ (j : Nat) (h : Hart), s.harts[j]? = some h →
        (h.part = p → h.gang = gang → ∃ h', t.harts[j]? = some h' ∧ h'.mode = .retired) ∧
        ((h.part ≠ p ∨ h.gang ≠ gang) → t.harts[j]? = some h)))

/-- A saved hart resumes as it was (R276, R280, R393): when its gang is resident again, the hart has the matrix context its claim needs (R268) and its area reads as it was written, it runs on with both scalar files, both PCs, masks, registers and queues as they were saved; a trapped one once the driver resumes it, and at
once while its gang is resident. An area whose header has changed ends the gang. Where the spec leaves a choice, the model's: log 16, 44. -/
def Obligations.SavedHartsResume : Prop :=
  ∀ (s : State) (i : Nat) (h h0 : Hart) (trap : Option TrapInfo) (hard : Bool), s.harts[i]? = some h →
    h.pacer.th.regs[0] = 0 → h.anchor.th.regs[0] = 0 → h.pacer.th.lost = [] → h.anchor.th.lost = [] →
    h.area = saveArea h0 trap hard → h0.pacer.th.regs = h.pacer.th.regs → h0.anchor.th.regs = h.anchor.th.regs →
    h0.pacer.th.pc = h.pacer.th.pc → h0.anchor.th.pc = h.anchor.th.pc →
    let loc := slotLoc s.parts[h.part].psave h.slot
    (∀ a ∈ s.poison, a < loc ∨ loc + h.area.length ≤ a) → s.mgmt.recoveries = [] →
    (h.anchor.claim = false ∨ ∃ c ∈ s.contexts, c.2 = i) →
    (∃ g, s.gangs.find? (fun g => g.part == h.part && g.gangid == h.gang) = some g ∧ g.mode = .resident) →
    let back := { h with mode := .running, trapHeld := false, resumeOk := false, trapWait := none }
    let resumes := fun (e : Instr) => ∃ t : State, exec e s = .next t ∧ t.harts = s.harts.set i back
    (Memory.readAll s.mem loc h.area.length = h.area →
      (h.mode = .saved → h.trapHeld = false → resumes (.hartResume i)) ∧
      (h.mode = .saved → h.trapHeld = true → h.resumeOk = true → resumes (.hartResume i)) ∧
      (h.mode = .saved → h.trapHeld = true → h.resumeOk = false → ∃ t : State, exec (.hartResume i) s = .next t ∧
        t.harts = s.harts.set i { h with mode := .trapped, trapHeld := true, resumeOk := false, trapWait := none }) ∧
      (h.mode = .trapped → h.trapHeld = true →
        (∀ j h2, s.harts[j]? = some h2 → h2.part = h.part → h2.gang = h.gang → h2.mode ≠ .retired → h2.hartid = h.hartid → j = i) →
        resumes (.trappedHartResume h.part h.gang h.hartid))) ∧
    ((Memory.readAll s.mem loc h.area.length).take 6 ≠ h.area.take 6 → h.mode = .saved → h.trapHeld = false →
      ∃ t : State, exec (.hartResume i) s = .next t ∧ ∀ g ∈ t.gangs, ¬ (g.part = h.part ∧ g.gangid = h.gang))

/-! ## The driver, the host and the management core -/

/-- The driver's registers (R370, R384, R413): a write through the PF stores the fields the spec lists, clamped as it says, and reads back
so; the same write through a VF changes nothing. `PSHAPE` takes effect only when the partition has no resident gang and no packet and the new
mask shares no die with another partition. `TLBINV` (R397): a write of OP 1 or 2 sets BUSY, one that meets BUSY waits until it clears; at its completion every entry it names is gone from the
TLBs and the walk caches, every other entry stays, and BUSY is clear unless a write has waited, which starts then. Where the spec leaves a choice, the model's: log 45. -/
def Obligations.DriverRegisters : Prop :=
  (∀ (s : State) (p q : Fin 8) (v : Word), s.mgmt.recov = false →
    let x := s.parts[p]
    let n := v.toNat
    let put := fun (x' : Partition) => { s with parts := s.parts.set p x' }
    let ignored := fun (i : Fn → Instr) => exec (i (.vf q)) s = .next s
    let ring := fun (w : Word) => w.toNat = n % 2 ^ 52 / 2 ^ 6 * 2 ^ 6 + min (n % 16) 11
    let base := fun (w : Word) => w.toNat = n % 2 ^ 52 / 2 ^ 12 * 2 ^ 12 + n % 2
    let at_ := fun (off : Nat) => 0x200000 + p.val * 0x100 + off
    let reads := fun (s : State) (off m : Nat) => (readRegister s .pf (at_ off)).toNat = m
    let quantum := min (max (n % 2 ^ 21) 1024) (2 ^ 20)
    (exec (.pquantWrite .pf p v) s = .next (put { x with quantum := quantum }) ∧ reads (put { x with quantum := quantum }) 0x00 quantum ∧
      ignored fun f => .pquantWrite f p v) ∧
    ((∃ w, ring w ∧ exec (.fqbaseWrite .pf p v) s = .next (put { x with fqbase := w }) ∧
      reads (put { x with fqbase := w }) 0x20 w.toNat) ∧ ignored fun f => .fqbaseWrite f p v) ∧
    ((∃ w, base w ∧ exec (.registerWrite .pf (at_ 0x08) v) s = .next (put { x with psave := w }) ∧
        reads (put { x with psave := w }) 0x08 w.toNat) ∧
      (∃ w, base w ∧ exec (.registerWrite .pf (at_ 0x10) v) s = .next (put { x with ptroot := w }) ∧
        reads (put { x with ptroot := w }) 0x10 w.toNat) ∧
      (∀ off, ignored fun f => .registerWrite f off v) ∧
      (∀ off, 0x40 < off → off < 0x100 → exec (.registerWrite .pf (at_ off) v) s = .next s ∧ readRegister s .pf (at_ off) = 0)) ∧
    (∀ qn : Fin 64, let y := queueAt s p qn
      let w := n / 2 ^ 8 % 2 ^ 8
      (queueRsv s y = false ∨ v.getLsbD 0 = true) →
      (∃ c : Fin 4, c.val = n / 2 % 4 ∧
        let t := putQueue s { y with
          en := v.getLsbD 0
          cls := c
          weight := if w = 0 then 1 else w
          dline := n / 2 ^ 16 % 2 ^ 32 }
        let reads := n % 2 + n / 2 % 4 * 2 + (if w = 0 then 1 else w) * 2 ^ 8 + n / 2 ^ 16 % 2 ^ 32 * 2 ^ 16
        exec (.qcfgWrite .pf p qn v) s = .next t ∧
        (readRegister t .pf (0x100000 + p.val * 0x4000 + qn.val * 0x100 + 0x48)).toNat = reads ∧
        (readRegister t (.vf p) (qn.val * 0x100 + 0x48)).toNat = reads) ∧ ignored fun f => .qcfgWrite f p qn v) ∧
    ((x.waiting = [] → exec (.fqptrWrite .pf p v) s = .next (put { x with fqhead := v.setWidth 16 }) ∧
        reads (put { x with fqhead := v.setWidth 16 }) 0x28 (n % 2 ^ 16 + x.fqtail.toNat * 2 ^ 16)) ∧
      ignored fun f => .fqptrWrite f p v) ∧
    (let idle := (∀ g ∈ s.gangs, g.part = p → g.mode = .saved) ∧ ∀ y ∈ s.queues, y.part = p → y.packets = []
      let apart := ∀ r : Fin 8, r ≠ p → (s.parts[r]).dies &&& v.setWidth 8 = 0
      (idle → apart → exec (.pshapeWrite .pf p v) s = .next (put { x with dies := v.setWidth 8 }) ∧
        reads (put { x with dies := v.setWidth 8 }) 0x40 (n % 2 ^ 8)) ∧
      (¬ (idle ∧ apart) → exec (.pshapeWrite .pf p v) s = .next s) ∧ ignored fun f => .pshapeWrite f p v)) ∧
  (∀ (s : State) (p q : Fin 8) (v : Word), s.mgmt.recov = false →
    let x := s.parts[p]
    let put := fun (x' : Partition) => { s with parts := s.parts.set p x' }
    let va := v.toNat % 2 ^ 52 / 2 ^ 12 * 2 ^ 12
    (x.tlbinvBusy = false → v.toNat % 4 = 1 →
      exec (.tlbinvPage .pf p v) s = .next (put { x with tlbinvBusy := true, tlbinvPage := some va })) ∧
    (x.tlbinvBusy = false → v.toNat % 4 = 2 →
      exec (.tlbinvPartition .pf p v) s = .next (put { x with tlbinvBusy := true, tlbinvPage := none })) ∧
    (x.tlbinvBusy = true → v.toNat % 4 = 1 → exec (.tlbinvPage .pf p v) s = .next (put { x with tlbinvNext := x.tlbinvNext ++ [some va] })) ∧
    (x.tlbinvBusy = true → v.toNat % 4 = 2 → exec (.tlbinvPartition .pf p v) s = .next (put { x with tlbinvNext := x.tlbinvNext ++ [none] })) ∧
    (v.toNat % 4 ≠ 1 → exec (.tlbinvPage .pf p v) s = .next s) ∧ (v.toNat % 4 ≠ 2 → exec (.tlbinvPartition .pf p v) s = .next s) ∧
    exec (.tlbinvPage (.vf q) p v) s = .next s ∧ exec (.tlbinvPartition (.vf q) p v) s = .next s ∧
    (x.tlbinvBusy = false → exec (.tlbinvComplete p) s = .next s) ∧
    (x.tlbinvBusy = true → s.mgmt.recoveries = [] → (∀ h ∈ s.harts, h.part = p → h.pacer.loads = [] ∧ h.pacer.stores = []) →
      let gone := fun (e : TlbEntry) => e.part = p ∧ ∀ a, x.tlbinvPage = some a → a / 2 ^ e.leaf.bits = e.page
      ∃ t : State, exec (.tlbinvComplete p) s = .next t ∧ (∀ e ∈ t.tlb ++ t.walkCache, ¬ gone e) ∧
        (∀ e ∈ s.tlb, ¬ gone e → e ∈ t.tlb) ∧ (∀ e ∈ s.walkCache, ¬ gone e → e ∈ t.walkCache) ∧ t.mem = s.mem ∧
        t.parts = s.parts.set p (match x.tlbinvNext with
          | [] => { x with tlbinvBusy := false, tlbinvPage := none }
          | page :: rest => { x with tlbinvPage := page, tlbinvNext := rest })))

/-- Replays and page requests (R145, R233, R396, R400): `REPLAY` with ACT 1 lets the waiter go on to walk again, with ACT 2 a Pacer's access
ends as its trap, with the code it was issued with and the address as FADDR; a token that nobody holds is ignored. A granted page is
known from then on, and who asked for it goes on; a refusal ends the access as a declined replay. Where the spec leaves a choice, the model's: log 30. -/
def Obligations.Replays : Prop :=
  ∀ (s : State) (p : Fin 8) (tok : BitVec 32) (i : Nat) (h : Hart) (code : BitVec 8) (va : Word),
    s.mgmt.recov = false → s.harts[i]? = some h → h.part = p →
    let goesOn := dropToken h tok
    let waiter := Waiter.thread i .pacer code va
    (s.waiters = [(tok, waiter)] →
      exec (.replayRetry .pf p tok) s = .next { s with waiters := [], harts := s.harts.set i goesOn } ∧
      (s.requests = [] → code ≠ 0 → exec (.replayDecline .pf p tok) s = .next (deliverTrap { s with
        waiters := []
        harts := s.harts.set i { h with pacer := { h.pacer with th := { h.pacer.th with tokens := [] } } } } i
        { code := code, thread := .pacer, iaddr := if code = 0x06 then va else h.pacer.th.pc, faddr := va }))) ∧
    ((∀ w ∈ s.waiters, w.1 ≠ tok) → exec (.replayRetry .pf p tok) s = .next s ∧ exec (.replayDecline .pf p tok) s = .next s) ∧
    (∀ f, exec (.replayRetry (.vf f) p tok) s = .next s ∧ exec (.replayDecline (.vf f) p tok) s = .next s) ∧
    ∀ page, s.requests = [⟨p, page, tok, waiter⟩] → (p, page) ∉ s.granted →
      exec (.priResponse p page true) s =
        .next { s with requests := [], granted := s.granted ++ [(p, page)], harts := s.harts.set i goesOn } ∧
      (s.waiters = [] → code ≠ 0 → exec (.priResponse p page false) s = .next (deliverTrap { s with
        requests := []
        harts := s.harts.set i { h with pacer := { h.pacer with th := { h.pacer.th with tokens := [] } } } } i
        { code := code, thread := .pacer, iaddr := if code = 0x06 then va else h.pacer.th.pc, faddr := va }))

/-- Accesses from outside (R235, R331, R368): the host's writes and reads of device memory, and a peer's stores, Shuttle reads and atomics on
far memory, perform at the home: every other byte stays, no hart changes. A write that would meet a fenced unit, or comes after one of its function that waits, waits (R130), and so does a launch write behind one (R142), with the EN and CLASS that its queue had when it was received (R370). In recovery mode device memory is not exposed (R409). AtomicOps sent to the device change nothing. Where the spec leaves a choice, the model's: log 20, 45. -/
def Obligations.OutsideAccesses : Prop :=
  (∀ (s : State) (fn : Fn) (loc : Nat) (data : List Byte),
    (∃ x ∈ s.outside, x.1 = .function fn) ∨ (∃ k < data.length, fenced s (loc + k) = true) →
    exec (.hostDeviceWrite fn loc data) s = .next { s with outside := s.outside ++ [(.function fn, .mem (.store loc data))] }) ∧
  (∀ (s : State) (fn : Fn) (p : Fin 8) (q : Fin 64) (off : Nat) (data : List Byte), (∃ x ∈ s.outside, x.1 = .function fn) →
    exec (.launchPacketWrite fn p q off data) s = .next { s with outside := s.outside ++ [(.function fn, .launch p q off data (queueAt s p q).en (queueAt s p q).cls)] }) ∧
  (∀ (s : State) (fn : Fn) (loc n : Nat) (data : List Byte) (peer : Fin 16), s.mgmt.recov = true → s.mgmt.recoveries = [] → s.outside = [] →
    exec (.hostDeviceWrite fn loc data) s = .next s ∧ exec (.hostDeviceRead fn loc n) s = .next s ∧
    exec (.peerRequest peer (.store loc data)) s = .next s) ∧
  ∀ (s : State) (fn : Fn) (loc : Nat) (data : List Byte) (n : Nat) (peer : Fin 16),
    s.mgmt.recoveries = [] → s.outside = [] → s.mgmt.recov = false → s.memoryOk → (∀ a ∈ s.poison, a < loc ∨ loc + n ≤ a) →
    let far := fun (n : Nat) => loc + n ≤ 1536 * 2 ^ 30
    let inDev := fun (n : Nat) => far n ∨ (2 ^ 52 ≤ loc ∧ loc + n ≤ 2 ^ 52 + 5 * 2 ^ 30)
    let stores := fun (i : Instr) => ∃ t : State, exec i s = .next t ∧ t.harts = s.harts ∧ t.parts = s.parts ∧
      Memory.readAll t.mem loc data.length = data ∧
      ∀ a, a < loc ∨ loc + data.length ≤ a → Memory.read t.mem a = Memory.read s.mem a
    let reads := fun (i : Instr) => exec i s = .next { s with reads := s.reads ++ [Memory.readAll s.mem loc n] }
    (inDev data.length → stores (.hostDeviceWrite fn loc data)) ∧ (inDev n → reads (.hostDeviceRead fn loc n)) ∧
    (far data.length → data ≠ [] → stores (.peerRequest peer (.store loc data))) ∧
    (far n → 0 < n → reads (.peerRequest peer (.copyRead loc n))) ∧
    exec (.hostAtomicop fn loc) s = .next s ∧
    (∀ (x y : Word), n = 8 → far 8 → loc % 8 = 0 →
      let m := leNat (Memory.readAll s.mem loc 8)
      let amo := fun (op : Fin 10) (new : Option Nat) => ∃ t : State, exec (.peerRequest peer (.atomic loc op true x y)) s = .next t ∧
        t.harts = s.harts ∧ t.reads = s.reads ++ [Memory.readAll s.mem loc 8] ∧
        t.mem = match new with
          | some v => Memory.writeAll s.mem loc (leBytes 8 v)
          | none => s.mem
      amo 0 (some ((m + x.toNat) % 2 ^ 64)) ∧ amo 1 (some x.toNat) ∧ amo 2 (if m = y.toNat then some x.toNat else none))

/-- An error in memory and the recovery of its unit (R402 to R405): the error is recorded with OUTCOME 0, its unit is fenced from then on;
a corrected one changes no byte of the device, an uncorrectable one poisons the 8-byte word of near memory or the 64-byte unit of far
memory that holds it. When recovery ends the unit is not fenced any more, and a second record has the outcome: 1 after three good
passes, else 2 while a spare is left, else 3; after a fatal error none ends (R412). An uncorrectable error in a scalar register loses its value. Where the spec leaves a choice, the model's: log 46. -/
def Obligations.ErrorsAndRecovery : Prop :=
  (∀ (s : State) (u : ErrUnit) (ok : Bool) (loc : Nat), inUnit u loc = true → s.mgmt.recoveries = [] → s.memoryOk →
    (loc < 1536 * 2 ^ 30 ∨ (2 ^ 52 ≤ loc ∧ loc < 2 ^ 52 + 5 * 2 ^ 30)) →
    let n := if loc < 2 ^ 52 then 64 else 8
    ∃ (t : State) (r : List Byte), exec (.errorDetected (.memory u ok loc)) s = .next t ∧ t.harts = s.harts ∧
      t.mgmt.recoveries.map Recovery.unit = [u] ∧ (∀ a, inUnit u a = true → fenced t a = true) ∧
      t.mgmt.log = s.mgmt.log ++ [r] ∧ r.length = 64 ∧ r[2]? = some (if ok then 0 else 1) ∧
      (∀ a < 2 ^ 60, Memory.read t.mem a = Memory.read s.mem a ∧
        (a ∈ t.poison ↔ a ∈ s.poison ∨ (ok = false ∧ loc / n * n ≤ a ∧ a < loc / n * n + n)))) ∧
  (∀ (s : State) (u : ErrUnit) (r : Recovery) (passed : Bool), s.mgmt.recoveries = [r] → r.unit = u → r.sev < 4 →
    (∀ c k, u ≠ .track c k) → s.mgmt.fatal = false → s.outside = [] → (∀ h ∈ s.harts, h.mode ≠ .stopping) →
    let spares := sparesOf u
    let outcome := if passed then 1 else if lookup s.mgmt.sparesUsed spares.1 < spares.2 then 2 else 3
    ∃ (t : State) (rec : List Byte), exec (.recoveryComplete u passed) s = .next t ∧ t.harts = s.harts ∧ t.mgmt.recoveries = [] ∧
      (∀ a, fenced t a = false) ∧ t.mgmt.log = s.mgmt.log ++ [rec] ∧
      rec[2]? = some (BitVec.ofNat 8 (r.sev + 16 * outcome)) ∧ t.poison.filter (· < 2 ^ 60) = s.poison.filter (· < 2 ^ 60)) ∧
  (∀ (s : State) (u : ErrUnit) (passed : Bool), s.mgmt.fatal = true → exec (.recoveryComplete u passed) s = .next s) ∧
  (∀ (s : State) (i : Nat) (h : Hart) (tt : Thread) (r : Reg), s.harts[i]? = some h → r ≠ 0 →
    ∃ (t : State) (h' : Hart), exec (.errorDetected (.scalarReg i false tt r)) s = .next t ∧ t.harts = s.harts.set i h' ∧
      r ∈ (h'.th tt).lost ∧ ∀ q, q ≠ r → h'.reg tt q = h.reg tt q)

/-- Fatal errors (R406, R407, R418): every gang stops without a save, FATAL is set, a record with SEV 2 is in the log; a thermal trip is
one, at 115 °C or more, with CLASS 0xFF. A second fatal error changes nothing but the stream of free values. The dump is written from
0x17F80000000 on, beginning with MAGIC, VALID without the areas' bit where one of a hart was not whole, and DUMP is set; nothing below it changes. Where the spec leaves a choice, the model's: log 13, 47. -/
def Obligations.FatalErrors : Prop :=
  ∀ (s : State) (cause : BitVec 8) (die : Fin 16),
    let stops := fun (i : Instr) (cls : BitVec 8) (tj : BitVec 8) => ∃ (t : State) (r : List Byte), exec i s = .next t ∧
      t.gangs = [] ∧ t.harts = s.harts.map (fun h => { h with mode := .retired }) ∧ t.mgmt.fatal = true ∧ t.mgmt.tj = tj ∧
      t.mgmt.log = s.mgmt.log ++ [r] ∧ r[0]? = some cls ∧ r[2]? = some 2 ∧
      ∀ a < 2 ^ 60, Memory.read t.mem a = Memory.read s.mem a
    (s.mgmt.fatal = false → s.memoryOk → stops (.fatalError cause die) cause s.mgmt.tj ∧ stops .thermalTrip 0xFF 115 ∧
      ∀ tj : BitVec 8, 115 ≤ tj.toNat → stops (.thermalThrottle tj) 0xFF tj) ∧
    (s.mgmt.fatal = true → exec (.fatalError cause die) s = .next { s with free := s.free + 2 }) ∧
    (s.mgmt.fatal = true → s.mgmt.dump = false → s.mgmt.recoveries = [] → s.memoryOk → ∃ t : State, exec .dumpComplete s = .next t ∧
      t.mgmt = { s.mgmt with dump := true } ∧ t.harts = s.harts ∧
      leNat (Memory.readAll t.mem 0x17F80000000 4) = 0x504D5544 ∧
      (let valid := leNat (Memory.readAll t.mem 0x17F80000006 2)
       valid < 16 ∧ ((∃ x ∈ s.mgmt.dumpHarts, x.1 < s.harts.length ∧ x.2 = false) → valid.testBit 3 = false)) ∧
      ∀ a < 0x17F80000000, Memory.read t.mem a = Memory.read s.mem a) ∧
    (s.mgmt.fatal = false ∨ s.mgmt.dump = true → exec .dumpComplete s = .next s)

/-- The resets (R383, R406, R407, R410): a function-level reset of the PF leaves the state after a fatal error: no gang, no packet, the
registers at their reset values, memory and the leaf counter as they were; after a loss of power device memory is lost too, the leaf
counter stays. A function-level reset of a VF discards its partition's packets, ends its gangs and clears its counts, and its numbering begins again (R378). Where the spec leaves a choice, the model's: log 3, 48. -/
def Obligations.Resets : Prop :=
  ∀ (s : State) (p : Fin 8),
    (∃ t : State, exec .pfFunctionLevelReset s = .next t ∧ t.harts = [] ∧ t.gangs = [] ∧ t.queues = [] ∧
      t.parts = State.reset.parts ∧ t.mgmt.fatal = false ∧ t.mgmt.dump = false ∧ t.mem = s.mem ∧ t.mgmt.leaf = s.mgmt.leaf ∧
      t.l1 = [] ∧ t.farCache = [] ∧ t.tlb = []) ∧
    (∃ t : State, exec .powerLoss s = .next t ∧ t.harts = [] ∧ t.gangs = [] ∧ t.queues = [] ∧ t.parts = State.reset.parts ∧
      t.mgmt.leaf = s.mgmt.leaf ∧ ∀ a < 2 ^ 60, Memory.read t.mem a = 0) ∧
    (∃ t : State, exec (.vfFunctionLevelReset p) s = .next t ∧ (∀ g ∈ t.gangs, g.part ≠ p) ∧
        (∀ g ∈ s.gangs, g.part ≠ p → g ∈ t.gangs) ∧
        (∀ q ∈ t.queues, q.part = p → q.packets = [] ∧ q.ovf = 0 ∧ q.rej = 0 ∧ q.skip = 0 ∧ q.hwait = false ∧ q.rsv = false ∧
          q.last = 0 ∧ q.seq = 0) ∧
        ∀ q ∈ s.queues, q.part ≠ p → q ∈ t.queues)

/-- The services of the management core (R405, R409 to R411, R417, R418): power and temperature, the error ring, telemetry and
attestation with their status values, a buffer bad with any page of it (a new WATTS governs the next millisecond), and firmware, which boots from slot A, else B, else leaves RECOV set, and never lowers the
minimum SVN: an image is booted whose magic, length, SHA-256 digests, HSS signature and SVN pass (R408, R409); the leaf counter is advanced before a report leaves. Where the spec leaves a choice, the model's: log 11, 13, 47. -/
def Obligations.ManagementServices : Prop :=
  ∀ (s : State) (v : Word) (watts : Nat) (tj : BitVec 8) (f : Fin 8) (a b : List Byte),
    let m := s.mgmt
    let put := fun (m' : Management) => (Host.Outcome.next { s with mgmt := m' } : Out)
    let bad := fun (w : Word) (n : Nat) => w.toNat % 64 ≠ 0 ∨ 2 ^ 52 < w.toNat + n ∨
      ∃ k, w.toNat / 4096 ≤ k ∧ k ≤ (w.toNat + n - 1) / 4096 ∧ Config.hostReachable k = false
    (tj.toNat < 115 → exec (.thermalThrottle tj) s = put { m with tj := tj, throt := m.overCap || decide (100 ≤ tj.toNat) }) ∧
    exec (.powerCapThrottle watts) s = put { m with
      overCap := decide (m.cap < watts), throt := decide (m.cap < watts ∨ 100 ≤ m.tj.toNat), cap := m.watts } ∧
    (m.recov = false → exec (.plimitWrite .pf v) s = put { m with watts := min (max (v.toNat % 2 ^ 12) 1400) 2800 }) ∧
    exec (.plimitWrite (.vf f) v) s = .next s ∧
    (∃ w : Word, w.toNat = v.toNat % 2 ^ 52 / 2 ^ 6 * 2 ^ 6 + min (v.toNat % 16) 11 ∧
      exec (.elbaseWrite .pf v) s = put { m with elbase := w }) ∧ exec (.elbaseWrite (.vf f) v) s = .next s ∧
    (m.recov = false →
      (∀ x, m.snapshot = some x → exec (.telemetrySnapshot .pf 1) s = put { m with tsstat := 1 }) ∧
      (m.snapshot = none → bad m.tsaddr 128 → exec (.telemetrySnapshot .pf 1) s = put { m with tsstat := 2 }) ∧
      (m.snapshot = none → ¬ bad m.tsaddr 128 → ∃ (n : Nat) (x : Snapshot) (sp : Nat), exec (.telemetrySnapshot .pf 1) s =
          .next { s with free := n, mgmt := { m with snapshot := some x } } ∧ x.buffer = m.tsaddr.toNat ∧ x.cycles.length = 11 ∧
        sp ≤ 32 ∧ x.cycles[10]? = some (BitVec.ofNat 64 sp) ∧
        let base := fun (d : Nat) => BitVec.ofNat 64 (s.now + Config.cycleOffset d)
        (∀ d < 10, ∃ k, k ≤ sp ∧ x.cycles[d]? = some (base d + BitVec.ofNat 64 k)) ∧
        (∃ d < 10, x.cycles[d]? = some (base d)) ∧ (∃ d < 10, x.cycles[d]? = some (base d + BitVec.ofNat 64 sp)))) ∧
    (∀ x, m.snapshot = some x → x.cycles.length ≤ 16 → s.memoryOk → ∃ t : State, exec .telemetrySnapshotDone s = .next t ∧
      t.mgmt = { m with snapshot := none, tsstat := 0 } ∧
      Memory.readAll t.mem (2 ^ 72 + x.buffer) (8 * x.cycles.length) = x.cycles.flatMap fun w => leBytes 8 w.toNat) ∧
    (m.running = true → m.recov = false →
      let asks := fun (r : Out) => exec (.attestationRequest .pf 1) s = r
      (∀ x, m.attestation = some x → asks (put { m with attStatus := 1 })) ∧
      (m.attestation = none → bad m.attBuf 5632 → asks (put { m with attStatus := 2 })) ∧
      (m.attestation = none → ¬ bad m.attBuf 5632 → 2 ^ 20 ≤ m.leaf → asks (put { m with attStatus := 3 })) ∧
      (m.attestation = none → ¬ bad m.attBuf 5632 → m.leaf < 2 ^ 20 →
        asks (put { m with leaf := m.leaf + 1, attestation := some ⟨m.attBuf.toNat, m.nonce, m.leaf⟩ }))) ∧
    (∀ x, m.attestation = some x → x.nonce.length = 32 → s.memoryOk → ∃ t : State, exec .attestationDone s = .next t ∧
      t.mgmt = { m with attestation := none, attStatus := 0 } ∧ Memory.readAll t.mem (2 ^ 72 + x.buffer) 32 = x.nonce) ∧
    (m.running = false →
      let boots := fun (image : List Byte) => ∃ t : State, exec (.firmwareBoot a b) s = .next t ∧ t.mgmt.running = true ∧
        t.mgmt.recov = false ∧ t.mgmt.image = image ∧ m.minSvn ≤ t.mgmt.minSvn ∧ m.minSvn ≤ t.mgmt.svn
      let image := fun (slot : List Byte) => slot.take (Config.fwLength (slot.take 4096))
      let whole := fun (slot : List Byte) =>
        let hd := slot.take 4096
        4096 ≤ Config.fwLength hd ∧ Config.fwLength hd ≤ slot.length ∧ Config.fwMagic hd = 0x57464E59 ∧
        sha256 (Config.fwKey hd) = Config.fusedDigest ∧ hssVerify (Config.fwKey hd) (hd.take 64) (Config.fwSignature hd).toList = true ∧
        sha256 ((image slot).drop 4096) = Config.fwDigest hd ∧ m.minSvn ≤ (Config.fwSvn hd).toNat
      (∀ slot, imageAccepted m.minSvn slot = true ↔ whole slot) ∧
      (imageAccepted m.minSvn a = true → boots (image a)) ∧
      (imageAccepted m.minSvn a = false → imageAccepted m.minSvn b = true → boots (image b)) ∧
      (imageAccepted m.minSvn a = false → imageAccepted m.minSvn b = false →
        exec (.firmwareBoot a b) s = put { m with recov := true })) ∧
    (m.running = true → exec (.firmwareBoot a b) s = .next s)

/-- What units do of themselves (R18, R21, R22, R96): the carries of a known accumulator, its V not undefined by a store of a part of it (R101; log 19), move up and its value stays; when the Pacer stands at a
`QPOP` of the empty `qa` and the Anchor, its vector queue empty, at one of the empty `qc`, the hart takes the queue-deadlock trap at
the Pacer's instruction. Where the spec leaves a choice, the model's: log 28, 53. -/
def Obligations.UnitsOfThemselves : Prop :=
  (∀ (s : State) (loc : Nat), s.mgmt.recoveries = [] → s.memoryOk →
    ((∀ a ∈ s.accs, a.loc ≠ loc ∨ a.torn = true) → exec (.rsaddRenormalise loc) s = .next s) ∧
    ((∃ a ∈ s.accs, a.loc = loc ∧ a.torn = false) → (∀ a ∈ s.poison, a < loc ∨ loc + 32 ≤ a) →
      let old := Accumulator.ofBytes (Memory.readAll s.mem loc 32)
      old.value < 2 ^ 143 → -(2 ^ 143) ≤ old.value →
      ∃ t : State, exec (.rsaddRenormalise loc) s = .next t ∧ t.harts = s.harts ∧
        Accumulator.ofBytes (Memory.readAll t.mem loc 32) = old.renormalise ∧ old.renormalise.value = old.value ∧
        ∀ a, a < loc ∨ loc + 32 ≤ a → Memory.read t.mem a = Memory.read s.mem a)) ∧
  (∀ (s s1 s2 : State) (i : Nat) (h : Hart) (d d' : Reg) (w w' : Word), s.harts[i]? = some h → h.mode = .running →
    h.qa = [] → h.qc = [] → h.anchor.viq = [] → h.anchor.withdrawn = none → h.anchor.loop = none → h.anchor.openLen = none →
    h.pacer.asleep = false → h.pacer.waitLoad = none →
    (∀ t, (h.th t).tokens = [] ∧ (h.th t).inGbar = false ∧ (h.th t).hexit = false) →
    encode (.qpop d .qa) = some w → encode (.qpop d' .qc) = some w' →
    fetchWord s h h.pacer.th.pc = .ok (s1, w, false) → fetchWord s h h.anchor.th.pc = .ok (s2, w', false) →
    exec (.queueDeadlockTrap i) s = .next (deliverTrap s i { code := 0x0A, thread := .pacer, iaddr := h.pacer.th.pc }))

/-! ## Encoding, the step, reset, what every step keeps -/

/-- Decoding and encoding agree (R147 to R166): the word of a well-formed instruction decodes to it, with every operand at every value;
and a word that decodes is the word of what it decodes to, so no bit of a word is dropped and no reserved bit is let through. -/
def Obligations.DecodeAndEncodeAgree : Prop :=
  (∀ (i : Instr) (w : Word), i.wf = true → encode i = some w → decodeWord w = .ok i) ∧
  (∀ (i : Instr) (w : Word), decodeWord w = .ok i → i.wf = true ∧ encode i = some w)

/-- Every step keeps the memory's canonical form (log 3): from any state whose memory is in it, whoever's turn it is. -/
def Obligations.StepsKeepMemoryForm : Prop :=
  ∀ s t : State, s.memoryOk → step s = .next t → t.memoryOk

/-- The state after reset (R370, R384, R405, R413, R418): no gang, no packet, every register of the partitions and of the management
core at its reset value as a read gives it; memory, in its canonical form, lists nothing (the model's choice, log 3). Where the spec leaves a choice, the model's: log 13, 54. -/
def Obligations.ResetState : Prop :=
  let s := State.reset
  s.memoryOk ∧ s.scalarQueuesOk ∧ s.mem = [] ∧ s.harts = [] ∧ s.gangs = [] ∧
  (∀ (p : Fin 8) (q : Fin 64),
    let block := 0x100000 + p.val * 0x4000 + q.val * 0x100
    (queueAt s p q).packets = [] ∧ readRegister s .pf (block + 0x40) = 256 ∧ readRegister s .pf (block + 0x48) = 0x100 ∧
    readRegister s .pf (block + 0x50) = 0) ∧
  (∀ p : Fin 8,
    let block := 0x200000 + p.val * 0x100
    readRegister s .pf block = 65536 ∧ (∀ off ∈ [0x08, 0x10, 0x18, 0x20, 0x28, 0x30, 0x38], readRegister s .pf (block + off) = 0) ∧
    readRegister s .pf (block + 0x40) = if p = 0 then 0xFF else 0) ∧
  (∀ off ∈ [0x300000, 0x300008, 0x300010], readRegister s .pf off = 0) ∧
  s.mgmt.watts = 2800 ∧ s.mgmt.throt = false

/-- A step runs the decoded instruction: the clock moves on by the turn's cycles and the queues' deficits are charged; the thread whose
turn it is fetches the 8 bytes at its PC, and the step is the instruction's effect, executed by that thread, followed by the passes
that freed tracks have made due; bytes that are no instruction are an illegal word (R145, R166, R379). A step whose turn is an
event's is that event. Where the spec leaves a choice, the model's: log 1. -/
def Obligations.StepRunsDecoded : Prop :=
  ∀ (s : State) (dt i : Nat) (h : Hart) (loc : Nat) (pc : Word) (rest : List Turn),
    let s0 := charge { s with tick := s.tick + 1, agenda := rest } dt
    let bytes := Memory.readAll s.mem loc 8
    let ends := fun (o : Out) => match o with
      | .next t => Host.Outcome.next (runDue t)
      | o => o
    (∀ e : Instr, encode e = none → s.agenda = ⟨dt, .event e⟩ :: rest → step s = ends (exec e s0)) ∧
    (s.harts[i]? = some h → h.mode = .running → pc.toNat < 0xF000000000000 →
      translate s h.core h.part pc .fetch false = .ok (loc, false) → (∀ a ∈ s.poison, a < loc ∨ loc + 8 ≤ a) →
      (∀ k < 8, fenced s (loc + k) = false) →
      let s1 := (dieRead (noteTlb s0 h.core h.part pc) (coreDie h.core) loc 8 false).1
      let idle := fun (th : ThreadState) => th.pc = pc ∧ th.tokens = [] ∧ th.inGbar = false ∧ th.hexit = false ∧ th.lost = []
      (s.agenda = ⟨dt, .pacer i⟩ :: rest → idle h.pacer.th → h.pacer.asleep = false → h.pacer.waitLoad = none →
        (∀ ins, decodeBytes bytes = .ok (ins, []) → step s = ends (exec ins { s1 with cur := ⟨i, .pacer⟩ })) ∧
        (∀ e, decodeBytes bytes = .error e →
          step s = .next (runDue (deliverTrap s1 i { code := 0x01, thread := .pacer, iaddr := pc })))) ∧
      (s.agenda = ⟨dt, .anchor i⟩ :: rest → idle h.anchor.th → h.anchor.withdrawn = none → h.anchor.loop = none →
        h.anchor.viq = [] → h.anchor.openLen = none → h.anchor.overlong = none →
        h.anchor.vtokens = [] → h.anchor.ahead = none →
        (∀ ins, decodeBytes bytes = .ok (ins, []) →
          (∀ u, useOf ins = some u → u.pred.joined = false ∧ (u.out = none ∨ joinedAhead s1 h = .alone)) →
          step s = ends (exec ins { s1 with cur := ⟨i, .anchor⟩ })) ∧
        (∀ e, decodeBytes bytes = .error e →
          step s = .next (runDue (deliverTrap s1 i { code := 0x01, thread := .anchor, iaddr := pc })))))

/-- Words written out from the forms of R149 to R165 decode to the instructions they stand for, one or more of each form; a word with
a reserved bit set and a word at no point are refused (R166). -/
def Obligations.SomeWordsDecode : Prop :=
  let none' : Pred := ⟨false, none, false⟩
  decodeWord 0x0842000000000008 = .ok (.addImm 2 2 8) ∧ decodeWord 0x04A6380F00000000 = .ok (.sra 5 6 7) ∧
  decodeWord 0x0C40000100000012 = .ok (.lih 2 0x12) ∧ decodeWord 0x106110000000000B = .ok (.fadd 3 1 2 .f32) ∧
  decodeWord 0x1400000200000000 = .ok .nop ∧ decodeWord 0x194900000000000B = .ok (.setvl 10 9 .f32) ∧
  decodeWord 0x200300FFFFFFFFFC = .ok (.bne 3 0 (-4)) ∧ decodeWord 0x2536E1850E01FFFD =
    .ok (.lap 9 .f32 (some ⟨1, 2⟩) (some ⟨2, 2⟩) (some ⟨3, 2⟩) none (-3)) ∧
  decodeWord 0x28EC1A0000000000 = .ok (.vloopS 7 12 3) ∧ decodeWord 0x2802008000000002 = .ok (.tfetch (some 1) 2) ∧
  decodeWord 0x40000200000B0000 = .ok (.vadd none' (.sq 0) (.lq 0) (.lq 1)) ∧
  decodeWord 0x40308200A0000000 = .ok (.vadd ⟨false, some 1, true⟩ (.reg 3) (.reg 1 false) (.reg 1 false)) ∧
  decodeWord 0x4010840002400000 = .ok (.vcmpGt none' 1 (.reg 1 false) (.reg 2 false)) ∧
  decodeWord 0x4411060000000000 = .ok (.vaddScalar none' (.reg 1) (.reg 2 false) 3) ∧
  decodeWord 0x481100000170FFFF = .ok (.vaddsImm none' (.reg 1) (.reg 2 false) 0xFFFF) ∧
  decodeWord 0x5430840000000000 = .ok (.mand false 3 1 2) ∧
  decodeWord 0x5820800000200401 = .ok (.vslideupImm none' (.reg 2) (.reg 1 false) 1 (.identity 0)) ∧
  decodeWord 0x5C508C0000000000 = .ok (.vredsum false none 5 (.reg 1 false) 6) ∧
  decodeWord 0x6032040000B00051 = .ok (.kancIs none' 3 (.reg 4 false) 2 ⟨some 5, none⟩) ∧
  decodeWord 0x80220C0000200002 = .ok (.vldx none 2 4 6 2) ∧ decodeWord 0x84A6034300000000 = .ok (.ldD 5 6 (.acq .package) 0) ∧
  decodeWord 0x8CE84B4500000000 = .ok (.amocasD 7 8 9 (.acq .package) 0) ∧ decodeWord 0x9030886000000000 = .ok (.cpy 3 1 2 3) ∧
  decodeWord 0x1400000200000001 = .error .reserved ∧ decodeWord 0xFC00000000000000 = .error .noPoint
end

