-- ==== Sys2Proof/Laws/State.lean ====
section
/-! SUPPORT. What each update of the state leaves in each field: one lemma a field, true by definition, so that a proof unfolds
no record update; and how a register, a thread and a hart read after one of them is written. -/
namespace Sys2Proof.Machine

open Sys2Proof

/-! ### Replacing a hart -/

@[simp] theorem setHart_mem (s : State) (i : Nat) (h : Hart) : (setHart s i h).mem = s.mem := rfl
@[simp] theorem setHart_poison (s : State) (i : Nat) (h : Hart) : (setHart s i h).poison = s.poison := rfl
@[simp] theorem setHart_l1 (s : State) (i : Nat) (h : Hart) : (setHart s i h).l1 = s.l1 := rfl
@[simp] theorem setHart_farCache (s : State) (i : Nat) (h : Hart) : (setHart s i h).farCache = s.farCache := rfl
@[simp] theorem setHart_tlb (s : State) (i : Nat) (h : Hart) : (setHart s i h).tlb = s.tlb := rfl
@[simp] theorem setHart_walkCache (s : State) (i : Nat) (h : Hart) : (setHart s i h).walkCache = s.walkCache := rfl
@[simp] theorem setHart_staged (s : State) (i : Nat) (h : Hart) : (setHart s i h).staged = s.staged := rfl
@[simp] theorem setHart_accs (s : State) (i : Nat) (h : Hart) : (setHart s i h).accs = s.accs := rfl
@[simp] theorem setHart_accOrder (s : State) (i : Nat) (h : Hart) : (setHart s i h).accOrder = s.accOrder := rfl
@[simp] theorem setHart_seams (s : State) (i : Nat) (h : Hart) : (setHart s i h).seams = s.seams := rfl
@[simp] theorem setHart_earlier (s : State) (i : Nat) (h : Hart) : (setHart s i h).earlier = s.earlier := rfl
@[simp] theorem setHart_watchers (s : State) (i : Nat) (h : Hart) : (setHart s i h).watchers = s.watchers := rfl
@[simp] theorem setHart_harts (s : State) (i : Nat) (h : Hart) : (setHart s i h).harts = s.harts.set i h := rfl
@[simp] theorem setHart_gangs (s : State) (i : Nat) (h : Hart) : (setHart s i h).gangs = s.gangs := rfl
@[simp] theorem setHart_queues (s : State) (i : Nat) (h : Hart) : (setHart s i h).queues = s.queues := rfl
@[simp] theorem setHart_parts (s : State) (i : Nat) (h : Hart) : (setHart s i h).parts = s.parts := rfl
@[simp] theorem setHart_nbconf (s : State) (i : Nat) (h : Hart) : (setHart s i h).nbconf = s.nbconf := rfl
@[simp] theorem setHart_contexts (s : State) (i : Nat) (h : Hart) : (setHart s i h).contexts = s.contexts := rfl
@[simp] theorem setHart_claimWait (s : State) (i : Nat) (h : Hart) : (setHart s i h).claimWait = s.claimWait := rfl
@[simp] theorem setHart_seamSeq (s : State) (i : Nat) (h : Hart) : (setHart s i h).seamSeq = s.seamSeq := rfl
@[simp] theorem setHart_waiters (s : State) (i : Nat) (h : Hart) : (setHart s i h).waiters = s.waiters := rfl
@[simp] theorem setHart_nextToken (s : State) (i : Nat) (h : Hart) : (setHart s i h).nextToken = s.nextToken := rfl
@[simp] theorem setHart_granted (s : State) (i : Nat) (h : Hart) : (setHart s i h).granted = s.granted := rfl
@[simp] theorem setHart_requests (s : State) (i : Nat) (h : Hart) : (setHart s i h).requests = s.requests := rfl
@[simp] theorem setHart_msix (s : State) (i : Nat) (h : Hart) : (setHart s i h).msix = s.msix := rfl
@[simp] theorem setHart_outside (s : State) (i : Nat) (h : Hart) : (setHart s i h).outside = s.outside := rfl
@[simp] theorem setHart_mgmt (s : State) (i : Nat) (h : Hart) : (setHart s i h).mgmt = s.mgmt := rfl
@[simp] theorem setHart_reads (s : State) (i : Nat) (h : Hart) : (setHart s i h).reads = s.reads := rfl
@[simp] theorem setHart_now (s : State) (i : Nat) (h : Hart) : (setHart s i h).now = s.now := rfl
@[simp] theorem setHart_tick (s : State) (i : Nat) (h : Hart) : (setHart s i h).tick = s.tick := rfl
@[simp] theorem setHart_agenda (s : State) (i : Nat) (h : Hart) : (setHart s i h).agenda = s.agenda := rfl
@[simp] theorem setHart_free (s : State) (i : Nat) (h : Hart) : (setHart s i h).free = s.free := rfl
@[simp] theorem setHart_cur (s : State) (i : Nat) (h : Hart) : (setHart s i h).cur = s.cur := rfl

@[simp] theorem modHart_mem (s : State) (i : Nat) (g : Hart → Hart) : (modHart s i g).mem = s.mem := rfl
@[simp] theorem modHart_poison (s : State) (i : Nat) (g : Hart → Hart) : (modHart s i g).poison = s.poison := rfl
@[simp] theorem modHart_l1 (s : State) (i : Nat) (g : Hart → Hart) : (modHart s i g).l1 = s.l1 := rfl
@[simp] theorem modHart_farCache (s : State) (i : Nat) (g : Hart → Hart) : (modHart s i g).farCache = s.farCache := rfl
@[simp] theorem modHart_tlb (s : State) (i : Nat) (g : Hart → Hart) : (modHart s i g).tlb = s.tlb := rfl
@[simp] theorem modHart_walkCache (s : State) (i : Nat) (g : Hart → Hart) : (modHart s i g).walkCache = s.walkCache := rfl
@[simp] theorem modHart_staged (s : State) (i : Nat) (g : Hart → Hart) : (modHart s i g).staged = s.staged := rfl
@[simp] theorem modHart_accs (s : State) (i : Nat) (g : Hart → Hart) : (modHart s i g).accs = s.accs := rfl
@[simp] theorem modHart_accOrder (s : State) (i : Nat) (g : Hart → Hart) : (modHart s i g).accOrder = s.accOrder := rfl
@[simp] theorem modHart_seams (s : State) (i : Nat) (g : Hart → Hart) : (modHart s i g).seams = s.seams := rfl
@[simp] theorem modHart_earlier (s : State) (i : Nat) (g : Hart → Hart) : (modHart s i g).earlier = s.earlier := rfl
@[simp] theorem modHart_watchers (s : State) (i : Nat) (g : Hart → Hart) : (modHart s i g).watchers = s.watchers := rfl
@[simp] theorem modHart_harts (s : State) (i : Nat) (g : Hart → Hart) : (modHart s i g).harts = s.harts.modify i g := rfl
@[simp] theorem modHart_gangs (s : State) (i : Nat) (g : Hart → Hart) : (modHart s i g).gangs = s.gangs := rfl
@[simp] theorem modHart_queues (s : State) (i : Nat) (g : Hart → Hart) : (modHart s i g).queues = s.queues := rfl
@[simp] theorem modHart_parts (s : State) (i : Nat) (g : Hart → Hart) : (modHart s i g).parts = s.parts := rfl
@[simp] theorem modHart_nbconf (s : State) (i : Nat) (g : Hart → Hart) : (modHart s i g).nbconf = s.nbconf := rfl
@[simp] theorem modHart_contexts (s : State) (i : Nat) (g : Hart → Hart) : (modHart s i g).contexts = s.contexts := rfl
@[simp] theorem modHart_claimWait (s : State) (i : Nat) (g : Hart → Hart) : (modHart s i g).claimWait = s.claimWait := rfl
@[simp] theorem modHart_seamSeq (s : State) (i : Nat) (g : Hart → Hart) : (modHart s i g).seamSeq = s.seamSeq := rfl
@[simp] theorem modHart_waiters (s : State) (i : Nat) (g : Hart → Hart) : (modHart s i g).waiters = s.waiters := rfl
@[simp] theorem modHart_nextToken (s : State) (i : Nat) (g : Hart → Hart) : (modHart s i g).nextToken = s.nextToken := rfl
@[simp] theorem modHart_granted (s : State) (i : Nat) (g : Hart → Hart) : (modHart s i g).granted = s.granted := rfl
@[simp] theorem modHart_requests (s : State) (i : Nat) (g : Hart → Hart) : (modHart s i g).requests = s.requests := rfl
@[simp] theorem modHart_msix (s : State) (i : Nat) (g : Hart → Hart) : (modHart s i g).msix = s.msix := rfl
@[simp] theorem modHart_outside (s : State) (i : Nat) (g : Hart → Hart) : (modHart s i g).outside = s.outside := rfl
@[simp] theorem modHart_mgmt (s : State) (i : Nat) (g : Hart → Hart) : (modHart s i g).mgmt = s.mgmt := rfl
@[simp] theorem modHart_reads (s : State) (i : Nat) (g : Hart → Hart) : (modHart s i g).reads = s.reads := rfl
@[simp] theorem modHart_now (s : State) (i : Nat) (g : Hart → Hart) : (modHart s i g).now = s.now := rfl
@[simp] theorem modHart_tick (s : State) (i : Nat) (g : Hart → Hart) : (modHart s i g).tick = s.tick := rfl
@[simp] theorem modHart_agenda (s : State) (i : Nat) (g : Hart → Hart) : (modHart s i g).agenda = s.agenda := rfl
@[simp] theorem modHart_free (s : State) (i : Nat) (g : Hart → Hart) : (modHart s i g).free = s.free := rfl
@[simp] theorem modHart_cur (s : State) (i : Nat) (g : Hart → Hart) : (modHart s i g).cur = s.cur := rfl

@[simp] theorem put_mem (s : State) (h : Hart) : (s.put h).mem = s.mem := rfl
@[simp] theorem put_poison (s : State) (h : Hart) : (s.put h).poison = s.poison := rfl
@[simp] theorem put_l1 (s : State) (h : Hart) : (s.put h).l1 = s.l1 := rfl
@[simp] theorem put_farCache (s : State) (h : Hart) : (s.put h).farCache = s.farCache := rfl
@[simp] theorem put_tlb (s : State) (h : Hart) : (s.put h).tlb = s.tlb := rfl
@[simp] theorem put_walkCache (s : State) (h : Hart) : (s.put h).walkCache = s.walkCache := rfl
@[simp] theorem put_staged (s : State) (h : Hart) : (s.put h).staged = s.staged := rfl
@[simp] theorem put_accs (s : State) (h : Hart) : (s.put h).accs = s.accs := rfl
@[simp] theorem put_accOrder (s : State) (h : Hart) : (s.put h).accOrder = s.accOrder := rfl
@[simp] theorem put_seams (s : State) (h : Hart) : (s.put h).seams = s.seams := rfl
@[simp] theorem put_earlier (s : State) (h : Hart) : (s.put h).earlier = s.earlier := rfl
@[simp] theorem put_watchers (s : State) (h : Hart) : (s.put h).watchers = s.watchers := rfl
@[simp] theorem put_harts (s : State) (h : Hart) : (s.put h).harts = s.harts.set s.cur.hart h := rfl
@[simp] theorem put_gangs (s : State) (h : Hart) : (s.put h).gangs = s.gangs := rfl
@[simp] theorem put_queues (s : State) (h : Hart) : (s.put h).queues = s.queues := rfl
@[simp] theorem put_parts (s : State) (h : Hart) : (s.put h).parts = s.parts := rfl
@[simp] theorem put_nbconf (s : State) (h : Hart) : (s.put h).nbconf = s.nbconf := rfl
@[simp] theorem put_contexts (s : State) (h : Hart) : (s.put h).contexts = s.contexts := rfl
@[simp] theorem put_claimWait (s : State) (h : Hart) : (s.put h).claimWait = s.claimWait := rfl
@[simp] theorem put_seamSeq (s : State) (h : Hart) : (s.put h).seamSeq = s.seamSeq := rfl
@[simp] theorem put_waiters (s : State) (h : Hart) : (s.put h).waiters = s.waiters := rfl
@[simp] theorem put_nextToken (s : State) (h : Hart) : (s.put h).nextToken = s.nextToken := rfl
@[simp] theorem put_granted (s : State) (h : Hart) : (s.put h).granted = s.granted := rfl
@[simp] theorem put_requests (s : State) (h : Hart) : (s.put h).requests = s.requests := rfl
@[simp] theorem put_msix (s : State) (h : Hart) : (s.put h).msix = s.msix := rfl
@[simp] theorem put_outside (s : State) (h : Hart) : (s.put h).outside = s.outside := rfl
@[simp] theorem put_mgmt (s : State) (h : Hart) : (s.put h).mgmt = s.mgmt := rfl
@[simp] theorem put_reads (s : State) (h : Hart) : (s.put h).reads = s.reads := rfl
@[simp] theorem put_now (s : State) (h : Hart) : (s.put h).now = s.now := rfl
@[simp] theorem put_tick (s : State) (h : Hart) : (s.put h).tick = s.tick := rfl
@[simp] theorem put_agenda (s : State) (h : Hart) : (s.put h).agenda = s.agenda := rfl
@[simp] theorem put_free (s : State) (h : Hart) : (s.put h).free = s.free := rfl
@[simp] theorem put_cur (s : State) (h : Hart) : (s.put h).cur = s.cur := rfl

@[simp] theorem modMgmt_mem (s : State) (g : Management → Management) : (modMgmt s g).mem = s.mem := rfl
@[simp] theorem modMgmt_poison (s : State) (g : Management → Management) : (modMgmt s g).poison = s.poison := rfl
@[simp] theorem modMgmt_l1 (s : State) (g : Management → Management) : (modMgmt s g).l1 = s.l1 := rfl
@[simp] theorem modMgmt_farCache (s : State) (g : Management → Management) : (modMgmt s g).farCache = s.farCache := rfl
@[simp] theorem modMgmt_tlb (s : State) (g : Management → Management) : (modMgmt s g).tlb = s.tlb := rfl
@[simp] theorem modMgmt_walkCache (s : State) (g : Management → Management) : (modMgmt s g).walkCache = s.walkCache := rfl
@[simp] theorem modMgmt_staged (s : State) (g : Management → Management) : (modMgmt s g).staged = s.staged := rfl
@[simp] theorem modMgmt_accs (s : State) (g : Management → Management) : (modMgmt s g).accs = s.accs := rfl
@[simp] theorem modMgmt_accOrder (s : State) (g : Management → Management) : (modMgmt s g).accOrder = s.accOrder := rfl
@[simp] theorem modMgmt_seams (s : State) (g : Management → Management) : (modMgmt s g).seams = s.seams := rfl
@[simp] theorem modMgmt_earlier (s : State) (g : Management → Management) : (modMgmt s g).earlier = s.earlier := rfl
@[simp] theorem modMgmt_watchers (s : State) (g : Management → Management) : (modMgmt s g).watchers = s.watchers := rfl
@[simp] theorem modMgmt_harts (s : State) (g : Management → Management) : (modMgmt s g).harts = s.harts := rfl
@[simp] theorem modMgmt_gangs (s : State) (g : Management → Management) : (modMgmt s g).gangs = s.gangs := rfl
@[simp] theorem modMgmt_queues (s : State) (g : Management → Management) : (modMgmt s g).queues = s.queues := rfl
@[simp] theorem modMgmt_parts (s : State) (g : Management → Management) : (modMgmt s g).parts = s.parts := rfl
@[simp] theorem modMgmt_nbconf (s : State) (g : Management → Management) : (modMgmt s g).nbconf = s.nbconf := rfl
@[simp] theorem modMgmt_contexts (s : State) (g : Management → Management) : (modMgmt s g).contexts = s.contexts := rfl
@[simp] theorem modMgmt_claimWait (s : State) (g : Management → Management) : (modMgmt s g).claimWait = s.claimWait := rfl
@[simp] theorem modMgmt_seamSeq (s : State) (g : Management → Management) : (modMgmt s g).seamSeq = s.seamSeq := rfl
@[simp] theorem modMgmt_waiters (s : State) (g : Management → Management) : (modMgmt s g).waiters = s.waiters := rfl
@[simp] theorem modMgmt_nextToken (s : State) (g : Management → Management) : (modMgmt s g).nextToken = s.nextToken := rfl
@[simp] theorem modMgmt_granted (s : State) (g : Management → Management) : (modMgmt s g).granted = s.granted := rfl
@[simp] theorem modMgmt_requests (s : State) (g : Management → Management) : (modMgmt s g).requests = s.requests := rfl
@[simp] theorem modMgmt_msix (s : State) (g : Management → Management) : (modMgmt s g).msix = s.msix := rfl
@[simp] theorem modMgmt_outside (s : State) (g : Management → Management) : (modMgmt s g).outside = s.outside := rfl
@[simp] theorem modMgmt_mgmt (s : State) (g : Management → Management) : (modMgmt s g).mgmt = g s.mgmt := rfl
@[simp] theorem modMgmt_reads (s : State) (g : Management → Management) : (modMgmt s g).reads = s.reads := rfl
@[simp] theorem modMgmt_now (s : State) (g : Management → Management) : (modMgmt s g).now = s.now := rfl
@[simp] theorem modMgmt_tick (s : State) (g : Management → Management) : (modMgmt s g).tick = s.tick := rfl
@[simp] theorem modMgmt_agenda (s : State) (g : Management → Management) : (modMgmt s g).agenda = s.agenda := rfl
@[simp] theorem modMgmt_free (s : State) (g : Management → Management) : (modMgmt s g).free = s.free := rfl
@[simp] theorem modMgmt_cur (s : State) (g : Management → Management) : (modMgmt s g).cur = s.cur := rfl

@[simp] theorem putQueue_mem (s : State) (x : LaunchQueue) : (putQueue s x).mem = s.mem := rfl
@[simp] theorem putQueue_poison (s : State) (x : LaunchQueue) : (putQueue s x).poison = s.poison := rfl
@[simp] theorem putQueue_l1 (s : State) (x : LaunchQueue) : (putQueue s x).l1 = s.l1 := rfl
@[simp] theorem putQueue_farCache (s : State) (x : LaunchQueue) : (putQueue s x).farCache = s.farCache := rfl
@[simp] theorem putQueue_tlb (s : State) (x : LaunchQueue) : (putQueue s x).tlb = s.tlb := rfl
@[simp] theorem putQueue_walkCache (s : State) (x : LaunchQueue) : (putQueue s x).walkCache = s.walkCache := rfl
@[simp] theorem putQueue_staged (s : State) (x : LaunchQueue) : (putQueue s x).staged = s.staged := rfl
@[simp] theorem putQueue_accs (s : State) (x : LaunchQueue) : (putQueue s x).accs = s.accs := rfl
@[simp] theorem putQueue_accOrder (s : State) (x : LaunchQueue) : (putQueue s x).accOrder = s.accOrder := rfl
@[simp] theorem putQueue_seams (s : State) (x : LaunchQueue) : (putQueue s x).seams = s.seams := rfl
@[simp] theorem putQueue_earlier (s : State) (x : LaunchQueue) : (putQueue s x).earlier = s.earlier := rfl
@[simp] theorem putQueue_watchers (s : State) (x : LaunchQueue) : (putQueue s x).watchers = s.watchers := rfl
@[simp] theorem putQueue_harts (s : State) (x : LaunchQueue) : (putQueue s x).harts = s.harts := rfl
@[simp] theorem putQueue_gangs (s : State) (x : LaunchQueue) : (putQueue s x).gangs = s.gangs := rfl
@[simp] theorem putQueue_parts (s : State) (x : LaunchQueue) : (putQueue s x).parts = s.parts := rfl
@[simp] theorem putQueue_nbconf (s : State) (x : LaunchQueue) : (putQueue s x).nbconf = s.nbconf := rfl
@[simp] theorem putQueue_contexts (s : State) (x : LaunchQueue) : (putQueue s x).contexts = s.contexts := rfl
@[simp] theorem putQueue_claimWait (s : State) (x : LaunchQueue) : (putQueue s x).claimWait = s.claimWait := rfl
@[simp] theorem putQueue_seamSeq (s : State) (x : LaunchQueue) : (putQueue s x).seamSeq = s.seamSeq := rfl
@[simp] theorem putQueue_waiters (s : State) (x : LaunchQueue) : (putQueue s x).waiters = s.waiters := rfl
@[simp] theorem putQueue_nextToken (s : State) (x : LaunchQueue) : (putQueue s x).nextToken = s.nextToken := rfl
@[simp] theorem putQueue_granted (s : State) (x : LaunchQueue) : (putQueue s x).granted = s.granted := rfl
@[simp] theorem putQueue_requests (s : State) (x : LaunchQueue) : (putQueue s x).requests = s.requests := rfl
@[simp] theorem putQueue_msix (s : State) (x : LaunchQueue) : (putQueue s x).msix = s.msix := rfl
@[simp] theorem putQueue_outside (s : State) (x : LaunchQueue) : (putQueue s x).outside = s.outside := rfl
@[simp] theorem putQueue_mgmt (s : State) (x : LaunchQueue) : (putQueue s x).mgmt = s.mgmt := rfl
@[simp] theorem putQueue_reads (s : State) (x : LaunchQueue) : (putQueue s x).reads = s.reads := rfl
@[simp] theorem putQueue_now (s : State) (x : LaunchQueue) : (putQueue s x).now = s.now := rfl
@[simp] theorem putQueue_tick (s : State) (x : LaunchQueue) : (putQueue s x).tick = s.tick := rfl
@[simp] theorem putQueue_agenda (s : State) (x : LaunchQueue) : (putQueue s x).agenda = s.agenda := rfl
@[simp] theorem putQueue_free (s : State) (x : LaunchQueue) : (putQueue s x).free = s.free := rfl
@[simp] theorem putQueue_cur (s : State) (x : LaunchQueue) : (putQueue s x).cur = s.cur := rfl

/-! ### A thread of a hart -/

@[simp] theorem setTh_part (h : Hart) (t : Thread) (x : ThreadState) : (h.setTh t x).part = h.part := by cases t <;> rfl
@[simp] theorem setReg_part (h : Hart) (t : Thread) (r : Reg) (v : Word) : (h.setReg t r v).part = h.part := by cases t <;> rfl
@[simp] theorem goto_part (h : Hart) (t : Thread) (a : Word) : (h.goto t a).part = h.part := by cases t <;> rfl
@[simp] theorem advance_part (h : Hart) (t : Thread) : (h.advance t).part = h.part := by cases t <;> rfl
@[simp] theorem raise_part (h : Hart) (t : Thread) (f : Flags) : (h.raise t f).part = h.part := by cases t <;> rfl
@[simp] theorem setTh_gang (h : Hart) (t : Thread) (x : ThreadState) : (h.setTh t x).gang = h.gang := by cases t <;> rfl
@[simp] theorem setReg_gang (h : Hart) (t : Thread) (r : Reg) (v : Word) : (h.setReg t r v).gang = h.gang := by cases t <;> rfl
@[simp] theorem goto_gang (h : Hart) (t : Thread) (a : Word) : (h.goto t a).gang = h.gang := by cases t <;> rfl
@[simp] theorem advance_gang (h : Hart) (t : Thread) : (h.advance t).gang = h.gang := by cases t <;> rfl
@[simp] theorem raise_gang (h : Hart) (t : Thread) (f : Flags) : (h.raise t f).gang = h.gang := by cases t <;> rfl
@[simp] theorem setTh_hartid (h : Hart) (t : Thread) (x : ThreadState) : (h.setTh t x).hartid = h.hartid := by cases t <;> rfl
@[simp] theorem setReg_hartid (h : Hart) (t : Thread) (r : Reg) (v : Word) : (h.setReg t r v).hartid = h.hartid := by cases t <;> rfl
@[simp] theorem goto_hartid (h : Hart) (t : Thread) (a : Word) : (h.goto t a).hartid = h.hartid := by cases t <;> rfl
@[simp] theorem advance_hartid (h : Hart) (t : Thread) : (h.advance t).hartid = h.hartid := by cases t <;> rfl
@[simp] theorem raise_hartid (h : Hart) (t : Thread) (f : Flags) : (h.raise t f).hartid = h.hartid := by cases t <;> rfl
@[simp] theorem setTh_gangsize (h : Hart) (t : Thread) (x : ThreadState) : (h.setTh t x).gangsize = h.gangsize := by cases t <;> rfl
@[simp] theorem setReg_gangsize (h : Hart) (t : Thread) (r : Reg) (v : Word) : (h.setReg t r v).gangsize = h.gangsize := by cases t <;> rfl
@[simp] theorem goto_gangsize (h : Hart) (t : Thread) (a : Word) : (h.goto t a).gangsize = h.gangsize := by cases t <;> rfl
@[simp] theorem advance_gangsize (h : Hart) (t : Thread) : (h.advance t).gangsize = h.gangsize := by cases t <;> rfl
@[simp] theorem raise_gangsize (h : Hart) (t : Thread) (f : Flags) : (h.raise t f).gangsize = h.gangsize := by cases t <;> rfl
@[simp] theorem setTh_cls (h : Hart) (t : Thread) (x : ThreadState) : (h.setTh t x).cls = h.cls := by cases t <;> rfl
@[simp] theorem setReg_cls (h : Hart) (t : Thread) (r : Reg) (v : Word) : (h.setReg t r v).cls = h.cls := by cases t <;> rfl
@[simp] theorem goto_cls (h : Hart) (t : Thread) (a : Word) : (h.goto t a).cls = h.cls := by cases t <;> rfl
@[simp] theorem advance_cls (h : Hart) (t : Thread) : (h.advance t).cls = h.cls := by cases t <;> rfl
@[simp] theorem raise_cls (h : Hart) (t : Thread) (f : Flags) : (h.raise t f).cls = h.cls := by cases t <;> rfl
@[simp] theorem setTh_det (h : Hart) (t : Thread) (x : ThreadState) : (h.setTh t x).det = h.det := by cases t <;> rfl
@[simp] theorem setReg_det (h : Hart) (t : Thread) (r : Reg) (v : Word) : (h.setReg t r v).det = h.det := by cases t <;> rfl
@[simp] theorem goto_det (h : Hart) (t : Thread) (a : Word) : (h.goto t a).det = h.det := by cases t <;> rfl
@[simp] theorem advance_det (h : Hart) (t : Thread) : (h.advance t).det = h.det := by cases t <;> rfl
@[simp] theorem raise_det (h : Hart) (t : Thread) (f : Flags) : (h.raise t f).det = h.det := by cases t <;> rfl
@[simp] theorem setTh_super (h : Hart) (t : Thread) (x : ThreadState) : (h.setTh t x).super = h.super := by cases t <;> rfl
@[simp] theorem setReg_super (h : Hart) (t : Thread) (r : Reg) (v : Word) : (h.setReg t r v).super = h.super := by cases t <;> rfl
@[simp] theorem goto_super (h : Hart) (t : Thread) (a : Word) : (h.goto t a).super = h.super := by cases t <;> rfl
@[simp] theorem advance_super (h : Hart) (t : Thread) : (h.advance t).super = h.super := by cases t <;> rfl
@[simp] theorem raise_super (h : Hart) (t : Thread) (f : Flags) : (h.raise t f).super = h.super := by cases t <;> rfl
@[simp] theorem setTh_core (h : Hart) (t : Thread) (x : ThreadState) : (h.setTh t x).core = h.core := by cases t <;> rfl
@[simp] theorem setReg_core (h : Hart) (t : Thread) (r : Reg) (v : Word) : (h.setReg t r v).core = h.core := by cases t <;> rfl
@[simp] theorem goto_core (h : Hart) (t : Thread) (a : Word) : (h.goto t a).core = h.core := by cases t <;> rfl
@[simp] theorem advance_core (h : Hart) (t : Thread) : (h.advance t).core = h.core := by cases t <;> rfl
@[simp] theorem raise_core (h : Hart) (t : Thread) (f : Flags) : (h.raise t f).core = h.core := by cases t <;> rfl
@[simp] theorem setTh_tracks (h : Hart) (t : Thread) (x : ThreadState) : (h.setTh t x).tracks = h.tracks := by cases t <;> rfl
@[simp] theorem setReg_tracks (h : Hart) (t : Thread) (r : Reg) (v : Word) : (h.setReg t r v).tracks = h.tracks := by cases t <;> rfl
@[simp] theorem goto_tracks (h : Hart) (t : Thread) (a : Word) : (h.goto t a).tracks = h.tracks := by cases t <;> rfl
@[simp] theorem advance_tracks (h : Hart) (t : Thread) : (h.advance t).tracks = h.tracks := by cases t <;> rfl
@[simp] theorem raise_tracks (h : Hart) (t : Thread) (f : Flags) : (h.raise t f).tracks = h.tracks := by cases t <;> rfl
@[simp] theorem setTh_share (h : Hart) (t : Thread) (x : ThreadState) : (h.setTh t x).share = h.share := by cases t <;> rfl
@[simp] theorem setReg_share (h : Hart) (t : Thread) (r : Reg) (v : Word) : (h.setReg t r v).share = h.share := by cases t <;> rfl
@[simp] theorem goto_share (h : Hart) (t : Thread) (a : Word) : (h.goto t a).share = h.share := by cases t <;> rfl
@[simp] theorem advance_share (h : Hart) (t : Thread) : (h.advance t).share = h.share := by cases t <;> rfl
@[simp] theorem raise_share (h : Hart) (t : Thread) (f : Flags) : (h.raise t f).share = h.share := by cases t <;> rfl
@[simp] theorem setTh_slot (h : Hart) (t : Thread) (x : ThreadState) : (h.setTh t x).slot = h.slot := by cases t <;> rfl
@[simp] theorem setReg_slot (h : Hart) (t : Thread) (r : Reg) (v : Word) : (h.setReg t r v).slot = h.slot := by cases t <;> rfl
@[simp] theorem goto_slot (h : Hart) (t : Thread) (a : Word) : (h.goto t a).slot = h.slot := by cases t <;> rfl
@[simp] theorem advance_slot (h : Hart) (t : Thread) : (h.advance t).slot = h.slot := by cases t <;> rfl
@[simp] theorem raise_slot (h : Hart) (t : Thread) (f : Flags) : (h.raise t f).slot = h.slot := by cases t <;> rfl
@[simp] theorem setTh_mode (h : Hart) (t : Thread) (x : ThreadState) : (h.setTh t x).mode = h.mode := by cases t <;> rfl
@[simp] theorem setReg_mode (h : Hart) (t : Thread) (r : Reg) (v : Word) : (h.setReg t r v).mode = h.mode := by cases t <;> rfl
@[simp] theorem goto_mode (h : Hart) (t : Thread) (a : Word) : (h.goto t a).mode = h.mode := by cases t <;> rfl
@[simp] theorem advance_mode (h : Hart) (t : Thread) : (h.advance t).mode = h.mode := by cases t <;> rfl
@[simp] theorem raise_mode (h : Hart) (t : Thread) (f : Flags) : (h.raise t f).mode = h.mode := by cases t <;> rfl
@[simp] theorem setTh_stopHard (h : Hart) (t : Thread) (x : ThreadState) : (h.setTh t x).stopHard = h.stopHard := by cases t <;> rfl
@[simp] theorem setReg_stopHard (h : Hart) (t : Thread) (r : Reg) (v : Word) : (h.setReg t r v).stopHard = h.stopHard := by cases t <;> rfl
@[simp] theorem goto_stopHard (h : Hart) (t : Thread) (a : Word) : (h.goto t a).stopHard = h.stopHard := by cases t <;> rfl
@[simp] theorem advance_stopHard (h : Hart) (t : Thread) : (h.advance t).stopHard = h.stopHard := by cases t <;> rfl
@[simp] theorem raise_stopHard (h : Hart) (t : Thread) (f : Flags) : (h.raise t f).stopHard = h.stopHard := by cases t <;> rfl
@[simp] theorem setTh_resumeOk (h : Hart) (t : Thread) (x : ThreadState) : (h.setTh t x).resumeOk = h.resumeOk := by cases t <;> rfl
@[simp] theorem setReg_resumeOk (h : Hart) (t : Thread) (r : Reg) (v : Word) : (h.setReg t r v).resumeOk = h.resumeOk := by cases t <;> rfl
@[simp] theorem goto_resumeOk (h : Hart) (t : Thread) (a : Word) : (h.goto t a).resumeOk = h.resumeOk := by cases t <;> rfl
@[simp] theorem advance_resumeOk (h : Hart) (t : Thread) : (h.advance t).resumeOk = h.resumeOk := by cases t <;> rfl
@[simp] theorem raise_resumeOk (h : Hart) (t : Thread) (f : Flags) : (h.raise t f).resumeOk = h.resumeOk := by cases t <;> rfl
@[simp] theorem setTh_trapHeld (h : Hart) (t : Thread) (x : ThreadState) : (h.setTh t x).trapHeld = h.trapHeld := by cases t <;> rfl
@[simp] theorem setTh_trapWait (h : Hart) (t : Thread) (x : ThreadState) : (h.setTh t x).trapWait = h.trapWait := by cases t <;> rfl
@[simp] theorem setReg_trapHeld (h : Hart) (t : Thread) (r : Reg) (v : Word) : (h.setReg t r v).trapHeld = h.trapHeld := by cases t <;> rfl
@[simp] theorem setReg_trapWait (h : Hart) (t : Thread) (r : Reg) (v : Word) : (h.setReg t r v).trapWait = h.trapWait := by cases t <;> rfl
@[simp] theorem goto_trapHeld (h : Hart) (t : Thread) (a : Word) : (h.goto t a).trapHeld = h.trapHeld := by cases t <;> rfl
@[simp] theorem goto_trapWait (h : Hart) (t : Thread) (a : Word) : (h.goto t a).trapWait = h.trapWait := by cases t <;> rfl
@[simp] theorem advance_trapHeld (h : Hart) (t : Thread) : (h.advance t).trapHeld = h.trapHeld := by cases t <;> rfl
@[simp] theorem advance_trapWait (h : Hart) (t : Thread) : (h.advance t).trapWait = h.trapWait := by cases t <;> rfl
@[simp] theorem raise_trapHeld (h : Hart) (t : Thread) (f : Flags) : (h.raise t f).trapHeld = h.trapHeld := by cases t <;> rfl
@[simp] theorem raise_trapWait (h : Hart) (t : Thread) (f : Flags) : (h.raise t f).trapWait = h.trapWait := by cases t <;> rfl
@[simp] theorem setTh_lq (h : Hart) (t : Thread) (x : ThreadState) : (h.setTh t x).lq = h.lq := by cases t <;> rfl
@[simp] theorem setReg_lq (h : Hart) (t : Thread) (r : Reg) (v : Word) : (h.setReg t r v).lq = h.lq := by cases t <;> rfl
@[simp] theorem goto_lq (h : Hart) (t : Thread) (a : Word) : (h.goto t a).lq = h.lq := by cases t <;> rfl
@[simp] theorem advance_lq (h : Hart) (t : Thread) : (h.advance t).lq = h.lq := by cases t <;> rfl
@[simp] theorem raise_lq (h : Hart) (t : Thread) (f : Flags) : (h.raise t f).lq = h.lq := by cases t <;> rfl
@[simp] theorem setTh_sq (h : Hart) (t : Thread) (x : ThreadState) : (h.setTh t x).sq = h.sq := by cases t <;> rfl
@[simp] theorem setReg_sq (h : Hart) (t : Thread) (r : Reg) (v : Word) : (h.setReg t r v).sq = h.sq := by cases t <;> rfl
@[simp] theorem goto_sq (h : Hart) (t : Thread) (a : Word) : (h.goto t a).sq = h.sq := by cases t <;> rfl
@[simp] theorem advance_sq (h : Hart) (t : Thread) : (h.advance t).sq = h.sq := by cases t <;> rfl
@[simp] theorem raise_sq (h : Hart) (t : Thread) (f : Flags) : (h.raise t f).sq = h.sq := by cases t <;> rfl
@[simp] theorem setTh_qa (h : Hart) (t : Thread) (x : ThreadState) : (h.setTh t x).qa = h.qa := by cases t <;> rfl
@[simp] theorem setReg_qa (h : Hart) (t : Thread) (r : Reg) (v : Word) : (h.setReg t r v).qa = h.qa := by cases t <;> rfl
@[simp] theorem goto_qa (h : Hart) (t : Thread) (a : Word) : (h.goto t a).qa = h.qa := by cases t <;> rfl
@[simp] theorem advance_qa (h : Hart) (t : Thread) : (h.advance t).qa = h.qa := by cases t <;> rfl
@[simp] theorem raise_qa (h : Hart) (t : Thread) (f : Flags) : (h.raise t f).qa = h.qa := by cases t <;> rfl
@[simp] theorem setTh_qc (h : Hart) (t : Thread) (x : ThreadState) : (h.setTh t x).qc = h.qc := by cases t <;> rfl
@[simp] theorem setReg_qc (h : Hart) (t : Thread) (r : Reg) (v : Word) : (h.setReg t r v).qc = h.qc := by cases t <;> rfl
@[simp] theorem goto_qc (h : Hart) (t : Thread) (a : Word) : (h.goto t a).qc = h.qc := by cases t <;> rfl
@[simp] theorem advance_qc (h : Hart) (t : Thread) : (h.advance t).qc = h.qc := by cases t <;> rfl
@[simp] theorem raise_qc (h : Hart) (t : Thread) (f : Flags) : (h.raise t f).qc = h.qc := by cases t <;> rfl
@[simp] theorem setTh_area (h : Hart) (t : Thread) (x : ThreadState) : (h.setTh t x).area = h.area := by cases t <;> rfl
@[simp] theorem setReg_area (h : Hart) (t : Thread) (r : Reg) (v : Word) : (h.setReg t r v).area = h.area := by cases t <;> rfl
@[simp] theorem goto_area (h : Hart) (t : Thread) (a : Word) : (h.goto t a).area = h.area := by cases t <;> rfl
@[simp] theorem advance_area (h : Hart) (t : Thread) : (h.advance t).area = h.area := by cases t <;> rfl
@[simp] theorem raise_area (h : Hart) (t : Thread) (f : Flags) : (h.raise t f).area = h.area := by cases t <;> rfl
@[simp] theorem setTh_outst (h : Hart) (t : Thread) (x : ThreadState) : (h.setTh t x).outst = h.outst := by cases t <;> rfl
@[simp] theorem setReg_outst (h : Hart) (t : Thread) (r : Reg) (v : Word) : (h.setReg t r v).outst = h.outst := by cases t <;> rfl
@[simp] theorem goto_outst (h : Hart) (t : Thread) (a : Word) : (h.goto t a).outst = h.outst := by cases t <;> rfl
@[simp] theorem advance_outst (h : Hart) (t : Thread) : (h.advance t).outst = h.outst := by cases t <;> rfl
@[simp] theorem raise_outst (h : Hart) (t : Thread) (f : Flags) : (h.raise t f).outst = h.outst := by cases t <;> rfl

@[simp] theorem th_setTh (h : Hart) (t : Thread) (x : ThreadState) : (h.setTh t x).th t = x := by cases t <;> rfl
theorem th_setTh_other (h : Hart) (t u : Thread) (x : ThreadState) (hu : u ≠ t) : (h.setTh t x).th u = h.th u := by
  cases t <;> cases u <;> first | rfl | exact absurd rfl hu
@[simp] theorem setTh_setTh (h : Hart) (t : Thread) (x y : ThreadState) : (h.setTh t x).setTh t y = h.setTh t y := by cases t <;> rfl
@[simp] theorem setTh_th (h : Hart) (t : Thread) : h.setTh t (h.th t) = h := by cases t <;> rfl
@[simp] theorem th_goto (h : Hart) (t : Thread) (a : Word) : (h.goto t a).th t = { h.th t with pc := a } := by cases t <;> rfl
@[simp] theorem th_advance (h : Hart) (t : Thread) : (h.advance t).th t = { h.th t with pc := (h.th t).pc + 8 } := by
  cases t <;> rfl
@[simp] theorem th_setReg (h : Hart) (t : Thread) (r : Reg) (v : Word) :
    (h.setReg t r v).th t = { h.th t with regs := regSet (h.th t).regs r v, lost := (h.th t).lost.filter (· != r) } := by
  cases t <;> rfl
theorem th_setReg_other (h : Hart) (t u : Thread) (r : Reg) (v : Word) (hu : u ≠ t) : (h.setReg t r v).th u = h.th u := by
  cases t <;> cases u <;> first | rfl | exact absurd rfl hu
@[simp] theorem th_raise (h : Hart) (t : Thread) (f : Flags) :
    (h.raise t f).th t = { h.th t with fflags := orFlags (h.th t).fflags f } := by cases t <;> rfl

/-! ### Scalar registers (R47) -/

@[simp] theorem regGet_zero (f : ScalarFile) : regGet f 0 = 0 := by simp [regGet]

theorem regGet_regSet (f : ScalarFile) (r q : Reg) (v : Word) :
    regGet (regSet f r v) q = if q = r ∧ r ≠ 0 then v else regGet f q := by
  unfold regGet regSet
  by_cases hr : r = 0
  · simp [hr]
  · by_cases hq : q = r
    · subst hq; simp [hr]
    · have h2 : ¬ (r : Nat) = q := fun e => hq (Fin.ext e.symm)
      by_cases h0 : q = 0
      · subst h0
        have : ¬ (0 : Reg) = r := fun e => hr e.symm
        simp [this]
      · simp [hr, hq, h0, h2]

@[simp] theorem reg_zero (h : Hart) (t : Thread) : h.reg t 0 = 0 := regGet_zero _

theorem reg_setReg (h : Hart) (t : Thread) (r q : Reg) (v : Word) :
    (h.setReg t r v).reg t q = if q = r ∧ r ≠ 0 then v else h.reg t q := by
  simp [Hart.reg, regGet_regSet]

@[simp] theorem reg_goto (h : Hart) (t : Thread) (a : Word) (r : Reg) : (h.goto t a).reg t r = h.reg t r := by simp [Hart.reg]
@[simp] theorem reg_advance (h : Hart) (t : Thread) (r : Reg) : (h.advance t).reg t r = h.reg t r := by simp [Hart.reg]
@[simp] theorem reg_raise (h : Hart) (t : Thread) (f : Flags) (r : Reg) : (h.raise t f).reg t r = h.reg t r := by simp [Hart.reg]

/-! ### The executing hart -/

theorem put_get {s : State} {h : Hart} (h' : Hart) (hs : s.harts[s.cur.hart]? = some h) :
    (s.put h').harts[s.cur.hart]? = some h' := by
  have : s.cur.hart < s.harts.length := by
    rw [List.getElem?_eq_some_iff] at hs; exact hs.1
  simp [this]

theorem put_get_other (s : State) (h' : Hart) {i : Nat} (hi : i ≠ s.cur.hart) : (s.put h').harts[i]? = s.harts[i]? := by
  simp [Ne.symm hi]

/-- Putting back the hart that is there changes nothing. -/
theorem put_self {s : State} {h : Hart} (hs : s.harts[s.cur.hart]? = some h) : s.put h = s := by
  have hh : s.harts.set s.cur.hart h = s.harts := by
    rw [List.getElem?_eq_some_iff] at hs
    obtain ⟨hlt, rfl⟩ := hs
    exact List.set_getElem_self hlt
  simp [State.put, hh]

theorem runs_put {s : State} {h : Hart} {t : Thread} (h' : Hart) (hr : s.runs h t) : (s.put h').runs h' t :=
  ⟨put_get h' hr.1, hr.2⟩

end Sys2Proof.Machine
end

