-- ==== Sys2Proof/Laws/Memory.lean ====
section
/-! SUPPORT. Memory keeps its canonical form (log 3), reads what was written, and keeps every byte that was not; equal contents are
equal memories. -/
namespace Sys2Proof.Machine

open Sys2Proof

/-! ### The canonical form -/

theorem Memory.wf_iff (m : List Host.Cell) :
    Memory.wf m = true ↔ m.Pairwise (fun c d => c.1 < d.1) ∧ ∀ c ∈ m, c.2 ≠ 0 := by
  induction m with
  | nil => simp [Memory.wf]
  | cons c m ih =>
    cases m with
    | nil => simp [Memory.wf]
    | cons d rest =>
      simp only [Memory.wf, Bool.and_eq_true, decide_eq_true_eq, ih, List.pairwise_cons, List.mem_cons, bne_iff_ne]
      constructor
      · rintro ⟨⟨h1, h2⟩, ⟨h3, h4⟩, h5⟩
        refine ⟨⟨?_, h3, h4⟩, ?_⟩
        · rintro x (rfl | hx)
          · exact h2
          · exact Nat.lt_trans h2 (h3 x hx)
        · rintro x (rfl | rfl | hx)
          · exact h1
          · exact h5 _ (Or.inl rfl)
          · exact h5 x (Or.inr hx)
      · rintro ⟨⟨h1, h2, h3⟩, h4⟩
        exact ⟨⟨h4 c (Or.inl rfl), h1 d (Or.inl rfl)⟩, ⟨h2, h3⟩, fun x hx => h4 x (Or.inr hx)⟩

theorem Memory.wf_tail {c : Host.Cell} {m : List Host.Cell} (h : Memory.wf (c :: m) = true) : Memory.wf m = true := by
  rw [Memory.wf_iff] at *
  exact ⟨(List.pairwise_cons.1 h.1).2, fun x hx => h.2 x (List.mem_cons_of_mem _ hx)⟩

/-- Below every listed location a memory reads 0. -/
theorem Memory.read_below {m : List Host.Cell} {loc : Nat} (h : ∀ c ∈ m, loc < c.1) : Memory.read m loc = 0 := by
  cases m with
  | nil => rfl
  | cons c m =>
    have := h c (List.mem_cons_self ..)
    simp [Memory.read, this, Nat.ne_of_gt this]

/-- Where a written memory lists something: at the location, or where it did before. -/
theorem Memory.mem_write {m : List Host.Cell} {loc : Nat} {v : Byte} {c : Host.Cell} (h : c ∈ Memory.write m loc v) :
    (c = (loc, v) ∧ v ≠ 0) ∨ c ∈ m := by
  induction m with
  | nil =>
    unfold Memory.write at h
    split at h
    · simp at h
    · simp at h; exact Or.inl ⟨h, by assumption⟩
  | cons d m ih =>
    obtain ⟨a, b⟩ := d
    unfold Memory.write at h
    split at h
    · split at h
      · exact Or.inr (List.mem_cons_of_mem _ h)
      · rcases List.mem_cons.1 h with rfl | h
        · exact Or.inl ⟨rfl, by assumption⟩
        · exact Or.inr (List.mem_cons_of_mem _ h)
    · split at h
      · split at h
        · exact Or.inr h
        · rcases List.mem_cons.1 h with rfl | h
          · exact Or.inl ⟨rfl, by assumption⟩
          · exact Or.inr h
      · rcases List.mem_cons.1 h with rfl | h
        · exact Or.inr (List.mem_cons_self ..)
        · rcases ih h with hh | hh
          · exact Or.inl hh
          · exact Or.inr (List.mem_cons_of_mem _ hh)

theorem Memory.write_wf {m : List Host.Cell} (h : Memory.wf m = true) (loc : Nat) (v : Byte) :
    Memory.wf (Memory.write m loc v) = true := by
  induction m with
  | nil =>
    unfold Memory.write
    split
    · rfl
    · simpa [Memory.wf] using (by assumption : ¬ v = 0)
  | cons d m ih =>
    obtain ⟨a, b⟩ := d
    have ht := Memory.wf_tail h
    have hi := ih ht
    rw [Memory.wf_iff] at h
    obtain ⟨hp, hn⟩ := h
    rw [List.pairwise_cons] at hp
    unfold Memory.write
    split
    · next heq =>
      subst heq
      split
      · exact ht
      · next hv =>
        rw [Memory.wf_iff, List.pairwise_cons]
        refine ⟨⟨hp.1, hp.2⟩, ?_⟩
        intro c hc
        rcases List.mem_cons.1 hc with rfl | hc
        · exact hv
        · exact hn c (List.mem_cons_of_mem _ hc)
    · split
      · next hlt =>
        split
        · rw [Memory.wf_iff, List.pairwise_cons]; exact ⟨hp, hn⟩
        · next hv =>
          rw [Memory.wf_iff, List.pairwise_cons, List.pairwise_cons]
          refine ⟨⟨?_, hp⟩, ?_⟩
          · intro c hc
            rcases List.mem_cons.1 hc with rfl | hc
            · exact hlt
            · exact Nat.lt_trans hlt (hp.1 c hc)
          · intro c hc
            rcases List.mem_cons.1 hc with rfl | hc
            · exact hv
            · exact hn c hc
      · next hne hge =>
        rw [Memory.wf_iff, List.pairwise_cons]
        rw [Memory.wf_iff] at hi
        refine ⟨⟨?_, hi.1⟩, ?_⟩
        · intro c hc
          rcases Memory.mem_write hc with ⟨rfl, -⟩ | hc
          · exact Nat.lt_of_le_of_ne (Nat.not_lt.1 hge) hne
          · exact hp.1 c hc
        · intro c hc
          rcases List.mem_cons.1 hc with rfl | hc
          · exact hn _ (List.mem_cons_self ..)
          · exact hi.2 c hc

theorem Memory.writeAll_wf {m : List Host.Cell} (h : Memory.wf m = true) (loc : Nat) (bs : List Byte) :
    Memory.wf (Memory.writeAll m loc bs) = true := by
  induction bs generalizing m loc with
  | nil => exact h
  | cons b bs ih => exact ih (Memory.write_wf h loc b) (loc + 1)

/-! ### Reading after writing -/

theorem Memory.read_write {m : List Host.Cell} (h : Memory.wf m = true) (loc a : Nat) (v : Byte) :
    Memory.read (Memory.write m loc v) a = if a = loc then v else Memory.read m a := by
  induction m with
  | nil =>
    unfold Memory.write
    by_cases hv : v = 0
    · simp [hv, Memory.read]
    · rw [if_neg hv]
      by_cases ha : a = loc
      · simp [ha, Memory.read]
      · simp [ha, Ne.symm ha, Memory.read]
  | cons d m ih =>
    obtain ⟨x, b⟩ := d
    have hi := ih (Memory.wf_tail h)
    rw [Memory.wf_iff, List.pairwise_cons] at h
    have above : ∀ c ∈ m, x < c.1 := h.1.1
    unfold Memory.write
    by_cases hx : x = loc
    · subst hx
      by_cases hv : v = 0
      · rw [if_pos rfl, if_pos hv]
        by_cases ha : a = x
        · subst ha; rw [if_pos rfl, Memory.read_below above, hv]
        · rw [if_neg ha]
          simp only [Memory.read, Ne.symm ha, if_false]
          by_cases hl : a < x
          · rw [if_pos hl]; exact Memory.read_below fun c hc => Nat.lt_trans hl (above c hc)
          · rw [if_neg hl]
      · rw [if_pos rfl, if_neg hv]
        by_cases ha : a = x
        · simp [ha, Memory.read]
        · simp [Memory.read, ha, Ne.symm ha]
    · rw [if_neg hx]
      by_cases hl : loc < x
      · rw [if_pos hl]
        by_cases hv : v = 0
        · rw [if_pos hv]
          by_cases ha : a = loc
          · subst ha; simp [Memory.read, hx, hl, hv]
          · rw [if_neg ha]
        · rw [if_neg hv]
          by_cases ha : a = loc
          · simp [ha, Memory.read]
          · rw [if_neg ha]
            simp only [Memory.read, Ne.symm ha, if_false]
            by_cases h2 : a < loc
            · have h3 : a < x := Nat.lt_trans h2 hl
              simp [h2, h3, Nat.ne_of_gt h3]
            · simp [h2]
      · rw [if_neg hl]
        simp only [Memory.read, hi]
        by_cases ha : a = loc
        · subst ha; simp [hx, hl]
        · simp [ha]

theorem Memory.read_writeAll {m : List Host.Cell} (h : Memory.wf m = true) (loc a : Nat) (bs : List Byte) :
    Memory.read (Memory.writeAll m loc bs) a =
      if loc ≤ a ∧ a < loc + bs.length then bs.getD (a - loc) 0 else Memory.read m a := by
  induction bs generalizing m loc with
  | nil => simp [Memory.writeAll]
  | cons b bs ih =>
    rw [Memory.writeAll, ih (Memory.write_wf h loc b), Memory.read_write h]
    by_cases h1 : a = loc
    · subst h1; simp
    · by_cases h2 : loc ≤ a ∧ a < loc + (b :: bs).length
      · have h3 : loc + 1 ≤ a ∧ a < loc + 1 + bs.length := by simp at h2; omega
        obtain ⟨k, hk⟩ : ∃ k, a - loc = k + 1 := ⟨a - loc - 1, by omega⟩
        have h4 : a - (loc + 1) = k := by omega
        rw [if_pos h3, if_pos h2, hk, h4]; simp
      · have h3 : ¬ (loc + 1 ≤ a ∧ a < loc + 1 + bs.length) := by simp at h2; omega
        rw [if_neg h3, if_neg h1, if_neg h2]

/-- Outside the bytes written every byte stays. -/
theorem Memory.read_writeAll_outside {m : List Host.Cell} (h : Memory.wf m = true) {loc a : Nat} {bs : List Byte}
    (ha : a < loc ∨ loc + bs.length ≤ a) : Memory.read (Memory.writeAll m loc bs) a = Memory.read m a := by
  rw [Memory.read_writeAll h, if_neg (by omega)]

theorem Memory.length_readAll (m : List Host.Cell) (loc n : Nat) : (Memory.readAll m loc n).length = n := by
  induction n generalizing loc with
  | zero => rfl
  | succ n ih => simp [Memory.readAll, ih]

theorem Memory.getElem_readAll (m : List Host.Cell) (loc n k : Nat) (hk : k < (Memory.readAll m loc n).length) :
    (Memory.readAll m loc n)[k] = Memory.read m (loc + k) := by
  induction n generalizing loc k with
  | zero => simp [Memory.readAll] at hk
  | succ n ih =>
    cases k with
    | zero => rfl
    | succ k =>
      simp only [Memory.readAll, List.getElem_cons_succ]
      rw [ih]
      congr 1
      omega

/-- Consecutive bytes read the same when each does. -/
theorem Memory.readAll_congr {m m' : List Host.Cell} {loc n : Nat}
    (h : ∀ k, k < n → Memory.read m (loc + k) = Memory.read m' (loc + k)) : Memory.readAll m loc n = Memory.readAll m' loc n := by
  apply List.ext_getElem
  · simp [Memory.length_readAll]
  · intro k h1 h2
    rw [Memory.getElem_readAll, Memory.getElem_readAll]
    rw [Memory.length_readAll] at h1
    exact h k h1

/-- What was stored is read back. -/
theorem Memory.readAll_writeAll {m : List Host.Cell} (h : Memory.wf m = true) (loc : Nat) (bs : List Byte) :
    Memory.readAll (Memory.writeAll m loc bs) loc bs.length = bs := by
  apply List.ext_getElem
  · simp [Memory.length_readAll]
  · intro k h1 h2
    rw [Memory.getElem_readAll, Memory.read_writeAll h, if_pos (by omega)]
    have : loc + k - loc = k := by omega
    rw [this, List.getD_eq_getElem?_getD, List.getElem?_eq_getElem h2, Option.getD_some]

theorem Memory.readAll_writeAll_apart {m : List Host.Cell} (h : Memory.wf m = true) {loc a n : Nat} {bs : List Byte}
    (ha : a + n ≤ loc ∨ loc + bs.length ≤ a) : Memory.readAll (Memory.writeAll m loc bs) a n = Memory.readAll m a n :=
  Memory.readAll_congr fun k _ => Memory.read_writeAll_outside h (by omega)

/-- Equal contents are equal memories: the form is canonical. -/
theorem Memory.ext {m m' : List Host.Cell} (h : Memory.wf m = true) (h' : Memory.wf m' = true)
    (hr : ∀ a, Memory.read m a = Memory.read m' a) : m = m' := by
  induction m generalizing m' with
  | nil =>
    cases m' with
    | nil => rfl
    | cons c m' =>
      have hc := (Memory.wf_iff _).1 h'
      have := hr c.1
      rw [Memory.read, Memory.read, if_pos rfl] at this
      exact absurd this.symm (hc.2 c (List.mem_cons_self ..))
  | cons c m ih =>
    obtain ⟨a, b⟩ := c
    have hc := (Memory.wf_iff _).1 h
    rw [List.pairwise_cons] at hc
    cases m' with
    | nil =>
      have := hr a
      rw [Memory.read, Memory.read, if_pos rfl] at this
      exact absurd this (hc.2 _ (List.mem_cons_self ..))
    | cons d m' =>
      obtain ⟨x, y⟩ := d
      have hd := (Memory.wf_iff _).1 h'
      rw [List.pairwise_cons] at hd
      have hb : b ≠ 0 := hc.2 _ (List.mem_cons_self ..)
      have hy : y ≠ 0 := hd.2 _ (List.mem_cons_self ..)
      have hax : a = x := by
        rcases Nat.lt_trichotomy a x with hl | hl | hl
        · have := hr a
          rw [Memory.read, if_pos rfl, Memory.read, if_neg (Nat.ne_of_gt hl), if_pos hl] at this
          exact absurd this hb
        · exact hl
        · have := hr x
          rw [Memory.read, if_neg (Nat.ne_of_gt hl), if_pos hl, Memory.read, if_pos rfl] at this
          exact absurd this.symm hy
      subst hax
      have hby : b = y := by simpa [Memory.read] using hr a
      subst hby
      have : m = m' := by
        apply ih (Memory.wf_tail h) (Memory.wf_tail h')
        intro z
        by_cases hz : z ≤ a
        · rw [Memory.read_below fun c hc' => Nat.lt_of_le_of_lt hz (hc.1.1 c hc'),
            Memory.read_below fun c hc' => Nat.lt_of_le_of_lt hz (hd.1.1 c hc')]
        · have := hr z
          simpa [Memory.read, Nat.ne_of_lt (Nat.not_le.1 hz), Nat.lt_asymm (Nat.not_le.1 hz)] using this
      rw [this]

/-! ### The state's memory -/

/-- A store at the home keeps the form, stores its bytes and leaves every other. -/
theorem homeWrite_mem (s : State) (loc : Nat) (bs : List Byte) (p : Bool) :
    (homeWrite s loc bs p).mem = Memory.writeAll s.mem loc bs := rfl

theorem homeWrite_memoryOk {s : State} (h : s.memoryOk) (loc : Nat) (bs : List Byte) (p : Bool) :
    (homeWrite s loc bs p).memoryOk := Memory.writeAll_wf h loc bs

theorem homeWrite_harts (s : State) (loc : Nat) (bs : List Byte) (p : Bool) : (homeWrite s loc bs p).harts = s.harts := rfl

theorem storeThrough_mem (s : State) (die loc : Nat) (bs : List Byte) (p : Bool) :
    (storeThrough s die loc bs p).mem = Memory.writeAll s.mem loc bs := rfl

theorem storeThrough_memoryOk {s : State} (h : s.memoryOk) (die loc : Nat) (bs : List Byte) (p : Bool) :
    (storeThrough s die loc bs p).memoryOk := Memory.writeAll_wf h loc bs

theorem setHart_memoryOk {s : State} (h : s.memoryOk) (i : Nat) (x : Hart) : (setHart s i x).memoryOk := h
theorem modHart_memoryOk {s : State} (h : s.memoryOk) (i : Nat) (f : Hart → Hart) : (modHart s i f).memoryOk := h
theorem put_memoryOk {s : State} (h : s.memoryOk) (x : Hart) : (s.put x).memoryOk := h

/-- The memory after reset is in its canonical form. -/
theorem reset_memory_wf : Memory.wf State.reset.mem = true := rfl

end Sys2Proof.Machine
end

