-- ==== Sys2Proof/Laws/Ops.lean ====
section
/-! SUPPORT. What the shared operations can do: running an instruction on its thread, reaching memory, taking an exception, and an
element-wise instruction in the vector unit. -/
namespace Sys2Proof.Machine

open Sys2Proof

/-! ### Running an instruction -/

/-- exec of an instruction its thread may run. -/
theorem runs_thread {s : State} {h : Hart} {t : Thread} {i : Instr} (hr : s.runs h t)
   {k : Nat → Hart → Thread → Out} (ha : Instr.allowed i t = true) : onThread i s k = k s.cur.hart h t := by
  obtain ⟨h1, h2⟩ := hr
  subst h2
  unfold onThread
  simp only [h1, ha, if_true]

/-- A scalar float result: the statements' outcome. -/
theorem floatBack_eq (s : State) (h : Hart) (t : Thread) (d : Reg) (r : Word × Flags) : floatBack s s.cur.hart h t d r = floatOutcome s h t d r.1 r.2 := by
  have e : ((h.setReg t d r.1).raise t r.2).advance t = ((h.setReg t d r.1).advance t).setTh t { ((h.setReg t d r.1).advance t).th t with fflags := (((h.setReg t d r.1).advance t).th t).fflags ||| r.2.setWidth 64 } := by
    cases t <;> simp [Hart.raise, Hart.advance, Hart.goto, Hart.setTh, Hart.th, Hart.setReg, orFlags]
  unfold floatBack floatOutcome arithCheck arithTraps
  simp only [e]
  by_cases hh : (s.parts[h.part].fptrap &&& r.2.setWidth 64) = 0#64 <;> simp only [Fin.getElem_fin] at hh <;>
    simp [hh, State.put, setHart]


/-- exec of an instruction of the Pacer alone. -/
theorem runs_pacer {s : State} {h : Hart} (hr : s.runs h .pacer) (k : Nat → Hart → Thread → Out) :
    onPacer s k = k s.cur.hart h .pacer := by
  obtain ⟨h1, h2⟩ := hr
  unfold onPacer
  simp only [h1, h2]

/-- exec of an instruction of the Pacer alone, met in the Anchor. -/
theorem runs_pacer_anchor {s : State} {h : Hart} (hr : s.runs h .anchor) (k : Nat → Hart → Thread → Out) :
    onPacer s k = .next (refuseWord s s.cur.hart h .anchor 0x01) := by
  obtain ⟨h1, h2⟩ := hr
  unfold onPacer
  simp only [h1, h2]

/-- exec of an instruction its thread may not run (R14, R167). -/
theorem refused_thread {s : State} {h : Hart} {t : Thread} {i : Instr} (hr : s.runs h t) {k : Nat → Hart → Thread → Out}
    (ha : Instr.allowed i t = false) : onThread i s k = .next (refuseWord s s.cur.hart h t 0x01) := by
  obtain ⟨h1, h2⟩ := hr
  subst h2
  unfold onThread
  simp only [h1, ha, Bool.false_eq_true, if_false]

theorem writeBack_eq (s : State) (h : Hart) (t : Thread) (d : Reg) (v : Word) :
    writeBack s s.cur.hart h t d v = .next (s.put ((h.setReg t d v).advance t)) := rfl

theorem goOn_eq (s : State) (h : Hart) (t : Thread) : goOn s s.cur.hart h t = .next (s.put (h.advance t)) := rfl

/-- A misaligned scalar access (R233). -/
theorem scalarAccess_misaligned (s : State) (i : Nat) (h : Hart) (c : BitVec 8) (k : AccessKind) (va : Word) (n : Nat)
    (go : State → Nat → Bool → Out) (hn : va.toNat % n ≠ 0) :
    scalarAccess s i h c k va n go = .next (trapAt s i h .pacer 0x09 va) := by
  simp [scalarAccess, hn]

/-- While no unit is under recovery, none is fenced (R130, R403). -/
theorem rangeFenced_none {s : State} (hr : s.mgmt.recoveries = []) (loc n : Nat) : rangeFenced s loc n = false := by
  simp [rangeFenced, hr]
theorem fenced_none {s : State} (hr : s.mgmt.recoveries = []) (loc : Nat) : fenced s loc = false := by simp [fenced, hr]
theorem accessFenced_none {s : State} (hr : s.mgmt.recoveries = []) (loc n : Nat) (cached : Bool) : accessFenced s loc n cached = false := by
  simp [accessFenced, rangeFenced_none hr]
theorem tableFenced_none {s : State} (hr : s.mgmt.recoveries = []) (core : Nat) (p : Fin 8) (va : Nat) : tableFenced s core p va = false := by
  simp [tableFenced, hr]
theorem dirtyFenced_none {s : State} (hr : s.mgmt.recoveries = []) (core : Nat) : dirtyFenced s core = false := by
  simp [dirtyFenced, hr]
theorem storesFenced_none {s : State} (hr : s.mgmt.recoveries = []) (h : Hart) (p : StoreFlight → Bool) : storesFenced s h p = false := by
  simp [storesFenced, rangeFenced_none hr]
theorem loadsFenced_none {s : State} (hr : s.mgmt.recoveries = []) (h : Hart) : loadsFenced s h = false := by
  simp only [loadsFenced, List.any_eq_false]
  intro f _
  have : loadFenced s f = false := by
    simp only [loadFenced, List.any_eq_false]
    intro e _
    cases e <;> simp [accessFenced_none hr]
  simp [this]

/-- Then every access of a hart can be performed. -/
theorem allSettle_none {s : State} (hr : s.mgmt.recoveries = []) (h : Hart) : allSettle s h = true := by
  simp [allSettle, vectorSettles, scalarSettles, loadsFenced_none hr, storesFenced_none hr, dirtyFenced_none hr]

/-- An aligned scalar access whose address can be reached (R233). -/
theorem scalarAccess_ok (s : State) (i : Nat) (h : Hart) (c : BitVec 8) (k : AccessKind) (va : Word) (n loc : Nat) (cached : Bool)
    (go : State → Nat → Bool → Out) (hn : va.toNat % n = 0) (ht : translate s h.core h.part va k false = .ok (loc, cached))
    (hf : accessFenced s loc n cached = false) :
    scalarAccess s i h c k va n go = go (noteTlb s h.core h.part va) loc cached := by
  simp [scalarAccess, hn, ht, hf]

/-- Everything a scalar access can do: go on, trap, wait, or meet a hole. -/
theorem scalarAccess_cases (s : State) (i : Nat) (h : Hart) (c : BitVec 8) (k : AccessKind) (va : Word) (n : Nat)
    (go : State → Nat → Bool → Out) :
    (va.toNat % n ≠ 0 ∧ scalarAccess s i h c k va n go = .next (trapAt s i h .pacer 0x09 va)) ∨
    (va.toNat % n = 0 ∧ ∃ loc cached, translate s h.core h.part va k false = .ok (loc, cached) ∧
      scalarAccess s i h c k va n go =
        if accessFenced s loc n cached then .next s else go (noteTlb s h.core h.part va) loc cached) ∨
    (va.toNat % n = 0 ∧ ∃ e, translate s h.core h.part va k false = .error e ∧
      scalarAccess s i h c k va n go = stopAccess s i h .pacer c k 0 va e) := by
  by_cases hn : va.toNat % n = 0
  · cases ht : translate s h.core h.part va k false with
    | ok x => exact .inr (.inl ⟨hn, x.1, x.2, rfl, by simp [scalarAccess, hn, ht]⟩)
    | error e => exact .inr (.inr ⟨hn, e, rfl, by simp [scalarAccess, hn, ht]⟩)
  · exact .inl ⟨hn, scalarAccess_misaligned s i h c k va n go hn⟩

/-- Delivery to the supervisor with PSAVE.EN set, where no access of the save waits (R276, R277). -/
theorem deliverStopped_saved {s s' : State} {i : Nat} {h : Hart} (info : TrapInfo) (hi : s.harts[i]? = some h) (hl : h.live = true)
    (he : (s.parts[h.part].psave).getLsbD 0 = true) (hs : saveNow s i (some info) h.stopHard .trapped = some s') (hf : s'.mgmt.fatal = false) :
    deliverStopped s i info =
      finishSave (postRecord s' h.part (trapNotice (slotLoc s.parts[h.part].psave h.slot) h.gang)) h.part h.gang := by
  unfold deliverStopped; simp only [hi, hl, he, hs, hf, Bool.not_true, Bool.false_eq_true, if_false, if_true]

/-- Where one waits, the hart is stopping (R130). -/
theorem deliverStopped_waits {s : State} {i : Nat} {h : Hart} (info : TrapInfo) (hi : s.harts[i]? = some h) (hl : h.live = true)
    (he : (s.parts[h.part].psave).getLsbD 0 = true) (hs : saveNow s i (some info) h.stopHard .trapped = none) :
    deliverStopped s i info = modHart s i fun h => { h with mode := .stopping, trapWait := some info } := by
  unfold deliverStopped; simp only [hi, hl, he, hs, Bool.not_true, Bool.false_eq_true, if_false, if_true]

/-- With PSAVE.EN clear the gang ends instead (R387). -/
theorem deliverStopped_ends {s : State} {i : Nat} {h : Hart} (info : TrapInfo) (hi : s.harts[i]? = some h) (hl : h.live = true)
    (he : (s.parts[h.part].psave).getLsbD 0 = false) :
    deliverStopped s i info = postRecord (endGang s h.part h.gang) h.part (trapNotice 0 h.gang) := by
  unfold deliverStopped; simp only [hi, hl, he, Bool.not_true, Bool.false_eq_true, if_false]

/-! ### A V-form instruction in the vector unit -/

/-- A convoy of one member takes the head row of each load queue it names (R150). -/
theorem assign_one (h : Hart) (e : VEntry) (u : VUse) (hu : useOf e.instr = some u) (hp : e.popped = [])
    (hl : ∀ q ∈ u.lqs, h.lq[q] ≠ []) :
    assignRows h [e] = some ({ h with lq := Vector.ofFn fun q => if u.lqs.contains q then h.lq[q].tail else h.lq[q] },
      [{ e with popped := u.lqs.filterMap fun q => (h.lq[q].head?).map fun r => (q, r) }]) := by
  have : (u.lqs.any fun q => h.lq[q].isEmpty) = false := by
    simp only [List.any_eq_false, List.isEmpty_iff]
    exact hl
  unfold assignRows
  simp only [hu, hp, Option.map_some, Option.getD_some, List.any_nil, Bool.not_false, List.filter_true, this, assignRows, List.nil_append]
  simp

/-- An instruction of the V form performed on its own: its effect, then the commit (R23, R155). -/
theorem perform_one (s : State) (h g : Hart) (i : Instr) (u : VUse) (f : VEffect) (e : VEntry) (h' : Hart) (vf fl sat part)
    (hu : useOf i = some u) (hf : effectOf i = some f) (hv : u.vform = true)
    (hass : assignRows h [capture h i u none] = some (g, [e])) (hei : e.instr = i) (hea : e.addr = h.anchor.th.pc)
    (her : e.raised = 0) (heo : e.owed = 0) (hes : e.owedSat = false)
    (hgs : g.sq = h.sq) (hgv : g.anchor.th.vstart = h.anchor.th.vstart) (hgp : g.part = h.part)
    (hr : ∀ q ∈ u.sqs, h.sq[q].length < 8)
    (hd : f (e.ctx h.anchor.th.vstart.toNat none none 0) g = .done h' vf fl sat part false)
    (hq : h'.anchor.viq = h.anchor.viq) (hpc : h'.anchor.th.pc = h.anchor.th.pc) (hpart : h'.part = h.part) :
    performNow s s.cur.hart h i u = vectorOutcome s h' fl sat := by
  have hroom : roomFor g [e] = true := by
    simp only [roomFor, List.all_eq_true]
    intro q _
    by_cases hq : u.sqs.contains q
    · have hq' : q ∈ u.sqs := by simpa using hq
      have := hr q hq'
      simp [hei, hu, hq', hgs]; omega
    · have hq' : q ∉ u.sqs := by simpa using hq
      simp [hei, hu, hq']
  have hnv : ∀ sel off, i ≠ .vfetch sel off := by
    intro sel off he; subst he
    have : useOf (.vfetch sel off) = some { pred := ⟨false, sel, false⟩ } := rfl
    rw [this] at hu; cases hu; cases hv
  have hmem : memberOf e = some (u, f) := by simp [memberOf, hei, hu, hf]
  have hperf : performConvoy s s.cur.hart h g [e] h.anchor.viq none =
      afterCommit (setHart s s.cur.hart (setViq (setVstart (commitFlags h'
        (ConvoyRun.add ⟨g, none, [], false, none, [], 0⟩ e h' vf fl sat part false)) 0) h.anchor.viq)) s.cur.hart g.part [e]
        (ConvoyRun.add ⟨g, none, [], false, none, [], 0⟩ e h' vf fl sat part false) := by
    simp [performConvoy, convoyRun, scanMembers, hmem, hgv, hd, lowest, ConvoyRun.add, ConvoyScan.step]
  unfold performNow
  split
  · next sel off => exact absurd rfl (hnv sel off)
  · rw [if_pos hv, hass]
    simp only [hroom, if_true, hperf]
    have hz : ((0#5 ||| fl).setWidth 64 : BitVec 64) = fl.setWidth 64 := by simp
    have hf2 : fl.setWidth 64 = (BitVec.setWidth 64 fl : BitVec 64) := rfl
    by_cases hh : (s.parts[h.part].fptrap &&& fl.setWidth 64) = 0#64
    · simp only [Fin.getElem_fin] at hh
      cases sat <;> simp [afterCommit, arithTraps, vectorOutcome, commitFlags, setVstart, setViq, orFlags, orSat, hpart, setHart, State.put, hh, hgp, ConvoyRun.add, her, heo, hes, ← hq]
    · simp only [Fin.getElem_fin] at hh
      cases sat <;> simp [afterCommit, arithTraps, vectorOutcome, commitFlags, setVstart, setViq, orFlags, orSat, hpart, setHart, State.put, hh, hgp, ConvoyRun.add, her, heo, hes, ← hq, hea, hpc]

/-- exec of an instruction of the V form in the vector unit, from its effect. -/
theorem vector_runs (s : State) (h : Hart) (i : Instr) (u : VUse) (f : VEffect) (h' : Hart) (vf fl sat part)
    (hs : s.performs h) (hu : useOf i = some u) (hf : effectOf i = some f) (hv : u.vform = true)
    (ha : Instr.allowed i .anchor = true) (hl : ∀ q ∈ u.lqs, h.lq[q] ≠ [])
    (hr : ∀ q ∈ u.sqs, h.sq[q].length < 8)
    (hd : f ((({ capture h i u none with popped := u.lqs.filterMap fun q => (h.lq[q].head?).map fun r => (q, r) } : VEntry)).ctx
       h.anchor.th.vstart.toNat none none 0)
      { h with lq := Vector.ofFn fun q => if u.lqs.contains q then h.lq[q].tail else h.lq[q] } = .done h' vf fl sat part false)
    (hq : h'.anchor.viq = h.anchor.viq) (hpc : h'.anchor.th.pc = h.anchor.th.pc) (hpart : h'.part = h.part) :
    vectorInstr i s = vectorOutcome s h' fl sat := by
  have hp := perform_one s h _ i u f _ h' vf fl sat part hu hf hv (assign_one h (capture h i u none) u hu rfl hl) rfl rfl rfl rfl rfl rfl rfl rfl
    hr hd hq hpc hpart
  obtain ⟨h1, h2⟩ := hs
  unfold vectorInstr onThread
  simp only [h1, h2, ExecUnit.thread, ha, if_true, hu, hp]

/-- With nothing cut short, the elements an instruction computes are those the statements name. -/
theorem elementsOf_eq (c : VCtx) (g : Hart) (p : Pred) (t : ElemType) (f : Nat → Elt) (hst : c.stop = none) (hg : c.group = none)
    (ho : c.stageOnes = none) (hv : c.vl = g.vlen) (hs : c.vstart = g.vfirst) : elementsOf c g p t f = g.computes p t f := by
  unfold elementsOf Hart.computes VCtx.limit
  simp only [hst, hv, hs, VCtx.inGroup, hg, Bool.not_true, Bool.or_false, decide_eq_true_eq]
  have : ∀ e, maskBit c g p.sel e = g.picks p.sel e := by
    intro e; unfold maskBit Hart.picks; cases p.sel <;> simp [ho]
  simp only [this]

/-- A pushed row holds each computed element, and 0 of the type for the others. -/
theorem written_row (c : VCtx) (t : ElemType) (hp : c.partRow = []) (n : Nat)
   (es : List (Option Elt)) (hn : es.length = n) :
    rowElems c t (es.map (Option.map Elt.bits)) n = es.map fun e => (e.map Elt.bits).getD (zeroOf t) := by
  subst hn
  unfold rowElems
  apply List.ext_getElem
  · simp
  · intro k h1 h2
    simp at h1
    simp [List.getD, h1, hp]
    cases es[k] <;> simp

/-- What an element-wise effect does where nothing refuses it. -/
theorem elementRun_done (whole : Bool) (p : Pred) (d : VDst) (t : ElemType) (names : List VSrc) (caps : List ElemType) (bad : Nat → Bool)
    (f : Nat → Elt) (c : VCtx) (g : Hart) (hst : c.stop = none) (hg : c.group = none) (ho : c.stageOnes = none) (hpr : c.partRow = [])
    (hv : c.vl = g.vlen) (hs : c.vstart = g.vfirst) (hlt : g.vfirst < g.vlen) (hcap : ∀ u ∈ t :: caps, g.vlen ≤ capacity g.cls u)
    (hw : whole = true → g.vfirst = 0) (hbad : ∀ e, e < g.vlen → bad e = false) (hpop : popQueues c g names = g) :
    elementRun whole p d t names caps bad f c g =
      .done (g.deliver d t (g.computes p t f)) none (raisedBy (g.computes p t f)) (saturatedBy (g.computes p t f)) [] false := by
  unfold elementRun
  have h1 : ((t :: caps).any (overCapacity c g)) = false := by
    simp only [List.any_eq_false, overCapacity, decide_eq_true_eq, hv]
    intro u hu; have := hcap u hu; omega
  have h2 : c.performsNothing = false := by simp [VCtx.performsNothing, hv, hs]; omega
  have h3 : (whole && c.startsInside) = false := by
    cases whole
    · rfl
    · simp [VCtx.startsInside, hs, hw rfl]
  have h4 : c.cutShort = false := by simp [VCtx.cutShort, hst]
  have h5 : poisonAt c g p.sel bad = none := by
    simp only [poisonAt, List.find?_eq_none, List.mem_range, VCtx.limit, hst, hv]
    intro e he; simp [hbad e he]
  simp only [h1, h2, h3, h4, h5, Bool.and_false, if_false, Bool.false_eq_true]
  rw [elementsOf_eq c g p t f hst hg ho hv hs]
  simp only [popIfDone, hst, Option.isNone_none, if_true, hpop]
  cases d with
  | reg r => simp [writeDst, Hart.deliver, raisedBy, saturatedBy, eltFlags, eltSats]
  | sq q =>
    simp only [writeDst, hst, Option.isNone_none, if_true, Hart.deliver, raisedBy, saturatedBy, eltFlags, eltSats]
    rw [written_row c t hpr c.vl _ (by simp [Hart.computes, hv])]

/-- The rows taken from the load queues named. -/
abbrev rowsOf (h : Hart) (qs : List (Fin 4)) : List (Fin 4 × Row) := qs.filterMap fun q => (h.lq[q].head?).map fun r => (q, r)
/-- The context in which a lone instruction runs. -/
abbrev ctxOf (h : Hart) (i : Instr) (u : VUse) : VCtx :=
  (({ capture h i u none with popped := rowsOf h u.lqs } : VEntry)).ctx h.anchor.th.vstart.toNat none none 0
/-- The hart once those rows are gone. -/
abbrev popped (h : Hart) (u : VUse) : Hart := { h with lq := Vector.ofFn fun q => if u.lqs.contains q then h.lq[q].tail else h.lq[q] }

/-- The row taken from a queue is its head. -/
theorem rows_find (h : Hart) (qs : List (Fin 4)) (q : Fin 4) (hq : q ∈ qs) (r : Row) (hr : h.lq[q].head? = some r) :
    (rowsOf h qs).find? (fun p => p.1 == q) = some (q, r) := by
  induction qs with
  | nil => cases hq
  | cons x xs ih =>
    by_cases hx : x = q
    · subst hx; simp only [rowsOf, List.filterMap_cons, hr, Option.map_some]; simp
    · have : q ∈ xs := by
        cases hq with
        | head => exact absurd rfl hx
        | tail _ hh => exact hh
      have hi := ih this
      simp only [rowsOf, List.filterMap_cons]
      cases hh : h.lq[x].head? with
      | none => simpa [hh] using hi
      | some r' => simpa [hh, hx] using hi

/-- Queues whose rows were taken before the run are not popped again. -/
theorem pop_id (g : Hart) (c : VCtx) (names : List VSrc) (hc : ∀ q ∈ queuesOf names, c.popped.any (fun p => p.1 == q) = true) :
    popQueues c g names = g := by
  unfold popQueues
  generalize queuesOf names = qs at hc
  induction qs generalizing g with
  | nil => rfl
  | cons q qs ih =>
    simp only [List.foldl_cons, hc q (by simp), if_true]
    exact ih _ (fun q hq => hc q (by simp [hq]))

/-- Reading a source gives the operand that the statements name. -/
theorem read_reg_or_row (h : Hart) (i : Instr) (u : VUse) (x : VSrc) (a : VSource) (ha : h.operand x = some a)
    (hq : ∀ q, x = .lq q → q ∈ u.lqs) : readSource (ctxOf h i u) (popped h u) x = some a := by
  cases x with
  | reg r z => simpa [Hart.operand, readSource] using ha
  | vf => simp [Hart.operand] at ha
  | lq q =>
    simp only [Hart.operand, Option.map_eq_some_iff] at ha
    obtain ⟨r, hr, rfl⟩ := ha
    have := rows_find h u.lqs q (hq q rfl) r hr
    simp only [readSource, lqRow, ctxOf, VEntry.ctx, this]
    rfl

/-- The hart after its rows were taken. -/
theorem popped_taken (h : Hart) (u : VUse) (srcs : List VSrc) (hm : ∀ q, q ∈ u.lqs ↔ .lq q ∈ srcs) : popped h u = h.taken srcs := by
  unfold popped Hart.taken
  congr 1
  apply Vector.ext
  intro k hk
  have := hm ⟨k, hk⟩
  simp
  by_cases hh : (VSrc.lq ⟨k, hk⟩) ∈ srcs <;> simp [hh, this]

/-- The queues an instruction pops are those among its sources. -/
theorem lqs_mem (u : VUse) (q : Fin 4) : q ∈ u.lqs ↔ ∃ k, (k, VSrc.lq q) ∈ u.srcs := by
  unfold VUse.lqs
  rw [List.mem_eraseDups]
  simp only [List.mem_filterMap]
  constructor
  · rintro ⟨⟨k, x⟩, hx, hh⟩
    cases x with
    | lq q' => simp at hh; subst hh; exact ⟨k, hx⟩
    | reg _ _ => simp at hh
    | vf => simp at hh
  · rintro ⟨k, hk⟩; exact ⟨_, hk, rfl⟩

/-- The queues among sources. -/
theorem queues_mem (names : List VSrc) (q : Fin 4) : q ∈ queuesOf names ↔ .lq q ∈ names := by
  unfold queuesOf
  rw [List.mem_eraseDups]
  simp only [List.mem_filterMap]
  constructor
  · rintro ⟨x, hx, hh⟩
    cases x with
    | lq q' => simp at hh; subst hh; exact hx
    | reg _ _ => simp at hh
    | vf => simp at hh
  · intro hk; exact ⟨_, hk, rfl⟩

/-- exec of an element-wise instruction in the vector unit. -/
theorem elt_runs (s : State) (h : Hart) (i : Instr) (u : VUse) (f : VEffect) (names : List VSrc) (d : VDst) (t : ElemType) (p : Pred)
    (whole caps bad) (fe : Nat → Elt)
    (hs : s.performs h) (hu : useOf i = some u) (hf : effectOf i = some f) (hv : u.vform = true)
    (ha : Instr.allowed i .anchor = true) (hm : ∀ q, q ∈ u.lqs ↔ .lq q ∈ names)
    (hsrc : ∀ x ∈ names, (h.operand x).isSome) (hd : u.dst = some d) (hr : h.hasRoom d)
    (hred : f (ctxOf h i u) (popped h u) = elementRun whole p d t names caps bad fe (ctxOf h i u) (popped h u))
    (hlt : h.vfirst < h.vlen) (hcap : ∀ u ∈ t :: caps, h.vlen ≤ capacity h.cls u)
    (hw : whole = true → h.vfirst = 0) (hbad : ∀ e, e < h.vlen → bad e = false) :
    vectorInstr i s = vectorOutcome s ((h.taken names).deliver d t (h.computes p t fe)) (raisedBy (h.computes p t fe))
      (saturatedBy (h.computes p t fe)) := by
  have hl : ∀ q ∈ u.lqs, h.lq[q] ≠ [] := by
    intro q hq
    have := hsrc _ ((hm q).1 hq)
    simp only [Hart.operand, Option.isSome_map] at this
    intro he; rw [he] at this; cases this
  have hg := popped_taken h u names hm
  have hrun := elementRun_done whole p d t names caps bad fe (ctxOf h i u) (popped h u) rfl rfl rfl rfl rfl rfl hlt hcap hw hbad
    (by
      apply pop_id
      intro q hq
      have hq' := (hm q).2 ((queues_mem names q).1 hq)
      have hne := hl q hq'
      cases hh : h.lq[q].head? with
      | none => rw [List.head?_eq_none_iff] at hh; exact absurd hh hne
      | some r =>
        have := rows_find h u.lqs q hq' r hh
        have := List.mem_of_find?_eq_some this
        show (rowsOf h u.lqs).any (fun p => p.1 == q) = true
        rw [List.any_eq_true]
        exact ⟨(q, r), this, by simp⟩)
  have hcomp : (popped h u).computes p t fe = h.computes p t fe := rfl
  rw [hcomp] at hrun
  rw [← hg]
  refine vector_runs s h i u f _ _ _ _ _ hs hu hf hv ha hl ?_ (hred.trans hrun) ?_ ?_ ?_
  · intro q hq
    simp only [VUse.sqs, hd] at hq
    cases d with
    | reg r => simp at hq
    | sq q' => simp at hq; subst hq; exact hr
  all_goals cases d <;> rfl


/-! ### A telemetry snapshot -/

/-- The captures of a snapshot: ten, none after SPREAD, the first at 0 and the last at SPREAD, which is at most 32 (R417). -/
theorem captureTimes_spec (free : Nat) : (captureTimes free).1.length = 10 ∧ (captureTimes free).2 ≤ 32 ∧
    (∀ k ∈ (captureTimes free).1, k ≤ (captureTimes free).2) ∧ 0 ∈ (captureTimes free).1 ∧
    (captureTimes free).2 ∈ (captureTimes free).1 := by
  unfold captureTimes
  generalize hks : (List.range 10).map (fun d => (Config.freeBits (free + d)).toNat % 33) = ks
  have hlen : ks.length = 10 := by simp [← hks]
  have hlt : ∀ k ∈ ks, k ≤ 32 := by
    intro k hk; rw [← hks, List.mem_map] at hk
    obtain ⟨d, -, rfl⟩ := hk; omega
  have hne : ks ≠ [] := by intro h; simp [h] at hlen
  obtain ⟨lo, hlo⟩ := Option.isSome_iff_exists.mp (List.isSome_min?_of_ne_nil hne)
  have hmem := List.min?_mem hlo
  simp only [hlo, Option.getD_some]
  have hne' : ks.map (fun k => k - lo) ≠ [] := by simpa using hne
  obtain ⟨hi, hhi⟩ := Option.isSome_iff_exists.mp (List.isSome_max?_of_ne_nil hne')
  have hm := List.max?_mem hhi
  simp only [hhi, Option.getD_some]
  refine ⟨by simpa using hlen, ?_, fun k hk => List.le_max?_getD_of_mem (k := 0) hk |>.trans (by simp [hhi]), ?_, hm⟩
  · obtain ⟨k, hk, rfl⟩ := List.mem_map.mp hm
    have := hlt k hk; omega
  · exact List.mem_map.mpr ⟨lo, hmem, by omega⟩

end Sys2Proof.Machine
end

