-- ==== Sys2Proof/Laws/Keeps.lean ====
section
/-! SUPPORT. Every shared operation over memory keeps the memory's canonical form (log 3). -/
namespace Sys2Proof.Machine

open Sys2Proof

theorem foldl_memoryOk {α : Type} {f : State → α → State} (hf : ∀ s a, s.memoryOk → (f s a).memoryOk) (as : List α) {s : State}
    (h : s.memoryOk) : (as.foldl f s).memoryOk := by
  induction as generalizing s with
  | nil => exact h
  | cons a as ih => exact ih (hf s a h)

theorem memoryOk_of_mem {s t : State} (h : s.memoryOk) (e : t.mem = s.mem) : t.memoryOk := by
  unfold State.memoryOk; rw [e]; exact h

theorem modPacer_memoryOk {s : State} (h : s.memoryOk) (i : Nat) (f : PacerState → PacerState) : (modPacer s i f).memoryOk := h
theorem modAnchor_memoryOk {s : State} (h : s.memoryOk) (i : Nat) (f : AnchorState → AnchorState) : (modAnchor s i f).memoryOk := h
theorem setAnchor_memoryOk {s : State} (h : s.memoryOk) (i : Nat) (x : Hart) (a : AnchorState) : (setAnchor s i x a).memoryOk := h

/-! ### Caches -/

theorem farRoom_mem (s : State) (die : Nat) : (farRoom s die).mem = s.mem := by
  unfold farRoom; dsimp only; repeat' split
  all_goals rfl

theorem farFill_mem (s : State) (die line : Nat) : (farFill s die line).1.mem = s.mem := by
  unfold farFill; split
  · rfl
  · exact farRoom_mem s die

theorem farRefresh_mem (s : State) (die loc n : Nat) : (farRefresh s die loc n).mem = s.mem := rfl

theorem dieRead_mem (s : State) (die loc n : Nat) (c : Bool) : (dieRead s die loc n c).1.mem = s.mem := by
  unfold dieRead; split
  · split
    · exact farFill_mem s die _
    · exact farRefresh_mem s die loc n
  · rfl

/-- A store of the scalar side changes memory as the store does. -/
theorem asScalar_mem (s : State) (core : Nat) (ws : List Nat) (f : State → State) : (asScalar s core ws f).mem = (f s).mem := rfl

theorem asScalar_memoryOk {s : State} (core : Nat) (ws : List Nat) {f : State → State} (h : (f s).memoryOk) :
    (asScalar s core ws f).memoryOk := h

theorem vectorAfter_memoryOk {s : State} (h : s.memoryOk) (i : Nat) : (vectorAfter s i).memoryOk := by
  unfold vectorAfter seeAdds; split <;> exact h

theorem l1Room_mem (s : State) (core : Nat) : (l1Room s core).mem = s.mem := by
  unfold l1Room; repeat' split
  all_goals rfl

theorem l1Fill_mem (s : State) (core line : Nat) : (l1Fill s core line).1.mem = s.mem := by
  unfold l1Fill; split
  · rfl
  · have e := (farFill_mem (l1Room s core) (coreDie core) line).trans (l1Room_mem s core)
    dsimp only; split <;> exact e

theorem noteTlb_mem (s : State) (core : Nat) (p : Fin 8) (va : Word) : (noteTlb s core p va).mem = s.mem := by
  unfold noteTlb; dsimp only; repeat' split
  all_goals rfl

theorem storeMarked_memoryOk {s : State} (h : s.memoryOk) (die loc : Nat) (bs : List Byte) (bad : List Nat) :
    (storeMarked s die loc bs bad).memoryOk :=
  foldl_memoryOk (fun _ _ hs => storeThrough_memoryOk hs ..) _ (storeThrough_memoryOk h ..)

theorem l1Store_memoryOk {s : State} (h : s.memoryOk) (core loc : Nat) (bs : List Byte) : (l1Store s core loc bs).memoryOk := by
  have e := memoryOk_of_mem h (l1Fill_mem s core (lineOf loc))
  unfold l1Store; dsimp only; split
  · exact e
  · exact asScalar_memoryOk core _ (storeThrough_memoryOk e ..)

theorem l1WriteBytes_memoryOk {s : State} (h : s.memoryOk) (l : L1Line) (os : List Nat) : (l1WriteBytes s l os).memoryOk := by
  induction os generalizing s with
  | nil => exact h
  | cons o os ih => exact ih (storeThrough_memoryOk h ..)

theorem l1Clean_memoryOk {s : State} (h : s.memoryOk) (core line : Nat) : (l1Clean s core line).memoryOk := by
  unfold l1Clean; split
  · exact h
  · split
    · exact h
    · exact l1WriteBytes_memoryOk (s := s) h ..

/-- A clean copy, or none, leaves the home as it is. -/
theorem l1Clean_clean {s : State} (core line : Nat) (h : ∀ l, l1Hit s core line = some l → l.dirty = []) : l1Clean s core line = s := by
  unfold l1Clean; split
  · rfl
  · next l hl => simp [h l hl]

theorem l1CleanDrop_memoryOk {s : State} (h : s.memoryOk) (core line : Nat) : (l1CleanDrop s core line).memoryOk :=
  l1Clean_memoryOk h core line

theorem passL1_memoryOk {s : State} (h : s.memoryOk) (core loc : Nat) : (passL1 s core loc).memoryOk := by
  unfold passL1; split
  · exact l1CleanDrop_memoryOk h ..
  · exact h

theorem scalarRead_memoryOk {s : State} (h : s.memoryOk) (core loc n : Nat) (c : Bool) : (scalarRead s core loc n c).1.memoryOk := by
  unfold scalarRead; split
  · exact memoryOk_of_mem h (l1Fill_mem s core _)
  · exact memoryOk_of_mem (passL1_memoryOk h core loc) (dieRead_mem ..)

theorem acquireRead_memoryOk {s : State} (h : s.memoryOk) (core loc n : Nat) (c : Bool) (sc : Scope) :
    (acquireRead s core loc n c sc).1.memoryOk := by
  unfold acquireRead; split
  · dsimp only; split
    · exact memoryOk_of_mem (l1Clean_memoryOk h core (lineOf loc)) (dieRead_mem ..)
    · exact memoryOk_of_mem (passL1_memoryOk h core loc) (dieRead_mem ..)
  · exact scalarRead_memoryOk h ..

theorem l1CleanAll_memoryOk {s : State} (h : s.memoryOk) (core : Nat) (p : L1Line → Bool) : (l1CleanAll s core p).memoryOk :=
  foldl_memoryOk (fun _ _ hs => l1Clean_memoryOk hs ..) _ h

theorem l1CleanDropAll_memoryOk {s : State} (h : s.memoryOk) (core : Nat) (p : L1Line → Bool) : (l1CleanDropAll s core p).memoryOk :=
  foldl_memoryOk (fun _ _ hs => l1CleanDrop_memoryOk hs ..) _ h

theorem foldl_mem {α : Type} {f : State → α → State} (hf : ∀ s a, (f s a).mem = s.mem) (as : List α) (s : State) :
    (as.foldl f s).mem = s.mem := by
  induction as generalizing s with
  | nil => rfl
  | cons a as ih => exact (ih _).trans (hf s a)

theorem l1Refill_mem (s : State) (core line : Nat) : (l1Refill s core line).mem = s.mem := by
  unfold l1Refill; split
  · rfl
  · exact farFill_mem s (coreDie core) line

/-- What an L1 keeps after an acquire or a fence, memory keeps (R107). -/
theorem l1Renew_mem (s : State) (core : Nat) : (l1Renew s core).mem = s.mem :=
  foldl_mem (fun s line => l1Refill_mem s core line) _ _

/-- An acquire writes nothing back (R107). -/
theorem cacheAcquire_mem (s : State) (core : Nat) (sc : Scope) : (cacheAcquire s core sc).mem = s.mem := by
  unfold cacheAcquire; dsimp only
  split
  · rw [l1Renew_mem]; split <;> rfl
  · split <;> rfl

theorem cacheAcquire_memoryOk {s : State} (h : s.memoryOk) (core : Nat) (sc : Scope) : (cacheAcquire s core sc).memoryOk :=
  memoryOk_of_mem h (cacheAcquire_mem ..)

theorem cacheRelease_memoryOk {s : State} (h : s.memoryOk) (core : Nat) (sc : Scope) : (cacheRelease s core sc).memoryOk := by
  unfold cacheRelease; split
  · exact l1CleanAll_memoryOk h ..
  · exact h

/-! ### Loads and stores in flight -/

theorem landStore_memoryOk {s : State} (h : s.memoryOk) (core : Nat) (f : StoreFlight) : (landStore core s f).memoryOk := by
  unfold landStore; dsimp only; split
  · exact storeMarked_memoryOk h ..
  · exact asScalar_memoryOk core _ (storeMarked_memoryOk (passL1_memoryOk h ..) ..)

theorem drainStores_memoryOk {s : State} (h : s.memoryOk) (i : Nat) (p : StoreFlight → Bool) : (drainStores s i p).memoryOk := by
  unfold drainStores; split
  · exact h
  · exact foldl_memoryOk (fun _ _ hs => landStore_memoryOk hs ..) _ (modPacer_memoryOk h ..)

theorem settleSide_memoryOk {s : State} (h : s.memoryOk) (i : Nat) (side : Side) (loc n : Nat) :
    (settleSide s i side loc n).memoryOk := drainStores_memoryOk h ..

theorem readElem_mem (die : Nat) (ty : ElemType) (s : State) (e : ElemSource) : (readElem die ty s e).1.mem = s.mem := by
  unfold readElem; split
  · rfl
  · rfl
  · exact dieRead_mem ..
  · exact dieRead_mem ..

theorem readElems_mem (die : Nat) (ty : ElemType) (s : State) (es : List ElemSource) : (readElems die ty s es).1.mem = s.mem := by
  induction es generalizing s with
  | nil => rfl
  | cons e es ih => exact (ih _).trans (readElem_mem ..)

theorem loadRow_mem (s : State) (die : Nat) (f : LoadFlight) : (loadRow s die f).1.mem = s.mem := readElems_mem ..

theorem deliverLoad_mem (s : State) (i : Nat) (q : Fin 4) : (deliverLoad s i q).mem = s.mem := by
  unfold deliverLoad; split
  · rfl
  · split
    · rfl
    · exact loadRow_mem ..

theorem deliverAll_memoryOk {s : State} (h : s.memoryOk) (i : Nat) : (deliverAll s i).memoryOk := by
  unfold deliverAll; split
  · exact h
  · exact foldl_memoryOk (fun _ _ hs => memoryOk_of_mem hs (deliverLoad_mem ..)) _ h

theorem settleScalar_memoryOk {s : State} (h : s.memoryOk) (i core : Nat) : (settleScalar s i core).memoryOk :=
  l1CleanAll_memoryOk (drainStores_memoryOk h ..) ..

theorem settleVector_memoryOk {s : State} (h : s.memoryOk) (i : Nat) : (settleVector s i).memoryOk :=
  drainStores_memoryOk (deliverAll_memoryOk h i) ..

theorem refreshL1_memoryOk {s : State} (h : s.memoryOk) (core : Nat) : (refreshL1 s core).memoryOk := memoryOk_of_mem h (l1Renew_mem s core)

theorem releaseAt_memoryOk {s : State} (h : s.memoryOk) (i core : Nat) (sc : Scope) : (releaseAt s i core sc).memoryOk :=
  cacheRelease_memoryOk (drainStores_memoryOk h ..) ..

theorem settleAll_memoryOk {s : State} (h : s.memoryOk) (i core : Nat) (sc : Scope) : (settleAll s i core sc).memoryOk :=
  vectorAfter_memoryOk (cacheRelease_memoryOk (settleScalar_memoryOk (settleVector_memoryOk h i) ..) ..) i

theorem observeTag_memoryOk {s : State} (h : s.memoryOk) (core i : Nat) (t : Fin 64) : (observeTag core i s t).memoryOk := by
  unfold observeTag; split
  · exact h
  · exact l1CleanDropAll_memoryOk h ..

theorem observeTags_memoryOk {s : State} (h : s.memoryOk) (i core : Nat) (ts : List (Fin 64)) : (observeTags s i core ts).memoryOk :=
  foldl_memoryOk (fun _ _ hs => observeTag_memoryOk hs ..) _ h

/-! ### The matrix queue -/

theorem deferError_memoryOk {s : State} (h : s.memoryOk) (i : Nat) (x : Hart) (c : BitVec 8) (e : MEntry) :
    (deferError s i x c e).memoryOk := by
  unfold deferError; dsimp only; split <;> exact h

theorem performStage_memoryOk {s : State} (h : s.memoryOk) (i : Nat) (x : Hart) (e : MEntry) (isA : Bool) (v : Reg) (p : Nat) :
    (performStage s i x e isA v p).memoryOk := by
  unfold performStage; dsimp only; split
  · exact deferError_memoryOk h ..
  · exact homeWrite_memoryOk h _ _ false

theorem performMma_memoryOk {s : State} (h : s.memoryOk) (i : Nat) (x : Hart) (e : MEntry) (t : Tile) : (performMma s i x e t).memoryOk := by
  unfold performMma; dsimp only; repeat' split
  all_goals first | exact h | exact deferError_memoryOk h ..

theorem performMldt_memoryOk {s : State} (h : s.memoryOk) (i : Nat) (x : Hart) (e : MEntry) (t : Tile) (tt : TileType) :
    (performMldt s i x e t tt).memoryOk := by
  unfold performMldt; dsimp only; split
  all_goals first | exact h | exact deferError_memoryOk h ..

theorem performMstt_memoryOk {s : State} (h : s.memoryOk) (i : Nat) (x : Hart) (e : MEntry) (t : Tile) : (performMstt s i x e t).memoryOk := by
  unfold performMstt; dsimp only; split
  · exact deferError_memoryOk h ..
  · exact homeWrite_memoryOk h _ _ false

theorem performMtov_memoryOk {s : State} (h : s.memoryOk) (i : Nat) (x : Hart) (e : MEntry) (v : Reg) (t : Tile) :
    (performMtov s i x e v t).memoryOk := by
  unfold performMtov; dsimp only; repeat' split
  all_goals first | exact h | exact deferError_memoryOk h ..

theorem matrixStep_memoryOk {s : State} (h : s.memoryOk) (i : Nat) (x : Hart) : (matrixStep s i x).memoryOk := by
  unfold matrixStep; split
  · exact h
  · split
    · exact h
    · exact h
    · exact performStage_memoryOk h ..
    · exact performMma_memoryOk h ..
    · exact performMldt_memoryOk h ..
    · exact performMstt_memoryOk h ..
    · exact performMtov_memoryOk h ..

theorem matrixHead_memoryOk {s : State} (h : s.memoryOk) (i : Nat) : (matrixHead s i).memoryOk := by
  unfold matrixHead; repeat' split
  all_goals first | exact h | exact matrixStep_memoryOk h ..

theorem matrixDrain_memoryOk (n : Nat) {s : State} (h : s.memoryOk) (i : Nat) : (matrixDrain n s i).memoryOk := by
  induction n generalizing s with
  | zero => exact h
  | succ n ih => exact ih (matrixHead_memoryOk h i)

theorem freeContexts_memoryOk {s : State} (h : s.memoryOk) (i : Nat) : (freeContexts s i).memoryOk := h

theorem leaveMatrix_memoryOk {s : State} (h : s.memoryOk) (i : Nat) : (leaveMatrix s i).memoryOk := by
  unfold leaveMatrix; repeat' split
  all_goals exact h

/-! ### Records, waiting, saving, exceptions -/

theorem writeRecord_memoryOk {s : State} (h : s.memoryOk) (p : Fin 8) (bs : List Byte) : (writeRecord s p bs).memoryOk :=
  homeWrite_memoryOk h _ _ false

theorem postRecord_memoryOk {s : State} (h : s.memoryOk) (p : Fin 8) (bs : List Byte) : (postRecord s p bs).memoryOk := by
  unfold postRecord; dsimp only; split
  · exact h
  · exact writeRecord_memoryOk h ..

theorem postWaiting_memoryOk (n : Nat) {s : State} (h : s.memoryOk) (p : Fin 8) : (postWaiting n s p).memoryOk := by
  induction n generalizing s with
  | zero => exact h
  | succ n ih =>
    unfold postWaiting; dsimp only; split
    · exact h
    · split
      · exact h
      · refine ih (writeRecord_memoryOk ?_ ..); exact h

theorem waitReplay_memoryOk {s : State} (h : s.memoryOk) (i : Nat) (x : Hart) (u : ExecUnit) (c : BitVec 8) (k a : Nat) (va : Word)
    (l z : Nat) : (waitReplay s i x u c k a va l z).memoryOk := by
  unfold waitReplay; exact postRecord_memoryOk (by exact h) ..

theorem waitAts_memoryOk {s : State} (h : s.memoryOk) (i : Nat) (x : Hart) (u : ExecUnit) (c : BitVec 8) (va : Word) (p : Nat) :
    (waitAts s i x u c va p).memoryOk := by
  unfold waitAts; split <;> exact h

theorem lapseTokens_memoryOk {s : State} (h : s.memoryOk) (i : Nat) : (lapseTokens s i).memoryOk := h
theorem freeContext_memoryOk {s : State} (h : s.memoryOk) (i : Nat) : (freeContext s i).memoryOk := h
theorem freeTracks_memoryOk {s : State} (h : s.memoryOk) (p : Fin 8) (ps : List Nat) : (freeTracks s p ps).memoryOk := h

theorem quiesce_memoryOk {s : State} (h : s.memoryOk) (i : Nat) : (quiesce s i).memoryOk := by
  unfold quiesce; split
  · exact h
  · next x _ =>
    have a := settleAll_memoryOk (modAnchor_memoryOk (modPacer_memoryOk h i settlePacer) i
      fun a => { a with withdrawn := none, ahead := none }) i x.core .package
    have b := lapseTokens_memoryOk (freeContexts_memoryOk (matrixDrain_memoryOk 33 a i) i) i
    dsimp only
    generalize lapseTokens (freeContexts (matrixDrain 33 _ i) i) i = z at b ⊢
    exact b

theorem postLog_memoryOk {s : State} (h : s.memoryOk) (bs : List Byte) : (postLog s bs).memoryOk := by
  unfold postLog; dsimp only; split
  · exact h
  · exact homeWrite_memoryOk (s := modMgmt s _) h _ _ false

theorem fatalStop_memoryOk {s : State} (h : s.memoryOk) (c : BitVec 8) (u d p : Nat) : (fatalStop s c u d p).memoryOk := by
  unfold fatalStop; split
  · exact h
  · exact postLog_memoryOk (by exact h) _

theorem writeArea_memoryOk {s : State} (h : s.memoryOk) (i : Nat) (tr : Option TrapInfo) (hard : Bool) (m : HartMode) :
    (writeArea s i tr hard m).memoryOk := by
  unfold writeArea; split
  · exact h
  · dsimp only; split
    · exact fatalStop_memoryOk (by exact h) ..
    · exact modHart_memoryOk (homeWrite_memoryOk h _ _ false) i _

theorem saveNow_memoryOk {s t : State} (h : s.memoryOk) (i : Nat) (tr : Option TrapInfo) (hard : Bool) (m : HartMode)
    (e : saveNow s i tr hard m = some t) : t.memoryOk := by
  have w := writeArea_memoryOk (quiesce_memoryOk h i) i tr hard m
  unfold saveNow at e
  split at e
  · cases e; exact h
  · split at e
    · cases e
    · dsimp only at e
      generalize writeArea (quiesce s i) i tr hard m = z at e w
      split at e <;> cases e
      exact w

theorem endHart_memoryOk {s : State} (h : s.memoryOk) (i : Nat) : (endHart s i).memoryOk := by
  unfold endHart; split
  · exact h
  · next x _ =>
    have a := drainStores_memoryOk h i fun f => !rangeFenced s f.loc f.data.length
    dsimp only
    generalize drainStores s i _ = y at a ⊢
    have b := lapseTokens_memoryOk (leaveMatrix_memoryOk (matrixDrain_memoryOk 33
      (l1CleanAll_memoryOk a x.core fun l => !l.dirty.isEmpty && !rangeFenced y (l.line * 64) 64) i) i) i
    generalize lapseTokens (leaveMatrix (matrixDrain 33 _ i) i) i = z at b ⊢
    exact b

theorem endGang_memoryOk {s : State} (h : s.memoryOk) (p : Fin 8) (g : BitVec 32) : (endGang s p g).memoryOk := by
  unfold endGang; dsimp only
  refine freeTracks_memoryOk ?_ ..
  exact foldl_memoryOk (fun _ _ hs => endHart_memoryOk hs ..) _ h

theorem finishSave_memoryOk {s : State} (h : s.memoryOk) (p : Fin 8) (g : BitVec 32) : (finishSave s p g).memoryOk := by
  unfold finishSave; split
  · exact h
  · dsimp only
    generalize gangHarts s p g = is
    split
    · refine freeTracks_memoryOk ?_ ..
      exact foldl_memoryOk (fun t j ht => modHart_memoryOk (freeContexts_memoryOk ht j) j _) is h
    · exact h

theorem deliverStopped_memoryOk {s : State} (h : s.memoryOk) (i : Nat) (info : TrapInfo) : (deliverStopped s i info).memoryOk := by
  unfold deliverStopped; split
  · exact h
  · split
    · exact h
    · dsimp only; split
      · split
        · exact h
        · next e =>
          have w := saveNow_memoryOk h _ _ _ _ e
          split
          · exact w
          · exact finishSave_memoryOk (postRecord_memoryOk w ..) ..
      · exact postRecord_memoryOk (endGang_memoryOk h ..) ..

theorem deliverTrap_memoryOk {s : State} (h : s.memoryOk) (i : Nat) (info : TrapInfo) : (deliverTrap s i info).memoryOk :=
  deliverStopped_memoryOk (modAnchor_memoryOk h ..) i info

theorem fetchTrap_memoryOk {s : State} (h : s.memoryOk) (i : Nat) (x : Hart) (c : BitVec 8) (va : Word) :
    (fetchTrap s i x c va).memoryOk := deliverStopped_memoryOk h ..

theorem trapAt_memoryOk {s : State} (h : s.memoryOk) (i : Nat) (x : Hart) (t : Thread) (c : BitVec 8) (va : Word) :
    (trapAt s i x t c va).memoryOk := deliverTrap_memoryOk h ..

theorem refuseWord_memoryOk {s : State} (h : s.memoryOk) (i : Nat) (x : Hart) (t : Thread) (c : BitVec 8) :
    (refuseWord s i x t c).memoryOk := by
  unfold refuseWord; split
  · exact trapAt_memoryOk h ..
  · dsimp only; split
    · exact deliverTrap_memoryOk (setAnchor_memoryOk h ..) ..
    · exact h

theorem arithCheck_memoryOk {s : State} (h : s.memoryOk) (i : Nat) (p : Fin 8) (t : Thread) (f : Flags) (a : Word) :
    (arithCheck s i p t f a).memoryOk := by
  unfold arithCheck; split
  · exact deliverTrap_memoryOk h ..
  · exact h

/-- Whatever stops an access, memory keeps its form. -/
theorem stopAccess_memoryOk {s t : State} (h : s.memoryOk) (i : Nat) (x : Hart) (u : ExecUnit) (c : BitVec 8) (k : AccessKind) (a : Nat)
    (va : Word) (e : Stop) (ht : stopAccess s i x u c k a va e = .next t) : t.memoryOk := by
  unfold stopAccess at ht
  split at ht <;> cases ht
  · exact trapAt_memoryOk h ..
  · exact waitReplay_memoryOk h ..
  · exact waitAts_memoryOk h ..
  · exact h

/-- A scalar access keeps the form where what it goes on with does. -/
theorem scalarAccess_memoryOk {s t : State} (h : s.memoryOk) (i : Nat) (x : Hart) (c : BitVec 8) (k : AccessKind) (va : Word) (n : Nat)
    (go : State → Nat → Bool → Out) (hg : ∀ s loc cached t, s.memoryOk → go s loc cached = .next t → t.memoryOk)
    (ht : scalarAccess s i x c k va n go = .next t) : t.memoryOk := by
  rcases scalarAccess_cases s i x c k va n go with ⟨-, e⟩ | ⟨-, loc, cached, -, e⟩ | ⟨-, st, -, e⟩ <;> rw [e] at ht
  · cases ht; exact trapAt_memoryOk h ..
  · split at ht
    · cases ht; exact h
    · exact hg _ _ _ _ (memoryOk_of_mem h (noteTlb_mem ..)) ht
  · exact stopAccess_memoryOk h _ _ _ _ _ _ _ _ ht

/-- An instruction that a thread runs keeps the form where its meaning does. -/
theorem onThread_memoryOk {s t : State} (h : s.memoryOk) (i : Instr) (k : Nat → Hart → Thread → Out)
    (hk : ∀ x g u t, k x g u = .next t → t.memoryOk) (ht : onThread i s k = .next t) : t.memoryOk := by
  unfold onThread at ht
  split at ht
  · cases ht; exact h
  · dsimp only at ht
    split at ht
    · exact hk _ _ _ _ ht
    · cases ht; exact refuseWord_memoryOk h ..

theorem onPacer_memoryOk {s t : State} (h : s.memoryOk) (k : Nat → Hart → Thread → Out)
    (hk : ∀ x g u t, k x g u = .next t → t.memoryOk) (ht : onPacer s k = .next t) : t.memoryOk := by
  unfold onPacer at ht
  split at ht
  · cases ht; exact h
  · split at ht
    · exact hk _ _ _ _ ht
    · cases ht; exact refuseWord_memoryOk h ..

end Sys2Proof.Machine
end

