-- ==== Sys2Proof/Tests/Slice0.lean ====
section
/-! SUPPORT. Tests of one step or one word each, with values from the spec's text and worked by hand, and for every statement
with hypotheses a witness that meets them. -/

set_option Elab.async false

namespace Sys2Proof.Tests

open Sys2Proof Sys2Proof.Machine

/-! ### Decoding: words written out from the layouts of R149 to R162 and the points of R163 -/

/-- Each word decodes to the instruction beside it, which is well formed and encodes to it. -/
noncomputable def reads (l : List (Word × Instr)) : Bool :=
  l.all fun x => decide (decodeWord x.1 = .ok x.2) && x.2.wf && decide (encode x.2 = some x.1)

/-- Major 0x01 (R156, R163). -/
theorem test_decode_register_alu : reads [
    (0x06A9F00000000000, .add 21 9 30),
    (0x06A9F00100000000, .sub 21 9 30),
    (0x06A9F00200000000, .mul 21 9 30),
    (0x06A9F00300000000, .mulh 21 9 30),
    (0x06A9F00400000000, .mulhn 21 9 30),
    (0x06A9F00500000000, .div 21 9 30),
    (0x06A9F00600000000, .divn 21 9 30),
    (0x06A9F00700000000, .rem 21 9 30),
    (0x06A9F00800000000, .remn 21 9 30),
    (0x06A9F00900000000, .and 21 9 30),
    (0x06A9F00A00000000, .or 21 9 30),
    (0x06A9F00B00000000, .xor 21 9 30),
    (0x06A9F00C00000000, .andn 21 9 30),
    (0x06A9F00D00000000, .shl 21 9 30),
    (0x06A9F00E00000000, .shr 21 9 30),
    (0x06A9F00F00000000, .sra 21 9 30),
    (0x06A9F01000000000, .rot 21 9 30),
    (0x06A9F01100000000, .min 21 9 30),
    (0x06A9F01200000000, .max 21 9 30),
    (0x06A9F01300000000, .minn 21 9 30),
    (0x06A9F01400000000, .maxn 21 9 30),
    (0x06A9F01500000000, .slt 21 9 30),
    (0x06A9F01600000000, .sltn 21 9 30),
    (0x06A9F01700000000, .seq 21 9 30),
    (0x06A9F39800000000, .cmov 21 9 30 14),
    (0x06A9001900000000, .clz 21 9),
    (0x06A9001A00000000, .ctz 21 9),
    (0x06A9001B00000000, .popc 21 9)] = true := by decide +kernel

/-- Major 0x02 (R156, R163). -/
theorem test_decode_immediate_alu : reads [
    (0x0AA9000080000003, .addImm 21 9 0x80000003),
    (0x0AA9000180000003, .subImm 21 9 0x80000003),
    (0x0AA9000280000003, .mulImm 21 9 0x80000003),
    (0x0AA9000380000003, .mulhImm 21 9 0x80000003),
    (0x0AA9000480000003, .mulhnImm 21 9 0x80000003),
    (0x0AA9000580000003, .divImm 21 9 0x80000003),
    (0x0AA9000680000003, .divnImm 21 9 0x80000003),
    (0x0AA9000780000003, .remImm 21 9 0x80000003),
    (0x0AA9000880000003, .remnImm 21 9 0x80000003),
    (0x0AA9000980000003, .andImm 21 9 0x80000003),
    (0x0AA9000A80000003, .orImm 21 9 0x80000003),
    (0x0AA9000B80000003, .xorImm 21 9 0x80000003),
    (0x0AA9000C80000003, .andnImm 21 9 0x80000003),
    (0x0AA9000D0000003F, .shlImm 21 9 63),
    (0x0AA9000E0000003F, .shrImm 21 9 63),
    (0x0AA9000F0000003F, .sraImm 21 9 63),
    (0x0AA900100000003F, .rotImm 21 9 63),
    (0x0AA9001180000003, .minImm 21 9 0x80000003),
    (0x0AA9001280000003, .maxImm 21 9 0x80000003),
    (0x0AA9001380000003, .minnImm 21 9 0x80000003),
    (0x0AA9001480000003, .maxnImm 21 9 0x80000003),
    (0x0AA9001580000003, .sltImm 21 9 0x80000003),
    (0x0AA9001680000003, .sltnImm 21 9 0x80000003),
    (0x0AA9001780000003, .seqImm 21 9 0x80000003)] = true := by decide +kernel

/-- Major 0x03 (R156, R163). -/
theorem test_decode_constants : reads [
    (0x0EA00000FFFFFFFE, .li 21 (-2)),
    (0x0EA00001FFFFFFFE, .lih 21 (-2))] = true := by decide +kernel

/-- Major 0x04 (R156, R163). -/
theorem test_decode_scalar_float : reads [
    (0x12A9F0000000000A, .fadd 21 9 30 .bf16),
    (0x12A9F0010000000A, .fsub 21 9 30 .bf16),
    (0x12A9F0020000000A, .fmul 21 9 30 .bf16),
    (0x12A9F3830000000C, .ffma 21 9 30 14 .f64),
    (0x12A9F0040000000A, .fdiv 21 9 30 .bf16),
    (0x12A9F0050000000A, .fsqrt 21 9 30 .bf16),
    (0x12A9F0060000000A, .fmin 21 9 30 .bf16),
    (0x12A9F0070000000A, .fmax 21 9 30 .bf16),
    (0x12A9F008000000B5, .fcvt 21 9 30 .i32 .f32),
    (0x12A9F0090000000A, .fcmpEq 21 9 30 .bf16),
    (0x12A9F00A0000000A, .fcmpLt 21 9 30 .bf16),
    (0x12A9F00B0000000A, .fcmpLe 21 9 30 .bf16),
    (0x12A9F00C0000000A, .fcmpUn 21 9 30 .bf16)] = true := by decide +kernel

/-- Major 0x05 (R156, R163). -/
theorem test_decode_control_registers : reads [
    (0x16A0000000000022, .getc 21 0x022),
    (0x1409000100000041, .setc 0x041 9),
    (0x1400000200000000, .nop)] = true := by decide +kernel

/-- Major 0x06 (R156, R163). -/
theorem test_decode_lengths : reads [
    (0x1AA900000000000B, .setvl 21 9 .f32),
    (0x1AAB000100000000, .setvlm 21 11)] = true := by decide +kernel

/-- Major 0x07 (R156, R163). -/
theorem test_decode_scalar_queues : reads [
    (0x1C09000000000001, .qpush .qc 9),
    (0x1EA0000100000000, .qpop 21 .qa)] = true := by decide +kernel

/-- Major 0x08 (R158, R163). -/
theorem test_decode_branches : reads [
    (0x2009F07FFFFFFFFD, .beq 9 30 (-3)),
    (0x2009F0FFFFFFFFFD, .bne 9 30 (-3)),
    (0x2009F17FFFFFFFFD, .blt 9 30 (-3)),
    (0x2009F1FFFFFFFFFD, .bge 9 30 (-3)),
    (0x2009F27FFFFFFFFD, .bltn 9 30 (-3)),
    (0x2009F2FFFFFFFFFD, .bgen 9 30 (-3)),
    (0x22A0030000000005, .jal 21 5),
    (0x22A903C000000000, .jalr 21 9 0x4000000000),
    (0x200B040000000002, .bmskAny 11 2),
    (0x200B048000000002, .bmskNone 11 2)] = true := by decide +kernel

/-- Major 0x09 (R159, R163). -/
theorem test_decode_lap : reads [
    (0x26A9401380F1FFFF, .lap 21 .n16 none (some ⟨9, 3⟩) none (some ⟨30, 0⟩) (-1))] = true := by decide +kernel

/-- Major 0x0A (R158, R163). -/
theorem test_decode_fetch_and_loop : reads [
    (0x280C000000000007, .vfetch (some 11) 7),
    (0x280C008000000007, .tfetch (some 11) 7),
    (0x2801010000000000, .tstop (some 0)),
    (0x2BE0018000000000, .vloop 31),
    (0x2BE9220000000000, .vloopS 31 9 4)] = true := by decide +kernel

/-- Major 0x10 (R149 to R151, R164, R163). -/
theorem test_decode_vector_arithmetic : reads [
    (0x4354C60160020000, .vadd ⟨true, some 4, true⟩ (.reg 21) (.reg 9 true) (.lq 3)),
    (0x4354C60160120000, .vsub ⟨true, some 4, true⟩ (.reg 21) (.reg 9 true) (.lq 3)),
    (0x4354C60160220000, .vmul ⟨true, some 4, true⟩ (.reg 21) (.reg 9 true) (.lq 3)),
    (0x4354C60160320000, .vmulh ⟨true, some 4, true⟩ (.reg 21) (.reg 9 true) (.lq 3)),
    (0x40123C7400490000, .vfma ⟨false, none, false⟩ (.sq 1) .vf (.reg 30 false) (.reg 14 true)),
    (0x40123C7400590000, .vfms ⟨false, none, false⟩ (.sq 1) .vf (.reg 30 false) (.reg 14 true)),
    (0x4354C60160620000, .vdiv ⟨true, some 4, true⟩ (.reg 21) (.reg 9 true) (.lq 3)),
    (0x4354800160700000, .vsqrt ⟨true, some 4, true⟩ (.reg 21) (.reg 9 false)),
    (0x4354800160800000, .vrcp ⟨true, some 4, true⟩ (.reg 21) (.reg 9 false)),
    (0x4354800160900000, .vrsq ⟨true, some 4, true⟩ (.reg 21) (.reg 9 false)),
    (0x4354800160A00000, .vexp2 ⟨true, some 4, true⟩ (.reg 21) (.reg 9 false)),
    (0x4354800160B00000, .vlog2 ⟨true, some 4, true⟩ (.reg 21) (.reg 9 false)),
    (0x4354C60160C20000, .vmin ⟨true, some 4, true⟩ (.reg 21) (.reg 9 true) (.lq 3)),
    (0x4354C60160D20000, .vmax ⟨true, some 4, true⟩ (.reg 21) (.reg 9 true) (.lq 3)),
    (0x4354800160E00000, .vabs ⟨true, some 4, true⟩ (.reg 21) (.reg 9 false)),
    (0x4354800160F00000, .vneg ⟨true, some 4, true⟩ (.reg 21) (.reg 9 false)),
    (0x4354C60161020000, .vand ⟨true, some 4, true⟩ (.reg 21) (.reg 9 true) (.lq 3)),
    (0x4354C60161120000, .vor ⟨true, some 4, true⟩ (.reg 21) (.reg 9 true) (.lq 3)),
    (0x4354C60161220000, .vxor ⟨true, some 4, true⟩ (.reg 21) (.reg 9 true) (.lq 3)),
    (0x4354800161300000, .vnot ⟨true, some 4, true⟩ (.reg 21) (.reg 9 false)),
    (0x4354C60161420000, .vshl ⟨true, some 4, true⟩ (.reg 21) (.reg 9 true) (.lq 3)),
    (0x4354C60161520000, .vshr ⟨true, some 4, true⟩ (.reg 21) (.reg 9 true) (.lq 3)),
    (0x4354C60161620000, .vsrr ⟨true, some 4, true⟩ (.reg 21) (.reg 9 true) (.lq 3)),
    (0x4354C60161720000, .vadds ⟨true, some 4, true⟩ (.reg 21) (.reg 9 true) (.lq 3)),
    (0x4354C60161820000, .vsubs ⟨true, some 4, true⟩ (.reg 21) (.reg 9 true) (.lq 3)),
    (0x40123C7401990000, .vmac2 ⟨false, none, false⟩ (.sq 1) .vf (.reg 30 false) (.reg 14 true)),
    (0x4154BD00C1A00000, .vsel ⟨false, some 2, false⟩ (.reg 21) (.reg 9 false) (.reg 30 true)),
    (0x42B4BC0162000000, .vcmpEq ⟨true, some 4, true⟩ 11 (.reg 9 false) (.reg 30 false)),
    (0x42B4BC0162100000, .vcmpNe ⟨true, some 4, true⟩ 11 (.reg 9 false) (.reg 30 false)),
    (0x42B4BC0162200000, .vcmpLt ⟨true, some 4, true⟩ 11 (.reg 9 false) (.reg 30 false)),
    (0x42B4BC0162300000, .vcmpLe ⟨true, some 4, true⟩ 11 (.reg 9 false) (.reg 30 false)),
    (0x42B4BC0162400000, .vcmpGt ⟨true, some 4, true⟩ 11 (.reg 9 false) (.reg 30 false)),
    (0x42B4BC0162500000, .vcmpGe ⟨true, some 4, true⟩ 11 (.reg 9 false) (.reg 30 false)),
    (0x42B4BC0162600000, .vcmpUn ⟨true, some 4, true⟩ 11 (.reg 9 false) (.reg 30 false)),
    (0x42B4BC0162700000, .vcmpOd ⟨true, some 4, true⟩ 11 (.reg 9 false) (.reg 30 false))] = true := by decide +kernel

/-- Major 0x11 (R149 to R151, R164, R163). -/
theorem test_decode_vector_scalar : reads [
    (0x47503C0160010000, .vaddScalar ⟨true, some 4, true⟩ (.reg 21) (.lq 0) 30),
    (0x47503C0160110000, .vsubScalar ⟨true, some 4, true⟩ (.reg 21) (.lq 0) 30),
    (0x47503C0160210000, .vmulScalar ⟨true, some 4, true⟩ (.reg 21) (.lq 0) 30),
    (0x47503C0160310000, .vmulhScalar ⟨true, some 4, true⟩ (.reg 21) (.lq 0) 30),
    (0x4554BC1000440000, .vfmaScalar ⟨false, none, false⟩ (.reg 21) (.reg 9 false) 30 (.lq 2)),
    (0x4554BC1000540000, .vfmsScalar ⟨false, none, false⟩ (.reg 21) (.reg 9 false) 30 (.lq 2)),
    (0x47503C0160610000, .vdivScalar ⟨true, some 4, true⟩ (.reg 21) (.lq 0) 30),
    (0x47503C0160C10000, .vminScalar ⟨true, some 4, true⟩ (.reg 21) (.lq 0) 30),
    (0x47503C0160D10000, .vmaxScalar ⟨true, some 4, true⟩ (.reg 21) (.lq 0) 30),
    (0x47503C0161010000, .vandScalar ⟨true, some 4, true⟩ (.reg 21) (.lq 0) 30),
    (0x47503C0161110000, .vorScalar ⟨true, some 4, true⟩ (.reg 21) (.lq 0) 30),
    (0x47503C0161210000, .vxorScalar ⟨true, some 4, true⟩ (.reg 21) (.lq 0) 30),
    (0x47503C0161410000, .vshlScalar ⟨true, some 4, true⟩ (.reg 21) (.lq 0) 30),
    (0x47503C0161510000, .vshrScalar ⟨true, some 4, true⟩ (.reg 21) (.lq 0) 30),
    (0x47503C0161610000, .vsrrScalar ⟨true, some 4, true⟩ (.reg 21) (.lq 0) 30),
    (0x47503C0161710000, .vaddsScalar ⟨true, some 4, true⟩ (.reg 21) (.lq 0) 30),
    (0x47503C0161810000, .vsubsScalar ⟨true, some 4, true⟩ (.reg 21) (.lq 0) 30),
    (0x4554BC1001940000, .vmac2Scalar ⟨false, none, false⟩ (.reg 21) (.reg 9 false) 30 (.lq 2)),
    (0x4404BC00C1A80000, .vselScalar ⟨false, some 2, false⟩ (.sq 0) (.reg 9 false) 30),
    (0x44B4BC0002000000, .vcmpEqScalar ⟨false, none, false⟩ 11 (.reg 9 false) 30),
    (0x44B4BC0002100000, .vcmpNeScalar ⟨false, none, false⟩ 11 (.reg 9 false) 30),
    (0x44B4BC0002200000, .vcmpLtScalar ⟨false, none, false⟩ 11 (.reg 9 false) 30),
    (0x44B4BC0002300000, .vcmpLeScalar ⟨false, none, false⟩ 11 (.reg 9 false) 30),
    (0x44B4BC0002400000, .vcmpGtScalar ⟨false, none, false⟩ 11 (.reg 9 false) 30),
    (0x44B4BC0002500000, .vcmpGeScalar ⟨false, none, false⟩ 11 (.reg 9 false) 30),
    (0x44B4BC0002600000, .vcmpUnScalar ⟨false, none, false⟩ 11 (.reg 9 false) 30),
    (0x44B4BC0002700000, .vcmpOdScalar ⟨false, none, false⟩ 11 (.reg 9 false) 30)] = true := by decide +kernel

/-- Major 0x12 (R149 to R151, R164, R163). -/
theorem test_decode_vector_immediate : reads [
    (0x4B54800160008001, .vaddImm ⟨true, some 4, true⟩ (.reg 21) (.reg 9 false) 0x8001),
    (0x4B54800160108001, .vsubImm ⟨true, some 4, true⟩ (.reg 21) (.reg 9 false) 0x8001),
    (0x4B54800160208001, .vmulImm ⟨true, some 4, true⟩ (.reg 21) (.reg 9 false) 0x8001),
    (0x4B54800160C08001, .vminImm ⟨true, some 4, true⟩ (.reg 21) (.reg 9 false) 0x8001),
    (0x4B54800160D08001, .vmaxImm ⟨true, some 4, true⟩ (.reg 21) (.reg 9 false) 0x8001),
    (0x4B54800161008001, .vandImm ⟨true, some 4, true⟩ (.reg 21) (.reg 9 false) 0x8001),
    (0x4B54800161108001, .vorImm ⟨true, some 4, true⟩ (.reg 21) (.reg 9 false) 0x8001),
    (0x4B54800161208001, .vxorImm ⟨true, some 4, true⟩ (.reg 21) (.reg 9 false) 0x8001),
    (0x4B54800161408001, .vshlImm ⟨true, some 4, true⟩ (.reg 21) (.reg 9 false) 0x8001),
    (0x4B54800161508001, .vshrImm ⟨true, some 4, true⟩ (.reg 21) (.reg 9 false) 0x8001),
    (0x4B54800161608001, .vsrrImm ⟨true, some 4, true⟩ (.reg 21) (.reg 9 false) 0x8001),
    (0x4B54800161708001, .vaddsImm ⟨true, some 4, true⟩ (.reg 21) (.reg 9 false) 0x8001),
    (0x4B54800161808001, .vsubsImm ⟨true, some 4, true⟩ (.reg 21) (.reg 9 false) 0x8001),
    (0x48B480000200FFFF, .vcmpEqImm ⟨false, none, false⟩ 11 (.reg 9 false) 0xFFFF),
    (0x48B480000210FFFF, .vcmpNeImm ⟨false, none, false⟩ 11 (.reg 9 false) 0xFFFF),
    (0x48B480000220FFFF, .vcmpLtImm ⟨false, none, false⟩ 11 (.reg 9 false) 0xFFFF),
    (0x48B480000230FFFF, .vcmpLeImm ⟨false, none, false⟩ 11 (.reg 9 false) 0xFFFF),
    (0x48B480000240FFFF, .vcmpGtImm ⟨false, none, false⟩ 11 (.reg 9 false) 0xFFFF),
    (0x48B480000250FFFF, .vcmpGeImm ⟨false, none, false⟩ 11 (.reg 9 false) 0xFFFF)] = true := by decide +kernel

/-- Major 0x13 (R149 to R151, R164, R163). -/
theorem test_decode_tags : reads [
    (0x4F5000000000000E, .vtag true 21 .idx16),
    (0x4F5000000010000E, .vretag true 21 .idx16),
    (0x4F54800160200000, .vsplat ⟨true, some 4, true⟩ (.reg 21) 9),
    (0x4C14800000380000, .vpush ⟨false, none, false⟩ 1 (.reg 9 false))] = true := by decide +kernel

/-- Major 0x14 (R149 to R151, R164, R163). -/
theorem test_decode_conversions : reads [
    (0x5354800160000008, .vcvt ⟨true, some 4, true⟩ (.reg 21) (.reg 9 false) .n64),
    (0x5354800160100008, .vcvtS ⟨true, some 4, true⟩ (.reg 21) (.reg 9 false) .n64),
    (0x5154BC700020001F, .vqcvt ⟨false, none, false⟩ (.reg 21) (.reg 9 false) 30 14 31),
    (0x5154BC740030000A, .vdq ⟨false, none, false⟩ (.reg 21) (.reg 9 false) 30 (.reg 14 true) .bf16),
    (0x5154800000400005, .vbfly ⟨false, none, false⟩ (.reg 21) (.reg 9 false) 5),
    (0x5204800000500003, .vbflyF true (.reg 9 false) 3),
    (0x5350000160600000, .vrand ⟨true, some 4, true⟩ (.reg 21)),
    (0x5154BD0000700000, .vutf8 false (.reg 21) (.reg 9 false) 30 true)] = true := by decide +kernel

/-- Major 0x15 (R149 to R151, R164, R163). -/
theorem test_decode_masks : reads [
    (0x56B4940000000000, .mand true 11 9 10),
    (0x56B4940000100000, .mor true 11 9 10),
    (0x56B4940000200000, .mxor true 11 9 10),
    (0x54B4800000300000, .mnot false 11 9),
    (0x54B0000000400001, .mset false 11 true)] = true := by decide +kernel

/-- Major 0x16 (R149 to R151, R164, R163). -/
theorem test_decode_shape : reads [
    (0x5954BC7000000800, .vslideup ⟨false, none, false⟩ (.reg 21) (.reg 9 false) 30 (.scalar 14)),
    (0x5954BC7000100800, .vslidedn ⟨false, none, false⟩ (.reg 21) (.reg 9 false) 30 (.scalar 14)),
    (0x59548000002057FF, .vslideupImm ⟨false, none, false⟩ (.reg 21) (.reg 9 false) 1023 (.identity 5)),
    (0x59548000003057FF, .vslidednImm ⟨false, none, false⟩ (.reg 21) (.reg 9 false) 1023 (.identity 5)),
    (0x5B54C60160420000, .vrgather ⟨true, some 4, true⟩ (.reg 21) (.reg 9 true) (.lq 3)),
    (0x58123C7400590000, .vrgather2 ⟨false, none, false⟩ (.sq 1) .vf (.reg 30 false) (.reg 14 true)),
    (0x5954C000C0600000, .vcompress ⟨false, some 2, false⟩ (.reg 21) (.reg 9 true)),
    (0x5954C000C0700000, .vexpand ⟨false, some 2, false⟩ (.reg 21) (.reg 9 true)),
    (0x5B54800160800000, .viota ⟨true, some 4, true⟩ (.reg 21) 9),
    (0x5954BC0000900000, .vextr false 21 (.reg 9 false) 30),
    (0x5954800000A0FFFF, .vextrImm false 21 (.reg 9 false) 0xFFFF),
    (0x5954BC0000B00000, .vins false (.reg 21) 9 30),
    (0x5B54800000C0012C, .vinsImm true (.reg 21) 9 300)] = true := by decide +kernel

/-- Major 0x17 (R149 to R151, R164, R163). -/
theorem test_decode_reductions : reads [
    (0x5D54BC0300000000, .vredsum false (some 11) 21 (.reg 9 false) 30),
    (0x5D54BC0300100000, .vredmax false (some 11) 21 (.reg 9 false) 30),
    (0x5D54BC0300200000, .vredmin false (some 11) 21 (.reg 9 false) 30),
    (0x5D54BC0300300000, .vredbitAnd false (some 11) 21 (.reg 9 false) 30),
    (0x5D54BC0300400000, .vredbitOr false (some 11) 21 (.reg 9 false) 30),
    (0x5D54BC0300500000, .vredbitXor false (some 11) 21 (.reg 9 false) 30),
    (0x5D54BC7000600000, .vscanSum ⟨false, none, false⟩ (.reg 21) (.reg 9 false) 30 14),
    (0x5D54BC7000700000, .vscanMax ⟨false, none, false⟩ (.reg 21) (.reg 9 false) 30 14),
    (0x5D54BC7000800000, .vscanMin ⟨false, none, false⟩ (.reg 21) (.reg 9 false) 30 14),
    (0x5D54BC7000900000, .vscanSumX ⟨false, none, false⟩ (.reg 21) (.reg 9 false) 30 14),
    (0x5D54BC7000A00000, .vscanMaxX ⟨false, none, false⟩ (.reg 21) (.reg 9 false) 30 14),
    (0x5D54BC7000B00000, .vscanMinX ⟨false, none, false⟩ (.reg 21) (.reg 9 false) 30 14),
    (0x5D54800040C00000, .vargmax false (some 0) 21 (.reg 9 false)),
    (0x5D54800040D00000, .vargmin false (some 0) 21 (.reg 9 false)),
    (0x5D54800000E00000, .mpopc false none 21 9),
    (0x5D54800000F00000, .mfirst false none 21 9)] = true := by decide +kernel

/-- Major 0x18 (R149 to R151, R164, R163). -/
theorem test_decode_forest : reads [
    (0x6274800160000000, .kset ⟨true, some 4, true⟩ 7 (.reg 9 false)),
    (0x6153000000100000, .kget ⟨false, none, false⟩ (.reg 21) 6),
    (0x61548E0000200061, .kupSum ⟨false, none, false⟩ (.reg 21) (.reg 9 false) 7 ⟨some 6, none⟩),
    (0x61548E0000300061, .kupMax ⟨false, none, false⟩ (.reg 21) (.reg 9 false) 7 ⟨some 6, none⟩),
    (0x61548E0000400061, .kupMin ⟨false, none, false⟩ (.reg 21) (.reg 9 false) 7 ⟨some 6, none⟩),
    (0x61548E0000500061, .kdownSum ⟨false, none, false⟩ (.reg 21) (.reg 9 false) 7 ⟨some 6, none⟩),
    (0x61548E0000600061, .kdownMax ⟨false, none, false⟩ (.reg 21) (.reg 9 false) 7 ⟨some 6, none⟩),
    (0x61548E0000700061, .kdownMin ⟨false, none, false⟩ (.reg 21) (.reg 9 false) 7 ⟨some 6, none⟩),
    (0x61548E0000800061, .kbcast ⟨false, none, false⟩ (.reg 21) (.reg 9 false) 7 ⟨some 6, none⟩),
    (0x61500E0000900B02, .kdepth ⟨false, none, false⟩ (.reg 21) 7 ⟨none, some 11⟩),
    (0x61548E0000A00213, .kanc ⟨false, none, false⟩ (.reg 21) 9 7 ⟨some 1, some 2⟩),
    (0x60B48E0000B00000, .kancIs ⟨false, none, false⟩ 11 (.reg 9 false) 7 ⟨none, none⟩),
    (0x60500E00C0C00000, .kcontract ⟨false, some 2, false⟩ 5 7 ⟨none, none⟩),
    (0x61500E0000D00B02, .kroot ⟨false, none, false⟩ (.reg 21) 7 ⟨none, some 11⟩),
    (0x60B00E0000E00000, .kcheck ⟨false, none, false⟩ 11 7)] = true := by decide +kernel

/-- Major 0x20 (R165, R163). -/
theorem test_decode_vector_memory : reads [
    (0x8034800140008000, .vld (some 4) 3 9 0x8000),
    (0x8034BC0140100000, .vlds (some 4) 3 9 30),
    (0x8034BC0140200003, .vldx (some 4) 3 9 30 3),
    (0x8034805800300008, .vldff none 3 9 11 8),
    (0x8014800140408000, .vst (some 4) 1 9 0x8000),
    (0x8014BC0140500000, .vsts (some 4) 1 9 30),
    (0x8014BC0140600003, .vstx (some 4) 1 9 30 3),
    (0x8034800000700040, .vldw 3 9 64),
    (0x8014800000800040, .vstw 1 9 64),
    (0x8014800000900040, .vspl 1 9 64),
    (0x8034800000A00040, .vfil 3 9 64),
    (0x8014BC1140B08019, .vamo (some 4) 1 9 30 1 .xor (some 2))] = true := by decide +kernel

/-- Major 0x21 (R157, R163). -/
theorem test_decode_loads : reads [
    (0x86A90340FFFFFFF8, .ldB 21 9 (.acq .package) (-8)),
    (0x86A90341FFFFFFF8, .ldH 21 9 (.acq .package) (-8)),
    (0x86A90342FFFFFFF8, .ldW 21 9 (.acq .package) (-8)),
    (0x86A90343FFFFFFF8, .ldD 21 9 (.acq .package) (-8)),
    (0x86A90344FFFFFFF8, .ldBn 21 9 (.acq .package) (-8)),
    (0x86A90345FFFFFFF8, .ldHn 21 9 (.acq .package) (-8)),
    (0x86A90346FFFFFFF8, .ldWn 21 9 (.acq .package) (-8))] = true := by decide +kernel

/-- Major 0x22 (R157, R163). -/
theorem test_decode_stores : reads [
    (0x8AA9048000000008, .stB 21 9 (.rel .system) 8),
    (0x8AA9048100000008, .stH 21 9 (.rel .system) 8),
    (0x8AA9048200000008, .stW 21 9 (.rel .system) 8),
    (0x8AA9048300000008, .stD 21 9 (.rel .system) 8)] = true := by decide +kernel

/-- Major 0x23 (R157, R163). -/
theorem test_decode_atomics : reads [
    (0x8EA9F1C000000008, .amoaddW 21 9 30 (.acqRel .core) 8),
    (0x8EA9F1C100000008, .amoaddD 21 9 30 (.acqRel .core) 8),
    (0x8EA9F1C200000008, .amoswapW 21 9 30 (.acqRel .core) 8),
    (0x8EA9F1C300000008, .amoswapD 21 9 30 (.acqRel .core) 8),
    (0x8EA9F1C400000008, .amocasW 21 9 30 (.acqRel .core) 8),
    (0x8EA9F1C500000008, .amocasD 21 9 30 (.acqRel .core) 8),
    (0x8EA9F1C600000008, .amominW 21 9 30 (.acqRel .core) 8),
    (0x8EA9F1C700000008, .amominD 21 9 30 (.acqRel .core) 8),
    (0x8EA9F1C800000008, .amomaxW 21 9 30 (.acqRel .core) 8),
    (0x8EA9F1C900000008, .amomaxD 21 9 30 (.acqRel .core) 8),
    (0x8EA9F1CA00000008, .amoandW 21 9 30 (.acqRel .core) 8),
    (0x8EA9F1CB00000008, .amoandD 21 9 30 (.acqRel .core) 8),
    (0x8EA9F1CC00000008, .amoorW 21 9 30 (.acqRel .core) 8),
    (0x8EA9F1CD00000008, .amoorD 21 9 30 (.acqRel .core) 8),
    (0x8EA9F1CE00000008, .amoxorW 21 9 30 (.acqRel .core) 8),
    (0x8EA9F1CF00000008, .amoxorD 21 9 30 (.acqRel .core) 8),
    (0x8EA9F1D000000008, .amominWn 21 9 30 (.acqRel .core) 8),
    (0x8EA9F1D100000008, .amominDn 21 9 30 (.acqRel .core) 8),
    (0x8EA9F1D200000008, .amomaxWn 21 9 30 (.acqRel .core) 8),
    (0x8EA9F1D300000008, .amomaxDn 21 9 30 (.acqRel .core) 8),
    (0x8EA9049400000008, .rsadd 21 9 (.rel .system) 8),
    (0x8EA90355FFFFFFF8, .rsfin 21 9 (.acq .package) (-8))] = true := by decide +kernel

/-- Major 0x24 (R160, R163). -/
theorem test_decode_engines : reads [
    (0x93F4F9C000000000, .cpy 63 9 30 14),
    (0x93F4F9D519400180, .cpy2 63 9 30 14 21 3 5 true),
    (0x9214F9D5194C7200, .cpyx 33 9 30 14 21 3 5 6 7 false),
    (0x93F4800000000300, .pftopk 63 9),
    (0x93F4800000000400, .pfscan 63 9),
    (0x93F4800000000500, .seam 63 9),
    (0x9004F80000000600, .fcinv 9 30),
    (0x9004F80000000700, .fcwb 9 30)] = true := by decide +kernel

/-- Major 0x25 (R160, R163). -/
theorem test_decode_tag_waits : reads [
    (0x9404800000000000, .twany 9),
    (0x9404800000000100, .twall 9),
    (0x9404F80000000200, .tfirst 9 30),
    (0x9404800000000300, .tclr 9),
    (0x9490000000000400, .qfence 9)] = true := by decide +kernel

/-- Major 0x28 (R161, R163). -/
theorem test_decode_matrix : reads [
    (0xA13E700000000000, .settl 9 30 14),
    (0xA000000080000000, .mclaim),
    (0xA000000100000000, .mrel),
    (0xA000003980000000, .mzero 7),
    (0xA120054240000000, .mstageA 9 21 16),
    (0xA1200542C0000000, .mstageB 9 21 16),
    (0xA13E003B00000000, .mma 7 9 30),
    (0xA120003B82000000, .mldt 7 9 .i32),
    (0xA120003C00000000, .mstt 7 9),
    (0xA120057C80000000, .mtov 21 7 9)] = true := by decide +kernel

/-- Major 0x30 (R162, R163). -/
theorem test_decode_system : reads [
    (0xC000002000000000, .fenceSv .system),
    (0xC000006000000000, .fenceVs .system),
    (0xC00000A000000000, .fenceVv .system),
    (0xC00000E000000000, .fenceAll .system),
    (0xC000010000000000, .gbar),
    (0xC009F14000000000, .waitmEq 9 30),
    (0xC009F18000000000, .waitmNe 9 30),
    (0xC00001C000000000, .yield),
    (0xC000020000000000, .vrel),
    (0xC000024000000000, .hexit),
    (0xC2A9F28000000000, .glaunch 21 9 30),
    (0xC00002C000081234, .trap 0x81234),
    (0xC000030000081234, .brk 0x81234),
    (0xC000034000081234, .hcall 0x81234),
    (0xC000038000000000, .eret),
    (0xC2A003C080200000, .sgetc 21 0x802),
    (0xC009040088100000, .ssetc 0x881 9),
    (0xC009F44000000000, .ktlbiVa 9 30),
    (0xC000F48000000000, .ktlbiPart 30),
    (0xC00004C000000000, .ktlbiAll)] = true := by decide +kernel


/-! ### Small states -/

/-- A register file, register 0 left 0. -/
def file (f : Nat → Word) : ScalarFile := Vector.ofFn fun r => if r.val = 0 then 0 else f r.val

/-- A hart of class 0 at 0x1000 in both threads, 100 elements, with these registers in both. -/
def hartOf (f : Nat → Word) : Hart :=
  let th : ThreadState := { ThreadState.start with pc := 0x1000, vl := 100, regs := file f }
  { Hart.launch 0 ⟨[], 1, false⟩ ⟨0x1000, 0x1000, []⟩ 0 ⟨0, 1, 0⟩ 0 with
    gangsize := 1
    pacer := { PacerState.start with th := th }
    anchor := { AnchorState.start with th := th, xpc := List.replicate 128 0 } }

/-- A leaf of one page, frame n; reading and writing as said. -/
def leaf (n : Nat) (c : Bool) (tgt : Nat := 0) (r w : Bool := true) : Leaf := ⟨12, r, w, true, c, false, tgt, n * 4096, 0, 0⟩

/-- Partition 0 changed. -/
def part0 (s : State) (f : Partition → Partition) : State := { s with parts := s.parts.set 0 (f s.parts[0]) }

/-- One hart of one resident gang. Pages 1 plain, 2 cacheable, 3 host (known to ATS), 4 peer, 5 read-only, 6 write-only; no
other page. -/
def stateOf (h : Hart) (u : ExecUnit) (m : List Host.Cell := []) : State :=
  part0 { State.reset with
    mem := m
    harts := [h]
    gangs := [⟨false, 0, 1, 0, false, 0, 1, false, .resident, 0, 0, 0, 0, false⟩]
    granted := [(0, 3)]
    tlb := [⟨0, 0, 1, leaf 1 false⟩, ⟨0, 0, 2, leaf 2 true⟩, ⟨0, 0, 3, leaf 3 false 1⟩, ⟨0, 0, 4, leaf 4 false 2⟩,
      ⟨0, 0, 5, leaf 5 false 0 true false⟩, ⟨0, 0, 6, leaf 6 false 0 false true⟩]
    cur := ⟨0, u⟩ } fun p => { p with ptroot := 1, pasid := some 1 }

/-- 8-byte words in memory from an address on, little-endian. -/
def cells (a : Nat) (l : List Nat) : List Host.Cell :=
  l.zipIdx.flatMap fun x => (leBytes 8 x.1).zipIdx.filterMap fun b => if b.1 = 0 then none else some (a + 8 * x.2 + b.2, b.1)

/-- The state a step gives, and its hart 0. -/
def after (o : Out) : State := match o with
  | .next t => t
  | _ => State.reset
def hart0 (o : Out) : Option Hart := (after o).harts[0]?

/-- A hart whose register r is r times a constant, but for those listed. -/
def hartWith (l : List (Nat × Word)) : Hart :=
  hartOf fun r => ((l.find? fun x => x.1 == r).map (·.2)).getD (BitVec.ofNat 64 (r * 0x0123456789ABCDE))

theorem runs_stateOf (h : Hart) (u : ExecUnit) (m : List Host.Cell) : (stateOf h u m).runs h u.thread := ⟨rfl, rfl⟩
theorem performs_stateOf (h : Hart) (m : List Host.Cell) : (stateOf h .vector m).performs h := ⟨rfl, rfl⟩

/-- What holds of each member of a list, from one evaluation. -/
theorem forall_of_all {α : Type} {p : α → Prop} [DecidablePred p] (l : List α) (h : l.all (fun x => decide (p x)) = true) :
    ∀ x ∈ l, p x := by simpa using h

/-- Whether an outcome is a next state, and that state. -/
def isNext (o : Out) : Bool := match o with
  | .next _ => true
  | _ => false
theorem next_after {o : Out} (h : isNext o = true) : o = .next (after o) := by
  cases o <;> first | rfl | cases h

/-- Whether a result is there, and that result. -/
def okOr {ε α : Type} (d : α) : Except ε α → α
  | .ok a => a
  | .error _ => d
theorem ok_okOr {ε α : Type} {x : Except ε α} (d : α) (h : x.toBool = true) : x = .ok (okOr d x) := by
  cases x <;> first | rfl | cases h

/-! ### Ill-formed instructions and words that are none (R151, R156, R157, R159, R161, R164, R166, R175, R182, R201, R205, R224) -/

theorem test_ill_formed_scalar :
    ([.fcvt 1 2 0 .f32 .i8, .fcvt 1 2 0 .i32 .n64, .lap 3 .f32 (some ⟨4, 0⟩) (some ⟨4, 1⟩) none none 0,
      .lap 3 .f32 (some ⟨3, 0⟩) none none none 0, .lap 3 .f32 none none none (some ⟨0, 0⟩) 0, .vloopS 1 2 1, .vloopS 1 2 5,
      .ldB 1 2 (.rel .hart) 0, .stB 1 2 (.acq .hart) 0, .rsadd 1 2 (.acqRel .die) 0, .rsfin 1 2 (.rel .die) 0,
      .settl 1 1 2, .settl 1 2 1, .settl 2 1 1, .mstageA 1 2 0, .mstageB 1 2 17] : List Instr).all (fun i => !i.wf) = true := by
  decide

theorem test_ill_formed_vector :
    ([.vadd ⟨false, none, true⟩ (.reg 1) (.reg 2 false) (.reg 3 false), .vsel ⟨false, none, false⟩ (.reg 1) (.reg 2 false) (.reg 3 false),
      .vcompress ⟨false, some 1, true⟩ (.reg 1) (.reg 2 false), .vcvt ⟨false, none, false⟩ (.reg 1) (.reg 2 false) .qn4,
      .vcvtS ⟨false, none, false⟩ (.reg 1) (.reg 2 false) .f32, .vqcvt ⟨false, none, false⟩ (.reg 1) (.reg 2 false) 4 1 0,
      .vqcvt ⟨false, none, false⟩ (.reg 1) (.reg 1 false) 4 3 0, .vqcvt ⟨false, none, false⟩ (.reg 1) (.reg 2 false) 4 2 0,
      .vdq ⟨false, none, false⟩ (.reg 1) (.reg 2 false) 3 (.reg 4 false) .f64, .vutf8 false (.reg 1) (.reg 2 false) 1 false,
      .kroot ⟨false, none, false⟩ (.reg 1) 2 ⟨some 3, some 3⟩, .kancIs ⟨false, none, false⟩ 3 (.reg 1 false) 2 ⟨some 3, none⟩,
      .kcontract ⟨false, none, false⟩ 1 2 ⟨none, none⟩] : List Instr).all (fun i => !i.wf) = true := by decide

/-- No point 28 of major 0x01, no major 0x0B, a reserved field used, a mask number 12, a type 15, z without a mask, a queue bit and a
chain bit on a scalar field, `vf` beyond 4, a mask selector 13 (R147 to R152, R166). -/
theorem test_refused_words :
    ([0x0400001C00000000, 0x2C00000000000000, 0x0400000000000001, 0x180C000100000000, 0x180000000000000F, 0x4000000020000000,
      0x4400000000020000, 0x4400010000000000, 0x4002800000010000, 0x4000000340000000] : List Word).all
        (fun w => (decodeWord w).toOption.isNone) = true := by decide +kernel

/-! ### One step each -/

def runP (h : Hart) (i : Instr) (m : List Host.Cell := []) : Option Hart := hart0 (exec i (stateOf h .pacer m))
def runA (h : Hart) (i : Instr) : Option Hart := hart0 (exec i (stateOf h .anchor))
def runV (h : Hart) (i : Instr) : Option Hart := hart0 (exec i (stateOf h .vector))
def regOf (o : Option Hart) (t : Thread) (r : Reg) : Option Word := o.map fun h => h.reg t r

/-- R169: the sum is modulo 2^64; R47: register 0 stays 0. -/
theorem test_add : regOf (runP (hartWith [(1, -1), (2, 3)]) (.add 4 1 2)) .pacer 4 = some 2 ∧
    regOf (runA (hartWith [(1, -1), (2, 3)]) (.add 0 1 2)) .anchor 0 = some 0 := by decide +kernel
/-- R169: −7 / 2 is −3, −7 rem 2 is −1; as naturals 2^64 − 7 halved. -/
theorem test_div : (regOf (runP (hartWith [(1, -7), (2, 2)]) (.div 4 1 2)) .pacer 4,
    regOf (runP (hartWith [(1, -7), (2, 2)]) (.rem 4 1 2)) .pacer 4, regOf (runP (hartWith [(1, -7), (2, 2)]) (.divn 4 1 2)) .pacer 4) =
    (some (-3), some (-1), some 0x7FFFFFFFFFFFFFFC) := by decide +kernel
/-- R169: the high halves of (−1)·(−1), signed and natural. -/
theorem test_mulh : (regOf (runP (hartWith [(1, -1)]) (.mulh 4 1 1)) .pacer 4, regOf (runP (hartWith [(1, -1)]) (.mulhn 4 1 1)) .pacer 4) =
    (some 0, some 0xFFFFFFFFFFFFFFFE) := by decide +kernel
/-- R169: shift amounts are taken modulo 64. -/
theorem test_shifts : (regOf (runA (hartWith [(1, 0x8000000000000001), (2, 65)]) (.shl 4 1 2)) .anchor 4,
    regOf (runA (hartWith [(1, 0x8000000000000001), (2, 65)]) (.sra 4 1 2)) .anchor 4,
    regOf (runA (hartWith [(1, 0x8000000000000001), (2, 65)]) (.rot 4 1 2)) .anchor 4) = (some 2, some 0xC000000000000000, some 3) := by
  decide +kernel
/-- R172: LIH keeps the low half. -/
theorem test_lih : regOf (runP (hartWith [(5, 0x1111222233334444)]) (.lih 5 0x89ABCDEF)) .pacer 5 = some 0x89ABCDEF33334444 := by
  decide +kernel
/-- R173: 1.5 + 2.25 = 3.75 in F32. -/
theorem test_fadd : regOf (runP (hartWith [(1, 0x3FC00000), (2, 0x40100000)]) (.fadd 4 1 2 .f32)) .pacer 4 = some 0x40700000 := by
  decide +kernel
/-- R75, R77: 1 / 0 is +∞ and raises DZ, 1 / 3 is 0x3EAAAAAB and raises NX. -/
theorem test_fdiv : (runP (hartWith [(1, 0x3F800000), (2, 0)]) (.fdiv 4 1 2 .f32)).map (fun h => (h.reg .pacer 4, h.pacer.th.fflags)) =
    some (0x7F800000, 0x02) ∧
    (runP (hartWith [(1, 0x3F800000), (2, 0x40400000)]) (.fdiv 4 1 2 .f32)).map (fun h => (h.reg .pacer 4, h.pacer.th.fflags)) =
    some (0x3EAAAAAB, 0x10) := by decide +kernel
/-- R175: 2.5 to I32 is 2 (halves to even) and raises NX. -/
theorem test_fcvt : (runA (hartWith [(1, 0x40200000)]) (.fcvt 4 1 0 .i32 .f32)).map (fun h => (h.reg .anchor 4, h.anchor.th.fflags)) =
    some (2, 0x10) := by decide +kernel
/-- R49, R188: a class 0 row of 512 bytes holds 128 F32. -/
theorem test_setvl : (runA (hartWith [(1, 1000)]) (.setvl 4 1 .f32)).map (fun h => (h.reg .anchor 4, h.anchor.th.vl)) =
    some (128, 128) := by decide +kernel
/-- R158: a taken branch goes 3 words back. -/
theorem test_bne : (runP (hartWith [(1, 1)]) (.bne 1 0 (-3))).map (fun h => h.pacer.th.pc) = some 0xFE8 := by decide +kernel
/-- R178: d takes PC + 8, the target s1 + 16 with its low bits cleared. -/
theorem test_jalr : (runP (hartWith [(1, 0x2007)]) (.jalr 1 1 2)).map (fun h => (h.reg .pacer 1, h.pacer.th.pc)) =
    some (0x1008, 0x2010) := by decide +kernel
/-- R232: a negative half sign-extends; a natural one does not. -/
theorem test_ld : (regOf (runP (hartWith [(1, 0x1000)]) (.ldH 4 1 .plain 2) (cells 0x1000 [0x8001FFFF])) .pacer 4,
    regOf (runP (hartWith [(1, 0x1000)]) (.ldHn 4 1 .plain 2) (cells 0x1000 [0x8001FFFF])) .pacer 4) =
    (some 0xFFFFFFFFFFFF8001, some 0x8001) := by decide +kernel
/-- R232, R323: a store leaves for its home, little-endian, and reaches it. -/
theorem test_st : (after (exec (.accessPerformed 0 0) (after (exec (.stW 2 1 .plain 4)
      (stateOf (hartWith [(1, 0x1000), (2, 0x11223344AABBCCDD)]) .pacer))))).mem =
    [(0x1004, 0xDD), (0x1005, 0xCC), (0x1006, 0xBB), (0x1007, 0xAA)] := by decide +kernel
/-- R234: the old value comes back sign-extended, the sum wraps to 32 bits. -/
theorem test_amoadd : (let t := after (exec (.amoaddW 4 1 2 .plain 0) (stateOf (hartWith [(1, 0x1000), (2, 3)]) .pacer (cells 0x1000 [0xFFFFFFFE])));
    (t.harts[0]?.map fun h => h.reg .pacer 4, t.mem)) = ((some 0xFFFFFFFFFFFFFFFE : Option Word), [(0x1000, 1)]) := by decide +kernel
/-- R233: a misaligned word traps; with PSAVE.EN 0 the gang ends (R387). -/
theorem test_misaligned : (let t := after (exec (.ldW 4 1 .plain 0) (stateOf (hartWith [(1, 0x1002)]) .pacer));
    (t.gangs.length, t.harts[0]?.map fun h => h.mode)) = (0, some .retired) := by decide +kernel
/-- R283, R281: the handler's address, PC + 8 and the cause of TRAP 5. -/
theorem test_trap : (runP (let h := hartWith []; { h with pacer := { h.pacer with th := { h.pacer.th with trapvec := 0x4001 } } }) (.trap 5)).map
    (fun h => (h.pacer.th.pc, h.reg .pacer 31, h.reg .pacer 30)) = some (0x4000, 0x1008, 0x500D) := by decide +kernel

/-- A hart with three elements, registers v4 and v5 of I32 and v6 of F32. -/
def hartV : Hart :=
  let h := hartWith [(9, 10)]
  let v := ((h.anchor.vregs.set 4 ⟨some .i32, false, [0xFFFFFFFF, 5, 7], []⟩).set 5 ⟨some .i32, false, [2, 3, 0x7FFFFFFF], []⟩).set 6
    ⟨some .f32, false, [0x3F800000, 0x40000000, 0x40400000], []⟩
  { h with anchor := { h.anchor with vregs := v, th := { h.anchor.th with vl := 3, masks := h.anchor.th.masks.set 2 5 } } }
def vreg (o : Option Hart) (r : Reg) : Option (List Word) := o.map fun h => h.anchor.vregs[r].elems

/-- R73, R191, R195: element sums wrap to 32 bits. -/
theorem test_vadd : vreg (runV hartV (.vadd ⟨false, none, false⟩ (.reg 7) (.reg 4 false) (.reg 5 false))) 7 =
    some [1, 8, 0x80000006] := by decide +kernel
/-- R151: element 1 is masked off and zeroed; R72: the sum 7 + (2^31 − 1) saturates. -/
theorem test_vadds : (runV hartV (.vadds ⟨false, some 2, true⟩ (.reg 7) (.reg 4 false) (.reg 5 false))).map
    (fun h => (h.anchor.vregs[7].elems, h.anchor.vsat)) = some ([1, 0, 0x7FFFFFFF], 1) := by decide +kernel
/-- R195: 1·1+1, 2·2+2, 3·3+3 in F32. -/
theorem test_vfma : vreg (runV hartV (.vfma ⟨false, none, false⟩ (.reg 7) (.reg 6 false) (.reg 6 false) (.reg 6 false))) 7 =
    some [0x40000000, 0x40C00000, 0x41400000] := by decide +kernel
/-- R197: −1 < 2 but not 5 < 3. -/
theorem test_vcmp : (runV hartV (.vcmpLt ⟨false, none, false⟩ 3 (.reg 4 false) (.reg 5 false))).map (fun h => h.anchor.th.masks[3]) =
    some 5 := by decide +kernel
/-- R218: −1 + 5 + 7 + 10. -/
theorem test_vredsum : regOf (runV hartV (.vredsum false none 8 (.reg 4 false) 9)) .anchor 8 = some 21 := by decide +kernel
/-- R220: running sums from 10, the carry out last. -/
theorem test_vscan : (runV hartV (.vscanSum ⟨false, none, false⟩ (.reg 7) (.reg 4 false) 9 8)).map
    (fun h => (h.anchor.vregs[7].elems, h.reg .anchor 8)) = some ([9, 14, 21], 21) := by decide +kernel
/-- R211: elements 0 and 2 are packed, `vl` is 2. -/
theorem test_vcompress : (runV hartV (.vcompress ⟨false, some 2, false⟩ (.reg 7) (.reg 5 false))).map
    (fun h => (h.anchor.vregs[7].elems, h.anchor.th.vl)) = some ([2, 0x7FFFFFFF], 2) := by decide +kernel
/-- R199, R215: bits 0 and 2 are set. -/
theorem test_mask_counts : (regOf (runV hartV (.mpopc false none 8 2)) .anchor 8, regOf (runV hartV (.mfirst false (some 2) 8 2)) .anchor 8) =
    (some 2, some 0) := by decide +kernel
/-- R225: node 2 hangs from 1, 1 from 0, 0 is a root: depths 0, 1, 2. -/
theorem test_kdepth : vreg (runV ({ hartV with anchor := { hartV.anchor with kregs := hartV.anchor.kregs.set 1 ⟨false, [0xFFFF, 0, 1]⟩ } })
    (.kdepth ⟨false, none, false⟩ (.reg 7) 1 ⟨none, none⟩)) 7 = some [0, 1, 2] := by decide +kernel
/-- R257: 100 columns are cut to 64, a depth of 70 is padded to 128. -/
theorem test_settl : (runV ({ hartWith [(1, 3), (2, 100), (3, 70)] with anchor := { (hartWith [(1, 3), (2, 100), (3, 70)]).anchor with claim := true } })
    (.settl 1 2 3)).map (fun h => (h.anchor.shape, h.reg .anchor 2, h.reg .anchor 3)) = some (⟨3, 64, 128⟩, 64, 70) := by decide +kernel
/-- R237, R239: a masked load puts element addresses of the active elements and 0 elsewhere in flight. -/
theorem test_vld : (runP (let h := hartWith [(1, 0x1000)]; { h with pacer := { h.pacer with th := { h.pacer.th with
      vl := 3, grant := .f32, masks := h.pacer.th.masks.set 0 5 } } }) (.vld (some 0) 1 1 8)).map (fun h => h.pacer.loads) =
    some [⟨1, .f32, [.bytes 0x1008 false, .value 0, .bytes 0x1010 false]⟩] := by decide +kernel
/-- R15: a push to `qc` and a pop of `qa`. -/
theorem test_queues : ((runP (hartWith [(1, 7)]) (.qpush .qc 1)).map fun h => h.qc, regOf (runP { hartWith [] with qa := [5, 6] } (.qpop 4 .qa)) .pacer 4) =
    (some [7], some 5) := by decide +kernel
/-- R113, R248: CPY enters the Shuttle's queue with its operands. -/
theorem test_cpy : ((runP (hartWith [(1, 0x2000), (2, 0x1000), (3, 64)]) (.cpy 5 1 2 3)).map fun h => (h.pacer.engines[0]).map fun c => (c.op, c.tag)) =
    some [(.copy 0x2000 0x1000 64, some 5)] := by decide +kernel
/-! ### Witnesses: what the statements assume, met

Each theorem shows a concrete state and operands that meet the hypotheses of one clause, or of several, of the statement named. Where a
hypothesis is an equation with a function's result, the result is that function's. -/

def hA : Hart := hartWith [(6, 0x8000000000000000), (7, -1), (8, 0)]
def sP : State := stateOf hA .pacer
def sA : State := stateOf hA .anchor
def sV : State := stateOf hA .vector

theorem witness_RegisterWriteFrame : sP.harts[sP.cur.hart]? = some hA ∧ (5 : Reg) ≠ 0 ∧ (6 : Reg) ≠ 5 ∧ Thread.anchor ≠ .pacer ∧
    (1 : Nat) ≠ sP.cur.hart := by decide +kernel

theorem witness_runs : sP.runs hA .pacer ∧ sA.runs hA .anchor ∧ sV.performs hA ∧ sA.fronts hA :=
  ⟨runs_stateOf .., runs_stateOf .., performs_stateOf .., ⟨rfl, rfl⟩⟩

/-- DivisionBoundaries (both clauses), ScalarRegisterForms (a divisor that is not 0). -/
theorem witness_DivisionBoundaries : sP.runs hA .pacer ∧ hA.reg .pacer 8 = 0 ∧ hA.reg .pacer 6 = 0x8000000000000000 ∧
    hA.reg .pacer 7 = 0xFFFFFFFFFFFFFFFF ∧ hA.reg .pacer 7 ≠ 0 := ⟨runs_stateOf .., by decide +kernel⟩

theorem witness_ScalarImmediatesAndConstants : sP.runs hA .pacer ∧ (5 : Reg) ≠ 0 ∧
    exec (.li 5 ((0x89ABCDEF98765432 : Word).setWidth 32)) sP =
      .next (after (exec (.li 5 ((0x89ABCDEF98765432 : Word).setWidth 32)) sP)) :=
  ⟨runs_stateOf .., by decide, next_after (by decide +kernel)⟩

theorem witness_ScalarFloats : sA.runs hA .anchor ∧ fmtOf .f16 = some .f16 ∧ fmtOf .f64 = some .f64 ∧ ElemType.isScalarCvt .i32 = true ∧
    fmtOf .i32 = none ∧ ElemType.isScalarCvt .n64 = true ∧ fmtOf .n64 = none := ⟨runs_stateOf .., by decide⟩

theorem witness_RoundingIsCorrect : isNumber (.fin false 5 (-3)) = true ∧ isNumber (.zero true) = true ∧
    0xFFFF < 2 ^ FloatFmt.width .f16 ∧ fDecode .f16 0x0001 = .fin false 1 (-24) ∧ fDecode .f16 0x7BFF = .fin false 2047 5 ∧
    0 < 123456789 ∧ isNumber (fDecode .f16 (fRound .f16 .nearestEven false 123456789 (-20) false).1) = true := by decide +kernel

def hQueued : Hart := { hA with anchor := { hA.anchor with viq := [{ (default : VEntry) with instr := .mset false 3 true }] } }
def hLoading : Hart := { hA with pacer := { hA.pacer with loads := [⟨0, .f32, []⟩] } }

/-- The third clause's two waits; the first two need no more than an empty VIQ and no access under way. `frm` takes 4, not 5. -/
theorem witness_ControlRegisters : hA.anchor.viq = [] ∧ hA.pacer.loads = [] ∧ hA.pacer.stores = [] ∧ (4 : Word).toNat % 8 < 5 ∧
    5 ≤ (5 : Word).toNat % 8 ∧ (stateOf hQueued .anchor).runs hQueued .anchor ∧ hQueued.anchor.viq ≠ [] ∧
    (stateOf hLoading .pacer).runs hLoading .pacer ∧ hLoading.pacer.loads ≠ [] :=
  ⟨rfl, rfl, rfl, by decide, by decide, runs_stateOf .., by decide, runs_stateOf .., by decide⟩

/-- A VIQ with room for a `SETC` and one without. -/
theorem witness_ControlRegisters_queue : hA.anchor.viq.length < 64 ∧ 64 ≤ (List.replicate 64 (default : VEntry)).length ∧
    sA.mgmt.recoveries = [] ∧ vlPending hA.anchor = false ∧
    vlPending { hA.anchor with viq := [{ (default : VEntry) with instr := .vcompress ⟨false, some 2, false⟩ (.reg 7) (.reg 5 false) }] } = true := by
  decide +kernel

def hMasks (m : Nat) : Hart := { hQueued with anchor := { hQueued.anchor with
  th := { hQueued.anchor.th with masks := hQueued.anchor.th.masks.set 4 m } } }

/-- A mask that an entry has still to write; one with no bit; one whose highest bit is the last, 127. -/
theorem witness_VectorLengths : maskPending hQueued.anchor 3 = true ∧ maskPending (hMasks 0).anchor 4 = false ∧
    (hMasks 0).anchor.th.masks[4] = 0 ∧ maskPending (hMasks (2 ^ 127)).anchor 4 = false ∧
    ((hMasks (2 ^ 127)).anchor.th.masks[4]).testBit 127 = true ∧
    (∀ k, k < 128 → 127 < k → ((hMasks (2 ^ 127)).anchor.th.masks[4]).testBit k = false) := by
  refine ⟨by decide +kernel, by decide +kernel, by decide +kernel, by decide +kernel, by decide +kernel, ?_⟩
  intro k h1 h2; omega

/-- Queues with room for one more, full, empty, and with an entry. -/
theorem witness_ScalarQueues : (List.replicate 15 (9 : Word)).length < 16 ∧ 16 ≤ (List.replicate 16 (9 : Word)).length ∧ hA.qa = [] ∧
    hA.qc = [] ∧ ({ hA with qa := [3, 4] } : Hart).qa = 3 :: [4] ∧ ({ hA with qc := [3] } : Hart).qc = 3 :: [] := by decide

/-- `BMSK`: a pending mask, a set bit below `vl`, none. -/
theorem witness_Branches : maskPending hQueued.anchor 3 = true ∧ maskPending (hMasks (2 ^ 99)).anchor 4 = false ∧
    99 < (hMasks (2 ^ 99)).anchor.th.vl.toNat ∧ ((hMasks (2 ^ 99)).anchor.th.masks[4]).testBit 99 = true ∧
    (∀ k, k < 100 → ((hMasks (2 ^ 100)).anchor.th.masks[4]).testBit k = false) := by decide +kernel

theorem witness_LapEndsAStrip : sP.runs hA .pacer ∧ lapPtrsOk 6 (some ⟨3, 3⟩) none (some ⟨5, 0⟩) none = true ∧
    (7 : Reg) ∉ ([⟨3, 3⟩, ⟨5, 0⟩] : List LapPtr).map LapPtr.reg := ⟨runs_stateOf .., by decide⟩

/-! Loops and blocks: two words of code at 0x1008, three at 0x1080. -/

def addV : Instr := .vadd ⟨false, none, false⟩ (.reg 3) (.reg 4 false) (.reg 5 false)
def word (i : Instr) : Nat := ((encode i).getD 0).toNat
def code : List Host.Cell := cells 0x1008 [word addV, word addV] ++ cells 0x1080 [word addV, word (.tfetch (some 3) 5), word (.tstop none)]
def hLoop (trip : Word) : Hart := hartWith [(5, trip)]
def sLoop (trip : Word) : State := stateOf (hLoop trip) .anchor code
noncomputable def body (trip : Word) : State × List Word := match bodyWords (hLoop trip) 2 (sLoop trip) 0x1008 with
  | .ok (s, .ok ws) => (s, ws)
  | _ => (State.reset, [])

theorem witness_Loops_start : bodyWords (hLoop 7) 2 (sLoop 7) 0x1008 = .ok ((body 7).1, .ok (body 7).2) ∧
    decodeAll (body 7).2 = some [addV, addV] ∧ bodyLegal ⟨false, false⟩ [addV, addV] = true ∧
    stagesPending (hLoop 7).anchor 2 = false ∧ ((hLoop 7).reg .anchor 5).toNat < 2 ^ 32 ∧ ((hLoop 0).reg .anchor 5).toNat = 0 := by
  decide +kernel
theorem witness_Loops_long : bodyWords (hLoop 0x100000000) 2 (sLoop 0x100000000) 0x1008 =
    .ok ((body 0x100000000).1, .ok (body 0x100000000).2) ∧ 2 ^ 32 ≤ ((hLoop 0x100000000).reg .anchor 5).toNat := by decide +kernel

/-- A hart at the end of a body of two words, in pass `pass` of a loop of 3 stages and 4 trips. -/
def loopAt (modulo : Bool) (pass : Nat) : LoopState := ⟨0x1008, [1, 2], modulo, 3, 4, pass⟩
def hEnd (modulo : Bool) (pass : Nat) (vl : Word) : Hart := { hA with anchor := { hA.anchor with
  loop := some (loopAt modulo pass), th := { hA.anchor.th with vl := vl, pc := 0x1018 } } }

/-- Passes 4 and 5 of the six: the last that goes on, and the last. -/
theorem witness_Loops_pass : mayGo (hEnd true 4 3) (hEnd true 4 3).anchor.th = true ∧ (hEnd true 4 3).anchor.withdrawn = none ∧
    (hEnd true 4 3).anchor.viq = [] ∧ (hEnd true 4 3).anchor.openLen = none ∧
    (hEnd true 4 3).anchor.th.pc = (loopAt true 4).base + BitVec.ofNat 64 (8 * (loopAt true 4).words.length) ∧
    (loopAt true 4).pass + 1 < (loopAt true 4).trips + (loopAt true 4).stages - 1 ∧
    (loopAt true 5).trips + (loopAt true 5).stages - 1 ≤ (loopAt true 5).pass + 1 ∧
    (hEnd true 4 3).anchor.vtokens = [] ∧ (loopAt true 4).base.toNat + 8 * (loopAt true 4).words.length < 2 ^ 64 ∧
    (hEnd false 0 0).anchor.th.vl = 0 ∧ (hEnd false 0 1).anchor.th.vl ≠ 0 := by decide +kernel

theorem witness_InstructionsOfTheOtherThread : (encode (.qpush .qa 3)).isSome = true ∧ Instr.allowed (.qpush .qc 3) .anchor = false ∧
    Instr.allowed addV .pacer = false ∧ (encode addV).isSome = true ∧ (encode (.qpush .qc 3)).isSome = true ∧ hA.anchor.viq = [] ∧
    hA.anchor.openLen = none := by decide +kernel

def hVl (vl : Word) (m : Nat) : Hart := { hA with anchor := { hA.anchor with
  th := { hA.anchor.th with vl := vl, masks := Vector.replicate 12 m } } }
/-- `VFETCH` with `vl` beyond `mvl`, with an active element, with none, and with target 0. -/
theorem witness_Divergence_fetch : (128 : Nat) < (hVl 129 1).anchor.th.vl.toNat ∧ (hVl 128 1).anchor.th.vl.toNat ≤ 128 ∧
    (0x1000 : Word) + (5 : BitVec 39).signExtend 64 * 8 ≠ 0 ∧ ((hVl 128 1).anchor.th.masks[2]).testBit 0 = true ∧
    (∀ k, k < 128 → ((hVl 128 0).anchor.th.masks[2]).testBit k = false) ∧
    (0x1000 : Word) + (-0x200 : BitVec 39).signExtend 64 * 8 = 0 ∧ (hVl 128 0).anchor.th.vstart.toNat < 128 ∧
    (hVl 5 1).anchor.th.vl.toNat ≤ (5 : Word).toNat := by decide +kernel

/-- Thirty elements at 0x1100, forty at 0x1080, the rest nowhere. -/
def hBlocks : Hart := { hA with anchor := { hA.anchor with
  xpc := List.replicate 30 0x1100 ++ List.replicate 40 0x1080 ++ List.replicate 58 0
  viq := [{ (default : VEntry) with instr := .vfetch none 5, addr := 0x1000, vl := 100, started := true, file := hA.anchor.th.regs },
    { (default : VEntry) with instr := .mset false 3 true }]
  vregs := Vector.replicate 32 ⟨some .f32, false, List.replicate 100 0x3FC00000, []⟩ } }
def sBlocks : State := stateOf hBlocks .vector code
def fetchEntry : VEntry := hBlocks.anchor.viq.headD default

theorem witness_Divergence_block : sBlocks.performs hBlocks ∧ hBlocks.anchor.viq = fetchEntry :: hBlocks.anchor.viq.tail ∧
    fetchEntry.started = true ∧ hBlocks.anchor.xpc.length = 128 * 2 ^ hBlocks.cls.val ∧ (0x1080 : Word) ≠ 0 ∧
    0x1080 ∈ hBlocks.anchor.xpc ∧ (∀ x ∈ hBlocks.anchor.xpc, x ≠ 0 → (0x1080 : Word).toNat ≤ x.toNat) ∧ hBlocks.anchor.vtokens = [] ∧
    hBlocks.mode = .running ∧ hBlocks.stopHard = false := by
  refine ⟨performs_stateOf .., by decide +kernel, by decide +kernel, by decide +kernel, by decide, by decide +kernel,
    forall_of_all _ (by decide +kernel), by decide +kernel, by decide +kernel, by decide +kernel⟩

noncomputable def block : State × List (Word × Instr) := match blockWords hBlocks 32 sBlocks 0x1080 with
  | .ok (s, .ok is) => (s, is)
  | _ => (State.reset, [])
theorem witness_Divergence_pass : blockWords hBlocks 32 sBlocks 0x1080 = .ok (block.1, .ok block.2) ∧ block.2.length = 3 ∧
    blockConvoys [] block.2 = none ∧
    (block.2.any fun x => ((useOf x.2).map (matrixHolds hBlocks.anchor)).getD false) = false := by decide +kernel
noncomputable def ran : Except (BitVec 8 × Word × Nat) PassState :=
  runBlock fetchEntry (passGroup hBlocks.anchor.xpc 0x1080) ⟨hBlocks, List.replicate (128 * 2 ^ hBlocks.cls.val) none, 0, false⟩
    block.2
theorem witness_Divergence_ran : ran = .ok (okOr ⟨hBlocks, [], 0, false⟩ ran) ∧
    (block.1.parts[hBlocks.part].fptrap &&& (okOr ⟨hBlocks, [], 0, false⟩ ran).raised.setWidth 64) = 0 :=
  ⟨ok_okOr _ (by decide +kernel), by decide +kernel⟩
def hNoBlock : Hart := { hBlocks with anchor := { hBlocks.anchor with
  xpc := List.replicate 128 0, viq := [fetchEntry] } }
theorem witness_Divergence_end : (∀ x ∈ hNoBlock.anchor.xpc, x = 0) ∧ fetchEntry.instr = .vfetch none 5 ∧
    (∀ x ∈ ([] : List VEntry).head?, x.joins = false) ∧ hNoBlock.anchor.openLen = none ∧ hNoBlock.anchor.deferredErr = none :=
  ⟨forall_of_all _ (by decide +kernel), by decide +kernel, by decide +kernel, by decide +kernel, by decide +kernel⟩
/-! Translation and scalar memory. -/

def bytesAt (a n k : Nat) : List Host.Cell := (List.range n).map fun i => (a + i, BitVec.ofNat 8 (i + k))
def mem0 : List Host.Cell := bytesAt 0x1000 64 130 ++ bytesAt 0x2000 64 3 ++ bytesAt ((2 ^ 72 + 2 ^ 52) + 0x3000) 64 131
def hAt (a : Word) (st : List StoreFlight := []) : Hart :=
  let h := hartWith [(5, a), (7, 0x8877665544332211), (8, 0xFFFFFFFF00000001)]
  { h with pacer := { h.pacer with stores := st } }
def sAt (a : Word) (st : List StoreFlight := []) : State := stateOf (hAt a st) .pacer mem0
def flight (side : Side) (loc n : Nat) : StoreFlight := ⟨side, loc, (List.range n).map fun k => BitVec.ofNat 8 (k + 1), [], false⟩

/-- No unit is under recovery, in the states of this part. -/
theorem witness_recoveries : (∀ a st, (sAt a st).mgmt.recoveries = []) ∧ ∀ h u m, (stateOf h u m).mgmt.recoveries = [] :=
  ⟨fun _ _ => rfl, fun _ _ _ => rfl⟩

/-- Near addresses at both ends and beyond, on a die the partition has and on one it has not; no page table; and one page of
each kind. -/
theorem witness_Translation_near : (sAt 0).mgmt.recoveries = [] ∧ 0xF000140000000 ≤ (0xF000140000000 : Word).toNat ∧
    ((sAt 0).parts[(0 : Fin 8)].dies).getLsbD ((0xF00013FFFFFFF - 0xF000000000000) / 2 ^ 24 / 40) = true ∧
    ((sAt 0).parts[(1 : Fin 8)].dies).getLsbD ((0xF000000000000 - 0xF000000000000) / 2 ^ 24 / 40) = false ∧
    ((sAt 0).parts[(1 : Fin 8)].ptroot).getLsbD 0 = false := by decide +kernel
theorem witness_Translation_pages : leafOf (sAt 0) 0 0 0x1FFF = .ok (leaf 1 false) ∧ leafPermits (leaf 1 false) .atomic = true ∧
    leafOf (sAt 0) 0 0 0x3FFF = .ok (leaf 3 false 1) ∧ leafPermits (leaf 3 false 1) .atomic = true ∧ (0, 3) ∈ (sAt 0).granted ∧
    leafOf (sAt 0) 0 0 0x4000 = .ok (leaf 4 false 2) ∧ leafOf (sAt 0) 0 0 0x5000 = .ok (leaf 5 false 0 true false) ∧
    leafPermits (leaf 5 false 0 true false) .store = false := by decide +kernel

/-- Entries of level 0 at 0x2000: missing, malformed (writable but not readable), a leaf; and a link at level 1. -/
def tables : List Host.Cell := cells 0x2000 [0, 0x1 + 0x2 + 0x8, 0x1 + 0x2 + 0x4 + 0x5000, 0x1 + 0x2000]
theorem witness_Translation_walk : (readPte tables 0x2000).v = false ∧ (readPte tables 0x2008).v = true ∧
    (readPte tables 0x2008).malformed 0 = true ∧ (readPte tables 0x2010).v = true ∧ (readPte tables 0x2010).malformed 0 = false ∧
    (readPte tables 0x2010).leaf = true ∧ (readPte tables 0x2010).cont = false ∧ (readPte tables 0x2018).v = true ∧
    (readPte tables 0x2018).malformed 1 = false ∧ (readPte tables 0x2018).leaf = false ∧ tableFenced (sAt 0) 0 0 0x1038 = false := by
  decide +kernel
/-- A stack-local leaf, offset 0x5000 of stack 3; sixteen entries of level 0 that agree, and the second of them. -/
def slLeaf : Leaf := ⟨12, true, true, true, true, true, 0, 0x5000, 3, 0⟩
def group : List Host.Cell := cells 0x2000 ((List.range 16).map fun k => 0x1 + 0x2 + 0x4 + 0x40 + 0x10000 + 0x1000 * k)
theorem witness_Translation_stack_local : leafOf { sAt 0 with tlb := [⟨0, 0, 7, slLeaf⟩] } 0 0 0x7008 = .ok slLeaf ∧
    leafPermits slLeaf .store = true ∧ slLeaf.tgt = 0 ∧ slLeaf.sl = true ∧ slLeaf.stack < 24 ∧
    slLeaf.pa + 0x7008 % 2 ^ slLeaf.bits < 64 * 2 ^ 30 := by decide +kernel
theorem witness_Translation_group : (readPte group 0x2008).v = true ∧ (readPte group 0x2008).malformed 0 = false ∧
    (readPte group 0x2008).leaf = true ∧ (readPte group 0x2008).cont = true ∧ (readPte group 0x2000).pa % 2 ^ 16 = 0 ∧
    (∀ k, k < 16 → readPte group (0x2000 + 8 * k) = { readPte group 0x2008 with pa := (readPte group 0x2000).pa + k * 2 ^ 12 }) ∧
    leafMeetsDump { readPte group 0x2008 with pa := (readPte group 0x2000).pa } 16 = false := by decide +kernel

/-- Five levels of tables from 0x10000 to the leaf of page 7; both caches empty. -/
def sWalk : State := part0 { sAt 0 with
  tlb := []
  mem := cells 0x10000 [0x11001] ++ cells 0x11000 [0x12001] ++ cells 0x12000 [0x13001] ++ cells 0x13000 [0x14001] ++ cells 0x14038 [0x9007] } fun p =>
    { p with ptroot := 0x10001 }
theorem witness_Translation_caches : sWalk.cachesAgree ∧ sWalk.mgmt.recoveries = [] ∧ tableFenced sWalk 0 0 0x7008 = false ∧
    translate sWalk 0 0 0x7008 .load false = .ok (0x9008, false) :=
  ⟨fun _ h => (by cases h), by decide +kernel⟩

/-- Loads of 8, 4, 2 and 1 bytes; the value is `loadValue`'s. -/
def loaded (a : Word) (loc n : Nat) (c : Bool) (o : MemOrder) : State × List Byte × Bool :=
  loadValue (noteAcquire (settleSide (noteTlb (sAt a) 0 0 a) 0 .scalar loc n) 0 o loc n) 0 loc n c o
theorem witness_ScalarLoads_value : (sAt 0x1038).runs (hAt 0x1038) .pacer ∧
    translate (sAt 0x1038) 0 0 0x1038 .load false = .ok (0x1038, false) ∧ (0x1038 : Word).toNat % 8 = 0 ∧
    (loaded 0x1038 0x1038 8 false .plain).2.2 = false ∧ translate (sAt 0x2004) 0 0 0x2004 .load false = .ok (0x2004, true) ∧
    (0x2004 : Word).toNat % 4 = 0 ∧ (loaded 0x2004 0x2004 4 true (.acq .die)).2.2 = false ∧
    (loaded 0x1002 0x1002 2 false .plain).2.2 = false ∧ (loaded 0x1001 0x1001 1 false .plain).2.2 = false :=
  ⟨runs_stateOf .., by decide +kernel⟩
theorem witness_ScalarLoads_frame : (sAt 0x1038).runs (hAt 0x1038) .pacer ∧ (hAt 0x1038).pacer.stores = [] ∧
    (∀ p ∈ ([0x1037, 0x1040] : List Nat), p < 0x1038 ∨ 0x1038 + 8 ≤ p) ∧ l1Hit (sAt 0x1038) 0 (lineOf 0x1038) = none ∧
    (Instr.ldD 3 5 .plain 0, 8) ∈ ([(.ldD 3 5 .plain 0, 8)] : List (Instr × Nat)) := ⟨runs_stateOf .., by decide +kernel⟩
theorem witness_ScalarLoads_misaligned : (0x1001 : Word).toNat % 2 ≠ 0 ∧ (0x1002 : Word).toNat % 4 ≠ 0 ∧ (0x1004 : Word).toNat % 8 ≠ 0 ∧
    (0x1010 : Word).toNat % 32 ≠ 0 := by decide

theorem witness_ScalarStores : (sAt 0x1038).runs (hAt 0x1038) .pacer ∧ translate (sAt 0x1038) 0 0 0x1038 .store false = .ok (0x1038, false) ∧
    releaseWaits (sAt 0x1038) (hAt 0x1038) (.rel .system) = false ∧ translate (sAt 0x2038) 0 0 0x2038 .store false = .ok (0x2038, true) ∧
    0x2038 < 2 ^ 52 ∧ accOrdered (sAt 0x1038) 0 .scalar 0x1038 8 = false := ⟨runs_stateOf .., by decide +kernel⟩
/-- An accumulator whose `RSADD`, number 4, comes before the store that is about to be made over a part of it. -/
def sOrdered : State := { sAt 0x1028 with accs := [⟨0x1020, false, [], [4]⟩], accOrder := ⟨[(0, .scalar, 4)], [], 5⟩ }
theorem witness_ScalarStores_ordered : sOrdered.runs (hAt 0x1028) .pacer ∧ sOrdered.mgmt.recoveries = [] ∧
    translate sOrdered 0 0 0x1028 .store false = .ok (0x1028, false) ∧ Memory.wf sOrdered.mem = true ∧
    accOrdered (noteRelease (releaseFor (noteTlb sOrdered 0 0 0x1028) 0 0 .plain) 0 .plain 0x1028 8) 0 .scalar 0x1028 8 = true :=
  ⟨⟨rfl, rfl⟩, by decide +kernel⟩
/-- A store on an earlier one's bytes, then the load of its address. -/
def sStore : State := sAt 0x1008 [flight .scalar 0x100C 8]
theorem witness_ScalarStores_load : sStore.runs (hAt 0x1008 [flight .scalar 0x100C 8]) .pacer ∧ sStore.memoryOk ∧
    (∀ l ∈ sStore.l1, l.bytes.length = 64) ∧ (∀ l ∈ sStore.farCache, l.bytes.length = 64) ∧ 0x1008 % 8 = 0 ∧
    exec (.stD 7 5 .plain 0) sStore = .next (after (exec (.stD 7 5 .plain 0) sStore)) ∧
    (after (exec (.stD 7 5 .plain 0) sStore)).runs ((after (exec (.stD 7 5 .plain 0) sStore)).harts.headD (hAt 0)) .pacer ∧
    translate (after (exec (.stD 7 5 .plain 0) sStore)) 0 0 0x1008 .load false = .ok (0x1008, false) ∧ (9 : Reg) ≠ 0 := by
  refine ⟨runs_stateOf .., ?_, ?_, ?_, by decide, next_after (by decide +kernel), ⟨by decide +kernel, by decide +kernel⟩,
    by decide +kernel, by decide⟩
  · show Memory.wf sStore.mem = true; decide +kernel
  · exact fun l h => by cases h
  · exact fun l h => by cases h

/-- Atomics of 4 bytes in host memory and of 8 in far memory. -/
theorem witness_ScalarAtomics : (sAt 0x3038).runs (hAt 0x3038) .pacer ∧ (sAt 0x3038).memoryOk ∧
    translate (sAt 0x3038) 0 0 0x3038 .atomic false = .ok ((2 ^ 72 + 2 ^ 52) + 0x3038, false) ∧ regionOf ((2 ^ 72 + 2 ^ 52) + 0x3038) = .host ∧
    translate (sAt 0x2038) 0 0 0x2038 .atomic false = .ok (0x2038, true) ∧ regionOf 0x2038 ≠ .host ∧ (hAt 0x3038).pacer.stores = [] ∧
    (∀ l ∈ (sAt 0x3038).l1, l.core = 0 → l.dirty = []) := by
  refine ⟨runs_stateOf .., (by decide +kernel : Memory.wf (sAt 0x3038).mem = true), ?_⟩
  and_intros <;> decide +kernel

def acc0 : Accumulator := Accumulator.ofBytes (List.replicate 32 0)
theorem witness_ReproducibleAccumulators : (sAt 0x1020).runs (hAt 0x1020) .pacer ∧ (0x1020 : Word).toNat % 32 = 0 ∧ 0x1020 < 2 ^ 52 ∧
    translate (sAt 0x1020) 0 0 0x1020 .atomic false = .ok (0x1020, false) ∧
    ((Accumulator.ofBytes (List.replicate 32 0)).add (fDecode .f32 0x44332211)).fits = true ∧
    accTorn (sAt 0x1020) 0x1020 = false ∧
    ((sAt 0x1020).parts[(0 : Fin 8)].fptrap &&& acc0.result.2.setWidth 64) = 0 := ⟨runs_stateOf .., by decide +kernel⟩
/-- 3·2^−180 is 3·2^20 units of an accumulator whose B is 0; B at its limit 8. -/
theorem witness_ReproducibleAccumulators_exact : acc0.b ≤ 8 ∧ 0 < 3 ∧
    ((3 : Nat) : Rat) * 2 ^ (-180 : Int) = ((3 * 2 ^ 20 : Nat) : Rat) * 2 ^ (40 * ((acc0.b : Nat) : Int) - 200) ∧ 3 * 2 ^ 20 < 2 ^ 120 := by
  have h : acc0.b = 0 := by decide +kernel
  refine ⟨by omega, by omega, ?_, by norm_num⟩
  rw [h]; norm_num

def sWay : State := sAt 0 [flight .scalar 0x1008 8, flight .scalar 0x100A 4, flight .scalar 0x1018 4]
theorem witness_AccessesOnTheirWay : sWay.harts[0]? = some (hAt 0 [flight .scalar 0x1008 8, flight .scalar 0x100A 4, flight .scalar 0x1018 4]) ∧
    (∀ g ∈ ([flight .scalar 0x1008 8, flight .scalar 0x100A 4] : List StoreFlight), storesMeet g (flight .scalar 0x1018 4) = false) ∧
    (∃ g ∈ ([flight .scalar 0x1008 8] : List StoreFlight), storesMeet g (flight .scalar 0x100A 4) = true) ∧ Memory.wf sWay.mem = true ∧
    sWay.mgmt.recoveries = [] := by
  refine ⟨by decide +kernel, forall_of_all _ (by decide +kernel), ⟨_, List.mem_singleton.2 rfl, by decide +kernel⟩, by decide +kernel,
    by decide +kernel⟩

/-- A line of core 0 with two stored bytes, and a scalar store on its way to another word of it. -/
def lineDirty : L1Line := ⟨0, 0x40, List.replicate 64 7, [3, 4], []⟩
def sHeld : State := { sAt 0 [flight .scalar 0x1008 8] with l1 := [lineDirty] }
theorem witness_AccessesOnTheirWay_line : l1Hit sHeld 0 (lineOf 0x1008) = some lineDirty ∧ (3 ∈ lineDirty.dirty ∧ 3 < lineDirty.bytes.length) ∧
    0x40 * 64 + 3 < 0x1008 ∧ regionOf 0x1008 = .far ∧ (flight .scalar 0x1008 8).side = .scalar ∧ sHeld.mgmt.recoveries = [] ∧
    Memory.wf sHeld.mem = true := by decide +kernel

/-! Vector memory. -/

theorem active_below {h : Hart} {sel : MaskSel} {e : Nat} (ha : h.pacerActive sel e = true) : e < h.pacer.th.vl.toNat := by
  simp only [Hart.pacerActive, Bool.and_eq_true, decide_eq_true_eq] at ha
  exact ha.1.2

/-- A base in register 5, a stride or an index list in register 6; type, `vl`, `vstart`; every mask the same. -/
def hVec (a b : Nat) (ty : ElemType) (vl : Nat) (mask : Nat := 0x1B) (vs : Nat := 0) : Hart :=
  let h := hartWith [(5, BitVec.ofNat 64 a), (6, BitVec.ofNat 64 b)]
  { h with pacer := { h.pacer with th := { h.pacer.th with
    grant := ty, vl := BitVec.ofNat 64 vl, vstart := BitVec.ofNat 64 vs, masks := Vector.replicate 12 mask } } }
def memV : List Host.Cell := bytesAt 0x1000 40 1 ++ (List.range 5).map (fun k => (0x1100 + 4 * k, BitVec.ofNat 8 (5 - k))) ++ bytesAt 0x2000 64 3
def sVec (h : Hart) : State := stateOf h .pacer memV

theorem witness_VectorLoads_elements : (sVec (hVec 0x1000 8 .f32 5)).runs (hVec 0x1000 8 .f32 5) .pacer ∧
    (hVec 0x1000 8 .f32 5).pacer.th.vl.toNat ≤ capacity (hVec 0x1000 8 .f32 5).cls .f32 ∧
    slipCount (hVec 0x1000 8 .f32 5) 1 < (hVec 0x1000 8 .f32 5).pacer.slip.toNat ∧
    ∀ e, (hVec 0x1000 8 .f32 5).pacerActive (some 3) e = true → (0x1004 + BitVec.ofNat 64 (e * 4) : Word).toNat % 4 = 0 ∧
      translate (sVec (hVec 0x1000 8 .f32 5)) 0 0 (0x1004 + BitVec.ofNat 64 (e * 4)) .load false = .ok (0x1004 + 4 * e, false) := by
  refine ⟨runs_stateOf .., by decide +kernel, by decide +kernel, ?_⟩
  have : ∀ e, e < 5 → (0x1004 + BitVec.ofNat 64 (e * 4) : Word).toNat % 4 = 0 ∧
      translate (sVec (hVec 0x1000 8 .f32 5)) 0 0 (0x1004 + BitVec.ofNat 64 (e * 4)) .load false = .ok (0x1004 + 4 * e, false) := by
    decide +kernel
  exact fun e he => this e (active_below he)
/-- What a scalar store has made of a word at 0x2000 leaves each word of a list and of a header settled; what the word held may still be read. -/
def past : EarlierWord := ⟨0, 0x2000 / 8, [1, 2, 3, 4, 5, 6, 7, 8], false, false⟩
theorem witness_settled : (∀ a n, a + n ≤ 0x2000 → ({ sVec (hVec 0x1000 8 .f32 5) with earlier := [past] } : State).settled 0 a n) ∧
    ({ sVec (hVec 0x1000 8 .f32 5) with earlier := [past] } : State).mayIssue 0 .f32 (.bytes 0x2004 false) (.value 0x08070605) := by
  refine ⟨fun a n h w hw _ => ?_, .inr ⟨past, List.mem_singleton.2 rfl, rfl, rfl, fun _ => rfl, by decide +kernel⟩⟩
  cases List.mem_singleton.1 hw
  exact .inr h
/-- QN4 without a mask, from a multiple of 32: two codes a byte. -/
theorem witness_VectorLoads_codes : (0x2000 + (32 : BitVec 16).signExtend 64 : Word).toNat % 32 = 0 ∧
    (hVec 0x2000 8 .qn4 5).pacer.th.vl.toNat ≤ capacity (hVec 0x2000 8 .qn4 5).cls .qn4 ∧
    ∀ e, e < 5 → translate (sVec (hVec 0x2000 8 .qn4 5)) 0 0 (0x2020 + BitVec.ofNat 64 (e * width .qn4 / 8)) .load false =
      .ok (0x2020 + e / 2, true) := by decide +kernel
/-- The list 5, 4, 3, 2, 1 at 0x1100. -/
theorem witness_VectorLoads_indexed :
    ∀ e, e < 5 → (0x1100 + BitVec.ofNat 64 (4 * e) : Word).toNat % 4 = 0 ∧
      translate (sVec (hVec 0x1000 0x1100 .f32 5)) 0 0 (0x1100 + BitVec.ofNat 64 (4 * e)) .load false = .ok (0x1100 + 4 * e, false) ∧
      leNat (Memory.readAll (sVec (hVec 0x1000 0x1100 .f32 5)).mem (0x1100 + 4 * e) 4) = 5 - e ∧
      translate (noteAll (sVec (hVec 0x1000 0x1100 .f32 5)) (hVec 0x1000 0x1100 .f32 5)
        (((List.range 5).filter fun e => (hVec 0x1000 0x1100 .f32 5).pacerActive none e).map fun e => ⟨e, 0x1100 + BitVec.ofNat 64 (4 * e)⟩)) 0 0
        (0x1000 + BitVec.ofNat 64 ((5 - e) * 2 ^ 2)) .load false = .ok (0x1000 + 4 * (5 - e), false) := by decide +kernel
/-- From 0x5FF0 four elements lie in the read-only page 5, the fifth in page 6, which cannot be read; one at the end of `vl`. -/
theorem witness_VectorLoads_first_fault :
    (hVec 0x5FF0 8 .f32 7 0x7F).pacerActive (some 4) 4 = true ∧ (hVec 0x5FF0 8 .f32 7 0x7F).pacerActive (some 4) 0 = true ∧
    (∀ e, e < 4 → (0x5FF0 + BitVec.ofNat 64 (e * 4) : Word).toNat % 4 = 0 ∧
      translate (sVec (hVec 0x5FF0 8 .f32 7 0x7F)) 0 0 (0x5FF0 + BitVec.ofNat 64 (e * 4)) .load false = .ok (0x5FF0 + 4 * e, false)) ∧
    translate (sVec (hVec 0x5FF0 8 .f32 7 0x7F)) 0 0 0x6000 .load false = .error (.trap 0x07 0x6000) ∧ (4 : Nat) < 7 ∧
    (∀ e, e < 7 → translate (sVec (hVec 0x1000 8 .f32 7 0x7F)) 0 0 (0x1000 + BitVec.ofNat 64 (e * 4)) .load false =
      .ok (0x1000 + 4 * e, false)) := by decide +kernel

def inFlight (q : Fin 4) : LoadFlight := ⟨q, .f32, [.bytes 0x1000 false, .bytes 0x1004 false, .value 7, .poison, .bytes 0x1010 false]⟩
def inFlight4 (q : Fin 4) : LoadFlight := ⟨q, .qn4, [.nibble 0x1003 true false, .nibble 0x1004 false false]⟩
theorem witness_VectorLoads_delivery : ([inFlight 2, inFlight4 3, inFlight 0, inFlight4 0] : List LoadFlight) =
      [inFlight 2, inFlight4 3] ++ inFlight 0 :: [inFlight4 0] ∧ (inFlight 0).q = 0 ∧
    (∀ g ∈ [inFlight 2, inFlight4 3], g.q ≠ 0) ∧ (∀ e ∈ (inFlight 0).elems, ∀ loc c, e = .bytes loc c → c = false) ∧
    (∀ e ∈ (inFlight4 0).elems, ∀ loc hi c, e = .nibble loc hi c → c = false) := by
  refine ⟨rfl, rfl, by decide, ?_, ?_⟩
  · intro e he loc c h; subst h; simp [inFlight] at he; rcases he with ⟨-, h⟩ | ⟨-, h⟩ | ⟨-, h⟩ <;> exact h
  · intro e he loc hi c h; subst h; simp [inFlight4] at he; rcases he with ⟨-, -, h⟩ | ⟨-, -, h⟩ <;> exact h

/-- A load of another queue that reads none of a list's bytes; one behind such a load, and one behind a load of its own bytes. -/
def apart2 : LoadFlight := ⟨2, .f32, [.bytes 0x2000 false]⟩
theorem witness_VectorLoads_order : (∀ e, e < 5 → apart2.reads (0x1100 + 4 * e) 4 = false) ∧
    loadBehind { hA with pacer := { hA.pacer with loads := [apart2, inFlight 0] } } (inFlight 0) = false ∧
    loadBehind { hA with pacer := { hA.pacer with loads := [inFlight 2, inFlight 0] } } (inFlight 0) = true := by decide +kernel

def row (t : ElemType) (n : Nat) (p : List Nat := []) : Row :=
  ⟨t, (List.range n).map fun k => BitVec.ofNat 64 ((k * 0x1357 + 0x3F80) % 2 ^ width t), p⟩
def hRow (a b : Nat) (r : Row) (vl : Nat) (mask : Nat := 0x7F) (vs : Nat := 0) : Hart :=
  { hVec a b .f32 vl mask vs with sq := (hVec a b .f32 vl).sq.set 1 [r, row .i8 2] }
theorem witness_VectorStores : (hRow 0x2000 8 (row .f64 5 [1, 4]) 7 0x7F 2).sq[(1 : Fin 2)] = row .f64 5 [1, 4] :: [row .i8 2] ∧
    (hRow 0x2000 8 (row .f64 5 [1, 4]) 7 0x7F 2).pacer.loads = [] ∧ (7 : Nat) ≤ capacity 0 .f64 ∧
    (∀ e ∈ ([2, 3, 4, 5, 6] : List Nat), (0x2008 + BitVec.ofNat 64 (e * 8) : Word).toNat % 8 = 0 ∧
      translate (sVec (hRow 0x2000 8 (row .f64 5 [1, 4]) 7 0x7F 2)) 0 0 (0x2008 + BitVec.ofNat 64 (e * 8)) .store false =
        .ok (0x2008 + 8 * e, true)) ∧
    (row .qn4 5).ty = .qn4 ∧ (row .qn4 5).poison = [] ∧ (2 : Nat) < 7 ∧ (0x2000 : Word).toNat % 32 = 0 ∧
    (∀ b ∈ ((List.range 32).filter fun b => decide (1 ≤ b)), translate (sVec (hRow 0x2000 8 (row .qn4 5) 7 0x7F 2)) 0 0
      (0x2000 + BitVec.ofNat 64 b) .store false = .ok (0x2000 + b, true)) :=
  ⟨by decide +kernel, by decide +kernel, by decide +kernel, forall_of_all _ (by decide +kernel), by decide, by decide, by decide,
    by decide, forall_of_all _ (by decide +kernel)⟩

/-- A `VSPL` of five F32: two pieces of 64 bytes; a `VSTW` of a class 0 row: nine. -/
theorem witness_Images_store : (hRow 0x2000 0 (row .f32 5) 7).sq[(1 : Fin 2)] = row .f32 5 :: [row .i8 2] ∧ (0x2000 : Word).toNat % 64 = 0 ∧
    (∀ k, k < (64 + 512) / 64 → translate (sVec (hRow 0x2000 0 (row .f32 5) 7)) 0 0 (0x2000 + BitVec.ofNat 64 (64 * k)) .store false =
      .ok (0x2000 + 64 * k, true)) := by decide +kernel
/-- An image of five F32 at 0x1000, as a `VSPL` leaves it: tag 11, count 5; and a header that names nothing. -/
def sImage (header : Nat) : State := stateOf (hVec 0x1000 0 .f64 7) .pacer (cells 0x1000 ([header, 0, 0, 0, 0, 0, 0, 0] ++ [1, 2, 3]))
theorem witness_Images_fill : leNat (Memory.readAll (sImage (11 + 5 * 2 ^ 16)).mem 0x1000 64) = ElemType.code .f32 + 5 * 2 ^ 16 ∧
    (5 : Nat) ≤ capacity 0 .f32 ∧ translate (sImage (11 + 5 * 2 ^ 16)) 0 0 0x1000 .load false = .ok (0x1000, false) ∧
    (∀ e, e < 5 → translate (noteAll (sImage (11 + 5 * 2 ^ 16)) (hVec 0x1000 0 .f64 7) [⟨0, 0x1000⟩]) 0 0
      (0x1000 + 64 + BitVec.ofNat 64 (e * 32 / 8)) .load false = .ok (0x1040 + 4 * e, false)) := by decide +kernel
theorem witness_Images_refused : ∀ (ty : ElemType) (count layout : Nat), count < 2 ^ 16 → count ≤ capacity 0 ty →
    leNat (Memory.readAll (sImage (15 + 5 * 2 ^ 16)).mem 0x1000 64) ≠ ty.code + count * 2 ^ 16 + layout * 2 ^ 48 := by
  have h : leNat (Memory.readAll (sImage (15 + 5 * 2 ^ 16)).mem 0x1000 64) = 15 + 5 * 2 ^ 16 := by decide +kernel
  intro ty count _ _ _; rw [h]
  have : ty.code ≤ 14 := by cases ty <;> decide
  omega
/-- A header with the layout identifier that `VLDW` asks for, whatever the device's is. -/
theorem witness_Images_layout : (5 + 2 ^ 16 - 5) / 2 ^ 16 = 1 ∧ ∀ n, ∃ header : Nat,
    header = ElemType.code .f32 + 5 * 2 ^ 16 + (Config.laneLayout n).toNat * 2 ^ 48 ∧ header < 2 ^ 64 := by
  refine ⟨by decide, fun n => ⟨_, rfl, ?_⟩⟩
  have := (Config.laneLayout n).isLt
  have h : ElemType.code .f32 = 11 := by decide
  omega
/-- Wherever the layout puts an element of a class 0 image at 0x1000, its address is that of the body's byte. -/
theorem witness_Images_word : (∀ k, k < 9 → translate (sImage 0) 0 0 (0x1000 + BitVec.ofNat 64 (64 * k)) .load false = .ok (0x1000 + 64 * k, false)) ∧
    (∀ k, k < 512 → translate (noteAll (sImage 0) (hVec 0x1000 0 .f64 7) ((List.range 9).map fun k => ⟨k, 0x1000 + BitVec.ofNat 64 (64 * k)⟩)) 0 0
      (0x1000 + 64 + BitVec.ofNat 64 k) .load false = .ok (0x1040 + k, false)) ∧
    apart2.reads 0x1000 64 = false ∧ (sImage 0).poison = [] := by decide +kernel
theorem witness_Images_round_trip : (∀ w ∈ (row .qn4 50).elems, w.toNat < 2 ^ width .qn4) ∧ (row .qn4 50).elems.length * width .qn4 ≤ 8 * 64 :=
  ⟨forall_of_all _ (by decide +kernel), by decide +kernel⟩

def hAmo : Hart := hRow 0x1000 0x1100 (row .n32 5) 6 0x1B
theorem witness_VectorAtomics : (sVec hAmo).runs hAmo .pacer ∧ hAmo.sq[(1 : Fin 2)] = row .n32 5 :: [row .i8 2] ∧
    vamoTakes .minn .n32 = true ∧ vamoRefusedDet .add .n32 = false ∧ hAmo.pacer.vamoRet = none ∧ hAmo.pacer.loads = [] ∧
    slipCount hAmo 2 < hAmo.pacer.slip.toNat ∧ vamoHostOk .add .n32 = true ∧
    (∀ e ∈ ([0, 1, 3, 4] : List Nat), (0x1100 + BitVec.ofNat 64 (4 * e) : Word).toNat % 4 = 0 ∧
      translate (sVec hAmo) 0 0 (0x1100 + BitVec.ofNat 64 (4 * e)) .load false = .ok (0x1100 + 4 * e, false)) := by
  refine ⟨runs_stateOf .., ?_⟩
  and_intros <;> decide +kernel
theorem witness_VectorAtomics_items : ∀ e ∈ ([0, 1, 3, 4] : List Nat),
    leNat (Memory.readAll (sVec hAmo).mem (0x1100 + 4 * e) 4) = 5 - e ∧ (0x1000 + BitVec.ofNat 64 ((5 - e) * 2 ^ 2) : Word).toNat % 4 = 0 ∧
      translate (noteAll (sVec hAmo) hAmo (([0, 1, 3, 4] : List Nat).map fun e => ⟨e, 0x1100 + BitVec.ofNat 64 (4 * e)⟩)) 0 0
        (0x1000 + BitVec.ofNat 64 ((5 - e) * 2 ^ 2)) .atomic false = .ok (0x1000 + 4 * (5 - e), false) :=
  forall_of_all _ (by decide +kernel)
/-! The vector unit. -/

def vr (t : ElemType) (n : Nat) (p : List Nat := []) : VReg :=
  ⟨some t, false, (List.range n).map fun k => BitVec.ofNat 64 ((k * 0x9E3779B97F4A7C15 + 0x3F80) % 2 ^ width t), p⟩
def kreg (l : List Nat) : KReg := ⟨false, l.map (BitVec.ofNat 16)⟩
/-- Live registers of several types; register 2 of links has a cut, roots and links outside, 3 a cycle; rows in the load queues. -/
def hVal (vl : Nat) (vs : Nat := 0) (ctl : Word := 0) : Hart :=
  let h := hartWith [(3, 0x3F800000)]
  { h with
    lq := Vector.replicate 4 [⟨.i16, [7, 9], []⟩]
    anchor := { h.anchor with
      topoctl := ctl
      kregs := (h.anchor.kregs.set 2 (kreg [0xFFFF, 0, 0, 1, 1, 2, 5, 0x8003, 3, 99, 9])).set 3 (kreg [1, 2, 0])
      vregs := ((((((((h.anchor.vregs.set 4 (vr .i32 12)).set 5 (vr .f32 12)).set 6 (vr .idx16 12)).set 7 (vr .n8 9)).set 8
        (vr .f64 7)).set 9 (vr .n32 3)).set 10 (vr .qn4 64)).set 12 (vr .i32 5))
      th := { h.anchor.th with vl := BitVec.ofNat 64 vl, vstart := BitVec.ofNat 64 vs, masks := Vector.replicate 12 0x5B7 } } }
def sVal (h : Hart) : State := stateOf h .vector
def vsrc (t : ElemType) (n : Nat) : VSource := ⟨t, (vr t n).elems, []⟩

/-- Sources of one type and of two, in registers and in a queue; `vl` at the capacity of F64; the last element alone. -/
theorem witness_VectorElementwise : (sVal (hVal 64 63)).performs (hVal 64 63) ∧ (hVal 64 63).operand (.reg 4 false) = some (vsrc .i32 12) ∧
    (hVal 64 63).operand (.reg 12 true) = some (vsrc .i32 5) ∧ (hVal 64 63).operand (.reg 8 false) = some (vsrc .f64 7) ∧
    (hVal 64 63).operand (.lq 3) = some ⟨.i16, [7, 9], []⟩ ∧ (hVal 64 63).vlen = capacity 0 .f64 ∧ (hVal 64 63).vfirst < (hVal 64 63).vlen ∧
    ∀ o ∈ ([.add, .sub, .mul, .mulh, .min, .max, .and, .or, .xor, .shl, .shr, .srr, .adds, .subs] : List Op2), o.accepts .i32 = true :=
  ⟨performs_stateOf .., by decide +kernel⟩
theorem witness_VectorElementwise_room : (hVal 64 63).hasRoom (.reg 3) ∧ (hVal 64 63).hasRoom (.sq 1) ∧ Op2.accepts .div .f64 = true ∧
    Op2.accepts .div .i32 = false ∧ Op2.accepts .mulh .f64 = false ∧
    (∀ o ∈ ([.sqrt, .rcp, .rsq, .exp2, .log2, .abs, .neg] : List Op1), o.accepts .f64 = true) ∧ Op1.accepts .not .i32 = true ∧
    (∀ o ∈ ([.fma, .fms, .mac2] : List Op3), o.accepts .i32 = true) :=
  ⟨trivial, (by decide +kernel : (hVal 64 63).sq[(1 : Fin 2)].length < 8), by decide⟩
/-- `VSEL`, `VSPLAT`, `VPUSH` and `VCVT`: F32 `vl` at F64's capacity too; a destination that is a source, `vstart` 0. -/
theorem witness_VectorElementwise_others : (hVal 64).vfirst = 0 ∧ (hVal 64).sq[(1 : Fin 2)].length < 8 ∧
    (hVal 64).vlen ≤ capacity (hVal 64).cls (hVal 64).anchor.th.grant ∧ (hVal 64).vlen ≤ capacity (hVal 64).cls .f64 ∧
    (hVal 64).mayResume (.reg 4) [.reg 4 false] ∧ (hVal 64 63).mayResume (.reg 3) [.reg 4 false] :=
  ⟨by decide +kernel, by decide +kernel, by decide +kernel, by decide +kernel, .inl (by decide +kernel), .inr fun _ z h => by cases h; revert z; decide⟩

theorem witness_IntegerElementResults : isInt .i8 = true ∧ isInt .n64 = true ∧ isInt .idx16 = true := by decide

theorem witness_VectorComparesAndMasks : (sVal (hVal 9 8)).performs (hVal 9 8) ∧ (hVal 9 8).operand (.reg 5 false) = some (vsrc .f32 12) ∧
    (hVal 9 8).vfirst < (hVal 9 8).vlen ∧ (∀ c ∈ ([.eq, .ne, .lt, .le, .gt, .ge, .un, .od] : List Cond), c.accepts .f32 = true) ∧
    (hVal 9 8).operand (.reg 4 false) = some (vsrc .i32 12) ∧ (∀ c ∈ ([.eq, .ne, .lt, .le, .gt, .ge] : List Cond), c.accepts .i32 = true) ∧
    (hVal 9 8).vlen ≤ capacity 0 .f32 := ⟨performs_stateOf .., by decide +kernel⟩
def hGrant (t : ElemType) (vl : Nat) (h : Hart := hVal vl) : Hart := { h with anchor := { h.anchor with th := { h.anchor.th with grant := t } } }
theorem witness_VectorComparesAndMasks_count : (sVal (hGrant .n8 64)).performs (hGrant .n8 64) ∧ (hGrant .n8 64).vfirst = 0 ∧
    isInt (hGrant .n8 64).anchor.th.grant = true ∧ (hGrant .n8 64).vlen ≤ capacity 0 .n8 ∧ (hGrant .n8 64).vfirst < (hGrant .n8 64).vlen :=
  ⟨performs_stateOf .., by decide +kernel⟩

theorem witness_ElementMoves : (sVal (hVal 12)).performs (hVal 12) ∧ (hVal 12).operand (.reg 4 false) = some (vsrc .i32 12) ∧
    (hVal 12).operand (.reg 6 false) = some (vsrc .idx16 12) ∧ isInt .idx16 = true ∧ (hVal 12).operand (.reg 12 false) = some (vsrc .i32 5) ∧
    (hVal 12).vlen ≤ capacity 0 .idx16 ∧ (hVal 12).vfirst = 0 ∧ (hVal 12).vfirst < (hVal 12).vlen ∧
    fillValue (.identity 0) .i32 0 = some ((fillValue (.identity 0) .i32 0).getD 1) ∧ fillValue (.scalar 3) .i32 7 = some 7 :=
  ⟨performs_stateOf .., by decide +kernel⟩
theorem witness_ElementMoves_resume : (hVal 12 11).mayResume (.reg 3) [.reg 4 false, .reg 6 false, .reg 12 true] ∧ (hVal 12).hasRoom (.reg 3) ∧
    (hVal 12).mayResume (.reg 4) [.reg 4 false] := ⟨.inr fun _ z h => by cases h; revert z; decide, trivial, .inl (by decide +kernel)⟩

/-- 65 elements: a group of 64 and one of a single element; an empty mask for `VARGMAX`. -/
theorem witness_ReductionsAndScans : (sVal (hVal 65)).performs (hVal 65) ∧ (hVal 65).operand (.reg 5 false) = some (vsrc .f32 12) ∧
    (hVal 65).vlen ≤ capacity 0 .f32 ∧ 0 < (hVal 65).vlen ∧ (hVal 65).vfirst = 0 ∧ isFlt .f32 = true ∧
    (hVal 65).operand (.reg 4 false) = some (vsrc .i32 12) ∧ isInt .i32 = true ∧
    (∀ x ∈ ([.sum, .max, .min] : List CanonOp), (hVal 64).vlen ≤ capacity 0 (accType x .f32)) := ⟨performs_stateOf .., by decide +kernel⟩

theorem witness_NarrowButterflyRandomText : (sVal (hVal 64)).performs (hVal 64) ∧ (hVal 64).hasRoom (.reg 3) ∧
    (hVal 64).vfirst < (hVal 64).vlen ∧ (hVal 64).anchor.th.grant ≠ .qn4 ∧ (hVal 64).operand (.reg 5 false) = some (vsrc .f32 12) ∧
    (hVal 64).operand (.reg 10 false) = some (vsrc .qn4 64) ∧ (hVal 64).operand (.reg 7 false) = some (vsrc .n8 9) ∧
    VSource.ofReg (hVal 64).anchor.vregs[9] = some (vsrc .n32 3) ∧ (hVal 64).mayResume (.reg 3) [.reg 10 false, .reg 7 false] ∧
    (hVal 64).vlen ≤ capacity 0 .qn4 ∧ (hVal 64).vlen ≤ capacity 0 .n8 ∧ (hVal 64).vlen ≤ capacity 0 .n32 ∧
    VDst.reg 12 ≠ .reg 14 ∧ (hVal 64).vlen ≤ capacity 0 .bf16 ∧ (hVal 64).vfirst = 0 ∧ (posScale ((hVal 64).reg .anchor 3)).isSome = true := by
  refine ⟨performs_stateOf .., trivial, ?_⟩
  and_intros <;> first | decide +kernel | exact .inl (by decide +kernel)

/-- A forest without a cycle, with the trap on; one with a cycle, off. -/
theorem witness_ForestInstructions : (sVal (hVal 11 0 1)).performs (hVal 11 0 1) ∧ (hVal 11 0 1).vlen ≤ topoCapacity 0 ∧ 0 < (hVal 11 0 1).vlen ∧
    (hVal 11 0 1).vfirst = 0 ∧ (hVal 11 0 1).anchor.topoctl.getLsbD 0 = true ∧
    (∀ e, e < 11 → isCyclic (lastChain 11 (hVal 11 0 1).anchor.kregs[2]) e = false) ∧ (hVal 3).anchor.topoctl.getLsbD 0 = false ∧
    isCyclic (lastChain 3 (hVal 3).anchor.kregs[3]) 1 = true ∧ (hVal 11).operand (.reg 6 false) = some (vsrc .idx16 12) ∧
    (hVal 11).operand (.reg 5 false) = some (vsrc .f32 12) ∧ (∀ x ∈ ([.sum, .max, .min] : List CanonOp), 11 ≤ capacity 0 (accType x .f32)) ∧
    11 ≤ capacity 0 .idx16 := ⟨performs_stateOf .., by decide +kernel⟩

theorem witness_ValueRegisterTags : (sVal (hVal 11)).performs (hVal 11) ∧ (hVal 11).anchor.vregs[3].ty = none ∧
    (hVal 11).anchor.vregs[4].ty = some .i32 ∧ (ElemType.i32 ≠ .f64) ∧ ([none, some 3] : Written).getD 1 none = some (3 : Word) ∧
    ([none, some 3] : Written).getD 0 none = none ∧ (writeReg (vr .i32 12) .f32 [none, some 3]).ty = some .f32 ∧
    (vr .i32 12).ty ≠ some .f32 := ⟨performs_stateOf .., by decide +kernel⟩

/-- Appending: an addition and a matrix instruction, behind 63 entries. -/
def hAppend : Hart := { hVal 11 with anchor := { (hVal 11).anchor with viq := List.replicate 63 { (default : VEntry) with instr := .mset false 3 true } } }
theorem witness_VectorQueue_append : (stateOf hAppend .anchor).fronts hAppend ∧ hAppend.anchor.loop = none ∧ hAppend.anchor.openLen = none ∧ hAppend.anchor.overlong = none ∧
    hAppend.anchor.th.vrel = false ∧ hAppend.anchor.viq.length < 64 ∧ ((useOf (.mset false 3 true)).all fun u => !u.setsVl) = true ∧
    (∀ i ∈ [addV, .mzero 3], (useOf i).any (fun u => u.out.isNone && !u.pred.joined && u.vfCount == 0) = true) := by
  refine ⟨⟨rfl, rfl⟩, ?_⟩
  and_intros <;> decide +kernel

def entry (i : Instr) (j : Bool) : VEntry :=
  { (default : VEntry) with instr := i, addr := 0x1000, vl := 11, joins := j, file := (hVal 11).anchor.th.regs, frm := 0 }
def convoy : List VEntry := [entry (.vbflyF false (.reg 5 false) 2) false,
  entry (.vadd ⟨true, some 1, true⟩ (.reg 15) (.reg 5 false) .vf) true]
def behind : VEntry := entry (.vadd ⟨false, none, true⟩ (.reg 4) (.reg 4 false) (.reg 4 false)) false
def hConvoy : Hart := { hVal 11 with anchor := { (hVal 11).anchor with viq := convoy ++ [behind] } }
def runOf (p : ConvoyResult) (d : ConvoyRun) : ConvoyRun := match p with
  | .whole r => r
  | _ => d
def isWhole (p : ConvoyResult) : Bool := match p with
  | .whole _ => true
  | _ => false
def startRun : ConvoyRun := ⟨hConvoy, none, [], false, none, [], 0⟩
def ranConvoy : ConvoyRun := runOf (convoyRun startRun convoy none) startRun
theorem convoy_whole : convoyRun startRun convoy none = .whole ranConvoy := by
  have h : isWhole (convoyRun startRun convoy none) = true := by decide +kernel
  unfold ranConvoy
  revert h; cases convoyRun startRun convoy none <;> simp [isWhole, runOf]
theorem witness_VectorQueue_commit : (sVal hConvoy).harts[0]? = some hConvoy ∧ hConvoy.mode = .running ∧ hConvoy.stopHard = false ∧
    hConvoy.anchor.viq = convoy ++ [behind] ∧ (∀ e ∈ convoy.tail, e.joins = true) ∧ behind.joins = false ∧ hConvoy.anchor.openLen = none ∧
    hConvoy.anchor.mqueue = [] ∧ hConvoy.anchor.deferredErr = none ∧
    (∀ e ∈ convoy, (useOf e.instr).any (fun u => u.vform && u.lqs.isEmpty && u.sqs.isEmpty) = true) ∧
    convoyRun ⟨hConvoy, none, [], false, none, [], 0⟩ convoy none = .whole ranConvoy ∧ ranConvoy.cycle = none ∧
    (ranConvoy.raised.all fun x => (sVal hConvoy).parts[hConvoy.part].fptrap &&& x.2.setWidth 64 == 0) = true ∧
    (convoy.all fun e => (sVal hConvoy).parts[hConvoy.part].fptrap &&& e.raised.setWidth 64 == 0) = true ∧
    ranConvoy.h.anchor.deferredErr = none :=
  ⟨rfl, by decide +kernel, by decide +kernel, rfl, forall_of_all _ (by decide +kernel), by decide +kernel, by decide +kernel, by decide +kernel,
    by decide +kernel, forall_of_all _ (by decide +kernel), convoy_whole, by decide +kernel, by decide +kernel, by decide +kernel, by decide +kernel⟩
/-- Its two members one after another: the first forwards, the second takes it. -/
def resultOf (e : VEntry) (vf : Option VSource) (free : Nat) (h : Hart) : VRes :=
  ((effectOf e.instr).getD fun _ _ => .illegal) (e.ctx hConvoy.anchor.th.vstart.toNat none vf free) h
def hartOfRes (r : VRes) : Hart := match r with
  | .done h _ _ _ _ _ => h
  | _ => hConvoy
def vfOfRes (r : VRes) : Option VSource := match r with
  | .done _ vf _ _ _ _ => vf
  | _ => none
def goesThrough (r : VRes) : Bool := match r with
  | .done _ _ _ _ _ false => true
  | _ => false
def first : VRes := resultOf (convoy.headD behind) none (sVal hConvoy).free hConvoy
theorem witness_VectorQueue_members : (∀ e ∈ convoy, (effectOf e.instr).isSome = true) ∧ goesThrough first = true ∧
    (hartOfRes first).anchor.th.vstart = hConvoy.anchor.th.vstart ∧
    goesThrough (resultOf (convoy.getLastD behind) (vfOfRes first) ((sVal hConvoy).free + 65536) (hartOfRes first)) = true :=
  ⟨forall_of_all _ (by decide +kernel), by decide +kernel⟩
/-! The matrix engine and the other engines. -/

def nearBase : Nat := 0xF000000000000
def withRegs (h : Hart) (l : List (Nat × Nat)) : Hart :=
  let f := file fun r => BitVec.ofNat 64 (((l.find? fun x => x.1 == r).map (·.2)).getD 0)
  { h with pacer := { h.pacer with th := { h.pacer.th with regs := f } }, anchor := { h.anchor with th := { h.anchor.th with regs := f } } }
/-- A class 0 hart with `rl` 2, and a claim or none; A and B at the two ends of its slice. -/
def hMat (claim : Bool) (x y z : Nat) (mq : List MEntry := []) : Hart :=
  let h := withRegs (hVal 12) [(1, x), (2, y), (3, z)]
  { h with anchor := { h.anchor with
    claim := claim, shape := ⟨3, 2, 64⟩, mqueue := mq
    tiles := (h.anchor.tiles.set 2 ⟨.i32, (List.range 4096).map fun k => BitVec.ofNat 32 (k * 0x1234567), false⟩).set 4
      ⟨.f32, (List.range 4096).map fun k => BitVec.ofNat 32 (0x3F800000 + k), false⟩
    th := { h.anchor.th with rl := 2 } } }

/-- No claim and nobody waiting; a claim, the last aligned address of the slice that takes a tile, operands at its start. -/
theorem witness_MatrixCommit : (sVal (hMat false 0 0 0)).performs (hMat false 0 0 0) ∧ (hMat false 0 0 0).anchor.claim = false ∧
    (hMat false 0 0 0).anchor.deferredErr = none ∧ (hMat false 0 0 0).anchor.mqueue.length < 32 ∧ (sVal (hMat false 0 0 0)).claimWait = [] ∧
    ((sVal (hMat false 0 0 0)).contexts.filter fun c => c.1 == 0).length < 2 ∧ (∀ c ∈ (sVal (hMat false 0 0 0)).contexts, c.2 ≠ 0) ∧
    (hMat true (nearBase + 2 ^ 24 - 16384) nearBase 64).anchor.claim = true ∧ (nearBase + 2 ^ 24 - 16384) % 64 = 0 ∧
    nearBase + 2 ^ 24 - 16384 + 16384 ≤ nearBase + (0 + 1) * 2 ^ 24 ∧ 64 * (hMat true 0 0 0).anchor.th.rl.toNat ≤ capacity 0 .f32 ∧
    nearBase % 256 = 0 ∧ nearBase + (hMat true 0 0 0).anchor.shape.k / 64 * 768 ≤ nearBase + 2 ^ 24 ∧
    (hMat true 0 0 0).anchor.vregs[4].ty = some .i32 ∧ (hMat false 0 0 0).anchor.mqueue = [] ∧
    nearBase + mmaArea (sVal (hMat true nearBase nearBase 0)) (hMat true nearBase nearBase 0).anchor 1 (2 ^ 52) ≤ nearBase + 2 ^ 24 := ⟨performs_stateOf .., by decide +kernel⟩
/-- Staging blocks of QN4, 4096 elements of class 5, with their scales in the next register. -/
def hScaled : Hart :=
  let h := hMat true nearBase 0 0
  { h with cls := 5, anchor := { h.anchor with
    vregs := (h.anchor.vregs.set 10 (vr .qn4 64)).set 11 (vr .n8 64), th := { h.anchor.th with vl := 4096 } } }
theorem witness_MatrixCommit_blocks : hScaled.anchor.claim = true ∧ hScaled.anchor.vregs[10].ty = some .qn4 ∧
    hScaled.anchor.vregs[11].ty = some .n8 ∧ (hScaled.anchor.th.vl.toNat + 63) / 64 % 64 = 0 ∧ 12 ≤ (12 : Fin 32).val ∧ (10 : Reg) ≠ 31 ∧
    nearBase + ((hScaled.anchor.th.vl.toNat + 63) / 64 + 63) / 64 * (512 * 12 + 256) ≤ nearBase + 2 ^ 24 := by decide +kernel
def hWaits : Hart := { hMat false 0 0 0 with anchor := { (hMat false 0 0 0).anchor with viq := [entry .mclaim false, behind] } }
def sWaits : State := { sVal hWaits with claimWait := [(1, 4), (0, 0)], contexts := [(0, 7)] }
theorem witness_MatrixCommit_waiting : sWaits.harts[0]? = some hWaits ∧ hWaits.mode = .running ∧ hWaits.stopHard = false ∧
    hWaits.anchor.viq = entry .mclaim false :: [behind] ∧ behind.joins = false ∧ hWaits.anchor.openLen = none ∧ hWaits.anchor.claim = false ∧
    hWaits.anchor.deferredErr = none ∧ (sWaits.claimWait.find? fun c => c.1 == hWaits.core) = some (hWaits.core, 0) ∧
    (sWaits.contexts.filter fun c => c.1 == hWaits.core).length < 2 ∧ (∀ c ∈ sWaits.contexts, c.2 ≠ 0) ∧ hWaits.anchor.mqueue = [] := by
  and_intros <;> first | decide +kernel | rfl

def mEntry (op : MOp) (x y : Nat) : MEntry := ⟨op, 0x1000, 12, 2, BitVec.ofNat 64 x, BitVec.ofNat 64 y, 9, ⟨3, 2, 64⟩⟩
def staged (int : Bool) (loc : Nat) : StagedGroup :=
  ⟨loc, 768, int, (List.range 64).map fun k => ⟨(List.range 64).map fun j => (k * j : Int) - 70, 3, 0x3F800000, false⟩, false, false⟩
def hQueue (op : MOp) (x y : Nat) : Hart := hMat true 0 0 0 [mEntry op x y, mEntry .rel 0 0]
def sQueue (op : MOp) (x y : Nat) : State :=
  { sVal (hQueue op x y) with
    mem := cells (2 ^ 52 + 0x4000) [3, 4], contexts := [(0, 0)]
    staged := [staged true (2 ^ 52 + 0x100), staged false (2 ^ 52 + 0x400), staged true (2 ^ 52 + 0x800)] }
/-- Integer operands onto an I32 tile, float ones onto an F32 tile; tile rows from the first and the last row on. -/
theorem witness_MatrixQueue : (sQueue (.mma 2) (nearBase + 0x100) (nearBase + 0x800)).harts[0]? =
      some (hQueue (.mma 2) (nearBase + 0x100) (nearBase + 0x800)) ∧
    (hQueue (.mma 2) 0 0).mode = .running ∧ (sQueue (.mma 2) 0 0).mgmt.recoveries = [] ∧ (sQueue (.mma 2) 0 0).poison = [] ∧
    Memory.wf (sQueue (.mma 2) 0 0).mem = true ∧ (hQueue (.mma 2) 0 0).anchor.mqueue = mEntry (.mma 2) 0 0 :: [mEntry .rel 0 0] ∧
    (groupsAt (sQueue (.mma 2) 0 0).staged ((mEntry (.mma 2) 0 0).shape.k / 64) (2 ^ 52 + 0x100)).length = 1 ∧
    (groupsAt (sQueue (.mma 2) 0 0).staged ((mEntry (.mma 2) 0 0).shape.k / 64) (2 ^ 52 + 0x800)).length = 1 ∧
    (groupsAt (sQueue (.mma 4) 0 0).staged ((mEntry (.mma 4) 0 0).shape.k / 64) (2 ^ 52 + 0x400)).length = 1 ∧
    ((sQueue (.mma 2) 0 0).staged.all fun g => !g.corrupt) = true ∧
    operandInt (sQueue (.mma 2) 0 0).staged 1 (2 ^ 52 + 0x100) = true ∧ operandInt (sQueue (.mma 4) 0 0).staged 1 (2 ^ 52 + 0x400) = false := by
  refine ⟨rfl, by decide +kernel⟩
theorem witness_MatrixQueue_tiles : (hQueue (.mma 2) 0 0).anchor.tiles[2].elems.length = 4096 ∧ (hQueue (.mma 2) 0 0).anchor.tiles[2].tag = .i32 ∧
    (hQueue (.mma 2) 0 0).anchor.tiles[4].elems.length = 4096 ∧ (hQueue (.mma 2) 0 0).anchor.tiles[4].tag = .f32 ∧
    (hQueue (.toV 10 2) 63 0).anchor.tiles[2].poison = false ∧ (hQueue (.toV 10 2) 63 0).pacer.th.vrel = false ∧
    (hQueue (.stage true 4 5) 0 0).anchor.vregs[4].poison = [] ∧ (hQueue (.store 1) 0 0).anchor.tiles[1].elems = [] ∧
    (hQueue (.store 1) 0 0).anchor.tiles[1].poison = false ∧
    (groupsAt (sQueue (.mma 1) 0 0).staged ((mEntry (.mma 1) 0 0).shape.k / 64) (2 ^ 52 + 0x200)).length ≠ 1 := by decide +kernel

def cmd (op : EngineOp) (t : Option (Fin 64)) (started : Bool := false) : EngineCmd := ⟨op, 0, t, started, 0, [], [], false, none, false, [], false, none, []⟩
/-- Registers of a Pacer; commands in queue 0; set tags. -/
def hEng (l : List (Nat × Nat)) (q0 : List EngineCmd := []) (tags : Word := 0) : Hart :=
  let h := withRegs (hartOf fun _ => 0) l
  { h with pacer := { h.pacer with engines := h.pacer.engines.set 0 q0, tagmap := tags, tagerr := tags, wrote := [⟨0, 3, [(0x1000, 8)]⟩] } }
def sumBits (l : List (Nat × Nat)) : Nat := l.foldl (fun a x => a + x.1 * 2 ^ x.2) 0
def pfBlock (op ty cond limit src count dst : Nat) : Nat :=
  sumBits [(op, 0), (ty, 8), (cond, 16), (limit, 32), (src, 64), (count, 128), (dst, 256)]
def seamBlock (op ty nbuf count base dst flag : Nat) : Nat :=
  sumBits [(op, 0), (ty, 8), (nbuf, 16), (count, 32), (base, 64), (dst, 128), (flag, 192), (77, 256), (1, 272), (2, 288)]
/-- A block at 0x1000, data at 0x2000, and page 7, local to memory stack 3. -/
def page7 : Nat := (7 * 24 + 3) * 4096
def sEng (h : Hart) (block : Nat) : State :=
  let s := stateOf h .pacer (cells 0x1000 ((List.range 8).map fun k => block / 2 ^ (64 * k) % 2 ^ 64) ++
    cells 0x2000 ((List.range 20).map fun k => (k + 1) * 0x1234567987654321 % 2 ^ 64) ++ cells page7 [0x3F8000013F800000, 5])
  { s with tlb := ⟨0, 0, 7, ⟨12, true, true, true, false, true, 0, 7 * 4096, 3, 0⟩⟩ :: s.tlb }

/-- A free tag and one that is outstanding or set; a queue one short of full, and full; operands within their limits and out. -/
theorem witness_EngineCommandsAndTags_issue :
    (sEng (hEng [(1, 0x1000)] (List.replicate 15 (cmd (.fcwb 0 0) none))) 0).runs (hEng [(1, 0x1000)] (List.replicate 15 (cmd (.fcwb 0 0) none))) .pacer ∧
    (∀ q : Fin 4, ∀ c ∈ (hEng [] (List.replicate 15 (cmd (.fcwb 0 0) none))).pacer.engines[q], c.tag ≠ some 3) ∧
    (hEng [] [] 8).pacer.tagmap.getLsbD 3 = true ∧ (hEng [] [] 8).pacer.tagmap.getLsbD 4 = false ∧ (cmd (.fcwb 0 0) (some 3)).tag = some 3 ∧
    16 ≤ (hEng [] (List.replicate 16 (cmd (.fcwb 0 0) none))).pacer.engines[(0 : Fin 4)].length ∧ 2 ^ 40 - 1 < 2 ^ 40 ∧
    2 ^ 52 - 1 + 1 ≤ 2 ^ 52 ∧ (0 : Word).toInt.natAbs < 2 ^ 40 ∧ swizzleOk 0xF000000000000 256 4 256 = true ∧ swizzleOk 0x2000 256 4 256 = false ∧
    (1 : Nat) ≤ 5 ∧ 0x2004 % 4 = 0 ∧ 256 ≤ 2 ^ 24 :=
  ⟨⟨rfl, rfl⟩, by decide +kernel⟩
theorem witness_EngineCommandsAndTags_blocks :
    translate (sEng (hEng [(1, 0x1000)]) (pfBlock 0 11 0 4 0x2000 10 nearBase)) 0 0 0x1000 .load false = .ok (0x1000, false) ∧
    pfBlockOk (noteTlb (sEng (hEng [(1, 0x1000)]) 0) 0 0 0x1000) 0 false (pfBlock 0 11 0 4 0x2000 10 nearBase) = true ∧
    pfBlockOk (noteTlb (sEng (hEng [(1, 0x1000)]) 0) 0 0 0x1000) 0 true (pfBlock 2 5 5 65536 0x2000 40 nearBase) = true ∧
    pfBlockOk (noteTlb (sEng (hEng [(1, 0x1000)]) 0) 0 0 0x1000) 0 true (pfBlock 0 11 0 4 0x2000 10 nearBase) = false ∧
    seamBlockOk (seamBlock 0 11 3 5 0x7000 0x7400 (nearBase + 8)) = true ∧ seamBlockOk 15 = false ∧ (hEng []).pacer.stores = [] ∧
    (sEng (hEng []) 0).poison = [] ∧ l1Hit (sEng (hEng []) 0) 0 (lineOf 0x1000) = none := by decide +kernel
/-- Accesses that can all be performed, and a store that waits at a bank under recovery. -/
def hStuck : Hart := { hEng [] with pacer := { (hEng []).pacer with stores := [flight .scalar (2 ^ 52 + 8) 8] } }
theorem witness_EngineCommandsAndTags_settle : allSettle (sEng (hEng []) 0) (hEng []) = true ∧ (sEng (hEng []) 0).mgmt.recoveries = [] ∧
    allSettle { sEng hStuck 0 with mgmt := { State.reset.mgmt with recoveries := [⟨.nearBank 0 1, 0, 1, 0, 0⟩] } } hStuck = false := by
  decide +kernel
/-- Mask 0x88: both tags set; tag 7 set, tag 3 still coming; tag 3 never to come; none set. -/
theorem witness_EngineCommandsAndTags_tags : (∀ t : Fin 64, (0x88 : Word).getLsbD t.val = true → (hEng [] [] 0x88).pacer.tagmap.getLsbD t.val = true) ∧
    (0x88 : Word).getLsbD 3 = true ∧ (hEng [] [] 0x80).pacer.tagmap.getLsbD 3 = false ∧ (hEng [] [] 0x80).pacer.tagmap.getLsbD 7 = true ∧
    (∀ t : Fin 64, (0x88 : Word).getLsbD t.val = true → (hEng [] [cmd (.fcwb 0 0) (some 3)] 0x80).pacer.tagmap.getLsbD t.val = false →
      ∃ c ∈ (hEng [] [cmd (.fcwb 0 0) (some 3)] 0x80).pacer.engines[(0 : Fin 4)], c.tag = some t) ∧
    (∀ u : Fin 64, u < 7 → ((0x88 : Word).getLsbD u.val && (hEng [] [] 0x80).pacer.tagmap.getLsbD u.val) = false) ∧
    (∀ t : Fin 64, ((0x88 : Word).getLsbD t.val && (hEng []).pacer.tagmap.getLsbD t.val) = false) ∧
    (∀ q : Fin 4, ∀ c ∈ (hEng []).pacer.engines[q], c.tag ≠ some 3) ∧
    (∃ c ∈ (hEng [] [cmd (.fcwb 0 0) (some 3)]).pacer.engines[(0 : Fin 4)], c.tag = some 3) ∧
    (∀ q : Fin 4, (15 : Fin 16).val.testBit q.val = true → (hEng []).pacer.engines[q] = []) ∧
    (1 : Fin 16).val.testBit 0 = true ∧ (hEng [] [cmd (.fcwb 0 0) (some 3)]).pacer.engines[(0 : Fin 4)] ≠ [] := by
  and_intros <;> decide +kernel

def hRun (q : Fin 4) (c : EngineCmd) : Hart :=
  let h := hEng []
  { h with pacer := { h.pacer with engines := h.pacer.engines.set q [c, cmd (.fcwb 1 2) none] } }
/-- A `CPY` not started; one that ends where its page ends; both cache operations, over one of two lines. -/
def sLines (q : Fin 4) (c : EngineCmd) : State :=
  { sEng (hRun q c) 0 with l1 := [⟨0, 0x80, List.replicate 64 7, [3, 4], []⟩, ⟨1, 0x80, List.replicate 64 9, [5], []⟩] }
def copyC (b : Bool) : EngineCmd := cmd (.copy 0x1FEB 0x1003 21) (some 3) b
theorem witness_EnginesRun : (sEng (hRun 0 (copyC false)) 0).harts[0]? = some (hRun 0 (copyC false)) ∧ (hRun 0 (copyC false)).mode = .running ∧
    (sEng (hRun 0 (copyC true)) 0).mgmt.recoveries = [] ∧
    (hRun 0 (copyC true)).pacer.engines[(0 : Fin 4)] = copyC true :: [cmd (.fcwb 1 2) none] ∧ (hRun 0 (copyC true)).pacer.stores = [] ∧
    (hRun 0 (copyC true)).pacer.loads = [] ∧ (sEng (hRun 0 (copyC false)) 0).l1 = [] ∧ 0x1003 % 4096 + 21 ≤ 4096 ∧ 0x1FEB % 4096 + 21 = 4096 ∧
    translate (sEng (hRun 0 (copyC true)) 0) 0 0 0x1003 .engineRead true = .ok (0x1003, false) ∧
    translate (sEng (hRun 0 (copyC true)) 0) 0 0 0x1FEB .engineWrite true = .ok (0x1FEB, false) ∧ 0x1003 + 21 ≤ 0x1FEB ∧ (copyC true).wrote = [] ∧ (copyC false).kept = [] ∧ (copyC true).kept = [] ∧
     (copyC true).declined = false ∧ (copyC true).failed = false ∧
    (copyC true).core = 0 ∧ (sEng (hRun 0 (copyC true)) 0).poison = [] ∧
    Memory.wf (sEng (hRun 0 (copyC true)) 0).mem = true := ⟨rfl, by decide +kernel⟩
theorem witness_EnginesRun_caches : (sLines 3 (cmd (.fcinv 0x2000 64) none true)).l1.Pairwise (fun a b => ¬ (a.core = b.core ∧ a.line = b.line)) ∧
    (∃ r ∈ cacheSpans (sLines 3 (cmd (.fcinv 0x2000 64) none true)) (hRun 3 (cmd (.fcinv 0x2000 64) none true)) 0x2000 64,
      0x80 * 64 < r.1 + r.2 ∧ r.1 < 0x80 * 64 + 64) := by
  refine ⟨by decide +kernel, ⟨(0x2000, 64), by decide +kernel, by decide⟩⟩

/-- A `CPY2` of two rows of 256 bytes with the swizzle, one batch planned; a `CPYX` of three such rows into near memory, its list in near memory:
a table row, an index at N, one that carries poison. -/
def rowsC : EngineCmd := cmd (.copy2 0xF000000000000 0x1000 2 256 0x1000 0x100 true) (some 3) true
def rowJob (j : Nat) : RowJob := ⟨[⟨0x1000 + 0x1000 * j, 256, false⟩], [⟨2 ^ 52 + 256 * j, 256, false⟩], j, none⟩
def sRows (c : EngineCmd) : State :=
  { sEng (hRun 0 c) 0 with tlb := [⟨0, 0, 1, leaf 1 false⟩, ⟨0, 0, 2, leaf 2 false⟩], mem := cells (2 ^ 52 + 0x4000) [1 + 3 * 2 ^ 32], poison := [2 ^ 52 + 0x4009] }
theorem witness_EnginesRun_rows : rowsC.failed = false ∧ rowsC.declined = false ∧ rowsC.wrote = [] ∧ rowsC.kept = [] ∧ 256 % 256 = 0 ∧
    Memory.wf (sRows rowsC).mem = true ∧ rowsC.plan = none ∧
    ({ rowsC with plan := some ((List.range 2).map rowJob, false) } : EngineCmd).plan = some ((List.range 2).map rowJob, false) ∧
    (∀ j, j < 2 → (rowVa 0x1000 0x1000 j).toNat % 4096 + 256 ≤ 4096 ∧ (rowVa 0xF000000000000 0x100 j).toNat % 4096 + 256 ≤ 4096 ∧
      translate (sRows rowsC) 0 0 (rowVa 0x1000 0x1000 j) .engineRead true = .ok (0x1000 + 0x1000 * j, false) ∧
      translate (sRows rowsC) 0 0 (rowVa 0xF000000000000 0x100 j) .engineWrite true = .ok (2 ^ 52 + 256 * j, false)) := by decide +kernel
def gatherC : EngineCmd := cmd (.copyX 0xF000000000000 0x100 0 0x1000 256 (0xF000000000000 + 0x4000) 3 3 true) (some 3) true
theorem witness_EnginesRun_gather : gatherC.batch = 0 ∧ gatherC.landed = [] ∧ gatherC.sources = [] ∧ gatherC.plan = none ∧ gatherC.kept = [] ∧
    leNat (Memory.readAll (sRows gatherC).mem (2 ^ 52 + 0x4000) 4) = 1 ∧ leNat (Memory.readAll (sRows gatherC).mem (2 ^ 52 + 0x4004) 4) = 3 ∧
    ((sRows gatherC).poison.any fun p => decide (2 ^ 52 + 0x4008 ≤ p) && decide (p < 2 ^ 52 + 0x4008 + 4)) = true ∧
    (∀ p ∈ (sRows gatherC).poison, 0x1000 + 256 ≤ p) := by decide +kernel
/-- Near memory is found whatever memory holds. -/
theorem translate_near {s : State} (m : List Host.Cell) {core : Nat} {p : Fin 8} {va : Word} {k : AccessKind} {b : Bool}
    (lo : 0xF000000000000 ≤ va.toNat) (hi : va.toNat < 0xF000140000000) (mine : partHasCore s p ((va.toNat - 0xF000000000000) / 2 ^ 24) = true)
    (calm : s.mgmt.recoveries = []) :
    translate { s with mem := m } core p va k b = .ok (nearLoc (va.toNat - 0xF000000000000), false) := by
  have h : partHasCore { s with mem := m } p ((va.toNat - 0xF000000000000) / 2 ^ 24) = true := mine
  have f : ∀ loc, fenced { s with mem := m } loc = false := fun loc => by simp [fenced, calm]
  unfold Machine.translate
  simp only [if_pos lo, if_neg (show ¬ 2 ^ 52 ≤ va.toNat by omega), if_neg (show ¬ 0xF000140000000 ≤ va.toNat by omega), h, f, if_true]
  rfl
theorem witness_EnginesRun_found : (∀ j, j < 3 → ∀ m, translate { sRows gatherC with mem := m } 0 0 (0xF000000000000 + 0x4000 + BitVec.ofNat 64 (4 * j))
      .engineRead true = .ok (2 ^ 52 + 0x4000 + 4 * j, false) ∧
      translate { sRows gatherC with mem := m } 0 0 (rowVa 0xF000000000000 0x100 j) .engineWrite true = .ok (2 ^ 52 + 256 * j, false)) ∧
    ∀ m, translate { sRows gatherC with mem := m } 0 0 (rowVa 0 0x1000 1) .engineRead true = .ok (0x1000, false) := by
  refine ⟨fun j hj m => ?_, fun m => by with_unfolding_all rfl⟩
  have : j = 0 ∨ j = 1 ∨ j = 2 := by omega
  have calm : (sRows gatherC).mgmt.recoveries = [] := rfl
  rcases this with rfl | rfl | rfl <;> constructor <;>
    exact (translate_near m (by decide) (by decide) (by decide +kernel) calm).trans (by decide +kernel)

/-- Photo-finish over ten F32; Seam over three buffers of five F32 in the page of its memory stack. -/
def pf0 : Nat := pfBlock 0 11 0 4 0x2000 10 nearBase
def sm0 : Nat := seamBlock 0 11 3 5 0x7000 0x7400 (nearBase + 8)
def photo : EngineCmd := cmd (.photo (PfBlock.ofNat pf0)) (some 3) true
def seam : EngineCmd := cmd (.seam (SeamBlock.ofNat sm0)) (some 3) true
def seamSpans : List (List Span) := [[⟨page7, 20, false⟩], [⟨page7 + 256, 20, false⟩], [⟨page7 + 512, 20, false⟩]]
theorem witness_NearDataEngines_photo : (sEng (hRun 1 photo) 0).harts[0]? = some (hRun 1 photo) ∧ (hRun 1 photo).mode = .running ∧
    (sEng (hRun 1 photo) 0).mgmt.recoveries = [] ∧ (sEng (hRun 1 photo) 0).poison = [] ∧ photo.started = true ∧ photo.token = none ∧ photo.declined = false ∧ seam.refused = false ∧ photo.core = 0 ∧ seam.core = 0 ∧
    (hRun 1 photo).pacer.engines[(1 : Fin 4)] = photo :: [cmd (.fcwb 1 2) none] ∧ ElemType.ofCode (PfBlock.ofNat pf0).ty = some .f32 ∧
    (PfBlock.ofNat pf0).mask = false ∧
    pfSpans (sEng (hRun 1 photo) 0) (hRun 1 photo) (cutRange 4096 (PfBlock.ofNat pf0).src ((PfBlock.ofNat pf0).count * 4)) =
      .ok [⟨0x2000, 40, false⟩] := ⟨rfl, by decide +kernel⟩
theorem witness_NearDataEngines_seam : (sEng (hRun 2 seam) 0).harts[0]? = some (hRun 2 seam) ∧ (hRun 2 seam).mode = .running ∧
    (hRun 2 seam).pacer.engines[(2 : Fin 4)] = seam :: [cmd (.fcwb 1 2) none] ∧ ElemType.ofCode (SeamBlock.ofNat sm0).ty = some .f32 ∧
    0 < (SeamBlock.ofNat sm0).count ∧ (SeamBlock.ofNat sm0).flagVal < 2 ^ 16 ∧
    flagLoc (sEng (hRun 2 seam) 0) (hRun 2 seam) (SeamBlock.ofNat sm0) = .ok (2 ^ 52 + 8) ∧
    seamBuffers (sEng (hRun 2 seam) 0) (hRun 2 seam) (SeamBlock.ofNat sm0) 20 (List.range 3) = .ok seamSpans ∧
    probeRange (sEng (hRun 2 seam) 0) (hRun 2 seam) .engineWrite 0x7400 20 = .ok [⟨page7 + 0x400, 20, false⟩] ∧ (page7 + 0x400) % 4 = 0 ∧
    (∀ a ∈ ((List.range 3).map (seamBuffer (SeamBlock.ofNat sm0)) ++ [0x7400]).flatMap (fun a => (cutRange 4096 a 20).map fun (c : Nat × Nat) => c.1),
      localStack (sEng (hRun 2 seam) 0) (hRun 2 seam) a = some (seamEngine (sEng (hRun 2 seam) 0) (hRun 2 seam) (SeamBlock.ofNat sm0))) ∧
    (∀ e, e < 5 → (seamEltAt (sEng (hRun 2 seam) 0) (SeamBlock.ofNat sm0) .f32 seamSpans [⟨page7 + 0x400, 20, false⟩] [] e).undef = false) ∧
    page7 + 0x400 + 20 ≤ 2 ^ 52 + 8 := ⟨rfl, by decide +kernel⟩
/-! Synchronisation, traps, supervisor instructions. -/

def hStores (l : List StoreFlight) : Hart := { hA with pacer := { hA.pacer with stores := l } }
/-- A store of each side, the second on bytes of the first, and dirty lines of two cores; one store and no line. -/
def sFence : State :=
  { stateOf (hStores [flight .scalar 0x1008 4, flight .vector 0x100A 4, flight .scalar 0x2010 2]) .pacer with
    l1 := [⟨0, 0x80, List.replicate 64 7, [3, 4], []⟩, ⟨1, 0x80, List.replicate 64 9, [5], []⟩] }
theorem witness_FencesAndBarriers_fences :
    sFence.runs (hStores [flight .scalar 0x1008 4, flight .vector 0x100A 4, flight .scalar 0x2010 2]) .pacer ∧
    sFence.mgmt.recoveries = [] ∧ (hStores []).pacer.loads = [] ∧ Memory.wf sFence.mem = true ∧
    sFence.l1.Pairwise (fun a b => ¬ (a.core = b.core ∧ a.line = b.line)) ∧
    (stateOf (hStores [flight .vector 0x1008 4]) .pacer).runs (hStores [flight .vector 0x1008 4]) .pacer ∧
    (hStores [flight .vector 0x1008 4]).pacer.stores = [flight .vector 0x1008 4] ∧
    ((flight .vector 0x1008 4).side != .vector) = false ∧ (stateOf (hStores []) .pacer).l1 = [] :=
  ⟨⟨rfl, rfl⟩, by decide +kernel, by decide +kernel, by decide +kernel, by decide +kernel, runs_stateOf .., by decide +kernel⟩
/-- Both threads in or past the barrier, in two harts; a hart of another gang; a hart whose Pacer is still to come. -/
def atBarrier (i x : Bool) (core : Nat) : Hart :=
  { hA with core := core, pacer := { hA.pacer with th := { hA.pacer.th with inGbar := i, hexit := x } },
            anchor := { hA.anchor with th := { hA.anchor.th with inGbar := true } } }
def sGang (b : Hart) : State := { sP with harts := [atBarrier true false 0, b, { atBarrier false false 2 with gang := 5 }] }
theorem witness_FencesAndBarriers_barrier : (sGang (atBarrier false true 1)).harts[0]? = some (atBarrier true false 0) ∧
    (∀ h ∈ (sGang (atBarrier false true 1)).harts, h.part = 0 ∧ h.gang = 1 ∧ h.mode ≠ .retired → h.mode = .running ∧
      (h.pacer.th.inGbar = true ∨ h.pacer.th.hexit = true) ∧ (h.anchor.th.inGbar = true ∨ h.anchor.th.hexit = true)) ∧
    (sGang (atBarrier false false 1)).harts[1]? = some (atBarrier false false 1) ∧ (atBarrier false false 1).pacer.th.inGbar = false ∧
    (atBarrier false false 1).pacer.th.hexit = false ∧ (atBarrier false false 1).part = 0 ∧ (atBarrier false false 1).gang = 1 ∧
    (atBarrier false false 1).mode = .running ∧ sP.runs hA .pacer ∧ (hA.th .pacer).inGbar = false ∧ hA.pacer.loads = [] ∧
    hA.pacer.stores = [] ∧ hA.anchor.viq = [] ∧ hA.anchor.mqueue = [] ∧ hA.anchor.deferredErr = none ∧
    (sGang (atBarrier false true 1)).mgmt.recoveries = [] ∧ (sAt 0x1038).l1 = [] :=
  ⟨rfl, by decide +kernel, rfl, by decide +kernel, by decide +kernel, by decide +kernel, by decide +kernel, by decide +kernel,
    runs_stateOf .., by decide +kernel⟩
/-- `WAITM` on far and near memory; a sleeper woken and one not. -/
def hSleep : Hart := { hA with pacer := { hA.pacer with asleep := true } }
def sSleep (w : Bool) : State := { stateOf hSleep .pacer with watchers := [⟨.hart 0, 3, w, 0⟩, ⟨.hart 1, 3, true, 0⟩] }
theorem witness_FencesAndBarriers_waiting : (sAt 0x1038).runs (hAt 0x1038) .pacer ∧ ((hAt 0x1038).reg .pacer 5).toNat % 8 = 0 ∧
    translate (sAt 0x1038) 0 0 0x1038 .load false = .ok (0x1038, false) ∧ regionOf 0x1038 = .far ∧
    translate (sAt 0) 0 0 0xF000000000000 .load false = .ok (2 ^ 52, false) ∧ regionOf (2 ^ 52) = .near ∧ (sAt 0x1038).poison = [] ∧
    (sSleep true).harts[0]? = some hSleep ∧ ⟨.hart 0, 3, true, 0⟩ ∈ (sSleep true).watchers ∧ hSleep.pacer.asleep = true ∧
    (∀ x ∈ (sSleep false).watchers, x.who = .hart 0 → x.woken = false) := ⟨runs_stateOf .., by decide +kernel⟩

/-- A thread that has released vector state, and whose partner has; with a matrix error deferred. -/
def hRel (a : Bool) (e : Option DeferredError := none) : Hart :=
  { hA with pacer := { hA.pacer with th := { hA.pacer.th with vrel := true } },
            anchor := { hA.anchor with deferredErr := e, th := { hA.anchor.th with vrel := a } } }
theorem witness_Leaving : (stateOf (hRel false) .anchor).runs (hRel false) .anchor ∧ ((hRel false).th .anchor).vrel = false ∧
    ((hRel false).th .pacer).vrel = true ∧ (hRel false).anchor.viq = [] ∧ (hRel false).anchor.deferredErr = none ∧ hQueued.anchor.viq ≠ [] ∧
    (hRel true (some default)).anchor.viq = [] ∧ (hRel true (some default)).anchor.deferredErr ≠ none ∧
    (hRel false).pacer.loads = [] ∧ (hRel false).pacer.stores = [] ∧ (stateOf (hRel false) .anchor).mgmt.recoveries = [] :=
  ⟨runs_stateOf .., by decide +kernel⟩
/-- A hart that both threads have left, a store of its on its way, in its gang and with its queue: another hart of the gang running, or
retired; a matrix error found in it late; one whose Anchor has not left. -/
def hGone (e : Option DeferredError := none) : Hart :=
  { hA with pacer := { hA.pacer with th := { hA.pacer.th with hexit := true }, stores := [flight .scalar 0x1008 4] },
            anchor := { hA.anchor with claim := true, deferredErr := e, th := { hA.anchor.th with hexit := true } } }
def sGone (m : HartMode) : State :=
  { stateOf (hGone) .pacer with harts := [hGone, { hA with core := 1, mode := m }], contexts := [(0, 0), (0, 2)],
                                queues := [LaunchQueue.fresh 0 0] }
theorem witness_Leaving_retirement : (sGone .running).harts[0]? = some hGone ∧ hGone.mode = .running ∧ hGone.pacer.th.hexit = true ∧
    hGone.anchor.th.hexit = true ∧ hGone.anchor.mqueue = [] ∧ (∀ q : Fin 4, ∀ c ∈ hGone.pacer.engines[q], c.tag = none) ∧
    (sGone .running).mgmt.recoveries = [] ∧ hGone.anchor.deferredErr = none ∧ (hGone (some default)).anchor.deferredErr ≠ none ∧
    ((sGone .running).gangs.any fun g => g.part == hGone.part && g.gangid == hGone.gang) = true ∧ (sGone .running).queues ≠ [] ∧
    hA.pacer.th.hexit = false ∧ (∃ j x, j ≠ 0 ∧ (sGone .running).harts[j]? = some x ∧ (x.part = hGone.part ∧ x.gang = hGone.gang) ∧ x.mode ≠ .retired) ∧
    (∀ j, j < 2 → j ≠ 0 → ∀ x ∈ (sGone .retired).harts[j]?, x.mode = .retired) := by
  and_intros <;> first | decide +kernel | rfl | exact ⟨1, _, by decide, rfl, by decide +kernel⟩

def hTrap (v : Word) (super : Bool) : Hart :=
  let f := fun (th : ThreadState) => { th with trapvec := v, sepc := 0x5558 }
  { hA with super := super, pacer := { hA.pacer with th := f hA.pacer.th }, anchor := { hA.anchor with th := f hA.anchor.th } }
def sSave (h : Hart) (u : ExecUnit) : State := part0 (stateOf h u) fun p => { p with psave := 0x2001 }
theorem witness_TrapReturn : (stateOf (hTrap 0x4445 true) .pacer).runs (hTrap 0x4445 true) .pacer ∧ (hTrap 0x4445 true).super = true :=
  ⟨runs_stateOf .., rfl⟩
/-- Own handlers in both modes; none; PSAVE enabled. -/
theorem witness_Traps : (stateOf (hTrap 0x4445 false) .anchor).runs (hTrap 0x4445 false) .anchor ∧ (hTrap 0x4445 false).super = false ∧
    ((hTrap 0x4445 false).th .anchor).trapvec.getLsbD 0 = true ∧ ((hTrap 0x4444 false).th .pacer).trapvec.getLsbD 0 = false ∧
    (sSave hA .pacer).harts[0]? = some hA ∧ ((sSave hA .pacer).parts[hA.part].psave).getLsbD 0 = true ∧
    (sSave hA .pacer).mgmt.recoveries = [] ∧ hA.mode = .running ∧ (sSave hA .pacer).mgmt.fatal = false ∧
    (∀ g ∈ (sSave hA .pacer).gangs, g.part = hA.part → g.gangid = hA.gang → g.mode = .resident) := ⟨runs_stateOf .., by decide +kernel⟩
/-- The highest partition and the lowest number that is none. -/
theorem witness_SupervisorInstructions : (stateOf (hTrap 0 true) .anchor).runs (hTrap 0 true) .anchor ∧ (hTrap 0 true).super = true ∧
    (0x803 : Fin 4096).val ∉ [0x801, 0x802, 0x880, 0x881, 0x890, 0x891] ∧ (7 : Nat) < 8 ∧ 8 ≤ (8 : Word).toNat ∧
    (stateOf (hTrap 0 true) .pacer).mgmt.recoveries = [] ∧
    ((stateOf (hTrap 0 true) .pacer).harts.all fun g => g.pacer.loads.isEmpty && g.pacer.stores.isEmpty) = true :=
  ⟨runs_stateOf .., by decide +kernel⟩

/-! The Starter and pre-emption. -/

def packet (cls argc wcmp argx size a1 : Nat) : List Byte :=
  leBytes 64 (sumBits [(cls, 0), (0x1000 / 64, 6), (argc, 52), (wcmp, 56), (argx, 58), (77, 64), (size, 112), (a1, 128), (11, 192), (0x1108, 384), (55, 448)])
def queue (k : List Packet) (f : LaunchQueue → LaunchQueue := id) : LaunchQueue :=
  f { LaunchQueue.fresh 0 3 with en := true, cls := 0, weight := 1, seq := 5, schedEn := true, packets := k }
def sLaunch (q : LaunchQueue) (h : Hart) (m : List Host.Cell := []) : State :=
  { stateOf h .pacer m with queues := [q], mgmt := { State.reset.mgmt with running := true } }
def cellsOf (a : Nat) (b : List Byte) : List Host.Cell := b.zipIdx.filterMap fun x => if x.1 = 0 then none else some (a + x.2, x.1)

/-- A packet that passes, the most arguments; the largest gang; a packet of class 6; queues of 255 and of 256. -/
theorem witness_LaunchQueues_writes : (sLaunch (queue []) hA).mgmt.fatal = false ∧ (sLaunch (queue []) hA).mgmt.running = true ∧
    (sLaunch (queue []) hA).mgmt.recov = false ∧ (sLaunch (queue []) hA).outside = [] ∧ (packet 2 6 0 0 1 5).length = 64 ∧ (queueAt (sLaunch (queue []) hA) 0 3).en = true ∧
    packetOk (sLaunch (queue []) hA) 0 false true ⟨packet 2 6 0 0 1 5, 0, true⟩ = true ∧
    packetOk (sLaunch (queue []) hA) 0 false true ⟨packet 2 4 0 0 2560 5, 0, true⟩ = true ∧
    packetOk (sLaunch (queue []) hA) 0 false true ⟨packet 6 4 0 0 1 5, 0, true⟩ = false ∧ (queueAt (sLaunch (queue []) hA) 0 3).cls ≠ 3 ∧
    (queueAt (sLaunch (queue (List.replicate 255 ⟨[], 4, false⟩)) hA) 0 3).packets.length < 256 ∧
    256 ≤ (queueAt (sLaunch (queue (List.replicate 256 ⟨[], 4, false⟩)) hA) 0 3).packets.length ∧
    gangLive (sLaunch (queue []) hA) 0 (BitVec.ofNat 32 (3 * 2 ^ 24 + 6)) = false := by decide +kernel
def hLaunch (q : Nat) : Hart := withRegs hA [(5, 0x1000), (6, q)]
def sGlaunch (q : Nat) (k : List Byte) : State := sLaunch (queue []) (hLaunch q) (cellsOf 0x1000 k)
theorem witness_LaunchQueues_glaunch : (sGlaunch 3 (packet 2 6 0 0 1 5)).runs (hLaunch 3) .pacer ∧
    translate (sGlaunch 3 (packet 2 6 0 0 1 5)) 0 0 0x1000 .load false = .ok (0x1000, false) ∧ (0x1000 : Word).toNat % 64 = 0 ∧
    (hLaunch 3).pacer.stores = [] ∧ (hLaunch 3).pacer.loads = [] ∧ (sGlaunch 3 []).poison = [] ∧ (sGlaunch 3 []).mgmt.recoveries = [] ∧ (sGlaunch 3 []).l1 = [] ∧ 64 ≤ ((hLaunch 64).reg .pacer 6).toNat ∧
    (queueAt (sGlaunch 7 []) 0 7).en = false ∧ (queueAt (sGlaunch 3 []) 0 3).en = true ∧
    packetOk (sGlaunch 3 []) 0 false false ⟨Memory.readAll (sGlaunch 3 (packet 2 6 0 0 1 5)).mem 0x1000 64, 0, false⟩ = true ∧
    packetOk (sGlaunch 3 []) 0 false false ⟨Memory.readAll (sGlaunch 3 (packet 6 4 0 0 1 5)).mem 0x1000 64, 0, false⟩ = false := by
  refine ⟨⟨rfl, rfl⟩, by decide +kernel⟩
/-- Heads with each condition, or none, on a good entry record and on one of another class; a recheck. -/
def sHead (w : Nat) (cls : Nat := 2) (f : LaunchQueue → LaunchQueue := id) : State :=
  { sLaunch (queue [⟨packet 2 3 w 0 1 5, 9, false⟩, ⟨packet 2 6 0 0 1 5, 10, false⟩] f) hA
      (cellsOf 0x1000 (leBytes 64 (sumBits [(0x1000, 0), (0x2008, 64), (cls, 128), (1, 136)])) ++ cells 0x1108 [55]) with
    tlb := [⟨320, 0, 1, leaf 1 false⟩] }
theorem witness_LaunchQueues_heads : (queueAt (sHead 0) 0 3).packets = ⟨packet 2 3 0 0 1 5, 9, false⟩ :: [⟨packet 2 6 0 0 1 5, 10, false⟩] ∧
    Packet.argx ⟨packet 2 3 0 0 1 5, 9, false⟩ = false ∧ (queueAt (sHead 0) 0 3).head = none ∧ (queueAt (sHead 0) 0 3).token = none ∧
    (sHead 0).mgmt.recoveries = [] ∧ (∀ g ∈ (sHead 0).gangs, ¬ (g.part = 0 ∧ g.queue = 3 ∧ g.mode = .saved)) ∧ (queueAt (sHead 0) 0 3).rsv = false ∧
    translate (sHead 0) 320 0 (BitVec.ofNat 64 (Packet.entry ⟨packet 2 3 0 0 1 5, 9, false⟩)) .load false = .ok (0x1000, false) ∧
    leNat (Memory.readAll (sHead 0).mem 0x1000 64) / 2 ^ 128 % 2 ^ 8 = Packet.cls ⟨packet 2 3 0 0 1 5, 9, false⟩ ∧
    leNat (Memory.readAll (sHead 0).mem 0x1000 64) / 2 ^ 136 % 2 ^ 16 ≤ 1 ∧ leNat (Memory.readAll (sHead 0).mem 0x1000 64) % 2 ^ 64 % 8 = 0 ∧
    leNat (Memory.readAll (sHead 0).mem 0x1000 64) / 2 ^ 64 % 2 ^ 64 % 8 = 0 ∧ Packet.wcmp ⟨packet 2 3 0 0 1 5, 9, false⟩ = 0 ∧
    leNat (Memory.readAll (sHead 0 3).mem 0x1000 64) / 2 ^ 128 % 2 ^ 8 ≠ 2 := by decide +kernel
theorem witness_LaunchQueues_conditions : ∀ w ∈ ([1, 2, 3] : List Nat), Packet.wcmp ⟨packet 2 3 w 0 1 5, 9, false⟩ ≠ 0 ∧
    watchedOk (sHead w) 0 (Packet.waddr ⟨packet 2 3 w 0 1 5, 9, false⟩) = true ∧
    translate (sHead w) 320 0 (BitVec.ofNat 64 (Packet.waddr ⟨packet 2 3 w 0 1 5, 9, false⟩)) .load false = .ok (0x1108, false) ∧
    (queueAt (sHead w 2 fun x => { x with head := some ⟨1, 2, []⟩ }) 0 3).head = some ⟨1, 2, []⟩ ∧
    (queueAt (sHead w 2 fun x => { x with head := some ⟨1, 2, []⟩ }) 0 3).token = none := forall_of_all _ (by decide +kernel)

/-- A ready head of one hart, the round due at exactly QUANTUM; a round not due. -/
def sRound (since : Nat) : State :=
  part0 { sLaunch (queue [⟨packet 2 3 0 0 1 5, 9, false⟩] fun x => { x with head := some ⟨0x1000, 0x2008, [5, 6, 7]⟩ }) hA with
    harts := [], gangs := [] } fun p => { p with sinceRound := since, schedQuantum := 4096, quantum := 2048 }
theorem witness_GangStarts : (sRound 4095).parts[(0 : Fin 8)].sinceRound < (sRound 4095).parts[(0 : Fin 8)].schedQuantum ∧
    (sRound 4096).parts[(0 : Fin 8)].schedQuantum ≤ (sRound 4096).parts[(0 : Fin 8)].sinceRound ∧ 0 < (sRound 4096).parts[(0 : Fin 8)].quantum ∧
    (sRound 4096).parts[(0 : Fin 8)].held = [] ∧ (sRound 4096).mgmt.fatal = false ∧ (sRound 4096).mgmt.running = true ∧
    (sRound 4096).mgmt.recov = false ∧ (sRound 4096).mgmt.recoveries = [] ∧ (sRound 4096).queues.length = 1 ∧
    (∀ x ∈ (sRound 4096).queues, x.part = 0 ∧ x.packets = [⟨packet 2 3 0 0 1 5, 9, false⟩] ∧ x.head = some ⟨0x1000, 0x2008, [5, 6, 7]⟩ ∧
      x.token = none ∧ x.hwait = false ∧ x.en = true ∧ 0 < x.weight ∧ 0 ≤ x.deficit) ∧ (sRound 4096).gangs = [] ∧ (sRound 4096).harts = [] ∧ (sRound 4096).watchers = [] ∧
    Packet.cls ⟨packet 2 3 0 0 1 5, 9, false⟩ < 6 ∧ Packet.size ⟨packet 2 3 0 0 1 5, 9, false⟩ = 1 ∧
    Packet.wcmp ⟨packet 2 3 0 0 1 5, 9, false⟩ = 0 ∧ (coresOf (sRound 4096) 0).head? = some 0 := by decide +kernel

def gang (mode : GangMode) (sel : Bool := false) (deadline : Nat := 0) : Gang := ⟨sel, 0, 1, 0, false, 0, 1, false, mode, 0, 0, deadline, 0, false⟩
def inMode (m : HartMode) (core : Nat := 0) : Hart := { hA with mode := m, core := core, slot := core }
def sMode (hs : List Hart) (g : Gang) (now : Nat := 0) : State := { sSave hA .pacer with harts := hs, gangs := [g], now := now }
/-- A selected gang; one being saved, just at its deadline; `GFORCE` of both kinds. -/
theorem witness_Preemption_begin : (sMode [hA] (gang .resident true)).gangs.find? (fun g => g.part == 0 && g.gangid == 1) = some (gang .resident true) ∧
    (∃ h ∈ (sMode [hA] (gang .resident true)).harts, h.part = 0 ∧ h.gang = 1 ∧ h.mode = .running) ∧ (gang .resident true).mode = .resident ∧
    ((sMode [hA] (gang .resident true)).parts[(0 : Fin 8)].psave).getLsbD 0 = true ∧ (gang .resident true).selected = true ∧
    (0x100000001 : Word).setWidth 32 = (1 : BitVec 32) ∧ (0x100000001 : Word).getLsbD 32 = true ∧ (0x100000001 : Word).getLsbD 33 = false ∧
    (sMode [hA] (gang .resident)).mgmt.recov = false ∧ (gang .saving false 7).deadline ≠ 0 ∧
    (gang .saving false 7).saveStart + 7 * 1024 ≤ (sMode [inMode .saving] (gang .saving false 7) 7168).now ∧
    (sMode [inMode .saving] (gang .saving false 7) 7167).now < (gang .saving false 7).saveStart + 7 * 1024 ∧
    (inMode .saving).anchor.viq.head? = none ∧
    ([5] : List Nat).length ≤ (gangHarts (sMode [inMode .saving] (gang .saving false 7) 7168) 0 1).length := by
  refine ⟨by decide +kernel, ⟨hA, by simp [sMode], by decide +kernel⟩, by decide +kernel⟩
/-- A hart drained while another is still being saved, and once it is the last; one whose queue still has an entry. -/
def hBusy : Hart := { inMode .saving with anchor := { (inMode .saving).anchor with viq := [{ (default : VEntry) with instr := .mzero 3 }], openLen := some 1 } }
def hBetween : Hart := { inMode .saving with anchor := { (inMode .saving).anchor with viq := [{ (default : VEntry) with instr := .vfetch none 5, started := true }] } }
theorem witness_Preemption_pass : ∃ e pr off, hBetween.anchor.viq.head? = some e ∧ e.started = true ∧ e.instr = .vfetch pr off :=
  ⟨_, none, 5, rfl, rfl, rfl⟩
theorem witness_Preemption_end : (sMode [inMode .saving, inMode .saving 1] (gang .saving)).harts[0]? = some (inMode .saving) ∧
    (inMode .saving).mode = .saving ∧ (sMode [] (gang .saving)).queues = [] ∧ (inMode .saving).anchor.viq = [] ∧
    (inMode .saving).pacer.loads = [] ∧ (inMode .saving).pacer.stores = [] ∧ (inMode .saving).anchor.mqueue = [] ∧
    Memory.wf (sMode [] (gang .saving)).mem = true ∧ (sMode [inMode .saving, inMode .saving 1] (gang .saving)).harts[1]? = some (inMode .saving 1) ∧
    (inMode .saving 1).mode = .saving ∧ (inMode .saved 1).mode = .saved ∧ (gang .saving).mode = .saving ∧ hBusy.stopHard = false ∧
    hBusy.anchor.viq ≠ [] ∧ partnerWait hBusy = none ∧ (hBusy.anchor.viq.all fun e => !e.started) = true ∧ (0x300000001 : Word).getLsbD 32 = true ∧ (0x300000001 : Word).getLsbD 33 = true ∧
    (sMode [] (gang .saving)).mgmt.recoveries = [] ∧ (sMode [] (gang .saving)).mgmt.fatal = false ∧ (sMode [hBusy] (gang .saving)).claimWait = [] ∧
    (inMode .trapped 1).mode = .trapped ∧ (sMode [hA] (gang .resident)).gangs.find? (fun g => g.part == 0 && g.gangid == 1) = some (gang .resident) := by
  and_intros <;> decide +kernel

/-- Its area ends within far memory; that of a slot at the end of far memory does not. -/
def sLast : State := part0 (sMode [inMode .saving] (gang .saving)) fun p => { p with psave := BitVec.ofNat 64 (1536 * 2 ^ 30 - 4096 + 1) }
def quieted (s : State) : Hart := ((quiesce s 0).harts[0]?).getD hA
theorem witness_Preemption_area : (quiesce (sMode [inMode .saving] (gang .saving)) 0).harts[0]? = some (quieted (sMode [inMode .saving] (gang .saving))) ∧
    slotLoc (sMode [inMode .saving] (gang .saving)).parts[(0 : Fin 8)].psave 0 +
      (saveArea (quieted (sMode [inMode .saving] (gang .saving))) none false).length ≤ 1536 * 2 ^ 30 ∧
    (quiesce sLast 0).harts[0]? = some (quieted sLast) ∧
    1536 * 2 ^ 30 < slotLoc sLast.parts[(0 : Fin 8)].psave 0 + (saveArea (quieted sLast) none false).length := by decide +kernel
theorem witness_Traps_area : (quiesce (modAnchor (sSave hA .pacer) 0 abandonOpen) 0).harts[0]? =
      some (quieted (modAnchor (sSave hA .pacer) 0 abandonOpen)) ∧
    slotLoc (sSave hA .pacer).parts[hA.part].psave hA.slot +
      (saveArea (quieted (modAnchor (sSave hA .pacer) 0 abandonOpen)) (some { code := 0x0E, thread := .pacer, iaddr := 5 }) false).length ≤ 1536 * 2 ^ 30 := by
  decide +kernel

/-- A hart saved as it stands, its area in memory; and memory that has lost it. -/
def hSaved : Hart := { inMode .saved with area := saveArea (inMode .saving) none false }
def sBack (m : List Host.Cell) (h : Hart := hSaved) : State := { sSave hA .pacer with harts := [h], gangs := [gang .resident], mem := m }
theorem witness_SavedHartsResume : (sBack []).harts[0]? = some hSaved ∧ hSaved.area = saveArea (inMode .saving) none false ∧
    hSaved.pacer.th.regs[0] = 0 ∧ hSaved.anchor.th.regs[0] = 0 ∧ hSaved.pacer.th.lost = [] ∧ hSaved.anchor.th.lost = [] ∧
    (inMode .saving).pacer.th.regs = hSaved.pacer.th.regs ∧ (inMode .saving).anchor.th.regs = hSaved.anchor.th.regs ∧
    (inMode .saving).pacer.th.pc = hSaved.pacer.th.pc ∧ (inMode .saving).anchor.th.pc = hSaved.anchor.th.pc ∧ (sBack []).poison = [] ∧
    (sBack []).gangs.find? (fun g => g.part == hSaved.part && g.gangid == hSaved.gang) = some (gang .resident) ∧
    (gang .resident).mode = .resident ∧ hSaved.mode = .saved ∧ hSaved.trapHeld = false ∧
    (sBack []).mgmt.recoveries = [] ∧ hSaved.anchor.claim = false ∧
    slotLoc (sBack []).parts[hSaved.part].psave hSaved.slot = 0x2000 := ⟨rfl, rfl, by decide +kernel⟩
/-- Whatever the area's bytes l are. -/
theorem witness_SavedHartsResume_area : ∀ l, Memory.readAll (sBack (Memory.writeAll [] 0x2000 l)).mem 0x2000 l.length = l :=
  fun l => Memory.readAll_writeAll (m := []) (by decide) 0x2000 l
theorem witness_SavedHartsResume_lost : (Memory.readAll (sBack []).mem 0x2000 hSaved.area.length).take 6 ≠ hSaved.area.take 6 := by
  have hd : (hSaved.area.take 6).head? = some 0x53 := by decide +kernel
  intro h
  rw [← h] at hd
  cases hn : hSaved.area.length with
  | zero => rw [hn] at hd; simp [Memory.readAll] at hd
  | succ n => rw [hn] at hd; revert hd; simp [Memory.readAll, sBack, sSave, part0, stateOf, Memory.read]
/-- A trapped hart, and one held by its trap in its gang's save. -/
theorem witness_SavedHartsResume_trapped :
    ((sBack [] { hSaved with trapHeld := true, mode := .trapped }).harts.all fun h2 => h2.mode == .trapped && h2.trapHeld) = true ∧
    ({ hSaved with trapHeld := true, resumeOk := true } : Hart).mode = .saved := by decide +kernel
/-! The driver, the host, the management core. -/

def sDrive (f : State → State) : State := f { sP with queues := [{ LaunchQueue.fresh 0 3 with rsv := true, en := true }] }
/-- A reserved queue whose write keeps EN, and one not reserved; a partition at rest, its die shared and not; `TLBINV` idle and busy. -/
theorem witness_DriverRegisters : (sDrive id).mgmt.recov = false ∧ queueRsv (sDrive id) (queueAt (sDrive id) 0 3) = true ∧ (0x123456789ABCDEF1 : Word).getLsbD 0 = true ∧ queueRsv (sDrive id) (queueAt (sDrive id) 0 4) = false ∧
    ((sDrive id).parts[(0 : Fin 8)]).waiting = [] ∧ (sDrive fun s => { s with gangs := [] }).gangs = [] ∧
    (∀ y ∈ (sDrive id).queues, y.part = 0 → y.packets = []) ∧
    (∀ r : Fin 8, r ≠ 0 → ((sDrive id).parts[r]).dies &&& (0xF : Word).setWidth 8 = 0) ∧
    ((sDrive id).parts[(0 : Fin 8)]).dies &&& (0xF : Word).setWidth 8 ≠ 0 ∧ (∃ g ∈ (sDrive id).gangs, g.part = 0) :=
  ⟨by decide +kernel, by decide +kernel, by decide, by decide +kernel, by decide +kernel, rfl, by decide +kernel,
    by decide +kernel, by decide +kernel, ⟨_, List.mem_singleton.2 rfl, rfl⟩⟩
theorem witness_DriverRegisters_tlbinv : (sDrive id).parts[(0 : Fin 8)].tlbinvBusy = false ∧ (0x1005 : Word).toNat % 4 = 1 ∧
    (0x1006 : Word).toNat % 4 = 2 ∧ (part0 (sDrive id) fun p => { p with tlbinvBusy := true }).parts[(0 : Fin 8)].tlbinvBusy = true ∧ (sDrive id).mgmt.recoveries = [] ∧
    (0x1004 : Word).toNat % 4 ≠ 1 ∧ (0x1004 : Word).toNat % 4 ≠ 2 ∧
    ((sDrive id).harts.all fun h => h.pacer.loads.isEmpty && h.pacer.stores.isEmpty) = true := by decide +kernel

def hToken : Hart := { hA with pacer := { hA.pacer with th := { hA.pacer.th with tokens := [9] } } }
def sToken (w r : Bool) : State :=
  { stateOf hToken .pacer with
    waiters := if w then [(9, .thread 0 .pacer 0x04 0x1234)] else []
    requests := if r then [⟨0, 77, 9, .thread 0 .pacer 0x04 0x1234⟩] else [] }
theorem witness_Replays : (sToken true false).mgmt.recov = false ∧ (sToken true false).harts[0]? = some hToken ∧ hToken.part = 0 ∧
    (sToken true false).waiters = [(9, .thread 0 .pacer 0x04 0x1234)] ∧ (sToken true false).requests = [] ∧
    (∀ w ∈ (sToken true false).waiters, w.1 ≠ 10) ∧ (sToken false true).requests = [⟨0, 77, 9, .thread 0 .pacer 0x04 0x1234⟩] ∧
    (0, 77) ∉ (sToken false true).granted ∧ (0x04 : BitVec 8) ≠ 0 ∧ (sToken false true).waiters = [] := by decide +kernel

/-- The last bytes of far memory, of near memory and just behind each. -/
theorem witness_OutsideAccesses : (sAt 0).mgmt.recoveries = [] ∧ Memory.wf (sAt 0).mem = true ∧ (sAt 0).poison = [] ∧
    1536 * 2 ^ 30 - 8 + 8 ≤ 1536 * 2 ^ 30 ∧ 2 ^ 52 + 5 * 2 ^ 30 - 7 + 7 ≤ 2 ^ 52 + 5 * 2 ^ 30 ∧ 0x1008 % 8 = 0 ∧ 0x1008 + 8 ≤ 1536 * 2 ^ 30 ∧
    (sAt 0).outside = [] ∧ (sAt 0).mgmt.recov = false ∧ (∃ x ∈ ({ sAt 0 with outside := [(.function (.vf 2), .mem (.store 0x2000 [1]))] } : State).outside, x.1 = .function (.vf 2)) ∧
    fenced { sAt 0 with mgmt := { (sAt 0).mgmt with recoveries := [⟨.nearBank 0 1, 0, 1, 0, 0⟩] } } (2 ^ 52 + 4 + 4) = true ∧
    ({ sAt 0 with mgmt := { (sAt 0).mgmt with recov := true } } : State).mgmt.recov = true := by
  and_intros <;> decide +kernel

/-- A bank of near memory and its first byte; recovery with a spare left and with none; a register. -/
def sRecover (u : ErrUnit) (used : List (List Nat × Nat) := []) : State :=
  { sP with mgmt := { sP.mgmt with recoveries := [⟨u, 1, 2, 0x55, 1⟩], sparesUsed := used } }
theorem witness_ErrorsAndRecovery : inUnit (.nearBank 0 1) (2 ^ 52 + 8) = true ∧ sP.mgmt.recoveries = [] ∧ Memory.wf sP.mem = true ∧
    2 ^ 52 + 8 < 2 ^ 52 + 5 * 2 ^ 30 ∧ (sRecover (.nearBank 1 0)).mgmt.recoveries = [⟨.nearBank 1 0, 1, 2, 0x55, 1⟩] ∧ (1 : Nat) < 4 ∧
    (∀ c k, ErrUnit.nearBank 1 0 ≠ .track c k) ∧
    lookup (sRecover (.nearBank 1 0)).mgmt.sparesUsed (sparesOf (.nearBank 1 0)).1 < (sparesOf (.nearBank 1 0)).2 ∧
    ¬ lookup (sRecover (.nearBank 1 0) [((sparesOf (.nearBank 1 0)).1, (sparesOf (.nearBank 1 0)).2)]).mgmt.sparesUsed
      (sparesOf (.nearBank 1 0)).1 < (sparesOf (.nearBank 1 0)).2 ∧ sP.harts[0]? = some hA ∧ (31 : Reg) ≠ 0 ∧
    (sRecover (.nearBank 1 0)).outside = [] ∧ (sRecover (.nearBank 1 0)).mgmt.fatal = false ∧ (∀ h ∈ (sRecover (.nearBank 1 0)).harts, h.mode ≠ .stopping) := by
  and_intros <;> first | decide +kernel | rfl | exact fun _ _ h => nomatch h

def sFatal (d : Bool) : State := { sP with mgmt := { sP.mgmt with fatal := true, dump := d } }
theorem witness_FatalErrors : sP.mgmt.fatal = false ∧ Memory.wf sP.mem = true ∧ (sFatal false).mgmt.fatal = true ∧
    (sFatal false).mgmt.dump = false ∧ Memory.wf (sFatal false).mem = true ∧ (sFatal true).mgmt.dump = true ∧ (sFatal false).mgmt.recoveries = [] ∧
    115 ≤ (115 : BitVec 8).toNat ∧ (∃ x ∈ { (sFatal false).mgmt with dumpHarts := [(0, false)] }.dumpHarts, x.1 < (sFatal false).harts.length ∧ x.2 = false) := by
  and_intros <;> decide +kernel

/-- The digest of the empty message (FIPS 180-4's own). -/
theorem test_sha256 : (sha256 []).take 4 = [0xe3, 0xb0, 0xc4, 0x42] := by decide +kernel

/-- What does not rest on which host pages are reachable or which images verify: those are Config's own (log 11, log 13), and the two clauses
with an image or a buffer accepted hold of whichever they are. -/
def sManage (f : Management → Management) : State := { sP with mgmt := f { sP.mgmt with running := true } }
theorem witness_ManagementServices : (sManage id).mgmt.recov = false ∧ (sManage id).mgmt.snapshot = none ∧
    (63 : Word).toNat % 64 ≠ 0 ∧ 2 ^ 52 < (2 ^ 52 - 64 : Word).toNat + 128 ∧ (114 : BitVec 8).toNat < 115 ∧ (sManage fun m => { m with snapshot := some ⟨0x1000, [1, 2]⟩ }).mgmt.snapshot = some ⟨0x1000, [1, 2]⟩ ∧
    ([1, 2] : List Word).length ≤ 16 ∧ Memory.wf (sManage id).mem = true ∧ (sManage id).mgmt.running = true ∧ (sManage id).mgmt.fatal = false ∧
    (sManage id).mgmt.attestation = none ∧ 2 ^ 20 ≤ (sManage fun m => { m with leaf := 2 ^ 20 }).mgmt.leaf ∧
    (sManage fun m => { m with leaf := 2 ^ 20 - 1 }).mgmt.leaf < 2 ^ 20 ∧
    (sManage fun m => { m with attestation := some ⟨0x2000, List.replicate 32 7, 5⟩ }).mgmt.attestation = some ⟨0x2000, List.replicate 32 7, 5⟩ ∧
    (List.replicate 32 (7 : Byte)).length = 32 ∧ sP.mgmt.running = false := by decide +kernel

/-- An accumulator of zeros that is known, one that is not, and one stored over in part; two empty queues with a `QPOP` of each at the PCs. -/
def sAcc : State := { sP with accs := [⟨0x1000, false, [], []⟩, ⟨0x3000, true, [0], []⟩] }
def hPops : Hart := { hA with anchor := { hA.anchor with th := { hA.anchor.th with pc := 0x1008 } } }
def sPops : State := stateOf hPops .pacer (cells 0x1000 [word (.qpop 3 .qa), word (.qpop 4 .qc)])
def fetched (a : Word) : State := ((okOr (sPops, 0, false) (fetchWord sPops hPops a)).1)
theorem witness_UnitsOfThemselves : sAcc.mgmt.recoveries = [] ∧ Memory.wf sAcc.mem = true ∧ (sAcc.accs.any fun a => a.loc == 0x1000 && !a.torn) = true ∧
    (∀ a ∈ sAcc.accs, a.loc ≠ 0x2000 ∨ a.torn = true) ∧ (∀ a ∈ sAcc.accs, a.loc ≠ 0x3000 ∨ a.torn = true) ∧
    sAcc.poison = [] ∧ (Accumulator.ofBytes (Memory.readAll sAcc.mem 0x1000 32)).value < 2 ^ 143 ∧
    -(2 ^ 143) ≤ (Accumulator.ofBytes (Memory.readAll sAcc.mem 0x1000 32)).value := by decide +kernel
theorem witness_UnitsOfThemselves_deadlock : sPops.harts[0]? = some hPops ∧ hPops.mode = .running ∧ hPops.qa = [] ∧ hPops.qc = [] ∧
    hPops.anchor.viq = [] ∧ hPops.anchor.withdrawn = none ∧ hPops.anchor.loop = none ∧ hPops.anchor.openLen = none ∧ hPops.anchor.overlong = none ∧
    hPops.pacer.asleep = false ∧ hPops.pacer.waitLoad = none ∧
    (∀ t ∈ [Thread.pacer, .anchor], (hPops.th t).tokens = [] ∧ (hPops.th t).inGbar = false ∧ (hPops.th t).hexit = false) ∧
    encode (.qpop 3 .qa) = some (BitVec.ofNat 64 (word (.qpop 3 .qa))) ∧ encode (.qpop 4 .qc) = some (BitVec.ofNat 64 (word (.qpop 4 .qc))) ∧
    hPops.pacer.th.pc = 0x1000 ∧ hPops.anchor.th.pc = 0x1008 := ⟨rfl, by decide +kernel⟩
theorem witness_UnitsOfThemselves_words :
    fetchWord sPops hPops 0x1000 = .ok (fetched 0x1000, BitVec.ofNat 64 (word (.qpop 3 .qa)), false) ∧
    fetchWord sPops hPops 0x1008 = .ok (fetched 0x1008, BitVec.ofNat 64 (word (.qpop 4 .qc)), false) := by
  constructor <;> rfl

/-! Encoding and the step. -/

def sStep (t : Turn) (i : Instr) : State := { stateOf hA .vector (cells 0x1000 [word i]) with agenda := [t] }
theorem witness_DecodeAndEncodeAgree : Instr.wf (.addImm 2 2 8) = true ∧ encode (.addImm 2 2 8) = some 0x0842000000000008 ∧
    decodeWord 0x0842000000000008 = .ok (.addImm 2 2 8) := by decide +kernel
theorem witness_StepsKeepMemoryForm : (sStep ⟨3, .pacer 0⟩ .nop).memoryOk ∧
    step (sStep ⟨3, .pacer 0⟩ .nop) = .next (after (step (sStep ⟨3, .pacer 0⟩ .nop))) :=
  ⟨(by decide +kernel : Memory.wf (sStep ⟨3, .pacer 0⟩ .nop).mem = true), next_after (by decide +kernel)⟩
theorem witness_StepRunsDecoded : encode (.hostAtomicop .pf 0) = none ∧ (sStep ⟨3, .event (.hostAtomicop .pf 0)⟩ .nop).agenda = [⟨3, .event (.hostAtomicop .pf 0)⟩] ∧
    (sStep ⟨3, .pacer 0⟩ .nop).harts[0]? = some hA ∧ hA.mode = .running ∧ (0x1000 : Word).toNat < 0xF000000000000 ∧
    translate (sStep ⟨3, .pacer 0⟩ .nop) 0 0 0x1000 .fetch false = .ok (0x1000, false) ∧ (sStep ⟨3, .pacer 0⟩ .nop).poison = [] ∧
    (∀ t ∈ [Thread.pacer, .anchor], (hA.th t).pc = 0x1000 ∧ (hA.th t).tokens = [] ∧ (hA.th t).inGbar = false ∧ (hA.th t).hexit = false ∧
      (hA.th t).lost = []) ∧ hA.pacer.asleep = false ∧ hA.pacer.waitLoad = none ∧ hA.anchor.withdrawn = none ∧ hA.anchor.loop = none ∧
    hA.anchor.viq = [] ∧ hA.anchor.openLen = none ∧ hA.anchor.overlong = none ∧
    hA.anchor.vtokens = [] ∧ hA.anchor.ahead = none ∧ (∀ k, k < 8 → fenced (sStep ⟨3, .pacer 0⟩ .nop) (0x1000 + k) = false) := by decide +kernel
/-- A reduction to a scalar register, which stands alone: the word behind it joins nothing. -/
def isAlone : Ahead → Bool
  | .alone => true
  | _ => false
theorem alone_of {a : Ahead} (h : isAlone a = true) : a = .alone := by
  cases a <;> first | rfl | cases h
theorem witness_StepRunsDecoded_alone :
    joinedAhead (dieRead (noteTlb (charge (sStep ⟨3, .anchor 0⟩ (.vredsum false none 8 (.reg 4 false) 9)) 3) 0 0 0x1000) 0 0x1000 8 false).1 hA = .alone ∧
    ((useOf (.vredsum false none 8 (.reg 4 false) 9)).map fun u => u.pred.joined) = some false := ⟨alone_of (by decide +kernel), by decide +kernel⟩
theorem witness_StepRunsDecoded_words : decodeBytes (Memory.readAll (sStep ⟨3, .anchor 0⟩ .nop).mem 0x1000 8) = .ok (.nop, []) ∧
    decodeBytes (Memory.readAll (stateOf hA .vector (cells 0x1000 [0xFC00000000000000])).mem 0x1000 8) = .error .noPoint ∧ useOf .nop = none := by
  decide +kernel

/-- A step from a state: the Pacer's `NOP`; and from reset, a word placed where the first fetch is. -/
theorem test_step : ((hart0 (step (sStep ⟨3, .pacer 0⟩ .nop))).map fun h => h.pacer.th.pc) = some 0x1008 ∧
    (after (step (sStep ⟨3, .pacer 0⟩ .nop))).now = (sStep ⟨3, .pacer 0⟩ .nop).now + 3 := by decide +kernel
theorem test_withFetchWord : ((hart0 (step (State.reset.withFetchWord 64 0x0842000000000008))).map fun h => h.reg .pacer 2) = some 8 := by
  decide +kernel

end Sys2Proof.Tests
end

section
/-! PROOFS. A round of the Starter (R379): what a pass does on queues that hold no head, and the start of a gang that is alone in its
partition (R10, R40). -/
namespace Sys2Proof.Machine

open Sys2Proof

/-! ### Folds of state steps -/

/-- A relation that is reflexive and transitive and that every step keeps, a fold keeps. -/
theorem foldl_related {σ α : Type} {R : σ → σ → Prop} (hrefl : ∀ s, R s s) (htrans : ∀ s t u, R s t → R t u → R s u)
    {f : σ → α → σ} (hf : ∀ s a, R s (f s a)) (as : List α) (s : σ) : R s (as.foldl f s) := by
  induction as generalizing s with
  | nil => exact hrefl s
  | cons a as ih => exact htrans _ _ _ (hf s a) (ih (f s a))

/-- A fold in which one element alone moves the state, to one that none moves any more. -/
theorem foldl_moved_once {σ α : Type} {f : σ → α → σ} {s t : σ} {a : α} {as : List α} (ha : a ∈ as)
    (hskip : ∀ b, b ≠ a → f s b = s) (hmove : f s a = t) (hdone : ∀ b, f t b = t) : as.foldl f s = t := by
  induction as with
  | nil => cases ha
  | cons b bs ih =>
    rw [List.foldl_cons]
    by_cases hb : b = a
    · rw [hb, hmove]; exact List.foldl_fixed' hdone bs
    · rw [hskip b hb]; exact ih ((List.mem_cons.1 ha).resolve_left (Ne.symm hb))

/-! ### An acquire changes caches alone -/

/-- t is s but for what its L1s and far caches hold. -/
abbrev State.sameButLines (s t : State) : Prop := { t with l1 := s.l1, farCache := s.farCache } = s

theorem State.sameButLines.refl (s : State) : s.sameButLines s := rfl

theorem State.sameButLines.trans {s t u : State} (hst : s.sameButLines t) (htu : t.sameButLines u) : s.sameButLines u :=
  (congrArg (fun x : State => { x with l1 := s.l1, farCache := s.farCache }) htu).trans hst

section
variable {s t : State} (h : s.sameButLines t)
include h
theorem State.sameButLines.harts : t.harts = s.harts := (congrArg State.harts h :)
theorem State.sameButLines.gangs : t.gangs = s.gangs := (congrArg State.gangs h :)
theorem State.sameButLines.queues : t.queues = s.queues := (congrArg State.queues h :)
theorem State.sameButLines.parts : t.parts = s.parts := (congrArg State.parts h :)
end

theorem farRoom_sameButLines (s : State) (die : Nat) : s.sameButLines (farRoom s die) := by
  unfold farRoom; dsimp only; repeat' split
  all_goals rfl

theorem farFill_sameButLines (s : State) (die line : Nat) : s.sameButLines (farFill s die line).1 := by
  unfold farFill; split
  · rfl
  · exact farRoom_sameButLines s die

theorem l1Refill_sameButLines (s : State) (core line : Nat) : s.sameButLines (l1Refill s core line) := by
  unfold l1Refill; split
  · rfl
  · exact farFill_sameButLines s (coreDie core) line

theorem l1Renew_sameButLines (s : State) (core : Nat) : s.sameButLines (l1Renew s core) :=
  State.sameButLines.trans (t := { s with l1 := s.l1.filter fun l => l.core != core || !l.dirty.isEmpty }) rfl
    (foldl_related State.sameButLines.refl (fun _ _ _ => State.sameButLines.trans) (fun s line => l1Refill_sameButLines s core line) _ _)

/-- An acquire (R107, R108) writes nothing: it drops and refills lines. -/
theorem cacheAcquire_sameButLines (s : State) (core : Nat) (sc : Scope) : s.sameButLines (cacheAcquire s core sc) := by
  have hdrop : s.sameButLines
      (if Scope.reachesPackage sc then { s with farCache := s.farCache.filter fun l => l.die != coreDie core } else s) := by
    split <;> rfl
  unfold cacheAcquire
  dsimp only
  split
  · exact hdrop.trans (l1Renew_sameButLines _ core)
  · exact hdrop

/-! ### Queues without a head -/

/-- No queue of the device holds a packet, and no gang is descheduled. -/
def State.headless (s : State) : Prop := (∀ y ∈ s.queues, y.packets = []) ∧ ∀ g ∈ s.gangs, g.mode ≠ .saved

theorem queueAt_packets {s : State} (h : ∀ y ∈ s.queues, y.packets = []) (p : Fin 8) (q : Fin 64) : (queueAt s p q).packets = [] := by
  unfold queueAt
  cases hx : s.queues.find? fun x => x.part == p && x.q == q with
  | none => rfl
  | some x => exact h x (List.mem_of_find?_eq_some hx)

/-- Where no gang is descheduled, the head of a queue is its first packet. -/
theorem headKind_of_none_saved {s : State} (h : ∀ g ∈ s.gangs, g.mode ≠ .saved) (x : LaunchQueue) :
    headKind s x = x.packets.head?.map .packet := by
  have : s.gangs.find? (fun g => g.part == x.part && g.queue == x.q && g.mode == .saved) = none := by
    simp only [List.find?_eq_none, Bool.and_eq_true, beq_iff_eq, not_and]
    exact fun g hg _ => h g hg
  simp [headKind, this]

theorem State.headless.headKind {s : State} (h : s.headless) {x : LaunchQueue} (hx : x.packets = []) : headKind s x = none := by
  rw [headKind_of_none_saved h.2, hx]; rfl

theorem State.headless.headKind_queueAt {s : State} (h : s.headless) (p : Fin 8) (q : Fin 64) :
    Machine.headKind s (queueAt s p q) = none := h.headKind (queueAt_packets h.1 p q)

/-- A queue without a head is passed over. -/
theorem passQueue_no_head {s : State} {p : Fin 8} {q : Fin 64} (h : headKind s (queueAt s p q) = none) (l : Fin 5) (n : Nat) :
    passQueue p q l n s = s := by
  cases n with
  | zero => rfl
  | succ n => simp [passQueue, h]

theorem State.headless.passLevel {s : State} (h : s.headless) (p : Fin 8) (l : Fin 5) : passLevel p s l = s :=
  List.foldl_fixed' (fun q => passQueue_no_head (h.headKind_queueAt p q) l _) _

theorem State.headless.preemptPass {s : State} (h : s.headless) (p : Fin 8) : preemptPass s p = s := by
  have hnone : ∀ l ∈ List.range 5, ¬ (List.finRange 64).any (fun _ => false) = true := by simp
  unfold Machine.preemptPass
  simp only [h.headKind_queueAt p, List.find?_eq_none.2 hnone, ite_self]

/-- A reservation ends with no head to take the next one: the marks and the positions held go. -/
theorem State.headless.endReservation {s : State} (h : s.headless) (p : Fin 8) :
    endReservation s p = modPart { s with
      queues := s.queues.map fun x => if x.part == p then { x with rsv := false } else x
      gangs := s.gangs.map fun g => if g.part == p then { g with rsv := false } else g } p fun x => { x with held := [] } := by
  have hl : State.headless (modPart { s with
      queues := s.queues.map fun x => if x.part == p then { x with rsv := false } else x
      gangs := s.gangs.map fun g => if g.part == p then { g with rsv := false } else g } p fun x => { x with held := [] }) := by
    constructor
    · intro y hy
      obtain ⟨x, hx, rfl⟩ := List.mem_map.1 hy
      split <;> exact h.1 x hx
    · intro g hg
      obtain ⟨x, hx, rfl⟩ := List.mem_map.1 hg
      split <;> exact h.2 x hx
  unfold Machine.endReservation
  dsimp only
  rw [List.findSome?_eq_none_iff.2]
  intro x hx
  rw [hl.headKind (hl.1 x hx)]

/-! ### Parts -/

theorem modPart_parts_self (s : State) (p : Fin 8) (f : Partition → Partition) : (modPart s p f).parts[p] = f s.parts[p] := by
  simp [modPart]

/-! ### A head that is alone -/

/-- In state s the one queue of the device is x, of partition p; its head is the checked packet k, ready to start (R379); no gang holds
anything, and the partition's first core is core. -/
structure LoneHead (s : State) (p : Fin 8) (x : LaunchQueue) (k : Packet) (info : HeadInfo) (core : Nat) : Prop where
  queues : s.queues = [x]
  part : x.part = p
  packets : x.packets = [k]
  head : x.head = some info
  token : x.token = none
  hwait : x.hwait = false
  gangs : s.gangs = []
  harts : s.harts = []
  unwatched : ∀ w ∈ s.watchers, w.who ≠ .head p x.q
  held : s.parts[p].held = []
  recoveries : s.mgmt.recoveries = []
  first : ∃ cores, coresOf s p = core :: cores

section
variable {s : State} {p : Fin 8} {x : LaunchQueue} {k : Packet} {info : HeadInfo} {core : Nat} (h : LoneHead s p x k info core)
include h

theorem LoneHead.queueAt_self : queueAt s p x.q = x := by simp [queueAt, h.queues, h.part]

theorem LoneHead.queueAt_other {q : Fin 64} (hq : q ≠ x.q) : queueAt s p q = .fresh p q := by
  simp [queueAt, h.queues, Ne.symm hq]

theorem LoneHead.headKind_self : headKind s x = some (.packet k) := by
  rw [headKind_of_none_saved (by simp [h.gangs]), h.packets]; rfl

theorem LoneHead.headKind_other {q : Fin 64} (hq : q ≠ x.q) : headKind s (queueAt s p q) = none := by
  rw [h.queueAt_other hq, headKind_of_none_saved (by simp [h.gangs])]; rfl

theorem LoneHead.ready (he : x.schedEn = true) : headReady s x = true := by
  have hr : recheckDue s x.part x.q = false := by
    simp only [recheckDue, List.any_eq_false, Bool.and_eq_true, beq_iff_eq, not_and, h.part]
    exact fun w hw hwho => absurd hwho (h.unwatched w hw)
  simp [headReady, he, h.headKind_self, h.head, h.hwait, h.token, hr]

/-- Without a wait condition no word is read again (R382). -/
theorem LoneHead.waitRecheck (hw : k.wcmp = 0) (q : Fin 64) : waitRecheck s p q = .next s := by
  by_cases hq : q = x.q
  · subst hq; simp [Machine.waitRecheck, h.queueAt_self, h.headKind_self, h.head, hw]
  · simp [Machine.waitRecheck, h.headKind_other hq]

theorem LoneHead.takenFor : takenFor s x (.packet k) = [] := by
  simp only [Machine.takenFor, occupied, h.harts, h.recoveries, h.part, h.held, ite_self, List.flatMap_nil, List.append_nil]

/-- Changing registers of a partition that are neither its cores nor what its reservation holds. -/
theorem LoneHead.modPart {f : Partition → Partition} (hh : (f s.parts[p]).held = s.parts[p].held)
    (hd : (f s.parts[p]).dies = s.parts[p].dies) : LoneHead (modPart s p f) p x k info core where
  __ := h
  held := by rw [modPart_parts_self, hh, h.held]
  first := by
    obtain ⟨cores, hc⟩ := h.first
    refine ⟨cores, ?_⟩
    rw [← hc]
    simp only [coresOf, partHasCore, modPart_parts_self, hd]

/-- Changing registers of the queue that do not touch its packets. -/
theorem LoneHead.withQueue {x' : LaunchQueue} (hp : x'.part = x.part) (hq : x'.q = x.q) (hk : x'.packets = x.packets)
    (hh : x'.head = x.head) (ht : x'.token = x.token) (hw : x'.hwait = x.hwait) :
    LoneHead { s with queues := [x'] } p x' k info core where
  __ := h
  queues := rfl
  part := hp.trans h.part
  packets := hk.trans h.packets
  head := hh.trans h.head
  token := ht.trans h.token
  hwait := hw.trans h.hwait
  unwatched := by rw [hq]; exact h.unwatched

end

/-! ### Its place (R40) -/

/-- The lowest tracks of a core that hold a hart of a class. -/
def firstTracks (cls : Fin 6) : BitVec 4 := if cls.val ≤ 3 then 1 else if cls.val = 4 then 3 else 15

/-- On a free core the first candidate lies on its lowest tracks. -/
theorem candidates_free (cls : Fin 6) (core : Nat) :
    ∃ rest, candidates cls (fun _ => true) core = ⟨core, firstTracks cls, 0⟩ :: rest := by
  fin_cases cls <;> exact ⟨_, rfl⟩

theorem placeAll_one_free (cls : Fin 6) (core : Nat) (cores : List Nat) :
    placeAll cls (core :: cores) [] [none] = some [⟨core, firstTracks cls, 0⟩] := by
  obtain ⟨rest, hc⟩ := candidates_free cls core
  simp [placeAll, placeOne, hc]

theorem LoneHead.fitHead {s : State} {p : Fin 8} {x : LaunchQueue} {k : Packet} {info : HeadInfo} {core : Nat}
    (h : LoneHead s p x k info core) (hs : k.size = 1) :
    fitHead s p (Machine.takenFor s x (.packet k)) [] (.packet k) = some [⟨core, firstTracks (Fin.ofNat 6 k.cls), 0⟩] := by
  obtain ⟨cores, hc⟩ := h.first
  rw [h.takenFor]
  simp only [Machine.fitHead, hc, hs, List.replicate_one]
  exact placeAll_one_free _ core cores

/-! ### Its start (R10, R40, R375) -/

/-- In state t one gang is resident, of one hart, which the packet k of queue q started at a place. -/
structure Started (p : Fin 8) (q : Fin 64) (k : Packet) (info : HeadInfo) (place : Place) (quantum : Nat) (t : State) : Prop where
  gang : ∃ g, t.gangs = [g] ∧ g.part = p ∧ g.gangid = k.gangid ∧ g.mode = .resident ∧ g.queue = q
  hart : ∃ slot, t.harts = [Hart.launch p k info 0 place slot]
  packets : ∀ y ∈ t.queues, y.packets = []
  quantum : t.parts[p].schedQuantum = quantum

theorem Started.headless {p : Fin 8} {q : Fin 64} {k : Packet} {info : HeadInfo} {place : Place} {n : Nat} {t : State}
    (h : Started p q k info place n t) : t.headless := by
  obtain ⟨g, hg, -, -, hm, -⟩ := h.gang
  refine ⟨h.packets, ?_⟩
  simp [hg, hm]

theorem Started.modPart {p : Fin 8} {q : Fin 64} {k : Packet} {info : HeadInfo} {place : Place} {n : Nat} {t : State}
    (h : Started p q k info place n t) {f : Partition → Partition} (hf : (f t.parts[p]).schedQuantum = t.parts[p].schedQuantum) :
    Started p q k info place n (modPart t p f) where
  __ := h
  quantum := by rw [modPart_parts_self, hf, h.quantum]

section
variable {s : State} {p : Fin 8} {x : LaunchQueue} {k : Packet} {info : HeadInfo} {core : Nat} (h : LoneHead s p x k info core)
include h

/-- The packet leaves its queue; no head is left. -/
theorem LoneHead.clearHead : (clearHead s p x.q).gangs = [] ∧ (clearHead s p x.q).harts = [] ∧
    (∀ y ∈ (clearHead s p x.q).queues, y.packets = []) ∧ (clearHead s p x.q).parts[p].schedQuantum = s.parts[p].schedQuantum := by
  have hq : (putQueue (dropHeadWaits s p x.q) { x with
      packets := x.packets.tail, skip := 0, rsv := false, hwait := false, head := none, token := none }).queues =
      [{ x with packets := [], skip := 0, rsv := false, hwait := false, head := none, token := none }] := by
    simp [putQueue, dropHeadWaits, h.queues, h.packets]
  unfold Machine.clearHead
  dsimp only
  rw [h.queueAt_self]
  split
  · rw [State.headless.endReservation ⟨by simp [hq], by simp [dropHeadWaits, h.gangs]⟩, modPart_parts_self]
    refine ⟨by simp [Machine.modPart, dropHeadWaits, h.gangs], h.harts, ?_, rfl⟩
    intro y hy
    simp only [Machine.modPart, hq, List.map_cons, List.map_nil, List.mem_singleton] at hy
    subst hy
    split <;> rfl
  · exact ⟨h.gangs, h.harts, by simp [hq], rfl⟩

theorem LoneHead.startPacket (place : Place) : Started p x.q k info place s.parts[p].schedQuantum (startPacket s x k info [place]) := by
  have h' : LoneHead (Machine.modPart s p fun y => { y with startNo := s.parts[p].startNo + 1 }) p x k info core := h.modPart rfl rfl
  obtain ⟨hg, hh, hq, hp⟩ := h'.clearHead
  have hstart : Machine.startPacket s x k info [place] = addHarts p k info
      { Machine.clearHead (Machine.modPart s p fun y => { y with startNo := s.parts[p].startNo + 1 }) p x.q with
        gangs := (Machine.clearHead (Machine.modPart s p fun y => { y with startNo := s.parts[p].startNo + 1 }) p x.q).gangs ++
          [⟨false, p, k.gangid, x.q, k.prio, Fin.ofNat 6 k.cls, k.size, k.det, .resident, s.parts[p].startNo, 0, 0, 0, false⟩] }
      0 [place] := by
    simp only [Machine.startPacket, bumpStart, h.part]
  rw [hstart]
  generalize Machine.clearHead _ p x.q = c at hg hh hq hp
  have hacq := cacheAcquire_sameButLines
  simp only [addHarts]
  refine ⟨⟨_, ((hacq ..).gangs.trans (by rw [hg]; rfl)), rfl, rfl, rfl, rfl⟩, ⟨_, ((hacq ..).harts.trans (by rw [hh]; rfl))⟩, ?_, ?_⟩
  · rw [(hacq ..).queues]; exact hq
  · rw [(hacq ..).parts]; exact hp.trans (by rw [modPart_parts_self])

/-- The queue's turn at its level: its head starts, and none stands behind it. -/
theorem LoneHead.passQueue (hs : k.size = 1) (he : x.schedEn = true) (hd : 0 < x.deficit) {l : Fin 5} (hl : levelOf s x = l.val) (n : Nat) :
    Started p x.q k info ⟨core, firstTracks (Fin.ofNat 6 k.cls), 0⟩ s.parts[p].schedQuantum (passQueue p x.q l (n + 1) s) := by
  have hst := (h.startPacket ⟨core, firstTracks (Fin.ofNat 6 k.cls), 0⟩).modPart
    (f := fun y => { y with lastOfLevel := y.lastOfLevel.set l x.q }) rfl
  have hstep : Machine.passQueue p x.q l (n + 1) s = Machine.passQueue p x.q l n
      (Machine.modPart (Machine.startPacket s x k info [⟨core, firstTracks (Fin.ofNat 6 k.cls), 0⟩]) p
        fun y => { y with lastOfLevel := y.lastOfLevel.set l x.q }) := by
    simp only [Machine.passQueue, h.queueAt_self, h.headKind_self, hl, h.ready he, hd, h.fitHead hs, dirtyFenced_none h.recoveries,
      startHead, h.head]
    simp
  rw [hstep, passQueue_no_head (hst.headless.headKind_queueAt p x.q)]
  exact hst

end

/-! ### A round -/

theorem classLevel_lt (cls : Fin 4) (prio : Bool) : classLevel cls prio < 5 := by
  revert cls prio; decide

/-- Every queue has its turn. -/
theorem mem_roundRobin (last q : Fin 64) : q ∈ roundRobin last := by
  refine List.mem_map.2 ⟨(q.val + 63 - last.val) % 64, List.mem_range.2 (Nat.mod_lt _ (by decide)), Fin.ext ?_⟩
  simp only [Fin.ofNat]
  omega

section
variable {s : State} {p : Fin 8} {x : LaunchQueue} {k : Packet} {info : HeadInfo} {core : Nat} (h : LoneHead s p x k info core)
include h

theorem LoneHead.levelOf_lt : levelOf s x < 5 := by
  simp only [levelOf, h.headKind_self]; exact classLevel_lt ..

/-- At another level the queue is passed over. -/
theorem LoneHead.passLevel_other {l : Fin 5} (hl : levelOf s x ≠ l.val) : passLevel p s l = s := by
  refine List.foldl_fixed' (fun q => ?_) _
  by_cases hq : q = x.q
  · subst hq
    generalize s.gangs.length + (queueAt s p x.q).packets.length = n
    simp [Machine.passQueue, h.queueAt_self, h.headKind_self, hl]
  · exact passQueue_no_head (h.headKind_other hq) l _

theorem LoneHead.passLevel_own (hs : k.size = 1) (he : x.schedEn = true) (hd : 0 < x.deficit) {l : Fin 5} (hl : levelOf s x = l.val) :
    Started p x.q k info ⟨core, firstTracks (Fin.ofNat 6 k.cls), 0⟩ s.parts[p].schedQuantum (passLevel p s l) := by
  have hst := h.passQueue hs he hd hl (s.gangs.length + (queueAt s p x.q).packets.length)
  have hfold : Machine.passLevel p s l = Machine.passQueue p x.q l (s.gangs.length + (queueAt s p x.q).packets.length + 1) s :=
    foldl_moved_once (mem_roundRobin _ x.q) (fun q hq => passQueue_no_head (h.headKind_other hq) l _) rfl
      (fun q => passQueue_no_head (hst.headless.headKind_queueAt p q) l _)
  rw [hfold]; exact hst

/-- A pass starts the head. -/
theorem LoneHead.pass (hs : k.size = 1) (he : x.schedEn = true) (hd : 0 < x.deficit) (hrun : starterRuns s = true) :
    Started p x.q k info ⟨core, firstTracks (Fin.ofNat 6 k.cls), 0⟩ s.parts[p].schedQuantum (pass s p) := by
  have h' : LoneHead (Machine.modPart s p fun y => { y with passDue := false }) p x k info core := h.modPart rfl rfl
  have hst := h'.passLevel_own hs he hd (l := ⟨_, h'.levelOf_lt⟩) rfl
  rw [modPart_parts_self] at hst
  have hfold : (List.finRange 5).foldl (Machine.passLevel p) (Machine.modPart s p fun y => { y with passDue := false }) =
      Machine.passLevel p (Machine.modPart s p fun y => { y with passDue := false }) ⟨_, h'.levelOf_lt⟩ :=
    foldl_moved_once (List.mem_finRange _) (fun l hl => h'.passLevel_other fun e => hl (Fin.ext e.symm)) rfl
      (fun l => hst.headless.passLevel p l)
  have hrun' : starterRuns (Machine.modPart s p fun y => { y with passDue := false }) = true := hrun
  simp only [Machine.pass, hrun', if_true, hfold, hst.headless.preemptPass]
  exact hst

end

/-- The credit of a round makes the deficit of a queue with a ready head positive. -/
theorem creditQueue_deficit_pos {s : State} {n : Nat} {x : LaunchQueue} (hr : headReady s x = true) (hn : 0 < n)
    (hw : 0 < x.schedWeight) (hd : 0 ≤ x.deficit) : 0 < (creditQueue s n x).deficit := by
  have hcap : (0 : Int) < x.schedWeight * 8 * n := by positivity
  simp only [creditQueue, hr, Bool.or_true, if_true]
  omega

/-- A queue with the registers that were last written to it in force. -/
def LaunchQueue.inForce (x : LaunchQueue) : LaunchQueue :=
  { x with schedEn := x.en, schedCls := x.cls, schedWeight := x.weight, schedDline := x.dline }

/-- The registers of a partition and its queues come into force, and its round begins (R370). -/
def roundBegins (s : State) (p : Fin 8) : State :=
  let s := modPart s p fun y => { y with sinceRound := y.sinceRound - y.schedQuantum, schedQuantum := y.quantum }
  { s with queues := s.queues.map fun x => if x.part == p then x.inForce else x }

/-- The deficits of a partition's queues are credited (R379). -/
def roundCredits (s : State) (p : Fin 8) : State :=
  { s with queues := s.queues.map fun x => if x.part == p then creditQueue s s.parts[p].schedQuantum x else x }

/-- Before QUANTUM cycles have passed a round does nothing. -/
theorem starterRound_early {s : State} {p : Fin 8} (h : s.parts[p].sinceRound < s.parts[p].schedQuantum) : starterRound s p = .next s := by
  simp only [starterRound, h, if_true]

/-- A round that is due, where no wait word is to be read again: the registers come into force, the deficits are credited, and a pass
runs (R379). -/
theorem starterRound_due {s : State} {p : Fin 8} (h : s.parts[p].schedQuantum ≤ s.parts[p].sinceRound)
    (hw : ∀ q, waitRecheck (roundBegins s p) p q = .next (roundBegins s p)) :
    starterRound s p = .next (pass (roundCredits (roundBegins s p) p) p) := by
  have hrecheck : (List.finRange 64).foldl (fun (o : Out) q => match o with
      | .next s => waitRecheck s p q
      | _ => o) (.next (roundBegins s p)) = .next (roundBegins s p) := List.foldl_fixed' (fun q => hw q) _
  unfold starterRound
  dsimp only
  rw [if_neg (Nat.not_lt.2 h)]
  split
  · next t ht =>
    cases (hrecheck.symm.trans ht : Host.Outcome.next (roundBegins s p) = .next t)
    rfl
  · next hne => exact absurd hrecheck (hne _)

/-- A round that is due starts the head, under the registers as they were last written (R370). -/
theorem LoneHead.starterRound {s : State} {p : Fin 8} {x : LaunchQueue} {k : Packet} {info : HeadInfo} {core : Nat}
    (h : LoneHead s p x k info core) (hdue : s.parts[p].schedQuantum ≤ s.parts[p].sinceRound) (hq : 0 < s.parts[p].quantum)
    (hrun : starterRuns s = true) (hs : k.size = 1) (hw : k.wcmp = 0) (he : x.en = true) (hwt : 0 < x.weight) (hd : 0 ≤ x.deficit) :
    ∃ t, starterRound s p = .next t ∧
      Started p x.q k info ⟨core, firstTracks (Fin.ofNat 6 k.cls), 0⟩ s.parts[p].quantum t := by
  have hqueues : (roundBegins s p).queues = [x.inForce] := by simp [roundBegins, Machine.modPart, h.queues, h.part]
  have hquantum : (roundBegins s p).parts[p].schedQuantum = s.parts[p].quantum := by
    simp only [roundBegins, modPart_parts_self]
  have hbegun : LoneHead (roundBegins s p) p x.inForce k info core := by
    have := (h.modPart (f := fun y => { y with sinceRound := y.sinceRound - y.schedQuantum, schedQuantum := y.quantum }) rfl rfl).withQueue
      (x' := x.inForce) rfl rfl rfl rfl rfl rfl
    rwa [← hqueues] at this
  have hcredited := hbegun.withQueue (x' := creditQueue (roundBegins s p) (roundBegins s p).parts[p].schedQuantum x.inForce)
    rfl rfl rfl rfl rfl rfl
  have hpos := creditQueue_deficit_pos (hbegun.ready he) (hquantum ▸ hq) hwt hd
  refine ⟨_, starterRound_due hdue (hbegun.waitRecheck hw), ?_⟩
  rw [roundCredits, hqueues, List.map_singleton, if_pos (beq_iff_eq.2 hbegun.part), ← hquantum]
  exact hcredited.pass hs he hpos hrun

/-- A thread at its entry (R10): the arguments in registers 1 to 8, COUNT in register 9, 0 in every other. -/
theorem regGet_launch (entry : Word) (args : List Word) (count : Nat) (r : Fin 32) :
    regGet (ThreadState.launch entry args count).regs r =
      if 1 ≤ r.val ∧ r.val ≤ 8 then args.getD (r.val - 1) 0 else if r.val = 9 then BitVec.ofNat 64 count else 0 := by
  by_cases hr : r = 0
  · subst hr; rfl
  · simp [regGet, hr, ThreadState.launch]

/-- Settles O45: the registers come into force and are credited, one level's pass starts the head, and no queue holds another. -/
theorem gangStarts : Obligations.GangStarts := by
  intro s p
  refine ⟨starterRound_early, ?_⟩
  intro x k info core cores hdue hq hheld hfatal hrunning hrecov hrecs hqueues hpart hpackets hhead htoken hhwait hen hwt hd hgangs hharts
    hwatch hwcmp hcls hsize hcores
  have hlone : LoneHead s p x k info core :=
    ⟨hqueues, hpart, hpackets, hhead, htoken, hhwait, hgangs, hharts, hwatch, hheld, hrecs, cores, hcores⟩
  have hrun : starterRuns s = true := by simp [starterRuns, hfatal, hrunning, hrecov]
  obtain ⟨t, ht, hst⟩ := hlone.starterRound hdue hq hrun hsize hwcmp hen hwt hd
  obtain ⟨g, hg, hgpart, hgid, hgmode, hgqueue⟩ := hst.gang
  obtain ⟨slot, hh⟩ := hst.hart
  have hmod : (Fin.ofNat 6 k.cls).val = k.cls := Nat.mod_eq_of_lt hcls
  refine ⟨t, g, _, ht, hg, hh, hgpart, hgid, hgmode, hgqueue, hst.packets, hst.quantum, rfl, rfl, rfl, hsize, hmod, rfl, rfl, ?_, rfl, rfl,
    rfl, rfl, ?_⟩
  · simp only [Hart.launch, firstTracks, hmod]
  · rintro (_ | _) r <;> exact regGet_launch ..

end Sys2Proof.Machine
end

section
/-! PROOFS. Vector loads (R11, R237 to R241): what going to the caches leaves of the state, the elements that a load puts in flight,
and its delivery (R15, R239, R245). -/
namespace Sys2Proof.Machine

open Sys2Proof

/-! ### States that differ in their caches -/

/-- t is s but for what the far caches hold. -/
abbrev State.sameButFar (s t : State) : Prop := { t with farCache := s.farCache } = s

/-- t is s but for what the caches of data and of translations hold, and for the counts of near-bank conflicts. -/
abbrev State.sameButCaches (s t : State) : Prop :=
  { t with tlb := s.tlb, walkCache := s.walkCache, nbconf := s.nbconf, farCache := s.farCache } = s

theorem State.sameButFar.refl (s : State) : s.sameButFar s := rfl

theorem State.sameButFar.trans {s t u : State} (hst : s.sameButFar t) (htu : t.sameButFar u) : s.sameButFar u :=
  (congrArg (fun x : State => { x with farCache := s.farCache }) htu).trans hst

theorem State.sameButCaches.refl (s : State) : s.sameButCaches s := rfl

theorem State.sameButCaches.trans {s t u : State} (hst : s.sameButCaches t) (htu : t.sameButCaches u) : s.sameButCaches u :=
  (congrArg (fun x : State =>
    { x with tlb := s.tlb, walkCache := s.walkCache, nbconf := s.nbconf, farCache := s.farCache }) htu).trans hst

theorem State.sameButFar.caches {s t : State} (h : s.sameButFar t) : s.sameButCaches t :=
  (congrArg (fun x : State => { x with tlb := s.tlb, walkCache := s.walkCache, nbconf := s.nbconf }) h :)

section
variable {s t : State} (h : s.sameButCaches t)
include h
theorem State.sameButCaches.mem : t.mem = s.mem := (congrArg State.mem h :)
theorem State.sameButCaches.harts : t.harts = s.harts := (congrArg State.harts h :)
theorem State.sameButCaches.poison : t.poison = s.poison := (congrArg State.poison h :)
theorem State.sameButCaches.earlier : t.earlier = s.earlier := (congrArg State.earlier h :)
theorem State.sameButCaches.mgmt : t.mgmt = s.mgmt := (congrArg State.mgmt h :)
theorem State.sameButCaches.cur : t.cur = s.cur := (congrArg State.cur h :)
end

/-- What an address reaches does not depend on the far caches. -/
theorem translate_sameButFar {s t : State} (h : s.sameButFar t) (core : Nat) (p : Fin 8) (va : Word) (k : AccessKind) (peer : Bool) :
    translate t core p va k peer = translate s core p va k peer := by
  have : translate t core p va k peer = translate { t with farCache := s.farCache } core p va k peer := rfl
  rw [this, h]

theorem noteTlb_sameButCaches (s : State) (core : Nat) (p : Fin 8) (va : Word) : s.sameButCaches (noteTlb s core p va) := by
  unfold noteTlb; dsimp only; repeat' split
  all_goals rfl

theorem noteAll_sameButCaches (s : State) (h : Hart) (ts : List Touch) : s.sameButCaches (noteAll s h ts) :=
  foldl_related State.sameButCaches.refl (fun _ _ _ => State.sameButCaches.trans) (fun s _ => noteTlb_sameButCaches s ..) ts s

theorem addConflicts_sameButCaches (s : State) (es : List (Nat × Nat)) : s.sameButCaches (addConflicts s es) := by
  unfold addConflicts
  refine foldl_related State.sameButCaches.refl (fun _ _ _ => State.sameButCaches.trans) (fun s g => ?_) _ s
  refine foldl_related State.sameButCaches.refl (fun _ _ _ => State.sameButCaches.trans) (fun s core => ?_) _ s
  rfl

/-! ### A hart without stores on their way -/

/-- Modifying an element that is there sets it. -/
theorem modify_of_getElem? {α : Type} {l : List α} {i : Nat} {a : α} (h : l[i]? = some a) (f : α → α) : l.modify i f = l.set i (f a) := by
  rw [List.modify_eq_set_getElem?, h]; rfl

theorem drainStores_none {s : State} {i : Nat} {h : Hart} (hi : s.harts[i]? = some h) (hs : h.pacer.stores = []) (p : StoreFlight → Bool) :
    drainStores s i p = s := by
  have hfix : ({ h with pacer := { h.pacer with stores := h.pacer.stores.filter (!p ·) } } : Hart) = h := by
    have : h.pacer.stores.filter (!p ·) = h.pacer.stores := by rw [hs]; rfl
    rw [this]
  have hset : s.harts.modify i (fun h => { h with pacer := { h.pacer with stores := h.pacer.stores.filter (!p ·) } }) = s.harts := by
    obtain ⟨hlt, hget⟩ := List.getElem?_eq_some_iff.1 hi
    rw [modify_of_getElem? hi, hfix, ← hget, List.set_getElem_self hlt]
  unfold drainStores
  simp only [hi, hs, List.filter_nil, List.foldl_nil, modPacer, modHart, hset]

theorem settleTouches_none {s : State} {i : Nat} {h : Hart} (hi : s.harts[i]? = some h) (hs : h.pacer.stores = []) (n : Nat)
    (ts : List (Touch × Nat × Bool)) : settleTouches s i n ts = s :=
  List.foldl_fixed' (fun _ => drainStores_none hi hs _) ts

/-! ### Reads of pages that are not cached -/

/-- A read of a page that is not cached gives what stands at the home. -/
theorem dieRead_uncached (s : State) (die loc n : Nat) :
    (dieRead s die loc n false).2 = homeRead s loc n ∧ s.sameButFar (dieRead s die loc n false).1 := by
  unfold dieRead
  split <;> exact ⟨rfl, rfl⟩

/-- A settled item has no earlier value that a vector load may still take. -/
theorem vectorRead_settled {s : State} {i loc n : Nat} (hn : 0 < n) (h : s.settled i loc n) (die : Nat) (cached : Bool) :
    vectorRead s i die loc n cached = dieRead s die loc n cached := by
  have hnone : earlierWords s i loc cached = [] := by
    simp only [earlierWords, List.filter_eq_nil_iff, Bool.and_eq_true, beq_iff_eq, not_and]
    rintro w hw ⟨hi, hword⟩
    have := h w hw hi
    omega
  simp [vectorRead, pickEarlier, hnone]

/-! ### Masks -/

theorem testBit_sub_two_pow {m e : Nat} (h : m.testBit e = true) (k : Nat) :
    (m - 2 ^ e).testBit k = (m.testBit k && decide (k ≠ e)) := by
  have hle := Nat.ge_two_pow_of_testBit h
  induction e generalizing m k with
  | zero =>
    rw [Nat.testBit_zero, decide_eq_true_eq] at h
    cases k with
    | zero => simp [Nat.testBit_zero]; omega
    | succ k =>
      have : (m - 2 ^ 0) / 2 = m / 2 := by omega
      rw [Nat.testBit_succ, this, Nat.testBit_succ]
      simp
  | succ e ih =>
    rw [Nat.testBit_succ] at h
    have hhalf : (m - 2 ^ (e + 1)) / 2 = m / 2 - 2 ^ e := by omega
    cases k with
    | zero => simp [Nat.testBit_zero]; omega
    | succ k =>
      rw [Nat.testBit_succ, hhalf, ih h k (Nat.ge_two_pow_of_testBit h), Nat.testBit_succ]
      simp

/-- One bit of a mask replaced. -/
theorem testBit_replaced (m e : Nat) (b : Bool) (k : Nat) :
    (if b then m ||| 2 ^ e else if m.testBit e then m - 2 ^ e else m).testBit k = if k = e then b else m.testBit k := by
  by_cases hk : k = e
  · subst hk
    cases b
    · by_cases hm : m.testBit k = true
      · simp [hm, testBit_sub_two_pow hm]
      · simp [hm]
    · simp
  · cases b
    · by_cases hm : m.testBit e = true
      · simp [hm, testBit_sub_two_pow hm, hk]
      · simp [hm, hk]
    · simp [hk, Nat.testBit_two_pow_of_ne (Ne.symm hk)]

/-- A patched mask: its bits in the range are the new ones, the others stay. -/
theorem testBit_maskPatch (old lo hi : Nat) (f : Nat → Bool) (e : Nat) :
    (maskPatch old lo hi f).testBit e = if lo ≤ e ∧ e < hi then f e else old.testBit e := by
  have hfold : ∀ n, ((List.range n).foldl (fun m i =>
      if f (lo + i) then m ||| 2 ^ (lo + i) else if m.testBit (lo + i) then m - 2 ^ (lo + i) else m) old).testBit e =
      if lo ≤ e ∧ e < lo + n then f e else old.testBit e := by
    intro n
    induction n with
    | zero => simp
    | succ n ih =>
      rw [List.range_succ, List.foldl_append, List.foldl_cons, List.foldl_nil, testBit_replaced, ih]
      by_cases h : e = lo + n
      · simp [h]
      · have : (lo ≤ e ∧ e < lo + n) ↔ (lo ≤ e ∧ e < lo + (n + 1)) := by omega
        simp only [h, if_false, this]
  have hiff : (lo ≤ e ∧ e < lo + (hi - lo)) ↔ (lo ≤ e ∧ e < hi) := by omega
  have := hfold (hi - lo)
  simp only [hiff] at this
  exact this

/-! ### Active elements -/

theorem actives_pacerMask (h : Hart) (sel : MaskSel) :
    actives h.pacer.th.vstart.toNat h.pacer.th.vl.toNat (pacerMask h sel) =
      (List.range h.pacer.th.vl.toNat).filter fun e => h.pacerActive sel e := by
  refine List.filter_congr fun e he => ?_
  have hlt := List.mem_range.1 he
  cases sel with
  | none => simp [Hart.pacerActive, pacerMask, maskOnes, maskBits, mvlOf, hlt, Nat.testBit_two_pow_sub_one]
  | some m => simp [Hart.pacerActive, pacerMask, hlt]

theorem pacerActive_lt {h : Hart} {sel : MaskSel} {e : Nat} (ha : h.pacerActive sel e = true) : e < h.pacer.th.vl.toNat := by
  simp only [Hart.pacerActive, Bool.and_eq_true, decide_eq_true_eq] at ha
  exact ha.1.2

/-- The active elements below a bound. -/
abbrev Hart.activesBelow (h : Hart) (sel : MaskSel) (n : Nat) : List Nat := (List.range n).filter fun e => h.pacerActive sel e

/-- Each listed element from its source, every other one 0 of the type. -/
theorem fillElems_map (ty : ElemType) (acts : List Nat) (src : Nat → ElemSource) (n : Nat) :
    fillElems ty (acts.map fun e => (e, src e)) n = (List.range n).map fun e => if e ∈ acts then src e else .value (zeroOf ty) := by
  refine List.map_congr_left fun e _ => ?_
  induction acts with
  | nil => rfl
  | cons a as ih =>
    by_cases h : a = e
    · subst h; simp
    · simpa [h, Ne.symm h] using ih

/-! ### Probes (R238) -/

section
variable {s : State} {h : Hart} {k : AccessKind} {ts : List Touch} {at' : Touch → Nat × Bool}
  (hok : ∀ t ∈ ts, translate s h.core h.part t.va k false = .ok (at' t))
include hok

theorem probeAll_ok : probeAll s h k ts = ts.map fun t => (t, .ok (at' t)) :=
  List.map_congr_left fun t ht => by rw [hok t ht]

theorem probed_ok : probed (probeAll s h k ts) = ts.map fun t => (t, at' t) := by
  rw [probeAll_ok hok]
  simp [probed, List.filterMap_map, List.filterMap_eq_map']

theorem probeEnd_ok (i : Nat) (d : BitVec 8) : probeEnd s i h d k (probeAll s h k ts) = .clear := by
  rw [probeEnd, probeAll_ok hok]
  simp [List.filterMap_map]

theorem withProbe_ok (i : Nat) (d : BitVec 8) (mark : State → State) (go : State → List (Touch × Nat × Bool) → Out) :
    withProbe s i h d k mark ts go = go (noteAll s h ts) (ts.map fun t => (t, at' t)) := by
  unfold withProbe
  simp only [probeEnd_ok hok, probed_ok hok]

end

theorem misaligned_none {ts : List Touch} {n : Nat} (h : ∀ t ∈ ts, t.va.toNat % n = 0) : misaligned ts n = none := by
  have : ts.find? (fun t => t.va.toNat % n != 0) = none := by
    simp only [List.find?_eq_none, bne_iff_ne, not_not]; exact h
  simp [misaligned, this]

/-! ### Issuing a load (R134, R239) -/

/-- A load takes the earlier values of words that it may, and perhaps drops those that it may not take any more. -/
abbrev State.afterIssue (s t : State) : Prop := { t with earlier := s.earlier, free := s.free } = s ∧ ∀ w ∈ t.earlier, w ∈ s.earlier

theorem State.mayIssue_mono {s t : State} (h : ∀ w ∈ t.earlier, w ∈ s.earlier) {i : Nat} {ty : ElemType} {a x : ElemSource}
    (hx : t.mayIssue i ty a x) : s.mayIssue i ty a x :=
  hx.imp_right fun ⟨w, hw, hrest⟩ => ⟨w, h w hw, hrest⟩

theorem pickEarlier_afterIssue (s : State) (i loc : Nat) (cached : Bool) : s.afterIssue (pickEarlier s i loc cached).1 := by
  unfold pickEarlier
  dsimp only
  split
  · exact ⟨rfl, fun _ h => h⟩
  · refine ⟨rfl, fun w hw => ?_⟩
    rcases List.mem_append.1 hw with hw | hw
    · exact List.mem_of_mem_filter hw
    · exact List.mem_of_mem_filter (List.mem_of_mem_drop hw)

/-- What is picked is an earlier value of the word, of the hart. -/
theorem pickEarlier_some {s : State} {i loc : Nat} {cached : Bool} {w : EarlierWord} (h : (pickEarlier s i loc cached).2 = some w) :
    w ∈ s.earlier ∧ w.hart = i ∧ w.word = loc / 8 ∧ (cached = false → w.copy = false) := by
  have hmem : w ∈ earlierWords s i loc cached := by
    unfold pickEarlier at h
    dsimp only at h
    split at h
    · cases h
    · exact List.mem_of_getElem? h
  simp only [earlierWords, List.mem_filter, Bool.and_eq_true, beq_iff_eq, Bool.or_eq_true, Bool.not_eq_true'] at hmem
  obtain ⟨hw, ⟨hi, hword⟩, hcopy⟩ := hmem
  exact ⟨hw, hi, hword, fun hc => hcopy.resolve_left (by simp [hc])⟩

theorem issueElem_spec (i : Nat) (ty : ElemType) (s : State) (e : ElemSource) :
    s.afterIssue (issueElem i ty s e).1 ∧ s.mayIssue i ty e (issueElem i ty s e).2 := by
  cases e with
  | value w => exact ⟨⟨rfl, fun _ h => h⟩, .inl rfl⟩
  | poison => exact ⟨⟨rfl, fun _ h => h⟩, .inl rfl⟩
  | bytes loc cached =>
    have hst := pickEarlier_afterIssue s i loc cached
    have hpick := @pickEarlier_some s i loc cached
    simp only [issueElem]
    generalize pickEarlier s i loc cached = r at hst hpick
    obtain ⟨t, _ | w⟩ := r
    · exact ⟨hst, .inl rfl⟩
    · obtain ⟨hw, hi, hword, hcopy⟩ := hpick rfl
      exact ⟨hst, .inr ⟨w, hw, hi, hword, hcopy, rfl⟩⟩
  | nibble loc high cached =>
    have hst := pickEarlier_afterIssue s i loc cached
    have hpick := @pickEarlier_some s i loc cached
    simp only [issueElem]
    generalize pickEarlier s i loc cached = r at hst hpick
    obtain ⟨t, _ | w⟩ := r
    · exact ⟨hst, .inl rfl⟩
    · obtain ⟨hw, hi, hword, hcopy⟩ := hpick rfl
      exact ⟨hst, .inr ⟨w, hw, hi, hword, hcopy, rfl⟩⟩

theorem State.afterIssue.trans {s t u : State} (hst : s.afterIssue t) (htu : t.afterIssue u) : s.afterIssue u :=
  ⟨(congrArg (fun x : State => { x with earlier := s.earlier, free := s.free }) htu.1).trans hst.1, fun w hw => hst.2 w (htu.2 w hw)⟩

theorem State.issues_cons {s : State} {i : Nat} {ty : ElemType} {a x : ElemSource} {as xs : List ElemSource} (h : s.mayIssue i ty a x)
    (hs : s.issues i ty as xs) : s.issues i ty (a :: as) (x :: xs) := by
  refine ⟨by simp [hs.1], fun k b y hb hy => ?_⟩
  cases k with
  | zero => cases hb; cases hy; exact h
  | succ k => exact hs.2 k b y hb hy

theorem issueElems_spec (i : Nat) (ty : ElemType) (s : State) (es : List ElemSource) :
    s.afterIssue (issueElems i ty s es).1 ∧ s.issues i ty es (issueElems i ty s es).2 := by
  induction es generalizing s with
  | nil => exact ⟨⟨rfl, fun _ h => h⟩, rfl, fun k a x ha => by simp at ha⟩
  | cons e es ih =>
    obtain ⟨hst, hmay⟩ := issueElem_spec i ty s e
    obtain ⟨htu, hlen, hall⟩ := ih (issueElem i ty s e).1
    exact ⟨hst.trans htu, State.issues_cons hmay ⟨hlen, fun k a x ha hx => State.mayIssue_mono hst.2 (hall k a x ha hx)⟩⟩

/-- A load of elements has been issued by the hart that executes: what the statements say of it. -/
def State.issuesLoad (s : State) (h : Hart) (q : Fin 4) (ty : ElemType) (srcs : List ElemSource) (o : Out) : Prop :=
  ∃ (t : State) (xs : List ElemSource), o = .next t ∧ t.mem = s.mem ∧
    t.harts = s.harts.set s.cur.hart (h.afterLoad ⟨q, ty, xs⟩ false) ∧ s.issues s.cur.hart ty srcs xs

theorem issueLoad_issues {s : State} {h : Hart} (hr : s.harts[s.cur.hart]? = some h) (q : Fin 4) (ty : ElemType) (srcs : List ElemSource) :
    s.issuesLoad h q ty srcs (.next (issueLoad true s s.cur.hart ⟨q, ty, srcs⟩ false)) := by
  obtain ⟨hst, hiss⟩ := issueElems_spec s.cur.hart ty s srcs
  have hharts : (issueElems s.cur.hart ty s srcs).1.harts = s.harts := (congrArg State.harts hst.1 :)
  have hmem : (issueElems s.cur.hart ty s srcs).1.mem = s.mem := (congrArg State.mem hst.1 :)
  refine ⟨_, _, rfl, hmem, ?_, hiss⟩
  simp only [issueLoad, modHart_harts, hharts]
  rw [modify_of_getElem? hr]
  rfl

/-- A load issued once the caches have been used is one issued before. -/
theorem State.issuesLoad_of_caches {s t : State} (hst : s.sameButCaches t) {h : Hart} {q : Fin 4} {ty : ElemType} {srcs : List ElemSource}
    {o : Out} (ho : t.issuesLoad h q ty srcs o) : s.issuesLoad h q ty srcs o := by
  obtain ⟨u, xs, rfl, hmem, hharts, hlen, hiss⟩ := ho
  rw [hst.cur] at hharts hiss
  refine ⟨u, xs, rfl, hmem.trans hst.mem, hharts.trans (by rw [hst.harts]), hlen, fun k a x ha hx => ?_⟩
  exact State.mayIssue_mono (fun w hw => hst.earlier ▸ hw) (hiss k a x ha hx)

/-! ### Element loads (R237, R239) -/

/-- Neither `VREL`, nor the capacity, nor the type, nor a full queue keeps a load from its addresses (R18, R44, R49, R237). -/
theorem loadGate_open {s : State} {i : Nat} {h : Hart} {w : WaitingLoad} {q : Fin 4} {qn4Ok : Bool} (go : Out) (hv : h.pacer.th.vrel = false)
    (hc : w.vl ≤ capacity h.cls w.ty) (ht : w.ty ≠ .qn4 ∨ qn4Ok = true) (hs : slipCount h q < h.pacer.slip.toNat) :
    loadGate true s i h w q qn4Ok go = go := by
  have hqn4 : (w.ty == .qn4 && !qn4Ok) = false := by
    rcases ht with ht | ht <;> simp [ht]
  have hslip : slipFull h q = false := by simp [slipFull, hs]
  simp [loadGate, hv, Nat.not_lt.2 hc, hqn4, hslip]

/-- The elements of a load that moves some elements, each from its place. -/
abbrev placedElems (h : Hart) (sel : MaskSel) (ty : ElemType) (n : Nat) (at' : Nat → Nat × Bool) : List ElemSource :=
  (List.range n).map fun e =>
    if h.pacerActive sel e = true then sourceOf ty ⟨e, 0⟩ (at' e).1 (at' e).2 else .value (zeroOf ty)

theorem fillElems_active (h : Hart) (sel : MaskSel) (ty : ElemType) (n : Nat) (at' : Nat → Nat × Bool) :
    fillElems ty ((h.activesBelow sel n).map fun e => (e, sourceOf ty ⟨e, 0⟩ (at' e).1 (at' e).2)) n = placedElems h sel ty n at' := by
  rw [fillElems_map ty _ fun e => sourceOf ty ⟨e, 0⟩ (at' e).1 (at' e).2]
  refine List.map_congr_left fun e he => ?_
  simp only [List.mem_filter, he, true_and]

/-- A load none of whose elements is active moves nothing (R239). -/
theorem placedElems_none {h : Hart} {sel : MaskSel} {ty : ElemType} {n : Nat} {at' : Nat → Nat × Bool} (hn : h.activesBelow sel n = []) :
    placedElems h sel ty n at' = List.replicate n (.value (zeroOf ty)) := by
  have hno : ∀ e ∈ List.range n, ¬ h.pacerActive sel e = true := by simpa [List.filter_eq_nil_iff] using hn
  rw [List.eq_replicate_iff]
  refine ⟨by simp, fun x hx => ?_⟩
  obtain ⟨e, he, rfl⟩ := List.mem_map.1 hx
  exact if_neg (hno e he)

/-- The touches of the active elements at their addresses. -/
abbrev Hart.touches (h : Hart) (sel : MaskSel) (n : Nat) (va : Nat → Word) : List Touch := (h.activesBelow sel n).map fun e => ⟨e, va e⟩

/-- Touches with what their translations gave. -/
abbrev located (at' : Nat → Nat × Bool) (ts : List Touch) : List (Touch × Nat × Bool) := ts.map fun t => (t, at' t.elem)

/-- Once the pages of the active elements are there, the elements are on their way, each from its place. -/
theorem issueTouched_issues {s : State} {h : Hart} (q : Fin 4) (ty : ElemType) (sel : MaskSel) (n a : Nat) (va : Nat → Word)
    (at' : Nat → Nat × Bool) (hr : s.harts[s.cur.hart]? = some h) (hst : h.pacer.stores = []) :
    s.issuesLoad h q ty (placedElems h sel ty n at') (.next (issueLoad true
      (addConflicts (settleTouches (noteAll s h (h.touches sel n va)) s.cur.hart a (located at' (h.touches sel n va)))
        ((located at' (h.touches sel n va)).map fun l => (l.1.elem, l.2.1)))
      s.cur.hart
      ⟨q, ty, fillElems ty ((located at' (h.touches sel n va)).map fun l => (l.1.elem, sourceOf ty l.1 l.2.1 l.2.2)) n⟩ false)) := by
  have hnote := noteAll_sameButCaches s h (h.touches sel n va)
  have hsrc : (located at' (h.touches sel n va)).map (fun l => (l.1.elem, sourceOf ty l.1 l.2.1 l.2.2)) =
      (h.activesBelow sel n).map fun e => (e, sourceOf ty ⟨e, 0⟩ (at' e).1 (at' e).2) := by
    simp only [List.map_map]; rfl
  rw [settleTouches_none (by rw [hnote.harts]; exact hr) hst, hsrc, fillElems_active]
  have hcaches := hnote.trans (addConflicts_sameButCaches _ ((located at' (h.touches sel n va)).map fun l => (l.1.elem, l.2.1)))
  refine State.issuesLoad_of_caches hcaches ?_
  rw [← hcaches.cur]
  exact issueLoad_issues (by rw [hcaches.harts, hcaches.cur]; exact hr) ..

/-- The elements whose addresses are aligned and whose pages are there are on their way. -/
theorem loadAt_issues {s : State} {h : Hart} {w : WaitingLoad} (q : Fin 4) {sh : VShapeOf} (sel : MaskSel) {idx : Nat → Nat}
    {at' : Nat → Nat × Bool} (hr : s.harts[s.cur.hart]? = some h) (hst : h.pacer.stores = [])
    (hok : ∀ e ∈ h.activesBelow sel w.vl, (elemVa sh w.ty w.base w.stride e (idx e)).toNat % elemAlign w.ty = 0 ∧
      translate s h.core h.part (elemVa sh w.ty w.base w.stride e (idx e)) .load false = .ok (at' e)) :
    s.issuesLoad h q w.ty (placedElems h sel w.ty w.vl at')
      (loadAt true s s.cur.hart h w q sh ((h.activesBelow sel w.vl).map fun e => (e, some (idx e)))) := by
  have hts : ((h.activesBelow sel w.vl).map fun e => (e, some (idx e))).filterMap
      (fun x => x.2.map fun idx => (⟨x.1, elemVa sh w.ty w.base w.stride x.1 idx⟩ : Touch)) =
      h.touches sel w.vl fun e => elemVa sh w.ty w.base w.stride e (idx e) := by
    simp [List.filterMap_map]
  have hbad : ((h.activesBelow sel w.vl).map fun e => (e, some (idx e))).filterMap
      (fun x => if x.2.isNone then some (x.1, ElemSource.poison) else none) = [] := by
    simp [List.filterMap_map]
  have hok' : ∀ t ∈ h.touches sel w.vl fun e => elemVa sh w.ty w.base w.stride e (idx e), t.va.toNat % elemAlign w.ty = 0 ∧
      translate s h.core h.part t.va .load false = .ok (at' t.elem) := fun t ht => by
    obtain ⟨e, he, rfl⟩ := List.mem_map.1 ht; exact hok e he
  unfold loadAt
  simp only [hts, hbad, misaligned_none fun t ht => (hok' t ht).1, withProbe_ok fun t ht => (hok' t ht).2, List.append_nil]
  exact issueTouched_issues q w.ty sel w.vl _ _ at' hr hst

/-- Hart h can issue a vector load w to queue q under a selector: it holds its grant and captured its count and mask, no store of it is on
its way, the count fits the type, and `slip` leaves room (R18, R44, R49). -/
structure LoadReady (s : State) (h : Hart) (q : Fin 4) (sel : MaskSel) (w : WaitingLoad) : Prop where
  hart : s.harts[s.cur.hart]? = some h
  noStores : h.pacer.stores = []
  holds : h.pacer.th.vrel = false
  vl : w.vl = h.pacer.th.vl.toNat
  mask : w.mask = pacerMask h sel
  fits : w.vl ≤ capacity h.cls w.ty
  room : slipCount h q < h.pacer.slip.toNat

section
variable {s : State} {h : Hart} {q : Fin 4} {sel : MaskSel} {w : WaitingLoad} (hl : LoadReady s h q sel w)
include hl

theorem LoadReady.gate {qn4Ok : Bool} (ht : w.ty ≠ .qn4 ∨ qn4Ok = true) (go : Out) : loadGate true s s.cur.hart h w q qn4Ok go = go :=
  loadGate_open go hl.holds hl.fits ht hl.room

theorem LoadReady.actives : actives h.pacer.th.vstart.toNat w.vl w.mask = h.activesBelow sel w.vl := by
  rw [hl.vl, hl.mask]; exact actives_pacerMask h sel

/-- A load of a type that its form does not move is a type mismatch (R237). -/
theorem LoadReady.mismatch (ht : w.ty = .qn4) (go : Out) :
    loadGate true s s.cur.hart h w q false go = .next (trapAt s s.cur.hart h .pacer 0x02 0) := by
  have hfits := Nat.not_lt.2 hl.fits
  rw [ht] at hfits
  simp [loadGate, hl.holds, hfits, ht, trapHere]

/-- QN4 is not moved by a strided load. -/
theorem LoadReady.strided_mismatch (ht : w.ty = .qn4) :
    elementLoad true s s.cur.hart h w q sel .strided = .next (trapAt s s.cur.hart h .pacer 0x02 0) := by
  unfold elementLoad
  simp only [bne_self_eq_false, Bool.and_false, Bool.false_and]
  exact hl.mismatch ht _

/-- QN4 is not moved under a mask. -/
theorem LoadReady.masked_mismatch (ht : w.ty = .qn4) (hm : sel.isNone = false) (sh : VShapeOf) :
    elementLoad true s s.cur.hart h w q sel sh = .next (trapAt s s.cur.hart h .pacer 0x02 0) := by
  unfold elementLoad
  simp only [hm, Bool.false_and]
  exact hl.mismatch ht _

/-- A load none of whose elements is active. -/
theorem LoadReady.issues_none (hnone : h.activesBelow sel w.vl = []) (at' : Nat → Nat × Bool) :
    s.issuesLoad h q w.ty (placedElems h sel w.ty w.vl at')
      (.next (issueLoad true s s.cur.hart ⟨q, w.ty, List.replicate w.vl (.value (zeroOf w.ty))⟩ false)) := by
  rw [placedElems_none hnone]
  exact issueLoad_issues hl.hart ..

/-- A consecutive load (R237, R239). -/
theorem LoadReady.unit {off : Word} {at' : Nat → Nat × Bool} (ht : w.ty ≠ .qn4 ∨ (sel = none ∧ (w.base + off).toNat % 32 = 0))
    (hok : ∀ e ∈ h.activesBelow sel w.vl, (elemVa (.unit off) w.ty w.base w.stride e 0).toNat % elemAlign w.ty = 0 ∧
      translate s h.core h.part (elemVa (.unit off) w.ty w.base w.stride e 0) .load false = .ok (at' e)) :
    s.issuesLoad h q w.ty (placedElems h sel w.ty w.vl at') (elementLoad true s s.cur.hart h w q sel (.unit off)) := by
  have hblock : blockFault w.ty (.unit off) w.base = none := by
    rcases ht with ht | ⟨-, ht⟩ <;> simp [blockFault, -BitVec.toNat_add, ht]
  unfold elementLoad
  rw [hl.gate (ht.imp_right fun ⟨hsel, _⟩ => by rw [hsel]; rfl)]
  simp only [hl.actives, hblock, List.isEmpty_iff]
  split
  · next hnone => exact hl.issues_none hnone at'
  · exact loadAt_issues q sel hl.hart hl.noStores hok

/-- A strided load (R237, R239). -/
theorem LoadReady.strided {at' : Nat → Nat × Bool} (ht : w.ty ≠ .qn4)
    (hok : ∀ e ∈ h.activesBelow sel w.vl, (elemVa .strided w.ty w.base w.stride e 0).toNat % elemAlign w.ty = 0 ∧
      translate s h.core h.part (elemVa .strided w.ty w.base w.stride e 0) .load false = .ok (at' e)) :
    s.issuesLoad h q w.ty (placedElems h sel w.ty w.vl at') (elementLoad true s s.cur.hart h w q sel .strided) := by
  unfold elementLoad
  rw [hl.gate (.inl ht)]
  simp only [hl.actives, blockFault, List.isEmpty_iff]
  split
  · next hnone => exact hl.issues_none hnone at'
  · exact loadAt_issues q sel hl.hart hl.noStores hok

end

/-! ### Indexed loads (R237, R239) -/

/-- Index entries on pages that are not cached, settled and without poison, are read as they stand. -/
theorem readIndices_settled (i die : Nat) (entry : Nat → Word) (li : Nat → Nat) (acts : List Nat) (s : State)
    (hok : ∀ e ∈ acts, s.settled i (li e) 4 ∧ ∀ p ∈ s.poison, p < li e ∨ li e + 4 ≤ p) :
    ∃ t, s.sameButFar t ∧ readIndices i die s (acts.map fun e => (⟨e, entry e⟩, li e, false)) =
      (t, acts.map fun e => (e, some (leNat (Memory.readAll s.mem (li e) 4)))) := by
  induction acts generalizing s with
  | nil => exact ⟨s, rfl, rfl⟩
  | cons e es ih =>
    obtain ⟨hset, hclean⟩ := hok e (List.mem_cons_self ..)
    obtain ⟨hread, hfar⟩ := dieRead_uncached s die (li e) 4
    have hbad : (s.poison.any fun p => decide (li e ≤ p) && decide (p < li e + 4)) = false := by
      simp only [List.any_eq_false, Bool.and_eq_true, decide_eq_true_eq]
      intro p hp
      have := hclean p hp
      omega
    simp only [homeRead, hbad] at hread
    obtain ⟨t, ht, hrest⟩ := ih (dieRead s die (li e) 4 false).1 fun e' he' => by
      obtain ⟨h1, h2⟩ := hok e' (List.mem_cons_of_mem _ he')
      rw [State.settled, hfar.caches.earlier, hfar.caches.poison]
      exact ⟨h1, h2⟩
    refine ⟨t, hfar.trans ht, ?_⟩
    rw [hfar.caches.mem] at hrest
    simp only [List.map_cons, readIndices, vectorRead_settled (by decide : 0 < 4) hset]
    generalize dieRead s die (li e) 4 false = r at hread hrest
    obtain ⟨u, v⟩ := r
    cases hread
    simp only [hrest]
    rfl

/-- The index list of a load is read and the load goes on with it, the caches used. -/
theorem withIndices_read {s : State} {h : Hart} (hart : s.harts[s.cur.hart]? = some h) (hst : h.pacer.stores = []) (d : BitVec 8)
    (mark : State → State) (list : Word) (acts : List Nat) (li : Nat → Nat) (go : State → List (Nat × Option Nat) → Out)
    (hrec : s.mgmt.recoveries = []) (hloads : ∀ g ∈ h.pacer.loads, ∀ e ∈ acts, g.reads (li e) 4 = false)
    (hok : ∀ e ∈ acts, (list + BitVec.ofNat 64 (4 * e)).toNat % 4 = 0 ∧
      translate s h.core h.part (list + BitVec.ofNat 64 (4 * e)) .load false = .ok (li e, false) ∧
      (∀ p ∈ s.poison, p < li e ∨ li e + 4 ≤ p) ∧ s.settled s.cur.hart (li e) 4) :
    ∃ t, (noteAll s h (acts.map fun e => ⟨e, list + BitVec.ofNat 64 (4 * e)⟩)).sameButFar t ∧
      withIndices s s.cur.hart h d mark list acts go = go t (acts.map fun e => (e, some (leNat (Memory.readAll s.mem (li e) 4)))) := by
  have hok' : ∀ t ∈ acts.map (fun e => (⟨e, list + BitVec.ofNat 64 (4 * e)⟩ : Touch)), t.va.toNat % 4 = 0 ∧
      translate s h.core h.part t.va .load false = .ok (li t.elem, false) := fun t ht => by
    obtain ⟨e, he, rfl⟩ := List.mem_map.1 ht; exact ⟨(hok e he).1, (hok e he).2.1⟩
  have hlocs : (acts.map fun e => (⟨e, list + BitVec.ofNat 64 (4 * e)⟩ : Touch)).map (fun t => (t, li t.elem, false)) =
      acts.map fun e => (⟨e, list + BitVec.ofNat 64 (4 * e)⟩, li e, false) := by
    rw [List.map_map]; rfl
  have hmeet : loadsMeet h (acts.map fun e => ((⟨e, list + BitVec.ofNat 64 (4 * e)⟩ : Touch), li e, false)) 4 = false := by
    simp only [loadsMeet, List.any_eq_false, List.any_map, List.any_eq_true, Function.comp_apply, not_exists, not_and, Bool.not_eq_true]
    exact hloads
  have hnote := noteAll_sameButCaches s h (acts.map fun e => ⟨e, list + BitVec.ofNat 64 (4 * e)⟩)
  obtain ⟨t, ht, hread⟩ := readIndices_settled s.cur.hart (coreDie h.core) (fun e => list + BitVec.ofNat 64 (4 * e)) li acts
    (noteAll s h (acts.map fun e => ⟨e, list + BitVec.ofNat 64 (4 * e)⟩)) fun e he => by
      obtain ⟨-, -, hclean, hset⟩ := hok e he
      rw [State.settled, hnote.earlier, hnote.poison]
      exact ⟨hset, hclean⟩
  refine ⟨t, ht, ?_⟩
  rw [hnote.mem] at hread
  unfold withIndices
  simp only [misaligned_none fun t ht => (hok' t ht).1, withProbe_ok fun t ht => (hok' t ht).2, hlocs, afterLoads, hmeet,
    accessFenced_none (hnote.mgmt ▸ hrec : (noteAll s h _).mgmt.recoveries = []),
    settleTouches_none (hnote.harts ▸ hart : (noteAll s h _).harts[s.cur.hart]? = some h) hst, hread]
  simp

/-- An indexed load (R237, R239). -/
theorem LoadReady.indexed {s : State} {h : Hart} {q : Fin 4} {sel : MaskSel} {w : WaitingLoad} (hl : LoadReady s h q sel w) {sc : Nat}
    {li : Nat → Nat} {at' : Nat → Nat × Bool} (ht : w.ty ≠ .qn4) (hrec : s.mgmt.recoveries = [])
    (hloads : ∀ g ∈ h.pacer.loads, ∀ e ∈ h.activesBelow sel w.vl, g.reads (li e) 4 = false)
    (hlist : ∀ e ∈ h.activesBelow sel w.vl, (w.stride + BitVec.ofNat 64 (4 * e)).toNat % 4 = 0 ∧
      translate s h.core h.part (w.stride + BitVec.ofNat 64 (4 * e)) .load false = .ok (li e, false) ∧
      (∀ p ∈ s.poison, p < li e ∨ li e + 4 ≤ p) ∧ s.settled s.cur.hart (li e) 4)
    (hok : ∀ e ∈ h.activesBelow sel w.vl,
      (elemVa (.indexed sc) w.ty w.base w.stride e (leNat (Memory.readAll s.mem (li e) 4))).toNat % elemAlign w.ty = 0 ∧
      translate (noteAll s h (h.touches sel w.vl fun e => w.stride + BitVec.ofNat 64 (4 * e))) h.core h.part
        (elemVa (.indexed sc) w.ty w.base w.stride e (leNat (Memory.readAll s.mem (li e) 4))) .load false = .ok (at' e)) :
    s.issuesLoad h q w.ty (placedElems h sel w.ty w.vl at') (elementLoad true s s.cur.hart h w q sel (.indexed sc)) := by
  unfold elementLoad
  rw [hl.gate (.inl ht)]
  simp only [hl.actives, blockFault, List.isEmpty_iff]
  split
  · next hnone => exact hl.issues_none hnone at'
  · obtain ⟨t, hfar, hread⟩ := withIndices_read hl.hart hl.noStores 0x04 (markWait w s.cur.hart) w.stride (h.activesBelow sel w.vl) li
      (fun t xs => loadAt true t s.cur.hart h w q (.indexed sc) xs) hrec hloads hlist
    have hcaches := (noteAll_sameButCaches s h (h.touches sel w.vl fun e => w.stride + BitVec.ofNat 64 (4 * e))).trans hfar.caches
    have hload := loadAt_issues (s := t) (w := w) q (sh := .indexed sc) sel (idx := fun e => leNat (Memory.readAll s.mem (li e) 4))
      (at' := at') (by rw [hcaches.harts, hcaches.cur]; exact hl.hart) hl.noStores fun e he => by
        rw [translate_sameButFar hfar]; exact hok e he
    rw [hcaches.cur] at hload
    rw [hread]
    exact State.issuesLoad_of_caches hcaches hload

/-! ### First-fault loads (R241) -/

/-- Where a range of elements is searched, the first that meets a test among the active ones. -/
theorem find?_activesBelow {h : Hart} {sel : MaskSel} {n f : Nat} {p : Nat → Bool} (hf : f < n) (ha : h.pacerActive sel f = true)
    (hp : p f = true) (hbefore : ∀ e, h.pacerActive sel e = true → e < f → p e = false) :
    (h.activesBelow sel n).find? p = some f := by
  rw [List.find?_filter, List.find?_range_eq_some]
  refine ⟨by simp [ha, hp], List.mem_range.2 hf, fun e he => ?_⟩
  cases hact : h.pacerActive sel e with
  | false => simp
  | true => simp [hbefore e hact he]

theorem filter_activesBelow (h : Hart) (sel : MaskSel) {n f : Nat} (hf : f ≤ n) :
    (h.activesBelow sel n).filter (fun e => decide (e < f)) = h.activesBelow sel f := by
  obtain ⟨d, rfl⟩ := Nat.exists_eq_add_of_le hf
  have hlow : (h.activesBelow sel f).filter (fun e => decide (e < f)) = h.activesBelow sel f :=
    List.filter_eq_self.2 fun e he => decide_eq_true (List.mem_range.1 (List.mem_of_mem_filter he))
  have hhigh : (((List.range d).map (f + ·)).filter fun e => h.pacerActive sel e).filter (fun e => decide (e < f)) = [] := by
    refine List.filter_eq_nil_iff.2 fun e he => ?_
    obtain ⟨k, -, rfl⟩ := List.mem_map.1 (List.mem_of_mem_filter he)
    simp
  simp only [Hart.activesBelow] at hlow ⊢
  rw [List.range_add, List.filter_append, List.filter_append, hlow, hhigh, List.append_nil]

section
variable {s : State} {h : Hart} {sel : MaskSel} {n f : Nat} {va : Nat → Word} {at' : Nat → Nat × Bool}

theorem probeAll_map_fst (k : AccessKind) (ts : List Touch) : (probeAll s h k ts).map (·.1) = ts := by
  simp [probeAll, Function.comp_def]

theorem filter_probeAll (k : AccessKind) (hf : f ≤ n) :
    (probeAll s h k (h.touches sel n va)).filter (fun r => decide (r.1.elem < f)) = probeAll s h k (h.touches sel f va) := by
  rw [Hart.touches, Hart.touches, ← filter_activesBelow h sel hf]
  simp only [probeAll, List.map_map, List.filter_map]
  rfl

/-- The lowest touch that fails is the one of element f, or none is and f is the count. -/
theorem lowest_failure {fails : Probe → Bool} (hgood : ∀ t x, fails (t, .ok x) = false)
    (hbad : ∀ t e, e ≠ .fenced → fails (t, .error e) = true)
    (hf : f ≤ n) (hbelow : ∀ e, h.pacerActive sel e = true → e < f → translate s h.core h.part (va e) .load false = .ok (at' e))
    (hcut : f < n → h.pacerActive sel f = true ∧ ∃ err, translate s h.core h.part (va f) .load false = .error err ∧ err ≠ .fenced) :
    (((probeAll s h .load (h.touches sel n va)).find? fails).map fun r => r.1.elem).getD n = f := by
  have hfind : (probeAll s h .load (h.touches sel n va)).find? fails =
      ((h.activesBelow sel n).find? fun e => fails (⟨e, va e⟩, translate s h.core h.part (va e) .load false)).map
        fun e => (⟨e, va e⟩, translate s h.core h.part (va e) .load false) := by
    simp only [probeAll, List.map_map, List.find?_map]; rfl
  have hpass : ∀ e, h.pacerActive sel e = true → e < f → fails (⟨e, va e⟩, translate s h.core h.part (va e) .load false) = false :=
    fun e ha he => by rw [hbelow e ha he]; exact hgood ..
  rcases Nat.lt_or_eq_of_le hf with hlt | rfl
  · obtain ⟨ha, err, herr, hne⟩ := hcut hlt
    rw [hfind, find?_activesBelow hlt ha (by rw [herr]; exact hbad _ _ hne) hpass]
    rfl
  · have hnone : (h.activesBelow sel f).find? (fun e => fails (⟨e, va e⟩, translate s h.core h.part (va e) .load false)) = none := by
      refine List.find?_eq_none.2 fun e he => ?_
      obtain ⟨hlt, ha⟩ := List.mem_filter.1 he
      simp [hpass e ha (List.mem_range.1 hlt)]
    rw [hfind, hnone]; rfl

end

/-- Each bit of the mask of a first-fault load: active elements below f, none up to the old count, the old bit from there on. -/
theorem testBit_firstFaultMask (h : Hart) (sel : MaskSel) (old n f e : Nat) :
    (firstFaultMask old n f (h.activesBelow sel n)).testBit e =
      if e < n then decide (e < f) && h.pacerActive sel e else old.testBit e := by
  rw [firstFaultMask, testBit_maskPatch]
  by_cases he : e < n <;> simp [he, Hart.activesBelow]

/-- A first-fault load: the elements below f are on their way, and `vl` and the mask say how many and which. -/
theorem LoadReady.firstFault {s : State} {h : Hart} {q : Fin 4} {sel : MaskSel} {w : WaitingLoad} (hl : LoadReady s h q sel w)
    {off : Word} (m : MaskReg) {f : Nat} {at' : Nat → Nat × Bool} (ht : w.ty ≠ .qn4)
    (halign : ∀ e ∈ h.activesBelow sel w.vl, (elemVa (.unit off) w.ty w.base 0 e 0).toNat % elemAlign w.ty = 0)
    (hbelow : ∀ e, h.pacerActive sel e = true → e < f →
      translate s h.core h.part (elemVa (.unit off) w.ty w.base 0 e 0) .load false = .ok (at' e))
    (hf : f ≤ w.vl)
    (hcut : f < w.vl → (∃ e, e < f ∧ h.pacerActive sel e = true) ∧ h.pacerActive sel f = true ∧
      ∃ err, translate s h.core h.part (elemVa (.unit off) w.ty w.base 0 f 0) .load false = .error err ∧ err ≠ .fenced) :
    ∃ t, s.issuesLoad h q w.ty (placedElems h sel w.ty f at') (.next t) ∧
      firstFaultLoad true s s.cur.hart h w q off m = .next (modPacer t s.cur.hart fun p => { p with th := { p.th with
        vl := BitVec.ofNat 64 f
        masks := p.th.masks.set m (firstFaultMask p.th.masks[m] w.vl f (h.activesBelow sel w.vl)) } }) := by
  have hok : ∀ t ∈ h.touches sel f fun e => elemVa (.unit off) w.ty w.base 0 e 0,
      translate s h.core h.part t.va .load false = .ok (at' t.elem) := fun t ht => by
    obtain ⟨e, he, rfl⟩ := List.mem_map.1 ht
    obtain ⟨hlt, ha⟩ := List.mem_filter.1 he
    exact hbelow e ha (List.mem_range.1 hlt)
  have hmis : misaligned (h.touches sel w.vl fun e => elemVa (.unit off) w.ty w.base 0 e 0) (elemAlign w.ty) = none :=
    misaligned_none fun t ht => by obtain ⟨e, he, rfl⟩ := List.mem_map.1 ht; exact halign e he
  have hsome : (decide (f < w.vl) && (probeAll s h .load (h.touches sel f fun e => elemVa (.unit off) w.ty w.base 0 e 0)).isEmpty) = false := by
    by_cases hlt : f < w.vl
    · obtain ⟨⟨e, he, ha⟩, -⟩ := hcut hlt
      have hmem : e ∈ h.activesBelow sel f := List.mem_filter.2 ⟨List.mem_range.2 he, ha⟩
      have hne : h.activesBelow sel f ≠ [] := List.ne_nil_of_mem hmem
      simp only [probeAll, List.isEmpty_map, List.isEmpty_eq_false_iff.2 hne, Bool.and_false]
    · simp [hlt]
  refine ⟨_, issueTouched_issues q w.ty sel f (elemAlign w.ty) (fun e => elemVa (.unit off) w.ty w.base 0 e 0) at' hl.hart hl.noStores, ?_⟩
  unfold firstFaultLoad
  rw [hl.gate (.inl ht)]
  simp only [hl.actives, hmis]
  rw [lowest_failure (fun _ _ => rfl) (fun _ e he => by cases e with | fenced => exact absurd rfl he | _ => rfl) hf hbelow
    fun h => (hcut h).2]
  simp only [filter_probeAll .load hf, hsome, probeEnd_ok hok, probed_ok hok, probeAll_map_fst]
  rfl

/-! ### Delivery (R15, R239, R245) -/

/-- An element of a load that lies on no cached page. -/
def ElemSource.uncached (e : ElemSource) : Prop := (∀ loc c, e = .bytes loc c → c = false) ∧ ∀ loc hi c, e = .nibble loc hi c → c = false

/-- What such an element delivers: its bits, and whether they are poison. -/
def homeElem (s : State) (ty : ElemType) : ElemSource → Word × Bool
  | .value w => (w, false)
  | .poison => (0, true)
  | .bytes loc _ => (BitVec.ofNat 64 (leNat (homeRead s loc (width ty / 8)).1), (homeRead s loc (width ty / 8)).2)
  | .nibble loc hi _ =>
    (BitVec.ofNat 64 (if hi then leNat (homeRead s loc 1).1 / 16 else leNat (homeRead s loc 1).1 % 16), (homeRead s loc 1).2)

theorem homeElem_sameButFar {s t : State} (h : s.sameButFar t) (ty : ElemType) : homeElem t ty = homeElem s ty := by
  have : homeElem t ty = homeElem { t with farCache := s.farCache } ty := funext fun e => by cases e <;> rfl
  rw [this, h]

theorem readElem_uncached (die : Nat) (ty : ElemType) (s : State) {e : ElemSource} (he : e.uncached) :
    s.sameButFar (readElem die ty s e).1 ∧ (readElem die ty s e).2 = homeElem s ty e := by
  cases e with
  | value w => exact ⟨rfl, rfl⟩
  | poison => exact ⟨rfl, rfl⟩
  | bytes loc cached =>
    obtain rfl := he.1 loc cached rfl
    obtain ⟨hread, hfar⟩ := dieRead_uncached s die loc (width ty / 8)
    exact ⟨hfar, by simp only [readElem, homeElem, hread]⟩
  | nibble loc hi cached =>
    obtain rfl := he.2 loc hi cached rfl
    obtain ⟨hread, hfar⟩ := dieRead_uncached s die loc 1
    exact ⟨hfar, by simp only [readElem, homeElem, hread]⟩

theorem readElems_uncached (die : Nat) (ty : ElemType) (s : State) {es : List ElemSource} (he : ∀ e ∈ es, e.uncached) :
    s.sameButFar (readElems die ty s es).1 ∧ (readElems die ty s es).2 = es.map (homeElem s ty) := by
  induction es generalizing s with
  | nil => exact ⟨rfl, rfl⟩
  | cons e es ih =>
    obtain ⟨hst, hval⟩ := readElem_uncached die ty s (he e (List.mem_cons_self ..))
    obtain ⟨htu, hvals⟩ := ih (readElem die ty s e).1 fun e' he' => he e' (List.mem_cons_of_mem _ he')
    refine ⟨hst.trans htu, ?_⟩
    simp only [readElems, List.map_cons, hval, hvals, homeElem_sameButFar hst]

/-- The row that such a load delivers. -/
def homeRow (s : State) (f : LoadFlight) : Row :=
  ⟨f.ty, (f.elems.map (homeElem s f.ty)).map (·.1),
    (List.range f.elems.length).filter fun k => ((f.elems.map (homeElem s f.ty)).getD k (0, false)).2⟩

theorem loadRow_uncached (s : State) (die : Nat) {f : LoadFlight} (he : ∀ e ∈ f.elems, e.uncached) :
    s.sameButFar (loadRow s die f).1 ∧ (loadRow s die f).2 = homeRow s f := by
  obtain ⟨hfar, hvals⟩ := readElems_uncached die f.ty s he
  exact ⟨hfar, by simp [loadRow, homeRow, hvals]⟩

section
variable {f : LoadFlight} {k : Nat} {e : ElemSource} (hk : f.elems[k]? = some e) (s : State)
include hk

theorem homeRow_elem : (homeRow s f).elems[k]? = some (homeElem s f.ty e).1 := by
  simp [homeRow, hk]

theorem mem_homeRow_poison : k ∈ (homeRow s f).poison ↔ (homeElem s f.ty e).2 = true := by
  obtain ⟨hlt, rfl⟩ := List.getElem?_eq_some_iff.1 hk
  simp [homeRow, hlt]

end

theorem homeRead_poison (s : State) (loc n : Nat) : (homeRead s loc n).2 = true ↔ ∃ p ∈ s.poison, loc ≤ p ∧ p < loc + n := by
  simp [homeRead]

theorem leNat_homeRead_byte (s : State) (loc : Nat) : leNat (homeRead s loc 1).1 = (Memory.read s.mem loc).toNat := by
  simp [homeRead, Memory.readAll, leNat]

/-- Nothing keeps a load from its delivery where no unit is under recovery but an earlier load of its words (R245). -/
theorem deliveryStep_eq {s : State} {i : Nat} {q : Fin 4} {h : Hart} {f : LoadFlight} (hrec : s.mgmt.recoveries = [])
    (hi : s.harts[i]? = some h) (hf : h.pacer.loads.find? (fun f => f.q == q) = some f) :
    deliveryStep s i q = if loadBehind h f then s else deliverLoad s i q := by
  have hfenced : loadFenced s f = false := by
    simp only [loadFenced, List.any_eq_false]
    intro e _
    cases e <;> simp [accessFenced_none hrec]
  simp only [deliveryStep, hi, hf, hfenced, Bool.false_or]

/-- The oldest load to a queue. -/
theorem oldest_load {pre post : List LoadFlight} {f : LoadFlight} {q : Fin 4} (hf : f.q = q) (hpre : ∀ g ∈ pre, g.q ≠ q) :
    (pre ++ f :: post).find? (fun f => f.q == q) = some f ∧ (pre ++ f :: post).eraseP (fun f => f.q == q) = pre ++ post := by
  have hno : pre.find? (fun f => f.q == q) = none := List.find?_eq_none.2 fun g hg => by simpa using hpre g hg
  refine ⟨by simp [List.find?_append, hno, hf], ?_⟩
  rw [List.eraseP_append_right _ fun g hg => by simpa using hpre g hg]
  simp [hf]

/-- The oldest load of a queue, on pages that are not cached, pushes its whole entry. -/
theorem deliverLoad_uncached {s : State} {i : Nat} {q : Fin 4} {h : Hart} {f : LoadFlight} {pre post : List LoadFlight}
    (hi : s.harts[i]? = some h) (hloads : h.pacer.loads = pre ++ f :: post) (hf : f.q = q) (hpre : ∀ g ∈ pre, g.q ≠ q)
    (he : ∀ e ∈ f.elems, e.uncached) :
    { deliverLoad s i q with farCache := s.farCache } = { s with harts := s.harts.set i { h with
      pacer := { h.pacer with loads := pre ++ post }
      lq := h.lq.set q (h.lq[q] ++ [homeRow s f]) } } := by
  obtain ⟨hfind, herase⟩ := oldest_load (post := post) hf hpre
  rw [← hloads] at hfind herase
  obtain ⟨hfar, hrow⟩ := loadRow_uncached s (coreDie h.core) he
  unfold deliverLoad
  simp only [hi, hfind]
  generalize loadRow s (coreDie h.core) f = r at hfar hrow
  obtain ⟨t, row⟩ := r
  obtain rfl : row = homeRow s f := hrow
  have hharts : t.harts = s.harts := hfar.caches.harts
  have hmod := congrArg (fun x : State => { x with harts := s.harts.set i { h with
      pacer := { h.pacer with loads := pre ++ post }
      lq := h.lq.set q (h.lq[q] ++ [homeRow s f]) } }) hfar
  simp only [modHart, hharts, modify_of_getElem? hi, herase]
  exact hmod

/-! ### At the instruction -/

/-- The load that an instruction of hart h captures (R239). -/
abbrev Hart.captured (h : Hart) (form : LoadForm) (word : Word) (base : Reg) (stride : Option Reg) (sel : MaskSel) : WaitingLoad :=
  ⟨form, word, h.reg .pacer base, (stride.map (h.reg .pacer)).getD 0, h.pacer.th.vl.toNat, h.pacer.th.grant, pacerMask h sel⟩

section
variable {s : State} {h : Hart} (hr : s.runs h .pacer)
include hr

theorem loadHere_runs (form : LoadForm) (word : Word) (base : Reg) (stride : Option Reg) (sel : MaskSel) :
    loadHere form word base stride sel s = vectorLoad true (h.captured form word base stride sel) s s.cur.hart h :=
  runs_pacer hr _

theorem exec_vld (sel : MaskSel) (q : Fin 4) (base : Reg) (off : BitVec 16) : ∃ word, exec (.vld sel q base off) s =
    elementLoad true s s.cur.hart h (h.captured (.unit sel q off) word base none sel) q sel (.unit (off.signExtend 64)) :=
  ⟨_, loadHere_runs hr ..⟩

theorem exec_vlds (sel : MaskSel) (q : Fin 4) (base stride : Reg) : ∃ word, exec (.vlds sel q base stride) s =
    elementLoad true s s.cur.hart h (h.captured (.strided sel q) word base (some stride) sel) q sel .strided :=
  ⟨_, loadHere_runs hr ..⟩

theorem exec_vldx (sel : MaskSel) (q : Fin 4) (base list : Reg) (sc : Fin 4) : ∃ word, exec (.vldx sel q base list sc) s =
    elementLoad true s s.cur.hart h (h.captured (.indexed sel q sc) word base (some list) sel) q sel (.indexed sc.val) :=
  ⟨_, loadHere_runs hr ..⟩

theorem exec_vldff (sel : MaskSel) (q : Fin 4) (base : Reg) (m : MaskReg) (off : BitVec 16) : ∃ word, exec (.vldff sel q base m off) s =
    firstFaultLoad true s s.cur.hart h (h.captured (.firstFault q m off) word base none sel) q (off.signExtend 64) m :=
  ⟨_, loadHere_runs hr ..⟩

end

theorem captured_ready {s : State} {h : Hart} {q : Fin 4} (hr : s.runs h .pacer) (hst : h.pacer.stores = []) (hv : h.pacer.th.vrel = false)
    (hc : h.pacer.th.vl.toNat ≤ capacity h.cls h.pacer.th.grant) (hs : slipCount h q < h.pacer.slip.toNat) (form : LoadForm) (word : Word)
    (base : Reg) (stride : Option Reg) (sel : MaskSel) : LoadReady s h q sel (h.captured form word base stride sel) :=
  ⟨hr.1, hst, hv, rfl, rfl, hc, hs⟩

/-- The elements of a load in the statements' words. -/
theorem placedElems_eq (h : Hart) (sel : MaskSel) (ty : ElemType) (n : Nat) (at' : Nat → Nat × Bool) :
    placedElems h sel ty n at' = (List.range n).map fun e =>
      if h.pacerActive sel e = true then
        (if ty = .qn4 then .nibble (at' e).1 (decide (e % 2 = 1)) (at' e).2 else .bytes (at' e).1 (at' e).2)
      else .value (zeroOf ty) := by
  simp only [placedElems, sourceOf, beq_iff_eq]

theorem placedElems_bytes {ty : ElemType} (ht : ty ≠ .qn4) (h : Hart) (sel : MaskSel) (n : Nat) (at' : Nat → Nat × Bool) :
    placedElems h sel ty n at' = (List.range n).map fun e =>
      if h.pacerActive sel e = true then .bytes (at' e).1 (at' e).2 else .value (zeroOf ty) := by
  simp only [placedElems_eq, ht, if_false]

theorem elemAlign_bytes {ty : ElemType} (ht : ty ≠ .qn4) : elemAlign ty = width ty / 8 := by
  cases ty with
  | qn4 => exact absurd rfl ht
  | _ => rfl

theorem active_of_mem {h : Hart} {sel : MaskSel} {n e : Nat} (he : e ∈ h.activesBelow sel n) : h.pacerActive sel e = true :=
  (List.mem_filter.1 he).2

theorem exec_vectorLoadDelivery (i : Nat) (q : Fin 4) (s : State) : exec (.vectorLoadDelivery i q) s = .next (deliveryStep s i q) := rfl

/-- Settles O21: the gate is open and every page there, so each form puts its elements in flight; a delivery reads them at the home. -/
theorem vectorLoads : Obligations.VectorLoads := by
  refine ⟨?_, ?_, ?_, ?_⟩
  · intro s h sel q base stride off at' hr th ty b hv hc hs hst issues
    have hready := captured_ready hr hst hv hc hs
    refine ⟨fun ht hok => ?_, fun ht hok => ?_, fun ht => ?_, fun ht m => ?_⟩
    · obtain ⟨word, hexec⟩ := exec_vld hr sel q base off
      have hload := (hready (.unit sel q off) word base none sel).unit ht (at' := at') fun e he => hok e (active_of_mem he)
      rwa [placedElems_eq, ← hexec] at hload
    · obtain ⟨word, hexec⟩ := exec_vlds hr sel q base stride
      have hload := (hready (.strided sel q) word base (some stride) sel).strided ht (at' := at') fun e he => hok e (active_of_mem he)
      rwa [placedElems_eq, ← hexec] at hload
    · obtain ⟨word, hexec⟩ := exec_vlds hr sel q base stride
      rw [hexec]
      exact (hready _ word base (some stride) sel).strided_mismatch ht
    · obtain ⟨word, hexec⟩ := exec_vld hr (some m) q base off
      rw [hexec]
      exact (hready _ word base none (some m)).masked_mismatch ht rfl _
  · intro s h sel q base list sc li at' hr th ty acts entry idx va s' hv hc ht hs hst hrec hloads hok
    obtain ⟨word, hexec⟩ := exec_vldx hr sel q base list sc
    have hready := captured_ready hr hst hv hc hs (.indexed sel q sc) word base (some list) sel
    have hload := hready.indexed (sc := sc.val) (li := li) (at' := at') ht hrec hloads
      (fun e he => by
        obtain ⟨halign, hpage, hclean, hset, -, -⟩ := hok e he
        exact ⟨halign, hpage, hclean, hset⟩)
      (fun e he => by
        obtain ⟨-, -, -, -, halign, hpage⟩ := hok e he
        exact ⟨halign, hpage⟩)
    rwa [placedElems_bytes ht, ← hexec] at hload
  · intro s h sel q base m off f at' hr th ty va hv hc ht hs hst halign hbelow hf hcut
    obtain ⟨word, hexec⟩ := exec_vldff hr sel q base m off
    have hready := captured_ready hr hst hv hc hs (.firstFault q m off) word base none sel
    obtain ⟨t, ⟨_, xs, ht', hmem, hharts, hiss⟩, hrun⟩ := hready.firstFault m ht (off := off.signExtend 64) (at' := at')
      (fun e he => by rw [elemAlign_bytes ht]; exact halign e (active_of_mem he)) hbelow hf hcut
    cases ht'
    rw [placedElems_bytes ht] at hiss
    have hbits := testBit_firstFaultMask h sel th.masks[m] th.vl.toNat f
    refine ⟨_, firstFaultMask th.masks[m] th.vl.toNat f (h.activesBelow sel th.vl.toNat), xs, hexec.trans hrun, hmem, hiss, ?_, ?_, ?_, ?_⟩
    · have hlt : s.cur.hart < s.harts.length := (List.getElem?_eq_some_iff.1 hr.1).1
      simp only [modPacer, modHart_harts, hharts]
      rw [modify_of_getElem? (List.getElem?_set_self hlt), List.set_set]
      rfl
    · intro e he
      rw [hbits, if_pos (Nat.lt_of_lt_of_le he hf), decide_eq_true he, Bool.true_and]
    · intro e hfe he
      rw [hbits, if_pos he, decide_eq_false (Nat.not_lt.2 hfe), Bool.false_and]
    · intro e he
      rw [hbits, if_neg (Nat.not_lt.2 he)]
  · intro s i q h f pre post hrec hi hloads hf hpre hbytes hnibbles
    obtain ⟨hfind, -⟩ := oldest_load (post := post) hf hpre
    rw [exec_vectorLoadDelivery, deliveryStep_eq hrec hi (hloads ▸ hfind)]
    refine ⟨fun hbehind => by rw [if_pos hbehind], fun hbehind => ?_⟩
    rw [if_neg (by simp [hbehind])]
    refine ⟨_, homeRow s f, rfl, deliverLoad_uncached hi hloads hf hpre fun e he => ⟨hbytes e he, hnibbles e he⟩, rfl, by simp [homeRow], ?_⟩
    intro k e hk
    have helem := homeRow_elem hk s
    have hpoison := mem_homeRow_poison hk s
    refine ⟨?_, ?_, ?_, ?_⟩
    · rintro w rfl; exact ⟨helem, fun hmem => Bool.false_ne_true (hpoison.1 hmem)⟩
    · rintro rfl; exact hpoison.2 rfl
    · rintro loc c rfl; exact ⟨helem, hpoison.trans (homeRead_poison ..)⟩
    · rintro loc hi c rfl; rw [helem, homeElem, leNat_homeRead_byte]

end Sys2Proof.Machine
end

section
/-! PROOFS. The scalar baton queues (R14, R15, R18). -/
namespace Sys2Proof.Machine

open Sys2Proof

section
variable {s : State} {h : Hart} {t : Thread} (hr : s.runs h t)
include hr

theorem exec_qpush (q : ScalarQueue) (s1 : Reg) (ha : Instr.allowed (.qpush q s1) t = true) : exec (.qpush q s1) s =
    if 16 ≤ (h.queue q).length then .next s
    else .next (s.put ((h.setQueue q (h.queue q ++ [h.reg t s1])).advance t)) := by
  change queuePush _ q s1 s = _
  rw [queuePush, runs_thread hr ha]
  rfl

theorem exec_qpop (q : ScalarQueue) (d : Reg) (ha : Instr.allowed (.qpop d q) t = true) : exec (.qpop d q) s =
    match h.queue q with
    | [] => .next s
    | w :: rest => .next (s.put ((markFromQa ((h.setQueue q rest).setReg t d w) t d).advance t)) := by
  change queuePop _ d q s = _
  rw [queuePop, runs_thread hr ha]
  rfl

/-- A push to a queue with room; one to a full queue waits (R18). -/
theorem exec_qpush_room (q : ScalarQueue) (s1 : Reg) (ha : Instr.allowed (.qpush q s1) t = true) (hlt : (h.queue q).length < 16) :
    exec (.qpush q s1) s = .next (s.put ((h.setQueue q (h.queue q ++ [h.reg t s1])).advance t)) := by
  rw [exec_qpush hr q s1 ha, if_neg (Nat.not_le.2 hlt)]

theorem exec_qpush_full (q : ScalarQueue) (s1 : Reg) (ha : Instr.allowed (.qpush q s1) t = true) (hge : 16 ≤ (h.queue q).length) :
    exec (.qpush q s1) s = .next s := by
  rw [exec_qpush hr q s1 ha, if_pos hge]

theorem exec_qpop_empty (q : ScalarQueue) (d : Reg) (ha : Instr.allowed (.qpop d q) t = true) (hq : h.queue q = []) :
    exec (.qpop d q) s = .next s := by
  rw [exec_qpop hr q d ha, hq]

theorem exec_qpop_head (q : ScalarQueue) (d : Reg) (ha : Instr.allowed (.qpop d q) t = true) {w : Word} {rest : List Word}
    (hq : h.queue q = w :: rest) :
    exec (.qpop d q) s = .next (s.put ((markFromQa ((h.setQueue q rest).setReg t d w) t d).advance t)) := by
  rw [exec_qpop hr q d ha, hq]

end

/-- Settles O9: a push or a pop goes by the length of its queue; the Pacer pushes to `qc` and pops `qa`, the Anchor the other way. -/
theorem scalarQueues : Obligations.ScalarQueues := fun _ _ d s1 =>
  ⟨fun hr => ⟨exec_qpush_room hr .qc s1 rfl, exec_qpush_full hr .qc s1 rfl, exec_qpop_empty hr .qa d rfl,
      fun _ _ => exec_qpop_head hr .qa d rfl⟩,
    fun hr => ⟨exec_qpush_room hr .qa s1 rfl, exec_qpush_full hr .qa s1 rfl, exec_qpop_empty hr .qc d rfl,
      fun _ _ => exec_qpop_head hr .qc d rfl⟩⟩

end Sys2Proof.Machine
end

section
/-! PROOFS. The vector length: `SETVL`, and the length from a mask (R35, R49). -/
namespace Sys2Proof.Machine

open Sys2Proof

/-- A mask with no bit set below a bound has no last one. -/
theorem maskLast_none {m n : Nat} (h : ∀ k, k < n → m.testBit k = false) : maskLast m n = none := by
  have hz : m % 2 ^ n = 0 := by
    refine Nat.eq_of_testBit_eq fun k => ?_
    rw [Nat.testBit_mod_two_pow, Nat.zero_testBit]
    by_cases hk : k < n <;> simp [hk, h]
  simp [maskLast, hz]

/-- The highest set bit below a bound. -/
theorem maskLast_some {m n b : Nat} (hb : b < n) (hset : m.testBit b = true) (habove : ∀ k, b < k → k < n → m.testBit k = false) :
    maskLast m n = some b := by
  have hset' : (m % 2 ^ n).testBit b = true := by simp [Nat.testBit_mod_two_pow, hb, hset]
  have hlow : 2 ^ b ≤ m % 2 ^ n := Nat.ge_two_pow_of_testBit hset'
  have hhigh : m % 2 ^ n < 2 ^ (b + 1) := by
    refine Nat.lt_pow_two_of_testBit _ fun k hk => ?_
    rw [Nat.testBit_mod_two_pow]
    by_cases hkn : k < n
    · simp [habove k hk hkn]
    · simp [hkn]
  have hne : m % 2 ^ n ≠ 0 := by have := Nat.two_pow_pos b; omega
  rw [maskLast, if_neg hne, (Nat.log2_eq_iff hne).2 ⟨hlow, hhigh⟩]

section
variable {s : State} {h : Hart} (d : Reg)

theorem exec_setvl {t : Thread} (hr : s.runs h t) (s1 : Reg) (ty : ElemType) : exec (.setvl d s1 ty) s =
    .next (s.put (((h.grantTo t ty (grantOf h.cls ty (h.reg t s1).toNat)).setReg t d
      (BitVec.ofNat 64 (grantOf h.cls ty (h.reg t s1).toNat))).advance t)) := by
  change setLength _ d s1 ty s = _
  rw [setLength, runs_thread hr (by cases t <;> rfl)]
  rfl

theorem exec_setvlm (hr : s.runs h .anchor) (m : MaskReg) : exec (.setvlm d m) s =
    if maskPending h.anchor m then .next s
    else .next (s.put (((h.setTh .anchor { h.anchor.th with vl := BitVec.ofNat 64 (vlOfMask h.cls h.anchor.th.masks[m]) }).setReg .anchor d
      (BitVec.ofNat 64 (vlOfMask h.cls h.anchor.th.masks[m]))).advance .anchor)) := by
  change setLengthMask _ d m s = _
  rw [setLengthMask, runs_thread hr rfl]
  rfl

end

/-- Settles O8: the grant is the model's `grantOf`; the length from a mask goes by the last set bit below `mvl`. -/
theorem vectorLengths : Obligations.VectorLengths := by
  refine ⟨fun s h t d s1 ty hr => exec_setvl d hr s1 ty, fun s h d m hr => ⟨fun hp => ?_, fun hp => ⟨fun hnone => ?_, ?_⟩⟩⟩
  · rw [exec_setvlm d hr, if_pos hp]
  · rw [exec_setvlm d hr, hp, vlOfMask, mvlOf, maskLast_none hnone]
    rfl
  · intro b hb hset habove
    rw [exec_setvlm d hr, hp, vlOfMask, mvlOf, maskLast_some hb hset habove]
    rfl

end Sys2Proof.Machine
end

section
/-! PROOFS. Branches and jumps (R158, R178, R180). -/
namespace Sys2Proof.Machine

open Sys2Proof

/-- Clearing the low three bits of a word. -/
theorem div_mul_eight (x : Word) : BitVec.ofNat 64 (x.toNat / 8 * 8) = x &&& ~~~7 := by
  have hshift : x.toNat / 8 * 8 = x.toNat >>> 3 <<< 3 := by simp [Nat.shiftLeft_eq, Nat.shiftRight_eq_div_pow]
  have hseven : (7 : Word) = BitVec.ofNat 64 (2 ^ 3 - 1) := rfl
  refine BitVec.eq_of_getLsbD_eq fun k hk => ?_
  rw [hshift, hseven]
  simp only [BitVec.getLsbD_ofNat, BitVec.getLsbD_and, BitVec.getLsbD_not, Nat.testBit_shiftLeft, Nat.testBit_shiftRight,
    Nat.testBit_two_pow_sub_one, hk, decide_true, Bool.true_and]
  by_cases hk3 : k < 3
  · simp [hk3]
  · have hle : 3 ≤ k := Nat.not_lt.1 hk3
    simp [hk3, hle, BitVec.getLsbD]

theorem countLod_eq_counted (h : Hart) (t : Thread) (srcs : List Reg) :
    countLod h t srcs = h.counted t (srcs.any fun r => h.pacer.fromQa[r]) := by
  cases t <;> simp [countLod, Hart.counted]

/-- A mask has a bit set below a bound. -/
theorem anySet_iff (m n : Nat) : anySet m n = true ↔ ∃ k, k < n ∧ m.testBit k = true := by
  rw [anySet, decide_eq_true_iff]
  constructor
  · intro hne
    obtain ⟨k, hk⟩ := Nat.exists_testBit_of_ne_zero hne
    rw [Nat.testBit_mod_two_pow, Bool.and_eq_true, decide_eq_true_iff] at hk
    exact ⟨k, hk⟩
  · rintro ⟨k, hk, hset⟩ hz
    have hbit : (m % 2 ^ n).testBit k = true := by simp [Nat.testBit_mod_two_pow, hk, hset]
    rw [hz, Nat.zero_testBit] at hbit
    cases hbit

/-- An instruction of both threads. -/
theorem allowed_of_both {i : Instr} (hp : i.allowed .pacer = true) (ha : i.allowed .anchor = true) (t : Thread) : i.allowed t = true := by
  cases t
  · exact hp
  · exact ha

section
variable {s : State} {h : Hart} {t : Thread} (hr : s.runs h t)
include hr

/-- A conditional branch on its thread (R178). -/
theorem branch_runs {i : Instr} (ha : Instr.allowed i t = true) {c : BranchCond} {s1 s2 : Reg} {taken : Bool}
    (hc : c.holds (h.reg t s1) (h.reg t s2) = taken) (off : BitVec 39) :
    branch i c s1 s2 off s = .next (s.put ((h.counted t (h.pacer.fromQa[s1] || h.pacer.fromQa[s2])).goto t
      (if taken then (h.th t).pc + off.signExtend 64 * 8 else (h.th t).pc + 8))) := by
  rw [branch, runs_thread hr ha, ← hc, countLod_eq_counted, List.any_cons, List.any_cons, List.any_nil, Bool.or_false]
  rfl

theorem jumpLink_runs {i : Instr} (ha : Instr.allowed i t = true) (d : Reg) (off : BitVec 39) :
    jumpLink i d off s = .next (s.put ((h.setReg t d ((h.th t).pc + 8)).goto t ((h.th t).pc + off.signExtend 64 * 8))) :=
  runs_thread hr ha

theorem jumpReg_runs {i : Instr} (ha : Instr.allowed i t = true) (d s1 : Reg) (off : BitVec 39) :
    jumpReg i d s1 off s = .next (s.put (((h.counted t h.pacer.fromQa[s1]).setReg t d ((h.th t).pc + 8)).goto t
      ((h.reg t s1 + off.signExtend 64 * 8) &&& ~~~7))) := by
  rw [jumpReg, runs_thread hr ha, div_mul_eight, countLod_eq_counted, List.any_cons, List.any_nil, Bool.or_false]
  rfl

end

section
variable {s : State} {h : Hart} (hr : s.runs h .anchor) {i : Instr} (ha : Instr.allowed i .anchor = true) (want : Bool) (m : MaskReg)
  (off : BitVec 39)
include hr ha

/-- A branch on a mask that an entry of the VIQ has still to write waits (R180). -/
theorem branchMask_waits (hp : maskPending h.anchor m = true) : branchMask i want m off s = .next s := by
  rw [branchMask, runs_thread hr ha, if_pos hp]

theorem branchMask_runs (hp : maskPending h.anchor m = false) : branchMask i want m off s =
    .next (s.put (h.goto .anchor (if anySet h.anchor.th.masks[m] h.anchor.th.vl.toNat == want then
      h.anchor.th.pc + off.signExtend 64 * 8 else h.anchor.th.pc + 8))) := by
  rw [branchMask, runs_thread hr ha, hp]
  rfl

end

/-- Settles O10: each branch goes by its condition; a branch on a mask by whether a bit below `vl` is set. -/
theorem branches : Obligations.Branches := by
  refine ⟨fun s h t s1 s2 off hr => ?_, fun s h t d s1 off hr => ?_, fun s h m off hr => ⟨fun hp => ?_, fun hp => ⟨?_, ?_⟩⟩⟩
  · have hne : BranchCond.ne.holds (h.reg t s1) (h.reg t s2) = decide (h.reg t s1 ≠ h.reg t s2) := by
      simp only [BranchCond.holds, bne, decide_not]; rfl
    have hboth {i : Instr} := @allowed_of_both i
    exact ⟨branch_runs hr (hboth rfl rfl t) rfl off, branch_runs hr (hboth rfl rfl t) hne off, branch_runs hr (hboth rfl rfl t) rfl off,
      branch_runs hr (hboth rfl rfl t) rfl off, branch_runs hr (hboth rfl rfl t) rfl off, branch_runs hr (hboth rfl rfl t) rfl off⟩
  · exact ⟨jumpLink_runs hr (allowed_of_both rfl rfl t) d off, jumpReg_runs hr (allowed_of_both rfl rfl t) d s1 off⟩
  · exact ⟨branchMask_waits hr rfl true m off hp, branchMask_waits hr rfl false m off hp⟩
  · intro hset
    have hany := (anySet_iff _ _).2 hset
    exact ⟨(branchMask_runs hr rfl true m off hp).trans (by rw [hany]; rfl), (branchMask_runs hr rfl false m off hp).trans (by rw [hany]; rfl)⟩
  · intro hset
    have hany := Bool.eq_false_iff.2 fun hany => hset ((anySet_iff _ _).1 hany)
    exact ⟨(branchMask_runs hr rfl true m off hp).trans (by rw [hany]; rfl), (branchMask_runs hr rfl false m off hp).trans (by rw [hany]; rfl)⟩

end Sys2Proof.Machine
end

section
/-! PROOFS. An instruction of the other thread (R14, R167). -/
namespace Sys2Proof.Machine

open Sys2Proof

/-- What enters the vector queue is executed by the vector unit's path (R23). -/
theorem exec_vectorInstr {i : Instr} {u : VUse} (hu : useOf i = some u) (s : State) : exec i s = vectorInstr i s := by
  cases i <;> first | rfl | cases hu

/-- exec of an encoded instruction that its thread may not run (R14): what does not enter the vector queue runs on its thread, or on the Pacer
alone, and each refuses it. -/
theorem exec_refused {s : State} {h : Hart} {t : Thread} {i : Instr} (hr : s.runs h t) (he : (encode i).isSome = true)
    (ha : Instr.allowed i t = false) : exec i s = .next (refuseWord s s.cur.hart h t 0x01) := by
  cases hu : useOf i with
  | some u => rw [exec_vectorInstr hu, vectorInstr, refused_thread hr ha]
  | none =>
    obtain ⟨hh, ht⟩ := hr
    cases t <;> cases i <;> first
      | (cases ha; done)
      | (cases he; done)
      | (cases hu; done)
      | (conv_lhs => whnf); simp only [hh, ht, ha, Bool.false_eq_true, if_false]

/-- An Anchor with an empty queue and no convoy being assembled has nothing to abandon but the mark of one too long. -/
theorem abandonOpen_closed {a : AnchorState} (ho : a.openLen = none) : abandonOpen a = { a with overlong := none } := by
  simp only [abandonOpen, ho]

theorem abandonOpen_idem {a : AnchorState} (ho : a.openLen = none) : abandonOpen (abandonOpen a) = abandonOpen a := by
  rw [abandonOpen_closed ho, abandonOpen_closed (a := { a with overlong := none }) ho]

theorem modify_set {α : Type} (as : List α) (i : Nat) (a : α) (f : α → α) : (as.set i a).modify i f = as.set i (f a) := by
  refine List.ext_getElem? fun k => ?_
  rw [List.getElem?_modify, List.getElem?_set, List.getElem?_set]
  by_cases hik : i = k <;> simp only [hik, if_true, if_false]
  · split <;> rfl
  · exact Option.map_id'

theorem modHart_put (s : State) (h : Hart) (f : Hart → Hart) : modHart (s.put h) s.cur.hart f = s.put (f h) := by
  rw [modHart, State.put, modify_set]; rfl

/-- A trap delivered abandons the Anchor's open convoy by itself (R145). -/
theorem deliverTrap_abandoned (s : State) (h : Hart) (info : TrapInfo) (ho : h.anchor.openLen = none) :
    deliverTrap (setAnchor s s.cur.hart h (abandonOpen h.anchor)) s.cur.hart info = deliverTrap (s.put h) s.cur.hart info := by
  have hmod : modAnchor (setAnchor s s.cur.hart h (abandonOpen h.anchor)) s.cur.hart abandonOpen = modAnchor (s.put h) s.cur.hart abandonOpen := by
    have hput : setAnchor s s.cur.hart h (abandonOpen h.anchor) = s.put { h with anchor := abandonOpen h.anchor } := rfl
    rw [hput, modAnchor, modHart_put, modAnchor, modHart_put, abandonOpen_idem ho]
  rw [deliverTrap, hmod, deliverTrap]

/-- Settles O13: each path of `exec` refuses what its thread may not run; a refusal traps at once in the Pacer, and in an Anchor whose queue
is empty. -/
theorem instructionsOfTheOtherThread : Obligations.InstructionsOfTheOtherThread := by
  refine fun s h t i hr he ha => ⟨exec_refused hr he ha, ?_, ?_⟩
  · rintro rfl; rfl
  · rintro rfl hviq ho
    have hempty : (abandonOpen h.anchor).viq.isEmpty = true := by simp [abandonOpen_closed ho, hviq]
    simp only [refuseWord, hempty, if_true]
    exact deliverTrap_abandoned s h _ ho

end Sys2Proof.Machine
end

section
/-! PROOFS. Loops (R33, R34, R36). -/
namespace Sys2Proof.Machine

open Sys2Proof

/-! ### The start of a loop -/

/-- A loop whose body is fetched, decoded and legal starts (R34, R184). -/
theorem loopStart_legal {s s' : State} {x : Nat} {h : Hart} {n : Nat} {ws : List Word} {is : List Instr}
    (hw : bodyWords h n s (h.anchor.th.pc + 8) = .ok (s', .ok ws)) (hd : decodeAll ws = some is) (hl : bodyLegal ⟨false, false⟩ is = true)
    (k : State → List Word → Out) : loopStart s x h n k = k s' ws := by
  simp only [loopStart, hw, hd, hl, if_true]

/-- The stage predicates at the start of a modulo loop (R36): m8 all ones when there is an iteration, the others 0. -/
theorem rotateStages_clear (cls : Fin 6) (ms : Vector Nat 12) (l : LoopState) (hp : l.pass = 0) :
    rotateStages cls (clearStages ms l.stages) l = Vector.ofFn fun m =>
      if m.val = 8 then (if l.trips = 0 then 0 else 2 ^ (8 * (128 * 2 ^ cls.val)) - 1)
      else if 8 < m.val ∧ m.val < 8 + l.stages then 0 else ms[m] := by
  refine Vector.ext fun k hk => ?_
  simp only [rotateStages, clearStages, Vector.getElem_ofFn, Fin.getElem_fin, hp, Nat.pos_iff_ne_zero, ite_not]
  by_cases h8 : k = 8
  · simp only [h8, if_true]; rfl
  · simp only [h8, if_false]
    by_cases hst : 8 < k ∧ k < 8 + l.stages
    · have hprev : 8 ≤ k - 1 ∧ k - 1 < 8 + l.stages := by omega
      rw [if_pos hst, if_pos hst, if_pos hprev]
    · have hout : ¬(8 ≤ k ∧ k < 8 + l.stages) := by omega
      rw [if_neg hst, if_neg hst, if_neg hout]

section
variable {s : State} {h : Hart} {n : Fin 32} (hr : s.runs h .anchor)
include hr

theorem exec_vloop : exec (.vloop n) s = loopStart s s.cur.hart h (n.val + 1) fun s0 ws =>
    goOn s0 s.cur.hart { h with anchor := { h.anchor with loop := some ⟨h.anchor.th.pc + 8, ws, false, 0, 0, 0⟩ } } .anchor := by
  change loopPlain _ n s = _
  rw [loopPlain, runs_thread hr rfl]

theorem exec_vloopS (trip : Reg) (stages : Fin 32) : exec (.vloopS n trip stages) s =
    if 2 ^ 32 ≤ (h.reg .anchor trip).toNat then .next (refuseWord s s.cur.hart h .anchor 0x01)
    else loopStart s s.cur.hart h (n.val + 1) fun s0 ws =>
      if stagesPending h.anchor stages.val then .next s0
      else
        let l : LoopState := ⟨h.anchor.th.pc + 8, ws, true, stages.val, (h.reg .anchor trip).toNat, 0⟩
        goOn s0 s.cur.hart { h with anchor := { h.anchor with
          loop := some l, th := { h.anchor.th with masks := rotateStages h.cls (clearStages h.anchor.th.masks stages.val) l } } } .anchor := by
  change loopModulo _ n trip stages s = _
  rw [loopModulo, runs_thread hr rfl]

end

/-! ### The end of a pass -/

theorem inLoop_boundary {a : AnchorState} {l : LoopState} (hl : a.loop = some l) (hfit : l.base.toNat + 8 * l.words.length < 2 ^ 64)
    (hpc : a.th.pc = l.base + BitVec.ofNat 64 (8 * l.words.length)) : inLoop a = some l := by
  have hval : a.th.pc.toNat = l.base.toNat + 8 * l.words.length := by
    rw [hpc, BitVec.toNat_add, BitVec.toNat_ofNat, Nat.add_mod_mod, Nat.mod_eq_of_lt hfit]
  rw [inLoop, hl, Option.filter_some, hval]
  simp

/-- With no convoy open in a loop's body there is none to close (R153). -/
theorem closeConvoy_closed {s : State} {i : Nat} {h : Hart} {l : LoopState} (hl : inLoop h.anchor = some l) (ho : h.anchor.openLen = none) :
    closeConvoy s i h = .ok h := by
  have hopen : openEntries h.anchor = [] := by simp [openEntries, ho]
  simp only [closeConvoy, hl, hopen, Option.isNone_some, Bool.and_false, Bool.false_eq_true, if_false, ← ho]
  rfl

/-- The turn of a front end that stands behind its loop's body (R33). -/
theorem anchorTurn_boundary {s : State} {i : Nat} {h : Hart} {l : LoopState} (hi : s.harts[i]? = some h)
    (hgo : mayGo h h.anchor.th = true) (hv : h.anchor.vtokens = []) (hwd : h.anchor.withdrawn = none) (hl : inLoop h.anchor = some l)
    (hpc : h.anchor.th.pc = l.base + BitVec.ofNat 64 (8 * l.words.length)) : anchorTurn s i = .next (loopBoundary s i h l) := by
  have hb : atBoundary l h.anchor.th.pc = true := by rw [atBoundary, hpc, beq_self_eq_true]
  simp only [anchorTurn, hi, hgo, hv, hwd, hl, hb, List.isEmpty_nil, Bool.not_true, Bool.or_false, Bool.false_eq_true, if_false, if_true]

theorem loopBoundary_closed {s : State} {i : Nat} {h : Hart} {l : LoopState} (hl : inLoop h.anchor = some l) (ho : h.anchor.openLen = none)
    (hviq : h.anchor.viq = []) : loopBoundary s i h l =
    let a := h.anchor
    if l.modulo then
      if l.pass + 1 < l.trips + l.stages - 1 then
        setAnchor s i h { a with
          loop := some { l with pass := l.pass + 1 }
          th := { a.th with pc := l.base, masks := rotateStages h.cls a.th.masks { l with pass := l.pass + 1 } } }
      else setAnchor s i h { a with loop := none, th := { a.th with masks := clearStages a.th.masks l.stages } }
    else if a.th.vl = 0 then setAnchor s i h { a with loop := none }
    else setAnchor s i h { a with loop := some { l with pass := l.pass + 1 }, th := { a.th with pc := l.base } } := by
  simp only [loopBoundary, closeConvoy_closed hl ho, stagesPending, hviq, List.any_nil, Bool.false_eq_true, if_false]

/-- Settles O12: a loop starts by `loopStart`; the end of a pass goes by the kind of the loop and by what is left of it. -/
theorem loops : Obligations.Loops := by
  refine ⟨fun s s' h n trip stages ws is hr => ?_, fun s i h l hi hgo hv hfit hwd hloop hviq ho hpc => ?_⟩
  · intro pc hw hd hl starts
    refine ⟨?_, fun htrip _ _ hpend => ?_, fun htrip => ?_⟩
    · rw [exec_vloop hr, loopStart_legal hw hd hl]
      rfl
    · rw [exec_vloopS hr, if_neg (Nat.not_le.2 htrip), loopStart_legal hw hd hl, hpend]
      simp only [Bool.false_eq_true, if_false]
      rw [rotateStages_clear h.cls h.anchor.th.masks ⟨pc + 8, ws, true, stages.val, (h.reg .anchor trip).toNat, 0⟩ rfl]
      rfl
    · rw [exec_vloopS hr, if_pos htrip]
  · have hin := inLoop_boundary hloop hfit hpc
    intro a goes
    have hturn : anchorTurn s i = .next _ := (anchorTurn_boundary hi hgo hv hwd hin hpc).trans (congrArg _ (loopBoundary_closed hin ho hviq))
    refine ⟨fun hm hvl => ?_, fun hm hvl => ?_, fun hm hmore => ?_, fun hm hlast => ?_⟩ <;> refine hturn.trans ?_
    · simp only [hm, Bool.false_eq_true, if_false]
      rw [if_pos hvl]; rfl
    · simp only [hm, Bool.false_eq_true, if_false]
      rw [if_neg hvl]; rfl
    · simp only [hm, hmore, if_true]; rfl
    · simp only [hm, if_true]
      rw [if_neg (Nat.not_lt.2 hlast)]; rfl

end Sys2Proof.Machine
end

section
/-! PROOFS. Leaving: `YIELD`, `VREL`, `HEXIT` and the retirement of a hart (R44, R45). -/
namespace Sys2Proof.Machine

open Sys2Proof

/-! ### VREL and HEXIT -/

theorem modHart_eq_put {s : State} {h : Hart} (hi : s.harts[s.cur.hart]? = some h) (f : Hart → Hart) :
    modHart s s.cur.hart f = s.put (f h) := by
  rw [modHart, modify_of_getElem? hi, State.put]

theorem deliverAll_none {s : State} {i : Nat} {h : Hart} (hi : s.harts[i]? = some h) (hl : h.pacer.loads = []) : deliverAll s i = s := by
  simp only [deliverAll, hi, hl, List.foldl_nil]

/-- A Pacer with nothing on its way has its vector accesses performed. -/
theorem settleVector_none {s : State} {i : Nat} {h : Hart} (hi : s.harts[i]? = some h) (hl : h.pacer.loads = [])
    (hs : h.pacer.stores = []) : settleVector s i = s := by
  rw [settleVector, deliverAll_none hi hl, drainStores_none hi hs]

theorem vectorSettles_none {s : State} (hrec : s.mgmt.recoveries = []) (h : Hart) : vectorSettles s h = true := by
  rw [vectorSettles, loadsFenced_none hrec, storesFenced_none hrec]; rfl

/-- A thread with nothing to wait for gives up its vector state (R44). -/
theorem releaseVectors_settled {s : State} {h : Hart} {t : Thread} (hi : s.harts[s.cur.hart]? = some h) (hrec : s.mgmt.recoveries = [])
    (hp : t = .pacer → h.pacer.loads = [] ∧ h.pacer.stores = []) (ha : t = .anchor → h.anchor.viq = []) (go : State → Out) :
    releaseVectors s s.cur.hart h t go = go (s.put (setVrel h t)) := by
  cases t with
  | pacer =>
    obtain ⟨hl, hs⟩ := hp rfl
    simp only [releaseVectors, vectorSettles_none hrec, if_true, settleVector_none hi hl hs, modHart_eq_put hi]
  | anchor => simp only [releaseVectors, ha rfl, List.isEmpty_nil, if_true, modHart_eq_put hi]

section
variable {s : State} {h : Hart} {t : Thread} (hr : s.runs h t)
include hr

theorem exec_vrel : exec .vrel s = if (h.th t).vrel then .next (refuseWord s s.cur.hart h t 0x01)
    else releaseVectors s s.cur.hart h t fun s' => .next (modHart s' s.cur.hart fun h => h.advance t) := by
  change vrelStep _ s = _
  rw [vrelStep, runs_thread hr (allowed_of_both rfl rfl t)]

theorem exec_hexit : exec .hexit s =
    if t == .anchor && !h.anchor.viq.isEmpty then .next s
    else if t == .anchor && h.anchor.deferredErr.isSome then .next (takeDeferred s s.cur.hart)
    else if (h.th t).vrel then .next (modHart s s.cur.hart fun h => h.setTh t { h.th t with hexit := true })
    else releaseVectors s s.cur.hart h t fun s' => .next (modHart s' s.cur.hart fun h => h.setTh t { h.th t with hexit := true }) := by
  change hexitStep _ s = _
  rw [hexitStep, runs_thread hr (allowed_of_both rfl rfl t)]

end

/-! ### A store that is performed changes memory alone -/

/-- t is s but for what memory, the caches and the records of what has been stored hold. -/
abbrev State.sameButMemory (s t : State) : Prop :=
  { t with mem := s.mem, poison := s.poison, l1 := s.l1, farCache := s.farCache, staged := s.staged, accs := s.accs, seams := s.seams,
           earlier := s.earlier, watchers := s.watchers } = s

theorem State.sameButMemory.refl (s : State) : s.sameButMemory s := rfl

theorem State.sameButMemory.trans {s t u : State} (hst : s.sameButMemory t) (htu : t.sameButMemory u) : s.sameButMemory u :=
  (congrArg (fun x : State => { x with mem := s.mem, poison := s.poison, l1 := s.l1, farCache := s.farCache, staged := s.staged, accs := s.accs,
                                       seams := s.seams, earlier := s.earlier, watchers := s.watchers }) htu).trans hst

section
variable {s t : State} (h : s.sameButMemory t)
include h
theorem State.sameButMemory.harts : t.harts = s.harts := (congrArg State.harts h :)
theorem State.sameButMemory.gangs : t.gangs = s.gangs := (congrArg State.gangs h :)
theorem State.sameButMemory.queues : t.queues = s.queues := (congrArg State.queues h :)
theorem State.sameButMemory.contexts : t.contexts = s.contexts := (congrArg State.contexts h :)
end

theorem foldl_sameButMemory {α : Type} {f : State → α → State} (hf : ∀ (s : State) (a : α), s.sameButMemory (f s a)) (as : List α)
    (s : State) : s.sameButMemory (as.foldl f s) := foldl_related State.sameButMemory.refl (fun _ _ _ => State.sameButMemory.trans) hf as s

theorem storeThrough_sameButMemory (s : State) (die loc : Nat) (bs : List Byte) (p : Bool) : s.sameButMemory (storeThrough s die loc bs p) := rfl

theorem storeMarked_sameButMemory (s : State) (die loc : Nat) (bs : List Byte) (bad : List Nat) :
    s.sameButMemory (storeMarked s die loc bs bad) :=
  (storeThrough_sameButMemory s die loc bs false).trans (foldl_sameButMemory (fun _ _ => storeThrough_sameButMemory ..) bad _)

theorem asScalar_sameButMemory {f : State → State} (hf : ∀ s : State, s.sameButMemory (f s)) (s : State) (core : Nat) (words : List Nat) :
    s.sameButMemory (asScalar s core words f) := hf s

theorem l1WriteBytes_sameButMemory (l : L1Line) (os : List Nat) (s : State) : s.sameButMemory (l1WriteBytes s l os) := by
  induction os generalizing s with
  | nil => rfl
  | cons o os ih => exact (storeThrough_sameButMemory ..).trans (ih _)

theorem l1Clean_sameButMemory (s : State) (core line : Nat) : s.sameButMemory (l1Clean s core line) := by
  unfold l1Clean
  split
  · rfl
  · split
    · rfl
    · exact l1WriteBytes_sameButMemory ..

theorem l1CleanAll_sameButMemory (s : State) (core : Nat) (p : L1Line → Bool) : s.sameButMemory (l1CleanAll s core p) :=
  foldl_sameButMemory (fun s line => l1Clean_sameButMemory s core line) _ s

theorem passL1_sameButMemory (s : State) (core loc : Nat) : s.sameButMemory (passL1 s core loc) := by
  unfold passL1
  split
  · exact l1Clean_sameButMemory s core _
  · rfl

theorem landStore_sameButMemory (core : Nat) (s : State) (f : StoreFlight) : s.sameButMemory (landStore core s f) := by
  unfold landStore
  split
  · exact storeMarked_sameButMemory ..
  · exact (passL1_sameButMemory s core f.loc).trans (asScalar_sameButMemory (fun _ => storeMarked_sameButMemory ..) _ core _)

/-- Performing the stores that a test picks: they leave the hart, and only memory changes with them. -/
theorem drainStores_sameButMemory {s : State} {i : Nat} {h : Hart} (hi : s.harts[i]? = some h) (p : StoreFlight → Bool) :
    State.sameButMemory { s with harts := s.harts.set i { h with pacer := { h.pacer with stores := h.pacer.stores.filter (!p ·) } } }
      (drainStores s i p) := by
  have hstart : modPacer s i (fun q => { q with stores := q.stores.filter (!p ·) }) =
      { s with harts := s.harts.set i { h with pacer := { h.pacer with stores := h.pacer.stores.filter (!p ·) } } } := by
    rw [modPacer, modHart, modify_of_getElem? hi]
  simp only [drainStores, hi, hstart]
  exact foldl_sameButMemory (landStore_sameButMemory h.core) _ _

/-! ### Retirement -/

/-- A hart as it retires (R45): its stores performed, its claim released, its queues empty. -/
def Hart.retired (h : Hart) (held : Bool) : Hart :=
  { h with
    mode := .retired
    slotHeld := held
    pacer := { h.pacer with stores := [] }
    anchor := { h.anchor with claim := false }
    lq := Vector.replicate 4 []
    sq := Vector.replicate 2 []
    qa := []
    qc := [] }

/-- Its gang has another hart that has not retired. -/
def State.othersIn (s : State) (i : Nat) (h : Hart) : Prop :=
  ∃ j x, j ≠ i ∧ s.harts[j]? = some x ∧ (x.part = h.part ∧ x.gang = h.gang) ∧ x.mode ≠ .retired

theorem mem_gangHarts {s : State} {p : Fin 8} {g : BitVec 32} {j : Nat} :
    j ∈ gangHarts s p g ↔ ∃ x, s.harts[j]? = some x ∧ (x.part = p ∧ x.gang = g) ∧ x.mode ≠ .retired := by
  rw [gangHarts, List.mem_filter, List.mem_range]
  constructor
  · rintro ⟨-, hx⟩
    split at hx
    next x hj => exact ⟨x, hj, by simpa using hx⟩
    next => cases hx
  · rintro ⟨x, hj, hx⟩
    refine ⟨(List.getElem?_eq_some_iff.1 hj).1, ?_⟩
    simpa [hj] using hx

/-- Once hart i has retired, what is left of its gang is the others. -/
theorem gangHarts_retired {s t : State} {i : Nat} {h : Hart} {held : Bool} (hi : s.harts[i]? = some h)
    (ht : t.harts = s.harts.set i (h.retired held)) : (gangHarts t h.part h.gang).isEmpty = true ↔ ¬ s.othersIn i h := by
  rw [List.isEmpty_iff, List.eq_nil_iff_forall_not_mem, ← not_exists]
  refine not_congr (exists_congr fun j => ?_)
  rw [mem_gangHarts, ht]
  by_cases hij : i = j
  · subst hij
    simp [List.getElem?_set_self (List.getElem?_eq_some_iff.1 hi).1, Hart.retired]
  · simp [List.getElem?_set_ne hij, Ne.symm hij]

/-- The state that a hart's retirement leaves, before its gang and its tracks. -/
def leaveDevice (s : State) (i : Nat) (h : Hart) : State :=
  modHart (freeContexts (l1CleanAll (drainStores s i fun _ => true) h.core fun l => !l.dirty.isEmpty) i) i fun h => { h with
    mode := .retired
    anchor := { h.anchor with claim := false }
    lq := Vector.replicate 4 []
    sq := Vector.replicate 2 []
    qa := []
    qc := [] }

theorem leaveDevice_frame {s : State} {i : Nat} {h : Hart} (hi : s.harts[i]? = some h) :
    (leaveDevice s i h).harts = s.harts.set i (h.retired h.slotHeld) ∧ (leaveDevice s i h).gangs = s.gangs ∧
      (leaveDevice s i h).queues = s.queues ∧ (leaveDevice s i h).contexts = s.contexts.filter fun c => c.2 != i := by
  have hmem := (drainStores_sameButMemory hi fun _ => true).trans (l1CleanAll_sameButMemory _ h.core fun l => !l.dirty.isEmpty)
  refine ⟨?_, hmem.gangs, hmem.queues, congrArg (List.filter fun c : Nat × Nat => c.2 != i) hmem.contexts⟩
  simp only [leaveDevice, modHart, freeContexts, hmem.harts]
  rw [modify_set]
  simp [Hart.retired]

theorem retireHart_eq {s : State} {i : Nat} {h : Hart} (hi : s.harts[i]? = some h) (hrec : s.mgmt.recoveries = []) : retireHart s i =
    if mayRetire h then
      if h.anchor.deferredErr.isSome then takeDeferred s i
      else
        freeTracks (if (gangHarts (leaveDevice s i h) h.part h.gang).isEmpty then
          freeSlots { leaveDevice s i h with gangs := (leaveDevice s i h).gangs.filter fun g => !(g.part == h.part && g.gangid == h.gang) }
            h.part h.gang
        else leaveDevice s i h) h.part h.positions
    else s := by
  simp only [retireHart, hi, storesFenced_none hrec, dirtyFenced_none hrec, Bool.or_false]
  cases mayRetire h <;> cases h.anchor.deferredErr.isSome <;> rfl

/-- A hart's tracks are free, and its gang stays with the others (R45). -/
theorem retireHart_others {s : State} {i : Nat} {h : Hart} (hi : s.harts[i]? = some h) (hrec : s.mgmt.recoveries = [])
    (hm : mayRetire h = true) (hdef : h.anchor.deferredErr = none) (ho : s.othersIn i h) :
    retireHart s i = freeTracks (leaveDevice s i h) h.part h.positions := by
  have hsome : ¬ (gangHarts (leaveDevice s i h) h.part h.gang).isEmpty = true :=
    fun he => (gangHarts_retired hi (leaveDevice_frame hi).1).1 he ho
  rw [retireHart_eq hi hrec, if_pos hm, hdef, if_neg hsome]
  rfl

/-- With its last hart the gang ends (R45). -/
theorem retireHart_last {s : State} {i : Nat} {h : Hart} (hi : s.harts[i]? = some h) (hrec : s.mgmt.recoveries = [])
    (hm : mayRetire h = true) (hdef : h.anchor.deferredErr = none) (ho : ¬ s.othersIn i h) :
    retireHart s i = freeTracks (freeSlots { leaveDevice s i h with
      gangs := (leaveDevice s i h).gangs.filter fun g => !(g.part == h.part && g.gangid == h.gang) } h.part h.gang) h.part h.positions := by
  have hempty := (gangHarts_retired hi (leaveDevice_frame hi).1).2 ho
  rw [retireHart_eq hi hrec, if_pos hm, hdef, if_pos hempty]
  rfl

/-- A hart after the save slots of a gang have been freed. -/
theorem freeSlots_getElem? {s : State} {p : Fin 8} {g : BitVec 32} {j : Nat} {x : Hart} (hj : s.harts[j]? = some x) :
    (freeSlots s p g).harts[j]? = some (if x.part = p ∧ x.gang = g then { x with slotHeld := false } else x) := by
  simp [freeSlots, hj]

theorem mayRetire_iff (h : Hart) : mayRetire h = true ↔ h.mode = .running ∧ h.pacer.th.hexit = true ∧ h.anchor.th.hexit = true ∧
    h.anchor.mqueue = [] ∧ ∀ q : Fin 4, ∀ c ∈ h.pacer.engines[q], c.tag = none := by
  have hall : (h.pacer.engines.toList.all fun q => q.all fun c => c.tag.isNone) = true ↔
      ∀ q : Fin 4, ∀ c ∈ h.pacer.engines[q], c.tag = none := by
    simp only [List.all_eq_true, Vector.mem_toList_iff, Option.isNone_iff_eq_none]
    exact ⟨fun hq q => hq _ (Vector.getElem_mem q.isLt), fun hq x hx => by
      obtain ⟨k, hk, rfl⟩ := Vector.mem_iff_getElem.1 hx; exact hq ⟨k, hk⟩⟩
  simp only [mayRetire, Bool.and_eq_true, beq_iff_eq, List.isEmpty_iff, hall, and_assoc]

/-- Settles O40: `YIELD` by definition, `VREL` and `HEXIT` by what they wait for, the retirement by whether its gang has another hart. -/
theorem leaving : Obligations.Leaving := by
  refine ⟨fun s h t hr => ⟨?_, fun hrec hp ha => ?_, ?_⟩, fun s i h hi hrun hrec => ?_⟩
  · change onThread _ s (goOn s) = _
    rw [runs_thread hr (allowed_of_both rfl rfl t)]
    rfl
  · intro rel dead h'
    have hset : setVrel h t = h' := by
      simp only [setVrel, deadVectors, Bool.and_eq_true]; rfl
    have hgo := releaseVectors_settled hr.1 hrec hp ha
    refine ⟨fun hv => ?_, fun hv => ?_, fun hdef => ?_⟩
    · rw [exec_vrel hr, hv, hgo, hset, modHart_put]; rfl
    · rw [exec_vrel hr, hv]; rfl
    · have hviq : (t == .anchor && !h.anchor.viq.isEmpty) = false := by
        cases t with
        | pacer => rfl
        | anchor => simp [ha rfl]
      have hderr : (t == .anchor && h.anchor.deferredErr.isSome) = false := by
        cases t with
        | pacer => rfl
        | anchor => simp [hdef rfl]
      rw [exec_hexit hr, hviq, hderr, hgo, hset, modHart_put, modHart_eq_put hr.1]
      cases (h.th t).vrel <;> rfl
  · rintro rfl
    refine ⟨fun hviq => ?_, fun hviq hdef => ?_⟩
    · rw [exec_hexit hr]; simp [hviq]
    · rw [exec_hexit hr]; simp [hviq, Option.isSome_iff_ne_none, hdef]
  · intro mine others left may
    have hmay : mayRetire h = true ↔ may := (mayRetire_iff h).trans (and_iff_right hrun)
    have hexec : exec (.hartRetire i) s = .next (retireHart s i) := rfl
    refine ⟨fun hm hdef => ?_, fun hm hdef => ?_, fun hm => ?_⟩
    · obtain ⟨hharts, hgangs, hqueues, hcontexts⟩ := leaveDevice_frame hi
      have hctx (c : Nat × Nat) : c ∈ (leaveDevice s i h).contexts ↔ c ∈ s.contexts ∧ c.2 ≠ i := by simp [hcontexts]
      have hlen : (leaveDevice s i h).harts.length = s.harts.length := by rw [hharts, List.length_set]
      refine ⟨_, rfl, ?_⟩
      by_cases ho : others
      · rw [retireHart_others hi hrec (hmay.2 hm) hdef ho]
        exact ⟨hqueues, hlen, hctx, fun _ => ⟨hgangs, hharts⟩, fun hn => absurd ho hn⟩
      · rw [retireHart_last hi hrec (hmay.2 hm) hdef ho]
        refine ⟨hqueues, (List.length_map _).trans hlen, hctx, fun hn => absurd hn ho, fun _ => ⟨fun g => ?_, ?_, fun j x hji hj => ?_⟩⟩
        · have hg : g ∈ (leaveDevice s i h).gangs.filter (fun g => !(g.part == h.part && g.gangid == h.gang)) ↔
              g ∈ s.gangs ∧ ¬ (g.part = h.part ∧ g.gangid = h.gang) := by rw [hgangs, List.mem_filter]; simp [imp_iff_not_or]
          exact hg
        · have hself : (leaveDevice s i h).harts[i]? = some (h.retired h.slotHeld) := by
            rw [hharts, List.getElem?_set_self (List.getElem?_eq_some_iff.1 hi).1]
          exact (freeSlots_getElem? hself).trans (congrArg some (if_pos ⟨rfl, rfl⟩))
        · have hother : (leaveDevice s i h).harts[j]? = some x := by rw [hharts, List.getElem?_set_ne (Ne.symm hji), hj]
          exact ⟨fun hx => (freeSlots_getElem? hother).trans (congrArg some (if_pos hx)),
            fun hx => (freeSlots_getElem? hother).trans (congrArg some (if_neg hx))⟩
    · rw [hexec, retireHart_eq hi hrec, if_pos (hmay.2 hm), if_pos (Option.isSome_iff_ne_none.2 hdef)]
    · rw [hexec, retireHart_eq hi hrec, if_neg fun hmr => hm (hmay.1 hmr)]

end Sys2Proof.Machine
end

section
/-! PROOFS. What units do of themselves: renormalisation, the queue-deadlock trap (R21, R22, R96). -/
namespace Sys2Proof.Machine

open Sys2Proof

/-! ### The bytes of a number -/

theorem length_leBytes (n x : Nat) : (leBytes n x).length = n := by
  induction n generalizing x with
  | zero => rfl
  | succ n ih => rw [leBytes, List.length_cons, ih]

theorem leNat_leBytes (n x : Nat) : leNat (leBytes n x) = x % 256 ^ n := by
  induction n generalizing x with
  | zero => simp [leBytes, leNat, Nat.mod_one]
  | succ n ih =>
    rw [leBytes, leNat, ih, BitVec.toNat_ofNat, pow_succ' 256 n]
    exact Nat.mod_mul.symm

/-! ### An accumulator's bytes (R95) -/

theorem fits64_iff {i : Int} : fits64 i = true ↔ -(2 ^ 63) ≤ i ∧ i < 2 ^ 63 := by
  rw [fits64, Bool.and_eq_true, decide_eq_true_iff, decide_eq_true_iff]

theorem binOf_fits (bs : List Byte) : fits64 (binOf bs) = true := by
  rw [fits64_iff, binOf]
  exact ⟨BitVec.le_toInt _, BitVec.toInt_lt⟩

/-- A bin that fits is read back from its bytes. -/
theorem binOf_leBytes {i : Int} (hi : fits64 i = true) : binOf (leBytes 8 (BitVec.ofInt 64 i).toNat) = i := by
  obtain ⟨hlo, hhi⟩ := fits64_iff.1 hi
  rw [binOf, leNat_leBytes, Nat.mod_eq_of_lt (b := 256 ^ 8) (BitVec.isLt _), BitVec.ofNat_toNat, BitVec.setWidth_eq, BitVec.toInt_ofInt]
  exact Int.bmod_eq_of_le (by omega) (by omega)

/-- An accumulator whose bins fit is read back from its bytes; its B is what the bytes held. -/
theorem Accumulator.ofBytes_toBytes {a : Accumulator} (old : List Byte) (hlen : old.length = 32) (hb : a.b = leNat (old.take 2))
    (h0 : fits64 a.bin0 = true) (h1 : fits64 a.bin1 = true) (h2 : fits64 a.bin2 = true) :
    Accumulator.ofBytes (a.toBytes old) = a := by
  have hflags : BitVec.ofNat 6 (leNat (leBytes 1 (leNat ((old.drop 4).take 1) / 64 * 64 + a.flags.toNat))) = a.flags := by
    rw [leNat_leBytes]
    refine BitVec.eq_of_toNat_eq ?_
    have := a.flags.isLt
    rw [BitVec.toNat_ofNat]; omega
  have hfull {k : Nat} (x : Nat) : (leBytes k x).take k = leBytes k x := List.take_of_length_le (length_leBytes k x).le
  simp [-BitVec.toNat_ofInt, Accumulator.ofBytes, Accumulator.toBytes, List.drop_append, List.take_append, List.take_take, length_leBytes, hlen,
    hfull, List.drop_eq_nil_of_le, hflags, binOf_leBytes h0, binOf_leBytes h1, binOf_leBytes h2, ← hb]

theorem Accumulator.length_toBytes (a : Accumulator) (old : List Byte) (hlen : old.length = 32) : (a.toBytes old).length = 32 := by
  simp [Accumulator.toBytes, length_leBytes, hlen]

/-! ### Renormalisation (R96) -/

theorem Accumulator.renormalise_value (a : Accumulator) : a.renormalise.value = a.value := by
  unfold Accumulator.renormalise
  dsimp only
  split
  · simp only [Accumulator.value]; omega
  · rfl

/-- An accumulator renormalised keeps B, and its bins fit. -/
theorem Accumulator.renormalise_fits {a : Accumulator} (h0 : fits64 a.bin0 = true) (h1 : fits64 a.bin1 = true) (h2 : fits64 a.bin2 = true) :
    a.renormalise.b = a.b ∧ fits64 a.renormalise.bin0 = true ∧ fits64 a.renormalise.bin1 = true ∧ fits64 a.renormalise.bin2 = true := by
  unfold Accumulator.renormalise
  dsimp only
  split
  next htop =>
    refine ⟨rfl, fits64_iff.2 ?_, fits64_iff.2 ?_, htop⟩ <;> dsimp only <;> omega
  next => exact ⟨rfl, h0, h1, h2⟩

/-- The bytes of an accumulator after its carries have moved up. -/
def renormalisedBytes (old : List Byte) : List Byte := (Accumulator.ofBytes old).renormalise.toBytes old

theorem length_renormalisedBytes {old : List Byte} (hlen : old.length = 32) : (renormalisedBytes old).length = 32 :=
  Accumulator.length_toBytes _ old hlen

theorem ofBytes_renormalisedBytes {old : List Byte} (hlen : old.length = 32) :
    Accumulator.ofBytes (renormalisedBytes old) = (Accumulator.ofBytes old).renormalise := by
  obtain ⟨hb, h0, h1, h2⟩ := Accumulator.renormalise_fits (a := Accumulator.ofBytes old) (binOf_fits _) (binOf_fits _) (binOf_fits _)
  exact Accumulator.ofBytes_toBytes old hlen hb h0 h1 h2

theorem renormaliseAt_known {s : State} {loc : Nat} (hrec : s.mgmt.recoveries = []) (hk : ∃ a ∈ s.accs, a.loc = loc ∧ a.torn = false)
    (hp : ∀ a ∈ s.poison, a < loc ∨ loc + 32 ≤ a) : renormaliseAt s loc =
      { homeWrite s loc (renormalisedBytes (Memory.readAll s.mem loc 32)) false with accs := s.accs } := by
  have hany : (s.accs.any fun a => a.loc == loc && !a.torn) = true := by simpa using hk
  have hpoison : (s.poison.any fun p => decide (loc ≤ p) && decide (p < loc + 32)) = false := by
    simp only [List.any_eq_false, Bool.and_eq_true, decide_eq_true_eq]
    intro p hmem
    have := hp p hmem
    omega
  simp only [renormaliseAt, hany, rangeFenced_none hrec, homeRead, hpoison]
  rfl

/-- What the renormalisation of a known accumulator leaves (R96). -/
theorem exec_rsaddRenormalise_known {s : State} {loc : Nat} (hrec : s.mgmt.recoveries = []) (hok : s.memoryOk)
    (hk : ∃ a ∈ s.accs, a.loc = loc ∧ a.torn = false) (hp : ∀ a ∈ s.poison, a < loc ∨ loc + 32 ≤ a) :
    ∃ t : State, exec (.rsaddRenormalise loc) s = .next t ∧ t.harts = s.harts ∧
      Accumulator.ofBytes (Memory.readAll t.mem loc 32) = (Accumulator.ofBytes (Memory.readAll s.mem loc 32)).renormalise ∧
      ∀ a, a < loc ∨ loc + 32 ≤ a → Memory.read t.mem a = Memory.read s.mem a := by
  have hlen : (Memory.readAll s.mem loc 32).length = 32 := Memory.length_readAll ..
  have hbytes := length_renormalisedBytes hlen
  have hharts : (renormaliseAt s loc).harts = s.harts := by
    simp only [renormaliseAt_known hrec hk hp, homeWrite_harts]
  have hmem : (renormaliseAt s loc).mem = Memory.writeAll s.mem loc (renormalisedBytes (Memory.readAll s.mem loc 32)) := by
    simp only [renormaliseAt_known hrec hk hp, homeWrite_mem]
  refine ⟨renormaliseAt s loc, rfl, hharts, ?_, fun a ha => ?_⟩ <;> rw [hmem]
  · have hread := Memory.readAll_writeAll hok loc (renormalisedBytes (Memory.readAll s.mem loc 32))
    rw [hbytes] at hread
    rw [hread, ofBytes_renormalisedBytes hlen]
  · exact Memory.read_writeAll_outside hok (by rwa [hbytes])

/-! ### The words of QPOP (R148, R156) -/

/-- The fields of a scalar word are read back from it (R148). -/
theorem SFields.ofWord_toWord {f : SFields} {major minor : Nat} (hd : f.d < 32) (h1 : f.s1 < 32) (h2 : f.s2 < 32) (h3 : f.s3 < 32)
    (hmajor : major < 64) (hminor : minor < 64) (himm : f.imm < 2 ^ 32) :
    f.toWord major minor < 2 ^ 64 ∧ f.toWord major minor / 2 ^ 58 = major ∧
      SFields.ofWord (f.toWord major minor) = { f with minor := minor } := by
  obtain ⟨d, s1, s2, s3, _, imm⟩ := f
  simp only [SFields.toWord, SFields.ofWord, SFields.mk.injEq] at *
  omega

theorem decode_qpop {d : Reg} {q : ScalarQueue} {w : Word} (hw : encode (.qpop d q) = some w) :
    decodeAnchorWord w = .ok (.qpop d q) ∧ w.toNat / 2 ^ 58 = 7 := by
  have hcode : q.code < 2 ^ 32 := by cases q <;> decide
  have hzero : 0 < 32 := by decide
  obtain ⟨hlt, hmajor, hfields⟩ := SFields.ofWord_toWord (f := encQPOP d q) (major := 7) (minor := 1) d.isLt hzero hzero hzero
    (by decide) (by decide) hcode
  have hnat : w.toNat = (encQPOP d q).toWord 7 1 := by
    rw [← Option.some.inj hw, BitVec.toNat_ofNat, Nat.mod_eq_of_lt hlt]
  rw [hnat, hmajor]
  refine ⟨?_, rfl⟩
  have hd : finOf 32 d.val = .ok d := by simp [finOf]
  have hpoint : decodeAnchorPoint ((encQPOP d q).toWord 7 1) = .ok (.qpop d q) := by
    simp only [decodeAnchorPoint, hmajor, hfields]
    change decQPOP .qpop { encQPOP d q with minor := 1 } = _
    simp only [decQPOP, encQPOP, hd]
    cases q <;> rfl
  rw [decodeAnchorWord, hnat, hpoint]
  rfl

/-! ### Queue deadlock (R21, R22) -/

theorem peekWord_fetched {s s' : State} {h : Hart} {t : Thread} {w : Word} (hl : h.anchor.loop = none)
    (hf : fetchWord s h (h.th t).pc = .ok (s', w, false)) : peekWord s h t = some w := by
  have hin : inLoop h.anchor = none := by simp [inLoop, hl]
  have hword : threadWord s h t = fetchWord s h (h.th t).pc := by cases t <;> simp only [threadWord, hin]
  rw [peekWord, hword, hf]

section
variable {s s' : State} {h : Hart} {d : Reg} {w : Word} (hl : h.anchor.loop = none)
include hl

/-- A Pacer that stands at a `QPOP` of the empty `qa` waits for the Anchor (R18). -/
theorem pacerWaits_qpop (hstands : threadStands h.pacer.th = true) (ha : h.pacer.asleep = false) (hw : h.pacer.waitLoad = none)
    (he : encode (.qpop d .qa) = some w) (hf : fetchWord s h h.pacer.th.pc = .ok (s', w, false)) (hq : h.qa = []) :
    pacerWaits s h = some .scalar := by
  obtain ⟨hdec, hmajor⟩ := decode_qpop he
  have hpeek : peekWord s h .pacer = some w := peekWord_fetched hl hf
  simp only [pacerWaits, hstands, ha, hw, hpeek, hmajor, pacerWaits.scalarWait, hdec, hq]
  rfl

/-- An Anchor with an empty queue that stands at a `QPOP` of the empty `qc` waits for the Pacer (R18). -/
theorem anchorWaits_qpop (hstands : threadStands h.anchor.th = true) (hwd : h.anchor.withdrawn = none) (hviq : h.anchor.viq = [])
    (he : encode (.qpop d .qc) = some w) (hf : fetchWord s h h.anchor.th.pc = .ok (s', w, false)) (hq : h.qc = []) :
    anchorWaits s h = some (h.anchor.th.pc, false) := by
  obtain ⟨hdec, -⟩ := decode_qpop he
  have hpeek : peekWord s h .anchor = some w := peekWord_fetched hl hf
  have hpartner : partnerWait h = none := by
    simp [partnerWait, hviq, headConvoy, rowsComing, waitingMember]
  have hfront : frontWaits s h = some false := by
    simp only [frontWaits, hstands, hwd, scalarPending, batonPending, hviq, List.any_nil, hpeek, Option.map_some, hdec, hq]
    rfl
  rw [anchorWaits, hpartner, hfront]
  rfl

end

theorem threadStands_iff (th : ThreadState) : threadStands th = true ↔ th.tokens = [] ∧ th.inGbar = false ∧ th.hexit = false := by
  simp [threadStands, and_assoc]

/-- Settles O55: a renormalised accumulator keeps V and is read back from its bytes; both threads of the pair wait, so the trap is the
Pacer's. -/
theorem unitsOfThemselves : Obligations.UnitsOfThemselves := by
  refine ⟨fun s loc hrec hok => ⟨fun hno => ?_, fun hk hp => ?_⟩, ?_⟩
  · have hany : (s.accs.any fun a => a.loc == loc && !a.torn) = false := by
      simp only [List.any_eq_false, Bool.and_eq_true, beq_iff_eq, Bool.not_eq_true', not_and, Bool.not_eq_false]
      exact fun a ha hloc => (hno a ha).resolve_left (not_not_intro hloc)
    change Host.Outcome.next (renormaliseAt s loc) = _
    simp only [renormaliseAt, hany]
    rfl
  · intro old hhi hlo
    obtain ⟨t, hexec, hharts, hbytes, hmem⟩ := exec_rsaddRenormalise_known hrec hok hk hp
    exact ⟨t, hexec, hharts, hbytes, Accumulator.renormalise_value _, hmem⟩
  · intro s s1 s2 i h d d' w w' hi hmode hqa hqc hviq hwd hl ho hasleep hload hth he he' hf hf'
    have hstands (t : Thread) : threadStands (h.th t) = true := (threadStands_iff _).2 (hth t)
    have hpacer := pacerWaits_qpop hl (hstands .pacer) hasleep hload he hf hqa
    have hanchor := anchorWaits_qpop hl (hstands .anchor) hwd hviq he' hf' hqc
    change Host.Outcome.next (deadlockStep s i) = _
    simp only [deadlockStep, hi, hmode, hpacer, hanchor]
    rfl

end Sys2Proof.Machine
end

section
/-! PROOFS. Vector stores of elements (R17, R237, R240). -/
namespace Sys2Proof.Machine

open Sys2Proof

/-! ### Stores that go on their way (R101, R324) -/

theorem accOrdered_caches {s t : State} (h : s.sameButCaches t) (i : Nat) (side : Side) (loc n : Nat) :
    accOrdered t i side loc n = accOrdered s i side loc n := by
  have hsame : accOrdered t i side loc n =
      accOrdered { t with tlb := s.tlb, walkCache := s.walkCache, nbconf := s.nbconf, farCache := s.farCache } i side loc n := rfl
  rw [hsame, h]

/-- A fold whose every step keeps the state and collects its element. -/
theorem foldl_collects {σ α : Type} {f : σ × List α → α → σ × List α} {s : σ} {as : List α}
    (hf : ∀ done, ∀ a ∈ as, f (s, done) a = (s, done ++ [a])) (done : List α) : as.foldl f (s, done) = (s, done ++ as) := by
  induction as generalizing done with
  | nil => simp
  | cons a as ih =>
    rw [List.foldl_cons, hf done a (List.mem_cons_self ..), ih fun done b hb => hf done b (List.mem_cons_of_mem _ hb)]
    simp

/-- Stores over no accumulator every `RSADD` of which comes before them all go on their way. -/
theorem sendStores_unordered {s : State} {i : Nat} {fs : List StoreFlight}
    (hno : ∀ f ∈ fs, accOrdered s i .vector f.loc f.data.length = false) {h : Hart} (hi : s.harts[i]? = some h) :
    sendStores s i fs = (s, fs) := by
  unfold sendStores
  split
  · rfl
  · exact foldl_collects (fun done f hf => by simp only [hi, hno f hf, Bool.false_eq_true, if_false]) []

/-- A store that commits after the caches have been used. -/
theorem commitStore_sent {s s1 : State} (hc : s.sameButCaches s1) {h : Hart} (hi : s.harts[s.cur.hart]? = some h) (q : Fin 2)
    (fs : List StoreFlight) : s.sent (commitStore s1 s.cur.hart q fs false none) h q fs false := by
  refine ⟨⟨s1, hc, rfl, rfl⟩, fun hno => ?_⟩
  have hi1 : s1.harts[s.cur.hart]? = some h := by rw [hc.harts]; exact hi
  have hsend : sendStores s1 s.cur.hart fs = (s1, fs) :=
    sendStores_unordered (fun f hf => (accOrdered_caches hc ..).trans (hno f hf)) hi1
  refine ⟨?_, ?_⟩
  · simp only [commitStore, hsend, modHart_mem, hc.mem]
  · simp only [commitStore, hsend, modHart_harts]
    rw [modify_of_getElem? hi1, hc.harts]
    rfl

/-- The outcome of a vector store of hart h that commits: what the statements say of it. -/
def State.sends (s : State) (h : Hart) (q : Fin 2) (fs : List StoreFlight) (o : Out) : Prop := ∃ t : State, o = .next t ∧ s.sent t h q fs false

theorem State.sends_of_caches {s s1 : State} (hc : s.sameButCaches s1) {h : Hart} (hi : s.harts[s.cur.hart]? = some h) (q : Fin 2)
    (fs : List StoreFlight) : s.sends h q fs (.next (commitStore s1 s.cur.hart q fs false none)) :=
  ⟨_, rfl, commitStore_sent hc hi q fs⟩

/-! ### Element stores (R237, R240) -/

/-- With no load in flight nothing is overtaken. -/
theorem afterLoads_none {h : Hart} (hl : h.pacer.loads = []) (s : State) (i : Nat) (locs : List (Touch × Nat × Bool)) (n : Nat)
    (go : State → Out) : afterLoads s i h locs n go = go s := by
  simp only [afterLoads, loadsMeet, hl, List.any_nil, Bool.false_eq_true, if_false]

/-- Without a hard stop every element is below it (R386). -/
theorem filter_belowStop_none (ls : List (Touch × Nat × Bool)) : ls.filter (fun l => belowStop none l.1.elem) = ls :=
  List.filter_eq_self.2 fun _ _ => rfl

/-- The store of element e. -/
abbrev flightOf (r : Row) (at' : Nat → Nat × Bool) (e : Nat) : StoreFlight := elemFlight r (⟨e, 0⟩, at' e)

/-- A hart can perform a vector store of r to queue q under a selector: it holds its grant, r is the queue's oldest entry, the count fits its
type, and no load is in flight (R18, R44, R49). -/
structure StoreReady (s : State) (h : Hart) (q : Fin 2) (r : Row) : Prop where
  runs : s.runs h .pacer
  holds : h.pacer.th.vrel = false
  head : h.sq[q].head? = some r
  fits : h.pacer.th.vl.toNat ≤ capacity h.cls r.ty
  noLoads : h.pacer.loads = []

/-- The elements whose addresses are aligned and whose pages are there leave for them. -/
theorem storeAt_sends {s s1 : State} (hc : s.sameButCaches s1) {h : Hart} {q : Fin 2} {r : Row} (hs : StoreReady s h q r) {base stride list : Word}
    {sh : VShapeOf} {acts : List Nat} {idx : Nat → Nat} {at' : Nat → Nat × Bool}
    (hok : ∀ e ∈ acts, (elemVa sh r.ty base stride e (idx e)).toNat % elemAlign r.ty = 0 ∧
      translate s1 h.core h.part (elemVa sh r.ty base stride e (idx e)) .store false = .ok (at' e)) :
    s.sends h q (acts.map (flightOf r at'))
      (storeAt s1 s.cur.hart h q r base stride list sh none (acts.map fun e => (e, some (idx e)))) := by
  have hts : (acts.map fun e => (e, some (idx e))).filterMap
      (fun x => x.2.map fun idx => (⟨x.1, elemVa sh r.ty base stride x.1 idx⟩ : Touch)) =
      acts.map fun e => ⟨e, elemVa sh r.ty base stride e (idx e)⟩ := by
    simp [List.filterMap_map]
  have hok' : ∀ t ∈ acts.map fun e => (⟨e, elemVa sh r.ty base stride e (idx e)⟩ : Touch), t.va.toNat % elemAlign r.ty = 0 ∧
      translate s1 h.core h.part t.va .store false = .ok (at' t.elem) := fun t ht => by
    obtain ⟨e, he, rfl⟩ := List.mem_map.1 ht; exact hok e he
  have hfind : (acts.map fun e => (e, some (idx e))).find? (fun x => x.2.isNone && belowStop none x.1) = none := by
    simp [List.find?_eq_none]
  unfold storeAt
  simp only [hts, misaligned_none fun t ht => (hok' t ht).1, withProbe_ok fun t ht => (hok' t ht).2, filter_belowStop_none, afterLoads_none hs.noLoads, hfind]
  have hfs : ((acts.map fun e => (⟨e, elemVa sh r.ty base stride e (idx e)⟩ : Touch)).map fun t => (t, at' t.elem)).map (elemFlight r) =
      acts.map (flightOf r at') := by
    simp only [List.map_map]; rfl
  rw [← hfs]
  exact State.sends_of_caches ((hc.trans (noteAll_sameButCaches s1 h _)).trans (addConflicts_sameButCaches _ _)) hs.runs.1 q _

section
variable {s : State} {h : Hart} {q : Fin 2} {r : Row} (hs : StoreReady s h q r)
include hs

/-- What a store at its instruction comes to, past the checks that stop or refuse it. -/
theorem StoreReady.run {base : Reg} {stride : Option Reg} {sel : MaskSel} {sh : VShapeOf} :
    elementStore q base stride sel sh s =
      let acts := h.activesBelow sel h.pacer.th.vl.toNat
      let b := h.reg .pacer base
      let st := (stride.map (h.reg .pacer)).getD 0
      if r.ty == .qn4 && (sel.isSome || sh == .strided || stride.isSome) then .next (trapAt s s.cur.hart h .pacer 0x02 0)
      else if acts.isEmpty then .next (commitStore s s.cur.hart q [] false none)
      else match sh with
        | .indexed _ => withIndices s s.cur.hart h 0x05 id st acts fun s' xs => storeAt s' s.cur.hart h q r b st st sh none xs
        | .strided => storeAt s s.cur.hart h q r b st 0 sh none (acts.map fun e => (e, some 0))
        | .unit off =>
          if r.ty == .qn4 then blockStore s s.cur.hart h q r (b + off) h.pacer.th.vl.toNat h.pacer.th.vstart.toNat none
          else storeAt s s.cur.hart h q r b st 0 sh none (acts.map fun e => (e, some 0)) := by
  rw [elementStore, runs_pacer hs.runs]
  cases sh <;> simp only [storeRun, hs.holds, hs.head, Nat.not_lt.2 hs.fits, actives_pacerMask, Bool.false_eq_true, if_false, trapHere]

/-- A store none of whose elements is active only pops its entry (R240). -/
theorem StoreReady.sends_none {acts : List Nat} (hnone : acts = []) (at' : Nat → Nat × Bool) :
    s.sends h q (acts.map (flightOf r at')) (.next (commitStore s s.cur.hart q [] false none)) := by
  rw [hnone]
  exact State.sends_of_caches (State.sameButCaches.refl s) hs.runs.1 q []

/-- QN4 is stored by a consecutive store without a mask alone (R237). -/
theorem StoreReady.mismatch {base : Reg} {stride : Option Reg} {sel : MaskSel} {sh : VShapeOf} (ht : r.ty = .qn4)
    (hform : sel.isSome = true ∨ stride.isSome = true) :
    elementStore q base stride sel sh s = .next (trapAt s s.cur.hart h .pacer 0x02 0) := by
  have hbad : (r.ty == .qn4 && (sel.isSome || sh == .strided || stride.isSome)) = true := by
    rcases hform with hform | hform <;> simp [ht, hform]
  rw [hs.run]
  simp only [hbad, if_true]

/-- A consecutive or a strided store (R237, R240). -/
theorem StoreReady.direct {base : Reg} {stride : Option Reg} {sel : MaskSel} {sh : VShapeOf} {at' : Nat → Nat × Bool} (ht : r.ty ≠ .qn4)
    (hsh : ∀ sc, sh ≠ .indexed sc)
    (hok : ∀ e ∈ h.activesBelow sel h.pacer.th.vl.toNat,
      (elemVa sh r.ty (h.reg .pacer base) ((stride.map (h.reg .pacer)).getD 0) e 0).toNat % elemAlign r.ty = 0 ∧
      translate s h.core h.part (elemVa sh r.ty (h.reg .pacer base) ((stride.map (h.reg .pacer)).getD 0) e 0) .store false = .ok (at' e)) :
    s.sends h q ((h.activesBelow sel h.pacer.th.vl.toNat).map (flightOf r at')) (elementStore q base stride sel sh s) := by
  have hty : (r.ty == .qn4) = false := beq_eq_false_iff_ne.2 ht
  rw [hs.run]
  simp only [hty, Bool.false_and, Bool.false_eq_true, if_false, List.isEmpty_iff]
  split
  next hnone => exact hs.sends_none hnone at'
  next =>
    cases sh with
    | indexed sc => exact absurd rfl (hsh sc)
    | unit off => exact storeAt_sends (State.sameButCaches.refl s) hs hok
    | strided => exact storeAt_sends (State.sameButCaches.refl s) hs hok

/-- An indexed store (R237, R240). -/
theorem StoreReady.indexed {base list : Reg} {sel : MaskSel} {sc : Nat} {li : Nat → Nat} {at' : Nat → Nat × Bool} (ht : r.ty ≠ .qn4)
    (hst : h.pacer.stores = []) (hrec : s.mgmt.recoveries = [])
    (hlist : ∀ e ∈ h.activesBelow sel h.pacer.th.vl.toNat, (h.reg .pacer list + BitVec.ofNat 64 (4 * e)).toNat % 4 = 0 ∧
      translate s h.core h.part (h.reg .pacer list + BitVec.ofNat 64 (4 * e)) .load false = .ok (li e, false) ∧
      (∀ p ∈ s.poison, p < li e ∨ li e + 4 ≤ p) ∧ s.settled s.cur.hart (li e) 4)
    (hok : ∀ e ∈ h.activesBelow sel h.pacer.th.vl.toNat,
      (elemVa (.indexed sc) r.ty (h.reg .pacer base) (h.reg .pacer list) e (leNat (Memory.readAll s.mem (li e) 4))).toNat %
        elemAlign r.ty = 0 ∧
      translate (noteAll s h (h.touches sel h.pacer.th.vl.toNat fun e => h.reg .pacer list + BitVec.ofNat 64 (4 * e))) h.core h.part
        (elemVa (.indexed sc) r.ty (h.reg .pacer base) (h.reg .pacer list) e (leNat (Memory.readAll s.mem (li e) 4))) .store false =
        .ok (at' e)) :
    s.sends h q ((h.activesBelow sel h.pacer.th.vl.toNat).map (flightOf r at'))
      (elementStore q base (some list) sel (.indexed sc) s) := by
  have hty : (r.ty == .qn4) = false := beq_eq_false_iff_ne.2 ht
  rw [hs.run]
  simp only [hty, Bool.false_and, Bool.false_eq_true, if_false, List.isEmpty_iff]
  split
  next hnone => exact hs.sends_none hnone at'
  next =>
    obtain ⟨t, hfar, hread⟩ := withIndices_read hs.runs.1 hst 0x05 id (h.reg .pacer list) (h.activesBelow sel h.pacer.th.vl.toNat) li
      (fun t xs => storeAt t s.cur.hart h q r (h.reg .pacer base) (h.reg .pacer list) (h.reg .pacer list) (.indexed sc) none xs) hrec
      (by simp [hs.noLoads]) hlist
    have hcaches := (noteAll_sameButCaches s h (h.touches sel h.pacer.th.vl.toNat fun e => h.reg .pacer list + BitVec.ofNat 64 (4 * e))).trans
      hfar.caches
    simp only [Option.map_some, Option.getD_some]
    rw [hread]
    exact storeAt_sends hcaches hs (idx := fun e => leNat (Memory.readAll s.mem (li e) 4)) fun e he => by
      rw [translate_sameButFar hfar]; exact hok e he

/-- The bytes of a QN4 store (R237): from the one that holds element `vstart` to the end of the last block. -/
abbrev Hart.blockBytes (h : Hart) : List Nat :=
  (List.range ((h.pacer.th.vl.toNat + 63) / 64 * 32)).filter fun b => decide (h.pacer.th.vstart.toNat / 2 ≤ b)

/-- A QN4 store (R237, R240): its bytes leave for their addresses. -/
theorem StoreReady.block {base : Reg} {off : Word} {at' : Nat → Nat × Bool} (ht : r.ty = .qn4) (hp : r.poison = [])
    (hlt : h.pacer.th.vstart.toNat < h.pacer.th.vl.toNat) (hal : (h.reg .pacer base + off).toNat % 32 = 0)
    (hok : ∀ b ∈ h.blockBytes, translate s h.core h.part (h.reg .pacer base + off + BitVec.ofNat 64 b) .store false = .ok (at' b)) :
    s.sends h q (h.blockBytes.map fun b =>
      ⟨.vector, (at' b).1, leBytes 1 (qn4Code r h.pacer.th.vl.toNat (2 * b) + 16 * qn4Code r h.pacer.th.vl.toNat (2 * b + 1)), [], (at' b).2⟩)
      (elementStore q base none none (.unit off) s) := by
  have hmem : h.pacer.th.vstart.toNat ∈ h.activesBelow none h.pacer.th.vl.toNat := by
    have hfits := hs.fits
    rw [ht] at hfits
    have hcap : capacity h.cls .qn4 = 8 * (128 * 2 ^ h.cls.val) := by simp only [capacity, rlenOf, mvlOf, width]; omega
    simp only [List.mem_filter, List.mem_range, Hart.pacerActive, hlt, Bool.and_eq_true, decide_eq_true_eq, le_refl, true_and]
    omega
  have hne : (h.activesBelow none h.pacer.th.vl.toNat).isEmpty = false := by
    rw [List.isEmpty_eq_false_iff_exists_mem]; exact ⟨_, hmem⟩
  have hhalf (b : Nat) : 2 * b / 2 = b := Nat.mul_div_cancel_left b (by decide)
  have hok' : ∀ t ∈ h.blockBytes.map fun b => (⟨2 * b, h.reg .pacer base + off + BitVec.ofNat 64 b⟩ : Touch),
      translate s h.core h.part t.va .store false = .ok (at' (t.elem / 2)) := fun t ht => by
    obtain ⟨b, hb, rfl⟩ := List.mem_map.1 ht
    rw [hhalf]
    exact hok b hb
  rw [hs.run]
  have hform : (VShapeOf.unit off == .strided) = false := rfl
  simp only [ht, hne, hform, blockStore, hal, withProbe_ok hok', filter_belowStop_none, afterLoads_none hs.noLoads, hp, marks, List.map_map, Function.comp_def,
    hhalf, beq_self_eq_true, Option.isSome_none, Bool.or_self, Bool.and_false, List.contains_nil, ne_eq, not_true, Bool.false_eq_true, if_false,
    if_true]
  exact State.sends_of_caches ((noteAll_sameButCaches s h _).trans (addConflicts_sameButCaches _ _)) hs.runs.1 q _

end

theorem flightOf_bytes {r : Row} (ht : r.ty ≠ .qn4) (at' : Nat → Nat × Bool) (e : Nat) : flightOf r at' e =
    ⟨.vector, (at' e).1, leBytes (width r.ty / 8) (r.elems.getD e 0).toNat,
      if r.poison.contains e = true then List.range (width r.ty / 8) else [], (at' e).2⟩ := by
  have hzero : zeroOf r.ty = 0 := by
    cases hty : r.ty with
    | qn4 => exact absurd hty ht
    | _ => rfl
  simp only [flightOf, elemFlight, rowGet, marks, hzero]

/-- Settles O22: each form of an element store by the lemma of its addressing; a QN4 store by its bytes. -/
theorem vectorStores : Obligations.VectorStores := by
  refine ⟨?_, ?_⟩
  · intro s h sel q base stride off sc r rest li at' hr th acts b st entry idx hv hq hfits ht hloads hst stores
    have hs : StoreReady s h q r := ⟨hr, hv, by rw [hq]; rfl, hfits, hloads⟩
    have hflights : acts.map (flightOf r at') = _ := List.map_congr_left fun e _ => flightOf_bytes ht at' e
    refine ⟨fun hok => ?_, fun hok => ?_, fun hrec hlist hok => ?_⟩ <;> rw [← hflights]
    · exact hs.direct ht nofun fun e he => by rw [elemAlign_bytes ht]; exact hok e he
    · exact hs.direct ht nofun fun e he => by rw [elemAlign_bytes ht]; exact hok e he
    · refine hs.indexed ht hst hrec (li := li) (fun e he => ?_) fun e he => by rw [elemAlign_bytes ht]; exact hok e he
      obtain ⟨hal, htr, hset, hclean⟩ := hlist e he
      exact ⟨hal, htr, hclean, hset⟩
  · intro s h q base stride off sc r rest at' hr th vl va code bytes hv hq ht hfits hloads hp
    have hs : StoreReady s h q r := ⟨hr, hv, by rw [hq]; rfl, by rw [ht]; exact hfits, hloads⟩
    refine ⟨fun sel => hs.mismatch ht (.inr rfl), fun sel => hs.mismatch ht (.inr rfl), fun m => hs.mismatch ht (.inl rfl), ?_⟩
    intro hlt hal hok
    have hcode (e : Nat) : qn4Code r h.pacer.th.vl.toNat e = code e := by simp only [qn4Code, rowGet, ht, zeroOf]; rfl
    have hsends := hs.block ht hp hlt hal hok
    simp only [hcode] at hsends
    exact hsends

end Sys2Proof.Machine
end

section
/-! PROOFS. `VFETCH`, its passes, `TFETCH` and `TSTOP` (R29 to R32, R185, R186). -/
namespace Sys2Proof.Machine

open Sys2Proof

/-! ### Blocks and groups (R31) -/

/-- The lowest of two blocks, 0 standing for none. -/
def lowerBlock (b : Option Word) (x : Word) : Option Word :=
  if x = 0 then b else match b with
    | none => some x
    | some y => some (if x.toNat < y.toNat then x else y)

theorem foldl_lowerBlock_zeros {xs : List Word} (h : ∀ x ∈ xs, x = 0) (b : Option Word) : xs.foldl lowerBlock b = b := by
  induction xs with
  | nil => rfl
  | cons x xs ih =>
    rw [List.foldl_cons, h x (List.mem_cons_self ..)]
    exact ih fun y hy => h y (List.mem_cons_of_mem _ hy)

theorem nextBlock_none {xpc : List Word} (h : ∀ x ∈ xpc, x = 0) : nextBlock xpc = none := foldl_lowerBlock_zeros h none

/-- A step among blocks none of which is below b stays at or above b, and at b once it has been met. -/
theorem lowerBlock_bounded {b : Word} (hb : b ≠ 0) {y : Option Word} (hy : ∀ w ∈ y, b.toNat ≤ w.toNat) {x : Word}
    (hx : x ≠ 0 → b.toNat ≤ x.toNat) :
    (∀ w ∈ lowerBlock y x, b.toNat ≤ w.toNat) ∧ (y = some b ∨ x = b → lowerBlock y x = some b) := by
  by_cases h0 : x = 0
  · have hskip : lowerBlock y x = y := if_pos h0
    rw [hskip]
    exact ⟨hy, fun hmet => hmet.resolve_right fun he => hb (he.symm.trans h0)⟩
  · have hle := hx h0
    cases y with
    | none =>
      have hstep : lowerBlock none x = some x := if_neg h0
      rw [hstep]
      exact ⟨by simpa using hle, fun hmet => congrArg some (hmet.resolve_left nofun)⟩
    | some w =>
      have hw := hy w rfl
      have hstep : lowerBlock (some w) x = some (if x.toNat < w.toNat then x else w) := if_neg h0
      rw [hstep]
      refine ⟨fun v hv => ?_, fun hmet => congrArg some (BitVec.eq_of_toNat_eq ?_)⟩
      · cases hv; split <;> assumption
      · rcases hmet with hmet | hmet
        · cases hmet; rw [if_neg (Nat.not_lt.2 hle)]
        · subst hmet; split <;> omega

/-- A fold over blocks none of which is below b, one of which is b, ends in b. -/
theorem foldl_lowerBlock_lowest {b : Word} (hb : b ≠ 0) {xs : List Word} (hlow : ∀ x ∈ xs, x ≠ 0 → b.toNat ≤ x.toNat) (y : Option Word)
    (hy : ∀ w ∈ y, b.toNat ≤ w.toNat) (hmem : y = some b ∨ b ∈ xs) : xs.foldl lowerBlock y = some b := by
  induction xs generalizing y with
  | nil => exact hmem.resolve_right List.not_mem_nil
  | cons x xs ih =>
    obtain ⟨hbound, hmet⟩ := lowerBlock_bounded hb hy (hlow x (List.mem_cons_self ..))
    refine ih (fun z hz => hlow z (List.mem_cons_of_mem _ hz)) _ hbound ?_
    rcases hmem with hmem | hmem
    · exact .inl (hmet (.inl hmem))
    · exact (List.mem_cons.1 hmem).imp_left fun he => hmet (.inr he.symm)

theorem nextBlock_lowest {xpc : List Word} {b : Word} (hmem : b ∈ xpc) (hb : b ≠ 0)
    (hlow : ∀ x ∈ xpc, x ≠ 0 → b.toNat ≤ x.toNat) : nextBlock xpc = some b :=
  foldl_lowerBlock_lowest hb hlow none (by simp) (.inr hmem)

theorem foldl_lowerBlock_isSome {xs : List Word} {y : Option Word} (h : y.isSome = true ∨ ∃ x ∈ xs, x ≠ 0) :
    (xs.foldl lowerBlock y).isSome = true := by
  induction xs generalizing y with
  | nil => exact h.resolve_right (by simp)
  | cons x xs ih =>
    rw [List.foldl_cons]
    by_cases hx : x = 0
    · have hskip : lowerBlock y x = y := if_pos hx
      rw [hskip]
      refine ih (h.imp_right fun ⟨z, hz, hne⟩ => ⟨z, (List.mem_cons.1 hz).resolve_left fun he => hne (he.trans hx), hne⟩)
    · refine ih (.inl ?_)
      cases y with
      | none => exact congrArg Option.isSome (if_neg hx)
      | some w => exact congrArg Option.isSome (if_neg hx)

/-- Where some element has a block, there is a next one. -/
theorem nextBlock_isSome {xpc : List Word} {x : Word} (hx : x ∈ xpc) (hne : x ≠ 0) : (nextBlock xpc).isSome = true :=
  foldl_lowerBlock_isSome (.inr ⟨x, hx, hne⟩)

/-- The bits of a group: the elements that wait on its block. -/
theorem passGroup_bits (xpc : List Word) (b : Word) (n : Nat) : ∃ m,
    ((xpc.zipIdx n).map fun x => if x.1 = b then 2 ^ x.2 else 0).sum = 2 ^ n * m ∧ ∀ k, m.testBit k = decide (xpc[k]? = some b) := by
  induction xpc generalizing n with
  | nil => exact ⟨0, by simp, by simp⟩
  | cons x xs ih =>
    obtain ⟨m, hsum, hbits⟩ := ih (n + 1)
    refine ⟨2 * m + (if x = b then 1 else 0), ?_, fun k => ?_⟩
    · rw [List.zipIdx_cons, List.map_cons, List.sum_cons, hsum, Nat.pow_succ]
      by_cases hx : x = b <;> simp only [hx, if_true, if_false] <;> ring
    · cases k with
      | zero => by_cases hx : x = b <;> simp [hx, Nat.testBit_zero]
      | succ k =>
        have hhalf : (2 * m + if x = b then 1 else 0) / 2 = m := by split <;> omega
        rw [Nat.testBit_succ, hhalf, hbits, List.getElem?_cons_succ]

theorem testBit_passGroup (xpc : List Word) (b : Word) (k : Nat) : (passGroup xpc b).testBit k = decide (xpc[k]? = some b) := by
  obtain ⟨m, hsum, hbits⟩ := passGroup_bits xpc b 0
  rw [passGroup, hsum, Nat.pow_zero, Nat.one_mul, hbits]

/-! ### VFETCH performed (R29, R185) -/

/-- Whether an element is active for a vector instruction of the Anchor (R61, R151). -/
def Hart.anchorActive (h : Hart) (sel : MaskSel) (k : Nat) : Bool :=
  decide (h.anchor.th.vstart.toNat ≤ k) && decide (k < h.anchor.th.vl.toNat) && (match sel with
    | none => true
    | some m => (h.anchor.th.masks[m]).testBit k)

theorem active_capture (h g : Hart) (sel : MaskSel) (i : Instr) (u : VUse) (hg : g.anchor.th.masks = h.anchor.th.masks) (k : Nat) :
    active ((capture h i u none).ctx h.anchor.th.vstart.toNat none none 0) g sel k = h.anchorActive sel k := by
  cases sel <;> simp [active, capture, VEntry.ctx, VCtx.limit, VCtx.inGroup, maskBit, Hart.anchorActive, hg]

/-- The `xpc` that a `VFETCH` starts with. -/
abbrev Hart.fetchXpc (h : Hart) (sel : MaskSel) (target : Word) : List Word :=
  (List.range (mvlOf h.cls)).map fun k => if h.anchorActive sel k = true then target else 0

/-- The entry a `VFETCH` makes in the vector unit. -/
abbrev Hart.fetchEntry (h : Hart) (sel : MaskSel) (off : BitVec 39) : VEntry := capture h (.vfetch sel off) { pred := ⟨false, sel, false⟩ } none

theorem exec_vfetch {s : State} {h : Hart} (hs : s.performs h) (sel : MaskSel) (off : BitVec 39) :
    exec (.vfetch sel off) s = .next (fetchStart s s.cur.hart h (h.fetchEntry sel off) sel off h.anchor.viq) := by
  obtain ⟨hi, hu⟩ := hs
  have hr : s.runs h .anchor := ⟨hi, by rw [hu]; rfl⟩
  have huse : useOf (.vfetch sel off) = some { pred := ⟨false, sel, false⟩ } := rfl
  change vectorInstr _ s = _
  rw [vectorInstr, runs_thread hr rfl, huse]
  simp only [hu]
  rfl

/-- A `VFETCH` that starts writes `xpc`, and stays at the head where an element waits on its block (R29, R185). -/
theorem fetchStart_within (s : State) (h : Hart) (sel : MaskSel) (off : BitVec 39) (hvl : h.anchor.th.vl.toNat ≤ mvlOf h.cls)
    (hvs : h.anchor.th.vstart.toNat < h.anchor.th.vl.toNat) :
    fetchStart s s.cur.hart h (h.fetchEntry sel off) sel off h.anchor.viq =
      let xpc := h.fetchXpc sel (branchTarget h.anchor.th.pc off)
      s.put { h with anchor := { h.anchor with
        xpc := xpc
        viq := if (nextBlock xpc).isSome then { h.fetchEntry sel off with started := true } :: h.anchor.viq else h.anchor.viq
        th := { h.anchor.th with vstart := 0 } } } := by
  have hxpc : ((List.range (mvlOf h.cls)).map fun k =>
      if active ((h.fetchEntry sel off).ctx h.anchor.th.vstart.toNat none none 0) h sel k then
        branchTarget (h.fetchEntry sel off).addr off else 0) = h.fetchXpc sel (branchTarget h.anchor.th.pc off) :=
    List.map_congr_left fun k _ => by rw [active_capture h h sel _ _ rfl]; rfl
  have hbig : ¬ mvlOf h.cls < (h.fetchEntry sel off).vl := Nat.not_lt.2 hvl
  have hin : ¬ (h.fetchEntry sel off).vl ≤ h.anchor.th.vstart.toNat := Nat.not_le.2 hvs
  simp only [fetchStart, hbig, hin, if_false, hxpc]
  cases nextBlock (h.fetchXpc sel (branchTarget h.anchor.th.pc off)) <;> rfl

/-- One whose `vl` the class does not hold is an illegal instruction (R185). -/
theorem fetchStart_beyond (s : State) (h : Hart) (sel : MaskSel) (off : BitVec 39) (hvl : mvlOf h.cls < h.anchor.th.vl.toNat) :
    fetchStart s s.cur.hart h (h.fetchEntry sel off) sel off h.anchor.viq =
      deliverTrap s s.cur.hart { code := 0x01, thread := .anchor, iaddr := h.anchor.th.pc } := if_pos hvl

/-- With `vstart` at or above `vl` every block stays (R61). -/
theorem fetchStart_past (s : State) (h : Hart) (sel : MaskSel) (off : BitVec 39) (hvl : h.anchor.th.vl.toNat ≤ mvlOf h.cls)
    (hvs : h.anchor.th.vl.toNat ≤ h.anchor.th.vstart.toNat) :
    fetchStart s s.cur.hart h (h.fetchEntry sel off) sel off h.anchor.viq =
      s.put { h with anchor := { h.anchor with th := { h.anchor.th with vstart := 0 } } } :=
  (if_neg (Nat.not_lt.2 hvl)).trans (if_pos hvs)

theorem fetchXpc_zeros {h : Hart} {sel : MaskSel} {target : Word} (hno : target = 0 ∨ ∀ k, h.anchorActive sel k = false) :
    h.fetchXpc sel target = List.replicate (mvlOf h.cls) 0 := by
  rw [List.eq_replicate_iff]
  refine ⟨by simp, fun x hx => ?_⟩
  obtain ⟨k, -, rfl⟩ := List.mem_map.1 hx
  rcases hno with hno | hno <;> simp [hno]

/-! ### A pass (R31, R32) -/

/-- An element of `xpc` mapped with its place. -/
theorem getElem?_map_zipIdx {α β : Type} (f : α × Nat → β) (xs : List α) (k : Nat) :
    (xs.zipIdx.map f)[k]? = xs[k]?.map fun x => f (x, k) := by
  simp [Function.comp_def]

/-- The elements of a group that the selector picks are directed, where none was before (R186). -/
theorem direct_dirs (e : VEntry) (g : Nat) (h : Hart) (n : Nat) (fl : Flags) (sat : Bool) (sel : MaskSel) (target : Word) {k : Nat} (hk : k < n) :
    (direct e g ⟨h, List.replicate n none, fl, sat⟩ sel target).dirs.getD k none =
      if g.testBit k && (match sel with
        | none => true
        | some m => h.anchor.th.masks[m].testBit k) && decide (k < e.vl) then some target else none := by
  cases sel <;> simp [direct, hk]

section
variable {s : State} {h : Hart} {sel : MaskSel} {e : VEntry} {rest : List VEntry} {b : Word} (hs : s.performs h)
include hs

theorem directBlock_runs (hq : h.anchor.viq = e :: rest) (he : e.started = true) (hb : nextBlock h.anchor.xpc = some b) {i : Instr}
    (ha : Instr.allowed i .anchor = true) (target : Word → Word) : directBlock i sel target s =
      .next (s.put { h with anchor := { h.anchor with
        xpc := h.anchor.xpc.zipIdx.map fun y => if y.1 = b then
          ((direct e (passGroup h.anchor.xpc b) ⟨h, List.replicate (mvlOf h.cls) none, 0, false⟩ sel (target b)).dirs.getD y.2 none).getD y.1
          else y.1 } }) := by
  obtain ⟨hi, hu⟩ := hs
  have hr : s.runs h .anchor := ⟨hi, by rw [hu]; rfl⟩
  rw [directBlock, runs_thread hr ha]
  simp only [hu, hq, hb, he, if_true]
  rfl

/-- `TFETCH` or `TSTOP` alone directs the elements of the group that its selector picks (R186). -/
theorem directBlock_directs (hq : h.anchor.viq = e :: rest) (he : e.started = true) (hlen : h.anchor.xpc.length = mvlOf h.cls)
    (hb : nextBlock h.anchor.xpc = some b) {i : Instr} (ha : Instr.allowed i .anchor = true) (target : Word → Word) :
    ∃ xpc : List Word, directBlock i sel target s = .next (s.put { h with anchor := { h.anchor with xpc := xpc } }) ∧
      xpc.length = h.anchor.xpc.length ∧ ∀ k x, h.anchor.xpc[k]? = some x →
        xpc[k]? = some (if x = b ∧ (decide (k < e.vl) && (match sel with
          | none => true
          | some m => (h.anchor.th.masks[m]).testBit k)) = true then target b else x) := by
  refine ⟨_, directBlock_runs hs hq he hb ha target, by simp, fun k x hk => ?_⟩
  have hlt : k < mvlOf h.cls := hlen ▸ (List.getElem?_eq_some_iff.1 hk).1
  rw [getElem?_map_zipIdx, hk, Option.map_some, direct_dirs _ _ _ _ _ _ _ _ hlt, testBit_passGroup, hk]
  by_cases hx : x = b
  · subst hx
    cases sel with
    | none => by_cases hv : k < e.vl <;> simp [hv]
    | some m =>
      cases hbit : (h.anchor.th.masks[m]).testBit k <;> rw [Fin.getElem_fin] at hbit
      · simp [hbit]
      · by_cases hv : k < e.vl <;> simp [hv, hbit]
  · simp [hx]

end

/-- Outside a running block the words are illegal (R186). -/
theorem directBlock_front {s : State} {h : Hart} (hs : s.fronts h) {i : Instr} (ha : Instr.allowed i .anchor = true) (sel : MaskSel)
    (target : Word → Word) : directBlock i sel target s = .next (refuseWord s s.cur.hart h .anchor 0x01) := by
  obtain ⟨hi, hu⟩ := hs
  have hr : s.runs h .anchor := ⟨hi, by rw [hu]; rfl⟩
  rw [directBlock, runs_thread hr ha]
  simp only [hu]

/-- A commit that takes no trap and leaves no matrix error is the step (R23, R266). -/
theorem commitStep_commits {s t : State} {i : Nat} {h h' : Hart} (hi : s.harts[i]? = some h) (hm : h.mode = .running) (hst : h.stopHard = false)
    (hhead : commitHead s i h = t) (ht : t.harts[i]? = some h') (hd : h'.anchor.deferredErr = none) : commitStep s i = t := by
  have hderr : takeDeferred t i = t := by simp only [takeDeferred, ht, hd]
  have hgate : ((h.mode != .running && h.mode != .saving) || h.stopHard) = false := by rw [hm, hst]; rfl
  simp only [commitStep, hi, hgate, hhead, hderr, ite_self, Bool.false_eq_true, if_false]

section
variable {s : State} {i : Nat} {h : Hart} {e : VEntry} {rest : List VEntry} (hi : s.harts[i]? = some h) (hm : h.mode = .running)
  (hst : h.stopHard = false) (hq : h.anchor.viq = e :: rest) (he : e.started = true)
include hi hm hst hq he

theorem passStep_runs (hv : h.anchor.vtokens = []) : passStep s i = fetchPass s i h e := by
  simp only [passStep, hi, hq, unitsRun, hm, hst, he, hv]
  rfl

/-- A `VFETCH` with no block left commits (R32). -/
theorem commitStep_vfetch (hz : nextBlock h.anchor.xpc = none) {sel : MaskSel} {off : BitVec 39} (hins : e.instr = .vfetch sel off)
    (hj : ∀ x ∈ rest.head?, x.joins = false) (ho : h.anchor.openLen = none) (hd : h.anchor.deferredErr = none) :
    commitStep s i = { s with harts := s.harts.set i { h with anchor := { h.anchor with
      viq := rest, th := { h.anchor.th with vstart := 0 } } } } := by
  have hconvoy : headConvoy (e :: rest) = ([e], rest) := by
    cases rest with
    | nil => rfl
    | cons x xs => simp [headConvoy, hj x rfl]
  have hclosed : headClosed h.anchor = true := by rw [headClosed, ho]
  have hhead : commitHead s i h = setHart s i (setViq (setVstart h 0) rest) := by
    simp only [commitHead, hq, hconvoy, hclosed, hins, he, hz]
    rfl
  have hget : (setHart s i (setViq (setVstart h 0) rest)).harts[i]? = some (setViq (setVstart h 0) rest) :=
    List.getElem?_set_self (List.getElem?_eq_some_iff.1 hi).1
  exact commitStep_commits hi hm hst hhead hget hd

end

theorem getElem?_xpcAfter {xpc : List Word} {b : Word} {dirs : List (Option Word)} {k : Nat} {x : Word} (hk : xpc[k]? = some x) :
    (xpcAfter xpc b dirs)[k]? = some (if x = b then (dirs.getD k none).getD 0 else x) := by
  rw [xpcAfter, getElem?_map_zipIdx, hk]; rfl

section
variable {s s' : State} {i : Nat} {h : Hart} {e : VEntry} {b : Word} {is : List (Word × Instr)} (hb : nextBlock h.anchor.xpc = some b)
  (hw : blockWords h 32 s b = .ok (s', .ok is)) (hc : blockConvoys [] is = none)
include hb hw hc

/-- A pass waits for what the matrix queue has still to do with a register of its block (R27, R265). -/
theorem fetchPass_held (hheld : (is.any fun x => ((useOf x.2).map (matrixHolds h.anchor)).getD false) = true) : fetchPass s i h e = .next s' := by
  simp only [fetchPass, hb, hw, hc, hheld, if_true]

theorem fetchPass_runs {p : PassState} (hheld : (is.any fun x => ((useOf x.2).map (matrixHolds h.anchor)).getD false) = false)
    (hrun : runBlock e (passGroup h.anchor.xpc b) ⟨h, List.replicate (mvlOf h.cls) none, 0, false⟩ is = .ok p)
    (hno : s'.parts[h.part].fptrap &&& p.raised.setWidth 64 = 0) : fetchPass s i h e =
      .next { s' with harts := s'.harts.set i { p.h with anchor := { p.h.anchor with
        xpc := xpcAfter h.anchor.xpc b p.dirs
        th := { p.h.anchor.th with fflags := p.h.anchor.th.fflags ||| p.raised.setWidth 64 }
        vsat := if p.sat then 1 else p.h.anchor.vsat } } } := by
  have harith : arithTraps s'.parts[h.part].fptrap p.raised = false := by rw [arithTraps, hno]; rfl
  simp only [fetchPass, hb, hw, hc, hheld, hrun, arithCheck, setHart_parts, harith, Bool.false_eq_true, if_false]
  rfl

end

/-- Settles O14: a `VFETCH` by `fetchStart`, `TFETCH` and `TSTOP` by the group of the lowest block, a pass by `fetchPass`. -/
theorem divergence : Obligations.Divergence := by
  refine ⟨fun s h sel off hs => ?_, fun s h sel off => ⟨fun e rest b hs hq he hlen hb hmem hlow => ?_, fun hs => ?_⟩,
    fun s s' i h e rest b is p hi hm hst hq he hv => ⟨fun hz => ⟨?_, fun sel off hins hj ho hd => ?_⟩, fun hmem hb hlow hw hc hrun => ?_⟩⟩
  · intro th mvl target act xpc
    rw [exec_vfetch hs]
    refine ⟨fun hbig => congrArg _ (fetchStart_beyond s h sel off hbig), fun hvl htarget hact => ?_, fun hvl hno => ?_⟩
    · obtain ⟨k, hk⟩ := hact
      have hk' : h.anchorActive sel k = true := hk
      have hrange := hk'
      simp only [Hart.anchorActive, Bool.and_eq_true, decide_eq_true_eq] at hrange
      obtain ⟨⟨hlo, hhi⟩, -⟩ := hrange
      have hmem : target ∈ h.fetchXpc sel target :=
        List.mem_map.2 ⟨k, List.mem_range.2 (Nat.lt_of_lt_of_le hhi hvl), if_pos hk'⟩
      refine ⟨{ h.fetchEntry sel off with started := true }, rfl, rfl, rfl, rfl, rfl, ?_⟩
      rw [fetchStart_within s h sel off hvl (Nat.lt_of_le_of_lt hlo hhi)]
      have hsome : (nextBlock (h.fetchXpc sel (branchTarget h.anchor.th.pc off))).isSome = true := nextBlock_isSome hmem htarget
      simp only [hsome, if_true]
      rfl
    · by_cases hvs : th.vl.toNat ≤ th.vstart.toNat
      · rw [fetchStart_past s h sel off hvl hvs, if_pos hvs]
      · have hzeros : h.fetchXpc sel (branchTarget h.anchor.th.pc off) = List.replicate (mvlOf h.cls) 0 := fetchXpc_zeros hno
        rw [fetchStart_within s h sel off hvl (Nat.not_le.1 hvs), if_neg hvs, hzeros]
        simp only [nextBlock_none fun x hx => List.eq_of_mem_replicate hx]
        rfl
  · have hnext := nextBlock_lowest hmem hb hlow
    exact ⟨directBlock_directs hs hq he hlen hnext rfl _, directBlock_directs hs hq he hlen hnext rfl _⟩
  · exact ⟨directBlock_front hs rfl sel _, directBlock_front hs rfl sel _⟩
  · have hexec : exec (.vfetchPass i) s = passStep s i := rfl
    rw [hexec, passStep_runs hi hm hst hq he hv, fetchPass, nextBlock_none hz]
  · exact congrArg _ (commitStep_vfetch hi hm hst hq he (nextBlock_none hz) hins hj ho hd)
  · intro held
    have hnext := nextBlock_lowest hmem hb hlow
    have hexec : exec (.vfetchPass i) s = passStep s i := rfl
    rw [hexec, passStep_runs hi hm hst hq he hv]
    exact ⟨fetchPass_held hnext hw hc, fun hheld hno => ⟨_, fetchPass_runs hnext hw hc hheld hrun hno, by simp [xpcAfter],
      fun k x hk => getElem?_xpcAfter hk⟩⟩

end Sys2Proof.Machine
end

section
/-! PROOFS. The matrix queue performs its oldest entry (R27, R57, R256, R258 to R266). -/
namespace Sys2Proof.Machine

open Sys2Proof

/-! ### Words of four bytes in memory -/

/-- Part of what was stored is read back. -/
theorem Memory.readAll_writeAll_part {m : List Host.Cell} (h : Memory.wf m = true) (loc off n : Nat) {bs : List Byte} (hn : off + n ≤ bs.length) :
    Memory.readAll (Memory.writeAll m loc bs) (loc + off) n = (bs.drop off).take n := by
  have hlen : ((bs.drop off).take n).length = n := by rw [List.length_take, List.length_drop]; omega
  refine List.ext_getElem (by rw [Memory.length_readAll, hlen]) fun k h1 h2 => ?_
  rw [Memory.length_readAll] at h1
  have hin : loc ≤ loc + off + k ∧ loc + off + k < loc + bs.length := by omega
  have hk : loc + off + k - loc = off + k := by omega
  have hlt : off + k < bs.length := by omega
  rw [Memory.getElem_readAll, Memory.read_writeAll h, if_pos hin, hk, List.getElem_take, List.getElem_drop, List.getD_eq_getElem _ _ hlt]

theorem wordsOf_readAll (m : List Host.Cell) (loc n : Nat) :
    wordsOf (Memory.readAll m loc (4 * n)) = (List.range n).map fun k => BitVec.ofNat 32 (leNat (Memory.readAll m (loc + 4 * k) 4)) := by
  induction n generalizing loc with
  | zero => rfl
  | succ n ih =>
    have hstep : wordsOf (Memory.readAll m loc (4 * (n + 1))) =
        BitVec.ofNat 32 (leNat (Memory.readAll m loc 4)) :: wordsOf (Memory.readAll m (loc + 4) (4 * n)) := rfl
    rw [hstep, ih, List.range_succ_eq_map, List.map_cons, List.map_map]
    refine congrArg (_ :: ·) (List.map_congr_left fun k _ => ?_)
    have hloc : loc + 4 + 4 * k = loc + 4 * (k + 1) := by omega
    simp only [Function.comp_apply, hloc]

theorem length_bytesOf (ws : List (BitVec 32)) : (bytesOf ws).length = 4 * ws.length := by
  induction ws with
  | nil => rfl
  | cons w ws ih =>
    have hstep : bytesOf (w :: ws) = leBytes 4 w.toNat ++ bytesOf ws := List.flatMap_cons
    rw [hstep, List.length_append, length_leBytes, ih, List.length_cons]; omega

theorem bytesOf_word {ws : List (BitVec 32)} {k : Nat} (hk : k < ws.length) : ((bytesOf ws).drop (4 * k)).take 4 = leBytes 4 ws[k].toNat := by
  induction ws generalizing k with
  | nil => cases hk
  | cons w ws ih =>
    have hstep : bytesOf (w :: ws) = leBytes 4 w.toNat ++ bytesOf ws := List.flatMap_cons
    rw [hstep]
    cases k with
    | zero => rw [Nat.mul_zero, List.drop_zero, List.take_left' (length_leBytes 4 _)]; rfl
    | succ k =>
      have hoff : 4 * (k + 1) = (leBytes 4 w.toNat).length + 4 * k := by rw [length_leBytes]; omega
      rw [hoff, List.drop_length_add_append, ih (Nat.lt_of_succ_lt_succ hk)]
      rfl

/-! ### Tiles (R57) -/

theorem getElem?_eq_getD {α : Type} {l : List α} {k : Nat} (hk : k < l.length) (d : α) : l[k]? = some (l.getD k d) := by
  rw [List.getElem?_eq_getElem hk, List.getD_eq_getElem l d hk]

/-- A tile that no error has struck, empty or of 64 × 64 elements. -/
def TileData.filled (d : TileData) : Prop := d.poison = false ∧ (d.elems = [] ∨ d.elems.length = 4096)

theorem getD_tileElems (d : TileData) (k : Nat) : (tileElems d).getD k 0 = if d.elems = [] then (0 : BitVec 32) else d.elems.getD k 0 := by
  by_cases hd : d.elems = []
  · simp only [tileElems, hd, List.isEmpty_nil, if_true, List.getD_eq_getElem?_getD, List.getElem?_replicate]
    split <;> rfl
  · simp only [tileElems, List.isEmpty_iff, hd, if_false]

theorem length_tileElems {d : TileData} (hf : d.filled) : (tileElems d).length = 4096 := by
  obtain ⟨-, hd | hd⟩ := hf
  · rw [tileElems, hd]; exact List.length_replicate
  · have hne : d.elems ≠ [] := fun he => by simp [he] at hd
    rw [tileElems, if_neg (by rwa [List.isEmpty_iff]), hd]

/-! ### Multiplying (R260) -/

theorem length_mmaGroup (ints : Bool) (sh : Shape) (es : List (BitVec 32)) (a b : StagedGroup) : (mmaGroup ints sh es a b).length = 4096 := by
  simp [mmaGroup]

theorem getD_mmaGroup {ints : Bool} {sh : Shape} {es : List (BitVec 32)} {a b : StagedGroup} {k : Nat} (hk : k < 4096) :
    (mmaGroup ints sh es a b).getD k 0 = if k / 64 < sh.m && k % 64 < sh.n then
      mmaElem ints (es.getD k 0) (a.rows.getD (k / 64) zeroRow) (b.rows.getD (k % 64) zeroRow) else es.getD k 0 := by
  rw [mmaGroup, List.getD_eq_getElem?_getD, List.getElem?_map, List.getElem?_range hk]
  rfl

/-- The groups' products added, group by group. -/
abbrev mmaGroups (ints : Bool) (sh : Shape) (es : List (BitVec 32)) (gs : List (StagedGroup × StagedGroup)) : List (BitVec 32) :=
  gs.foldl (fun es x => mmaGroup ints sh es x.1 x.2) es

theorem length_mmaGroups {ints : Bool} {sh : Shape} {es : List (BitVec 32)} (hes : es.length = 4096) (gs : List (StagedGroup × StagedGroup)) :
    (mmaGroups ints sh es gs).length = 4096 := by
  induction gs generalizing es with
  | nil => exact hes
  | cons g gs ih =>
    rw [mmaGroups, List.foldl_cons]
    exact ih (length_mmaGroup ints sh es g.1 g.2)

/-- Each element of the block takes the products of its rows in turn, every other one stays. -/
theorem getD_mmaGroups {ints : Bool} {sh : Shape} {es : List (BitVec 32)} {k : Nat} (hk : k < 4096) (gs : List (StagedGroup × StagedGroup)) :
    (mmaGroups ints sh es gs).getD k 0 = if k / 64 < sh.m && k % 64 < sh.n then
      gs.foldl (fun v g => mmaElem ints v (g.1.rows.getD (k / 64) zeroRow) (g.2.rows.getD (k % 64) zeroRow)) (es.getD k 0)
      else es.getD k 0 := by
  induction gs generalizing es with
  | nil => exact (ite_self _).symm
  | cons g gs ih =>
    rw [mmaGroups, List.foldl_cons, ih, getD_mmaGroup hk]
    split <;> rfl

/-- Where the staging has not left an operand, each element of the block is a free value (R129). -/
theorem getElem?_mmaUndefined (s : State) (e : MEntry) (es : List (BitVec 32)) : ∃ made, ∀ k, k < 4096 →
    (mmaUndefined s e es)[k]? = some (if k / 64 < e.shape.m && k % 64 < e.shape.n then (Config.undefined made k).setWidth 32 else es.getD k 0) := by
  have hmap : ∃ made, mmaUndefined s e es = (List.range 4096).map fun k =>
      if k / 64 < e.shape.m && k % 64 < e.shape.n then (Config.undefined made k).setWidth 32 else es.getD k 0 := by
    unfold mmaUndefined
    exact ⟨_, rfl⟩
  obtain ⟨made, hmap⟩ := hmap
  exact ⟨made, fun k hk => by rw [hmap, List.getElem?_map, List.getElem?_range hk]; rfl⟩

/-! ### The oldest entry (R27, R268) -/

section
variable {s : State} {i : Nat} {h : Hart} {e : MEntry} {rest : List MEntry}

theorem entryFenced_none (hrec : s.mgmt.recoveries = []) (e : MEntry) : entryFenced s e = false := by
  simp [entryFenced, rangeFenced_none hrec]

theorem exec_matrixQueuePerform (hi : s.harts[i]? = some h) (hm : h.mode = .running) (hrec : s.mgmt.recoveries = [])
    (hq : h.anchor.mqueue = e :: rest) : exec (.matrixQueuePerform i) s = .next (matrixStep s i h) := by
  change Host.Outcome.next (matrixTurn s i) = _
  simp only [matrixTurn, hi, unitsRun, hm, matrixHead, hq, entryFenced_none hrec]
  rfl

theorem popM_rest {a : AnchorState} (hq : a.mqueue = e :: rest) : popM a = { a with mqueue := rest } := by
  rw [popM, hq]; rfl

/-- The state that a performed entry leaves: its Anchor, with the rest of the queue. -/
abbrev leaveEntry (s : State) (i : Nat) (h : Hart) (rest : List MEntry) (a : AnchorState) : State :=
  { s with harts := s.harts.set i { h with anchor := { a with mqueue := rest } } }

theorem setAnchor_popM {a : AnchorState} (hq : a.mqueue = e :: rest) (s : State) (i : Nat) (h : Hart) :
    setAnchor s i h (popM a) = leaveEntry s i h rest a := by rw [popM_rest hq]; rfl

theorem homeRead_clean (hp : s.poison = []) (loc n : Nat) : (homeRead s loc n).2 = false := by
  simp only [homeRead, hp, List.any_nil]

/-- The tag of a tile that `MLDT` loads. -/
def loadedTag : TileType → TileTag
  | .f32 => .f32
  | .i32 => .i32

/-- `MLDT` takes the tile from memory (R264). -/
theorem performMldt_loads (hp : s.poison = []) (hq : h.anchor.mqueue = e :: rest) (t : Tile) (tt : TileType) :
    performMldt s i h e t tt = leaveEntry s i h rest (setTile h.anchor t
      ⟨loadedTag tt, wordsOf (Memory.readAll s.mem (nearOf e.scal1) 16384), false⟩) := by
  have hbad := homeRead_clean hp (nearOf e.scal1) 16384
  simp only [performMldt, hbad, Bool.false_eq_true, if_false]
  exact setAnchor_popM (a := setTile h.anchor t _) hq s i h

/-- `MSTT` stores what the tile holds (R264). -/
theorem performMstt_stores (hq : h.anchor.mqueue = e :: rest) {t : Tile} (hp : (h.anchor.tiles[t]).poison = false) :
    performMstt s i h e t = leaveEntry (nearWrite s (nearOf e.scal1) (bytesOf (tileElems h.anchor.tiles[t]))) i h rest h.anchor := by
  simp only [performMstt, hp, Bool.false_eq_true, if_false]
  exact setAnchor_popM hq _ i h

/-- `MTOV` of no rows writes nothing (R263). -/
theorem performMtov_none (hq : h.anchor.mqueue = e :: rest) {v : Reg} {t : Tile} (hp : (h.anchor.tiles[t]).poison = false) (hrl : e.rl = 0) :
    performMtov s i h e v t = leaveEntry s i h rest h.anchor := by
  simp only [performMtov, hp, hrl, decide_true, Bool.or_true, Bool.false_eq_true, if_false, if_true]
  exact setAnchor_popM hq _ i h

/-- `MTOV` delivers rows of the tile (R263). -/
theorem performMtov_delivers (hq : h.anchor.mqueue = e :: rest) {v : Reg} {t : Tile} (hp : (h.anchor.tiles[t]).poison = false) (hrl : 0 < e.rl)
    (hv : h.pacer.th.vrel = false ∨ h.anchor.th.vrel = false) : performMtov s i h e v t = leaveEntry s i h rest { h.anchor with
      vregs := h.anchor.vregs.set v (writeReg h.anchor.vregs[v] (if (h.anchor.tiles[t]).tag = .i32 then .i32 else .f32)
        ((List.range (64 * e.rl)).map fun k => some (if e.scal1.toNat + k / 64 < 64 then
          ((tileElems h.anchor.tiles[t]).getD ((e.scal1.toNat + k / 64) * 64 + k % 64) 0).setWidth 64 else 0))) } := by
  have hgo : ¬ ((h.pacer.th.vrel && h.anchor.th.vrel) = true ∨ e.rl = 0) := by
    rintro (hrel | h0)
    · rcases hv with hv | hv <;> simp [hv] at hrel
    · omega
  simp only [performMtov, hp, Bool.false_eq_true, if_false, Bool.or_eq_true, decide_eq_true_eq, hgo]
  rw [popM_rest hq]
  rfl

/-- `MMA` on a tile that no error has struck and whose tag agrees (R260, R261). -/
theorem performMma_adds (hp : s.poison = []) (hq : h.anchor.mqueue = e :: rest) {t : Tile} (hclean : (h.anchor.tiles[t]).poison = false) :
    let count := e.shape.k / 64
    let as := groupsAt s.staged count (nearOf e.scal1)
    let bs := groupsAt s.staged count (nearOf e.scal2)
    let ints := operandInt s.staged count (nearOf e.scal1) && operandInt s.staged count (nearOf e.scal2)
    let es := tileElems h.anchor.tiles[t]
    (h.anchor.tiles[t]).tag = .empty ∨ (h.anchor.tiles[t]).tag = (if ints then .i32 else .f32) →
    performMma s i h e t = leaveEntry s i h rest (setTile h.anchor t ⟨if ints then .i32 else .f32,
      if as.length = count ∧ bs.length = count ∧ ∀ g ∈ as ++ bs, g.corrupt = false then mmaGroups ints e.shape es (as.zip bs)
      else mmaUndefined s e es, false⟩) := by
  intro count as bs ints es htag
  have hagree : (decide ((h.anchor.tiles[t]).tag ≠ .empty) && decide ((h.anchor.tiles[t]).tag ≠ if ints then TileTag.i32 else .f32)) = false := by
    rcases htag with htag | htag <;> simp [-Fin.getElem_fin, htag]
  have hread (adds : Bool) : ((adds && (h.anchor.tiles[t]).poison) || (as ++ bs).any fun g => (homeRead s g.loc g.bytes).2) = false := by
    rw [hclean, Bool.and_false, Bool.false_or, List.any_eq_false]
    exact fun g _ => by rw [homeRead_clean hp]; exact Bool.false_ne_true
  have hcond : (decide (as.length = count) && decide (bs.length = count) && !(as ++ bs).any StagedGroup.corrupt) = true ↔
      as.length = count ∧ bs.length = count ∧ ∀ g ∈ as ++ bs, g.corrupt = false := by
    simp only [Bool.and_eq_true, decide_eq_true_eq, Bool.not_eq_true', List.any_eq_false, Bool.not_eq_true, and_assoc]
  have hstep : performMma s i h e t = setAnchor s i h (popM (setTile h.anchor t ⟨if ints then .i32 else .f32,
      if (decide (as.length = count) && decide (bs.length = count) && !(as ++ bs).any StagedGroup.corrupt) = true then
        mmaGroups ints e.shape es (as.zip bs) else mmaUndefined s e es, (h.anchor.tiles[t]).poison⟩)) := by
    unfold performMma
    dsimp only
    rw [if_neg (Bool.eq_false_iff.1 hagree), if_neg (Bool.eq_false_iff.1 (hread _))]
  rw [hstep, hclean, setAnchor_popM (a := setTile h.anchor t _) hq]
  simp only [hcond]

theorem performStage_stages (hq : h.anchor.mqueue = e :: rest) {isA : Bool} {v : Reg} {p : Nat} (hv : (h.anchor.vregs[v]).poison = [])
    (hv1 : (h.anchor.vregs[(v + 1 : Reg)]).poison = []) :
    let gs := stageGroups h.anchor.vregs[v] h.anchor.vregs[(v + 1 : Reg)] ((h.anchor.vregs[v]).ty.getD .i8) (nearOf e.scal1) e.vl p
      (if isA then e.shape.m else e.shape.n) e.scale
    let n := gs.length * (512 * p + 256)
    ∃ bs : List Byte, bs.length = n ∧ performStage s i h e isA v p = leaveEntry
      { nearWrite s (nearOf e.scal1) bs with
        staged := gs ++ (nearWrite s (nearOf e.scal1) bs).staged.filter fun g => !rangesMeet g.loc g.bytes (nearOf e.scal1) n }
      i h rest h.anchor := by
  intro gs n
  have hclean : stagePoison h.anchor.vregs[v] h.anchor.vregs[(v + 1 : Reg)] ((h.anchor.vregs[v]).ty.getD .i8) e.vl = false := by
    simp only [stagePoison, hv, hv1, List.any_nil, Bool.and_false, Bool.or_self]
  have hpop (s : State) := setAnchor_popM hq s i h
  simp only [performStage, hclean, Bool.false_eq_true, if_false, hpop]
  exact ⟨_, by rw [List.length_map, List.length_range], rfl⟩

end

/-- A stored tile is read back word by word (R264). -/
theorem leNat_stored_tile {m : List Host.Cell} (hok : Memory.wf m = true) (loc : Nat) {es : List (BitVec 32)} {k : Nat} (hk : k < es.length) :
    leNat (Memory.readAll (Memory.writeAll m loc (bytesOf es)) (loc + 4 * k) 4) = (es.getD k 0).toNat := by
  have hfit : 4 * k + 4 ≤ (bytesOf es).length := by rw [length_bytesOf]; omega
  rw [Memory.readAll_writeAll_part hok loc (4 * k) 4 hfit, bytesOf_word hk, leNat_leBytes, Nat.mod_eq_of_lt (b := 256 ^ 4) (BitVec.isLt _),
    List.getD_eq_getElem _ _ hk]

/-- A loaded tile holds the words of its area (R264). -/
theorem getElem?_loaded_tile (m : List Host.Cell) (loc n : Nat) {k : Nat} (hk : k < n) :
    (wordsOf (Memory.readAll m loc (4 * n)))[k]? = some (BitVec.ofNat 32 (leNat (Memory.readAll m (loc + 4 * k) 4))) := by
  rw [wordsOf_readAll, List.getElem?_map, List.getElem?_range hk]
  rfl

/-- Settles O35: the oldest entry is performed by its operation. -/
theorem matrixQueue : Obligations.MatrixQueue := by
  intro s i h e rest hi hm hrec hp hok hq a loc put tile el filled did
  have hdid {t : State} (ht : matrixStep s i h = t) : did t := (exec_matrixQueuePerform hi hm hrec hq).trans (congrArg _ ht)
  have hel (t : Tile) (k : Nat) : (tileElems a.tiles[t]).getD k 0 = el t k := getD_tileElems _ _
  refine ⟨fun t ho => ?_, fun ho => ?_, fun t tt ho => ?_, fun t ho hf => ?_, fun v t ho hc hrl => ?_, fun v t ho hf hrl hv => ?_,
    fun t ho => ?_, fun isA v p ho hv hv1 => ?_⟩
  · refine hdid ?_
    simp only [matrixStep, hq, ho]
    exact setAnchor_popM (a := setTile a t TileData.cleared) hq s i h
  · refine hdid ?_
    simp only [matrixStep, hq, ho, popM_rest hq]
    rfl
  · have hstep : matrixStep s i h = performMldt s i h e t tt := by simp only [matrixStep, hq, ho]
    have hwords (k : Nat) (hk : k < 4096) := getElem?_loaded_tile s.mem loc 4096 hk
    refine ⟨⟨loadedTag tt, wordsOf (Memory.readAll s.mem loc (4 * 4096)), false⟩,
      hdid (hstep.trans (performMldt_loads hp hq t tt)), rfl, rfl, ?_, hwords⟩
    rw [wordsOf_readAll, List.length_map, List.length_range]
  · have hstep : matrixStep s i h = performMstt s i h e t := by simp only [matrixStep, hq, ho]
    have hlen := length_tileElems (d := h.anchor.tiles[t]) hf
    refine ⟨_, hdid (hstep.trans (performMstt_stores hq hf.1)), rfl, fun k hk => ?_, fun x hx => ?_⟩
    · rw [← hel]
      exact leNat_stored_tile hok loc (by rw [hlen]; exact hk)
    · exact Memory.read_writeAll_outside hok (by rw [length_bytesOf, hlen]; exact hx)
  · refine hdid ?_
    simp only [matrixStep, hq, ho]
    exact performMtov_none hq hc hrl
  · refine hdid ?_
    simp only [matrixStep, hq, ho, ← hel]
    exact performMtov_delivers hq hf.1 hrl hv
  · intro k loc2 as bs ints staged hf htag
    have hstep : matrixStep s i h = performMma s i h e t := by simp only [matrixStep, hq, ho]
    have hlen := length_tileElems (d := h.anchor.tiles[t]) hf
    obtain ⟨made, hfree⟩ := getElem?_mmaUndefined s e (tileElems h.anchor.tiles[t])
    refine ⟨_, Config.undefined made, hdid (hstep.trans (performMma_adds hp hq hf.1 htag)), rfl, rfl, ⟨made, rfl⟩, fun m n hm64 hn64 => ?_⟩
    have hk : 64 * m + n < 4096 := by omega
    have hdiv : (64 * m + n) / 64 = m := by omega
    have hmod : (64 * m + n) % 64 = n := by omega
    have hsum := getElem?_eq_getD (l := mmaGroups ints e.shape (tileElems h.anchor.tiles[t]) (as.zip bs)) (by rw [length_mmaGroups hlen]; exact hk) 0
    rw [getD_mmaGroups hk, hdiv, hmod, hel] at hsum
    have hundef := hfree _ hk
    rw [hdiv, hmod, hel] at hundef
    refine ⟨fun hm hn hst => ?_, fun hm hn hst => ?_, fun hout => ?_⟩
    · have hin : (decide (m < e.shape.m) && decide (n < e.shape.n)) = true := by simp [hm, hn]
      rw [if_pos hin] at hsum
      exact (congrArg (fun es : List (BitVec 32) => es[64 * m + n]?) (if_pos hst)).trans hsum
    · have hin : (decide (m < e.shape.m) && decide (n < e.shape.n)) = true := by simp [hm, hn]
      rw [if_pos hin] at hundef
      exact (congrArg (fun es : List (BitVec 32) => es[64 * m + n]?) (if_neg hst)).trans hundef
    · have hin : ¬ (decide (m < e.shape.m) && decide (n < e.shape.n)) = true := by simp only [Bool.and_eq_true, decide_eq_true_eq]; omega
      rw [if_neg hin] at hsum hundef
      by_cases hst : staged
      · exact (congrArg (fun es : List (BitVec 32) => es[64 * m + n]?) (if_pos hst)).trans hsum
      · exact (congrArg (fun es : List (BitVec 32) => es[64 * m + n]?) (if_neg hst)).trans hundef
  · have hstep : matrixStep s i h = performStage s i h e isA v p := by simp only [matrixStep, hq, ho]
    obtain ⟨bs, hlen, hstage⟩ := performStage_stages (s := s) (i := i) hq hv hv1 (isA := isA) (p := p)
    refine ⟨_, hdid (hstep.trans hstage), rfl, fun g hg => List.mem_append_left _ hg, fun x hx => ?_⟩
    exact Memory.read_writeAll_outside hok (by rw [hlen]; exact hx)

end Sys2Proof.Machine
end

section
/-! PROOFS. The vector instruction queue: entry and the commit of a convoy (R23, R153, R155). -/
namespace Sys2Proof.Machine

open Sys2Proof

/-! ### Entry (R23, R153) -/

/-- What enters the vector queue is the Anchor's to run (R14). -/
theorem allowed_anchor_of_useOf {i : Instr} {u : VUse} (hu : useOf i = some u) : i.allowed .anchor = true := by
  cases i <;> first
    | rfl
    | cases hu

/-- With no loop and no open convoy there is no convoy to close (R153). -/
theorem closeConvoy_alone {s : State} {i : Nat} {h : Hart} (ho : h.anchor.openLen = none) (hov : h.anchor.overlong = none) :
    closeConvoy s i h = .ok h := by
  have hopen : openEntries h.anchor = [] := by simp [openEntries, ho]
  have hlast : lastForwards h.anchor = false := by
    simp only [lastForwards, lastOpen, hov, hopen, Option.isSome_none, Bool.false_eq_true, if_false, List.getLast?_nil]
  simp only [closeConvoy, hlast, hopen, Bool.false_and, Bool.false_eq_true, if_false, ← ho]
  rfl

theorem inLoop_none {a : AnchorState} (hl : a.loop = none) : inLoop a = none := by rw [inLoop, hl, Option.filter_none]

/-- An instruction that begins a convoy of its own is appended as it is captured (R23). -/
theorem enterQueue_alone {s : State} {x : Nat} {h : Hart} {i : Instr} {u : VUse} (hout : u.out = none) (hj : u.pred.joined = false)
    (hvf : u.vfCount = 0) (hl : h.anchor.loop = none) (ho : h.anchor.openLen = none) (hov : h.anchor.overlong = none)
    (hv : h.anchor.th.vrel = false) (hroom : h.anchor.viq.length < 64) (hvl : vlPending h.anchor = false) :
    enterQueue s x h i u = pushEntry s x h (capture h i u none) (if u.vform then some 1 else none) := by
  have hin := inLoop_none hl
  have hskip : skipsStage h.anchor u = false := by simp only [skipsStage, hin]
  have hstage : stageOf h.anchor u.pred.sel = none := by simp only [stageOf, hin]
  have hentry : ({ capture h i u none with joins := false } : VEntry) = capture h i u none := by simp only [capture, hj, Bool.false_and]
  simp only [enterQueue, hj, hin, closeConvoy_alone ho hov, hskip, hvf, hv, hout, Nat.not_le.2 hroom, hvl, hstage, ho, Option.getD_none, hentry,
    Bool.false_and, Bool.and_false, Bool.not_false, Bool.or_false, Option.isSome_none, Bool.false_eq_true, if_false, if_true, ne_eq,
    not_true, decide_false]

/-! ### Commit (R23, R155) -/

/-- A member of a convoy that touches no baton queue. -/
def VEntry.quiet (e : VEntry) : Prop := ∃ u, useOf e.instr = some u ∧ u.vform = true ∧ u.lqs = [] ∧ u.sqs = []

theorem headConvoy_append {es rest : List VEntry} (hne : es ≠ []) (hj : ∀ e ∈ es.tail, e.joins = true)
    (hrest : ∀ e, rest.head? = some e → e.joins = false) : headConvoy (es ++ rest) = (es, rest) := by
  obtain ⟨e, es, rfl⟩ := List.exists_cons_of_ne_nil hne
  rw [List.tail_cons] at hj
  have htake : rest.takeWhile (·.joins) = [] := by
    cases rest with
    | nil => rfl
    | cons x xs => exact List.takeWhile_cons_of_neg (by simp [hrest x rfl])
  have hdrop : rest.dropWhile (·.joins) = rest := by
    cases rest with
    | nil => rfl
    | cons x xs => exact List.dropWhile_cons_of_neg (by simp [hrest x rfl])
  rw [List.cons_append, headConvoy, List.takeWhile_append_of_pos hj, List.dropWhile_append_of_pos hj, htake, hdrop, List.append_nil]

theorem headClosed_of {a : AnchorState} (h : a.openLen = none ∨ ∃ n, a.openLen = some n ∧ n < a.viq.length) : headClosed a = true := by
  rcases h with h | ⟨n, h, hn⟩
  · simp only [headClosed, h]
  · cases n with
    | zero => simp only [headClosed, h]
    | succ n => simp only [headClosed, h, hn, decide_true]

theorem matrixHolds_none {a : AnchorState} (hq : a.mqueue = []) (u : VUse) : matrixHolds a u = false := by
  simp only [matrixHolds, hq, List.any_nil]

/-- Quiet members pop no row. -/
theorem assignRows_quiet (h : Hart) {es : List VEntry} (hes : ∀ e ∈ es, e.quiet) : assignRows h es = some (h, es) := by
  induction es with
  | nil => rfl
  | cons e es ih =>
    obtain ⟨u, hu, -, hlq, -⟩ := hes e (List.mem_cons_self ..)
    have hsame : (Vector.ofFn fun q : Fin 4 => if ([] : List (Fin 4)).contains q then h.lq[q].tail else h.lq[q]) = h.lq := by
      refine Vector.ext fun k hk => ?_
      simp
    simp only [assignRows, hu, Option.map_some, Option.getD_some, hlq, List.filter_nil, List.any_nil, Bool.false_eq_true, if_false,
      List.filterMap_nil, List.append_nil, hsame, ih fun x hx => hes x (List.mem_cons_of_mem _ hx)]

/-- Quiet members push no row. -/
theorem roomFor_quiet (h : Hart) {es : List VEntry} (hes : ∀ e ∈ es, e.quiet) : roomFor h es = true := by
  have hno (q : Fin 2) : (es.filter fun e => (((useOf e.instr).map VUse.sqs).getD []).contains q) = [] := by
    refine List.filter_eq_nil_iff.2 fun e he => ?_
    obtain ⟨u, hu, -, -, hsq⟩ := hes e he
    simp [hu, hsq]
  simp only [roomFor, hno, List.length_nil, beq_self_eq_true, Bool.true_or, List.all_eq_true, implies_true]

/-- The head convoy of quiet members is performed (R23). -/
theorem commitHead_quiet {s : State} {i : Nat} {h : Hart} {es rest : List VEntry} (hconvoy : headConvoy h.anchor.viq = (es, rest)) (hne : es ≠ [])
    (hclosed : headClosed h.anchor = true) (hmq : h.anchor.mqueue = []) (hes : ∀ e ∈ es, e.quiet) :
    commitHead s i h = performConvoy s i h h es rest none := by
  obtain ⟨e, es, rfl⟩ := List.exists_cons_of_ne_nil hne
  obtain ⟨u, hu, hvf, -, -⟩ := hes e (List.mem_cons_self ..)
  have hheld : ((e :: es).any fun x => ((useOf x.instr).map (matrixHolds h.anchor)).getD false) = false := by
    simp only [List.any_eq_false]
    intro x hx
    obtain ⟨w, hw, -⟩ := hes x hx
    simp [hw, matrixHolds_none hmq]
  unfold commitHead
  simp only [hconvoy, hclosed, Bool.not_true, Bool.false_eq_true, if_false]
  split
  next hins => rw [hins] at hu; cases hu; cases hvf
  next hins => rw [hins] at hu; cases hu
  next => simp only [hu, hheld, hvf, assignRows_quiet h hes, roomFor_quiet h hes]; rfl

theorem arithTraps_or_eq_false {w : Word} {f g : Flags} (hf : w &&& f.setWidth 64 = 0) (hg : w &&& g.setWidth 64 = 0) :
    arithTraps w (f ||| g) = false := by
  have hor : w &&& (f ||| g).setWidth 64 = (w &&& f.setWidth 64) ||| (w &&& g.setWidth 64) := by
    rw [BitVec.setWidth_or, BitVec.and_or_distrib_left]
  rw [arithTraps, hor, hf, hg]; rfl

/-- A commit that raised nothing that is enabled takes no trap (R279). -/
theorem afterCommit_quiet {s : State} {i : Nat} {part : Fin 8} {es : List VEntry} {r : ConvoyRun} (hc : r.cycle = none)
    (hr : ∀ x ∈ r.raised, s.parts[part].fptrap &&& x.2.setWidth 64 = 0)
    (he : ∀ e ∈ es, s.parts[part].fptrap &&& e.raised.setWidth 64 = 0) : afterCommit s i part es r = s := by
  have hfind : (es.zip r.raised).find? (fun x => arithTraps s.parts[part].fptrap (x.1.raised ||| x.2.2)) = none := by
    refine List.find?_eq_none.2 fun x hx => ?_
    obtain ⟨h1, h2⟩ := List.of_mem_zip hx
    exact Bool.eq_false_iff.1 (arithTraps_or_eq_false (he _ h1) (hr _ h2))
  simp only [afterCommit, hc, hfind]

/-! ### A convoy's run (R155) -/

/-- Two members run one after another, the second on what the first has left, vf included. -/
theorem convoyRun_two {h h1 h2 : Hart} {e1 e2 : VEntry} {u1 u2 : VUse} {f1 f2 : VEffect} {vf1 vf2 : Option VSource} {fl1 fl2 : Flags}
    {b1 b2 : Bool} {p1 p2 : List Word} (hm1 : memberOf e1 = some (u1, f1)) (hm2 : memberOf e2 = some (u2, f2))
    (hf1 : f1 (e1.ctx h.anchor.th.vstart.toNat none none 0) h = .done h1 vf1 fl1 b1 p1 false)
    (hf2 : f2 (e2.ctx h.anchor.th.vstart.toNat none vf1 0) h1 = .done h2 vf2 fl2 b2 p2 false) :
    let start : ConvoyRun := ⟨h, none, [], false, none, [], 0⟩
    convoyRun start [e1, e2] none = .whole ((start.add e1 h1 vf1 fl1 b1 p1 false).add e2 h2 vf2 fl2 b2 p2 false) := by
  intro start
  simp only [convoyRun, scanMembers, hm1, hm2, start, hf1, ConvoyScan.step, ConvoyRun.add, hf2]
  rfl

/-- The hart that a whole run leaves: what it raised committed, `vstart` 0, the convoy gone from the queue. -/
abbrev ConvoyRun.leaves (r : ConvoyRun) (rest : List VEntry) : Hart := setViq (setVstart (commitFlags r.h r) 0) rest

/-- Settles O33: an instruction that begins a convoy is appended; a quiet head convoy is performed whole and leaves the queue. -/
theorem vectorQueue : Obligations.VectorQueue := by
  refine ⟨?_, ?_⟩
  · intro s h i u hs hu hout hj hvf hl ho hov hv hroom hvl
    obtain ⟨hi, hunit⟩ := hs
    have hr : s.runs h .anchor := ⟨hi, by rw [hunit]; rfl⟩
    have hpending : vlPending h.anchor = false := by
      simp only [vlPending, List.any_eq_false]
      intro e he
      cases hw : useOf e.instr with
      | none => simp
      | some w => simp [hvl e he w hw]
    rw [exec_vectorInstr hu, vectorInstr, runs_thread hr (allowed_anchor_of_useOf hu)]
    simp only [hu, hunit, enterQueue_alone hout hj hvf hl ho hov hv hroom hpending]
    rfl
  · intro s i h es rest r hi hm hst hq hne hjoin hrest hopen hmq hd hes hrun hc hraised howed hrd
    have hconvoy : headConvoy h.anchor.viq = (es, rest) := by rw [hq]; exact headConvoy_append hne hjoin hrest
    have hhead : commitHead s i h = setHart s i (r.leaves rest) := by
      rw [commitHead_quiet hconvoy hne (headClosed_of hopen) hmq hes, performConvoy, hrun]
      exact afterCommit_quiet hc (fun x hx => hraised x hx) howed
    have hget : (setHart s i (r.leaves rest)).harts[i]? = some (r.leaves rest) := List.getElem?_set_self (List.getElem?_eq_some_iff.1 hi).1
    refine ⟨setHart s i (r.leaves rest), r.leaves rest, congrArg _ (commitStep_commits hi hm hst hhead hget hrd), rfl, rfl, rfl, ?_⟩
    intro e1 e2 f1 f2 h1 vf1 fl1 b1 p1 h2 vf2 fl2 b2 p2 hes2 hf1 hf2 hd1 hd2
    subst hes2
    obtain ⟨u1, hu1, -⟩ := hes e1 (by simp)
    obtain ⟨u2, hu2, -⟩ := hes e2 (by simp)
    have hm1 : memberOf e1 = some (u1, f1) := by simp only [memberOf, hu1, hf1]
    have hm2 : memberOf e2 = some (u2, f2) := by simp only [memberOf, hu2, hf2]
    have hwhole := (convoyRun_two hm1 hm2 hd1 hd2).symm.trans hrun
    cases hwhole
    exact ⟨rfl, rfl, rfl⟩

end Sys2Proof.Machine
end

section
/-! PROOFS. Writing a scalar register (R47): what it leaves of the hart and of the device. -/
namespace Sys2Proof.Machine

open Sys2Proof

/-- A write to a scalar register and the step behind the instruction leave of the writing thread all but its registers and its PC. -/
theorem onlyThread_setReg_advance (h : Hart) (t : Thread) (d : Reg) (v : Word) :
    h.onlyThread ((h.setReg t d v).advance t) t := by
  refine ⟨fun u hu => ?_, ?_, ?_, ?_⟩
  · rw [Hart.advance, Hart.goto, th_setTh_other _ _ _ _ hu, th_setReg_other _ _ _ _ _ hu]
  all_goals cases t <;> rfl

/-- Settles O1: the register file by its read-after-write rule, the rest of the hart and of the device by the frames of a thread and of a hart. -/
theorem registerWriteFrame : Obligations.RegisterWriteFrame := by
  refine ⟨fun h t d v => ?_, fun s h h' hs => ?_⟩
  · obtain ⟨hother, hhart, hpacer, hanchor⟩ := onlyThread_setReg_advance h t d v
    have hread (r : Reg) : ((h.setReg t d v).advance t).reg t r = if r = d ∧ d ≠ 0 then v else h.reg t r := by
      rw [reg_advance, reg_setReg]
    refine ⟨reg_zero _ t, fun hd => ?_, fun r hr => ?_, ?_, hother, ?_, hhart, hpacer, hanchor⟩
    · rw [hread, if_pos ⟨rfl, hd⟩]
    · rw [hread, if_neg fun h => hr h.1]
    · rw [th_advance, th_setReg]
    · rw [th_advance, th_setReg]
  · exact ⟨put_get h' hs, fun i hi => put_get_other s h' hi, List.length_set, rfl, fun _ => rfl⟩

end Sys2Proof.Machine
end

section
/-! PROOFS. Control registers: what `GETC` and `SETC` do with a number that is reached, one that is not, and one that waits (R59 to R68, R176,
R177). -/
namespace Sys2Proof.Machine

open Sys2Proof

/-! ### Numbers (R59) -/

/-- The numbers of the other thread's registers are not known. -/
theorem ctlKnown_pacer_anchors : ∀ n ∈ [0x00A, 0x00B, 0x018, 0x020, 0x021, 0x022, 0x028, 0x040, 0x048], ctlKnown .pacer n = false := by
  decide

theorem ctlKnown_anchor_pacers : ∀ n ∈ [0x010, 0x011, 0x019, 0x01A], ctlKnown .anchor n = false := by decide

/-- The numbers of all control registers of the programs. -/
abbrev ctlNumbers : List Nat := [0x000, 0x001, 0x002, 0x003, 0x004, 0x008, 0x009, 0x00A, 0x00B, 0x010, 0x011, 0x018, 0x019, 0x01A, 0x020,
  0x021, 0x022, 0x028, 0x030, 0x031, 0x032, 0x038, 0x039, 0x040, 0x041, 0x048]

theorem mem_ctlNumbers_of_known {t : Thread} {n : Nat} (h : ctlKnown t n = true) : n ∈ ctlNumbers := by
  rw [ctlKnown.eq_def, Bool.or_eq_true, List.contains_iff_mem, List.contains_iff_mem] at h
  rcases h with h | h
  · exact (by decide : _ ⊆ ctlNumbers) h
  · cases t
    · exact (by decide : _ ⊆ ctlNumbers) h
    · exact (by decide : _ ⊆ ctlNumbers) h

/-- A number that is none of theirs is not known to either thread. -/
theorem ctlKnown_other {n : Nat} (hn : n ∉ ctlNumbers) (t : Thread) : ctlKnown t n = false :=
  Bool.eq_false_iff.2 fun h => hn (mem_ctlNumbers_of_known h)

/-- What reads is known. -/
theorem ctlKnown_of_readCtl {s : State} {h : Hart} {t : Thread} {n : Nat} (hr : (readCtl s h t n).isSome = true) : ctlKnown t n = true := by
  revert hr
  cases t <;> simp only [readCtl, reduceIte, reduceCtorEq] <;> split <;> simp [ctlKnown]

theorem readCtl_unknown (s : State) (h : Hart) {t : Thread} {n : Nat} (hn : ctlKnown t n = false) : readCtl s h t n = none :=
  Option.not_isSome_iff_eq_none.1 fun hr => Bool.eq_false_iff.1 hn (ctlKnown_of_readCtl hr)

/-- Without an entry in the VIQ the Anchor's accesses wait for nothing (R26); a Pacer's, without a vector access (R68). -/
theorem ctlWaits_anchor {h : Hart} (hv : h.anchor.viq = []) (n : Nat) (reads : Bool) : ctlWaits h .anchor n reads = false := by
  simp only [ctlWaits, hv, List.isEmpty_nil, Bool.not_true, Bool.and_false]

theorem ctlWaits_pacer {h : Hart} (hl : h.pacer.loads = []) (hs : ∀ f ∈ h.pacer.stores, f.side ≠ .vector) (n : Nat) (reads : Bool) :
    ctlWaits h .pacer n reads = false := by
  have hstores : h.pacer.stores.any (onSide .vector) = false := by
    simpa [onSide] using hs
  simp only [ctlWaits, hl, hstores, List.isEmpty_nil, Bool.not_true, Bool.or_false, Bool.and_false]

/-! ### GETC (R176) -/

section
variable {s : State} {h : Hart} {t : Thread} (hr : s.runs h t) (d : Reg) {num : Fin 4096}
include hr

theorem exec_getc_waits (hw : ctlWaits h t num true = true) : exec (.getc d num) s = .next s := by
  change getControl _ d num s = _
  rw [getControl, runs_thread hr rfl, if_pos hw]

theorem exec_getc_unknown (hw : ctlWaits h t num true = false) (hn : ctlKnown t num = false) :
    exec (.getc d num) s = .next (refuseWord s s.cur.hart h t 0x01) := by
  change getControl _ d num s = _
  rw [getControl, runs_thread hr rfl, if_neg (Bool.eq_false_iff.1 hw), readCtl_unknown s h hn]

theorem exec_getc_reads {w : Word} (hw : ctlWaits h t num true = false) (hv : readCtl s h t num = some w) (ht : num.val ≠ 0x010) :
    exec (.getc d num) s = .next (s.put ((h.setReg t d w).advance t)) := by
  change getControl _ d num s = _
  rw [getControl, runs_thread hr rfl, if_neg (Bool.eq_false_iff.1 hw), hv]
  exact if_neg ht

end

/-- Reading `tagmap` observes the tags that it shows (R114). -/
theorem exec_getc_tagmap {s : State} {h : Hart} (d : Reg) (hp : s.runs h .pacer) (hw : ctlWaits h .pacer 0x010 true = false)
    (hrec : s.mgmt.recoveries = []) :
    exec (.getc d 0x010) s = .next (modHart (observeTags s s.cur.hart h.core (setTags h.pacer.tagmap)) s.cur.hart
      fun h' => (h'.setReg .pacer d h.pacer.tagmap).advance .pacer) := by
  change getControl _ d 0x010 s = _
  rw [getControl, runs_thread hp rfl]
  refine (if_neg (Bool.eq_false_iff.1 hw)).trans ?_
  exact if_neg (Bool.eq_false_iff.1 (dirtyFenced_none hrec h.core))

/-! ### SETC (R176, R177) -/

section
variable {s : State} {h : Hart} {t : Thread} (hr : s.runs h t) (s1 : Reg) {num : Fin 4096}
include hr

theorem exec_setc_unknown (hn : ctlKnown t num = false) : exec (.setc num s1) s = .next (refuseWord s s.cur.hart h t 0x01) := by
  change setControl _ num s1 s = _
  rw [setControl, runs_thread hr rfl, hn]
  rfl

theorem exec_setc_waits (hn : ctlKnown t num = true) (hw : ctlWaits h t num false = true) : exec (.setc num s1) s = .next s := by
  change setControl _ num s1 s = _
  rw [setControl, runs_thread hr rfl, hn, hw]
  rfl

theorem exec_setc_refused (hn : ctlKnown t num = true) (hw : ctlWaits h t num false = false) (hv : writeCtl h t num (h.reg t s1) = none) :
    exec (.setc num s1) s = .next (trapAt s s.cur.hart h t 0x01 0) := by
  change setControl _ num s1 s = _
  rw [setControl, runs_thread hr rfl, hn, hw, hv]
  rfl

/-- A value that is stored at once: the Pacer's, and an Anchor's that does not enter the VIQ. -/
theorem exec_setc_stores {h' : Hart} (hn : ctlKnown t num = true) (hw : ctlWaits h t num false = false)
    (hv : writeCtl h t num (h.reg t s1) = some h') (he : t = .anchor → entersViq num = false) :
    exec (.setc num s1) s = .next (s.put (h'.advance t)) := by
  change setControl _ num s1 s = _
  rw [setControl, runs_thread hr rfl, hn, hw, hv]
  cases t with
  | pacer => rfl
  | anchor => exact if_neg (Bool.eq_false_iff.1 (he rfl))

end

section
variable {s : State} {h h' : Hart} (hr : s.runs h .anchor) (s1 : Reg) {num : Fin 4096} (he : entersViq num = true)
  (hv : writeCtl h .anchor num (h.reg .anchor s1) = some h')
include hr he hv

theorem exec_setc_enters : exec (.setc num s1) s = enterSetc s s.cur.hart h h' (.setc num s1) (h.reg .anchor s1) := by
  have hnum : num.val = 0x009 ∨ num.val = 0x020 ∨ num.val = 0x040 := by simpa [entersViq, or_assoc] using he
  have hn : ctlKnown .anchor num = true := by rcases hnum with hnum | hnum | hnum <;> rw [hnum] <;> rfl
  have hw : ctlWaits h .anchor num false = false := by rcases hnum with hnum | hnum | hnum <;> rw [hnum] <;> rfl
  change setControl _ num s1 s = _
  rw [setControl, runs_thread hr rfl, hn, hw, hv]
  exact if_pos he

theorem exec_setc_entry_waits (hfull : 64 ≤ h.anchor.viq.length ∨ vlPending h.anchor = true) : exec (.setc num s1) s = .next s := by
  rw [exec_setc_enters hr s1 he hv, enterSetc, if_pos (by simpa using hfull)]

/-- The entry of a `SETC`: what it captures is in force before it (R68, R177). -/
theorem exec_setc_entry (hroom : h.anchor.viq.length < 64) (hvl : vlPending h.anchor = false) (hq : h'.anchor.viq = h.anchor.viq) :
    ∃ e : VEntry, e.instr = .setc num s1 ∧ e.addr = h.anchor.th.pc ∧ e.scal1 = h.reg .anchor s1 ∧
      e.frm = h.anchor.th.frm ∧ e.topoctl = h.anchor.topoctl ∧ e.rngkey = h.anchor.rngkey ∧
      exec (.setc num s1) s = .next (s.put (Hart.advance
        { h' with anchor := { h'.anchor with viq := h.anchor.viq ++ [e], openLen := none } } .anchor)) := by
  refine ⟨{ capture h (.setc num s1) {} none with scal1 := h.reg .anchor s1 }, rfl, rfl, rfl, rfl, rfl, rfl, ?_⟩
  rw [exec_setc_enters hr s1 he hv, enterSetc, if_neg (by simp [hvl, hroom]), ← hq]
  rfl

end

/-! ### Values (R60 to R62, R66) -/

/-- The low bits of a word: what is reserved above them is 0. -/
theorem low_bits_eq_and (w : Word) {n : Nat} (hn : n ≤ 64) : BitVec.ofNat 64 (w.toNat % 2 ^ n) = w &&& BitVec.ofNat 64 (2 ^ n - 1) := by
  have hlt : 2 ^ n - 1 < 2 ^ 64 := by
    have := Nat.pow_le_pow_right (by decide : 0 < 2) hn
    omega
  refine BitVec.eq_of_toNat_eq ?_
  rw [BitVec.toNat_and, BitVec.toNat_ofNat, BitVec.toNat_ofNat, Nat.mod_eq_of_lt hlt, Nat.and_two_pow_sub_one_eq_mod]
  exact Nat.mod_eq_of_lt (Nat.lt_of_le_of_lt (Nat.mod_le _ _) w.isLt)

theorem featver_word (x : BitVec 8) : BitVec.ofNat 64 (1 + x.toNat * 2 ^ 16) = x.setWidth 64 <<< 16 ||| 1 := by
  refine BitVec.eq_of_toNat_eq ?_
  have hx := x.isLt
  have hor : x.toNat <<< 16 ||| 1 = x.toNat <<< 16 + 1 := (Nat.shiftLeft_add_eq_or_of_lt (by decide) _).symm
  have hshift : (x.setWidth 64 <<< 16).toNat = x.toNat <<< 16 := by
    simp only [BitVec.toNat_shiftLeft, BitVec.toNat_setWidth, Nat.shiftLeft_eq]
    omega
  rw [BitVec.toNat_or, hshift]
  refine Eq.trans ?_ hor.symm
  rw [BitVec.toNat_ofNat, Nat.shiftLeft_eq]
  omega

/-- One half of the random counter replaced, the other kept. -/
theorem rngctr_low_replaced (r : BitVec 128) (w : Word) : (r >>> 64 <<< 64) ||| w.setWidth 128 = (r >>> 64).setWidth 64 ++ w := by
  refine BitVec.eq_of_getLsbD_eq fun k hk => ?_
  rw [BitVec.getLsbD_append, BitVec.getLsbD_or, BitVec.getLsbD_shiftLeft, BitVec.getLsbD_setWidth, BitVec.getLsbD_setWidth]
  by_cases hlow : k < 64
  · simp [hlow, hk]
  · have : k - 64 < 64 := by omega
    simp [hlow, hk, this, BitVec.getLsbD_of_ge w k (Nat.not_lt.1 hlow)]

theorem rngctr_high_replaced (r : BitVec 128) (w : Word) :
    (r.setWidth 64).setWidth 128 ||| (w.setWidth 128 <<< 64) = w ++ r.setWidth 64 := by
  refine BitVec.eq_of_getLsbD_eq fun k hk => ?_
  rw [BitVec.getLsbD_append, BitVec.getLsbD_or, BitVec.getLsbD_shiftLeft, BitVec.getLsbD_setWidth, BitVec.getLsbD_setWidth,
    BitVec.getLsbD_setWidth]
  by_cases hlow : k < 64
  · simp [hlow, hk]
  · have : k - 64 < 128 := by omega
    simp [hlow, hk, this]

/-! ### What is stored (R19, R60 to R62, R66) -/

section
variable (h : Hart) (t : Thread) (w : Word)

theorem writeCtl_fflags : writeCtl h t 0x008 w = some (h.setTh t { h.th t with fflags := w &&& 0x1F }) :=
  congrArg (fun x => some (h.setTh t { h.th t with fflags := x })) (low_bits_eq_and w (n := 5) (by decide))

theorem writeCtl_frm (hlt : w.toNat % 8 < 5) : writeCtl h t 0x009 w = some (h.setTh t { h.th t with frm := w &&& 0x7 }) :=
  (if_pos hlt).trans (congrArg (fun x => some (h.setTh t { h.th t with frm := x })) (low_bits_eq_and w (n := 3) (by decide)))

theorem writeCtl_frm_illegal (hge : 5 ≤ w.toNat % 8) : writeCtl h t 0x009 w = none := if_neg (Nat.not_lt.2 hge)

theorem writeCtl_lod : writeCtl h .pacer 0x01A w = some { h with pacer := { h.pacer with lod := w &&& 0xFFFFFFFF } } :=
  congrArg (fun x => some ({ h with pacer := { h.pacer with lod := x } } : Hart)) (low_bits_eq_and w (n := 32) (by decide))

theorem writeCtl_vsat : writeCtl h .anchor 0x00A w = some { h with anchor := { h.anchor with vsat := w &&& 1 } } :=
  congrArg (fun x => some ({ h with anchor := { h.anchor with vsat := x } } : Hart)) (low_bits_eq_and w (n := 1) (by decide))

theorem writeCtl_efc : writeCtl h .anchor 0x00B w = some { h with anchor := { h.anchor with efc := w &&& 0xFFFFFFFF } } :=
  congrArg (fun x => some ({ h with anchor := { h.anchor with efc := x } } : Hart)) (low_bits_eq_and w (n := 32) (by decide))

theorem writeCtl_topoctl : writeCtl h .anchor 0x040 w = some { h with anchor := { h.anchor with topoctl := w &&& 1 } } :=
  congrArg (fun x => some ({ h with anchor := { h.anchor with topoctl := x } } : Hart)) (low_bits_eq_and w (n := 1) (by decide))

theorem writeCtl_rngctr_low : writeCtl h .anchor 0x021 w =
    some { h with anchor := { h.anchor with rngctr := (h.anchor.rngctr >>> 64).setWidth 64 ++ w } } :=
  congrArg (fun x : BitVec 128 => some ({ h with anchor := { h.anchor with rngctr := x } } : Hart)) (rngctr_low_replaced h.anchor.rngctr w)

theorem writeCtl_rngctr_high : writeCtl h .anchor 0x022 w =
    some { h with anchor := { h.anchor with rngctr := w ++ h.anchor.rngctr.setWidth 64 } } :=
  congrArg (fun x : BitVec 128 => some ({ h with anchor := { h.anchor with rngctr := x } } : Hart)) (rngctr_high_replaced h.anchor.rngctr w)

/-- A register that both threads only read keeps its value (R5). -/
theorem writeCtl_readOnly {n : Nat} (hn : n ∈ [0x001, 0x003, 0x030, 0x031, 0x032, 0x038, 0x039]) :
    ctlKnown t n = true ∧ entersViq n = false ∧ writeCtl h t n w = some h := by
  simp only [List.mem_cons, List.not_mem_nil, or_false] at hn
  rcases hn with rfl | rfl | rfl | rfl | rfl | rfl | rfl <;> exact ⟨rfl, rfl, rfl⟩

end

/-- The Anchor's accesses that wait while the VIQ holds an entry (R26). -/
theorem ctlWaits_viq {h : Hart} (hq : h.anchor.viq ≠ []) {n : Nat} (hn : n ∈ [0x000, 0x004, 0x008, 0x00A, 0x00B, 0x021, 0x022, 0x028])
    (reads : Bool) : ctlKnown .anchor n = true ∧ ctlWaits h .anchor n reads = true := by
  have hviq : h.anchor.viq.isEmpty = false := by rwa [List.isEmpty_eq_false_iff]
  simp only [List.mem_cons, List.not_mem_nil, or_false] at hn
  simp only [ctlWaits, hviq, Bool.not_false, Bool.and_true]
  rcases hn with rfl | rfl | rfl | rfl | rfl | rfl | rfl | rfl <;> exact ⟨rfl, rfl⟩

/-- The Pacer's reads that wait while a vector load is in flight (R68). -/
theorem ctlWaits_loads {h : Hart} (hl : h.pacer.loads ≠ []) {n : Nat} (hn : n = 0x004 ∨ n = 0x008) : ctlWaits h .pacer n true = true := by
  have hloads : h.pacer.loads.isEmpty = false := by rwa [List.isEmpty_eq_false_iff]
  rcases hn with rfl | rfl <;> simp only [ctlWaits, hloads, Bool.not_false, Bool.true_or, Bool.and_true] <;> rfl

/-- Settles O7: a number that is not known is refused; one that is reads as `readCtl` says and stores as `writeCtl` says, at once or through an
entry of the VIQ; what waits changes nothing. -/
theorem controlRegisters : Obligations.ControlRegisters := by
  refine ⟨fun s h t d hr hq hl => ?_, fun s h t s1 hr hq => ?_, fun s h d s1 => ⟨fun hr hne => ?_, fun hr => ?_, fun hr hne => ?_⟩⟩
  · have hw (n : Nat) : ctlWaits h t n true = false := by
      cases t with
      | anchor => exact ctlWaits_anchor (hq rfl) n true
      | pacer => exact ctlWaits_pacer (hl rfl).1 (hl rfl).2 n true
    have reads {num : Fin 4096} {w : Word} (ht : num.val ≠ 0x010) (hv : readCtl s h t num = some w) :
        exec (.getc d num) s = .next (s.put ((h.setReg t d w).advance t)) := exec_getc_reads hr d (hw _) hv ht
    have illegal {num : Fin 4096} (hn : ctlKnown t num = false) := exec_getc_unknown hr d (hw _) hn
    refine ⟨reads (by decide) rfl, reads (by decide) rfl, reads (by decide) rfl, reads (by decide) rfl, reads (by decide) rfl,
      reads (by decide) rfl, reads (by decide) rfl, reads (by decide) rfl, reads (by decide) rfl, reads (by decide) rfl,
      reads (by decide) (congrArg some (featver_word _)), reads (by decide) rfl, reads (by decide) rfl, ?_, ?_, ?_, ?_,
      fun num hn => illegal (ctlKnown_other hn t)⟩
    · rintro rfl
      exact ⟨reads (by decide) rfl, reads (by decide) rfl, reads (by decide) rfl, exec_getc_tagmap d hr (hw _)⟩
    · rintro rfl
      have hvcp : vcpOf h.anchor = h.anchor.th.pc := by rw [vcpOf, hq rfl]; rfl
      exact ⟨reads (by decide) rfl, reads (by decide) rfl, reads (by decide) (congrArg some hvcp), reads (by decide) rfl, reads (by decide) rfl,
        reads (by decide) rfl, reads (by decide) rfl, reads (by decide) rfl, reads (by decide) rfl⟩
    · rintro rfl num hn
      exact illegal (ctlKnown_pacer_anchors _ hn)
    · rintro rfl num hn
      exact illegal (ctlKnown_anchor_pacers _ hn)
  · have hw (n : Nat) : ctlWaits h t n false = false := by
      cases t with
      | anchor => exact ctlWaits_anchor (hq rfl) n false
      | pacer => simp only [ctlWaits, Bool.false_and]
    have stores {num : Fin 4096} {h' : Hart} (hn : ctlKnown t num = true) (he : t = .anchor → entersViq num = false)
        (hv : writeCtl h t num (h.reg t s1) = some h') : exec (.setc num s1) s = .next (s.put (h'.advance t)) :=
      exec_setc_stores hr s1 hn (hw _) hv he
    have illegal {num : Fin 4096} (hn : ctlKnown t num = false) := exec_setc_unknown hr s1 hn
    refine ⟨stores rfl (fun _ => rfl) rfl, stores rfl (fun _ => rfl) rfl, stores rfl (fun _ => rfl) rfl,
      stores rfl (fun _ => rfl) (writeCtl_fflags h t _), ?_, fun hge => exec_setc_refused hr s1 rfl (hw _) (writeCtl_frm_illegal h t _ hge),
      stores rfl (fun _ => rfl) rfl, ?_, ?_, ?_, fun num hn => illegal (ctlKnown_other hn t)⟩
    · rintro rfl hlt
      exact stores rfl nofun (writeCtl_frm h .pacer _ hlt)
    · intro num hn
      obtain ⟨hknown, henters, hro⟩ := writeCtl_readOnly h t (h.reg t s1) hn
      exact stores hknown (fun _ => henters) hro
    · rintro rfl
      exact ⟨stores rfl nofun rfl, stores rfl nofun (writeCtl_lod h _), stores rfl nofun rfl, stores rfl nofun rfl,
        fun num hn => illegal (ctlKnown_pacer_anchors _ hn)⟩
    · rintro rfl
      exact ⟨stores rfl (fun _ => rfl) (writeCtl_vsat h _), stores rfl (fun _ => rfl) (writeCtl_efc h _),
        stores rfl (fun _ => rfl) (writeCtl_rngctr_low h _), stores rfl (fun _ => rfl) (writeCtl_rngctr_high h _),
        stores rfl (fun _ => rfl) rfl, stores rfl (fun _ => rfl) rfl, stores rfl (fun _ => rfl) rfl,
        fun num hn => illegal (ctlKnown_anchor_pacers _ hn)⟩
  · intro num hn
    exact ⟨exec_getc_waits hr d (ctlWaits_viq hne hn true).2,
      exec_setc_waits hr s1 (ctlWaits_viq hne hn false).1 (ctlWaits_viq hne hn false).2⟩
  · have enters {num : Fin 4096} {h' : Hart} (he : entersViq num = true) (hv : writeCtl h .anchor num (h.reg .anchor s1) = some h')
        (hq : h'.anchor.viq = h.anchor.viq) :=
      And.intro (exec_setc_entry_waits hr s1 he hv) fun hroom hvl => exec_setc_entry hr s1 he hv hroom hvl hq
    exact ⟨fun hlt => enters rfl (writeCtl_frm h .anchor _ hlt) rfl, enters rfl rfl rfl, enters rfl (writeCtl_topoctl h _) rfl⟩
  · exact ⟨exec_getc_waits hr d (ctlWaits_loads hne (.inl rfl)), exec_getc_waits hr d (ctlWaits_loads hne (.inr rfl))⟩

end Sys2Proof.Machine
end

section
/-! PROOFS. An instruction of the V form that the vector unit performs on its own: what it reads, pops and leaves (R16, R23, R61, R155). -/
namespace Sys2Proof.Machine

open Sys2Proof

/-! ### Results without exceptions -/

theorem mem_quiet_of_computes {h : Hart} {p : Pred} {t : ElemType} {g : Nat → Word} {x : Elt}
    (hx : x ∈ (h.computes p t fun e => .quiet (g e)).filterMap id) : ∃ w, x = .quiet w := by
  simp only [List.mem_filterMap, Hart.computes, List.mem_map, id_eq] at hx
  obtain ⟨y, ⟨e, -, rfl⟩, hy⟩ := hx
  split at hy
  · cases hy
  · split at hy
    · exact ⟨_, (Option.some.inj hy).symm⟩
    · split at hy
      · exact ⟨_, (Option.some.inj hy).symm⟩
      · cases hy

theorem flagsOf_quiet {es : List Elt} (h : ∀ x ∈ es, ∃ w, x = .quiet w) : flagsOf es = 0 := by
  have hfold : ∀ fl : Flags, es.foldl (fun f e => f ||| e.flags) fl = fl := by
    induction es with
    | nil => exact fun _ => rfl
    | cons x xs ih =>
      obtain ⟨w, rfl⟩ := h x (List.mem_cons_self ..)
      intro fl
      rw [List.foldl_cons, ih fun y hy => h y (List.mem_cons_of_mem _ hy)]
      exact BitVec.or_zero
  exact hfold 0

theorem satOf_quiet {es : List Elt} (h : ∀ x ∈ es, ∃ w, x = .quiet w) : satOf es = false := by
  refine List.any_eq_false.2 fun x hx => ?_
  obtain ⟨w, rfl⟩ := h x hx
  exact Bool.false_ne_true

@[simp] theorem raisedBy_quiet (h : Hart) (p : Pred) (t : ElemType) (g : Nat → Word) : raisedBy (h.computes p t fun e => .quiet (g e)) = 0 :=
  flagsOf_quiet fun _ => mem_quiet_of_computes

@[simp] theorem saturatedBy_quiet (h : Hart) (p : Pred) (t : ElemType) (g : Nat → Word) :
    saturatedBy (h.computes p t fun e => .quiet (g e)) = false := satOf_quiet fun _ => mem_quiet_of_computes

/-! ### Sources (R16) -/

/-- The sources that an instruction names. -/
abbrev VUse.names (u : VUse) : List VSrc := u.srcs.map Prod.snd

theorem mem_lqs_iff (u : VUse) (q : Fin 4) : q ∈ u.lqs ↔ .lq q ∈ u.names := by
  rw [lqs_mem, List.mem_map]
  exact ⟨fun ⟨k, hk⟩ => ⟨_, hk, rfl⟩, fun ⟨⟨k, _⟩, hk, hx⟩ => ⟨k, hx ▸ hk⟩⟩

theorem taken_nil (h : Hart) : h.taken [] = h := by
  have hlq : (Vector.ofFn fun q : Fin 4 => if ([] : List VSrc).contains (.lq q) then h.lq[q].tail else h.lq[q]) = h.lq :=
    Vector.ext fun k hk => by simp
  rw [Hart.taken, hlq]

section
variable {s : State} {h : Hart} {i : Instr} {u : VUse}

theorem popped_eq_taken (h : Hart) (u : VUse) : popped h u = h.taken u.names := popped_taken h u _ (mem_lqs_iff u)

theorem readSource_names {x : VSrc} {a : VSource} (hx : x ∈ u.names) (ha : h.operand x = some a) :
    readSource (ctxOf h i u) (popped h u) x = some a :=
  read_reg_or_row h i u x a ha fun q hq => (mem_lqs_iff u q).2 (hq ▸ hx)

variable (hsrc : ∀ x ∈ u.names, (h.operand x).isSome = true)
include hsrc

/-- The load queues that live sources name hold a row. -/
theorem lqs_ne_nil {q : Fin 4} (hq : q ∈ u.lqs) : h.lq[q] ≠ [] := by
  have hlive := hsrc _ ((mem_lqs_iff u q).1 hq)
  rw [Hart.operand, Option.isSome_map] at hlive
  intro hnil
  rw [hnil] at hlive
  cases hlive

/-- Its rows are popped before it runs. -/
theorem popQueues_names : popQueues (ctxOf h i u) (popped h u) u.names = h.taken u.names := by
  rw [pop_id, popped_eq_taken]
  intro q hq
  have hmem := (mem_lqs_iff u q).2 ((queues_mem u.names q).1 hq)
  obtain ⟨r, rest, hrow⟩ := List.exists_cons_of_ne_nil (lqs_ne_nil hsrc hmem)
  have hfind := rows_find h u.lqs q hmem r (by rw [hrow]; rfl)
  exact List.any_eq_true.2 ⟨(q, r), List.mem_of_find?_eq_some hfind, beq_self_eq_true q⟩

/-- What its effect leaves is what the step leaves. -/
theorem exec_of_effect {f : VEffect} {h' : Hart} {vf : Option VSource} {fl : Flags} {sat : Bool} {part : List Word} (hs : s.performs h)
    (hu : useOf i = some u) (hf : effectOf i = some f) (hv : u.vform = true) (hroom : ∀ q ∈ u.sqs, h.sq[q].length < 8)
    (hd : f (ctxOf h i u) (popped h u) = .done h' vf fl sat part false) (hq : h'.anchor.viq = h.anchor.viq)
    (hpc : h'.anchor.th.pc = h.anchor.th.pc) (hpart : h'.part = h.part) : exec i s = vectorOutcome s h' fl sat := by
  rw [exec_vectorInstr hu]
  exact vector_runs s h i u f h' vf fl sat part hs hu hf hv (allowed_anchor_of_useOf hu) (fun q hq => lqs_ne_nil hsrc hq) hroom hd hq hpc hpart

end

theorem sqs_room {h : Hart} {u : VUse} {d : VDst} (hd : u.dst = some d) (hroom : h.hasRoom d) : ∀ q ∈ u.sqs, h.sq[q].length < 8 := by
  intro q hq
  rw [VUse.sqs, hd] at hq
  cases d with
  | reg r => cases hq
  | sq q' =>
    rw [List.mem_singleton] at hq
    exact hq ▸ hroom

/-- An instruction without vector operands runs on the hart as it is. -/
theorem popped_none (h : Hart) {u : VUse} (hu : u.srcs = []) : popped h u = h := by
  rw [popped_eq_taken, VUse.names, hu, List.map_nil, taken_nil]

theorem names_none_live (h : Hart) {u : VUse} (hu : u.srcs = []) : ∀ x ∈ u.names, (h.operand x).isSome = true := by
  rw [VUse.names, hu]
  exact List.forall_mem_nil _

theorem sqs_none_room (h : Hart) {u : VUse} (hu : u.dst = none) : ∀ q ∈ u.sqs, h.sq[q].length < 8 := by
  rw [VUse.sqs, hu]
  exact List.forall_mem_nil _

/-- An element-wise run without vector operands, that raises nothing. -/
theorem exec_elements_none {s : State} {h : Hart} {i : Instr} {u : VUse} {f : VEffect} {whole : Bool} {p : Pred} {d : VDst} {t : ElemType}
    {caps : List ElemType} {bad : Nat → Bool} {g : Nat → Word} (hs : s.performs h) (hu : useOf i = some u) (hf : effectOf i = some f)
    (hv : u.vform = true) (hsrcs : u.srcs = []) (hd : u.dst = some d) (hroom : h.hasRoom d) (hlt : h.vfirst < h.vlen)
    (hcap : ∀ u ∈ t :: caps, h.vlen ≤ capacity h.cls u) (hw : whole = true → h.vfirst = 0) (hbad : ∀ e, e < h.vlen → bad e = false)
    (hrun : f (ctxOf h i u) (popped h u) = elementRun whole p d t [] caps bad (fun e => .quiet (g e)) (ctxOf h i u) (popped h u)) :
    exec i s = vectorOutcome s (h.deliver d t (h.computes p t fun e => .quiet (g e))) 0 false := by
  have hlqs (q : Fin 4) : q ∈ u.lqs ↔ .lq q ∈ ([] : List VSrc) := by rw [mem_lqs_iff, VUse.names, hsrcs, List.map_nil]
  have hexec := elt_runs s h i u f [] d t p whole caps bad _ hs hu hf hv (allowed_anchor_of_useOf hu) hlqs (List.forall_mem_nil _) hd hroom hrun
    hlt hcap hw hbad
  rw [exec_vectorInstr hu, hexec, taken_nil, raisedBy_quiet, saturatedBy_quiet]

/-! ### Masks and activity (R151) -/

/-- The selector's bits are the Anchor's, whatever has been popped. -/
theorem maskBit_of_anchor {h g : Hart} (hg : g.anchor = h.anchor) (i : Instr) (u : VUse) (sel : MaskSel) (e : Nat) :
    maskBit (ctxOf h i u) g sel e = h.picks sel e := by
  cases sel with
  | none => rfl
  | some m =>
    simp only [maskBit, hg]
    rfl

theorem active_of_anchor {h g : Hart} (hg : g.anchor = h.anchor) (i : Instr) (u : VUse) (sel : MaskSel) (e : Nat) :
    active (ctxOf h i u) g sel e = h.acts sel e := by
  rw [active, maskBit_of_anchor hg]
  exact Bool.and_true _

@[simp] theorem maskBit_lone (h : Hart) (i : Instr) (u : VUse) (sel : MaskSel) (e : Nat) :
    maskBit (ctxOf h i u) (popped h u) sel e = h.picks sel e := maskBit_of_anchor rfl i u sel e

@[simp] theorem active_lone (h : Hart) (i : Instr) (u : VUse) (sel : MaskSel) (e : Nat) :
    active (ctxOf h i u) (popped h u) sel e = h.acts sel e := active_of_anchor rfl i u sel e

/-- From the first element on, those below vl that the selector picks are active. -/
theorem acts_eq_picks {h : Hart} {sel : MaskSel} {e : Nat} (h0 : h.vfirst = 0) (he : e < h.vlen) : h.acts sel e = h.picks sel e := by
  simp only [Hart.acts, h0, Nat.zero_le, he, decide_true, Bool.true_and]

theorem acts_eq_true {h : Hart} {sel : MaskSel} {e : Nat} : h.acts sel e = true ↔ (h.vfirst ≤ e ∧ e < h.vlen) ∧ h.picks sel e = true := by
  simp only [Hart.acts, Bool.and_eq_true, decide_eq_true_eq]

/-! ### Whole instructions (R61, R207) -/

theorem performsNothing_lone {h : Hart} (hlt : h.vfirst < h.vlen) (i : Instr) (u : VUse) : (ctxOf h i u).performsNothing = false :=
  decide_eq_false (Nat.not_le.2 hlt)

/-- A whole instruction from its first element, that meets no poison, runs its body. -/
theorem wholeRun_runs {h : Hart} {i : Instr} {u : VUse} {caps : List ElemType} {names : List VSrc} {nothing : Option (VDst × ElemType)}
    {bad : Nat → Bool} (k : VEffect) (hlt : 0 < h.vlen) (h0 : h.vfirst = 0) (hcap : ∀ t ∈ caps, h.vlen ≤ capacity h.cls t)
    (hbad : ∀ e, e < h.vlen → bad e = false) :
    wholeRun caps names nothing bad k (ctxOf h i u) (popped h u) = k (ctxOf h i u) (popped h u) := by
  have hover : caps.any (overCapacity (ctxOf h i u) (popped h u)) = false := by
    simp only [List.any_eq_false, overCapacity, decide_eq_true_eq, Nat.not_lt]
    exact hcap
  have hperf := performsNothing_lone (h := h) (h0 ▸ hlt) i u
  have hin : (ctxOf h i u).startsInside = false := by
    have : ¬ 0 < h.vfirst := by omega
    exact Bool.and_eq_false_iff.2 (.inl (decide_eq_false this))
  have hfind : (List.range (ctxOf h i u).limit).find? bad = none := by
    simp only [List.find?_eq_none, List.mem_range, Bool.not_eq_true]
    exact hbad
  simp only [wholeRun, hover, hperf, hin, hfind, Bool.false_eq_true, if_false]
  rfl

end Sys2Proof.Machine
end

section
/-! PROOFS. Vector compares, mask instructions, and what counts mask bits (R56, R192, R197, R199, R215, R222). -/
namespace Sys2Proof.Machine

open Sys2Proof

/-! ### Compares (R197) -/

/-- The exceptions of the elements picked, ORed together. -/
theorem getLsbD_foldl_or (l : List Nat) (P : Nat → Bool) (g : Nat → Flags) (fl : Flags) (k : Nat) :
    (l.foldl (fun fl e => if P e then fl ||| g e else fl) fl).getLsbD k = (fl.getLsbD k || l.any fun e => P e && (g e).getLsbD k) := by
  induction l generalizing fl with
  | nil => simp
  | cons e l ih =>
    rw [List.foldl_cons, ih, List.any_cons]
    cases P e <;> simp [Bool.or_assoc]

/-- The mask a compare leaves and what it raises (R56, R197): the condition on active elements, a clear bit on inactive ones when z is set. -/
def Hart.compares (h : Hart) (p : Pred) (m : MaskReg) (fe : Nat → Bool × Flags) (new : Nat) (fl : Flags) : Prop :=
  (∀ e, new.testBit e = if h.acts p.sel e then (fe e).1
    else if h.vfirst ≤ e ∧ e < h.vlen ∧ p.z = true then false else (h.anchor.th.masks[m]).testBit e) ∧
  ∀ k, fl.getLsbD k = (List.range h.vlen).any fun e => h.acts p.sel e && (fe e).2.getLsbD k

section
variable {s : State} {h : Hart} {i : Instr} {u : VUse} {f : VEffect} {p : Pred} {m : MaskReg} {srcs : List VSource} {fe : Nat → Bool × Flags}
  (hlt : h.vfirst < h.vlen) (hcap : ∀ a ∈ srcs, h.vlen ≤ capacity h.cls a.ty) (hpoison : ∀ a ∈ srcs, a.poison = [])
include hlt hcap hpoison

/-- A compare that nothing refuses: its bits and its exceptions. -/
theorem maskwise_done : ∃ (new : Nat) (fl : Flags), maskwise p m u.names srcs fe (ctxOf h i u) (popped h u) =
      .done ((popQueues (ctxOf h i u) (popped h u) u.names).withMask m new) none fl false [] false ∧
    h.compares p m fe new fl := by
  have hover : (srcs.any fun a => overCapacity (ctxOf h i u) (popped h u) a.ty) = false := by
    simp only [List.any_eq_false, overCapacity, decide_eq_true_eq, Nat.not_lt]
    exact hcap
  have hperf := performsNothing_lone hlt i u
  have hclean : poisonAt (ctxOf h i u) (popped h u) p.sel (fun e => srcs.any fun a => a.poison.contains e) = none := by
    have hno (e : Nat) : (srcs.any fun a => a.poison.contains e) = false := by
      simp only [List.any_eq_false]
      intro a ha
      simp [hpoison a ha]
    simp only [poisonAt, hno, Bool.and_false, List.find?_eq_none, Bool.false_eq_true, not_false_eq_true, implies_true]
  simp only [maskwise, hover, hperf, hclean, Bool.false_eq_true, if_false, maskBit_lone, active_lone]
  refine ⟨_, _, rfl, fun e => ?_, fun k => ?_⟩
  · rw [testBit_maskPatch]
    change (if h.vfirst ≤ e ∧ e < h.vlen then (if h.picks p.sel e = true then (fe e).1 else if p.z = true then false
      else (h.anchor.th.masks[m]).testBit e) else (h.anchor.th.masks[m]).testBit e) = _
    by_cases hin : h.vfirst ≤ e ∧ e < h.vlen
    · simp only [acts_eq_true, hin, true_and, if_true]
    · have : ¬ (h.vfirst ≤ e ∧ e < h.vlen ∧ p.z = true) := fun hz => hin ⟨hz.1, hz.2.1⟩
      simp only [acts_eq_true, hin, this, false_and, if_false]
  · rw [getLsbD_foldl_or, show (0 : Flags).getLsbD k = false from BitVec.getLsbD_zero]
    exact Bool.false_or _

/-- A compare on its own. -/
theorem exec_compare (hs : s.performs h) (hu : useOf i = some u) (hf : effectOf i = some f) (hv : u.vform = true) (hdst : u.dst = none)
    {names : List VSrc} (hn : u.names = names) (hsrc : ∀ x ∈ names, (h.operand x).isSome = true)
    (hrun : f (ctxOf h i u) (popped h u) = maskwise p m names srcs fe (ctxOf h i u) (popped h u)) :
    ∃ (new : Nat) (fl : Flags), exec i s = vectorOutcome s ((h.taken names).withMask m new) fl false ∧
      h.compares p m fe new fl := by
  subst hn
  obtain ⟨new, fl, hdone, hcmp⟩ := maskwise_done (i := i) (u := u) (p := p) (m := m) (fe := fe) hlt hcap hpoison
  rw [popQueues_names hsrc] at hdone
  exact ⟨new, fl, exec_of_effect hsrc hs hu hf hv (sqs_none_room h hdst) (hrun.trans hdone) rfl rfl rfl, hcmp⟩

end

/-! ### Mask instructions (R199) -/

/-- A mask instruction writes the bits of [vstart, vl). -/
theorem exec_maskOp {s : State} {h : Hart} {i : Instr} {u : VUse} {m : MaskReg} {f : VEffect} {g : Nat → Bool} (hlt : h.vfirst < h.vlen)
    (hs : s.performs h) (hu : useOf i = some u) (hf : effectOf i = some f) (hv : u.vform = true) (hsrcs : u.srcs = []) (hdst : u.dst = none)
    (hrun : f (ctxOf h i u) (popped h u) = maskOp m g (ctxOf h i u) (popped h u)) :
    ∃ new, exec i s = vectorOutcome s (h.withMask m new) 0 false ∧
      ∀ e, new.testBit e = if h.vfirst ≤ e ∧ e < h.vlen then g e else (h.anchor.th.masks[m]).testBit e := by
  refine ⟨maskPatch h.anchor.th.masks[m] h.vfirst h.vlen g, ?_, testBit_maskPatch _ _ _ _⟩
  refine exec_of_effect (vf := none) (part := []) (names_none_live h hsrcs) hs hu hf hv (sqs_none_room h hdst) (hrun.trans ?_) rfl rfl rfl
  rw [maskOp, performsNothing_lone hlt, popped_none h hsrcs]
  rfl

/-! ### Counts (R222) -/

/-- The bits of a mask that are counted: those of active elements. -/
abbrev Hart.countedBits (h : Hart) (sel : MaskSel) (m : MaskReg) : List Nat :=
  (List.range h.vlen).filter fun e => h.picks sel e && (h.anchor.th.masks[m]).testBit e

section
variable {h : Hart} (hlt : 0 < h.vlen) (h0 : h.vfirst = 0) (i : Instr) {u : VUse} (sel : MaskSel) (d : Reg) (m : MaskReg)
include h0

theorem filter_active_bits : ((List.range h.vlen).filter fun e => active (ctxOf h i u) (popped h u) sel e &&
    maskBit (ctxOf h i u) (popped h u) (some m) e) = h.countedBits sel m := by
  refine List.filter_congr fun e he => ?_
  rw [active_lone, maskBit_lone, acts_eq_picks h0 (List.mem_range.1 he)]
  rfl

variable (hsrcs : u.srcs = [])
include hlt hsrcs

theorem maskPop_done : maskPop sel d m (ctxOf h i u) (popped h u) =
    .done (h.withScalar d (BitVec.ofNat 64 (h.countedBits sel m).length)) none 0 false [] false := by
  rw [maskPop, wholeRun_runs _ hlt h0 (List.forall_mem_nil _) fun _ _ => rfl]
  dsimp only
  rw [show (ctxOf h i u).vl = h.vlen from rfl, filter_active_bits h0, popped_none h hsrcs]
  rfl

theorem maskLow_done : maskLow sel d m (ctxOf h i u) (popped h u) =
    .done (h.withScalar d (((h.countedBits sel m).head?.map (BitVec.ofNat 64)).getD (-1))) none 0 false [] false := by
  rw [maskLow, wholeRun_runs _ hlt h0 (List.forall_mem_nil _) fun _ _ => rfl]
  dsimp only
  rw [show (ctxOf h i u).vl = h.vlen from rfl, ← List.head?_filter, filter_active_bits h0, popped_none h hsrcs]
  cases (h.countedBits sel m).head? <;> rfl

end

/-- Settles O27: the effect of each instruction, bit by bit, on the hart once the rows it names are popped. -/
theorem vectorComparesAndMasks : Obligations.VectorComparesAndMasks := by
  refine ⟨fun s h p m s1 s2 c imm a hs ha hpa hcap hlt => ⟨fun b hb hbt hpb x hx hk => ?_, fun x hx hk => ?_, fun hint x hx hk => ?_⟩,
    fun s h j v m ma mb sel p d vd hs hlt => ?_⟩
  · have hsrc : ∀ x ∈ [s1, s2], (h.operand x).isSome = true := by simp [ha, hb]
    obtain ⟨hu, hf⟩ : useOf x.1 = some { pred := p, srcs := [(0, s1), (1, s2)], mwrites := [m], unit := .alu, vform := true } ∧
        effectOf x.1 = some (compare2 x.2 p m s1 s2) := by
      simp only [List.mem_cons, List.not_mem_nil, or_false] at hx
      rcases hx with rfl | rfl | rfl | rfl | rfl | rfl | rfl | rfl <;> exact ⟨rfl, rfl⟩
    exact exec_compare (srcs := [a, b]) (fe := fun e => eltCond x.2 a.ty (a.get e) (b.get e)) hlt (by simp [hbt, hcap])
      (by simp [hpa, hpb]) hs hu hf rfl rfl rfl hsrc (by
        rw [compare2, readSource_names (by simp) ha, readSource_names (by simp) hb]
        simp [hbt, hk])
  · have hsrc : ∀ x ∈ [s1], (h.operand x).isSome = true := by simp [ha]
    obtain ⟨hu, hf⟩ : useOf x.1 = some { pred := p, srcs := [(0, s1)], mwrites := [m], unit := .alu, scal2 := some c, vform := true } ∧
        effectOf x.1 = some (compare2s x.2 p m s1) := by
      simp only [List.mem_cons, List.not_mem_nil, or_false] at hx
      rcases hx with rfl | rfl | rfl | rfl | rfl | rfl | rfl | rfl <;> exact ⟨rfl, rfl⟩
    exact exec_compare (srcs := [a]) (fe := fun e => eltCond x.2 a.ty (a.get e) (trunc a.ty (h.reg .anchor c))) hlt
      (by simp [hcap]) (by simp [hpa]) hs hu hf rfl rfl rfl hsrc (by
        rw [compare2s, readSource_names (by simp) ha]
        exact if_pos hk)
  · have hsrc : ∀ x ∈ [s1], (h.operand x).isSome = true := by simp [ha]
    obtain ⟨hu, hf⟩ : useOf x.1 = some { pred := p, srcs := [(0, s1)], mwrites := [m], unit := .alu, vform := true } ∧
        effectOf x.1 = some (compare2i x.2 p m s1 imm) := by
      simp only [List.mem_cons, List.not_mem_nil, or_false] at hx
      rcases hx with rfl | rfl | rfl | rfl | rfl | rfl <;> exact ⟨rfl, rfl⟩
    exact exec_compare (srcs := [a]) (fe := fun e => eltCond x.2 a.ty (a.get e) (trunc a.ty (imm.signExtend 64))) hlt
      (by simp [hcap]) (by simp [hpa]) hs hu hf rfl rfl rfl hsrc (by
        rw [compare2i, readSource_names (by simp) ha]
        exact if_pos (by rw [hk, hint]; rfl))
  · refine ⟨exec_maskOp hlt hs rfl rfl rfl rfl rfl rfl, exec_maskOp hlt hs rfl rfl rfl rfl rfl rfl,
      exec_maskOp hlt hs rfl rfl rfl rfl rfl rfl, exec_maskOp hlt hs rfl rfl rfl rfl rfl rfl, exec_maskOp hlt hs rfl rfl rfl rfl rfl rfl, ?_, ?_⟩
    · intro h0
      exact ⟨exec_of_effect (names_none_live h rfl) hs rfl rfl rfl (sqs_none_room h rfl) (maskPop_done (h0 ▸ hlt) h0 _ sel d m rfl) rfl rfl rfl,
        exec_of_effect (names_none_live h rfl) hs rfl rfl rfl (sqs_none_room h rfl) (maskLow_done (h0 ▸ hlt) h0 _ sel d m rfl) rfl rfl rfl⟩
    · intro hint hcap hroom
      refine exec_elements_none hs rfl rfl rfl rfl rfl hroom hlt (by simpa using hcap) (fun hw => ?_) (fun _ _ => rfl) (if_pos hint)
      cases vd <;> cases hw

end Sys2Proof.Machine
end

section
/-! PROOFS. The forest instructions (R55, R223 to R230). -/
namespace Sys2Proof.Machine

open Sys2Proof

/-! ### What a forest instruction writes -/

/-- A hart keeps what a commit goes by: the queue, the PC and the partition. -/
def Hart.keepsPlace (h g : Hart) : Prop := g.anchor.viq = h.anchor.viq ∧ g.anchor.th.pc = h.anchor.th.pc ∧ g.part = h.part

theorem Hart.keepsPlace.trans {h g g' : Hart} (h1 : h.keepsPlace g) (h2 : g.keepsPlace g') : h.keepsPlace g' :=
  ⟨h2.1.trans h1.1, h2.2.1.trans h1.2.1, h2.2.2.trans h1.2.2⟩

theorem writeForestMasks_keepsPlace (h : Hart) (fm : ForestMasks) (n : Nat) (cyc cut : Nat → Bool) :
    h.keepsPlace (writeForestMasks h fm n cyc cut) := by
  rw [writeForestMasks]
  cases fm.cyc <;> cases fm.cut <;> exact ⟨rfl, rfl, rfl⟩

theorem deliver_keepsPlace (h : Hart) (d : VDst) (t : ElemType) (es : List (Option Elt)) : h.keepsPlace (h.deliver d t es) := by
  cases d <;> exact ⟨rfl, rfl, rfl⟩

/-- Value results: those of the nodes, with their exceptions (R191). -/
theorem forestWrite_taken (h : Hart) (i : Instr) (u : VUse) (names : List VSrc) (p : Pred) (d : VDst) (t : ElemType) (fe : Nat → Elt) :
    forestWrite (ctxOf h i u) (h.taken names) p d t fe =
      ((h.taken names).deliver d t (h.computes p t fe), raisedBy (h.computes p t fe)) := by
  have hes : elementsOf (ctxOf h i u) (h.taken names) p t fe = h.computes p t fe := elementsOf_eq _ _ p t fe rfl rfl rfl rfl rfl
  have hlen : (h.computes p t fe).length = h.vlen := by rw [Hart.computes, List.length_map, List.length_range]
  simp only [forestWrite, hes]
  refine congrArg (·, raisedBy (h.computes p t fe)) ?_
  cases d with
  | reg r => rfl
  | sq q =>
    have hrow := written_row (ctxOf h i u) t rfl h.vlen (h.computes p t fe) hlen
    simp only [writeDst, Hart.deliver, ← hrow]
    rfl

/-- A mask result: the bits of the nodes (R228, R230). -/
theorem forestMaskWrite_lone {h g : Hart} (hg : g.anchor = h.anchor) (h0 : h.vfirst = 0) (i : Instr) (u : VUse) (p : Pred) (m : MaskReg)
    (f : Nat → Bool) : ∃ new, forestMaskWrite (ctxOf h i u) g p m f = g.withMask m new ∧
      ∀ e, new.testBit e = if e < h.vlen ∧ h.picks p.sel e = true then f e
        else if e < h.vlen ∧ p.z = true then false else (h.anchor.th.masks[m]).testBit e := by
  refine ⟨_, rfl, fun e => ?_⟩
  rw [testBit_maskPatch, maskBit_of_anchor hg, hg]
  change (if h.vfirst ≤ e ∧ e < h.vlen then _ else _) = _
  by_cases he : e < h.vlen
  · simp only [h0, he, Nat.zero_le, true_and, if_true]
  · simp only [he, and_false, false_and, if_false]

/-! ### Running one (R223, R224) -/

theorem topo_not_over {h : Hart} (htopo : h.vlen ≤ topoCapacity h.cls) (i : Instr) (u : VUse) :
    decide (topoCapacity (popped h u).cls < (ctxOf h i u).vl) = false := decide_eq_false (Nat.not_lt.2 htopo)

/-- Over the links of k: the parents of the nodes below vl, the cyclic nodes, the cut edges (R223). -/
abbrev Hart.parentsIn (h : Hart) (k : TopoReg) : List Link := parents h.vlen h.anchor.kregs[k]
abbrev Hart.cyclicIn (h : Hart) (k : TopoReg) : Nat → Bool := isCyclic (lastChain h.vlen h.anchor.kregs[k])
abbrev Hart.cutIn (h : Hart) (k : TopoReg) : Nat → Bool := isCut h.vlen h.anchor.kregs[k]

/-- No node is cyclic where the trap is on. -/
abbrev Hart.calmForest (h : Hart) (k : TopoReg) : Prop :=
  h.anchor.topoctl.getLsbD 0 = true → ∀ e, e < h.vlen → h.cyclicIn k e = false

/-- The output masks of a forest instruction over the links of k. -/
abbrev Hart.forestMasks (h g : Hart) (fm : ForestMasks) (k : TopoReg) : Hart :=
  writeForestMasks g fm h.vlen (h.cyclicIn k) (h.cutIn k)

section
variable {s : State} {h : Hart} {i : Instr} {u : VUse} {f : VEffect} {caps : List ElemType} {names : List VSrc}
  {nothing : Option (VDst × ElemType)} {k : TopoReg} {fm : ForestMasks} {bad : Nat → Bool}
  {body : KReg → List Link → List Link → VCtx → Hart → Hart × Flags}
  (hlt : 0 < h.vlen) (h0 : h.vfirst = 0) (htopo : h.vlen ≤ topoCapacity h.cls)
include hlt h0 htopo

theorem forestRun_done (hcap : ∀ t ∈ caps, h.vlen ≤ capacity h.cls t) (hbad : ∀ e, e < h.vlen → bad e = false) (hcalm : h.calmForest k) :
    forestRun caps names nothing k fm bad body (ctxOf h i u) (popped h u) =
      let r := body h.anchor.kregs[k] (h.parentsIn k) (lastChain h.vlen h.anchor.kregs[k]) (ctxOf h i u)
        (popQueues (ctxOf h i u) (popped h u) names)
      .done (h.forestMasks r.1 fm k) none r.2 false [] false := by
  have hcycle : (h.anchor.topoctl.getLsbD 0 && (List.range h.vlen).any (h.cyclicIn k)) = false := by
    cases htrap : h.anchor.topoctl.getLsbD 0
    · rfl
    · rw [Bool.true_and, List.any_eq_false]
      intro e he
      rw [hcalm htrap e (List.mem_range.1 he)]
      exact Bool.false_ne_true
  rw [forestRun, topo_not_over htopo, if_neg Bool.false_ne_true]
  exact (wholeRun_runs _ hlt h0 hcap hbad).trans (congrArg (VRes.done _ none _ false []) hcycle)

variable (hs : s.performs h) (hu : useOf i = some u) (hf : effectOf i = some f) (hv : u.vform = true) (hn : u.names = names)
  (hsrc : ∀ x ∈ names, (h.operand x).isSome = true) (hcap : ∀ t ∈ caps, h.vlen ≤ capacity h.cls t)
  (hbad : ∀ e, e < h.vlen → bad e = false) (hcalm : h.calmForest k)
  (hrun : f (ctxOf h i u) (popped h u) = forestRun caps names nothing k fm bad body (ctxOf h i u) (popped h u))
include hs hu hf hv hn hsrc hcap hbad hcalm hrun

/-- A forest instruction leaves what its body writes, and the output masks. -/
theorem exec_forest {g : Hart} {fl : Flags} (hroom : ∀ q ∈ u.sqs, h.sq[q].length < 8)
    (hbody : body h.anchor.kregs[k] (h.parentsIn k) (lastChain h.vlen h.anchor.kregs[k]) (ctxOf h i u) (h.taken names) = (g, fl))
    (hplace : h.keepsPlace g) :
    exec i s = vectorOutcome s (h.forestMasks g fm k) fl false := by
  subst hn
  obtain ⟨hviq, hpc, hpart⟩ := hplace.trans (writeForestMasks_keepsPlace g fm h.vlen (h.cyclicIn k) (h.cutIn k))
  have hdone := hrun.trans (forestRun_done hlt h0 htopo hcap hbad hcalm)
  rw [popQueues_names hsrc, hbody] at hdone
  exact exec_of_effect hsrc hs hu hf hv hroom hdone hviq hpc hpart

/-- One whose body writes a value of each node. -/
theorem exec_forest_values {p : Pred} {d : VDst} {t : ElemType} {fe : Nat → Elt} (hd : u.dst = some d) (hroom : h.hasRoom d)
    (hbody : body h.anchor.kregs[k] (h.parentsIn k) (lastChain h.vlen h.anchor.kregs[k]) (ctxOf h i u) (h.taken names) =
      forestWrite (ctxOf h i u) (h.taken names) p d t fe) :
    exec i s = vectorOutcome s (h.forestMasks ((h.taken names).deliver d t (h.computes p t fe)) fm k) (raisedBy (h.computes p t fe)) false :=
  exec_forest hlt h0 htopo hs hu hf hv hn hsrc hcap hbad hcalm hrun (sqs_room hd hroom) (hbody.trans (forestWrite_taken h i u names p d t fe))
    (deliver_keepsPlace (h.taken names) d t _)

end

/-- An IDX16 of each node (R228). -/
theorem exec_linkResult {s : State} {h : Hart} {i : Instr} {u : VUse} {p : Pred} {d : VDst} {k : TopoReg} {fm : ForestMasks}
    {F : VCtx → List Link → Nat → Nat} (hs : s.performs h) (hroom : h.hasRoom d) (hlt : 0 < h.vlen) (h0 : h.vfirst = 0)
    (htopo : h.vlen ≤ topoCapacity h.cls) (hcalm : h.calmForest k) (hcap : h.vlen ≤ capacity h.cls .idx16) (hu : useOf i = some u)
    (hf : effectOf i = some (linkResult p d k fm F)) (hv : u.vform = true) (hsrcs : u.srcs = []) (hd : u.dst = some d)
    {G : Nat → Nat} (hG : ∀ e, F (ctxOf h i u) (h.parentsIn k) e = G e) :
    exec i s = vectorOutcome s (h.forestMasks (h.deliver d .idx16 (h.computes p .idx16 fun e =>
      .quiet (if h.cyclicIn k e = true then cyclicResult .idx16
        else BitVec.ofNat 64 (G e % 2 ^ 16)))) fm k) 0 false := by
  have hexec := exec_forest_values hlt h0 htopo hs hu hf hv (by rw [VUse.names, hsrcs, List.map_nil]) (List.forall_mem_nil _)
    (by simpa using hcap) (fun _ _ => rfl) hcalm rfl hd hroom rfl
  simp only [taken_nil, raisedBy_quiet, hG] at hexec
  exact hexec

/-- A topology register written by the rules of R52 (R55). -/
def Hart.withLinks (h : Hart) (k : TopoReg) (w : List (Option (BitVec 16))) : Hart :=
  { h with anchor := { h.anchor with kregs := h.anchor.kregs.set k (writeKReg h.anchor.kregs[k] w) } }

section
variable {s : State} {h : Hart} (p : Pred) (d : VDst) (k kd : TopoReg) (m : MaskReg) {s1 : VSrc} (fm : ForestMasks) (hs : s.performs h)
  (hlt : 0 < h.vlen) (h0 : h.vfirst = 0) (htopo : h.vlen ≤ topoCapacity h.cls)
include hs hlt h0 htopo

theorem exec_kget (hroom : h.hasRoom d) (hcap : h.vlen ≤ capacity h.cls .idx16) : exec (.kget p d k) s =
    vectorOutcome s (h.deliver d .idx16 (h.computes p .idx16 fun e => .quiet ((h.anchor.kregs[k].get e).setWidth 64))) 0 false :=
  exec_elements_none (whole := true) (caps := []) (bad := fun _ => false) hs rfl rfl rfl rfl rfl hroom (h0 ▸ hlt)
    (by simpa using hcap) (fun _ => h0) (fun _ _ => rfl) (if_neg (Bool.eq_false_iff.1 (topo_not_over htopo _ _)))

theorem exec_kcheck : ∃ new, exec (.kcheck p m k) s = vectorOutcome s (h.withMask m new) 0 false ∧
    ∀ e, new.testBit e = if e < h.vlen ∧ h.picks p.sel e = true then h.cyclicIn k e
      else if e < h.vlen ∧ p.z = true then false else (h.anchor.th.masks[m]).testBit e := by
  obtain ⟨new, hnew, hbits⟩ := forestMaskWrite_lone (h := h) rfl h0 (.kcheck p m k) { pred := p, mwrites := [m], unit := .fst, vform := true } p m
    (h.cyclicIn k)
  refine ⟨new, exec_of_effect (vf := none) (part := []) (names_none_live h rfl) hs rfl rfl rfl (sqs_none_room h rfl) ?_ rfl rfl rfl, hbits⟩
  rw [checkCycles, topo_not_over htopo, if_neg Bool.false_ne_true, wholeRun_runs _ hlt h0 (List.forall_mem_nil _) fun _ _ => rfl,
    popped_none h rfl]
  exact congrArg (VRes.done · none 0 false [] false) hnew

theorem exec_kcontract (hcalm : h.calmForest k) : exec (.kcontract p kd k fm) s =
    vectorOutcome s (h.forestMasks (h.withLinks kd ((List.range h.vlen).map fun e =>
      some (if h.cyclicIn k e = true then 0x8000
        else contractFrom h.anchor.kregs[k] h.vlen (h.picks p.sel) (h.parentsIn k) (h.vlen + 1) e))) fm k) 0 false := by
  have hpicks (u : VUse) : maskBit (ctxOf h (.kcontract p kd k fm) u) h p.sel = h.picks p.sel := funext (maskBit_of_anchor rfl _ _ _)
  refine exec_forest (names := []) hlt h0 htopo hs rfl rfl rfl rfl (List.forall_mem_nil _) (List.forall_mem_nil _) (fun _ _ => rfl) hcalm rfl
    (sqs_none_room h rfl) ?_ ⟨rfl, rfl, rfl⟩
  simp only [taken_nil, hpicks]
  rfl

variable {a : VSource} (ha : h.operand s1 = some a) (hpa : a.poison = []) (hcap : h.vlen ≤ capacity h.cls a.ty)
include ha hpa hcap

theorem exec_kset (hty : a.ty = .idx16) : exec (.kset p k s1) s = vectorOutcome s ((h.taken [s1]).withLinks k ((List.range h.vlen).map fun e =>
    if h.picks p.sel e = true then some ((a.get e).setWidth 16) else if p.z then some 0xFFFF else none)) 0 false := by
  have hsrc : ∀ x ∈ [s1], (h.operand x).isSome = true := by simp [ha]
  have hrows := popQueues_names (i := .kset p k s1) (u := { pred := p, srcs := [(0, s1)], unit := .fst, vform := true }) hsrc
  refine exec_of_effect (u := { pred := p, srcs := [(0, s1)], unit := .fst, vform := true }) (vf := none) (part := []) hsrc hs rfl rfl rfl
    (sqs_none_room h rfl) ?_ rfl rfl rfl
  rw [linksSet, readSource_names (by simp) ha]
  refine (if_neg (not_not.2 hty)).trans ?_
  rw [topo_not_over htopo, if_neg Bool.false_ne_true, wholeRun_runs _ hlt h0 (by simpa [hty] using hcap) (fun e _ => by simp [hpa])]
  simp only [maskBit_lone, show (ctxOf h _ _).vstart = 0 from h0, Nat.not_lt_zero, if_false]
  exact hrows ▸ rfl

theorem exec_kancIs (hty : a.ty = .idx16) (hcalm : h.calmForest k) : ∃ new, exec (.kancIs p m s1 k fm) s =
      vectorOutcome s (h.forestMasks ((h.taken [s1]).withMask m new) fm k) 0 false ∧
    ∀ e, new.testBit e = if e < h.vlen ∧ h.picks p.sel e = true then
        decide ((a.get e).toNat % 2 ^ 16 < h.vlen) && !h.cyclicIn k e &&
          !h.cyclicIn k ((a.get e).toNat % 2 ^ 16) &&
          onPath (h.parentsIn k) ((a.get e).toNat % 2 ^ 16) h.vlen e
      else if e < h.vlen ∧ p.z = true then false else (h.anchor.th.masks[m]).testBit e := by
  have hsrc : ∀ x ∈ [s1], (h.operand x).isSome = true := by simp [ha]
  obtain ⟨new, hnew, hbits⟩ := forestMaskWrite_lone (h := h) (g := h.taken [s1]) rfl h0 (.kancIs p m s1 k fm)
    { pred := p, srcs := [(0, s1)], mwrites := [m] ++ fm.cyc.toList ++ fm.cut.toList, unit := .fst, vform := true } p m _
  refine ⟨new, exec_forest (names := [s1]) (caps := [.idx16]) (nothing := none) (bad := ?bad) (body := ?body) hlt h0 htopo hs rfl rfl rfl rfl hsrc
    (by simpa [hty] using hcap) ?hbad hcalm ?hrun (sqs_none_room h rfl) ?hbody ⟨rfl, rfl, rfl⟩, hbits⟩
  case hrun =>
    rw [isAncestor, readSource_names (by simp) ha]
    exact if_neg (not_not.2 hty)
  case hbad => exact fun e _ => by simp [hpa]
  case hbody => exact congrArg (·, (0 : Flags)) hnew

theorem exec_kbcast (hroom : h.hasRoom d) (hcalm : h.calmForest k) : exec (.kbcast p d s1 k fm) s =
    vectorOutcome s (h.forestMasks ((h.taken [s1]).deliver d a.ty (h.computes p a.ty fun e =>
      .quiet (if h.cyclicIn k e = true then cyclicResult a.ty
        else a.get (rootFrom (h.parentsIn k) h.vlen e 0).1))) fm k) 0 false := by
  have hsrc : ∀ x ∈ [s1], (h.operand x).isSome = true := by simp [ha]
  rw [← raisedBy_quiet h p a.ty]
  refine exec_forest_values (names := [s1]) (caps := [a.ty]) (nothing := some (d, a.ty)) (bad := ?bad) (body := ?body) hlt h0 htopo hs
    rfl rfl rfl rfl hsrc (by simpa using hcap) ?hbad hcalm ?hrun rfl hroom ?hbody
  case hrun => rw [broadcast, readSource_names (by simp) ha]
  case hbad => exact fun e _ => by simp [hpa]
  case hbody => rfl

/-- Paths and subtrees combined: active nodes start with their own value, others with the identity (R223, R226, R227). -/
theorem exec_combineTree {i : Instr} {o : CanonOp} {down : Bool} {mws : List MaskReg} (hroom : h.hasRoom d) (hcalm : h.calmForest k)
    (hty : isInt a.ty = true ∨ isFlt a.ty = true) (hct : h.vlen ≤ capacity h.cls (accType o a.ty))
    (hu : useOf i = some { pred := p, srcs := [(0, s1)], dst := some d, mwrites := mws, unit := .fst, vform := true })
    (hf : effectOf i = some (combineTree down o p d s1 k fm)) :
    let t := accType o a.ty
    let v := (List.range h.vlen).map fun e => if h.picks p.sel e = true then toAcc o a.ty (a.get e) else .quiet (canonId o t)
    let ps := h.parentsIn k
    let res := if down then (downRun o t (doublings h.vlen) (v, ps)).1 else upRun o t (doublings h.vlen) ps v
    let es := h.computes p t fun e =>
      if h.cyclicIn k e = true then .quiet (cyclicResult t) else res.getD e (.quiet 0)
    exec i s = vectorOutcome s (h.forestMasks ((h.taken [s1]).deliver d t es) fm k) (raisedBy es) false := by
  intro t v ps res es
  have hsrc : ∀ x ∈ [s1], (h.operand x).isSome = true := by simp [ha]
  have hvalues (u : VUse) : nodeValues o (ctxOf h i u) (h.taken [s1]) p.sel a = v := by
    refine List.map_congr_left fun e he => ?_
    rw [active_of_anchor (h := h) (g := h.taken [s1]) rfl, acts_eq_picks h0 (List.mem_range.1 he)]
  refine exec_forest_values (names := [s1]) (caps := [a.ty, t]) (nothing := some (d, t)) (bad := ?bad) (body := ?body) hlt h0 htopo
    hs hu hf rfl rfl hsrc ?hcap ?hbad hcalm ?hrun rfl hroom ?hbody
  case hrun =>
    rw [combineTree, readSource_names (by simp) ha]
    exact if_pos (Bool.or_eq_true_iff.2 hty)
  case hcap => simp [hcap, t, hct]
  case hbad => exact fun e _ => by simp [hpa]
  case hbody =>
    simp only [hvalues]
    rfl

end

/-- Settles O31: each instruction on its own, by its body over the parents and the last chain of its links. -/
theorem forestInstructions : Obligations.ForestInstructions := by
  intro s h p d k kd m c s1 fm hs hroom hlt h0 htopo
  refine ⟨exec_kget p d k hs hlt h0 htopo hroom, fun hcalm hcap => ?_, fun hcalm hcap => ?_, fun hcalm hcap => ?_,
    exec_kcheck p k m hs hlt h0 htopo, exec_kcontract p k kd fm hs hlt h0 htopo, fun a ha hpa hcap =>
      ⟨exec_kset p k hs hlt h0 htopo ha hpa hcap, exec_kancIs p k m fm hs hlt h0 htopo ha hpa hcap,
        exec_kbcast p d k fm hs hlt h0 htopo ha hpa hcap hroom, fun hty hcalm x hx hct => ?_⟩⟩
  · exact exec_linkResult hs hroom hlt h0 htopo hcalm hcap rfl rfl rfl rfl rfl fun _ => rfl
  · exact exec_linkResult hs hroom hlt h0 htopo hcalm hcap rfl rfl rfl rfl rfl fun _ => rfl
  · exact exec_linkResult hs hroom hlt h0 htopo hcalm hcap rfl rfl rfl rfl rfl fun _ => rfl
  · let mws := [] ++ fm.cyc.toList ++ fm.cut.toList
    obtain ⟨hu, hf⟩ : useOf x.1 = some { pred := p, srcs := [(0, s1)], dst := some d, mwrites := mws, unit := .fst, vform := true } ∧
        effectOf x.1 = some (combineTree x.2.2 x.2.1 p d s1 k fm) := by
      simp only [List.mem_cons, List.not_mem_nil, or_false] at hx
      rcases hx with rfl | rfl | rfl | rfl | rfl | rfl <;> exact ⟨rfl, rfl⟩
    exact exec_combineTree p d k fm hs hlt h0 htopo ha hpa hcap hroom hcalm hty hct hu hf

end Sys2Proof.Machine
end

section
/-! PROOFS. Integer elements: the range of a type, exact integers wrapped to it or clamped, and the two-source results (R70 to R73, R196). -/
namespace Sys2Proof.Machine

open Sys2Proof

/-! ### The range of a type (R70) -/

theorem width_pos (t : ElemType) : 0 < width t := by cases t <;> decide

theorem width_le_64 (t : ElemType) : width t ≤ 64 := by cases t <;> decide

theorem two_pow_width (t : ElemType) : (2 : Int) ^ width t = 2 * 2 ^ (width t - 1) := by
  rw [← pow_succ', Nat.sub_add_cancel (width_pos t)]

theorem intHi_sub_intLo (t : ElemType) : intHi t - intLo t = 2 ^ width t - 1 := by
  have hw := two_pow_width t
  unfold intHi intLo
  split <;> omega

theorem intLo_nonpos (t : ElemType) : intLo t ≤ 0 := by
  have hpos : (0 : Int) < 2 ^ (width t - 1) := by positivity
  unfold intLo
  split <;> omega

theorem intHi_nonneg (t : ElemType) : 0 ≤ intHi t := by
  have hpos : (0 : Int) < 2 ^ (width t - 1) := by positivity
  have hw := two_pow_width t
  unfold intHi
  split <;> omega

/-- At most one more negative value than positive ones. -/
theorem neg_intLo_le (t : ElemType) : -intLo t ≤ intHi t + 1 := by
  have hpos : (0 : Int) < 2 ^ (width t - 1) := by positivity
  have hw := two_pow_width t
  unfold intHi intLo
  split <;> omega

theorem intVal_mem_range (t : ElemType) (x : Word) : intLo t ≤ intVal t x ∧ intVal t x ≤ intHi t := by
  have hw := two_pow_width t
  have hlt : ((x.toNat % 2 ^ width t : Nat) : Int) < 2 ^ width t := by exact_mod_cast Nat.mod_lt _ (Nat.two_pow_pos _)
  unfold intVal intLo intHi
  simp only [Bool.and_eq_true, decide_eq_true_eq]
  cases isSigned t
  · simp only [Bool.false_eq_true, false_and, if_false]
    omega
  · simp only [true_and, if_true]
    split
    · next hge =>
      have : (2 : Int) ^ (width t - 1) ≤ (x.toNat % 2 ^ width t : Nat) := by exact_mod_cast hge
      omega
    · next hge =>
      have : ((x.toNat % 2 ^ width t : Nat) : Int) < 2 ^ (width t - 1) := by exact_mod_cast Nat.not_le.1 hge
      omega

theorem intVal_emod (t : ElemType) (x : Word) : intVal t x % 2 ^ width t = (x.toNat % 2 ^ width t : Nat) := by
  have hlt : ((x.toNat % 2 ^ width t : Nat) : Int) < 2 ^ width t := by exact_mod_cast Nat.mod_lt _ (Nat.two_pow_pos _)
  unfold intVal
  dsimp only
  split
  · rw [Int.sub_emod_right, Int.emod_eq_of_lt (Int.natCast_nonneg _) hlt]
  · exact Int.emod_eq_of_lt (Int.natCast_nonneg _) hlt

/-! ### Wrapping (R71) -/

theorem intBits_toNat (t : ElemType) (i : Int) : ((intBits t i).toNat : Int) = i % 2 ^ width t := by
  have hpos : (0 : Int) < 2 ^ width t := by positivity
  have hlt : i % 2 ^ width t < 2 ^ 64 := (Int.emod_lt_of_pos i hpos).trans_le (pow_le_pow_right₀ (by norm_num) (width_le_64 t))
  rw [intBits, BitVec.toNat_ofNat, Nat.mod_eq_of_lt (by omega), Int.toNat_of_nonneg (Int.emod_nonneg i hpos.ne')]

theorem intBits_lt (t : ElemType) (i : Int) : (intBits t i).toNat < 2 ^ width t := by
  have hlt := Int.emod_lt_of_pos i (show (0 : Int) < 2 ^ width t by positivity)
  rw [← intBits_toNat] at hlt
  exact_mod_cast hlt

/-- What is kept of an exact integer differs from it by a multiple of 2^width. -/
theorem intVal_intBits_emod (t : ElemType) (i : Int) : (intVal t (intBits t i) - i) % 2 ^ width t = 0 := by
  apply Int.emod_eq_emod_iff_emod_sub_eq_zero.1
  rw [intVal_emod, Nat.mod_eq_of_lt (intBits_lt t i), intBits_toNat]

/-- An integer of the type's range is kept. -/
theorem intVal_intBits {t : ElemType} {i : Int} (hlo : intLo t ≤ i) (hhi : i ≤ intHi t) : intVal t (intBits t i) = i := by
  obtain ⟨hlo', hhi'⟩ := intVal_mem_range t (intBits t i)
  have hrange := intHi_sub_intLo t
  have hzero := Int.eq_zero_of_dvd_of_natAbs_lt_natAbs (Int.dvd_of_emod_eq_zero (intVal_intBits_emod t i)) (by omega)
  omega

theorem intVal_intBits_intVal (t : ElemType) (x : Word) : intVal t (intBits t (intVal t x)) = intVal t x :=
  intVal_intBits (intVal_mem_range t x).1 (intVal_mem_range t x).2

theorem trunc_lt (t : ElemType) (x : Word) : (trunc t x).toNat < 2 ^ width t :=
  (BitVec.toNat_ofNat ..).trans_lt ((Nat.mod_le _ _).trans_lt (Nat.mod_lt _ (Nat.two_pow_pos _)))

theorem getLsbD_trunc {t : ElemType} {k : Nat} (hk : k < width t) (x : Word) : (trunc t x).getLsbD k = x.getLsbD k := by
  have hk64 := hk.trans_le (width_le_64 t)
  simp only [trunc, BitVec.getLsbD_ofNat, hk64, decide_true, Bool.true_and, Nat.testBit_mod_two_pow, hk]
  rfl

/-! ### Clamping (R72) -/

theorem satTo_eq {lo hi : Int} (h : lo ≤ hi) (i : Int) : satTo lo hi i = (max lo (min hi i), decide (max lo (min hi i) ≠ i)) := by
  unfold satTo
  split
  · exact Prod.ext (by omega) (by simp; omega)
  · split
    · exact Prod.ext (by omega) (by simp; omega)
    · exact Prod.ext (by omega) (by simp; omega)

/-- A saturating result is the clamped integer, and reports whether it was clamped. -/
theorem eltSat_spec (t : ElemType) (i : Int) : intVal t (eltSat t i).bits = max (intLo t) (min (intHi t) i) ∧
    ((eltSat t i).sat = true ↔ intVal t (eltSat t i).bits ≠ i) := by
  have hlo := intLo_nonpos t
  have hhi := intHi_nonneg t
  have hval : intVal t (eltSat t i).bits = max (intLo t) (min (intHi t) i) := by
    rw [eltSat, satTo_eq (hlo.trans hhi)]
    exact intVal_intBits (by omega) (by omega)
  refine ⟨hval, ?_⟩
  rw [hval, eltSat, satTo_eq (hlo.trans hhi)]
  exact decide_eq_true_iff

theorem eltSat_bits_lt (t : ElemType) (i : Int) : (eltSat t i).bits.toNat < 2 ^ width t := intBits_lt t _

/-! ### Shifts (R73) -/

/-- A right shift is floor division, however far it goes. -/
theorem shiftRight_eq_ediv (t : ElemType) (x : Word) (n : Nat) : shiftRight t (intVal t x) n = intVal t x / 2 ^ n := by
  obtain ⟨hlo, hhi⟩ := intVal_mem_range t x
  have hneg := intLo_nonpos t
  have hrange := intHi_sub_intLo t
  have hnn := intHi_nonneg t
  unfold shiftRight
  split
  · next hn =>
    have hpow : (2 : Int) ^ width t ≤ 2 ^ n := pow_le_pow_right₀ (by norm_num) hn
    split
    · next hx =>
      symm
      rw [Int.ediv_eq_iff_of_pos (by positivity)]
      constructor <;> omega
    · next hx => exact (Int.ediv_eq_zero_of_lt (by omega) (by omega)).symm
  · rfl

/-- Dividing an integer of a type's range keeps it in the range. -/
theorem ediv_mem_range {t : ElemType} {i d : Int} (hd : 0 < d) (hlo : intLo t ≤ i) (hhi : i ≤ intHi t) :
    intLo t ≤ i / d ∧ i / d ≤ intHi t := by
  have hneg := intLo_nonpos t
  have hnn := intHi_nonneg t
  rcases le_or_gt 0 i with hi | hi
  · have h1 := Int.ediv_le_self d hi
    have h2 := Int.ediv_nonneg hi hd.le
    omega
  · have h1 : i ≤ i / d := by
      rw [Int.le_ediv_iff_mul_le hd]
      nlinarith
    have h2 := Int.ediv_neg_of_neg_of_pos hi hd
    omega

/-- The rounded magnitude of a shift is the nearest integer, the larger of two. -/
theorem round_half_up (a n : Nat) : let m := (2 * a + 2 ^ n) / 2 ^ (n + 1)
    m ≤ a ∧ 2 * (m * 2 ^ n) ≤ 2 * a + 2 ^ n ∧ 2 * a < 2 * (m * 2 ^ n) + 2 ^ n := by
  intro m
  have hpos := Nat.two_pow_pos n
  have hdiv := Nat.div_add_mod (2 * a + 2 ^ n) (2 ^ (n + 1))
  have hmod := Nat.mod_lt (2 * a + 2 ^ n) (Nat.two_pow_pos (n + 1))
  have hm : 2 ^ (n + 1) * m = 2 * (m * 2 ^ n) := by ring
  have hp : 2 ^ (n + 1) = 2 * 2 ^ n := pow_succ' ..
  change 2 ^ (n + 1) * m + _ = _ at hdiv
  refine ⟨?_, by omega, by omega⟩
  by_contra hlt
  have : (a + 1) * 2 ^ n ≤ m * 2 ^ n := Nat.mul_le_mul_right _ (by omega)
  have : a ≤ a * 2 ^ n := Nat.le_mul_of_pos_right a hpos
  rw [Nat.add_mul] at *
  omega

/-- What R73 says of x rounded by a shift: the nearest multiple of 2^n, of two the one farther from zero. -/
def nearestShift (x v : Int) (n : Nat) : Prop :=
  2 * (v * 2 ^ n - x).natAbs ≤ 2 ^ n ∧ (2 * (v * 2 ^ n - x).natAbs = 2 ^ n → x.natAbs < (v * 2 ^ n).natAbs)

/-- Rounding a shift never goes away from x's own side of zero, nor past x. -/
theorem roundShift_between (x : Int) (n : Nat) :
    (0 ≤ x → 0 ≤ roundShift x n ∧ roundShift x n ≤ x) ∧ (x < 0 → x ≤ roundShift x n ∧ roundShift x n ≤ 0) := by
  obtain ⟨hm, -⟩ := round_half_up x.natAbs n
  unfold roundShift
  dsimp only at *
  generalize (2 * x.natAbs + 2 ^ n) / 2 ^ (n + 1) = m at *
  split <;> omega

theorem roundShift_nearest (x : Int) (n : Nat) : nearestShift x (roundShift x n) n := by
  obtain ⟨-, hle, hlt⟩ := round_half_up x.natAbs n
  have hpos := Nat.two_pow_pos n
  unfold nearestShift roundShift
  dsimp only at *
  generalize (2 * x.natAbs + 2 ^ n) / 2 ^ (n + 1) = m at *
  have hcast : (m : Int) * 2 ^ n = ((m * 2 ^ n : Nat) : Int) := by push_cast; rfl
  split
  · rw [neg_mul, hcast]
    omega
  · rw [hcast]
    omega

theorem roundShift_mem_range (t : ElemType) (x : Word) (n : Nat) :
    intLo t ≤ roundShift (intVal t x) n ∧ roundShift (intVal t x) n ≤ intHi t := by
  obtain ⟨hlo, hhi⟩ := intVal_mem_range t x
  obtain ⟨hpos, hneg⟩ := roundShift_between (intVal t x) n
  have hlo0 := intLo_nonpos t
  have hhi0 := intHi_nonneg t
  omega

/-- Past every bit of a type, 0 is the nearest multiple. -/
theorem nearestShift_zero {t : ElemType} (x : Word) {n : Nat} (hn : 66 ≤ n) : nearestShift (intVal t x) 0 n := by
  obtain ⟨hlo, hhi⟩ := intVal_mem_range t x
  have hrange := intHi_sub_intLo t
  have hlo0 := intLo_nonpos t
  have hhi0 := intHi_nonneg t
  have hw : (2 : Int) ^ width t ≤ 2 ^ 64 := pow_le_pow_right₀ (by norm_num) (width_le_64 t)
  have hp : 2 ^ 66 ≤ 2 ^ n := Nat.pow_le_pow_right (by norm_num) hn
  rw [nearestShift, zero_mul, zero_sub, Int.natAbs_neg]
  omega

/-! ### High halves (R73) -/

/-- A product of two integers of a range around 0, whose low end is at most one farther from 0 than its high end. -/
theorem product_bounds {L H x y : Int} (hL : L ≤ 0) (hH : 0 ≤ H) (hside : -L ≤ H + 1) (hx : L ≤ x ∧ x ≤ H) (hy : L ≤ y ∧ y ≤ H) :
    L * (H - L + 1) ≤ x * y ∧ x * y < (H + 1) * (H - L + 1) := by
  obtain ⟨hxl, hxh⟩ := hx
  obtain ⟨hyl, hyh⟩ := hy
  have hlow : L * (H - L + 1) ≤ L * H := mul_le_mul_of_nonpos_left (by omega) hL
  rcases le_or_gt 0 y with h0 | h0
  · have h1 : L * y ≤ x * y := mul_le_mul_of_nonneg_right hxl h0
    have h2 : L * H ≤ L * y := mul_le_mul_of_nonpos_left hyh hL
    have h3 : x * y ≤ H * y := mul_le_mul_of_nonneg_right hxh h0
    have h4 : H * y ≤ H * H := mul_le_mul_of_nonneg_left hyh hH
    constructor <;> nlinarith
  · have h1 : H * y ≤ x * y := mul_le_mul_of_nonpos_right hxh h0.le
    have h2 : H * L ≤ H * y := mul_le_mul_of_nonneg_left hyl hH
    have h3 : x * y ≤ L * y := mul_le_mul_of_nonpos_right hxl h0.le
    have h4 : L * y ≤ L * L := mul_le_mul_of_nonpos_left hyl hL
    constructor <;> nlinarith

/-! ### Two-source results (R196) -/

theorem elt2_of_isInt {t : ElemType} (ht : isInt t = true) (o : Op2) (rm : Rounding) (x y : Word) : elt2 o rm t x y = int2 o t x y := by
  have hf : fmtOf t = none := by
    revert ht
    cases t <;> decide
  rw [elt2, hf]

theorem int2_bits_lt (o : Op2) (t : ElemType) (x y : Word) : (int2 o t x y).bits.toNat < 2 ^ width t := by
  have hzero : (0 : Word).toNat < 2 ^ width t := Nat.two_pow_pos _
  cases o with
  | add | sub | mul | mulh | min | max | shr => exact intBits_lt t _
  | and | or | xor => exact trunc_lt t _
  | adds | subs => exact eltSat_bits_lt t _
  | div => exact hzero
  | shl | srr =>
    simp only [int2]
    split
    · exact hzero
    · exact intBits_lt t _

theorem int2_flags (o : Op2) (t : ElemType) (x y : Word) : (int2 o t x y).flags = 0 := by
  cases o with
  | shl | srr =>
    simp only [int2]
    split <;> rfl
  | _ => rfl

section
variable (t : ElemType) (x y : Word)

theorem intVal_zero : intVal t 0 = 0 := by
  simp [intVal]

theorem int2_shl_wraps : (intVal t (int2 .shl t x y).bits - intVal t x * 2 ^ (y.toNat % 2 ^ width t)) % 2 ^ width t = 0 := by
  simp only [int2]
  split
  · next hn =>
    rw [Elt.quiet, intVal_zero, zero_sub]
    exact Int.emod_eq_zero_of_dvd ((pow_dvd_pow 2 hn).mul_left _).neg_right
  · exact intVal_intBits_emod t _

/-- The high half of a product lies in the range (R73). -/
theorem int2_mulh : intVal t (int2 .mulh t x y).bits = intVal t x * intVal t y / 2 ^ width t := by
  obtain ⟨hlo, hhi⟩ := product_bounds (intLo_nonpos t) (intHi_nonneg t) (neg_intLo_le t) (intVal_mem_range t x) (intVal_mem_range t y)
  have hw : (2 : Int) ^ width t = intHi t - intLo t + 1 := by rw [intHi_sub_intLo, sub_add_cancel]
  have hpos : (0 : Int) < 2 ^ width t := by positivity
  rw [← hw] at hlo hhi
  exact intVal_intBits ((Int.le_ediv_iff_mul_le hpos).2 hlo) (Int.lt_add_one_iff.1 ((Int.ediv_lt_iff_lt_mul hpos).2 hhi))

theorem int2_min : intVal t (int2 .min t x y).bits = min (intVal t x) (intVal t y) := by
  rw [min_def]
  simp only [int2, eltOfInt, Elt.quiet]
  split <;> exact intVal_intBits_intVal t _

theorem int2_max : intVal t (int2 .max t x y).bits = max (intVal t x) (intVal t y) := by
  rw [max_def]
  simp only [int2, eltOfInt, Elt.quiet]
  split <;> exact intVal_intBits_intVal t _

theorem int2_shr : intVal t (int2 .shr t x y).bits = intVal t x / 2 ^ (y.toNat % 2 ^ width t) := by
  obtain ⟨hlo, hhi⟩ := intVal_mem_range t x
  obtain ⟨hlo', hhi'⟩ := ediv_mem_range (show (0 : Int) < 2 ^ (y.toNat % 2 ^ width t) by positivity) hlo hhi
  simp only [int2, eltOfInt, Elt.quiet, shiftRight_eq_ediv]
  exact intVal_intBits hlo' hhi'

theorem int2_srr : nearestShift (intVal t x) (intVal t (int2 .srr t x y).bits) (y.toNat % 2 ^ width t) := by
  simp only [int2]
  split
  · next hn =>
    rw [Elt.quiet, intVal_zero]
    exact nearestShift_zero x hn
  · obtain ⟨hlo, hhi⟩ := roundShift_mem_range t x (y.toNat % 2 ^ width t)
    rw [eltOfInt, Elt.quiet, intVal_intBits hlo hhi]
    exact roundShift_nearest _ _

end

/-- Settles O26: each result by the lemma of its operation; wrapping is congruence, and an integer of the type's range is kept. -/
theorem integerElementResults : Obligations.IntegerElementResults := by
  intro t rm x y ht
  simp only [elt2_of_isInt ht]
  refine ⟨fun o => ⟨int2_bits_lt o t x y, int2_flags o t x y⟩, intVal_intBits_emod t _, intVal_intBits_emod t _, intVal_intBits_emod t _,
    int2_shl_wraps t x y, int2_mulh t x y, int2_min t x y, int2_max t x y, fun k hk => ?_, int2_shr t x y, int2_srr t x y,
    (eltSat_spec t _).1, (eltSat_spec t _).2, (eltSat_spec t _).1, (eltSat_spec t _).2⟩
  exact ⟨(getLsbD_trunc hk _).trans (BitVec.getLsbD_and ..), (getLsbD_trunc hk _).trans (BitVec.getLsbD_or ..),
    (getLsbD_trunc hk _).trans (BitVec.getLsbD_xor ..)⟩

end Sys2Proof.Machine
end

section
/-! PROOFS. Floats: exact sums and products, the bits of a number of a format, and one rounding (R75 to R78). -/
namespace Sys2Proof.Machine

open Sys2Proof

/-! ### Exact values (R77) -/

theorem ratOf_fin (neg : Bool) (m : Nat) (e : Int) : ratOf (.fin neg m e) = (signedOf neg m : Rat) * 2 ^ e := by
  cases neg <;> simp [ratOf, signedOf]

/-- A multiple of 2^e is a multiple of 2^lo, for lo at most e. -/
theorem two_zpow_scaled {lo e : Int} (h : lo ≤ e) : (2 : Rat) ^ (e - lo).toNat * 2 ^ lo = 2 ^ e := by
  rw [← zpow_natCast, ← zpow_add₀ two_ne_zero, Int.toNat_of_nonneg (sub_nonneg.2 h), sub_add_cancel]

@[simp] theorem isNumber_fOfInt (i e : Int) (z : Bool) : isNumber (fOfInt i e z) = true := by
  unfold fOfInt
  split <;> rfl

@[simp] theorem ratOf_fOfInt (i e : Int) (z : Bool) : ratOf (fOfInt i e z) = i * 2 ^ e := by
  unfold fOfInt
  split
  · next h => simp [h, ratOf]
  · rw [ratOf_fin]
    congr 2
    simp only [signedOf, decide_eq_true_eq]
    split <;> omega

/-- The exact sum of two numbers is a number, and raises nothing. -/
theorem fAddExact_numbers (rm : Rounding) {x y : FVal} (hx : isNumber x = true) (hy : isNumber y = true) :
    isNumber (fAddExact rm x y).1 = true ∧ ratOf (fAddExact rm x y).1 = ratOf x + ratOf y ∧ (fAddExact rm x y).2 = 0 := by
  cases x with
  | nan _ | inf _ => cases hx
  | zero a =>
    cases y with
    | nan _ | inf _ => cases hy
    | zero b => exact ⟨rfl, (add_zero 0).symm, rfl⟩
    | fin b n g => exact ⟨rfl, (zero_add _).symm, rfl⟩
  | fin a m e =>
    cases y with
    | nan _ | inf _ => cases hy
    | zero b => exact ⟨rfl, (add_zero _).symm, rfl⟩
    | fin b n g =>
      refine ⟨isNumber_fOfInt _ _ _, (ratOf_fOfInt _ _ _).trans ?_, rfl⟩
      rw [ratOf_fin, ratOf_fin, ← two_zpow_scaled (min_le_left e g), ← two_zpow_scaled (min_le_right e g)]
      push_cast
      ring

/-- The exact product of two numbers is a number, and raises nothing. -/
theorem fMulExact_numbers {x y : FVal} (hx : isNumber x = true) (hy : isNumber y = true) :
    isNumber (fMulExact x y).1 = true ∧ ratOf (fMulExact x y).1 = ratOf x * ratOf y ∧ (fMulExact x y).2 = 0 := by
  cases x with
  | nan _ | inf _ => cases hx
  | zero a =>
    cases y with
    | nan _ | inf _ => cases hy
    | zero b | fin b n g => exact ⟨rfl, (zero_mul _).symm, rfl⟩
  | fin a m e =>
    cases y with
    | nan _ | inf _ => cases hy
    | zero b => exact ⟨rfl, (mul_zero _).symm, rfl⟩
    | fin b n g =>
      refine ⟨rfl, ?_, rfl⟩
      change ratOf (.fin (a != b) (m * n) (e + g)) = _
      rw [ratOf_fin, ratOf_fin, ratOf_fin, zpow_add₀ two_ne_zero]
      cases a <;> cases b <;> simp [signedOf] <;> ring

/-! ### The formats (R75) -/

theorem two_bias (f : FloatFmt) : 2 * FloatFmt.bias f + 2 = 2 ^ FloatFmt.expo f := by cases f <;> rfl

/-- The exponent of the unit of a format's subnormal numbers. -/
abbrev leastExp (f : FloatFmt) : Int := 1 - (FloatFmt.bias f : Int) - (FloatFmt.frac f : Int)

/-- The bits of a sign, an exponent field and a fraction. -/
theorem fDecode_fields (f : FloatFmt) (neg : Bool) {ex frac : Nat} (hex : ex < 2 ^ FloatFmt.expo f) (hfrac : frac < 2 ^ FloatFmt.frac f) :
    let b := fSign f neg + (ex * 2 ^ FloatFmt.frac f + frac)
    b % 2 ^ FloatFmt.frac f = frac ∧ b / 2 ^ FloatFmt.frac f % 2 ^ FloatFmt.expo f = ex ∧
      (b / 2 ^ (FloatFmt.frac f + FloatFmt.expo f) % 2 == 1) = neg := by
  intro b
  have hpos := Nat.two_pow_pos (FloatFmt.frac f)
  have hb : b = frac + 2 ^ FloatFmt.frac f * (neg.toNat * 2 ^ FloatFmt.expo f + ex) := by
    simp only [b, fSign]
    cases neg
    · simp; ring
    · simp [pow_add]; ring
  have hdiv : b / 2 ^ FloatFmt.frac f = neg.toNat * 2 ^ FloatFmt.expo f + ex := by
    rw [hb, Nat.add_mul_div_left _ _ hpos, Nat.div_eq_of_lt hfrac, zero_add]
  refine ⟨?_, ?_, ?_⟩
  · rw [hb, Nat.add_mul_mod_self_left, Nat.mod_eq_of_lt hfrac]
  · rw [hdiv, Nat.mul_add_mod_self_right, Nat.mod_eq_of_lt hex]
  · rw [pow_add, ← Nat.div_div_eq_div_mul, hdiv, Nat.add_comm, Nat.add_mul_div_right _ _ (Nat.two_pow_pos _), Nat.div_eq_of_lt hex]
    cases neg <;> rfl

/-- The bits of ±n·2^q, for n at most 2^(frac + 1). -/
def packFloat (f : FloatFmt) (neg : Bool) (n : Nat) (q : Int) : Nat :=
  fSign f neg + if n < 2 ^ FloatFmt.frac f then n
    else (q + FloatFmt.frac f + FloatFmt.bias f).toNat * 2 ^ FloatFmt.frac f + (n - 2 ^ FloatFmt.frac f)

/-- n·2^q is a multiple of the format's units that is written with all its fraction bits, or with the least exponent. -/
structure OnGrid (f : FloatFmt) (n : Nat) (q : Int) : Prop where
  small : n ≤ 2 ^ (FloatFmt.frac f + 1)
  unit_le : leastExp f ≤ q
  full : 2 ^ FloatFmt.frac f ≤ n ∨ q = leastExp f

/-- n·2^q is too large for the format. -/
def TooLarge (f : FloatFmt) (n : Nat) (q : Int) : Prop :=
  2 ^ FloatFmt.frac f ≤ n ∧ (FloatFmt.bias f : Int) < q + FloatFmt.frac f + if n = 2 ^ (FloatFmt.frac f + 1) then 1 else 0

theorem fDecode_of_fields (f : FloatFmt) (neg : Bool) {ex frac : Nat} (hex : ex < 2 ^ FloatFmt.expo f) (hfrac : frac < 2 ^ FloatFmt.frac f) :
    fDecode f (fSign f neg + (ex * 2 ^ FloatFmt.frac f + frac)) =
      if ex = 2 ^ FloatFmt.expo f - 1 then if frac = 0 then .inf neg else .nan (decide (frac < 2 ^ (FloatFmt.frac f - 1)))
      else if ex = 0 then if frac = 0 then .zero neg else .fin neg frac (leastExp f)
      else .fin neg (2 ^ FloatFmt.frac f + frac) ((ex : Int) - FloatFmt.bias f - FloatFmt.frac f) := by
  obtain ⟨hf, he, hn⟩ := fDecode_fields f neg hex hfrac
  simp only [fDecode, hf, he, hn]

/-- An infinity is no number. -/
theorem isNumber_fInf (f : FloatFmt) (neg : Bool) : isNumber (fDecode f (fInf f neg)) = false := by
  have hpos := Nat.two_pow_pos (FloatFmt.expo f)
  have h := fDecode_of_fields f neg (ex := 2 ^ FloatFmt.expo f - 1) (by omega) (Nat.two_pow_pos (FloatFmt.frac f))
  rw [if_pos rfl, if_pos rfl] at h
  rw [fInf, ← Nat.add_zero (_ * _), h]
  rfl

section
variable {f : FloatFmt} {n : Nat} {q : Int} (hg : OnGrid f n q) (hl : ¬ TooLarge f n q)
include hg hl

/-- The fields of a normal number; 2^(frac + 1) carries into the exponent. -/
theorem pack_normal (neg : Bool) (hn : 2 ^ FloatFmt.frac f ≤ n) : ∃ ex frac : Nat, frac < 2 ^ FloatFmt.frac f ∧ 0 < ex ∧
    ex < 2 ^ FloatFmt.expo f - 1 ∧ packFloat f neg n q = fSign f neg + (ex * 2 ^ FloatFmt.frac f + frac) ∧
    ((2 ^ FloatFmt.frac f + frac : Nat) : Rat) * 2 ^ ((ex : Int) - FloatFmt.bias f - FloatFmt.frac f) = n * 2 ^ q := by
  obtain ⟨hsmall, hunit, -⟩ := hg
  have hbias := two_bias f
  have hpos := Nat.two_pow_pos (FloatFmt.frac f)
  have hpow : 2 ^ (FloatFmt.frac f + 1) = 2 * 2 ^ FloatFmt.frac f := pow_succ' ..
  simp only [TooLarge, hn, true_and, not_lt] at hl
  simp only [leastExp] at hunit
  obtain ⟨ex, hex⟩ : ∃ ex : Nat, q = ex - FloatFmt.bias f - FloatFmt.frac f := ⟨(q + FloatFmt.frac f + FloatFmt.bias f).toNat, by omega⟩
  have hpack : packFloat f neg n q = fSign f neg + (ex * 2 ^ FloatFmt.frac f + (n - 2 ^ FloatFmt.frac f)) := by
    have : q + FloatFmt.frac f + FloatFmt.bias f = ex := by omega
    rw [packFloat, if_neg (not_lt.2 hn), this, Int.toNat_natCast]
  by_cases htop : n = 2 ^ (FloatFmt.frac f + 1)
  · rw [if_pos htop] at hl
    refine ⟨ex + 1, 0, hpos, by omega, by omega, ?_, ?_⟩
    · have : n - 2 ^ FloatFmt.frac f = 2 ^ FloatFmt.frac f := by omega
      rw [hpack, this, add_zero, Nat.succ_mul]
    · have : ((ex + 1 : Nat) : Int) - FloatFmt.bias f - FloatFmt.frac f = q + 1 := by omega
      rw [this, htop, zpow_add_one₀ two_ne_zero, add_zero]
      push_cast
      ring
  · rw [if_neg htop] at hl
    refine ⟨ex, n - 2 ^ FloatFmt.frac f, by omega, by omega, by omega, hpack, ?_⟩
    rw [Nat.add_sub_cancel' hn, hex]

/-- The bits of ±n·2^q are those of a number with this value. -/
theorem fDecode_pack (neg : Bool) : isNumber (fDecode f (packFloat f neg n q)) = true ∧
    ratOf (fDecode f (packFloat f neg n q)) = signedOf neg n * 2 ^ q := by
  by_cases hn : 2 ^ FloatFmt.frac f ≤ n
  · obtain ⟨ex, frac, hfrac, hpos, hex, hpack, hval⟩ := pack_normal hg hl neg hn
    rw [hpack, fDecode_of_fields f neg (by omega) hfrac, if_neg hex.ne, if_neg hpos.ne', ratOf_fin]
    refine ⟨rfl, ?_⟩
    cases neg
    · exact hval
    · simp only [signedOf, if_true, Int.cast_neg, Int.cast_natCast, neg_mul, hval]
  · have hq := hg.full.resolve_left hn
    have hbias := two_bias f
    have hpack : packFloat f neg n q = fSign f neg + (0 * 2 ^ FloatFmt.frac f + n) := by
      rw [packFloat, if_pos (not_le.1 hn), zero_mul, zero_add]
    rw [hpack, fDecode_of_fields f neg (Nat.two_pow_pos _) (not_le.1 hn), if_neg (by omega), if_pos rfl, hq]
    split
    · next h0 =>
      subst h0
      cases neg <;> simp [isNumber, ratOf, signedOf]
    · exact ⟨rfl, ratOf_fin _ _ _⟩

end

/-- The parts of a format's bits. -/
theorem fields_of_bits (f : FloatFmt) {b : Nat} (hb : b < 2 ^ FloatFmt.width f) : ∃ (neg : Bool) (ex frac : Nat),
    ex < 2 ^ FloatFmt.expo f ∧ frac < 2 ^ FloatFmt.frac f ∧ b = fSign f neg + (ex * 2 ^ FloatFmt.frac f + frac) := by
  have hpos := Nat.two_pow_pos (FloatFmt.frac f)
  have hlow := Nat.div_add_mod' b (2 ^ FloatFmt.frac f)
  have hhigh := Nat.div_add_mod' (b / 2 ^ FloatFmt.frac f) (2 ^ FloatFmt.expo f)
  have htwo : b / 2 ^ FloatFmt.frac f / 2 ^ FloatFmt.expo f < 2 := by
    rw [Nat.div_div_eq_div_mul, ← pow_add, Nat.div_lt_iff_lt_mul (Nat.two_pow_pos _), ← pow_succ']
    exact hb
  refine ⟨decide (b / 2 ^ FloatFmt.frac f / 2 ^ FloatFmt.expo f = 1), _, _, Nat.mod_lt (b / 2 ^ FloatFmt.frac f) (Nat.two_pow_pos _),
    Nat.mod_lt b hpos, ?_⟩
  generalize b / 2 ^ FloatFmt.frac f % 2 ^ FloatFmt.expo f = ex at *
  generalize b / 2 ^ FloatFmt.frac f / 2 ^ FloatFmt.expo f = top at *
  have hsign : fSign f (decide (top = 1)) = top * 2 ^ FloatFmt.expo f * 2 ^ FloatFmt.frac f := by
    interval_cases top
    · simp [fSign]
    · simp [fSign, pow_add, mul_comm]
  rw [hsign]
  linarith [congrArg (· * 2 ^ FloatFmt.frac f) hhigh]

/-- A number of a format is a multiple of the format's units; its bits are those of `pack`. -/
theorem number_onGrid (f : FloatFmt) {b : Nat} (hb : b < 2 ^ FloatFmt.width f) (hnum : isNumber (fDecode f b) = true) :
    ∃ (neg : Bool) (n : Nat) (q : Int), n < 2 ^ (FloatFmt.frac f + 1) ∧ OnGrid f n q ∧ ¬ TooLarge f n q ∧ b = packFloat f neg n q ∧
      (0 < n ∧ fDecode f b = .fin neg n q ∨ n = 0 ∧ fDecode f b = .zero neg) := by
  obtain ⟨neg, ex, frac, hex, hfrac, rfl⟩ := fields_of_bits f hb
  have hbias := two_bias f
  have hpow : 2 ^ (FloatFmt.frac f + 1) = 2 * 2 ^ FloatFmt.frac f := pow_succ' ..
  rw [fDecode_of_fields f neg hex hfrac] at hnum ⊢
  by_cases hmax : ex = 2 ^ FloatFmt.expo f - 1
  · rw [if_pos hmax] at hnum
    split at hnum <;> cases hnum
  rw [if_neg hmax] at hnum ⊢
  by_cases h0 : ex = 0
  · subst h0
    refine ⟨neg, frac, leastExp f, by omega, ⟨by omega, le_rfl, .inr rfl⟩, fun h => by have := h.1; omega, ?_, ?_⟩
    · rw [packFloat, if_pos hfrac, zero_mul, zero_add]
    · rw [if_pos rfl]
      split
      · next h => exact .inr ⟨h, rfl⟩
      · next h => exact .inl ⟨Nat.pos_of_ne_zero h, rfl⟩
  · rw [if_neg h0]
    have hfield : (ex : Int) - FloatFmt.bias f - FloatFmt.frac f + FloatFmt.frac f + FloatFmt.bias f = ex := by omega
    refine ⟨neg, 2 ^ FloatFmt.frac f + frac, _, by omega, ⟨by omega, by simp only [leastExp]; omega, .inl (by omega)⟩,
      ?_, ?_, .inl ⟨by omega, rfl⟩⟩
    · rw [TooLarge, if_neg (by omega)]
      omega
    · rw [packFloat, if_neg (by omega), hfield, Int.toNat_natCast, Nat.add_sub_cancel_left]

/-! ### One rounding (R76) -/

/-- The unit in which m·2^e is rounded. -/
abbrev roundExp (f : FloatFmt) (m : Nat) (e : Int) : Int := max ((Nat.log2 m : Int) + e - FloatFmt.frac f) (leastExp f)

/-- The multiple chosen, of n and n + 1. -/
def roundTo (rm : Rounding) (neg : Bool) (n c : Nat) : Nat := if roundsUp rm neg n c then n + 1 else n

/-- What `splitAt` says of a number: the whole multiples of 2^q, and where the rest lies. -/
theorem splitAt_spec (m : Nat) (e q : Int) : ∃ δ : Rat, (m : Rat) * 2 ^ e = ((splitAt m e q false).1 + δ) * 2 ^ q ∧ 0 ≤ δ ∧ δ < 1 ∧
    ((splitAt m e q false).2 = 0 ↔ δ = 0) ∧ ((splitAt m e q false).2 = 2 ↔ δ = 1 / 2) ∧ ((splitAt m e q false).2 = 3 ↔ 1 / 2 < δ) := by
  unfold splitAt
  split
  · next hqe =>
    refine ⟨0, ?_, le_rfl, one_pos, by simp, by norm_num, by norm_num⟩
    rw [add_zero, ← two_zpow_scaled hqe]
    push_cast
    ring
  · next hqe =>
    obtain ⟨k, hk⟩ : ∃ k : Nat, (q - e).toNat = k + 1 := ⟨(q - e).toNat - 1, by omega⟩
    have hhalf : 2 ^ (k + 1) = 2 * 2 ^ k := pow_succ' ..
    have hr := Nat.mod_lt m (Nat.two_pow_pos (k + 1))
    have hm : (m : Rat) = (m / 2 ^ (k + 1) : Nat) * 2 ^ (k + 1) + (m % 2 ^ (k + 1) : Nat) := by exact_mod_cast (Nat.div_add_mod' m _).symm
    have hpos : (0 : Rat) < 2 ^ (k + 1) := by positivity
    have hlt {a b : Nat} : (a : Rat) / 2 ^ (k + 1) < b / 2 ^ (k + 1) ↔ a < b := by rw [div_lt_div_iff_of_pos_right hpos, Nat.cast_lt]
    have hone : ((2 ^ (k + 1) : Nat) : Rat) / 2 ^ (k + 1) = 1 := by push_cast; exact div_self hpos.ne'
    have hmid : ((2 ^ k : Nat) : Rat) / 2 ^ (k + 1) = 1 / 2 := by
      rw [pow_succ]
      push_cast
      field_simp
    simp only [hk, Nat.add_sub_cancel]
    generalize m % 2 ^ (k + 1) = r at *
    refine ⟨r / 2 ^ (k + 1), ?_, by positivity, hone ▸ hlt.2 hr, ?_, ?_, ?_⟩
    · rw [← two_zpow_scaled (not_le.1 hqe).le, hk, ← mul_assoc, add_mul, div_mul_cancel₀ _ hpos.ne', ← hm]
    · rw [div_eq_zero_iff, or_iff_left hpos.ne', Nat.cast_eq_zero]
      split
      · simp_all
      · split
        · simp; omega
        · split
          · simp_all
          · simp_all
    · rw [← hmid, div_left_inj' hpos.ne', Nat.cast_inj]
      split <;> [skip; split <;> [skip; split]] <;> simp_all
    · rw [← hmid, hlt]
      split <;> [skip; split <;> [skip; split]] <;> simp_all

/-- To nearest, the chosen multiple lies within half a unit, and is the value itself where nothing is left. -/
theorem roundTo_nearest {n c : Nat} {δ : Rat} (neg : Bool) (h0 : 0 ≤ δ) (h1 : δ < 1) (hc0 : c = 0 ↔ δ = 0) (hc2 : c = 2 ↔ δ = 1 / 2)
    (hc3 : c = 3 ↔ 1 / 2 < δ) : |(roundTo .nearestEven neg n c : Rat) - (n + δ)| ≤ 1 / 2 ∧
      ((roundTo .nearestEven neg n c : Rat) = n + δ ↔ c = 0) := by
  have hup : roundsUp .nearestEven neg n c = true → 1 / 2 ≤ δ := by
    simp only [roundsUp, Bool.or_eq_true, Bool.and_eq_true, beq_iff_eq]
    rintro (h | ⟨h, -⟩)
    · exact (hc3.1 h).le
    · exact (hc2.1 h).ge
  have hdown : roundsUp .nearestEven neg n c = false → δ ≤ 1 / 2 := by
    intro h
    by_contra hlt
    rw [hc3.2 (not_le.1 hlt)] at h
    cases h
  unfold roundTo
  split
  · next h =>
    have := hup h
    push_cast
    refine ⟨abs_le.2 ⟨by linarith, by linarith⟩, ⟨fun hn => by linarith, fun hc => by linarith [hc0.1 hc]⟩⟩
  · next h =>
    have := hdown (Bool.eq_false_iff.2 h)
    refine ⟨abs_le.2 ⟨by linarith, by linarith⟩, ⟨fun hn => hc0.2 (by linarith), fun hc => by linarith [hc0.1 hc]⟩⟩

/-- An integer within half a unit of x is as near as any other. -/
theorem nearest_of_half {x : Rat} {a : Int} (h : |(a : Rat) - x| ≤ 1 / 2) (k : Int) : |(a : Rat) - x| ≤ |(k : Rat) - x| := by
  by_cases hk : a = k
  · rw [hk]
  · have hone : (1 : Rat) ≤ |(a : Rat) - k| := by exact_mod_cast Int.one_le_abs (sub_ne_zero.2 hk)
    have htri : |(a : Rat) - k| ≤ |(a : Rat) - x| + |(k : Rat) - x| := by
      rw [abs_sub_comm (k : Rat) x]
      exact abs_sub_le ..
    linarith

theorem two_zpow_log2_le {m : Nat} (hm : 0 < m) (e : Int) :
    (2 : Rat) ^ ((Nat.log2 m : Int) + e) ≤ m * 2 ^ e ∧ (m : Rat) * 2 ^ e < 2 ^ ((Nat.log2 m : Int) + e + 1) := by
  have hpos : (0 : Rat) < 2 ^ e := by positivity
  have hlo : (2 : Rat) ^ Nat.log2 m ≤ m := by exact_mod_cast Nat.log2_self_le hm.ne'
  have hhi : (m : Rat) < 2 ^ (Nat.log2 m + 1) := by exact_mod_cast Nat.lt_log2_self
  rw [add_right_comm, zpow_add₀ two_ne_zero, zpow_add₀ two_ne_zero _ e, ← Nat.cast_succ, zpow_natCast, zpow_natCast]
  exact ⟨mul_le_mul_of_nonneg_right hlo hpos.le, mul_lt_mul_of_pos_right hhi hpos⟩

/-- In its rounding unit a value has at most one bit more than the fraction's. -/
theorem splitAt_lt (f : FloatFmt) {m : Nat} (hm : 0 < m) (e : Int) :
    (splitAt m e (roundExp f m e) false).1 < 2 ^ (FloatFmt.frac f + 1) ∧
      (leastExp f < roundExp f m e → 2 ^ FloatFmt.frac f ≤ (splitAt m e (roundExp f m e) false).1) := by
  obtain ⟨δ, hval, h0, h1, -⟩ := splitAt_spec m e (roundExp f m e)
  obtain ⟨hlo, hhi⟩ := two_zpow_log2_le hm e
  have hmax : roundExp f m e = max ((Nat.log2 m : Int) + e - FloatFmt.frac f) (leastExp f) := rfl
  generalize (splitAt m e (roundExp f m e) false).1 = n at *
  have hpos : (0 : Rat) < 2 ^ roundExp f m e := by positivity
  constructor
  · have hle : (2 : Rat) ^ ((Nat.log2 m : Int) + e + 1) ≤ 2 ^ (FloatFmt.frac f + 1) * 2 ^ roundExp f m e := by
      rw [← zpow_natCast, ← zpow_add₀ two_ne_zero]
      exact zpow_le_zpow_right₀ one_le_two (by push_cast; omega)
    have : (n : Rat) * 2 ^ roundExp f m e < 2 ^ (FloatFmt.frac f + 1) * 2 ^ roundExp f m e := by nlinarith
    exact_mod_cast lt_of_mul_lt_mul_right this hpos.le
  · intro hq
    have hexp : roundExp f m e = (Nat.log2 m : Int) + e - FloatFmt.frac f := by omega
    have hge : (2 : Rat) ^ FloatFmt.frac f * 2 ^ roundExp f m e ≤ (n + δ) * 2 ^ roundExp f m e := by
      rw [← hval, ← zpow_natCast, ← zpow_add₀ two_ne_zero, hexp]
      exact (congrArg _ (by omega)).trans_le hlo
    have hge' : (2 : Rat) ^ FloatFmt.frac f ≤ n + δ := le_of_mul_le_mul_right hge hpos
    have : (2 : Rat) ^ FloatFmt.frac f < n + 1 := by linarith
    exact Nat.lt_succ_iff.1 (by exact_mod_cast this)

theorem roundTo_onGrid (f : FloatFmt) (rm : Rounding) (neg : Bool) {m : Nat} (hm : 0 < m) (e : Int) (c : Nat) :
    OnGrid f (roundTo rm neg (splitAt m e (roundExp f m e) false).1 c) (roundExp f m e) := by
  obtain ⟨hlt, hfull⟩ := splitAt_lt f hm e
  unfold roundTo
  refine ⟨?_, le_max_right _ _, ?_⟩
  · split <;> omega
  · rcases (le_max_right _ _ : leastExp f ≤ roundExp f m e).lt_or_eq with h | h
    · have := hfull h
      left
      split <;> omega
    · exact .inr h.symm

/-- The flags of a rounding that gives a number: NX where something was left, and UF beside it (R78). -/
def roundFlags (tiny : Bool) (c : Nat) : Flags := (if c = 0 then 0 else flagNX) ||| if tiny && c != 0 then flagUF else 0

theorem roundFlags_exact (tiny : Bool) : roundFlags tiny 0 = 0 := by cases tiny <;> rfl

theorem roundFlags_nx (tiny : Bool) (c : Nat) : roundFlags tiny c &&& flagNX = 0 ↔ c = 0 := by
  by_cases hc : c = 0
  · simp [hc, roundFlags_exact]
  · simp only [roundFlags, hc, if_false, iff_false]
    split <;> decide

/-- The rounding of ±m·2^e: an infinity, or the bits of the chosen multiple. -/
theorem fRound_eq (f : FloatFmt) (rm : Rounding) (neg : Bool) (m : Nat) (e : Int) :
    let q := roundExp f m e
    let c := (splitAt m e q false).2
    let n := roundTo rm neg (splitAt m e q false).1 c
    (TooLarge f n q → (fRound f rm neg m e false).1 = fInf f neg) ∧
    (¬ TooLarge f n q → ∃ tiny, fRound f rm neg m e false = (packFloat f neg n q, roundFlags tiny c)) := by
  intro q c n
  have hleast : leastExp f ≤ q := le_max_right _ _
  have hpos := Nat.two_pow_pos (FloatFmt.frac f)
  have hpow : 2 ^ (FloatFmt.frac f + 1) = 2 * 2 ^ FloatFmt.frac f := pow_succ' ..
  obtain ⟨tiny, hround⟩ : ∃ tiny, fRound f rm neg m e false =
      if n < 2 ^ FloatFmt.frac f then (fSign f neg + n, roundFlags tiny c)
      else
        let p : Nat × Int := if n = 2 ^ (FloatFmt.frac f + 1) then (2 ^ FloatFmt.frac f, q + FloatFmt.frac f + 1) else (n, q + FloatFmt.frac f)
        if (FloatFmt.bias f : Int) < p.2 then (fInf f neg, flagOF ||| flagNX)
        else (fSign f neg + (p.2 + FloatFmt.bias f).toNat * 2 ^ FloatFmt.frac f + (p.1 - 2 ^ FloatFmt.frac f), roundFlags tiny c) := ⟨_, rfl⟩
  rw [hround]
  simp only [TooLarge, packFloat, not_and, not_lt]
  clear_value n
  by_cases hn : n < 2 ^ FloatFmt.frac f
  · rw [if_pos hn, if_pos hn]
    exact ⟨fun h => absurd h.1 (not_le.2 hn), fun _ => ⟨tiny, rfl⟩⟩
  rw [if_neg hn, if_neg hn]
  by_cases htop : n = 2 ^ (FloatFmt.frac f + 1)
  · simp only [htop, if_true]
    refine ⟨fun h => by rw [if_pos (by omega)], fun h => ⟨tiny, ?_⟩⟩
    have hexp : (q + FloatFmt.frac f + 1 + FloatFmt.bias f).toNat = (q + FloatFmt.frac f + FloatFmt.bias f).toNat + 1 := by
      simp only [leastExp] at hleast
      omega
    have hrest : 2 ^ (FloatFmt.frac f + 1) - 2 ^ FloatFmt.frac f = 2 ^ FloatFmt.frac f := by omega
    rw [if_neg (by have := h (by omega); omega), hexp, hrest, Nat.sub_self, Nat.succ_mul]
    rfl
  · simp only [htop, if_false]
    refine ⟨fun h => by rw [if_pos (by omega)], fun h => ⟨tiny, ?_⟩⟩
    rw [if_neg (by have := h (by omega); omega), Nat.add_assoc]

/-- A number of the format is rounded to itself, in every mode. -/
theorem fRound_number (f : FloatFmt) (rm : Rounding) (neg : Bool) {m : Nat} {e : Int} (hm : 0 < m) (hlt : m < 2 ^ (FloatFmt.frac f + 1))
    (hg : OnGrid f m e) (hl : ¬ TooLarge f m e) : fRound f rm neg m e false = (packFloat f neg m e, 0) := by
  have hq : roundExp f m e = e := by
    have hlog : Nat.log2 m < FloatFmt.frac f + 1 := (Nat.log2_lt hm.ne').2 hlt
    have hunit := hg.unit_le
    have hmax : roundExp f m e = max ((Nat.log2 m : Int) + e - FloatFmt.frac f) (leastExp f) := rfl
    rcases hg.full with h | h
    · have := (Nat.le_log2 hm.ne').2 h
      omega
    · omega
  have hsplit : splitAt m e e false = (m, 0) := by simp [splitAt]
  have hround : roundTo rm neg m 0 = m := by cases rm <;> simp [roundTo, roundsUp]
  obtain ⟨-, hfin⟩ := fRound_eq f rm neg m e
  simp only [hq, hsplit, hround] at hfin
  obtain ⟨tiny, h⟩ := hfin hl
  rw [h, roundFlags_exact]

/-- The sign as a factor. -/
def signFactor (neg : Bool) : Rat := if neg then -1 else 1

theorem signedOf_eq_mul (neg : Bool) (m : Nat) : (signedOf neg m : Rat) = signFactor neg * m := by cases neg <;> simp [signedOf, signFactor]

theorem signFactor_mul_self (neg : Bool) : signFactor neg * signFactor neg = 1 := by cases neg <;> norm_num [signFactor]

theorem abs_signFactor (neg : Bool) : |signFactor neg| = 1 := by cases neg <;> norm_num [signFactor]

/-- A multiple of a unit differs from ±x·2^q as it does from x in the unit 2^q. -/
theorem abs_sub_units (neg : Bool) (y x : Rat) (q : Int) :
    |signFactor neg * y * 2 ^ q - signFactor neg * x * 2 ^ q| = |y - x| * 2 ^ q := by
  rw [← sub_mul, ← mul_sub, abs_mul, abs_mul, abs_signFactor, one_mul, abs_of_pos (a := (2 : Rat) ^ q) (by positivity)]

/-- Within half a unit of x nothing is nearer, neither an integer nor what lies beyond one. -/
theorem nearest_of_beyond {x z : Rat} {a : Int} (h : |(a : Rat) - x| ≤ 1 / 2)
    (hz : (∃ k : Int, z = k) ∨ ∃ k : Int, z ≤ k ∧ (k : Rat) ≤ x) :
    |(a : Rat) - x| ≤ |z - x| := by
  rcases hz with ⟨k, rfl⟩ | ⟨k, hzk, hkx⟩
  · exact nearest_of_half h k
  · refine (nearest_of_half h k).trans ?_
    rw [abs_sub_comm, abs_sub_comm z, abs_of_nonneg (sub_nonneg.2 hkx), abs_of_nonneg (sub_nonneg.2 (hzk.trans hkx))]
    linarith

/-- In units of 2^q, ±k·2^g is an integer, or does not reach 2^frac. -/
theorem number_in_units (f : FloatFmt) (neg neg' : Bool) {k : Nat} {g q : Int} (hk : k < 2 ^ (FloatFmt.frac f + 1)) :
    (∃ j : Int, signFactor neg * signFactor neg' * k * 2 ^ (g - q) = j) ∨
      g < q ∧ signFactor neg * signFactor neg' * k * 2 ^ (g - q) ≤ 2 ^ FloatFmt.frac f := by
  have hsign : signFactor neg * signFactor neg' = signFactor (neg != neg') := by cases neg <;> cases neg' <;> norm_num [signFactor]
  rw [hsign, ← signedOf_eq_mul]
  rcases le_or_gt q g with h | h
  · obtain ⟨n, hn⟩ := Int.eq_ofNat_of_zero_le (sub_nonneg.2 h)
    exact .inl ⟨signedOf (neg != neg') k * 2 ^ n, by rw [hn, zpow_natCast]; push_cast; rfl⟩
  · refine .inr ⟨h, ?_⟩
    have hpow : (2 : Rat) ^ (g - q) ≤ 2⁻¹ := by
      rw [← zpow_neg_one]
      exact zpow_le_zpow_right₀ one_le_two (by omega)
    have hpos : (0 : Rat) < 2 ^ (g - q) := by positivity
    have hle : (signedOf (neg != neg') k : Rat) ≤ k := by
      rw [signedOf_eq_mul]
      exact mul_le_of_le_one_left (Nat.cast_nonneg k) ((le_abs_self _).trans (abs_signFactor _).le)
    have hlt : (k : Rat) < 2 ^ (FloatFmt.frac f + 1) := by exact_mod_cast hk
    calc (signedOf (neg != neg') k : Rat) * 2 ^ (g - q) ≤ k * 2 ^ (g - q) := mul_le_mul_of_nonneg_right hle hpos.le
      _ ≤ k * 2⁻¹ := mul_le_mul_of_nonneg_left hpow (Nat.cast_nonneg k)
      _ ≤ 2 ^ FloatFmt.frac f := by rw [pow_succ] at hlt; linarith

/-- Rounding to nearest: no number of the format is nearer to ±m·2^e than the multiple chosen, which is ±m·2^e itself where nothing is left. -/
theorem roundTo_nearest_number (f : FloatFmt) (neg : Bool) {m : Nat} (hm : 0 < m) (e : Int) :
    let q := roundExp f m e
    let n := roundTo .nearestEven neg (splitAt m e q false).1 (splitAt m e q false).2
    (∀ (neg' : Bool) (k : Nat) (g : Int), k < 2 ^ (FloatFmt.frac f + 1) → OnGrid f k g →
      |(signedOf neg n : Rat) * 2 ^ q - signedOf neg m * 2 ^ e| ≤ |(signedOf neg' k : Rat) * 2 ^ g - signedOf neg m * 2 ^ e|) ∧
    ((signedOf neg n : Rat) * 2 ^ q = signedOf neg m * 2 ^ e ↔ (splitAt m e q false).2 = 0) := by
  intro q n
  obtain ⟨δ, hval, h0, h1, hc0, hc2, hc3⟩ := splitAt_spec m e q
  obtain ⟨hhalf, hexact⟩ := roundTo_nearest neg h0 h1 hc0 hc2 hc3
  have hfull := (splitAt_lt f hm e).2
  have hpos : (0 : Rat) < 2 ^ q := by positivity
  simp only [signedOf_eq_mul, mul_assoc (signFactor neg) (m : Rat), hval, ← mul_assoc (signFactor neg) _ ((2 : Rat) ^ q)]
  constructor
  · intro neg' k g hk hg
    have hy : signFactor neg' * k * 2 ^ g = signFactor neg * (signFactor neg * signFactor neg' * k * 2 ^ (g - q)) * 2 ^ q := by
      rw [← sub_add_cancel g q, zpow_add₀ two_ne_zero, sub_add_cancel]
      linear_combination (-signFactor neg' * k * 2 ^ (g - q) * 2 ^ q) * signFactor_mul_self neg
    rw [hy, abs_sub_units, abs_sub_units]
    refine mul_le_mul_of_nonneg_right ?_ hpos.le
    rw [← Int.cast_natCast n]
    refine nearest_of_beyond (by exact_mod_cast hhalf) ((number_in_units f neg neg' hk).imp_right fun ⟨hgq, hle⟩ => ?_)
    refine ⟨2 ^ FloatFmt.frac f, by exact_mod_cast hle, ?_⟩
    have hn : (2 : Rat) ^ FloatFmt.frac f ≤ (splitAt m e q false).1 := by exact_mod_cast hfull (hg.unit_le.trans_lt hgq)
    push_cast
    linarith
  · rw [mul_left_inj' hpos.ne', mul_right_inj' (left_ne_zero_of_mul_eq_one (signFactor_mul_self neg))]
    exact hexact

/-- Settles O6: sums and products case by case; a number of a format is on the grid of its units, so it is not changed; and a value lies between
two neighbours of its own unit, of which the nearer is taken. -/
theorem roundingIsCorrect : Obligations.RoundingIsCorrect := by
  refine ⟨fun rm x y hx hy => ?_, fun f rm b neg m e hb hdec => ?_, fun f neg m e hm => ?_⟩
  · obtain ⟨ha, hsum, hfl⟩ := fAddExact_numbers rm hx hy
    obtain ⟨hp, hprod, hfl'⟩ := fMulExact_numbers hx hy
    exact ⟨ha, hsum, hfl, hp, hprod, hfl'⟩
  · obtain ⟨neg', n, q, hlt, hg, hl, hpack, ⟨hn, hfin⟩ | ⟨-, hzero⟩⟩ := number_onGrid f hb (by rw [hdec]; rfl)
    · cases hdec.symm.trans hfin
      rw [fRound_number f rm neg hn hlt hg hl, hpack]
    · cases hdec.symm.trans hzero
  · intro r v hnum
    obtain ⟨hinf, hfin⟩ := fRound_eq f .nearestEven neg m e
    obtain ⟨hnear, hexact⟩ := roundTo_nearest_number f neg hm e
    have hgrid := roundTo_onGrid f .nearestEven neg hm e (splitAt m e (roundExp f m e) false).2
    have hl : ¬ TooLarge f _ _ := fun h => by
      rw [hinf h, isNumber_fInf] at hnum
      cases hnum
    obtain ⟨tiny, hr⟩ := hfin hl
    have hres : ratOf (fDecode f r.1) = _ := (congrArg (fun x : Nat × Flags => ratOf (fDecode f x.1)) hr).trans (fDecode_pack hgrid hl neg).2
    have hflags : r.2 = _ := congrArg Prod.snd hr
    rw [hres, hflags, roundFlags_nx, show v = _ from ratOf_fin neg m e]
    refine ⟨fun b hb hbnum => ?_, hexact⟩
    obtain ⟨neg', k, g, hk, hg, hl', hpack, -⟩ := number_onGrid f hb hbnum
    rw [hpack, (fDecode_pack hg hl' neg').2]
    exact hnear neg' k g hk hg

end Sys2Proof.Machine
end

section
/-! PROOFS. Reductions, scans and the index of an extreme in the vector unit (R89 to R92, R208, R218 to R221). -/
namespace Sys2Proof.Machine

open Sys2Proof

/-! ### The order of numbers (R92, R174) -/

/-- Where a number lies: an infinity's side, the value, and −0 below +0. -/
def FVal.rank : FVal → Int ×ₗ Rat ×ₗ Int
  | .nan _ => toLex (0, toLex (0, 0))
  | .inf neg => toLex (if neg then -1 else 1, toLex (0, 0))
  | .zero neg => toLex (0, toLex (0, if neg then 0 else 1))
  | .fin neg m e => toLex (0, toLex (ratOf (.fin neg m e), 0))

/-- A value that a format gives: no NaN, and no finite number that is 0. -/
def FVal.proper : FVal → Prop
  | .nan _ => False
  | .fin _ m _ => 0 < m
  | _ => True

theorem pos_of_fDecode_fin {f : FloatFmt} {b m : Nat} {neg : Bool} {e : Int} (h : fDecode f b = .fin neg m e) : 0 < m := by
  unfold fDecode at h
  dsimp only at h
  split at h
  · split at h <;> cases h
  · split at h
    · split at h
      · cases h
      · next h0 =>
        cases h
        exact Nat.pos_of_ne_zero h0
    · cases h
      exact Nat.add_pos_left (Nat.two_pow_pos _) _

theorem proper_fDecode {f : FloatFmt} {b : Nat} (h : (fDecode f b).isNan = false) : (fDecode f b).proper := by
  cases hv : fDecode f b with
  | nan _ =>
    rw [hv] at h
    cases h
  | inf _ | zero _ => trivial
  | fin _ _ _ => exact pos_of_fDecode_fin hv

/-- Comparing multiples of powers of two, scaled to the smaller one. -/
theorem scaled_lt (a b e g : Int) :
    a * 2 ^ (e - min e g).toNat < b * 2 ^ (g - min e g).toNat ↔ (a : Rat) * 2 ^ e < b * 2 ^ g := by
  have hpos : (0 : Rat) < 2 ^ min e g := by positivity
  rw [← two_zpow_scaled (min_le_left e g), ← two_zpow_scaled (min_le_right e g), ← mul_assoc, ← mul_assoc, mul_lt_mul_iff_left₀ hpos]
  exact_mod_cast Iff.rfl

theorem ratOf_fin_ne_zero (neg : Bool) {m : Nat} (hm : 0 < m) (e : Int) : ratOf (.fin neg m e) ≠ 0 := by
  have hpow : (2 : Rat) ^ e ≠ 0 := by positivity
  have hsign : (signedOf neg m : Rat) ≠ 0 := by cases neg <;> simp [signedOf, hm.ne']
  rw [ratOf_fin]
  exact mul_ne_zero hsign hpow

theorem fLtV_fin_zero (neg : Bool) (m : Nat) (e : Int) (z : Bool) : fLtV (.fin neg m e) (.zero z) = decide (ratOf (.fin neg m e) < 0) := by
  have h := scaled_lt (signedOf neg m) 0 e 0
  rw [Int.cast_zero, zero_mul ((2 : Rat) ^ (0 : Int)), ← ratOf_fin] at h
  exact decide_eq_decide.2 h

theorem fLtV_zero_fin (neg : Bool) (m : Nat) (e : Int) (z : Bool) : fLtV (.zero z) (.fin neg m e) = decide (0 < ratOf (.fin neg m e)) := by
  have h := scaled_lt 0 (signedOf neg m) 0 e
  rw [Int.cast_zero, zero_mul ((2 : Rat) ^ (0 : Int)), ← ratOf_fin] at h
  exact decide_eq_decide.2 h

theorem fLtV_fin_fin (neg : Bool) (m : Nat) (e : Int) (neg' : Bool) (m' : Nat) (e' : Int) :
    fLtV (.fin neg m e) (.fin neg' m' e') = decide (ratOf (.fin neg m e) < ratOf (.fin neg' m' e')) := by
  rw [ratOf_fin, ratOf_fin]
  exact decide_eq_decide.2 (scaled_lt (signedOf neg m) (signedOf neg' m') e e')

/-- Lying below is a strict order by rank. -/
theorem fBelowV_iff_rank {x y : FVal} (hx : x.proper) (hy : y.proper) : fBelowV x y = true ↔ x.rank < y.rank := by
  cases x with
  | nan _ => exact hx.elim
  | inf a =>
    cases y with
    | nan _ => exact hy.elim
    | inf b => cases a <;> cases b <;> decide
    | zero b => cases a <;> cases b <;> decide
    | fin b n g => cases a <;> simp [fBelowV, fLtV, FVal.rank, Prod.Lex.toLex_lt_toLex]
  | zero a =>
    cases y with
    | nan _ => exact hy.elim
    | inf b => cases a <;> cases b <;> decide
    | zero b => cases a <;> cases b <;> decide
    | fin b n g =>
      have hne := ratOf_fin_ne_zero b hy g
      have hbelow : fBelowV (.zero a) (.fin b n g) = fLtV (.zero a) (.fin b n g) := by cases a <;> rfl
      rw [hbelow, fLtV_zero_fin]
      simp [FVal.rank, Prod.Lex.toLex_lt_toLex, hne.symm]
  | fin a m e =>
    cases y with
    | nan _ => exact hy.elim
    | inf b => cases b <;> simp [fBelowV, fLtV, FVal.rank, Prod.Lex.toLex_lt_toLex]
    | zero b =>
      have hne := ratOf_fin_ne_zero a hx e
      change fLtV (.fin a m e) (.zero b) = true ↔ _
      rw [fLtV_fin_zero]
      simp [FVal.rank, Prod.Lex.toLex_lt_toLex, hne]
    | fin b n g =>
      change fLtV (.fin a m e) (.fin b n g) = true ↔ _
      rw [fLtV_fin_fin]
      simp [FVal.rank, Prod.Lex.toLex_lt_toLex]

/-- Where the elements of a type lie. -/
def elemRank (t : ElemType) (w : Word) : Int ×ₗ Rat ×ₗ Int :=
  match fmtOf t with
  | some f => (fDecode f w.toNat).rank
  | none => toLex (intVal t w, toLex (0, 0))

/-- An element that is a NaN. -/
def elemNan (t : ElemType) (w : Word) : Bool :=
  match fmtOf t with
  | some f => (fDecode f w.toNat).isNan
  | none => false

theorem beats_iff_rank (isMax : Bool) {t : ElemType} {a b : Word} (ha : elemNan t a = false) (hb : elemNan t b = false) :
    beats isMax t a b = true ↔ if isMax then elemRank t a < elemRank t b else elemRank t b < elemRank t a := by
  unfold elemNan at ha hb
  unfold beats elemRank
  cases hf : fmtOf t with
  | none => cases isMax <;> simp [Prod.Lex.toLex_lt_toLex]
  | some f =>
    simp only [hf] at ha hb
    cases isMax
    · exact fBelowV_iff_rank (proper_fDecode hb) (proper_fDecode ha)
    · exact fBelowV_iff_rank (proper_fDecode ha) (proper_fDecode hb)

/-! ### Whole instructions with one source (R207) -/

/-- A whole instruction on its own, from its first element: it leaves what its body leaves. -/
theorem exec_whole {s : State} {h : Hart} {i : Instr} {u : VUse} {f : VEffect} {caps : List ElemType} {names : List VSrc}
    {nothing : Option (VDst × ElemType)} {bad : Nat → Bool} {body : VEffect} {h' : Hart} {vf : Option VSource} {fl : Flags} {sat : Bool}
    {part : List Word} (hs : s.performs h) (hu : useOf i = some u) (hf : effectOf i = some f) (hv : u.vform = true)
    (hsrc : ∀ x ∈ u.names, (h.operand x).isSome = true) (hroom : ∀ q ∈ u.sqs, h.sq[q].length < 8) (hlt : 0 < h.vlen) (h0 : h.vfirst = 0)
    (hcap : ∀ t ∈ caps, h.vlen ≤ capacity h.cls t) (hbad : ∀ e, e < h.vlen → bad e = false)
    (hrun : f (ctxOf h i u) (popped h u) = wholeRun caps names nothing bad body (ctxOf h i u) (popped h u))
    (hbody : body (ctxOf h i u) (popped h u) = .done h' vf fl sat part false) (hplace : h.keepsPlace h') :
    exec i s = vectorOutcome s h' fl sat := by
  obtain ⟨hviq, hpc, hpart⟩ := hplace
  exact exec_of_effect hsrc hs hu hf hv hroom (hrun.trans ((wholeRun_runs body hlt h0 hcap hbad).trans hbody)) hviq hpc hpart

/-- What an instruction with one value per element writes, once its rows are popped. -/
theorem writeDst_lone (h g : Hart) (i : Instr) (u : VUse) (d : VDst) (t : ElemType) {es : List (Option Elt)} (hes : es.length = h.vlen) :
    writeDst (ctxOf h i u) g d t (es.map (Option.map Elt.bits)) = (g.deliver d t es, []) := by
  cases d with
  | reg r => rfl
  | sq q =>
    have hrow := written_row (ctxOf h i u) t rfl h.vlen es hes
    simp only [writeDst, Hart.deliver, ← hrow]
    rfl

theorem elementsOf_lone (h : Hart) (i : Instr) (u : VUse) (p : Pred) (t : ElemType) (f : Nat → Elt) :
    elementsOf (ctxOf h i u) (popped h u) p t f = h.computes p t f := elementsOf_eq _ _ p t f rfl rfl rfl rfl rfl

/-- Register 0 takes no value (R47). -/
theorem setAnchorReg_eq (g : Hart) (r : Reg) (v : Word) : (if r = 0 then g else setAnchorReg g r v) = g.withScalar r v := by
  unfold Hart.withScalar setAnchorReg regSet
  split <;> rfl

theorem length_computes (h : Hart) (p : Pred) (t : ElemType) (f : Nat → Elt) : (h.computes p t f).length = h.vlen := by
  rw [Hart.computes, List.length_map, List.length_range]

/-! ### Groups (R89) -/

/-- The 64 entries of group g: active elements, the identity elsewhere. -/
abbrev Hart.groupEntries (h : Hart) (o : CanonOp) (sel : MaskSel) (t : ElemType) (conv : Word → Elt) (a : VSource) (g : Nat) : List Elt :=
  (List.range 64).map fun i => if h.acts sel (64 * g + i) = true then conv (a.get (64 * g + i)) else .quiet (canonId o t)

/-- The trees of the groups folded into the accumulator, in ascending order (R90). -/
abbrev Hart.reduced (h : Hart) (o : CanonOp) (sel : MaskSel) (a : VSource) (acc : Word) : Elt :=
  let t := redType o a.ty
  (List.range ((h.vlen + 63) / 64)).foldl (fun v g => canonComb o t v (groupTree o t (h.groupEntries o sel t (toRed o a.ty) a g)))
    (.quiet (trunc t acc))

/-- The outputs of a scan over the groups, its local scans and its last carry (R91). -/
abbrev Hart.scanned (h : Hart) (o : CanonOp) (excl : Bool) (sel : MaskSel) (a : VSource) (acc : Word) : List Elt × List Elt × Elt :=
  let t := accType o a.ty
  scanGroups o excl t ((List.range ((h.vlen + 63) / 64)).map (h.groupEntries o sel t (toAcc o a.ty) a)) (.quiet (trunc t acc))

section
variable (h : Hart) (i : Instr) (u : VUse) (sel : MaskSel) (a : VSource)

theorem reduceFold_lone (o : CanonOp) (acc : Word) : reduceFold o (ctxOf h i u) (popped h u) sel a acc = h.reduced o sel a acc := by
  simp only [reduceFold, active_lone]
  rfl

theorem groupOf_lone (o : CanonOp) : groupOf o (ctxOf h i u) (popped h u) sel a = h.groupEntries o sel (accType o a.ty) (toAcc o a.ty) a := by
  funext g
  simp only [groupOf, active_lone]

theorem localFlags_lone (locals : List Elt) : localFlags (ctxOf h i u) (popped h u) sel locals =
    raisedBy ((List.range h.vlen).map fun e => if h.acts sel e = true then locals[e]? else none) := by
  simp only [localFlags, raisedBy, active_lone, List.filterMap_map, Function.id_comp]
  rfl

end

/-- The scalar that an instruction captured (R23). -/
theorem scal2_lone (h : Hart) (i : Instr) {u : VUse} {c : Reg} (hc : u.scal2 = some c) : (ctxOf h i u).scal2 = h.reg .anchor c := by
  change capScal h u.scal2 = _
  rw [hc]
  rfl

theorem vl_lone (h : Hart) (i : Instr) (u : VUse) : (ctxOf h i u).vl = h.vlen := rfl

theorem popQueues_lone {h : Hart} (i : Instr) {u : VUse} {names : List VSrc} (hn : u.names = names)
    (hsrc : ∀ x ∈ names, (h.operand x).isSome = true) : popQueues (ctxOf h i u) (popped h u) names = h.taken names := by
  subst hn
  exact popQueues_names hsrc

theorem readSource_lone {h : Hart} (i : Instr) {u : VUse} {s1 : VSrc} {a : VSource} (hn : u.names = [s1]) (ha : h.operand s1 = some a) :
    readSource (ctxOf h i u) (popped h u) s1 = some a := readSource_names (hn ▸ List.mem_singleton_self s1) ha

/-- The first of the elements with the greatest key. -/
theorem foldl_extreme {K : Type} [LinearOrder K] (key : Nat → K) {step : Option Nat → Nat → Option Nat} {beat : Nat → Nat → Bool}
    (hnone : ∀ e, step none e = some e) (hsome : ∀ b e, step (some b) e = if beat b e = true then some e else some b) (l : List Nat)
    (hbeat : ∀ b ∈ l, ∀ e ∈ l, beat b e = true ↔ key b < key e) (hl : l.Pairwise (· < ·)) (hne : l ≠ []) :
    ∃ b ∈ l, l.foldl step none = some b ∧ (∀ k ∈ l, key k ≤ key b) ∧ ∀ k ∈ l, k < b → key k < key b := by
  induction l using List.reverseRecOn with
  | nil => exact absurd rfl hne
  | append_singleton l e ih =>
    rw [List.foldl_append, List.foldl_cons, List.foldl_nil]
    obtain ⟨hl', -, hlast⟩ := List.pairwise_append.1 hl
    have hlast (k : Nat) (hk : k ∈ l) : k < e := hlast k hk e (List.mem_singleton_self e)
    by_cases hnil : l = []
    · subst hnil
      exact ⟨e, by simp, hnone e, by simp, by simp⟩
    obtain ⟨b, hb, hfold, hmax, hfirst⟩ := ih (fun b hb k hk => hbeat b (by simp [hb]) k (by simp [hk])) hl' hnil
    rw [hfold, hsome]
    have hiff := hbeat b (by simp [hb]) e (by simp)
    simp only [List.mem_append, List.mem_singleton]
    by_cases hbe : beat b e = true
    · have hlt := hiff.1 hbe
      have hbelow (k : Nat) (hk : k ∈ l) : key k < key e := (hmax k hk).trans_lt hlt
      refine ⟨e, .inr rfl, if_pos hbe, ?_, ?_⟩
      · rintro k (hk | rfl)
        · exact (hbelow k hk).le
        · exact le_rfl
      · rintro k (hk | rfl) hke
        · exact hbelow k hk
        · exact absurd hke (lt_irrefl _)
    · have hle := not_lt.1 (hiff.not.1 hbe)
      refine ⟨b, .inl hb, if_neg hbe, ?_, ?_⟩
      · rintro k (hk | rfl)
        · exact hmax k hk
        · exact hle
      · rintro k (hk | rfl) hkb
        · exact hfirst k hk hkb
        · exact absurd hkb (hlast b hb).not_gt

/-- The better of what was found and the next element; of two that beat one another neither way, the first. -/
def better (isMax : Bool) (a : VSource) (found : Option Nat) (e : Nat) : Option Nat :=
  match found with
  | none => some e
  | some k => if beats isMax a.ty (a.get k) (a.get e) then some e else some k

/-- The first element that nothing beats. -/
def firstExtreme (isMax : Bool) (a : VSource) (l : List Nat) : Option Nat := l.foldl (better isMax a) none

/-- The element that `VARGMAX` and `VARGMIN` name, of elements none of which is a NaN: nothing beats it, and it beats all before it. -/
theorem firstExtreme_spec (isMax : Bool) (a : VSource) {l : List Nat} (hnan : ∀ e ∈ l, elemNan a.ty (a.get e) = false)
    (hl : l.Pairwise (· < ·)) (hne : l ≠ []) :
    ∃ b ∈ l, firstExtreme isMax a l = some b ∧ (∀ k ∈ l, beats isMax a.ty (a.get b) (a.get k) = false) ∧
      ∀ k ∈ l, k < b → beats isMax a.ty (a.get k) (a.get b) = true := by
  have hrank {x y : Nat} (hx : x ∈ l) (hy : y ∈ l) := beats_iff_rank isMax (hnan x hx) (hnan y hy)
  cases isMax
  · obtain ⟨b, hb, hfold, hmax, hfirst⟩ := foldl_extreme (fun e => OrderDual.toDual (elemRank a.ty (a.get e)))
      (step := better false a) (fun _ => rfl)
      (fun _ _ => rfl) l (fun _ hx _ hy => hrank hx hy) hl hne
    exact ⟨b, hb, hfold, fun k hk => Bool.eq_false_iff.2 fun h => (hmax k hk).not_gt ((hrank hb hk).1 h),
      fun k hk hkb => (hrank hk hb).2 (hfirst k hk hkb)⟩
  · obtain ⟨b, hb, hfold, hmax, hfirst⟩ := foldl_extreme (fun e => elemRank a.ty (a.get e)) (step := better true a) (fun _ => rfl)
      (fun _ _ => rfl) l (fun _ hx _ hy => hrank hx hy) hl hne
    exact ⟨b, hb, hfold, fun k hk => Bool.eq_false_iff.2 fun h => (hmax k hk).not_gt ((hrank hb hk).1 h),
      fun k hk hkb => (hrank hk hb).2 (hfirst k hk hkb)⟩

/-- The index of R221: the first NaN, else the first element that nothing beats, else −1. -/
def extremeIndex (isMax : Bool) (a : VSource) (l : List Nat) : Word :=
  match l.find? fun e => elemNan a.ty (a.get e) with
  | some e => BitVec.ofNat 64 e
  | none => match firstExtreme isMax a l with
    | some e => BitVec.ofNat 64 e
    | none => BitVec.allOnes 64

theorem extremeIndex_spec (isMax : Bool) (a : VSource) {l : List Nat} (hl : l.Pairwise (· < ·)) :
    (∀ e, (l.find? fun e => elemNan a.ty (a.get e)) = some e → extremeIndex isMax a l = BitVec.ofNat 64 e) ∧
    ((l.find? fun e => elemNan a.ty (a.get e)) = none → l = [] → extremeIndex isMax a l = -1) ∧
    ((l.find? fun e => elemNan a.ty (a.get e)) = none → l ≠ [] → ∃ e ∈ l, extremeIndex isMax a l = BitVec.ofNat 64 e ∧
      (∀ k ∈ l, beats isMax a.ty (a.get e) (a.get k) = false) ∧ ∀ k ∈ l, k < e → beats isMax a.ty (a.get k) (a.get e) = true) := by
  unfold extremeIndex
  refine ⟨fun e he => ?_, fun hnan hnil => ?_, fun hnan hne => ?_⟩
  · rw [he]
  · rw [hnan, hnil]
    rfl
  · have hclean : ∀ e ∈ l, elemNan a.ty (a.get e) = false := by simpa using hnan
    obtain ⟨b, hb, hfold, hmax, hfirst⟩ := firstExtreme_spec isMax a hclean hl hne
    refine ⟨b, hb, ?_, hmax, hfirst⟩
    rw [hnan, hfold]

section
variable {s : State} {h : Hart} {i : Instr} {u : VUse} {sel : MaskSel} {s1 : VSrc} {r c : Reg} {a : VSource} (hs : s.performs h)
  (hu : useOf i = some u) (hv : u.vform = true) (hn : u.names = [s1]) (ha : h.operand s1 = some a) (hpa : a.poison = [])
  (hcap : h.vlen ≤ capacity h.cls a.ty) (hlt : 0 < h.vlen) (h0 : h.vfirst = 0)
include hs hu hv hn ha hpa hcap hlt h0

/-- A whole instruction that reads one clean source and writes a scalar. -/
theorem exec_toScalar {f : VEffect} {body : VEffect} {w : Word} {fl : Flags} (hf : effectOf i = some f) (hdst : u.dst = none)
    (hrun : f (ctxOf h i u) (popped h u) = wholeRun [a.ty] [s1] none
      (fun e => active (ctxOf h i u) (popped h u) sel e && a.poison.contains e) body (ctxOf h i u) (popped h u))
    (hbody : body (ctxOf h i u) (popped h u) =
      .done (setAnchorReg (popQueues (ctxOf h i u) (popped h u) [s1]) r w) none fl false [] false) :
    exec i s = vectorOutcome s ((h.taken [s1]).withScalar r w) fl false := by
  have hsrc : ∀ x ∈ [s1], (h.operand x).isSome = true := by simp [ha]
  rw [popQueues_lone i hn hsrc] at hbody
  exact exec_whole hs hu hf hv (hn ▸ hsrc) (sqs_none_room h hdst) hlt h0 (by simpa using hcap) (fun e _ => by simp [hpa]) hrun hbody
    ⟨rfl, rfl, rfl⟩

/-- Reductions (R89, R90, R218). -/
theorem exec_reduce {o : CanonOp} (hf : effectOf i = some (reduce o sel r s1)) (hdst : u.dst = none) (hc : u.scal2 = some c)
    (hty : isInt a.ty = true ∨ isFlt a.ty = true) :
    exec i s = vectorOutcome s ((h.taken [s1]).withScalar r (eltScalar (redType o a.ty) (h.reduced o sel a (h.reg .anchor c)).bits))
      (h.reduced o sel a (h.reg .anchor c)).flags false := by
  refine exec_toScalar (sel := sel) (body := ?body) hs hu hv hn ha hpa hcap hlt h0 hf hdst ?hrun ?hbody
  case hrun =>
    rw [reduce, readSource_lone i hn ha]
    exact if_pos (Bool.or_eq_true_iff.2 hty)
  case hbody =>
    dsimp only
    rw [reduceFold_lone, scal2_lone h i hc]

/-- Bitwise reductions (R219). -/
theorem exec_reduceBits {o : Op2} (hf : effectOf i = some (reduceBits o sel r s1)) (hdst : u.dst = none) (hc : u.scal2 = some c)
    (hty : isInt a.ty = true) :
    exec i s = vectorOutcome s ((h.taken [s1]).withScalar r (eltScalar a.ty
      (((List.range h.vlen).filter (h.acts sel)).foldl (fun v e => (int2 o a.ty v (a.get e)).bits) (trunc a.ty (h.reg .anchor c))))) 0 false := by
  refine exec_toScalar (sel := sel) (body := ?body) hs hu hv hn ha hpa hcap hlt h0 hf hdst ?hrun ?hbody
  case hrun =>
    rw [reduceBits, readSource_lone i hn ha]
    exact if_pos hty
  case hbody =>
    simp only [active_lone]
    rw [scal2_lone h i hc, List.foldl_filter, vl_lone]

/-- The index of an extreme (R92, R221). -/
theorem exec_argExtreme {isMax : Bool} (hf : effectOf i = some (argExtreme isMax sel r s1)) (hdst : u.dst = none)
    (hty : isInt a.ty = true ∨ isFlt a.ty = true) : ∃ fl : Flags, exec i s =
      vectorOutcome s ((h.taken [s1]).withScalar r (extremeIndex isMax a ((List.range h.vlen).filter (h.acts sel)))) fl false := by
  refine ⟨?fl, exec_toScalar (sel := sel) (body := ?body) hs hu hv hn ha hpa hcap hlt h0 hf hdst ?hrun ?hbody⟩
  case hrun =>
    rw [argExtreme, readSource_lone i hn ha]
    exact if_pos (Bool.or_eq_true_iff.2 hty)
  case hbody =>
    dsimp only
    rw [funext (active_lone h i u sel), vl_lone]
    refine congrArg (fun w => VRes.done (setAnchorReg _ r w) none _ false [] false) ?_
    unfold extremeIndex elemNan
    cases fmtOf a.ty <;> rfl

/-- Scans (R91, R220). -/
theorem exec_scan {o : CanonOp} {excl : Bool} {p : Pred} {d : VDst} {out : Reg} (hf : effectOf i = some (scan o excl p d s1 out))
    (hdst : u.dst = some d) (hroom : h.hasRoom d) (hc : u.scal2 = some c) (hty : isInt a.ty = true ∨ isFlt a.ty = true)
    (hct : h.vlen ≤ capacity h.cls (accType o a.ty)) :
    let t := accType o a.ty
    let res := h.scanned o excl p.sel a (h.reg .anchor c)
    let es := h.computes p t fun e => res.1.getD e (.quiet 0)
    exec i s = vectorOutcome s (((h.taken [s1]).deliver d t es).withScalar out (eltScalar t res.2.2.bits))
      (raisedBy es ||| raisedBy ((List.range h.vlen).map fun e => if h.acts p.sel e = true then res.2.1[e]? else none) |||
        res.2.2.flags) false := by
  intro t res es
  have hsrc : ∀ x ∈ [s1], (h.operand x).isSome = true := by simp [ha]
  refine exec_whole (caps := [a.ty, t]) (names := [s1]) (nothing := some (d, t)) (bad := ?bad) (body := ?body) (vf := none) (part := []) hs hu hf hv
    (hn ▸ hsrc) (sqs_room hdst hroom) hlt h0 (by simpa using ⟨hcap, hct⟩) ?hbad ?hrun ?hbody
    ((deliver_keepsPlace (h.taken [s1]) d t es).trans ⟨rfl, rfl, rfl⟩)
  case hrun =>
    rw [scan, readSource_lone i hn ha]
    exact if_pos (Bool.or_eq_true_iff.2 hty)
  case hbad => exact fun e _ => by simp [hpa]
  case hbody =>
    dsimp only
    rw [groupOf_lone, localFlags_lone, scal2_lone h i hc, popQueues_lone i hn hsrc, elementsOf_lone, writeDst_lone _ _ _ _ _ _ (length_computes ..),
      setAnchorReg_eq]
    rfl

end

/-- Settles O29: each instruction by its body on the groups, the active elements in ascending order, or the scan of the groups. -/
theorem reductionsAndScans : Obligations.ReductionsAndScans := by
  intro s h j sel p d s1 r c out a hs ha hpa hcap hlt h0
  refine ⟨fun hty => ⟨fun x hx => ?_, fun x hx => ?_, fun x hx => ?_⟩, fun hty x hx => ?_⟩
  · obtain ⟨hu, hf⟩ : useOf x.1 =
        some { pred := ⟨j, sel, false⟩, srcs := [(0, s1)], unit := .red, scal2 := some c, out := some r, vform := true } ∧
        effectOf x.1 = some (reduce x.2 sel r s1) := by
      simp only [List.mem_cons, List.not_mem_nil, or_false] at hx
      rcases hx with rfl | rfl | rfl <;> exact ⟨rfl, rfl⟩
    exact exec_reduce hs hu rfl rfl ha hpa hcap hlt h0 hf rfl rfl hty
  · obtain ⟨hu, hf⟩ : (∃ u, useOf x.1 = some u ∧ u.vform = true ∧ u.names = [s1] ∧ u.dst = some d ∧ u.scal2 = some c) ∧
        effectOf x.1 = some (scan x.2.1 x.2.2 p d s1 out) := by
      simp only [List.mem_cons, List.not_mem_nil, or_false] at hx
      rcases hx with rfl | rfl | rfl | rfl | rfl | rfl <;> exact ⟨⟨_, rfl, rfl, rfl, rfl, rfl⟩, rfl⟩
    obtain ⟨u, hu, hv, hn, hdst, hc⟩ := hu
    exact fun hroom hct => exec_scan hs hu hv hn ha hpa hcap hlt h0 hf hdst hroom hc hty hct
  · obtain ⟨hu, hf⟩ : useOf x.1 = some { pred := ⟨j, sel, false⟩, srcs := [(0, s1)], unit := .red, out := some r, vform := true } ∧
        effectOf x.1 = some (argExtreme x.2 sel r s1) := by
      simp only [List.mem_cons, List.not_mem_nil, or_false] at hx
      rcases hx with rfl | rfl <;> exact ⟨rfl, rfl⟩
    obtain ⟨fl, hexec⟩ := exec_argExtreme hs hu rfl rfl ha hpa hcap hlt h0 hf rfl hty
    refine ⟨_, fl, hexec, ?_⟩
    exact extremeIndex_spec x.2 a (List.pairwise_lt_range.filter _)
  · obtain ⟨hu, hf⟩ : useOf x.1 =
        some { pred := ⟨j, sel, false⟩, srcs := [(0, s1)], unit := .red, scal2 := some c, out := some r, vform := true } ∧
        effectOf x.1 = some (reduceBits x.2 sel r s1) := by
      simp only [List.mem_cons, List.not_mem_nil, or_false] at hx
      rcases hx with rfl | rfl | rfl <;> exact ⟨rfl, rfl⟩
    exact exec_reduceBits hs hu rfl rfl ha hpa hcap hlt h0 hf rfl rfl hty

end Sys2Proof.Machine
end

section
/-! PROOFS. The narrow format, the butterfly, random draws and UTF-8 in the vector unit (R84 to R88, R99, R100, R201 to R206). -/
namespace Sys2Proof.Machine

open Sys2Proof

/-! ### Element-wise runs -/

/-- Results none of which saturates. -/
theorem saturatedBy_eq_false {h : Hart} {p : Pred} {t : ElemType} {f : Nat → Elt} (hf : ∀ e, (f e).sat = false) :
    saturatedBy (h.computes p t f) = false := by
  simp only [saturatedBy, satOf, List.any_eq_false, List.mem_filterMap, Hart.computes, List.mem_map, id_eq]
  rintro x ⟨y, ⟨e, -, rfl⟩, hy⟩
  split at hy
  · cases hy
  · split at hy
    · cases hy
      simp [hf]
    · split at hy
      · cases hy
        simp [Elt.quiet]
      · cases hy

theorem stop_lone (h : Hart) (i : Instr) (u : VUse) : (ctxOf h i u).stop = none := rfl

theorem vstart_lone (h : Hart) (i : Instr) (u : VUse) : (ctxOf h i u).vstart = h.vfirst := rfl

theorem grant_lone (h : Hart) (i : Instr) (u : VUse) : (ctxOf h i u).grant = h.anchor.th.grant := rfl

theorem overCapacity_lone {h : Hart} {t : ElemType} (hcap : h.vlen ≤ capacity h.cls t) (i : Instr) (u : VUse) :
    overCapacity (ctxOf h i u) (popped h u) t = false := decide_eq_false (Nat.not_lt.2 hcap)

/-- Sources of the type written are not retyped. -/
theorem retypesSource_same (d : VDst) {t : ElemType} (names : List VSrc) {srcs : List VSource} (hty : ∀ v ∈ srcs, v.ty = t) :
    retypesSource d t names srcs = false := by
  cases d with
  | sq _ => rfl
  | reg r =>
    simp only [retypesSource, List.any_eq_false]
    rintro ⟨x, v⟩ hx
    have hv := hty v (List.of_mem_zip hx).2
    cases x <;> simp [hv]

theorem popIfDone_lone {h : Hart} (i : Instr) {u : VUse} {names : List VSrc} (hn : u.names = names)
    (hsrc : ∀ x ∈ names, (h.operand x).isSome = true) : popIfDone (ctxOf h i u) (popped h u) names = h.taken names :=
  popQueues_lone i hn hsrc

/-- An element-wise run that nothing refuses. -/
theorem elementwise_lone {h : Hart} (i : Instr) {u : VUse} {p : Pred} {d : VDst} {t : ElemType} {names : List VSrc} {srcs : List VSource}
    {f : Nat → Elt} (hn : u.names = names) (hsrc : ∀ x ∈ names, (h.operand x).isSome = true) (hlt : h.vfirst < h.vlen)
    (hcap : h.vlen ≤ capacity h.cls t) (hcaps : ∀ v ∈ srcs, h.vlen ≤ capacity h.cls v.ty) (hclean : ∀ v ∈ srcs, v.poison = [])
    (hw : retypesSource d t names srcs = true → h.vfirst = 0) :
    elementwise p d t names srcs f (ctxOf h i u) (popped h u) = .done ((h.taken names).deliver d t (h.computes p t f)) none
      (raisedBy (h.computes p t f)) (saturatedBy (h.computes p t f)) [] false := by
  have htaken : popped h u = h.taken names := hn ▸ popped_eq_taken h u
  have hpop := popQueues_lone i hn hsrc
  have hall : ∀ v ∈ t :: srcs.map VSource.ty, h.vlen ≤ capacity h.cls v := by simpa using ⟨hcap, hcaps⟩
  have hbad (e : Nat) : (srcs.any fun v => v.poison.contains e) = false := by
    rw [List.any_eq_false]
    intro v hv
    simp [hclean v hv]
  rw [htaken] at hpop ⊢
  exact elementRun_done _ p d t names _ _ f (ctxOf h i u) (h.taken names) rfl rfl rfl rfl rfl rfl hlt hall hw (fun e _ => hbad e) hpop

section
variable {s : State} {h : Hart} (hs : s.performs h) (hlt : h.vfirst < h.vlen)
include hlt

/-! ### Random draws (R99, R100, R204) -/

/-- The hart after a draw: the elements delivered, the counter moved by vl. -/
abbrev Hart.drawn (h : Hart) (p : Pred) (d : VDst) : Hart :=
  let g := h.deliver d h.anchor.th.grant (h.computes p h.anchor.th.grant fun e =>
    .quiet (drawElt h.anchor.th.grant (mix h.anchor.rngkey (h.anchor.rngctr + BitVec.ofNat 128 e))))
  { g with anchor := { g.anchor with rngctr := h.anchor.rngctr + BitVec.ofNat 128 h.vlen } }

theorem draw_lone (i : Instr) {u : VUse} (hsrcs : u.srcs = []) (p : Pred) (d : VDst) (hty : h.anchor.th.grant ≠ .qn4)
    (hcap : h.vlen ≤ capacity h.cls h.anchor.th.grant) :
    draw p d (ctxOf h i u) (popped h u) = .done (h.drawn p d) none 0 false [] false := by
  have hn : u.names = [] := by rw [VUse.names, hsrcs, List.map_nil]
  have hctr : (popped h u).anchor.rngctr + BitVec.ofNat 128 (ctxOf h i u).drawn = h.anchor.rngctr := BitVec.add_zero _
  rw [draw, grant_lone, if_neg hty]
  dsimp only
  rw [hctr, elementwise_lone i hn (List.forall_mem_nil _) hlt hcap (List.forall_mem_nil _) (List.forall_mem_nil _)
    fun hw => by cases d <;> cases hw]
  dsimp only
  rw [taken_nil, raisedBy_quiet, saturatedBy_quiet]
  rfl

include hs

theorem exec_vrand (p : Pred) {d : VDst} (hroom : h.hasRoom d) (hty : h.anchor.th.grant ≠ .qn4)
    (hcap : h.vlen ≤ capacity h.cls h.anchor.th.grant) : exec (.vrand p d) s = vectorOutcome s (h.drawn p d) 0 false := by
  obtain ⟨hviq, hpc, hpart⟩ : h.keepsPlace (h.drawn p d) := (deliver_keepsPlace h d h.anchor.th.grant _).trans ⟨rfl, rfl, rfl⟩
  exact exec_of_effect (names_none_live h rfl) hs rfl rfl rfl (sqs_room rfl hroom) (draw_lone hlt _ rfl p d hty hcap) hviq hpc hpart

/-! ### The butterfly (R88, R203) -/

omit hs hlt in
theorem butterfly_sat (vl lg : Nat) (a : Nat → Word) (e : Nat) : (butterfly vl lg a e).sat = false := by
  simp only [butterfly]
  split <;> rfl

omit hs hlt in
theorem groupPoison_clean {a : VSource} (hpa : a.poison = []) (c : VCtx) (g : Hart) (sel : MaskSel) : groupPoison c g sel a = none := by
  simp [groupPoison, hpa]

variable {s1 : VSrc} {a : VSource} (ha : h.operand s1 = some a) (hpa : a.poison = []) (hty : a.ty = .f32)
  (hcap : h.vlen ≤ capacity h.cls .f32)
include ha hpa hty hcap

theorem exec_vbfly (p : Pred) {d : VDst} (lg : Fin 6) (hroom : h.hasRoom d) :
    let es := h.computes p .f32 (butterfly h.vlen lg a.get)
    exec (.vbfly p d s1 lg) s = vectorOutcome s ((h.taken [s1]).deliver d .f32 es) (raisedBy es) false := by
  intro es
  have hsrc : ∀ x ∈ [s1], (h.operand x).isSome = true := by simp [ha]
  obtain ⟨hviq, hpc, hpart⟩ := deliver_keepsPlace (h.taken [s1]) d .f32 es
  rw [← saturatedBy_eq_false (h := h) (p := p) (t := .f32) (butterfly_sat h.vlen lg a.get)]
  refine exec_of_effect (u := { pred := p, srcs := [(0, s1)], dst := some d, unit := .bfs, vform := true }) hsrc hs rfl rfl rfl
    (sqs_room rfl hroom) (vf := none) (part := []) ?_ hviq hpc hpart
  rw [butterflyReg, readSource_lone _ rfl ha]
  dsimp only
  rw [if_pos hty, groupPoison_clean hpa, ite_self]
  exact elementwise_lone _ rfl hsrc hlt hcap (by simpa using hcap) (by simp)
    fun hw => absurd hw (Bool.eq_false_iff.1 (retypesSource_same d _ (by simp)))

omit hs in
theorem butterflyFwd_lone (i : Instr) {u : VUse} (hn : u.names = [s1]) (lg : Nat) : ∃ vf,
    butterflyFwd s1 lg (ctxOf h i u) (popped h u) =
      .done (h.taken [s1]) (some vf) (raisedBy (h.computes ⟨false, none, false⟩ .f32 (butterfly h.vlen lg a.get))) false [] false := by
  have hsrc : ∀ x ∈ [s1], (h.operand x).isSome = true := by simp [ha]
  have hflags : (List.range h.vlen).filterMap (fun e => if h.vfirst ≤ e then ((List.range h.vlen).map (butterfly h.vlen lg a.get))[e]? else none) =
      (h.computes ⟨false, none, false⟩ .f32 (butterfly h.vlen lg a.get)).filterMap id := by
    rw [Hart.computes, List.filterMap_map]
    refine List.filterMap_congr fun e he => ?_
    by_cases hle : h.vfirst ≤ e
    · simp [hle, List.mem_range.1 he, Hart.picks, Nat.not_lt.2 hle]
    · simp [hle, Nat.not_le.1 hle]
  rw [butterflyFwd, readSource_lone i hn ha]
  dsimp only
  rw [if_neg (not_not.2 hty), overCapacity_lone hcap, performsNothing_lone hlt, groupPoison_clean hpa, popIfDone_lone i hn hsrc]
  exact ⟨_, congrArg (fun es => VRes.done _ _ (flagsOf es) false [] false) hflags⟩

theorem exec_vbflyF (j : Bool) (lg : Fin 6) : exec (.vbflyF j s1 lg) s = vectorOutcome s (h.taken [s1])
    (raisedBy (h.computes ⟨false, none, false⟩ .f32 (butterfly h.vlen lg a.get))) false := by
  have hsrc : ∀ x ∈ [s1], (h.operand x).isSome = true := by simp [ha]
  let u : VUse := { pred := ⟨j, none, false⟩, srcs := [(0, s1)], unit := .bfs, forwards := true, vform := true }
  obtain ⟨vf, hdone⟩ := butterflyFwd_lone hlt ha hpa hty hcap (.vbflyF j s1 lg) (u := u) rfl lg
  exact exec_of_effect (u := u) hsrc hs rfl rfl rfl (sqs_none_room h rfl) hdone rfl rfl rfl

end

/-! ### Expanding the narrow format (R87, R202) -/

theorem eltDequant_sat (f : FloatFmt) (scale : Word) (code sc : Nat) : (eltDequant f scale code sc).sat = false := by
  unfold eltDequant
  split
  · rfl
  · split <;> rfl

/-- A destination that is no source lets the instruction start anywhere (R61, R194). -/
theorem vfirst_of_mayResume {h : Hart} {d : VDst} {t : ElemType} {names : List VSrc} {srcs : List VSource} (hm : h.mayResume d names)
    (hw : retypesSource d t names srcs = true) : h.vfirst = 0 := by
  rcases hm with h0 | hno
  · simp [Hart.vfirst, h0]
  · cases d with
    | sq q => cases hw
    | reg r =>
      obtain ⟨⟨x, v⟩, hx, hr⟩ := List.any_eq_true.1 hw
      cases x with
      | lq _ | vf => cases hr
      | reg r' z =>
        obtain rfl : r' = r := by simpa using (Bool.and_eq_true_iff.1 hr).1
        exact absurd (List.of_mem_zip hx).1 (hno r' z rfl)

theorem exec_vdq {s : State} {h : Hart} (hs : s.performs h) (hlt : h.vfirst < h.vlen) (p : Pred) {d : VDst} {s1 s3 : VSrc} (c : Reg)
    {u : ElemType} (hroom : h.hasRoom d) {a b : VSource} (ha : h.operand s1 = some a) (hpa : a.poison = []) (hb : h.operand s3 = some b)
    (hpb : b.poison = []) (hat : a.ty = .qn4) (hbt : b.ty = .n8) (hq : h.vlen ≤ capacity h.cls .qn4) (hn8 : h.vlen ≤ capacity h.cls .n8)
    (hcu : h.vlen ≤ capacity h.cls u) (hm : h.mayResume d [s1, s3]) :
    let es := h.computes p u fun e => eltDequant (if u = .bf16 then .bf16 else .f32) (h.reg .anchor c) (a.get e).toNat
      ((b.get (e / 64)).toNat % 256)
    exec (.vdq p d s1 c s3 u) s = vectorOutcome s ((h.taken [s1, s3]).deliver d u es) (raisedBy es) false := by
  intro es
  have hsrc : ∀ x ∈ [s1, s3], (h.operand x).isSome = true := by simp [ha, hb]
  obtain ⟨hviq, hpc, hpart⟩ := deliver_keepsPlace (h.taken [s1, s3]) d u es
  rw [← show saturatedBy es = false from saturatedBy_eq_false fun _ => eltDequant_sat ..]
  refine exec_of_effect (u := { pred := p, srcs := [(0, s1), (2, s3)], dst := some d, unit := .qnt, scal2 := some c, vform := true })
    hsrc hs rfl rfl rfl (sqs_room rfl hroom) (vf := none) (part := []) ?_ hviq hpc hpart
  rw [dequantise, readSource_names (by simp) ha, readSource_names (by simp) hb]
  dsimp only
  rw [hat, hbt, overCapacity_lone hcu, overCapacity_lone hq, scal2_lone h _ rfl]
  exact elementwise_lone _ rfl hsrc hlt hcu (by simpa [hat] using ⟨hq, hn8⟩) (by simp [hpa, hpb]) (vfirst_of_mayResume hm)

/-! ### UTF-8 (R205, R206) -/

theorem length_utf8Run (st : List Nat × Bool) (bs : List Nat) : (utf8Run st bs).1.length = bs.length := by
  induction bs generalizing st with
  | nil => rfl
  | cons b bs ih => exact congrArg (· + 1) (ih _)

section
variable {h : Hart} (hlt : h.vfirst < h.vlen) (h0 : h.vfirst = 0) (i : Instr) {u : VUse} {s1 : VSrc} (hn : u.names = [s1]) (d : VDst) (r : Reg)
  {a st : VSource} (ha : h.operand s1 = some a) (hpa : a.poison = []) (hst : VSource.ofReg h.anchor.vregs[r] = some st) (hps : st.poison = [])
  (hat : a.ty = .n8) (hstt : st.ty = .n32) (hcap : h.vlen ≤ capacity h.cls .n8) (hcap32 : h.vlen ≤ capacity h.cls .n32)
include hlt h0 hn ha hpa hst hps hat hstt hcap hcap32

/-- The hart after `VUTF8`: an element for each byte, and the carry. -/
abbrev Hart.decoded (h : Hart) (d : VDst) (s1 : VSrc) (r : Reg) (a st : VSource) : Hart :=
  let run := utf8Run (utf8Carry (st.get 0).toNat) ((List.range h.vlen).map fun e => (a.get e).toNat % 256)
  ((h.taken [s1]).deliver d .n32 (run.1.map fun o => some (.quiet (BitVec.ofNat 64 o)))).deliver (.reg r) .n32
    [some (.quiet (BitVec.ofNat 64 (utf8Pack run.2.1)))]

theorem decodeUtf8_lone : decodeUtf8 d s1 r (ctxOf h i u) (popped h u) = .done (h.decoded d s1 r a st) none 0 false [] false := by
  have hsrc : ∀ x ∈ [s1], (h.operand x).isSome = true := by simp [ha]
  have hinside : (ctxOf h i u).startsInside = false :=
    Bool.and_eq_false_iff.2 (.inl (decide_eq_false (by rw [show (ctxOf h i u).vstart = 0 from h0]; exact lt_irrefl 0)))
  have hfind : (List.range (ctxOf h i u).limit).find? (a.poison.contains ·) = none := by simp [hpa]
  have hcarry : (st.poison.contains 0 && decide (0 < (ctxOf h i u).limit)) = false := by simp [hps]
  have hwrite := writeDst_lone h (h.taken [s1]) i u d .n32
    (es := (utf8Run (utf8Carry (st.get 0).toNat) ((List.range h.vlen).map fun e => (a.get e).toNat % 256)).1.map fun o =>
      some (.quiet (BitVec.ofNat 64 o)))
    (by rw [List.length_map, length_utf8Run, List.length_map, List.length_range])
  rw [List.map_map] at hwrite
  rw [decodeUtf8, readSource_lone i hn ha, show VSource.ofReg (popped h u).anchor.vregs[r] = some st from hst]
  dsimp only
  rw [hat, hstt, overCapacity_lone hcap, overCapacity_lone hcap32, performsNothing_lone hlt, hinside, hfind, hcarry, popQueues_lone i hn hsrc]
  exact congrArg (fun w : Hart × List Word => VRes.done (w.1.deliver (.reg r) .n32 [some (.quiet (BitVec.ofNat 64 (utf8Pack
    (utf8Run (utf8Carry (st.get 0).toNat) ((List.range h.vlen).map fun e => (a.get e).toNat % 256)).2.1)))]) none 0 false [] false) hwrite

omit hn in
theorem exec_vutf8 {s : State} (hs : s.performs h) (j uc : Bool) (hroom : h.hasRoom d) :
    exec (.vutf8 j d s1 r uc) s = vectorOutcome s (h.decoded d s1 r a st) 0 false := by
  have hsrc : ∀ x ∈ [s1], (h.operand x).isSome = true := by simp [ha]
  let u : VUse := { pred := ⟨j, none, false⟩, srcs := [(0, s1)], dst := some d, vreads := [r], vwrites := [r], unit := .qnt, vform := true }
  obtain ⟨hviq, hpc, hpart⟩ := (deliver_keepsPlace (h.taken [s1]) d .n32 _).trans (deliver_keepsPlace _ (.reg r) .n32 _)
  exact exec_of_effect (u := u) hsrc hs rfl rfl rfl (sqs_room rfl hroom)
    (decodeUtf8_lone hlt h0 _ rfl d r ha hpa hst hps hat hstt hcap hcap32) hviq hpc hpart

end

/-! ### Rounding to the narrow format (R84 to R86, R201) -/

/-- The largest magnitude of a block's picked elements below vl that are no NaN (R84). -/
abbrev Hart.pickedMax (h : Hart) (sel : MaskSel) (a : VSource) (k b : Nat) : Nat :=
  (List.range 64).foldl (fun mx i =>
    if (decide (64 * b + i < h.vlen) && h.picks sel (64 * b + i)) = true ∧ (fDecode .f32 (a.get (64 * b + i)).toNat).isNan = false then
      max mx ((prescale (a.get (64 * b + i)) k).1 % 2 ^ 31) else mx) 0

/-- The scale of a block, and whether its maximum lies above the superblock's scale m·2^e (R84). -/
abbrev Hart.scaleOf (h : Hart) (sel : MaskSel) (a : VSource) (k m : Nat) (e : Int) (b : Nat) : Nat × Bool := blockScale (h.pickedMax sel a k b) m e

/-- The chain over the blocks: a step for each picked element from vstart below vl, pad codes at or above vl (R84, R193). -/
abbrev Hart.chained (h : Hart) (p : Pred) (a : VSource) (k m : Nat) (e : Int) : QuantChain :=
  (List.range (64 * ((h.vlen + 63) / 64))).foldl (fun (q : QuantChain) i =>
    if i < h.vfirst then { q with codes := q.codes ++ [none] }
    else if h.vlen ≤ i then { q with codes := q.codes ++ [some 15] }
    else if (decide (i < h.vlen) && h.picks p.sel i) = true then quantStep k m e (h.scaleOf p.sel a k m e (i / 64)).1 (a.get i) q
    else { q with codes := q.codes ++ [if p.z then some 7 else none] }) ⟨[], h.anchor.efc.toNat, 0, false⟩

/-- The hart after `VQCVT`: codes, block scales, the carry. -/
abbrev Hart.quantised (h : Hart) (p : Pred) (d : VDst) (s1 : VSrc) (r : Reg) (a : VSource) (k m : Nat) (e : Int) : Hart :=
  let g := ((h.taken [s1]).deliver d .qn4 ((h.chained p a k m e).codes.map (Option.map Elt.quiet))).deliver (.reg r) .n8
    ((List.range ((h.vlen + 63) / 64)).map fun b => some (.quiet (BitVec.ofNat 64 (h.scaleOf p.sel a k m e b).1)))
  { g with anchor := { g.anchor with efc := BitVec.ofNat 64 (h.chained p a k m e).carry } }

theorem any_congr_mem {α : Type} {l : List α} {f g : α → Bool} (h : ∀ x ∈ l, f x = g x) : l.any f = l.any g := by
  rw [Bool.eq_iff_iff, List.any_eq_true, List.any_eq_true]
  exact exists_congr fun x => and_congr_right fun hx => by rw [h x hx]

theorem length_quantStep (k m : Nat) (e : Int) (sc : Nat) (x : Word) (q : QuantChain) :
    (quantStep k m e sc x q).codes.length = q.codes.length + 1 := by
  unfold quantStep
  split
  · simp
  · dsimp only
    split <;> simp

/-- Each element of a chain gives one code. -/
theorem length_codes {step : QuantChain → Nat → QuantChain} (hstep : ∀ q i, (step q i).codes.length = q.codes.length + 1) (l : List Nat)
    (q : QuantChain) : (l.foldl step q).codes.length = q.codes.length + l.length := by
  induction l generalizing q with
  | nil => rfl
  | cons i l ih => rw [List.foldl_cons, ih, hstep, List.length_cons, Nat.add_assoc, Nat.add_comm 1]

theorem length_chained (h : Hart) (p : Pred) (a : VSource) (k m : Nat) (e : Int) :
    (h.chained p a k m e).codes.length = 64 * ((h.vlen + 63) / 64) := by
  refine (length_codes (fun q i => ?_) _ _).trans (by simp)
  split
  · simp
  · split
    · simp
    · split
      · exact length_quantStep ..
      · simp

theorem getD_map_range {α : Type} (f : Nat → α) (x : α) {n j : Nat} (hj : j < n) : ((List.range n).map f).getD j x = f j := by
  simp [List.getD, hj]

/-- The chain goes by the scales of its blocks, taken from a list of them. -/
theorem chained_eq (h : Hart) (p : Pred) (a : VSource) (k m : Nat) (e : Int) (x : Nat × Bool) :
    (List.range (64 * ((h.vlen + 63) / 64))).foldl (fun (q : QuantChain) i =>
      if i < h.vfirst then { q with codes := q.codes ++ [none] }
      else if h.vlen ≤ i then { q with codes := q.codes ++ [some 15] }
      else if (!h.picks p.sel i) = true then { q with codes := q.codes ++ [if p.z = true then some 7 else none] }
      else quantStep k m e (((List.range ((h.vlen + 63) / 64)).map (h.scaleOf p.sel a k m e)).getD (i / 64) x).1 (a.get i) q)
      ⟨[], h.anchor.efc.toNat, 0, false⟩ = h.chained p a k m e := by
  refine List.foldl_ext _ _ _ fun q i hi => ?_
  have hblock : i / 64 < (h.vlen + 63) / 64 := by
    rw [List.mem_range] at hi
    omega
  rw [getD_map_range _ _ hblock]
  by_cases hvl : h.vlen ≤ i
  · simp [hvl]
  · cases h.picks p.sel i <;> simp [hvl, Nat.not_le.1 hvl]

theorem map_bits_quiet (codes : Written) : (codes.map (Option.map Elt.quiet)).map (Option.map Elt.bits) = codes := by
  rw [List.map_map]
  refine (List.map_congr_left fun c _ => ?_).trans (List.map_id _)
  cases c <;> rfl

section
variable {h : Hart} (hlt : h.vfirst < h.vlen) (i : Instr) {u : VUse} {s1 : VSrc} (hn : u.names = [s1]) (p : Pred) (d : VDst) (r c : Reg) (k : Nat)
  {a : VSource} {m : Nat} {e : Int} (ha : h.operand s1 = some a) (hpa : a.poison = []) (hc : u.scal2 = some c)
  (hscale : posScale (h.reg .anchor c) = some (m, e)) (hs1 : ∀ x z, s1 = .reg x z → x ≠ r ∧ d ≠ .reg x) (hat : a.ty = .f32)
  (hcap : h.vlen ≤ capacity h.cls .f32) (hcapq : h.vlen ≤ capacity h.cls .qn4) (hcap8 : h.vlen ≤ capacity h.cls .n8)

theorem blockMax_lone (b : Nat) : blockMax (ctxOf h i u) (popped h u) p.sel a k b = h.pickedMax p.sel a k b := by
  simp only [blockMax, Hart.pickedMax, maskBit_lone, Bool.and_eq_true, Bool.not_eq_true', vl_lone]
  rfl

include hpa in
theorem quantPoison_clean (g : Hart) (x : VCtx) (sel : MaskSel) : quantPoison x g sel a = none := by simp [quantPoison, hpa]

include hs1 in
/-- No source is written. -/
theorem quantise_not_whole : (retypesSource d .qn4 [s1] [a] || retypesSource (.reg r) .n8 [s1] [a]) = false := by
  cases s1 with
  | lq _ | vf => cases d <;> rfl
  | reg x z =>
    obtain ⟨hxr, hdx⟩ := hs1 x z rfl
    cases d with
    | sq _ => simp [retypesSource, hxr]
    | reg y =>
      have hxy : x ≠ y := fun h => hdx (h ▸ rfl)
      simp [retypesSource, hxr, hxy]

include hlt hn ha hpa hc hscale hs1 hat hcap hcapq hcap8

theorem quantise_lone : quantise p d s1 r k (ctxOf h i u) (popped h u) = .done (h.quantised p d s1 r a k m e) none (h.chained p a k m e).flags
    ((h.chained p a k m e).sat || ((List.range h.vlen).any (h.acts p.sel) &&
      (List.range ((h.vlen + 63) / 64)).any fun b => (h.scaleOf p.sel a k m e b).2)) [] false := by
  have hsrc : ∀ x ∈ [s1], (h.operand x).isSome = true := by simp [ha]
  have hstop : quantStop (ctxOf h i u) (popped h u) p.sel false a = none := by rw [quantStop, quantPoison_clean hpa]; rfl
  rw [quantise, readSource_lone i hn ha]
  have hscales : ((List.range ((h.vlen + 63) / 64)).map fun j => some (BitVec.ofNat 64
      (((List.range ((h.vlen + 63) / 64)).map (h.scaleOf p.sel a k m e)).getD j (0, false)).1)) =
      ((List.range ((h.vlen + 63) / 64)).map fun b =>
        some (Elt.quiet (BitVec.ofNat 64 (h.scaleOf p.sel a k m e b).1))).map (Option.map Elt.bits) := by
    rw [List.map_map]
    refine List.map_congr_left fun j hj => ?_
    rw [getD_map_range _ _ (List.mem_range.1 hj)]
    rfl
  have hactive : ((List.range h.vlen).any fun j => decide (h.vfirst ≤ j) && h.picks p.sel j) = (List.range h.vlen).any (h.acts p.sel) :=
    any_congr_mem fun j hj => by simp [Hart.acts, List.mem_range.1 hj]
  have hover : ((((List.range ((h.vlen + 63) / 64)).map (h.scaleOf p.sel a k m e)).take ((h.vlen + 63) / 64)).any fun x => x.2) =
      (List.range ((h.vlen + 63) / 64)).any fun b => (h.scaleOf p.sel a k m e b).2 := by
    rw [List.take_of_length_le (by simp), List.any_map]
    rfl
  have hrow := written_row (ctxOf h i u) .qn4 rfl _ ((h.chained p a k m e).codes.map (Option.map Elt.quiet))
    ((List.length_map _).trans (length_chained h p a k m e))
  have hcodes := map_bits_quiet (h.chained p a k m e).codes
  rw [hcodes] at hrow
  rw [← hactive]
  refine (if_neg (not_not.2 hat)).trans ?_
  simp only [overCapacity_lone hcap, overCapacity_lone hcapq, overCapacity_lone hcap8, performsNothing_lone hlt, Bool.or_false, Bool.false_eq_true,
    if_false, quantise_not_whole d r hs1, Bool.false_and, hstop, quantPoison_clean hpa, popIfDone_lone i hn hsrc, scal2_lone h i hc, hscale,
    blockMax_lone, maskBit_lone, vl_lone, stop_lone, vstart_lone, chained_eq, hscales, hover, hrow]
  cases d with
  | reg y =>
    simp only [Hart.quantised, Hart.deliver, hcodes]
    rfl
  | sq q => rfl

omit hn hc in
theorem exec_vqcvt {s : State} (hs : s.performs h) (k : Fin 32) (hroom : h.hasRoom d) :
    exec (.vqcvt p d s1 c r k) s = vectorOutcome s (h.quantised p d s1 r a k m e) (h.chained p a k m e).flags
      ((h.chained p a k m e).sat || ((List.range h.vlen).any (h.acts p.sel) &&
        (List.range ((h.vlen + 63) / 64)).any fun b => (h.scaleOf p.sel a k m e b).2)) := by
  have hsrc : ∀ x ∈ [s1], (h.operand x).isSome = true := by simp [ha]
  let u : VUse := { pred := p, srcs := [(0, s1)], dst := some d, vwrites := [r], unit := .qnt, scal2 := some c, vform := true }
  obtain ⟨hviq, hpc, hpart⟩ := (deliver_keepsPlace (h.taken [s1]) d .qn4 ((h.chained p a k m e).codes.map (Option.map Elt.quiet))).trans
    (deliver_keepsPlace _ (.reg r) .n8 ((List.range ((h.vlen + 63) / 64)).map fun b =>
      some (.quiet (BitVec.ofNat 64 (h.scaleOf p.sel a k m e b).1))))
  exact exec_of_effect (u := u) hsrc hs rfl rfl rfl (sqs_room rfl hroom)
    (quantise_lone hlt _ rfl p d r c k ha hpa rfl hscale hs1 hat hcap hcapq hcap8) hviq hpc hpart

end

/-- Settles O30: each instruction by its effect on the hart as it runs alone, with no poison met and nothing refused. -/
theorem narrowButterflyRandomText : Obligations.NarrowButterflyRandomText := by
  intro s h j p d s1 s3 r c u lg k uc hs hroom hlt
  refine ⟨exec_vrand hs hlt p hroom, fun a ha hpa => ⟨fun hty hcap => ⟨exec_vbfly hs hlt ha hpa hty hcap p lg hroom,
    exec_vbflyF hs hlt ha hpa hty hcap j lg⟩, fun b hb hpb hat hbt _ hq hn8 hcu hm => ?_, fun st hst hps hat hstt hcap hcap32 h0 => ?_,
    fun m e hscale _ hs1 hat hcap hcapq hcap8 => ?_⟩⟩
  · exact exec_vdq hs hlt p c hroom ha hpa hb hpb hat hbt hq hn8 hcu hm
  · exact exec_vutf8 hlt h0 d r ha hpa hst hps hat hstt hcap hcap32 hs j uc hroom
  · exact exec_vqcvt hlt p d r c ha hpa hscale hs1 hat hcap hcapq hcap8 hs k hroom

end Sys2Proof.Machine
end

section
/-! PROOFS. The reproducible accumulator: exact sums in its bins, and `RSADD` and `RSFIN` at the home (R95, R96, R98, R101, R236). -/
namespace Sys2Proof.Machine

open Sys2Proof

/-! ### Bins and their value (R95, R96) -/

@[simp] theorem Accumulator.mark_value (a : Accumulator) (f : BitVec 6) : (a.mark f).value = a.value := rfl

theorem Accumulator.withValue_value (a : Accumulator) (v : Int) : (a.withValue v).value = v := by
  simp only [Accumulator.value, Accumulator.withValue]; omega

/-- A number below 2^120 with a sign, cut into three parts of 40 bits. -/
theorem signedOf_parts (neg : Bool) {m : Nat} (hm : m < 2 ^ 120) :
    signedOf neg (m % 2 ^ 40) + signedOf neg (m / 2 ^ 40 % 2 ^ 40) * 2 ^ 40 + signedOf neg (m / 2 ^ 80 % 2 ^ 40) * 2 ^ 80 = signedOf neg m := by
  cases neg <;> simp only [signedOf, if_true, if_false, Bool.false_eq_true] <;> omega

/-- Adding to the bins adds to V, whether or not the unit renormalises first. -/
theorem Accumulator.addBins_value (a : Accumulator) (neg : Bool) {m : Nat} (hm : m < 2 ^ 120) :
    (a.addBins neg m).value = a.value + signedOf neg m := by
  have hparts := signedOf_parts neg hm
  have hren := a.renormalise_value
  simp only [Accumulator.value] at hren
  unfold Accumulator.addBins
  dsimp only
  split_ifs
  · simp only [Accumulator.value]; linarith
  · simp only [Accumulator.value]; linarith
  · exact a.withValue_value _

/-- Renormalised, an accumulator whose V is in its range has every bin in its own. -/
theorem Accumulator.renormalise_bins {a : Accumulator} (hlo : -(2 ^ 143) ≤ a.value) (hhi : a.value < 2 ^ 143) :
    0 ≤ a.renormalise.bin0 ∧ a.renormalise.bin0 < 2 ^ 40 ∧ 0 ≤ a.renormalise.bin1 ∧ a.renormalise.bin1 < 2 ^ 40 ∧
      -(2 ^ 63) ≤ a.renormalise.bin2 ∧ a.renormalise.bin2 < 2 ^ 63 := by
  have htop : fits64 (a.bin2 + (a.bin1 + a.bin0 / 2 ^ 40) / 2 ^ 40) = true := by
    rw [fits64_iff]
    simp only [Accumulator.value] at hlo hhi
    omega
  obtain ⟨htlo, hthi⟩ := fits64_iff.1 htop
  unfold Accumulator.renormalise
  simp only [htop, if_true]
  refine ⟨?_, ?_, ?_, ?_, htlo, hthi⟩ <;> omega

/-! ### Adding an F32 (R96) -/

/-- A multiple of the unit, moved onto the unit by its exponent. -/
theorem shifted_of_multiple {m n : Nat} {e u : Int} (h : (m : Rat) * 2 ^ e = (n : Rat) * 2 ^ u) :
    m * 2 ^ (e - u).toNat = n * 2 ^ (-(e - u)).toNat := by
  have hexp : ((e - u).toNat : Int) - (-(e - u)).toNat = e - u := Int.toNat_sub_toNat_neg _
  have hrat : (m : Rat) * 2 ^ (e - u).toNat = n * 2 ^ (-(e - u)).toNat := calc
    (m : Rat) * 2 ^ (e - u).toNat = m * 2 ^ e * 2 ^ (((e - u).toNat : Int) - e) := by
      rw [mul_assoc, ← zpow_add₀ two_ne_zero, add_sub_cancel, zpow_natCast]
    _ = n * 2 ^ (-(e - u)).toNat := by
      rw [h, mul_assoc, ← zpow_add₀ two_ne_zero, ← zpow_natCast]
      congr 2
      omega
  exact_mod_cast hrat

/-- Adding a multiple of the accumulator's unit below the range of one addend changes V by exactly that multiple. -/
theorem Accumulator.add_fin_value {a : Accumulator} (hb : a.b ≤ 8) (neg : Bool) {m n : Nat} {e : Int}
    (h : (m : Rat) * 2 ^ e = (n : Rat) * 2 ^ (40 * (a.b : Int) - 200)) (hn : n < 2 ^ 120) :
    (a.add (.fin neg m e)).value = a.value + signedOf neg n := by
  have hshift := shifted_of_multiple h
  have hq : m * 2 ^ (e - (40 * (a.b : Int) - 200)).toNat / 2 ^ (-(e - (40 * (a.b : Int) - 200))).toNat = n := by
    rw [hshift, Nat.mul_div_cancel _ (by positivity)]
  have hadd : a.add (.fin neg m e) =
      if -(2 ^ 143) ≤ (a.addBins neg n).value ∧ (a.addBins neg n).value < 2 ^ 143 then a.addBins neg n
      else (a.addBins neg n).mark accOvf := by
    simp only [Accumulator.add, hq, if_neg hb.not_gt, if_neg hn.not_ge, if_pos hshift.symm]
  rw [hadd, apply_ite Accumulator.value, mark_value, ite_self, a.addBins_value neg hn]

theorem Accumulator.add_zero {a : Accumulator} (hb : a.b ≤ 8) (neg : Bool) : a.add (.zero neg) = a := if_neg hb.not_gt

/-! ### States that differ in their caches and in the order of `RSADD`s -/

/-- t is s but for what its caches hold and for which `RSADD`s come before what. -/
abbrev State.sameButOrder (s t : State) : Prop :=
  { t with tlb := s.tlb, walkCache := s.walkCache, nbconf := s.nbconf, farCache := s.farCache, l1 := s.l1, accOrder := s.accOrder } = s

theorem State.sameButOrder.trans {s t u : State} (hst : s.sameButOrder t) (htu : t.sameButOrder u) : s.sameButOrder u :=
  (congrArg (fun x : State =>
    { x with tlb := s.tlb, walkCache := s.walkCache, nbconf := s.nbconf, farCache := s.farCache, l1 := s.l1, accOrder := s.accOrder })
    htu).trans hst

theorem State.sameButCaches.order {s t : State} (h : s.sameButCaches t) : s.sameButOrder t :=
  (congrArg (fun x : State => { x with l1 := s.l1, accOrder := s.accOrder }) h :)

theorem State.sameButLines.order {s t : State} (h : s.sameButLines t) : s.sameButOrder t :=
  (congrArg (fun x : State =>
    { x with tlb := s.tlb, walkCache := s.walkCache, nbconf := s.nbconf, accOrder := s.accOrder }) h :)

section
variable {s t : State} (h : s.sameButOrder t)
include h
theorem State.sameButOrder.mem : t.mem = s.mem := (congrArg State.mem h :)
theorem State.sameButOrder.harts : t.harts = s.harts := (congrArg State.harts h :)
theorem State.sameButOrder.parts : t.parts = s.parts := (congrArg State.parts h :)
theorem State.sameButOrder.poison : t.poison = s.poison := (congrArg State.poison h :)
theorem State.sameButOrder.mgmt : t.mgmt = s.mgmt := (congrArg State.mgmt h :)
theorem State.sameButOrder.accs : t.accs = s.accs := (congrArg State.accs h :)

theorem State.sameButOrder.torn (loc : Nat) : accTorn t loc = accTorn s loc := by rw [accTorn, accAt, h.accs]; rfl
end

/-- t is s but for which `RSADD`s come before what. -/
abbrev State.sameButAdds (s t : State) : Prop := { t with accOrder := s.accOrder } = s

section
variable {s t : State} (h : s.sameButAdds t)
include h
theorem State.sameButAdds.order : s.sameButOrder t :=
  (congrArg (fun x : State =>
    { x with tlb := s.tlb, walkCache := s.walkCache, nbconf := s.nbconf, farCache := s.farCache, l1 := s.l1 }) h :)
theorem State.sameButAdds.l1 : t.l1 = s.l1 := (congrArg State.l1 h :)
end

theorem seeAdds_sameButAdds (s : State) (i : Nat) (side : Side) (ids : List Nat) : s.sameButAdds (seeAdds s i side ids) := by
  unfold seeAdds; split <;> rfl

theorem giveAdds_sameButAdds (s : State) (x : Nat) (sc : Scope) (loc n : Nat) : s.sameButAdds (giveAdds s x sc loc n) := by
  unfold giveAdds; dsimp only; split <;> rfl

theorem meetAdds_sameButAdds (s : State) (x loc : Nat) : s.sameButAdds (meetAdds s x loc) := seeAdds_sameButAdds ..

theorem noteRelease_sameButAdds (s : State) (x : Nat) (o : MemOrder) (loc n : Nat) : s.sameButAdds (noteRelease s x o loc n) := by
  unfold noteRelease; split
  · exact giveAdds_sameButAdds ..
  · rfl

theorem noteAcquire_sameButAdds (s : State) (x : Nat) (o : MemOrder) (loc n : Nat) : s.sameButAdds (noteAcquire s x o loc n) := by
  unfold noteAcquire; split
  · exact seeAdds_sameButAdds ..
  · rfl

/-! ### A hart with nothing of its scalar side on its way -/

/-- Hart h of index x has no store on its way, and its core no dirty line. -/
structure State.scalarQuiet (s : State) (x : Nat) (h : Hart) : Prop where
  there : s.harts[x]? = some h
  stores : h.pacer.stores = []
  clean : ∀ l ∈ s.l1, l.core = h.core → l.dirty = []

theorem State.scalarQuiet.of_eq {s t : State} {x : Nat} {h : Hart} (hq : s.scalarQuiet x h) (hharts : t.harts = s.harts) (hl1 : t.l1 = s.l1) :
    t.scalarQuiet x h :=
  ⟨hharts ▸ hq.there, hq.stores, hl1 ▸ hq.clean⟩

section
variable {s : State} {x : Nat} {h : Hart} (hq : s.scalarQuiet x h)
include hq

/-- A release then has nothing to perform and nothing to write back (R107, R327). -/
theorem releaseFor_quiet (o : MemOrder) : releaseFor s x h.core o = s := by
  have hlines : l1Lines s h.core (fun l => !l.dirty.isEmpty) = [] := by
    refine List.map_eq_nil_iff.2 (List.filter_eq_nil_iff.2 fun l hl hp => ?_)
    rw [Bool.and_eq_true, beq_iff_eq] at hp
    simp [hq.clean l hl hp.1] at hp
  unfold releaseFor releaseAt cacheRelease
  split
  · rw [drainStores_none hq.there hq.stores, l1CleanAll, hlines, List.foldl_nil, ite_self]
  · rfl

/-- Before an access at the home only the core's copy of the line goes (R235). -/
theorem dropForHome_quiet (loc n : Nat) : dropForHome s x h.core loc n = l1Drop s h.core (lineOf loc) := by
  have hclean : ∀ l, l1Hit s h.core (lineOf loc) = some l → l.dirty = [] := fun l hl => by
    have hfound := List.find?_some hl
    rw [Bool.and_eq_true, beq_iff_eq] at hfound
    exact hq.clean l (List.mem_of_find?_eq_some hl) hfound.1
  rw [dropForHome, settleSide, drainStores_none hq.there hq.stores, l1CleanDrop, l1Clean_clean _ _ hclean]

/-- Bytes that are not poison are read as they stand at their home. -/
theorem readForHome_quiet {loc n : Nat} (hp : ∀ p ∈ s.poison, p < loc ∨ loc + n ≤ p) :
    ∃ t : State, readForHome s x h.core loc n = (t, Memory.readAll s.mem loc n, false) ∧ s.sameButOrder t := by
  have hclean : (homeRead (l1Drop s h.core (lineOf loc)) loc n).2 = false := by
    rw [Bool.eq_false_iff, Ne, homeRead_poison]
    rintro ⟨p, hmem, h1, h2⟩
    rcases hp p hmem with h3 | h3 <;> omega
  refine ⟨farRefresh (l1Drop s h.core (lineOf loc)) (coreDie h.core) loc n, ?_, rfl⟩
  unfold readForHome
  rw [dropForHome_quiet hq]
  simp only [hclean]
  rfl

end

/-- Nothing fenced keeps an access at the home waiting (R130). -/
theorem homeWaits_none {s : State} (hrec : s.mgmt.recoveries = []) (h : Hart) (o : MemOrder) : homeWaits s h o = false := by
  simp [homeWaits, releaseWaits, scalarSettles, dirtyFenced_none hrec, storesFenced_none hrec]

/-- An accumulator's 32 bytes in far memory, aligned and reached. -/
theorem accAccess_ok {s : State} {h : Hart} {k : AccessKind} {va : Word} {loc : Nat} {cached : Bool} (hrec : s.mgmt.recoveries = [])
    (hal : va.toNat % 32 = 0) (hloc : loc < 2 ^ 52) (ht : translate s h.core h.part va k false = .ok (loc, cached)) (x : Nat)
    (decline : BitVec 8) (go : State → Nat → Out) :
    accAccess s x h decline k va go = go (noteTlb s h.core h.part va) loc := by
  have hfar : (regionOf loc == .far) = true := by rw [regionOf, if_pos hloc]; rfl
  rw [accAccess, scalarAccess_ok s x h decline k va 32 loc cached _ hal ht (accessFenced_none hrec ..)]
  simp only [hfar, if_true]

/-- An accumulator whose BIN2 can hold its sum is stored at its home; no hart changes. -/
theorem accStore_fits {a : Accumulator} (hfits : fits64 a.bin2 = true) (s : State) (die loc : Nat) (old : List Byte) :
    (accStore s die loc a old).mem = Memory.writeAll s.mem loc (a.toBytes old) ∧ (accStore s die loc a old).harts = s.harts := by
  unfold accStore
  simp only [hfits, if_true]
  exact ⟨rfl, rfl⟩

/-- The translation that an access used is noted; all else the access finds as it was. -/
theorem noteTlb_quiet {s : State} {x : Nat} {h : Hart} (hq : s.scalarQuiet x h) (core : Nat) (p : Fin 8) (va : Word) :
    (noteTlb s core p va).scalarQuiet x h :=
  hq.of_eq (noteTlb_sameButCaches s core p va).harts (congrArg State.l1 (noteTlb_sameButCaches s core p va) :)

theorem State.sameButAdds.quiet {s t : State} {x : Nat} {h : Hart} (hst : s.sameButAdds t) (hq : s.scalarQuiet x h) : t.scalarQuiet x h :=
  hq.of_eq hst.order.harts hst.l1

/-- What an access with an order does to the caches of its core, if it acquires (R107, R108, R327). -/
def acquiredBy (o : MemOrder) (core : Nat) (s : State) : State :=
  match acqScope o with
  | some sc => cacheAcquire s core sc
  | none => s

theorem acquiredBy_sameButOrder (o : MemOrder) (core : Nat) (s : State) : s.sameButOrder (acquiredBy o core s) := by
  unfold acquiredBy
  split
  · exact (cacheAcquire_sameButLines ..).order
  · rfl

theorem asScalar_harts (s : State) (core : Nat) (ws : List Nat) (f : State → State) : (asScalar s core ws f).harts = (f s).harts := rfl

theorem arithCheck_untrapped {s : State} {part : Fin 8} {f : Flags} (hf : s.parts[part].fptrap &&& f.setWidth 64 = 0) (i : Nat) (t : Thread)
    (iaddr : Word) : arithCheck s i part t f iaddr = s := by
  rw [arithCheck, arithTraps, hf]
  rfl

/-! ### `RSADD` and `RSFIN` (R96, R98, R236) -/

section
variable {s : State} {h : Hart} {d s1 : Reg} {ord : MemOrder} {off : BitVec 32} {va : Word} {loc : Nat} {cached : Bool}
  (hva : scalarVa h s1 off = va) (hr : s.runs h .pacer) (hrec : s.mgmt.recoveries = []) (hal : va.toNat % 32 = 0) (hloc : loc < 2 ^ 52)
  (hq : s.scalarQuiet s.cur.hart h) (hp : ∀ p ∈ s.poison, p < loc ∨ loc + 32 ≤ p) (htorn : accTorn s loc = false)
include hva hr hrec hal hloc hq hp htorn

/-- The state `RSADD` finds once it has read the 32 bytes, and what it makes of it. -/
theorem rsadd_next (ht : translate s h.core h.part va .atomic false = .ok (loc, cached)) :
    ∃ t : State, s.sameButOrder t ∧ exec (.rsadd d s1 ord off) s =
      let old := Memory.readAll s.mem loc 32
      let new := (Accumulator.ofBytes old).add (fDecode .f32 ((h.reg .pacer d).toNat % 2 ^ 32))
      .next (modHart (meetAdds (asScalar t h.core (wordNumbers loc 32) fun u => accStore u (coreDie h.core) loc new old) s.cur.hart loc)
        s.cur.hart fun g => g.advance .pacer) := by
  have htlb := (noteTlb_sameButCaches s h.core h.part va).order
  have hqt := noteTlb_quiet hq h.core h.part va
  have hnote := noteRelease_sameButAdds (noteTlb s h.core h.part va) s.cur.hart ord loc 32
  obtain ⟨t, hread, hst⟩ := readForHome_quiet (hnote.quiet hqt) (loc := loc) (n := 32) (by rwa [hnote.order.poison, htlb.poison])
  have hall := htlb.trans (hnote.order.trans hst)
  refine ⟨t, hall, ?_⟩
  have hexec : exec (.rsadd d s1 ord off) s = accAdd d s1 ord off s := rfl
  rw [hexec, accAdd, runs_pacer hr]
  dsimp only
  rw [hva, accAccess_ok hrec hal hloc ht]
  rw [homeWaits_none (by rwa [htlb.mgmt]), releaseFor_quiet hqt, hread, hnote.order.mem, htlb.mem]
  simp only [hall.torn, htorn, Bool.false_eq_true, if_false]

/-- The state that `RSFIN` leaves, but for the result: memory, harts and partitions as they were. -/
theorem rsfin_next (ht : translate s h.core h.part va .load false = .ok (loc, cached)) :
    ∃ t : State, s.sameButOrder t ∧ exec (.rsfin d s1 ord off) s =
      let r := (Accumulator.ofBytes (Memory.readAll s.mem loc 32)).result
      .next (arithCheck (modHart t s.cur.hart fun g => ((g.setReg .pacer d (BitVec.ofNat 64 r.1)).raise .pacer r.2).advance .pacer)
        s.cur.hart h.part .pacer r.2 (h.th .pacer).pc) := by
  have htlb := (noteTlb_sameButCaches s h.core h.part va).order
  have hqt := noteTlb_quiet hq h.core h.part va
  have hnote := noteAcquire_sameButAdds (noteTlb s h.core h.part va) s.cur.hart ord loc 32
  obtain ⟨t, hread, hst⟩ := readForHome_quiet (hnote.quiet hqt) (loc := loc) (n := 32) (by rwa [hnote.order.poison, htlb.poison])
  have hmet := meetAdds_sameButAdds t s.cur.hart loc
  have hacq := acquiredBy_sameButOrder ord h.core (meetAdds t s.cur.hart loc)
  have hall := htlb.trans (hnote.order.trans (hst.trans (hmet.order.trans hacq)))
  refine ⟨_, hall, ?_⟩
  have hexec : exec (.rsfin d s1 ord off) s = accFinish d s1 ord off s := rfl
  rw [hexec, accFinish, runs_pacer hr]
  dsimp only
  rw [hva, accAccess_ok hrec hal hloc ht]
  rw [homeWaits_none (by rwa [htlb.mgmt]), hread, hnote.order.mem, htlb.mem]
  cases hsc : acqScope ord <;> simp only [acquiredBy, hsc] at hall ⊢ <;> simp only [hall.torn, htorn, Bool.false_eq_true, if_false]

/-- `RSADD` updates the 32 bytes as one and goes on. -/
theorem rsadd_updates (ht : translate s h.core h.part va .atomic false = .ok (loc, cached))
    (hfits : ((Accumulator.ofBytes (Memory.readAll s.mem loc 32)).add (fDecode .f32 ((h.reg .pacer d).toNat % 2 ^ 32))).fits = true) :
    ∃ t : State, exec (.rsadd d s1 ord off) s = .next t ∧ t.harts = s.harts.set s.cur.hart (h.advance .pacer) ∧
      t.mem = Memory.writeAll s.mem loc (((Accumulator.ofBytes (Memory.readAll s.mem loc 32)).add
        (fDecode .f32 ((h.reg .pacer d).toNat % 2 ^ 32))).toBytes (Memory.readAll s.mem loc 32)) := by
  obtain ⟨t, hst, hexec⟩ := rsadd_next (d := d) (ord := ord) hva hr hrec hal hloc hq hp htorn ht
  have hbin2 := (Bool.and_eq_true_iff.1 hfits).2
  refine ⟨_, hexec, ?_, ?_⟩
  · rw [modHart_harts, (meetAdds_sameButAdds ..).order.harts, asScalar_harts, (accStore_fits hbin2 ..).2, hst.harts, modify_of_getElem? hq.there]
  · rw [modHart_mem, (meetAdds_sameButAdds ..).order.mem, asScalar_mem, (accStore_fits hbin2 ..).1, hst.mem]

/-- `RSFIN` whose flags raise no trap writes d, ORs the flags, changes no memory and goes on. -/
theorem rsfin_reads (ht : translate s h.core h.part va .load false = .ok (loc, cached))
    (htrap : s.parts[h.part].fptrap &&& (Accumulator.ofBytes (Memory.readAll s.mem loc 32)).result.2.setWidth 64 = 0) :
    ∃ t : State, exec (.rsfin d s1 ord off) s = .next t ∧ t.mem = s.mem ∧
      t.harts = s.harts.set s.cur.hart
        (((h.setReg .pacer d (BitVec.ofNat 64 (Accumulator.ofBytes (Memory.readAll s.mem loc 32)).result.1)).raise .pacer
          (Accumulator.ofBytes (Memory.readAll s.mem loc 32)).result.2).advance .pacer) := by
  obtain ⟨t, hst, hexec⟩ := rsfin_next (d := d) (ord := ord) hva hr hrec hal hloc hq hp htorn ht
  refine ⟨_, hexec, ?_, ?_⟩ <;> rw [arithCheck_untrapped (by rwa [modHart_parts, hst.parts])]
  · rw [modHart_mem, hst.mem]
  · rw [modHart_harts, hst.harts, modify_of_getElem? hq.there]

end

/-! ### The obligation -/

/-- Settles O19: on a quiet scalar side every step of an access at the home but its own store changes caches and the order of `RSADD`s alone;
the sums in the bins are exact whichever way the unit keeps the bins in range. -/
theorem reproducibleAccumulators : Obligations.ReproducibleAccumulators := by
  unfold Obligations.ReproducibleAccumulators
  refine ⟨?_, ?_⟩
  · intro s h d s1 ord off loc cached hr hmem hrec va hal hloc hstores hclean hp htorn old acc new
    have hq : s.scalarQuiet s.cur.hart h := ⟨hr.1, hstores, hclean⟩
    refine ⟨fun ht hfits => ?_, fun ht htrap => rsfin_reads rfl hr hrec hal hloc hq hp htorn ht htrap⟩
    obtain ⟨t, hexec, hharts, hwritten⟩ := rsadd_updates (d := d) (ord := ord) rfl hr hrec hal hloc hq hp htorn ht hfits
    have hlen : (new.toBytes old).length = 32 := new.length_toBytes old (Memory.length_readAll ..)
    refine ⟨t, hexec, hharts, hwritten, fun a ha => ?_⟩
    rw [hwritten]
    exact Memory.read_writeAll_outside hmem (by rwa [hlen])
  · intro a neg m n e hb _ hmul hn
    exact ⟨a.add_fin_value hb neg hmul hn, a.renormalise_value, Accumulator.renormalise_bins, Accumulator.add_zero hb neg⟩

end Sys2Proof.Machine
end

section
/-! PROOFS. The memory's canonical form (log 3) under a turn's outcome: the running of an instruction on its thread, the scalar and the control
instructions, the front end and the vector unit. -/
namespace Sys2Proof.Machine

open Sys2Proof

/-! ### Outcomes -/

/-- The state that an outcome goes on with has its memory in canonical form (log 3). -/
def Out.keepsForm : Out → Prop
  | .next t => t.memoryOk
  | _ => True

theorem next_keepsForm {t : State} (h : t.memoryOk) : Out.keepsForm (.next t) := h

theorem Out.keepsForm.next {o : Out} (h : o.keepsForm) {t : State} (e : o = .next t) : t.memoryOk := by subst e; exact h

theorem Out.keepsForm_of_next {o : Out} (h : ∀ t, o = .next t → t.memoryOk) : o.keepsForm := by
  cases o with
  | next t => exact h t rfl
  | fault _ => trivial
  | refused _ => trivial

theorem ite_keepsForm {c : Prop} [Decidable c] {a b : Out} (ha : a.keepsForm) (hb : b.keepsForm) : (if c then a else b).keepsForm := by
  split
  · exact ha
  · exact hb

theorem ite_memoryOk {c : Prop} [Decidable c] {a b : State} (ha : a.memoryOk) (hb : b.memoryOk) : (if c then a else b).memoryOk := by
  split
  · exact ha
  · exact hb

section

variable {s : State} (h : s.memoryOk)

include h

/-! ### Running an instruction -/

theorem onThread_keepsForm (i : Instr) {k : Nat → Hart → Thread → Out} (hk : ∀ x g u, (k x g u).keepsForm) : (onThread i s k).keepsForm :=
  Out.keepsForm_of_next fun _ => onThread_memoryOk h i k fun x g u _ => (hk x g u).next

theorem onPacer_keepsForm {k : Nat → Hart → Thread → Out} (hk : ∀ x g u, (k x g u).keepsForm) : (onPacer s k).keepsForm :=
  Out.keepsForm_of_next fun _ => onPacer_memoryOk h k fun x g u _ => (hk x g u).next

theorem stopAccess_keepsForm (i : Nat) (x : Hart) (u : ExecUnit) (c : BitVec 8) (k : AccessKind) (a : Nat) (va : Word) (e : Stop) :
    (stopAccess s i x u c k a va e).keepsForm :=
  Out.keepsForm_of_next fun _ => stopAccess_memoryOk h i x u c k a va e

theorem scalarAccess_keepsForm (i : Nat) (x : Hart) (c : BitVec 8) (k : AccessKind) (va : Word) (n : Nat) {go : State → Nat → Bool → Out}
    (hg : ∀ s loc cached, s.memoryOk → (go s loc cached).keepsForm) : (scalarAccess s i x c k va n go).keepsForm :=
  Out.keepsForm_of_next fun _ => scalarAccess_memoryOk h i x c k va n go fun s loc cached _ hs => (hg s loc cached hs).next

theorem trapHere_keepsForm (i : Nat) (x : Hart) (t : Thread) (c : BitVec 8) : (trapHere s i x t c).keepsForm := trapAt_memoryOk h ..

theorem writeBack_keepsForm (i : Nat) (x : Hart) (t : Thread) (d : Reg) (v : Word) : (writeBack s i x t d v).keepsForm := h

theorem goOn_keepsForm (i : Nat) (x : Hart) (t : Thread) : (goOn s i x t).keepsForm := h

theorem floatBack_keepsForm (i : Nat) (x : Hart) (t : Thread) (d : Reg) (r : Word × Flags) : (floatBack s i x t d r).keepsForm :=
  arithCheck_memoryOk (setHart_memoryOk h ..) ..

/-! ### Scalar instructions (R169 to R176) -/

theorem scalar2_keepsForm (i : Instr) (o : AluOp) (d s1 s2 : Reg) : (scalar2 i o d s1 s2 s).keepsForm :=
  onThread_keepsForm h i fun _ _ _ => writeBack_keepsForm h ..

theorem scalar1_keepsForm (i : Instr) (f : Word → Word) (d s1 : Reg) : (scalar1 i f d s1 s).keepsForm :=
  onThread_keepsForm h i fun _ _ _ => writeBack_keepsForm h ..

theorem scalarImm_keepsForm (i : Instr) (o : AluOp) (d s1 : Reg) (imm : BitVec 32) : (scalarImm i o d s1 imm s).keepsForm :=
  onThread_keepsForm h i fun _ _ _ => writeBack_keepsForm h ..

theorem scalarShift_keepsForm (i : Instr) (o : AluOp) (d s1 : Reg) (sh : Fin 64) : (scalarShift i o d s1 sh s).keepsForm :=
  onThread_keepsForm h i fun _ _ _ => writeBack_keepsForm h ..

theorem float2_keepsForm (i : Instr) (o : FloatOp) (d s1 s2 : Reg) (f : FloatFmt) : (float2 i o d s1 s2 f s).keepsForm :=
  onThread_keepsForm h i fun _ _ _ => floatBack_keepsForm h ..

theorem float3_keepsForm (i : Instr) (d s1 s2 s3 : Reg) (f : FloatFmt) : (float3 i d s1 s2 s3 f s).keepsForm :=
  onThread_keepsForm h i fun _ _ _ => floatBack_keepsForm h ..

theorem floatConvert_keepsForm (i : Instr) (d s1 : Reg) (dst src : ElemType) : (floatConvert i d s1 dst src s).keepsForm :=
  onThread_keepsForm h i fun _ _ _ => floatBack_keepsForm h ..

theorem floatCompare_keepsForm (i : Instr) (c : Cond) (d s1 s2 : Reg) (f : FloatFmt) : (floatCompare i c d s1 s2 f s).keepsForm :=
  onThread_keepsForm h i fun _ _ _ => floatBack_keepsForm h ..

/-! ### Control registers, lengths, scalar queues and branches (R59 to R68, R177 to R184) -/

theorem getControl_keepsForm (i : Instr) (d : Reg) (num : Fin 4096) : (getControl i d num s).keepsForm :=
  onThread_keepsForm h i fun x g t => by
    split
    · exact h
    split
    · exact refuseWord_memoryOk h ..
    split
    · split
      · exact h
      · exact observeTags_memoryOk h ..
    · exact h

theorem enterSetc_keepsForm (i : Nat) (x x' : Hart) (ins : Instr) (v : Word) : (enterSetc s i x x' ins v).keepsForm := by
  unfold enterSetc; split <;> exact h

theorem setControl_keepsForm (i : Instr) (num : Fin 4096) (s1 : Reg) : (setControl i num s1 s).keepsForm :=
  onThread_keepsForm h i fun x g t => by
    split
    · exact refuseWord_memoryOk h ..
    split
    · exact h
    split
    · exact trapHere_keepsForm h ..
    split
    · split
      · exact enterSetc_keepsForm h ..
      · exact h
    · exact h

theorem setLength_keepsForm (i : Instr) (d s1 : Reg) (ty : ElemType) : (setLength i d s1 ty s).keepsForm :=
  onThread_keepsForm h i fun _ _ _ => writeBack_keepsForm h ..

theorem setLengthMask_keepsForm (i : Instr) (d : Reg) (m : MaskReg) : (setLengthMask i d m s).keepsForm :=
  onThread_keepsForm h i fun _ _ _ => by split <;> exact h

theorem queuePush_keepsForm (i : Instr) (q : ScalarQueue) (s1 : Reg) : (queuePush i q s1 s).keepsForm :=
  onThread_keepsForm h i fun _ _ _ => by split <;> exact h

theorem queuePop_keepsForm (i : Instr) (d : Reg) (q : ScalarQueue) : (queuePop i d q s).keepsForm :=
  onThread_keepsForm h i fun _ _ _ => by split <;> exact h

theorem branch_keepsForm (i : Instr) (c : BranchCond) (s1 s2 : Reg) (off : BitVec 39) : (branch i c s1 s2 off s).keepsForm :=
  onThread_keepsForm h i fun _ _ _ => h

theorem jumpLink_keepsForm (i : Instr) (d : Reg) (off : BitVec 39) : (jumpLink i d off s).keepsForm :=
  onThread_keepsForm h i fun _ _ _ => h

theorem jumpReg_keepsForm (i : Instr) (d s1 : Reg) (off : BitVec 39) : (jumpReg i d s1 off s).keepsForm :=
  onThread_keepsForm h i fun _ _ _ => h

theorem branchMask_keepsForm (i : Instr) (want : Bool) (m : MaskReg) (off : BitVec 39) : (branchMask i want m off s).keepsForm :=
  onThread_keepsForm h i fun _ _ _ => by split <;> exact h

theorem lapStep_keepsForm (i : Instr) (n : Reg) (ty : ElemType) (ps : List LapPtr) (off : BitVec 17) : (lapStep i n ty ps off s).keepsForm :=
  onThread_keepsForm h i fun _ _ _ => h

/-! ### Fetches and loops (R33, R145, R184) -/

/-- Whatever a fetch reads, memory stays. -/
theorem fetchWord_memoryOk {x : Hart} {pc w : Word} {bad : Bool} {t : State} (e : fetchWord s x pc = .ok (t, w, bad)) : t.memoryOk := by
  unfold fetchWord at e
  split at e
  · cases e
  split at e
  · cases e
  · cases e
  split at e
  · cases e
  · cases e
    exact memoryOk_of_mem h ((dieRead_mem ..).trans (noteTlb_mem ..))

theorem bodyWords_memoryOk {x : Hart} {n : Nat} {pc : Word} {r : Except Word (List Word)} {t : State}
    (e : bodyWords x n s pc = .ok (t, r)) : t.memoryOk := by
  induction n generalizing s pc r t with
  | zero => cases e; exact h
  | succ n ih =>
    unfold bodyWords at e
    split at e
    · cases e
    next s' w bad hw =>
      have hs' := fetchWord_memoryOk h hw
      split at e
      · cases e; exact hs'
      split at e <;> cases e
      · next ht => exact ih hs' ht
      · next ht => exact ih hs' ht

theorem loopStart_keepsForm (i : Nat) (x : Hart) (n : Nat) {k : State → List Word → Out} (hk : ∀ s ws, s.memoryOk → (k s ws).keepsForm) :
    (loopStart s i x n k).keepsForm := by
  unfold loopStart
  split
  · exact deliverTrap_memoryOk h ..
  · exact stopAccess_keepsForm h ..
  · next e => exact deliverTrap_memoryOk (bodyWords_memoryOk h e) ..
  next e =>
    have hs' := bodyWords_memoryOk h e
    split
    · split
      · exact hk _ _ hs'
      · exact refuseWord_memoryOk hs' ..
    · exact refuseWord_memoryOk hs' ..

theorem loopPlain_keepsForm (i : Instr) (n : Fin 32) : (loopPlain i n s).keepsForm :=
  onThread_keepsForm h i fun _ _ _ => loopStart_keepsForm h _ _ _ fun _ _ hs => goOn_keepsForm hs ..

theorem loopModulo_keepsForm (i : Instr) (n : Fin 32) (trip : Reg) (stages : Fin 32) : (loopModulo i n trip stages s).keepsForm :=
  onThread_keepsForm h i fun _ _ _ => by
    dsimp only
    split
    · exact refuseWord_memoryOk h ..
    · refine loopStart_keepsForm h _ _ _ fun _ _ hs => ?_
      split <;> exact hs

/-! ### Convoys and the vector unit (R23, R153 to R155) -/

theorem fetchStart_memoryOk (i : Nat) (x : Hart) (e : VEntry) (sel : MaskSel) (off : BitVec 39) (rest : List VEntry) :
    (fetchStart s i x e sel off rest).memoryOk := by
  unfold fetchStart
  split
  · exact deliverTrap_memoryOk h ..
  dsimp only
  split
  · exact h
  · split <;> exact h

theorem afterCommit_memoryOk (i : Nat) (p : Fin 8) (es : List VEntry) (r : ConvoyRun) : (afterCommit s i p es r).memoryOk := by
  unfold afterCommit
  split
  · exact deliverTrap_memoryOk h ..
  split
  · exact deliverTrap_memoryOk h ..
  · exact h

theorem performConvoy_memoryOk (i : Nat) (x0 x : Hart) (es rest : List VEntry) (stop : Option Nat) :
    (performConvoy s i x0 x es rest stop).memoryOk := by
  unfold performConvoy
  split
  · exact afterCommit_memoryOk (setHart_memoryOk h ..) ..
  · dsimp only; split
    · exact deliverTrap_memoryOk (setHart_memoryOk h ..) ..
    · exact h
  · split
    · exact deliverTrap_memoryOk (setHart_memoryOk h ..) ..
    · exact h
  · exact deliverTrap_memoryOk (setHart_memoryOk h ..) ..

theorem discardMatrix_memoryOk (i : Nat) (x : Hart) (d : DeferredError) (e : VEntry) (rest : List VEntry) :
    (discardMatrix s i x d e rest).memoryOk := h

theorem grantClaim_memoryOk (i : Nat) (x : Hart) (rest : List VEntry) : (grantClaim s i x rest).memoryOk := h

theorem claimStep_memoryOk (i : Nat) (x : Hart) (rest : List VEntry) : (claimStep s i x rest).memoryOk := by
  unfold claimStep; dsimp only; repeat' split
  all_goals exact h

theorem matrixCommit_memoryOk (i : Nat) (x : Hart) (e : VEntry) (rest : List VEntry) : (matrixCommit s i x e rest).memoryOk := by
  unfold matrixCommit
  split
  · exact deliverTrap_memoryOk h ..
  · exact h
  · split
    · exact h
    · exact claimStep_memoryOk h ..
  · split <;> exact h
  · split
    · exact h
    · split <;> exact h

theorem performNow_keepsForm (i : Nat) (x : Hart) (ins : Instr) (u : VUse) : (performNow s i x ins u).keepsForm := by
  unfold performNow
  dsimp only
  split
  · exact fetchStart_memoryOk h ..
  split
  · split
    · exact h
    split
    · exact performConvoy_memoryOk h ..
    · exact h
  · exact matrixCommit_memoryOk h ..

theorem refuseAt_memoryOk (i : Nat) (x : Hart) (c : BitVec 8) (a : Word) : (refuseAt s i x c a).memoryOk := by
  unfold refuseAt; dsimp only; split
  · exact deliverTrap_memoryOk (setAnchor_memoryOk h ..) ..
  · exact h

/-- A convoy that cannot be closed is refused. -/
theorem closeConvoy_memoryOk {i : Nat} {x : Hart} {t : State} (e : closeConvoy s i x = .error t) : t.memoryOk := by
  unfold closeConvoy at e
  split at e
  · cases e; exact refuseAt_memoryOk h ..
  split at e <;> cases e
  exact refuseAt_memoryOk h ..

theorem loneScalar_keepsForm (i : Nat) (x : Hart) (ins : Instr) (u : VUse) : (loneScalar s i x ins u).keepsForm := by
  unfold loneScalar
  split
  · exact h
  dsimp only
  split
  · exact h
  split
  · exact h
  split
  · exact afterCommit_memoryOk (setHart_memoryOk h ..) ..
  · split
    · exact deliverTrap_memoryOk h ..
    · exact h
  · split
    · exact deliverTrap_memoryOk h ..
    · exact h
  · split
    · exact deliverTrap_memoryOk h ..
    · exact h
  · exact h

/-- A word that joins the open convoy, or that has closed the one before it, goes on; a convoy that cannot be closed is refused. -/
theorem closed_memoryOk {joins : Bool} {i : Nat} {x : Hart} {t : State}
    (e : (if joins then .ok x else closeConvoy s i x : Except State Hart) = .error t) : t.memoryOk := by
  split at e
  · cases e
  · exact closeConvoy_memoryOk h e

theorem enterQueue_keepsForm (i : Nat) (x : Hart) (ins : Instr) (u : VUse) : (enterQueue s i x ins u).keepsForm := by
  unfold enterQueue
  dsimp only
  split
  · exact refuseAt_memoryOk h ..
  split
  · next e => exact closed_memoryOk h e
  next y _ =>
    have hy := setHart_memoryOk h i y
    split
    · exact h
    split
    · exact refuseWord_memoryOk hy ..
    split
    · exact trapHere_keepsForm hy ..
    split
    · exact h
    split
    · exact loneScalar_keepsForm hy ..
    split <;> exact h

theorem vectorInstr_keepsForm (i : Instr) : (vectorInstr i s).keepsForm :=
  onThread_keepsForm h i fun _ _ _ => by
    split
    · exact h
    split
    · exact performNow_keepsForm h ..
    · exact enterQueue_keepsForm h ..

theorem directBlock_keepsForm (i : Instr) (sel : MaskSel) (target : Word → Word) : (directBlock i sel target s).keepsForm :=
  onThread_keepsForm h i fun _ _ _ => by
    split
    · split
      · exact h
      · exact refuseWord_memoryOk h ..
    · exact refuseWord_memoryOk h ..

theorem takeDeferred_memoryOk (i : Nat) : (takeDeferred s i).memoryOk := by
  unfold takeDeferred
  split
  · exact h
  split
  · exact h
  · exact deliverTrap_memoryOk (setAnchor_memoryOk h ..) ..

theorem commitHead_memoryOk (i : Nat) (x : Hart) : (commitHead s i x).memoryOk := by
  unfold commitHead
  split
  · exact h
  split
  · exact h
  split
  · split
    · exact fetchStart_memoryOk h ..
    · split <;> exact h
  · exact h
  split
  · exact h
  split
  · exact h
  split
  · split
    · exact h
    split
    · exact performConvoy_memoryOk h ..
    · exact h
  · exact matrixCommit_memoryOk h ..

theorem commitStep_memoryOk (i : Nat) : (commitStep s i).memoryOk := by
  unfold commitStep
  split
  · exact h
  next x _ =>
    have hc := commitHead_memoryOk h i x
    split
    · exact h
    dsimp only
    split
    · exact takeDeferred_memoryOk hc i
    · exact hc

theorem blockWords_memoryOk {x : Hart} {n : Nat} {pc : Word} {r : Except (BitVec 8 × Word) (List (Word × Instr))} {t : State}
    (e : blockWords x n s pc = .ok (t, r)) : t.memoryOk := by
  induction n generalizing s pc r t with
  | zero => cases e; exact h
  | succ n ih =>
    unfold blockWords at e
    split at e
    · cases e
    next s' w bad hw =>
      have hs' := fetchWord_memoryOk h hw
      split at e
      · cases e; exact hs'
      split at e
      · cases e; exact hs'
      split at e
      · cases e; exact hs'
      split at e
      · cases e; exact hs'
      split at e <;> cases e
      · next ht => exact ih hs' ht
      · next ht => exact ih hs' ht

theorem fetchPass_keepsForm (i : Nat) (x : Hart) (e : VEntry) : (fetchPass s i x e).keepsForm := by
  unfold fetchPass
  split
  · exact h
  dsimp only
  split
  · exact deliverTrap_memoryOk h ..
  · exact stopAccess_keepsForm h ..
  · next hw => exact deliverTrap_memoryOk (blockWords_memoryOk h hw) ..
  next hw =>
    have hs' := blockWords_memoryOk h hw
    split
    · exact deliverTrap_memoryOk hs' ..
    split
    · exact hs'
    split
    · exact deliverTrap_memoryOk hs' ..
    · exact arithCheck_memoryOk (setHart_memoryOk hs' ..) ..

theorem passStep_keepsForm (i : Nat) : (passStep s i).keepsForm := by
  unfold passStep
  split
  · exact h
  split
  · exact h
  split
  · exact fetchPass_keepsForm h ..
  · exact h

theorem loopBoundary_memoryOk (i : Nat) (x : Hart) (l : LoopState) : (loopBoundary s i x l).memoryOk := by
  unfold loopBoundary
  split
  · next e => exact closeConvoy_memoryOk h e
  dsimp only
  repeat' split
  all_goals exact h

end

end Sys2Proof.Machine
end

section
/-! PROOFS. The memory's canonical form under the Pacer's memory instructions, synchronisation and the matrix queue's turns (R232 to R245, R269 to
R274). -/
namespace Sys2Proof.Machine

open Sys2Proof

/-! ### What a vector load still reads, and orders of accumulators: memory stays -/

theorem State.afterIssue.mem {s t : State} (h : s.afterIssue t) : t.mem = s.mem := (congrArg State.mem h.1 :)

theorem vectorRead_mem (s : State) (i die loc n : Nat) (c : Bool) : (vectorRead s i die loc n c).1.mem = s.mem := by
  have hp := (pickEarlier_afterIssue s i loc c).mem
  unfold vectorRead
  split
  · next e => rwa [e] at hp
  · next e => rw [e] at hp; exact (dieRead_mem ..).trans hp

theorem readIndices_mem (i die : Nat) (s : State) (ls : List (Touch × Nat × Bool)) : (readIndices i die s ls).1.mem = s.mem := by
  induction ls generalizing s with
  | nil => rfl
  | cons l ls ih => exact (ih _).trans (vectorRead_mem ..)

theorem readHeader_mem (i die : Nat) (s : State) (ls : List (Nat × Bool)) : (readHeader i die s ls).1.mem = s.mem := by
  induction ls generalizing s with
  | nil => rfl
  | cons l ls ih => exact (ih _).trans (vectorRead_mem ..)

theorem issueLoad_mem (adv : Bool) (s : State) (i : Nat) (f : LoadFlight) (image : Bool) : (issueLoad adv s i f image).mem = s.mem :=
  (issueElems_spec i f.ty s f.elems).1.mem

section

variable {s : State} (h : s.memoryOk)

include h

theorem issueLoad_memoryOk (adv : Bool) (i : Nat) (f : LoadFlight) (image : Bool) : (issueLoad adv s i f image).memoryOk :=
  memoryOk_of_mem h (issueLoad_mem ..)

theorem noteAll_memoryOk (x : Hart) (ts : List Touch) : (noteAll s x ts).memoryOk := memoryOk_of_mem h (noteAll_sameButCaches s x ts).mem

theorem addConflicts_memoryOk (es : List (Nat × Nat)) : (addConflicts s es).memoryOk := memoryOk_of_mem h (addConflicts_sameButCaches s es).mem

theorem settleTouches_memoryOk (i n : Nat) (ts : List (Touch × Nat × Bool)) : (settleTouches s i n ts).memoryOk :=
  foldl_memoryOk (fun _ _ hs => settleSide_memoryOk hs ..) _ h

/-! ### Probes (R238) -/

theorem probeEnd_out {i : Nat} {x : Hart} {d : BitVec 8} {k : AccessKind} {rs : List Probe} {o : Out} (e : probeEnd s i x d k rs = .out o) :
    o.keepsForm := by
  unfold probeEnd at e
  dsimp only at e
  split at e
  · cases e; exact stopAccess_keepsForm h ..
  split at e
  · cases e
  split at e <;> cases e
  exact h

theorem probeEnd_waits {i : Nat} {x : Hart} {d : BitVec 8} {k : AccessKind} {rs : List Probe} {t : State}
    (e : probeEnd s i x d k rs = .waits t) : t.memoryOk := by
  unfold probeEnd at e
  dsimp only at e
  split at e
  · cases e
  split at e
  · cases e
  split at e <;> cases e
  refine foldl_memoryOk (fun s w hs => ?_) _ h
  split
  · exact waitReplay_memoryOk hs ..
  · exact waitAts_memoryOk hs ..
  · exact hs

theorem withProbe_keepsForm (i : Nat) (x : Hart) (d : BitVec 8) (k : AccessKind) {mark : State → State} (ts : List Touch)
    {go : State → List (Touch × Nat × Bool) → Out} (hmark : ∀ t, t.memoryOk → (mark t).memoryOk)
    (hgo : ∀ t ls, t.memoryOk → (go t ls).keepsForm) : (withProbe s i x d k mark ts go).keepsForm := by
  unfold withProbe
  dsimp only
  split
  · exact hgo _ _ (noteAll_memoryOk h ..)
  · next e => exact probeEnd_out h e
  · next e => exact hmark _ (probeEnd_waits h e)

theorem afterLoads_keepsForm (i : Nat) (x : Hart) (ls : List (Touch × Nat × Bool)) (n : Nat) {go : State → Out}
    (hgo : ∀ t, t.memoryOk → (go t).keepsForm) : (afterLoads s i x ls n go).keepsForm := by
  unfold afterLoads
  split
  · split
    · exact h
    · exact hgo _ (deliverAll_memoryOk h i)
  · exact hgo _ h

theorem withIndices_keepsForm (i : Nat) (x : Hart) (d : BitVec 8) {mark : State → State} (list : Word) (acts : List Nat)
    {go : State → List (Nat × Option Nat) → Out} (hmark : ∀ t, t.memoryOk → (mark t).memoryOk)
    (hgo : ∀ t xs, t.memoryOk → (go t xs).keepsForm) : (withIndices s i x d mark list acts go).keepsForm := by
  unfold withIndices
  dsimp only
  split
  · exact trapAt_memoryOk h ..
  refine withProbe_keepsForm h _ _ _ _ _ hmark fun t ls ht => ?_
  split
  · exact ht
  refine afterLoads_keepsForm ht _ _ _ _ fun t ht => hgo _ _ (memoryOk_of_mem (settleTouches_memoryOk ht ..) (readIndices_mem ..))

/-! ### Vector loads (R239 to R242) -/

theorem loadGate_keepsForm (adv : Bool) (i : Nat) (x : Hart) (w : WaitingLoad) (q : Fin 4) (b : Bool) {go : Out} (hgo : go.keepsForm) :
    (loadGate adv s i x w q b go).keepsForm := by
  unfold loadGate
  split
  · exact trapHere_keepsForm h ..
  split
  · exact trapHere_keepsForm h ..
  split
  · exact trapHere_keepsForm h ..
  split
  · exact h
  · exact hgo

theorem loadAt_keepsForm (adv : Bool) (i : Nat) (x : Hart) (w : WaitingLoad) (q : Fin 4) (sh : VShapeOf) (xs : List (Nat × Option Nat)) :
    (loadAt adv s i x w q sh xs).keepsForm := by
  unfold loadAt
  dsimp only
  split
  · exact trapAt_memoryOk h ..
  · exact withProbe_keepsForm h _ _ _ _ _ (fun _ ht => ht) fun t ls ht =>
      issueLoad_memoryOk (addConflicts_memoryOk (settleTouches_memoryOk ht ..) _) ..

theorem elementLoad_keepsForm (adv : Bool) (i : Nat) (x : Hart) (w : WaitingLoad) (q : Fin 4) (sel : MaskSel) (sh : VShapeOf) :
    (elementLoad adv s i x w q sel sh).keepsForm := by
  unfold elementLoad
  refine loadGate_keepsForm h _ _ _ _ _ _ ?_
  dsimp only
  split
  · exact issueLoad_memoryOk h ..
  split
  · exact trapAt_memoryOk h ..
  split
  · exact withIndices_keepsForm h _ _ _ _ _ (fun _ ht => ht) fun t xs ht => loadAt_keepsForm ht ..
  · exact loadAt_keepsForm h ..

theorem firstFaultLoad_keepsForm (adv : Bool) (i : Nat) (x : Hart) (w : WaitingLoad) (q : Fin 4) (off : Word) (m : MaskReg) :
    (firstFaultLoad adv s i x w q off m).keepsForm := by
  unfold firstFaultLoad
  refine loadGate_keepsForm h _ _ _ _ _ _ ?_
  dsimp only
  split
  · exact trapAt_memoryOk h ..
  split
  · split
    · exact h
    · next e => exact probeEnd_out h e
    · next e => exact modPacer_memoryOk (probeEnd_waits h e) ..
  · split
    · next e => exact probeEnd_out h e
    · next e => exact probeEnd_waits h e
    · exact modPacer_memoryOk (issueLoad_memoryOk (addConflicts_memoryOk (settleTouches_memoryOk (noteAll_memoryOk h ..) ..) _)
        adv i _ false) ..

theorem withHeader_keepsForm (adv : Bool) (i : Nat) (x : Hart) (w : WaitingLoad) (q : Fin 4) (va : Word) (layout n : Nat)
    {go : State → ElemType → Nat → Out} (hgo : ∀ t ty c, t.memoryOk → (go t ty c).keepsForm) :
    (withHeader adv s i x w q va layout n go).keepsForm := by
  unfold withHeader
  split
  · exact trapHere_keepsForm h ..
  split
  · exact h
  split
  · exact trapAt_memoryOk h ..
  refine withProbe_keepsForm h _ _ _ _ _ (fun _ ht => ht) fun t ls ht => ?_
  dsimp only
  split
  · exact ht
  refine afterLoads_keepsForm ht _ _ _ _ fun t ht => ?_
  have hread := fun words => memoryOk_of_mem (settleTouches_memoryOk ht i 64 (ls.take 1)) (readHeader_mem i (coreDie x.core) _ words)
  split
  · exact trapAt_memoryOk (hread _) ..
  split
  · exact trapHere_keepsForm (hread _) ..
  · exact hgo _ _ _ (hread _)

theorem imageBody_keepsForm (adv : Bool) (i : Nat) (x : Hart) (w : WaitingLoad) (q : Fin 4) (va : Word) (ty : ElemType) (n : Nat)
    (place : Nat → Nat) : (imageBody adv s i x w q va ty n place).keepsForm :=
by
  unfold imageBody
  exact withProbe_keepsForm h _ _ _ _ _ (fun _ ht => ht) fun _ _ ht => issueLoad_memoryOk (settleTouches_memoryOk ht ..) ..

theorem imageLoad_keepsForm (adv : Bool) (i : Nat) (x : Hart) (w : WaitingLoad) (q : Fin 4) (off : Word) :
    (imageLoad adv s i x w q off).keepsForm := by
  unfold imageLoad
  exact withHeader_keepsForm h _ _ _ _ _ _ _ _ fun _ _ _ ht => imageBody_keepsForm ht ..

theorem fillLoad_keepsForm (adv : Bool) (i : Nat) (x : Hart) (w : WaitingLoad) (q : Fin 4) (off : Word) :
    (fillLoad adv s i x w q off).keepsForm := by
  unfold fillLoad
  exact withHeader_keepsForm h _ _ _ _ _ _ _ _ fun _ _ _ ht => imageBody_keepsForm ht ..

theorem vectorLoad_keepsForm (adv : Bool) (w : WaitingLoad) (i : Nat) (x : Hart) : (vectorLoad adv w s i x).keepsForm := by
  unfold vectorLoad
  split
  · exact elementLoad_keepsForm h ..
  · exact elementLoad_keepsForm h ..
  · exact elementLoad_keepsForm h ..
  · exact firstFaultLoad_keepsForm h ..
  · exact imageLoad_keepsForm h ..
  · exact fillLoad_keepsForm h ..

theorem loadHere_keepsForm (form : LoadForm) (word : Word) (base : Reg) (stride : Option Reg) (sel : MaskSel) :
    (loadHere form word base stride sel s).keepsForm :=
  onPacer_keepsForm h fun _ _ _ => vectorLoad_keepsForm h ..

/-! ### Vector stores and atomics (R240, R244) -/

theorem storeOrdered_memoryOk (core loc : Nat) (bs : List Byte) (bad : List Nat) : (storeOrdered s core loc bs bad).memoryOk :=
  storeMarked_memoryOk h ..

theorem sendStores_memoryOk (i : Nat) (fs : List StoreFlight) : (sendStores s i fs).1.memoryOk := by
  unfold sendStores
  split
  · exact h
  refine List.foldlRecOn (motive := fun acc : State × List StoreFlight => acc.1.memoryOk) fs _ h fun acc hacc f _ => ?_
  split
  · exact hacc
  split
  · exact storeOrdered_memoryOk (settleSide_memoryOk hacc ..) ..
  · exact hacc

theorem commitStore_memoryOk (i : Nat) (q : Fin 2) (fs : List StoreFlight) (image : Bool) (stop : Option Nat) :
    (commitStore s i q fs image stop).memoryOk := sendStores_memoryOk h i fs

theorem stopAtElem_memoryOk (i k : Nat) (fs : List StoreFlight) (va : Word) : (stopAtElem s i k fs va).memoryOk := by
  have hs := sendStores_memoryOk h i fs
  unfold stopAtElem
  dsimp only
  split
  · exact hs
  · exact deliverTrap_memoryOk (modPacer_memoryOk hs ..) ..

theorem storeAt_keepsForm (i : Nat) (x : Hart) (q : Fin 2) (r : Row) (base stride list : Word) (sh : VShapeOf) (stop : Option Nat)
    (xs : List (Nat × Option Nat)) : (storeAt s i x q r base stride list sh stop xs).keepsForm := by
  unfold storeAt
  dsimp only
  split
  · exact trapAt_memoryOk h ..
  refine withProbe_keepsForm h _ _ _ _ _ (fun _ ht => ht) fun t ls ht => afterLoads_keepsForm ht _ _ _ _ fun t ht => ?_
  split
  · exact stopAtElem_memoryOk (addConflicts_memoryOk ht _) ..
  · exact commitStore_memoryOk (addConflicts_memoryOk ht _) ..

theorem blockStore_keepsForm (i : Nat) (x : Hart) (q : Fin 2) (r : Row) (va : Word) (vl vstart : Nat) (stop : Option Nat) :
    (blockStore s i x q r va vl vstart stop).keepsForm := by
  unfold blockStore
  split
  · exact trapAt_memoryOk h ..
  · exact withProbe_keepsForm h _ _ _ _ _ (fun _ ht => ht) fun t ls ht => afterLoads_keepsForm ht _ _ _ _ fun t ht =>
      commitStore_memoryOk (addConflicts_memoryOk ht _) ..

theorem storeRun_keepsForm (q : Fin 2) (base : Reg) (stride : Option Reg) (sel : MaskSel) (sh : VShapeOf) (stop : Option Nat) (i : Nat)
    (x : Hart) : (storeRun q base stride sel sh stop s i x).keepsForm := by
  unfold storeRun
  dsimp only
  split
  · exact trapHere_keepsForm h ..
  split
  · exact h
  split
  · exact trapHere_keepsForm h ..
  split
  · exact trapHere_keepsForm h ..
  split
  · exact commitStore_memoryOk h ..
  split
  · exact withIndices_keepsForm h _ _ _ _ _ (fun _ ht => ht) fun t xs ht => storeAt_keepsForm ht ..
  · exact storeAt_keepsForm h ..
  · split
    · exact blockStore_keepsForm h ..
    · exact storeAt_keepsForm h ..

theorem elementStore_keepsForm (q : Fin 2) (base : Reg) (stride : Option Reg) (sel : MaskSel) (sh : VShapeOf) :
    (elementStore q base stride sel sh s).keepsForm :=
  onPacer_keepsForm h fun _ _ _ => storeRun_keepsForm h ..

theorem imageStore_keepsForm (q : Fin 2) (base : Reg) (off : BitVec 16) (spill : Bool) : (imageStore q base off spill s).keepsForm :=
  onPacer_keepsForm h fun _ _ _ => by
    dsimp only
    split
    · exact trapHere_keepsForm h ..
    split
    · exact h
    split
    · exact trapAt_memoryOk h ..
    · exact withProbe_keepsForm h _ _ _ _ _ (fun _ ht => ht) fun t ls ht => afterLoads_keepsForm ht _ _ _ _ fun t ht =>
        commitStore_memoryOk ht ..

theorem endAtomic_memoryOk (q : Fin 2) (t : ElemType) (ret : Option (Fin 4)) (vl : Nat) (stop : Option Nat) (part : List Word) (i : Nat)
    (old : List (Nat × Word)) : (endAtomic q t ret vl stop part s i old).memoryOk :=
  modHart_memoryOk (commitStore_memoryOk h i q [] false stop) ..

omit h in
theorem amoElems_memoryOk (die : Nat) (o : VAmoOp) (r : Row) (list : Word) (ls : List (Touch × Nat × Bool)) {a : AmoRun} (ha : a.s.memoryOk)
    (xs : List (Nat × Option Nat)) : (amoElems die o r list ls a xs).s.memoryOk := by
  induction xs generalizing a with
  | nil => exact ha
  | cons x xs ih =>
    unfold amoElems
    split
    · dsimp only
      split
      · exact ha
      · exact ih (storeThrough_memoryOk ha ..)
    · exact ha

theorem amoRun_memoryOk (die : Nat) (o : VAmoOp) (r : Row) (list : Word) (ls : List (Touch × Nat × Bool)) (i : Nat) (x : Hart)
    (ts : List Touch) (xs : List (Nat × Option Nat)) :
    (amoElems die o r list ls ⟨settleVector (noteAll s x ts) i, [], none⟩ xs).s.memoryOk :=
  amoElems_memoryOk die o r list ls (settleVector_memoryOk (noteAll_memoryOk h x ts) i) xs

theorem atomicRun_keepsForm (sel : MaskSel) (q : Fin 2) (base list : Reg) (sc : Fin 4) (o : VAmoOp) (ret : Option (Fin 4))
    (stop : Option Nat) (i : Nat) (x : Hart) : (atomicRun sel q base list sc o ret stop s i x).keepsForm := by
  unfold atomicRun
  extract_lets vl b li
  split
  · exact trapHere_keepsForm h ..
  split
  · exact h
  split
  · exact trapHere_keepsForm h ..
  split
  · exact trapHere_keepsForm h ..
  split
  · exact trapHere_keepsForm h ..
  refine ite_keepsForm h ?_
  split
  · exact h
  split
  · exact endAtomic_memoryOk (deliverAll_memoryOk h i) ..
  refine withIndices_keepsForm h _ _ _ _ _ (fun _ ht => ht) fun t xs ht => ?_
  dsimp only
  split
  · exact trapAt_memoryOk ht ..
  split
  · next e => exact probeEnd_out ht e
  · next e => exact probeEnd_waits ht e
  split
  · exact ht
  split
  · exact endAtomic_memoryOk (addConflicts_memoryOk (amoRun_memoryOk ht ..) _) ..
  · exact stopAtElem_memoryOk (modPacer_memoryOk (addConflicts_memoryOk (amoRun_memoryOk ht ..) _) ..) ..

theorem vectorAtomic_keepsForm (sel : MaskSel) (q : Fin 2) (base list : Reg) (sc : Fin 4) (o : VAmoOp) (ret : Option (Fin 4)) :
    (vectorAtomic sel q base list sc o ret s).keepsForm :=
  onPacer_keepsForm h fun _ _ _ => atomicRun_keepsForm h ..

/-! ### Scalar memory (R232 to R236) -/

theorem loadValue_memoryOk (core loc n : Nat) (c : Bool) (o : MemOrder) : (loadValue s core loc n c o).1.memoryOk := by
  unfold loadValue
  split
  · exact acquireRead_memoryOk (cacheAcquire_memoryOk h ..) ..
  · exact scalarRead_memoryOk h ..

theorem noteAcquire_memoryOk (x : Nat) (o : MemOrder) (loc n : Nat) : (noteAcquire s x o loc n).memoryOk :=
  memoryOk_of_mem h (noteAcquire_sameButAdds s x o loc n).order.mem

theorem noteRelease_memoryOk (x : Nat) (o : MemOrder) (loc n : Nat) : (noteRelease s x o loc n).memoryOk :=
  memoryOk_of_mem h (noteRelease_sameButAdds s x o loc n).order.mem

theorem meetAdds_memoryOk (x loc : Nat) : (meetAdds s x loc).memoryOk := memoryOk_of_mem h (meetAdds_sameButAdds s x loc).order.mem

theorem releaseFor_memoryOk (x core : Nat) (o : MemOrder) : (releaseFor s x core o).memoryOk := by
  unfold releaseFor
  split
  · exact releaseAt_memoryOk h ..
  · exact h

theorem dropForHome_memoryOk (x core loc n : Nat) : (dropForHome s x core loc n).memoryOk :=
  l1CleanDrop_memoryOk (settleSide_memoryOk h ..) ..

theorem readForHome_memoryOk (x core loc n : Nat) : (readForHome s x core loc n).1.memoryOk := by
  have hd := dropForHome_memoryOk h x core loc n
  unfold readForHome
  dsimp only
  split <;> exact hd

theorem acquired_memoryOk (core : Nat) (o : MemOrder) :
    (match acqScope o with | some sc => cacheAcquire s core sc | none => s).memoryOk := by
  split
  · exact cacheAcquire_memoryOk h ..
  · exact h

theorem scalarLoad_keepsForm (n : Nat) (signed : Bool) (d s1 : Reg) (o : MemOrder) (off : BitVec 32) :
    (scalarLoad n signed d s1 o off s).keepsForm :=
  onPacer_keepsForm h fun x g t => scalarAccess_keepsForm h _ _ _ _ _ _ fun s loc cached hs => by
    have hread := loadValue_memoryOk (noteAcquire_memoryOk (settleSide_memoryOk hs x .scalar loc n) x o loc n) g.core loc n cached o
    split
    · exact hs
    dsimp only
    split
    · exact trapAt_memoryOk hread ..
    · exact hread

theorem scalarStore_keepsForm (n : Nat) (d s1 : Reg) (o : MemOrder) (off : BitVec 32) : (scalarStore n d s1 o off s).keepsForm :=
  onPacer_keepsForm h fun x g t => scalarAccess_keepsForm h _ _ _ _ _ _ fun s loc cached hs => by
    have hr := noteRelease_memoryOk (releaseFor_memoryOk hs x g.core o) x o loc n
    split
    · exact hs
    dsimp only
    split
    · exact asScalar_memoryOk (f := fun s => storeOrdered s g.core loc _ []) g.core (wordNumbers loc n)
        (storeOrdered_memoryOk (dropForHome_memoryOk hr ..) ..)
    split
    · exact l1Store_memoryOk (settleSide_memoryOk hr ..) ..
    · exact passL1_memoryOk hr ..

theorem atomic_keepsForm (op : AmoOp) (n : Nat) (natural : Bool) (d s1 s2 : Reg) (o : MemOrder) (off : BitVec 32) :
    (atomic op n natural d s1 s2 o off s).keepsForm :=
  onPacer_keepsForm h fun x g t => scalarAccess_keepsForm h _ _ _ _ _ _ fun s loc cached hs => by
    have hread := readForHome_memoryOk (noteAcquire_memoryOk (noteRelease_memoryOk (releaseFor_memoryOk hs x g.core o) x o loc n) x o loc n)
      x g.core loc n
    split
    · exact trapAt_memoryOk hs ..
    split
    · exact hs
    dsimp only
    split
    · exact trapAt_memoryOk hread ..
    refine acquired_memoryOk ?_ g.core o
    split
    · refine asScalar_memoryOk _ _ ?_
      split
      · exact storeOrdered_memoryOk hread ..
      · exact storeThrough_memoryOk hread ..
    · exact hread

theorem accAccess_keepsForm (x : Nat) (g : Hart) (c : BitVec 8) (k : AccessKind) (va : Word) {go : State → Nat → Out}
    (hgo : ∀ t loc, t.memoryOk → (go t loc).keepsForm) : (accAccess s x g c k va go).keepsForm :=
  scalarAccess_keepsForm h _ _ _ _ _ _ fun s loc _ hs => by
    split
    · exact hgo _ _ hs
    · exact trapAt_memoryOk hs ..

theorem accStore_memoryOk (die loc : Nat) (a : Accumulator) (old : List Byte) : (accStore s die loc a old).memoryOk :=
  Memory.writeAll_wf h loc _

theorem accAdd_keepsForm (d s1 : Reg) (o : MemOrder) (off : BitVec 32) : (accAdd d s1 o off s).keepsForm :=
  onPacer_keepsForm h fun x g t => accAccess_keepsForm h _ _ _ _ _ fun s loc hs => by
    have hread := readForHome_memoryOk (noteRelease_memoryOk (releaseFor_memoryOk hs x g.core o) x o loc 32) x g.core loc 32
    split
    · exact hs
    dsimp only
    split
    · exact trapAt_memoryOk hread ..
    · exact meetAdds_memoryOk (asScalar_memoryOk (f := fun s => accStore s (coreDie g.core) loc _ _) g.core (wordNumbers loc 32)
        (accStore_memoryOk hread ..)) ..

theorem accFinish_keepsForm (d s1 : Reg) (o : MemOrder) (off : BitVec 32) : (accFinish d s1 o off s).keepsForm :=
  onPacer_keepsForm h fun x g t => accAccess_keepsForm h _ _ _ _ _ fun s loc hs => by
    have hread := readForHome_memoryOk (noteAcquire_memoryOk hs x o loc 32) x g.core loc 32
    split
    · exact hs
    dsimp only
    split
    · exact trapAt_memoryOk hread ..
    · exact arithCheck_memoryOk (modHart_memoryOk (acquired_memoryOk (meetAdds_memoryOk hread x loc) g.core o) ..) ..

/-! ### Engine commands issued, tags (R111 to R127, R248 to R255) -/

theorem enqueue_keepsForm (i : Nat) (q : Fin 4) (op : EngineOp) (tag : Option (Fin 64)) : (enqueue s i q op tag).keepsForm := by
  unfold enqueue
  split
  · exact h
  split
  · exact h
  · exact settleScalar_memoryOk (settleVector_memoryOk h i) ..

theorem issue_keepsForm (i : Nat) (x : Hart) (q : Fin 4) (ok : Bool) (op : EngineOp) (tag : Option (Fin 64)) :
    (issue s i x q ok op tag).keepsForm := by
  exact ite_keepsForm (trapHere_keepsForm h ..) (enqueue_keepsForm h ..)

theorem withBlock_keepsForm (i : Nat) (x : Hart) (blk : Reg) {go : State → Nat → Out} (hgo : ∀ t n, t.memoryOk → (go t n).keepsForm) :
    (withBlock s i x blk go).keepsForm := by
  unfold withBlock
  refine scalarAccess_keepsForm h _ _ _ _ _ _ fun s loc cached hs => ?_
  have hread := scalarRead_memoryOk (settleSide_memoryOk hs i .scalar loc 64) x.core loc 64 cached
  dsimp only
  split
  · exact trapAt_memoryOk hread ..
  · exact hgo _ _ hread

theorem photoIssue_keepsForm (scan : Bool) (tag : Fin 64) (blk : Reg) : (photoIssue scan tag blk s).keepsForm :=
  onPacer_keepsForm h fun _ _ _ => withBlock_keepsForm h _ _ _ fun _ _ ht => issue_keepsForm ht ..

theorem seamIssue_keepsForm (tag : Fin 64) (blk : Reg) : (seamIssue tag blk s).keepsForm :=
  onPacer_keepsForm h fun _ _ _ => withBlock_keepsForm h _ _ _ fun _ _ ht => issue_keepsForm ht ..

theorem cacheIssue_keepsForm (inv : Bool) (a len : Reg) : (cacheIssue inv a len s).keepsForm :=
  onPacer_keepsForm h fun _ _ _ => issue_keepsForm h ..

theorem observeAndGo_keepsForm (i : Nat) (x : Hart) (ts : List (Fin 64)) (f : Hart → Hart) : (observeAndGo s i x ts f).keepsForm := by
  unfold observeAndGo
  split
  · exact h
  · exact observeTags_memoryOk h ..

theorem tagWait_keepsForm (all : Bool) (m : Reg) : (tagWait all m s).keepsForm :=
  onPacer_keepsForm h fun _ _ _ => by
    dsimp only
    split
    · exact h
    split
    · split
      · exact observeAndGo_keepsForm h ..
      split
      · exact trapHere_keepsForm h ..
      · exact h
    split
    · exact observeAndGo_keepsForm h ..
    split
    · exact trapHere_keepsForm h ..
    · exact h

theorem tagFirst_keepsForm (d m : Reg) : (tagFirst d m s).keepsForm :=
  onPacer_keepsForm h fun _ _ _ => by
    split
    · exact observeAndGo_keepsForm h ..
    · exact h

theorem tagClear_keepsForm (m : Reg) : (tagClear m s).keepsForm :=
  onPacer_keepsForm h fun _ _ _ => by
    dsimp only
    split
    · exact trapHere_keepsForm h ..
    · exact h

theorem queueFence_keepsForm (qmask : Fin 16) : (queueFence qmask s).keepsForm :=
  onPacer_keepsForm h fun _ _ _ => by
    dsimp only
    split
    · exact h
    · exact observeAndGo_keepsForm h ..

/-! ### Fences, waits, leaving and traps (R267 to R283) -/

theorem fenceSvStep_keepsForm : (fenceSvStep s).keepsForm :=
  onPacer_keepsForm h fun i x _ => by
    split
    · exact h
    · exact vectorAfter_memoryOk (settleScalar_memoryOk h ..) i

theorem fenceVsStep_keepsForm : (fenceVsStep s).keepsForm :=
  onPacer_keepsForm h fun i x _ => by
    split
    · exact h
    · exact refreshL1_memoryOk (settleVector_memoryOk h i) x.core

theorem fenceVvStep_keepsForm : (fenceVvStep s).keepsForm :=
  onPacer_keepsForm h fun i x _ => by
    split
    · exact h
    · exact settleVector_memoryOk h i

theorem fenceAllStep_keepsForm : (fenceAllStep s).keepsForm :=
  onPacer_keepsForm h fun i x _ => by
    split
    · exact h
    · exact modHart_memoryOk (vectorAfter_memoryOk (refreshL1_memoryOk (settleScalar_memoryOk (settleVector_memoryOk h i) ..) x.core) i) ..

theorem waitWord_keepsForm (eq : Bool) (s1 s2 : Reg) : (waitWord eq s1 s2 s).keepsForm := by
  unfold waitWord
  refine onPacer_keepsForm h fun i x t => scalarAccess_keepsForm h _ _ _ _ _ _ fun s loc cached hs => ?_
  have hread := readForHome_memoryOk hs i x.core loc 8
  split
  · exact trapAt_memoryOk hs ..
  split
  · exact hs
  generalize readForHome s i x.core loc 8 = r at hread ⊢
  obtain ⟨s', bs, bad⟩ := r
  dsimp only at hread ⊢
  split
  · exact trapAt_memoryOk hread ..
  split <;> exact hread

theorem gbarStep_keepsForm (i : Instr) : (gbarStep i s).keepsForm :=
  onThread_keepsForm h i fun x g t => by
    split
    · exact h
    split
    · split
      · exact h
      · exact modHart_memoryOk (settleAll_memoryOk h ..) ..
    split
    · exact h
    split
    · exact takeDeferred_memoryOk h x
    split <;> exact h

theorem releaseVectors_keepsForm (x : Nat) (g : Hart) (t : Thread) {go : State → Out} (hgo : ∀ t, t.memoryOk → (go t).keepsForm) :
    (releaseVectors s x g t go).keepsForm := by
  unfold releaseVectors
  split
  · split
    · exact hgo _ (modHart_memoryOk h ..)
    · exact h
  · split
    · exact hgo _ (modHart_memoryOk (settleVector_memoryOk h x) ..)
    · exact h

theorem vrelStep_keepsForm (i : Instr) : (vrelStep i s).keepsForm :=
  onThread_keepsForm h i fun x g t => by
    split
    · exact refuseWord_memoryOk h ..
    · exact releaseVectors_keepsForm h _ _ _ fun _ ht => ht

theorem hexitStep_keepsForm (i : Instr) : (hexitStep i s).keepsForm :=
  onThread_keepsForm h i fun x g t => by
    dsimp only
    split
    · exact h
    split
    · exact takeDeferred_memoryOk h x
    split
    · exact h
    · exact releaseVectors_keepsForm h _ _ _ fun _ ht => ht

theorem userTrap_keepsForm (i : Instr) (brk : Bool) (imm : BitVec 20) : (userTrap i brk imm s).keepsForm :=
  onThread_keepsForm h i fun x g t => by
    dsimp only
    split
    · exact h
    · exact deliverTrap_memoryOk (setHart_memoryOk h ..) ..

theorem hostCall_keepsForm (i : Instr) (imm : BitVec 20) : (hostCall i imm s).keepsForm :=
  onThread_keepsForm h i fun x g t => by
    split
    · exact h
    · exact deliverTrap_memoryOk (modHart_memoryOk (settleAll_memoryOk h ..) ..) ..

theorem supervisor_keepsForm (i : Instr) {k : Nat → Hart → Thread → Out} (hk : ∀ x g t, (k x g t).keepsForm) : (supervisor i s k).keepsForm :=
  onThread_keepsForm h i fun x g t => by
    split
    · exact hk ..
    · exact refuseWord_memoryOk h ..

theorem superGet_keepsForm (i : Instr) (d : Reg) (num : Fin 4096) : (superGet i d num s).keepsForm :=
  supervisor_keepsForm h i fun x g t => by
    split
    · exact refuseWord_memoryOk h ..
    · exact h

theorem superWrite_memoryOk {x : Nat} {g : Hart} {t : Thread} {num : Nat} {w : Word} {s' : State} (e : superWrite s x g t num w = some s') :
    s'.memoryOk := by
  unfold superWrite at e
  split at e <;> cases e <;> exact h

theorem superSet_keepsForm (i : Instr) (num : Fin 4096) (s1 : Reg) : (superSet i num s1 s).keepsForm :=
  supervisor_keepsForm h i fun x g t => by
    split
    · exact refuseWord_memoryOk h ..
    · next e => exact modHart_memoryOk (superWrite_memoryOk h e) ..

theorem performAll_memoryOk (p : Fin 8) : (performAll s p).memoryOk :=
  foldl_memoryOk (fun _ i hs => drainStores_memoryOk (deliverAll_memoryOk hs i) ..) _ h

theorem superInvalidate_keepsForm (which : State → Nat → Hart → Option (List (Fin 8) × (TlbEntry → Bool))) :
    (superInvalidate s which).keepsForm :=
  onPacer_keepsForm h fun i x t => by
    split
    · exact trapHere_keepsForm h ..
    split
    · exact trapHere_keepsForm h ..
    split
    · next ps _ _ _ => exact foldl_memoryOk (f := performAll) (fun _ p hs => performAll_memoryOk hs p) ps h
    · exact h

theorem acceptPacket_memoryOk (p : Fin 8) (q : Fin 64) (bs : List Byte) (pf : Bool) : (acceptPacket s p q bs pf).memoryOk := h

theorem launchFrom_keepsForm (d s1 s2 : Reg) : (launchFrom d s1 s2 s).keepsForm :=
  onPacer_keepsForm h fun i x _ => by
    dsimp only
    split
    · exact h
    refine scalarAccess_keepsForm (refreshL1_memoryOk (settleAll_memoryOk h ..) x.core) _ _ _ _ _ _ fun s loc cached hs => ?_
    have hread := scalarRead_memoryOk hs x.core loc 64 cached
    split
    · exact trapAt_memoryOk hread ..
    · refine modHart_memoryOk ?_ ..
      split <;> exact hread

/-! ### Events of a hart -/

theorem matrixTurn_memoryOk (i : Nat) : (matrixTurn s i).memoryOk := by
  unfold matrixTurn
  split
  · exact h
  split
  · exact matrixHead_memoryOk h i
  split
  · exact leaveMatrix_memoryOk (matrixHead_memoryOk h i) i
  · exact h

theorem claimGrant_memoryOk (i : Nat) : (claimGrant s i).memoryOk := by
  unfold claimGrant
  split
  · exact h
  split
  · split
    · exact commitStep_memoryOk h i
    · exact h
  · exact h

theorem deliveryStep_memoryOk (i : Nat) (q : Fin 4) : (deliveryStep s i q).memoryOk := by
  unfold deliveryStep
  split
  · exact h
  split
  · exact h
  split
  · exact h
  · exact memoryOk_of_mem h (deliverLoad_mem s i q)

theorem renormaliseAt_memoryOk (loc : Nat) : (renormaliseAt s loc).memoryOk := by
  unfold renormaliseAt
  split
  · exact h
  dsimp only
  split
  · exact h
  · generalize (Accumulator.ofBytes (homeRead s loc 32).1).renormalise.toBytes _ = bs
    exact homeWrite_memoryOk h loc bs false

theorem evictLine_memoryOk (core line : Nat) : (evictLine s core line).memoryOk := by
  unfold evictLine
  split
  · exact h
  · exact l1CleanDrop_memoryOk h ..

theorem storePerformed_memoryOk (i idx : Nat) : (storePerformed s i idx).memoryOk := by
  unfold storePerformed
  split
  · exact h
  split
  · exact h
  split
  · exact h
  · exact landStore_memoryOk (modPacer_memoryOk h ..) ..

theorem deadlockStep_memoryOk (i : Nat) : (deadlockStep s i).memoryOk := by
  unfold deadlockStep
  split
  · exact h
  split
  · exact h
  split
  · split
    · exact deliverTrap_memoryOk h ..
    · exact h
  split
  · split
    · exact deliverTrap_memoryOk h ..
    · exact h
  · exact h

theorem gbarComplete_memoryOk (p : Fin 8) (g : BitVec 32) : (gbarComplete s p g).memoryOk := by
  unfold gbarComplete
  dsimp only
  split
  · refine foldl_memoryOk (fun t i ht => ?_) _ (foldl_memoryOk (fun t i ht => ?_) _ h)
    · split
      · exact ht
      · exact vectorAfter_memoryOk (cacheAcquire_memoryOk ht ..) i
    · exact memoryOk_of_mem ht (seeAdds_sameButAdds ..).order.mem
  · exact h

theorem waitWake_memoryOk (i : Nat) : (waitWake s i).memoryOk := by
  unfold waitWake; split <;> exact h

theorem waitTimeout_memoryOk (i : Nat) : (waitTimeout s i).memoryOk := by
  unfold waitTimeout; split <;> exact h

theorem retireHart_memoryOk (i : Nat) : (retireHart s i).memoryOk := by
  unfold retireHart
  split
  · exact h
  next x _ =>
    split
    · exact takeDeferred_memoryOk h i
    split
    · exact h
    have hs := freeContexts_memoryOk (l1CleanAll_memoryOk (drainStores_memoryOk h i fun _ => true) x.core fun l => !l.dirty.isEmpty) i
    refine freeTracks_memoryOk ?_ ..
    split <;> exact hs

end

end Sys2Proof.Machine
end

section
/-! PROOFS. The memory's canonical form under the engines (R109 to R127). -/
namespace Sys2Proof.Machine

open Sys2Proof

/-! ### What an engine reads leaves memory -/

theorem readSpans_mem (die : Nat) (kept : List (Nat × Byte × Bool)) (s : State) (ls : List (Nat × Nat × Bool)) :
    (readSpans die kept s ls).1.mem = s.mem := by
  induction ls generalizing s with
  | nil => rfl
  | cons l ls ih => exact (ih _).trans (dieRead_mem ..)

theorem jobBytes_mem (die : Nat) (sw : Bool) (kept : List (Nat × Byte × Bool)) (s : State) (j : RowJob) :
    (jobBytes die sw kept s j).1.mem = s.mem := by
  unfold jobBytes
  split
  · rfl
  · exact readSpans_mem ..

theorem readJobs_mem (die : Nat) (sw : Bool) (kept : List (Nat × Byte × Bool)) (s : State) (js : List RowJob) :
    (readJobs die sw kept s js).1.mem = s.mem := by
  induction js generalizing s with
  | nil => rfl
  | cons j js ih => exact (ih _).trans (jobBytes_mem ..)

theorem jobPieces_mem (s : State) (die : Nat) (sw : Bool) (sources : List Span) (blur : List Piece → List Nat)
    (kept : List (Nat × Byte × Bool)) (js : List RowJob) : (jobPieces s die sw sources blur kept js).1.mem = s.mem := by
  have hj := readJobs_mem die sw kept s js
  unfold jobPieces
  dsimp only
  split <;> exact hj

theorem keepSources_mem (die : Nat) (sources : List Span) (locs : List Nat) (s : State) (kept : List (Nat × Byte × Bool)) :
    (keepSources die sources locs s kept).1.mem = s.mem := by
  unfold keepSources
  refine List.foldlRecOn (motive := fun acc : State × List (Nat × Byte × Bool) => acc.1.mem = s.mem) locs _ rfl fun acc hacc l _ => ?_
  split
  · exact hacc
  split
  · exact hacc
  · exact (dieRead_mem ..).trans hacc

section

variable {s : State} (h : s.memoryOk)

include h

theorem storePiece_memoryOk (die : Nat) (p : Piece) : (storePiece die s p).memoryOk :=
  foldl_memoryOk (fun _ _ hs => storeThrough_memoryOk hs ..) _ (storeThrough_memoryOk h ..)

theorem setHead_memoryOk (i : Nat) (q : Fin 4) (c : EngineCmd) : (setHead s i q c).memoryOk := h

/-! ### A command starts (R115, R117) -/

theorem storePieces_memoryOk (die : Nat) (ps : List Piece) : (ps.foldl (storePiece die) s).memoryOk :=
  foldl_memoryOk (fun _ _ hs => storePiece_memoryOk hs ..) ps h

theorem landSome_memoryOk (i die : Nat) (sw : Bool) (sources : List Span) (blur : List Piece → List Nat) (c : EngineCmd) (js : List RowJob)
    (odd : Bool) : (landSome s i die sw sources blur c js odd).memoryOk := by
  have hp := memoryOk_of_mem h (jobPieces_mem s die sw sources blur c.kept js)
  unfold landSome
  generalize jobPieces s die sw sources blur c.kept js = r at hp ⊢
  obtain ⟨s', pieces, bad⟩ := r
  dsimp only at hp ⊢
  exact memoryOk_of_mem (storePieces_memoryOk (memoryOk_of_mem hp (keepSources_mem ..)) die _) rfl

theorem listEntries_memoryOk {x : Hart} {g : GatherOp} {js : List Nat} {t : State} {xs : List (Nat × Option Nat)}
    (e : listEntries s x g js = .ok (t, xs)) : t.memoryOk := by
  induction js generalizing s t xs with
  | nil => cases e; exact h
  | cons j js ih =>
    unfold listEntries at e
    dsimp only at e
    split at e
    · cases e
    split at e
    · cases e
    next ht =>
      cases e
      exact ih (memoryOk_of_mem h (dieRead_mem ..)) ht

theorem batchJobs_memoryOk {x : Hart} {g : GatherOp} {js : List Nat} {t : State} {r : List RowJob × Bool}
    (e : batchJobs s x g js = .ok (t, r)) : t.memoryOk := by
  unfold batchJobs at e
  split at e
  · cases e
  next hl =>
    split at e <;> cases e
    exact listEntries_memoryOk h hl

theorem startOp_memoryOk (i : Nat) (x : Hart) (c : EngineCmd) : (startOp s i x c).memoryOk := by
  unfold startOp
  split
  · exact h
  split
  · split
    · dsimp only; split
      · exact h
      · exact landSome_memoryOk h ..
    · exact h
  · split
    · next e =>
      have ht := batchJobs_memoryOk h e
      dsimp only; split
      · exact ht
      · exact landSome_memoryOk ht ..
    · exact h
  · exact h

theorem engineStart_memoryOk (i : Nat) (q : Fin 4) : (engineStart s i q).memoryOk := by
  unfold engineStart
  split
  · exact h
  split
  · exact h
  split
  · exact h
  · exact startOp_memoryOk (setHead_memoryOk h ..) ..

/-! ### A command completes (R112, R114, R143) -/

theorem runJobs_memoryOk (die : Nat) (sw : Bool) (sources : List Span) (blur : List Piece → List Nat) (c : EngineCmd) (js : List RowJob) :
    (runJobs s die sw sources blur c js).1.memoryOk := by
  have hp := memoryOk_of_mem h (jobPieces_mem s die sw sources blur c.kept js)
  unfold runJobs
  generalize jobPieces s die sw sources blur c.kept js = r at hp ⊢
  obtain ⟨s', pieces, bad⟩ := r
  dsimp only at hp ⊢
  refine storePieces_memoryOk (memoryOk_of_mem ?_ (keepSources_mem ..)) ..
  split <;> exact hp

theorem noteSaved_memoryOk (i : Nat) (x : Hart) (tag : Option (Fin 64)) (err : Bool) : (noteSaved s i x tag err).memoryOk := by
  unfold noteSaved
  extract_lets base bit orWord map area area' atHome s1 s2
  have hat : ∀ {t : State} (off n : Nat) (f : Nat → Nat), t.memoryOk → (atHome t off n f).memoryOk :=
    fun _ _ _ ht => homeWrite_memoryOk ht ..
  clear_value atHome area'
  have h1 : s1.memoryOk := hat _ _ _ (hat _ _ _ h)
  clear_value s1
  have h2 : s2.memoryOk := hat _ _ _ h1
  clear_value s2
  exact modHart_memoryOk h2 ..


theorem completeCmd_memoryOk (i : Nat) (q : Fin 4) (tag : Option (Fin 64)) (err : Bool) (ranges : List (Nat × Nat)) :
    (completeCmd s i q tag err ranges).memoryOk := by
  unfold completeCmd
  split
  · exact h
  · refine modPacer_memoryOk (modPacer_memoryOk ?_ ..) ..
    split
    · exact noteSaved_memoryOk h ..
    · exact h

theorem completed_keepsForm (i : Nat) (q : Fin 4) (tag : Option (Fin 64)) (err : Bool) (ranges : List (Nat × Nat)) :
    Out.keepsForm (.next (completeCmd s i q tag err ranges)) := completeCmd_memoryOk h ..

theorem engineStop_keepsForm (i : Nat) (x : Hart) (q : Fin 4) (c : EngineCmd) (k : AccessKind) (e : Stop) {fail : Out} (hf : fail.keepsForm) :
    (engineStop s i x q c k e fail).keepsForm := by
  unfold engineStop
  split
  · exact hf
  · exact h
  · trivial
  · extract_lets tok s'
    exact next_keepsForm (postRecord_memoryOk (s := s') h ..)
  · split <;> exact h

theorem withHead_keepsForm (i : Nat) (q : Fin 4) {go : Hart → EngineCmd → Out} (hgo : ∀ x c, (go x c).keepsForm) :
    (withHead s i q go).keepsForm := by
  unfold withHead
  split
  · exact h
  split
  · exact h
  · exact ite_keepsForm h (hgo ..)

/-! ### Shuttle (R117 to R120) -/

theorem copyRun_keepsForm (i : Nat) (x : Hart) (c : EngineCmd) (sw : Bool) (n : Nat) (rows : List (Nat × Word × Word)) :
    (copyRun s i x c sw n rows).keepsForm := by
  unfold copyRun
  extract_lets run
  have hrun : ∀ js, Out.keepsForm (run js) := fun js => completed_keepsForm (runJobs_memoryOk h ..) ..
  split
  · exact ite_keepsForm h (hrun _)
  split
  · exact completed_keepsForm h ..
  split
  · exact engineStop_keepsForm h _ _ _ _ _ _ (completed_keepsForm h ..)
  · exact hrun _

theorem nextBatch_memoryOk {x : Hart} {g : GatherOp} {c : EngineCmd} {t : State} {r : List RowJob × Bool}
    (e : nextBatch s x g c = .ok (t, r)) : t.memoryOk := by
  unfold nextBatch at e
  split at e
  · split at e <;> cases e
    exact h
  · exact batchJobs_memoryOk h e

theorem blurWritten_memoryOk (die : Nat) (g : GatherOp) (c : EngineCmd) (known : List Span) : (blurWritten s die g c known).memoryOk :=
  foldl_memoryOk (fun _ _ hs => foldl_memoryOk (fun t _ ht => by
    dsimp only; split
    · exact storeThrough_memoryOk ht ..
    · exact ht) _ hs) _ h

theorem gatherRun_keepsForm (i : Nat) (g : GatherOp) (n : Nat) (x : Hart) (c : EngineCmd) : (gatherRun i g n s x c).keepsForm := by
  induction n generalizing s c with
  | zero => exact completed_keepsForm h ..
  | succ n ih =>
    unfold gatherRun
    split
    · exact completed_keepsForm h ..
    dsimp only
    split
    · exact ih (setHead_memoryOk h ..) _
    split
    · exact engineStop_keepsForm (setHead_memoryOk h ..) _ _ _ _ _ _ (ih (setHead_memoryOk h ..) _)
    next e =>
      exact ih (setHead_memoryOk (runJobs_memoryOk (blurWritten_memoryOk (nextBatch_memoryOk h e) ..) ..) ..) _

theorem shuttleStep_keepsForm (i : Nat) : (shuttleStep s i).keepsForm :=
  withHead_keepsForm h _ _ fun x c => by
    split
    · exact copyRun_keepsForm h ..
    · exact gatherRun_keepsForm h ..
    · exact h

/-! ### Photo-finish (R121 to R124) -/

theorem photoResult_memoryOk (b : PfBlock) (t : ElemType) (a : Scan) : (photoResult s b t a).1.memoryOk :=
  homeWrite_memoryOk (homeWrite_memoryOk (homeWrite_memoryOk h _ _ false) _ _ false) _ _ false

theorem photoStep_keepsForm (i : Nat) : (photoStep s i).keepsForm := by
  unfold photoStep
  refine withHead_keepsForm h _ _ fun x c => ?_
  split
  · split
    · exact h
    extract_lets dst place
    have hplace : Out.keepsForm place := completed_keepsForm (homeWrite_memoryOk h _ _ false) ..
    split
    · exact h
    split
    · exact hplace
    split
    · exact engineStop_keepsForm h _ _ _ _ _ _ hplace
    split
    · exact engineStop_keepsForm h _ _ _ _ _ _ hplace
    · exact completed_keepsForm (photoResult_memoryOk h ..) ..
  · exact h

/-! ### Seam (R125 to R127) -/

theorem seamSilent_memoryOk (i : Nat) (c : EngineCmd) (stack : Nat) : (seamSilent s i c stack).memoryOk := by
  unfold seamSilent
  refine completeCmd_memoryOk ?_ ..
  exact h

theorem seamFlag_memoryOk (i : Nat) (c : EngineCmd) (stack : Nat) (b : SeamBlock) (loc err : Nat) (ranges : List (Nat × Nat)) :
    (seamFlag s i c stack b loc err ranges).memoryOk := by
  unfold seamFlag
  refine completeCmd_memoryOk (homeWrite_memoryOk ?_ loc _ false) ..
  exact h

theorem seamStore_memoryOk (w : Nat) (ls : List (Nat × Nat × Bool)) (es : List SeamElem) : (seamStore w s ls es).memoryOk := by
  induction ls generalizing s es with
  | nil => cases es <;> exact h
  | cons l ls ih =>
    cases es with
    | nil => exact h
    | cons e es =>
      unfold seamStore
      refine ih ?_ es
      exact homeWrite_memoryOk h l.1 _ e.bad

theorem seamStep_keepsForm (i : Nat) : (seamStep s i).keepsForm := by
  unfold seamStep
  refine withHead_keepsForm h _ _ fun x c => ?_
  split
  · split
    · exact h
    extract_lets w n stack silent
    have hsilent : Out.keepsForm silent := seamSilent_memoryOk h ..
    split
    · exact h
    split
    · exact hsilent
    split
    · exact engineStop_keepsForm h _ _ _ _ _ _ hsilent
    rename_i floc _ c'
    extract_lets fail
    have hfail : ∀ n, Out.keepsForm (fail n) := fun n => seamFlag_memoryOk h ..
    split
    · exact hfail _
    split
    · exact engineStop_keepsForm h _ _ _ _ _ _ (hfail _)
    split
    · exact engineStop_keepsForm h _ _ _ _ _ _ (hfail _)
    split
    · exact seamFlag_memoryOk (seamStore_memoryOk h ..) ..
    · exact hfail _
  · exact h

/-! ### Cache operations (R109) -/

theorem cacheStep_keepsForm (i : Nat) : (cacheStep s i).keepsForm := by
  unfold cacheStep
  refine withHead_keepsForm h _ _ fun x c => ?_
  extract_lets run
  have hrun : ∀ a n inv, Out.keepsForm (run a n inv) := fun a n inv => by
    refine ite_keepsForm (next_keepsForm h) (completed_keepsForm ?_ ..)
    have hclean := l1CleanAll_memoryOk h x.core fun l => (cacheSpans s x a n).any fun r => rangesMeet (l.line * 64) 64 r.1 r.2
    split
    · exact l1CleanDropAll_memoryOk hclean ..
    · exact hclean
  split
  · exact hrun ..
  · exact hrun ..
  · exact h

end

end Sys2Proof.Machine
end

section
/-! PROOFS. The memory's canonical form under the Starter, preemption, the host's accesses and the handling of errors. -/
namespace Sys2Proof.Machine

open Sys2Proof

/-! ### Starting gangs and packets (R371 to R382) -/

theorem noteHead_mem (s : State) (x : LaunchQueue) (skip : Nat) (rsv : Bool) (k : HeadKind) : (noteHead s x skip rsv k).mem = s.mem := by
  cases k <;> rfl

theorem endReservation_mem (s : State) (p : Fin 8) : (endReservation s p).mem = s.mem := by
  unfold endReservation
  dsimp only
  split
  · exact (noteHead_mem ..).trans rfl
  · rfl

theorem clearHead_mem (s : State) (p : Fin 8) (q : Fin 64) : (clearHead s p q).mem = s.mem := by
  unfold clearHead
  dsimp only
  split
  · exact (endReservation_mem ..).trans rfl
  · rfl

theorem startSaved_mem (s : State) (x : LaunchQueue) (g : Gang) (places : List Place) : (startSaved s x g places).mem = s.mem := by
  unfold startSaved bumpStart
  dsimp only
  split
  · exact (endReservation_mem ..).trans ((foldl_mem (fun s y => by split <;> rfl) _ _).trans rfl)
  · exact (foldl_mem (fun s y => by split <;> rfl) _ _).trans rfl

theorem addHarts_mem (p : Fin 8) (k : Packet) (info : HeadInfo) (s : State) (id : Nat) (xs : List Place) :
    (addHarts p k info s id xs).mem = s.mem := by
  induction xs generalizing s id with
  | nil => rfl
  | cons x xs ih => exact (ih ..).trans (cacheAcquire_mem ..)

theorem startPacket_mem (s : State) (x : LaunchQueue) (k : Packet) (info : HeadInfo) (places : List Place) :
    (startPacket s x k info places).mem = s.mem := by
  unfold startPacket
  exact (addHarts_mem ..).trans (clearHead_mem ..)

theorem startHead_mem (s : State) (x : LaunchQueue) (k : HeadKind) (places : List Place) : (startHead s x k places).mem = s.mem := by
  unfold startHead
  split
  · exact startSaved_mem ..
  · exact startPacket_mem ..
  · rfl

theorem passQueue_mem (p : Fin 8) (q : Fin 64) (l : Fin 5) (n : Nat) (s : State) : (passQueue p q l n s).mem = s.mem := by
  induction n generalizing s with
  | zero => rfl
  | succ n ih =>
    unfold passQueue
    dsimp only
    split
    · rfl
    split
    · split
      · split
        · rfl
        · exact (ih _).trans (startHead_mem ..)
      · exact noteHead_mem ..
    · rfl

theorem passLevel_mem (p : Fin 8) (s : State) (l : Fin 5) : (passLevel p s l).mem = s.mem :=
  foldl_mem (fun _ _ => passQueue_mem ..) _ _

theorem preemptPass_mem (s : State) (p : Fin 8) : (preemptPass s p).mem = s.mem := by
  unfold preemptPass
  dsimp only
  repeat' split
  all_goals rfl

theorem pass_mem (s : State) (p : Fin 8) : (pass s p).mem = s.mem := by
  unfold pass
  dsimp only
  split
  · exact (preemptPass_mem ..).trans ((foldl_mem (fun _ _ => passLevel_mem ..) _ _).trans rfl)
  · rfl

theorem runDue_mem (s : State) : (runDue s).mem = s.mem :=
  foldl_mem (fun s p => by split; exacts [pass_mem .., rfl]) _ _

theorem endTurn_keepsForm {o : Out} (h : o.keepsForm) : (endTurn o).keepsForm := by
  cases o with
  | next s => exact memoryOk_of_mem (next_keepsForm h) (runDue_mem s)
  | fault _ => trivial
  | refused _ => trivial

theorem beginTurn_mem (s : State) : (beginTurn s).mem = s.mem := rfl

section

variable {s : State} (h : s.memoryOk)

include h

theorem endReservation_memoryOk (p : Fin 8) : (endReservation s p).memoryOk := memoryOk_of_mem h (endReservation_mem s p)

theorem clearHead_memoryOk (p : Fin 8) (q : Fin 64) : (clearHead s p q).memoryOk := memoryOk_of_mem h (clearHead_mem s p q)

/-! ### Launch packets and the Starter's checks (R370 to R378) -/

theorem apertureWrite_memoryOk (fn : Fn) (p : Fin 8) (q : Fin 64) (off : Nat) (data : List Byte) (en : Bool) (cls : Fin 4) :
    (apertureWrite s fn p q off data en cls).memoryOk := by
  unfold apertureWrite
  split
  · exact h
  dsimp only
  split
  · exact h
  split
  · exact h
  split
  · exact h
  split
  · exact h
  · exact acceptPacket_memoryOk h ..

theorem launchQueued_memoryOk (fn : Fn) (p : Fin 8) (q : Fin 64) (off : Nat) (data : List Byte) (en : Bool) (cls : Fin 4) :
    (launchQueued s fn p q off data en cls).memoryOk := by
  unfold launchQueued
  split
  · exact h
  · exact apertureWrite_memoryOk h ..

theorem launchWrite_memoryOk (fn : Fn) (p : Fin 8) (q : Fin 64) (off : Nat) (data : List Byte) : (launchWrite s fn p q off data).memoryOk :=
  launchQueued_memoryOk h ..

theorem qcfgStore_memoryOk (p : Fin 8) (q : Fin 64) (v : Word) : (qcfgStore s p q v).memoryOk := by
  unfold qcfgStore
  dsimp only
  split
  · exact endReservation_memoryOk (s := modLaunch s p q _) h p
  · exact h

theorem launchError_memoryOk (p : Fin 8) (q : Fin 64) (code : Nat) : (launchError s p q code).memoryOk := by
  unfold launchError
  dsimp only
  split
  · exact h
  · exact postRecord_memoryOk (clearHead_memoryOk h ..) ..

theorem starterStop_keepsForm (p : Fin 8) (q : Fin 64) (code : Nat) (e : Stop) : (starterStop s p q code e).keepsForm := by
  unfold starterStop
  split
  · exact launchError_memoryOk h ..
  · exact h
  · trivial
  · extract_lets tok s'
    exact next_keepsForm (postRecord_memoryOk (s := s') h ..)
  · split <;> exact h

theorem waitCheck_keepsForm (p : Fin 8) (q : Fin 64) (k : Packet) (info : HeadInfo) : (waitCheck s p q k info).keepsForm := by
  unfold waitCheck
  split
  · exact h
  split
  · exact launchError_memoryOk h ..
  split
  · exact starterStop_keepsForm h ..
  · exact h

theorem headCheck_keepsForm (p : Fin 8) (q : Fin 64) : (headCheck s p q).keepsForm := by
  unfold headCheck
  dsimp only
  split
  · exact h
  · exact h
  split
  · exact h
  split
  · exact starterStop_keepsForm h ..
  refine ite_keepsForm (launchError_memoryOk h ..) ?_
  refine ite_keepsForm (launchError_memoryOk h ..) ?_
  refine ite_keepsForm (launchError_memoryOk h ..) ?_
  split
  · split
    · exact starterStop_keepsForm h ..
    · exact waitCheck_keepsForm h ..
  · exact waitCheck_keepsForm h ..

theorem waitRecheck_keepsForm (p : Fin 8) (q : Fin 64) : (waitRecheck s p q).keepsForm := by
  unfold waitRecheck
  dsimp only
  split
  · split
    · exact h
    · exact waitCheck_keepsForm h ..
  · exact h

theorem starterRound_keepsForm (p : Fin 8) : (starterRound s p).keepsForm := by
  unfold starterRound
  extract_lets part
  split
  · exact h
  rename_i s1 s2 recheck _
  have hr : Out.keepsForm recheck :=
    List.foldlRecOn (motive := Out.keepsForm) _ _ (next_keepsForm (t := s2) h) fun o ho q _ => by
      cases o with
      | next s => exact waitRecheck_keepsForm (next_keepsForm ho) p q
      | fault _ => trivial
      | refused _ => trivial
  clear_value recheck
  cases recheck with
  | next s => exact memoryOk_of_mem (next_keepsForm hr) (pass_mem ..)
  | fault _ => trivial
  | refused _ => trivial

/-! ### Preemption (R384 to R393) -/

theorem beginSave_memoryOk (p : Fin 8) (gang : BitVec 32) (deadline : Nat) : (beginSave s p gang deadline).memoryOk :=
  finishSave_memoryOk (foldl_memoryOk (fun _ _ hs => modHart_memoryOk hs ..) _ (by exact h)) ..

theorem preemptionStart_memoryOk (p : Fin 8) (gang : BitVec 32) : (preemptionStart s p gang).memoryOk := by
  unfold preemptionStart
  split
  · exact h
  split
  · exact beginSave_memoryOk h ..
  · exact h

theorem stopMemory_keepsForm (w : Word) (k i : Nat) (x : Hart) : (stopMemory w k s i x).keepsForm := by
  unfold stopMemory
  extract_lets f sel q base other sc
  refine ite_keepsForm h ?_
  refine ite_keepsForm (storeRun_keepsForm h ..) ?_
  refine ite_keepsForm (storeRun_keepsForm h ..) ?_
  refine ite_keepsForm (storeRun_keepsForm h ..) ?_
  refine ite_keepsForm ?_ h
  split
  · exact atomicRun_keepsForm h ..
  · exact h

theorem stopPacer_memoryOk {k i : Nat} {x : Hart} {t : State} (e : stopPacer k s i x = some t) : t.memoryOk := by
  unfold stopPacer at e
  split at e
  · cases e
  split at e
  · cases e
  next w _ =>
    split at e
    · next hs =>
      split at e
      · cases e
        exact (stopMemory_keepsForm h w k i x).next hs
      · cases e
    · cases e

theorem stopConvoy_memoryOk (k i : Nat) (x : Hart) : (stopConvoy k s i x).memoryOk := by
  unfold stopConvoy
  generalize headConvoy x.anchor.viq = c
  obtain ⟨es, rest⟩ := c
  dsimp only
  split
  · exact h
  split
  · exact h
  split
  · exact h
  split
  · exact h
  split
  · exact performConvoy_memoryOk h ..
  · exact h

theorem goOnHard_memoryOk (ak i : Nat) : (stopHart.goOnHard ak i s).memoryOk := by
  unfold stopHart.goOnHard
  split
  · exact h
  split
  · exact h
  · exact stopConvoy_memoryOk h ..

theorem stopHart_memoryOk (ak pk i : Nat) : (stopHart ak pk s i).memoryOk := by
  unfold stopHart
  split
  · exact h
  split
  · exact h
  dsimp only
  split
  · next hs => exact goOnHard_memoryOk (modHart_memoryOk (stopPacer_memoryOk h hs) ..) ..
  split
  · exact h
  · exact goOnHard_memoryOk (modHart_memoryOk h ..) ..

theorem deadlineExpiry_memoryOk (p : Fin 8) (gang : BitVec 32) (elems : List Nat) : (deadlineExpiry s p gang elems).memoryOk := by
  unfold deadlineExpiry
  split
  · exact h
  split
  · exact foldl_memoryOk (fun _ _ hs => stopHart_memoryOk hs ..) _ h
  · exact h

theorem saveComplete_memoryOk (i : Nat) : (saveComplete s i).memoryOk := by
  unfold saveComplete
  split
  · exact h
  split
  · split
    · exact h
    · next e => exact finishSave_memoryOk (saveNow_memoryOk h _ _ _ _ e) ..
  · exact h

theorem takeContext_memoryOk {i : Nat} {x : Hart} {t : State} (e : takeContext s i x = some t) : t.memoryOk := by
  unfold takeContext at e
  split at e
  · cases e; exact h
  split at e <;> cases e
  exact h

theorem restoreHart_memoryOk (i : Nat) (x : Hart) (sc : Scope) (m : HartMode) : (restoreHart s i x sc m).memoryOk := by
  unfold restoreHart
  extract_lets loc
  split
  split
  · exact postRecord_memoryOk (setHart_memoryOk h ..) ..
  split
  · exact postRecord_memoryOk (endGang_memoryOk h ..) ..
  · exact setHart_memoryOk (vectorAfter_memoryOk (cacheAcquire_memoryOk h ..) ..) ..

theorem restoreWhenOpen_memoryOk (i : Nat) (x : Hart) (sc : Scope) (m : HartMode) : (restoreWhenOpen s i x sc m).memoryOk := by
  unfold restoreWhenOpen
  split
  · exact h
  split
  · exact h
  · next e => exact restoreHart_memoryOk (takeContext_memoryOk h e) ..

theorem hartResume_memoryOk (i : Nat) : (hartResume s i).memoryOk := by
  unfold hartResume
  split
  · exact h
  split
  · exact h
  split
  · exact restoreWhenOpen_memoryOk h ..
  split
  · exact restoreWhenOpen_memoryOk h ..
  split
  · exact restoreWhenOpen_memoryOk h ..
  · exact h

theorem trappedResume_memoryOk (p : Fin 8) (gang : BitVec 32) (id : Nat) : (trappedResume s p gang id).memoryOk := by
  unfold trappedResume
  split
  · exact h
  split
  · exact h
  split
  · dsimp only
    split
    · exact hartResume_memoryOk (setHart_memoryOk h ..) _
    · exact h
  · exact h

theorem forcePreempt_memoryOk (p : Fin 8) (v : Word) : (forcePreempt s p v).memoryOk := by
  unfold forcePreempt
  dsimp only
  split
  · exact beginSave_memoryOk h ..
  · exact h

theorem forceEnd_memoryOk (p : Fin 8) (v : Word) : (forceEnd s p v).memoryOk := by
  unfold forceEnd
  dsimp only
  split
  · exact endGang_memoryOk h ..
  · exact h

/-! ### Translations dropped, faults answered (R396 to R400) -/

theorem finishInvalidate_memoryOk (p : Fin 8) : (finishInvalidate s p).memoryOk := by
  unfold finishInvalidate
  dsimp only
  split
  · exact performAll_memoryOk h p
  · exact h

theorem retryWaiter_keepsForm (tok : BitVec 32) (w : Waiter) : (retryWaiter s tok w).keepsForm := by
  cases w with
  | thread i u c va => exact h
  | engine i q => exact h
  | head p q =>
    unfold retryWaiter
    dsimp only
    split
    · exact waitRecheck_keepsForm (s := modLaunch s p q _) h ..
    · exact headCheck_keepsForm (s := modLaunch s p q _) h ..

theorem replayRetry_keepsForm (p : Fin 8) (tok : BitVec 32) : (replayRetry s p tok).keepsForm := by
  unfold replayRetry
  split
  · exact h
  · exact retryWaiter_keepsForm (s := forgetToken s tok) h ..

theorem declineThread_memoryOk (i : Nat) (u : ExecUnit) (code : BitVec 8) (va : Word) : (declineThread s i u code va).memoryOk := by
  unfold declineThread
  extract_lets mine s1
  have h1 : s1.memoryOk := h
  clear_value s1
  split
  · exact h1
  dsimp only
  split
  · exact setAnchor_memoryOk h1 ..
  split
  · exact deliverStopped_memoryOk (setHart_memoryOk h1 ..) ..
  · exact deliverTrap_memoryOk (setHart_memoryOk h1 ..) ..

theorem declineWaiter_memoryOk (tok : BitVec 32) (w : Waiter) : (declineWaiter s tok w).memoryOk := by
  cases w with
  | thread i u c va => exact declineThread_memoryOk h ..
  | engine i q => exact h
  | head p q => exact launchError_memoryOk h ..

theorem replayDecline_memoryOk (p : Fin 8) (tok : BitVec 32) : (replayDecline s p tok).memoryOk := by
  unfold replayDecline
  split
  · exact h
  · exact declineWaiter_memoryOk (s := forgetToken s tok) h ..

theorem writeFqHead_memoryOk (p : Fin 8) (v : Word) : (writeFqHead s p v).memoryOk :=
  postWaiting_memoryOk _ (s := modPart s p _) h p

theorem answerRequests_keepsForm (granted : Bool) (rs : List PageRequest) : (answerRequests granted s rs).keepsForm := by
  induction rs generalizing s with
  | nil => exact h
  | cons r rs ih =>
    unfold answerRequests
    extract_lets s1
    have h1 : s1.memoryOk := h
    clear_value s1
    split
    · have hr := retryWaiter_keepsForm h1 r.token r.waiter
      split
      · next e => exact ih (hr.next e)
      · exact hr
    · exact ih (declineWaiter_memoryOk h1 ..)

theorem priAnswer_keepsForm (p : Fin 8) (page : Nat) (granted : Bool) : (priAnswer s p page granted).keepsForm := by
  unfold priAnswer
  dsimp only
  refine answerRequests_keepsForm ?_ ..
  split <;> exact h

/-! ### Accesses from outside (R409) -/

theorem outsideStore_memoryOk (loc : Nat) (data : List Byte) : (outsideStore s loc data).memoryOk := by
  unfold outsideStore
  split
  · exact homeWrite_memoryOk h ..
  · exact h

theorem outsideRead_memoryOk (loc n : Nat) : (outsideRead s loc n).memoryOk := by
  unfold outsideRead
  split <;> exact h

theorem peerAccess_memoryOk (r : PeerReq) : (peerAccess s r).memoryOk := by
  unfold peerAccess
  split
  · split
    · exact outsideStore_memoryOk h ..
    · exact h
  · split
    · exact outsideRead_memoryOk h ..
    · exact h
  · extract_lets n
    split
    · exact h
    dsimp only
    split
    · exact h
    · have hs : ∀ (o : Option Nat) (loc n : Nat),
          (match o with | some v => homeWrite s loc (leBytes n v) false | none => s).memoryOk := fun o _ _ => by
        cases o with
        | none => exact h
        | some v => exact homeWrite_memoryOk h ..
      exact hs ..

theorem performRequest_memoryOk (who : Outsider) (r : PeerReq) : (performRequest s who r).memoryOk := by
  unfold performRequest
  split
  · exact h
  split
  · exact peerAccess_memoryOk h _
  · exact outsideStore_memoryOk h ..
  · exact outsideRead_memoryOk h ..
  · exact h

theorem outsideRequest_memoryOk (who : Outsider) (r : PeerReq) : (outsideRequest s who r).memoryOk := by
  unfold outsideRequest
  split
  · exact h
  · exact performRequest_memoryOk h ..

theorem outsideAgain_memoryOk : (outsideAgain s).memoryOk :=
  foldl_memoryOk (fun _ x hs => by
    split
    · exact outsideRequest_memoryOk hs ..
    · exact launchQueued_memoryOk hs ..
    · exact hs) _ (by exact h)

/-! ### Errors and recovery (R402 to R407) -/

theorem recordError_memoryOk (cls unit sev die place : Nat) (key : List Nat) : (recordError s cls unit sev die place key).memoryOk :=
  postLog_memoryOk (s := modMgmt s _) h _

theorem fenceTrack_memoryOk (core t : Nat) : (fenceTrack s core t).memoryOk :=
  foldl_memoryOk (fun _ _ hs => beginSave_memoryOk hs ..) _ h

theorem startRecovery_memoryOk (u : ErrUnit) (sev loc : Nat) : (startRecovery s u sev loc).memoryOk := by
  unfold startRecovery
  generalize unitClass u = c
  obtain ⟨cls, unit, die⟩ := c
  have hc : (countError s (unitKey u)).1.memoryOk := h
  generalize countError s (unitKey u) = c at hc ⊢
  obtain ⟨s1, cnt⟩ := c
  have h2 := postLog_memoryOk hc (logRecord s1 cls unit sev 0 die (placeOf u loc) cnt)
  dsimp only at h2 ⊢
  generalize postLog s1 (logRecord s1 cls unit sev 0 die (placeOf u loc) cnt) = s2 at h2 ⊢
  split
  · exact h2
  split
  · exact fenceTrack_memoryOk (s := modMgmt s2 _) h2 ..
  · exact h2

theorem detectError_memoryOk (e : ErrorEvent) : (detectError s e).memoryOk := by
  have hr := fun cls unit sev die place key => recordError_memoryOk h cls unit sev die place key
  unfold detectError
  split
  · split
    · exact startRecovery_memoryOk h ..
    split
    · refine startRecovery_memoryOk ?_ ..
      split <;> exact h
    · exact h
  · extract_lets s1
    have h1 : s1.memoryOk := hr ..
    clear_value s1
    split
    · exact h1
    split
    · exact h1
    dsimp only
    split
    · exact h1
    · exact l1WriteBytes_memoryOk h1 ..
  · extract_lets s1
    have h1 : s1.memoryOk := hr ..
    clear_value s1
    split <;> exact h1
  · split
    · exact h
    · refine startRecovery_memoryOk ?_ ..
      split <;> exact h
  · split
    · exact h
    extract_lets s1
    have h1 : s1.memoryOk := hr ..
    clear_value s1
    split <;> exact h1
  · split
    · exact h
    extract_lets s1
    have h1 : s1.memoryOk := hr ..
    clear_value s1
    split <;> exact h1

theorem deliverWaiting_memoryOk (i : Nat) : (deliverWaiting s i).memoryOk := by
  unfold deliverWaiting
  split
  · exact h
  split
  · exact deliverStopped_memoryOk h ..
  · exact h

theorem afterFence_memoryOk : (afterFence s).memoryOk :=
  foldl_memoryOk (fun _ _ hs => deliverWaiting_memoryOk hs _) _ (outsideAgain_memoryOk h)

theorem finishRecovery_memoryOk (u : ErrUnit) (passed : Bool) : (finishRecovery s u passed).memoryOk := by
  unfold finishRecovery
  split
  · exact h
  split
  · exact h
  extract_lets ready
  split
  · exact h
  split
  extract_lets spare outcome s1 s2
  have h2 : s2.memoryOk := postLog_memoryOk (s := s1) h _
  clear_value s2
  split
  · refine foldl_memoryOk (fun _ _ hs => ?_) _ h2
    split
    · exact freeTracks_memoryOk hs ..
    · exact hs
  · exact afterFence_memoryOk h2

theorem modMgmt_memoryOk (f : Management → Management) : (modMgmt s f).memoryOk := h

theorem completeDump_memoryOk : (completeDump s).memoryOk := by
  unfold completeDump
  generalize dumpBytes s = bs
  generalize dumpBase = loc
  refine ite_memoryOk (modMgmt_memoryOk (homeWrite_memoryOk ?_ loc bs false) _) h
  exact h

theorem thermalTrip_memoryOk (tj : BitVec 8) : (thermalTrip s tj).memoryOk :=
  fatalStop_memoryOk (s := modMgmt { s with free := s.free + 3 } _) h ..

/-! ### The management firmware's services and the resets (R405 to R418) -/

theorem shapeWrite_memoryOk (p : Fin 8) (v : Word) : (shapeWrite s p v).memoryOk := by
  unfold shapeWrite
  dsimp only
  split <;> exact h

theorem startSnapshot_memoryOk : (startSnapshot s).memoryOk := by
  unfold startSnapshot
  dsimp only
  split
  · exact h
  split <;> exact h

theorem finishSnapshot_memoryOk : (finishSnapshot s).memoryOk := by
  unfold finishSnapshot
  split
  · exact h
  · exact homeWrite_memoryOk h _ _ false

theorem attestationRequest_memoryOk : (attestationRequest s).memoryOk := by
  unfold attestationRequest
  dsimp only
  split
  · exact h
  split
  · exact h
  split
  · exact h
  split <;> exact h

theorem attestationDone_memoryOk : (attestationDone s).memoryOk := by
  unfold attestationDone
  split
  · exact h
  · exact homeWrite_memoryOk h _ _ false

theorem bootFirmware_memoryOk (a b : List Byte) : (bootFirmware s a b).memoryOk := by
  unfold bootFirmware
  split
  · exact h
  dsimp only
  split <;> exact h

theorem resetVf_memoryOk (p : Fin 8) : (resetVf s p).memoryOk := by
  have hg : ((s.gangs.filter fun g => g.part == p).foldl (fun s g => endGang s p g.gangid) s).memoryOk :=
    foldl_memoryOk (fun _ _ hs => endGang_memoryOk hs ..) _ h
  unfold resetVf
  generalize (s.gangs.filter fun g => g.part == p).foldl (fun s g => endGang s p g.gangid) s = s1 at hg ⊢
  exact hg

theorem resetDevice_memoryOk : (resetDevice s).memoryOk := h

/-- Dropping cells leaves the rest ascending and without zeros. -/
theorem powerLoss_memoryOk : (powerLoss s).memoryOk := by
  have hw := (Memory.wf_iff s.mem).1 h
  exact (Memory.wf_iff _).2 ⟨hw.1.filter _, fun c hc => hw.2 c (List.mem_of_mem_filter hc)⟩

theorem writeRegister_memoryOk (off : Nat) (v : Word) : (writeRegister s off v).memoryOk := by
  unfold writeRegister
  split
  · dsimp only
    split <;> exact h
  · dsimp only
    split <;> exact h

end

end Sys2Proof.Machine
end

section
/-! PROOFS. Every instruction, every turn and so every step keeps the memory's canonical form (log 3). -/
namespace Sys2Proof.Machine

open Sys2Proof

section

variable {s : State} (h : s.memoryOk)

include h

/-! ### Instructions whose meaning is written out in their own definition -/

theorem execCmov_keepsForm (d : Reg) (s1 : Reg) (s2 : Reg) (s3 : Reg) : (execCmov d s1 s2 s3 s).keepsForm :=
  onThread_keepsForm h _ fun _ _ _ => writeBack_keepsForm h ..

theorem execLi_keepsForm (d : Reg) (imm : BitVec 32) : (execLi d imm s).keepsForm :=
  onThread_keepsForm h _ fun _ _ _ => writeBack_keepsForm h ..

theorem execLih_keepsForm (d : Reg) (imm : BitVec 32) : (execLih d imm s).keepsForm :=
  onThread_keepsForm h _ fun _ _ _ => writeBack_keepsForm h ..

theorem execEret_keepsForm : (execEret s).keepsForm :=
  supervisor_keepsForm h _ fun _ _ _ => next_keepsForm (setHart_memoryOk h ..)

theorem execCpy_keepsForm (tag : Fin 64) (dst : Reg) (src : Reg) (n : Reg) : (execCpy tag dst src n s).keepsForm :=
  onPacer_keepsForm h fun _ _ _ => issue_keepsForm h ..

theorem execCpy2_keepsForm (tag : Fin 64) (dst src rows rowBytes spitch dpitch : Reg) (sw : Bool) :
    (execCpy2 tag dst src rows rowBytes spitch dpitch sw s).keepsForm :=
  onPacer_keepsForm h fun _ _ _ => issue_keepsForm h ..

theorem execCpyx_keepsForm (tag : Fin 64) (dst dpitch base tpitch rowBytes list count limit : Reg) (sw : Bool) :
    (execCpyx tag dst dpitch base tpitch rowBytes list count limit sw s).keepsForm :=
  onPacer_keepsForm h fun _ _ _ => issue_keepsForm h ..

theorem execKtlbiVa_keepsForm (s1 : Reg) (s2 : Reg) : (execKtlbiVa s1 s2 s).keepsForm :=
  superInvalidate_keepsForm h _

theorem execKtlbiPart_keepsForm (s2 : Reg) : (execKtlbiPart s2 s).keepsForm :=
  superInvalidate_keepsForm h _

theorem execKtlbiAll_keepsForm : (execKtlbiAll s).keepsForm :=
  superInvalidate_keepsForm h _

end

/-- Each instruction and each event keeps the form, by the lemma of the operation that gives it its meaning. -/
theorem exec_keepsForm {s : State} (h : s.memoryOk) (i : Instr) : Out.keepsForm (exec i s) := by
  cases i with
  | add | sub | mul | mulh | mulhn | div | divn | rem | remn | and | or | xor | andn | shl | shr | sra | rot | min | max | minn | maxn
      | slt | sltn | seq =>
    exact scalar2_keepsForm h ..
  | clz | ctz | popc =>
    exact scalar1_keepsForm h ..
  | addImm | subImm | mulImm | mulhImm | mulhnImm | divImm | divnImm | remImm | remnImm | andImm | orImm | xorImm | andnImm | minImm |
      maxImm | minnImm | maxnImm | sltImm | sltnImm | seqImm =>
    exact scalarImm_keepsForm h ..
  | shlImm | shrImm | sraImm | rotImm =>
    exact scalarShift_keepsForm h ..
  | fadd | fsub | fmul | fdiv | fsqrt | fmin | fmax =>
    exact float2_keepsForm h ..
  | ffma =>
    exact float3_keepsForm h ..
  | fcvt =>
    exact floatConvert_keepsForm h ..
  | fcmpEq | fcmpLt | fcmpLe | fcmpUn =>
    exact floatCompare_keepsForm h ..
  | getc =>
    exact getControl_keepsForm h ..
  | setc =>
    exact setControl_keepsForm h ..
  | setvl =>
    exact setLength_keepsForm h ..
  | setvlm =>
    exact setLengthMask_keepsForm h ..
  | qpush =>
    exact queuePush_keepsForm h ..
  | qpop =>
    exact queuePop_keepsForm h ..
  | beq | bne | blt | bge | bltn | bgen =>
    exact branch_keepsForm h ..
  | jal =>
    exact jumpLink_keepsForm h ..
  | jalr =>
    exact jumpReg_keepsForm h ..
  | bmskAny | bmskNone =>
    exact branchMask_keepsForm h ..
  | lap =>
    exact lapStep_keepsForm h ..
  | vfetch | vadd | vsub | vmul | vmulh | vfma | vfms | vdiv | vsqrt | vrcp | vrsq | vexp2 | vlog2 | vmin | vmax | vabs | vneg | vand
      | vor | vxor | vnot | vshl | vshr | vsrr | vadds | vsubs | vmac2 | vsel | vcmpEq | vcmpNe | vcmpLt | vcmpLe | vcmpGt | vcmpGe |
      vcmpUn | vcmpOd | vaddScalar | vsubScalar | vmulScalar | vmulhScalar | vfmaScalar | vfmsScalar | vdivScalar | vminScalar |
      vmaxScalar | vandScalar | vorScalar | vxorScalar | vshlScalar | vshrScalar | vsrrScalar | vaddsScalar | vsubsScalar | vmac2Scalar
      | vselScalar | vcmpEqScalar | vcmpNeScalar | vcmpLtScalar | vcmpLeScalar | vcmpGtScalar | vcmpGeScalar | vcmpUnScalar |
      vcmpOdScalar | vaddImm | vsubImm | vmulImm | vminImm | vmaxImm | vandImm | vorImm | vxorImm | vshlImm | vshrImm | vsrrImm |
      vaddsImm | vsubsImm | vcmpEqImm | vcmpNeImm | vcmpLtImm | vcmpLeImm | vcmpGtImm | vcmpGeImm | vtag | vretag | vsplat | vpush |
      vcvt | vcvtS | vqcvt | vdq | vbfly | vbflyF | vrand | vutf8 | mand | mor | mxor | mnot | mset | vslideup | vslidedn | vslideupImm
      | vslidednImm | vrgather | vrgather2 | vcompress | vexpand | viota | vextr | vextrImm | vins | vinsImm | vredsum | vredmax |
      vredmin | vredbitAnd | vredbitOr | vredbitXor | vscanSum | vscanMax | vscanMin | vscanSumX | vscanMaxX | vscanMinX | vargmax |
      vargmin | mpopc | mfirst | kset | kget | kupSum | kupMax | kupMin | kdownSum | kdownMax | kdownMin | kbcast | kdepth | kanc |
      kancIs | kcontract | kroot | kcheck | settl | mzero | mstageA | mstageB | mma | mldt | mstt | mtov | mclaim | mrel =>
    exact vectorInstr_keepsForm h ..
  | tfetch | tstop =>
    exact directBlock_keepsForm h ..
  | vloop =>
    exact loopPlain_keepsForm h ..
  | vloopS =>
    exact loopModulo_keepsForm h ..
  | trap | brk =>
    exact userTrap_keepsForm h ..
  | hcall =>
    exact hostCall_keepsForm h ..
  | sgetc =>
    exact superGet_keepsForm h ..
  | ssetc =>
    exact superSet_keepsForm h ..
  | gbar =>
    exact gbarStep_keepsForm h ..
  | vrel =>
    exact vrelStep_keepsForm h ..
  | hexit =>
    exact hexitStep_keepsForm h ..
  | vld | vlds | vldx | vldff | vldw | vfil =>
    exact loadHere_keepsForm h ..
  | vst | vsts | vstx =>
    exact elementStore_keepsForm h ..
  | vstw | vspl =>
    exact imageStore_keepsForm h ..
  | vamo =>
    exact vectorAtomic_keepsForm h ..
  | ldB | ldH | ldW | ldD | ldBn | ldHn | ldWn =>
    exact scalarLoad_keepsForm h ..
  | stB | stH | stW | stD =>
    exact scalarStore_keepsForm h ..
  | amoaddW | amoaddD | amoswapW | amoswapD | amominW | amominD | amomaxW | amomaxD | amoandW | amoandD | amoorW |
      amoorD | amoxorW | amoxorD | amominWn | amominDn | amomaxWn | amomaxDn =>
    exact atomic_keepsForm h ..
  | amocasW d s1 s2 ord off =>
    exact atomic_keepsForm h .cas 4 false d s1 s2 ord off
  | amocasD d s1 s2 ord off =>
    exact atomic_keepsForm h .cas 8 false d s1 s2 ord off
  | rsadd =>
    exact accAdd_keepsForm h ..
  | rsfin =>
    exact accFinish_keepsForm h ..
  | pftopk | pfscan =>
    exact photoIssue_keepsForm h ..
  | seam =>
    exact seamIssue_keepsForm h ..
  | fcinv | fcwb =>
    exact cacheIssue_keepsForm h ..
  | twany | twall =>
    exact tagWait_keepsForm h ..
  | tfirst =>
    exact tagFirst_keepsForm h ..
  | tclr =>
    exact tagClear_keepsForm h ..
  | qfence =>
    exact queueFence_keepsForm h ..
  | fenceSv =>
    exact fenceSvStep_keepsForm h ..
  | fenceVs =>
    exact fenceVsStep_keepsForm h ..
  | fenceVv =>
    exact fenceVvStep_keepsForm h ..
  | fenceAll =>
    exact fenceAllStep_keepsForm h ..
  | waitmEq | waitmNe =>
    exact waitWord_keepsForm h ..
  | glaunch =>
    exact launchFrom_keepsForm h ..
  | vfetchPass =>
    exact passStep_keepsForm h ..
  | shuttleComplete =>
    exact shuttleStep_keepsForm h ..
  | photoFinishComplete =>
    exact photoStep_keepsForm h ..
  | seamComplete =>
    exact seamStep_keepsForm h ..
  | cacheOpComplete =>
    exact cacheStep_keepsForm h ..
  | headPacketCheck =>
    exact headCheck_keepsForm h ..
  | headWaitRecheck =>
    exact waitRecheck_keepsForm h ..
  | starterRound =>
    exact starterRound_keepsForm h ..
  | priResponse =>
    exact priAnswer_keepsForm h ..
  | viqCommit =>
    exact commitStep_memoryOk h ..
  | matrixQueuePerform =>
    exact matrixTurn_memoryOk h ..
  | mclaimGrant =>
    exact claimGrant_memoryOk h ..
  | vectorLoadDelivery =>
    exact deliveryStep_memoryOk h ..
  | engineCommandStart =>
    exact engineStart_memoryOk h ..
  | rsaddRenormalise =>
    exact renormaliseAt_memoryOk h ..
  | dirtyLineWriteback =>
    exact evictLine_memoryOk h ..
  | queueDeadlockTrap =>
    exact deadlockStep_memoryOk h ..
  | gbarComplete =>
    exact gbarComplete_memoryOk h ..
  | waitmWake =>
    exact waitWake_memoryOk h ..
  | waitmTimeout =>
    exact waitTimeout_memoryOk h ..
  | hartRetire =>
    exact retireHart_memoryOk h ..
  | launchPacketWrite =>
    exact launchWrite_memoryOk h ..
  | preemptionStart =>
    exact preemptionStart_memoryOk h ..
  | preemptDeadlineExpiry =>
    exact deadlineExpiry_memoryOk h ..
  | saveComplete =>
    exact saveComplete_memoryOk h ..
  | hartResume =>
    exact hartResume_memoryOk h ..
  | tlbinvComplete =>
    exact finishInvalidate_memoryOk h ..
  | errorDetected =>
    exact detectError_memoryOk h ..
  | recoveryComplete =>
    exact finishRecovery_memoryOk h ..
  | dumpComplete =>
    exact completeDump_memoryOk h ..
  | thermalTrip =>
    exact thermalTrip_memoryOk h ..
  | telemetrySnapshotDone =>
    exact finishSnapshot_memoryOk h ..
  | attestationDone =>
    exact attestationDone_memoryOk h ..
  | firmwareBoot =>
    exact bootFirmware_memoryOk h ..
  | vfFunctionLevelReset =>
    exact resetVf_memoryOk h ..
  | pfFunctionLevelReset =>
    exact resetDevice_memoryOk h ..
  | accessPerformed =>
    exact storePerformed_memoryOk h ..
  | powerLoss =>
    exact powerLoss_memoryOk h ..
  | trappedHartResume =>
    exact trappedResume_memoryOk h ..
  | cmov =>
    exact execCmov_keepsForm h ..
  | li =>
    exact execLi_keepsForm h ..
  | lih =>
    exact execLih_keepsForm h ..
  | nop | yield =>
    exact onThread_keepsForm h _ fun _ _ _ => goOn_keepsForm h ..
  | eret =>
    exact execEret_keepsForm h ..
  | cpy =>
    exact execCpy_keepsForm h ..
  | cpy2 =>
    exact execCpy2_keepsForm h ..
  | cpyx =>
    exact execCpyx_keepsForm h ..
  | ktlbiVa =>
    exact execKtlbiVa_keepsForm h ..
  | ktlbiPart =>
    exact execKtlbiPart_keepsForm h ..
  | ktlbiAll =>
    exact execKtlbiAll_keepsForm h ..
  | qcfgWrite =>
    exact ite_memoryOk (qcfgStore_memoryOk h ..) h
  | gforcePreempt =>
    exact ite_memoryOk (forcePreempt_memoryOk h ..) h
  | gforceEnd =>
    exact ite_memoryOk (forceEnd_memoryOk h ..) h
  | replayDecline =>
    exact ite_memoryOk (replayDecline_memoryOk h ..) h
  | fqptrWrite =>
    exact ite_memoryOk (writeFqHead_memoryOk h ..) h
  | pshapeWrite =>
    exact ite_memoryOk (shapeWrite_memoryOk h ..) h
  | telemetrySnapshot =>
    exact ite_memoryOk (startSnapshot_memoryOk h) h
  | attestationRequest =>
    exact ite_memoryOk (attestationRequest_memoryOk h) h
  | registerWrite =>
    exact ite_memoryOk (writeRegister_memoryOk h ..) h
  | pquantWrite | tlbinvPage | tlbinvPartition | plimitWrite | fqbaseWrite | elbaseWrite =>
    exact ite_memoryOk (memoryOk_of_mem h rfl) h
  | thermalThrottle =>
    exact ite_memoryOk (thermalTrip_memoryOk h ..) (memoryOk_of_mem h rfl)
  | replayRetry =>
    exact ite_keepsForm (replayRetry_keepsForm h ..) (next_keepsForm h)
  | hostDeviceWrite | hostDeviceRead | peerRequest =>
    exact outsideRequest_memoryOk h ..
  | hostAtomicop | farCacheLineEviction | powerCapThrottle =>
    exact h
  | fatalError =>
    exact fatalStop_memoryOk (s := { s with free := s.free + 2 }) h ..

section

variable {s : State} (h : s.memoryOk)

include h

/-! ### Turns -/

theorem runInstr_keepsForm (i : Nat) (x : Hart) (u : ExecUnit) (ins : Instr) : (runInstr s i x u ins).keepsForm :=
  ite_keepsForm (trapHere_keepsForm h ..) (exec_keepsForm (s := { s with cur := ⟨i, u⟩ }) h ins)

theorem pacerWord_keepsForm (i : Nat) (x : Hart) : (pacerWord s i x).keepsForm := by
  unfold pacerWord
  split
  · exact trapAt_memoryOk h ..
  · exact stopAccess_keepsForm h ..
  next e =>
    have ht := fetchWord_memoryOk h e
    split
    · exact trapAt_memoryOk ht ..
    split
    · exact refuseWord_memoryOk ht ..
    · exact runInstr_keepsForm ht ..

theorem pacerTurn_keepsForm (i : Nat) : (pacerTurn s i).keepsForm := by
  unfold pacerTurn
  split
  · exact h
  split
  · exact h
  split
  · exact vectorLoad_keepsForm (s := { s with cur := ⟨i, .pacer⟩ }) h ..
  · exact pacerWord_keepsForm h ..

theorem frontInstr_keepsForm (i : Nat) (x : Hart) (joins : Bool) (ins : Instr) : (frontInstr s i x joins ins).keepsForm :=
  ite_keepsForm h (runInstr_keepsForm h ..)

theorem frontWord_keepsForm (i : Nat) (x : Hart) (w : Word) : (frontWord s i x w).keepsForm := by
  unfold frontWord
  split
  · next e =>
    split at e
    · cases e
    · exact closeConvoy_memoryOk h e
  · dsimp only
    split
    · exact refuseWord_memoryOk (setHart_memoryOk h ..) ..
    split
    · split
      · exact refuseAt_memoryOk (setHart_memoryOk h ..) ..
      · exact frontInstr_keepsForm (setHart_memoryOk h ..) ..
      · exact stopAccess_keepsForm (setHart_memoryOk h ..) ..
    · exact frontInstr_keepsForm (setHart_memoryOk h ..) ..

theorem threadWord_memoryOk {x : Hart} {t : Thread} {s' : State} {w : Word} {bad : Bool} (e : threadWord s x t = .ok (s', w, bad)) :
    s'.memoryOk := by
  unfold threadWord at e
  split at e
  · cases e; exact h
  · exact fetchWord_memoryOk h e

theorem frontFetched_keepsForm (i : Nat) (x : Hart) (r : Except Stop (State × Word × Bool)) (hr : ∀ t w bad, r = .ok (t, w, bad) → t.memoryOk) :
    (frontFetched s i x r).keepsForm := by
  unfold frontFetched
  split
  · exact fetchTrap_memoryOk h ..
  · split
    · exact fetchTrap_memoryOk h ..
    · exact stopAccess_keepsForm h ..
  · have ht := hr _ _ _ rfl
    split
    · exact fetchTrap_memoryOk ht ..
    · exact frontWord_keepsForm ht ..

theorem frontTrap_memoryOk (i : Nat) (x : Hart) (f : FrontTrap) : (frontTrap s i x f).memoryOk :=
  ite_memoryOk (deliverTrap_memoryOk (setAnchor_memoryOk h ..) ..) h

theorem anchorTurn_keepsForm (i : Nat) : (anchorTurn s i).keepsForm := by
  have hf : ∀ x, (frontFetched s i x (threadWord s x .anchor)).keepsForm := fun x =>
    frontFetched_keepsForm h i x _ fun _ _ _ => threadWord_memoryOk h
  unfold anchorTurn
  split
  · exact h
  split
  · exact h
  split
  · exact frontTrap_memoryOk h ..
  split
  · split
    · exact loopBoundary_memoryOk h ..
    · exact hf _
  · exact hf _

theorem runAgent_keepsForm (a : Agent) : (runAgent s a).keepsForm := by
  cases a with
  | pacer i => exact pacerTurn_keepsForm h i
  | anchor i => exact anchorTurn_keepsForm h i
  | event e => exact ite_keepsForm (exec_keepsForm h e) (next_keepsForm h)

theorem step_keepsForm : Out.keepsForm (step s) :=
  endTurn_keepsForm (runAgent_keepsForm (memoryOk_of_mem h (beginTurn_mem s)) _)

end

/-- Settles O57: each agent's turn keeps the form, as does the pass of the Starter that ends it. -/
theorem stepsKeepMemoryForm : Obligations.StepsKeepMemoryForm := by
  unfold Obligations.StepsKeepMemoryForm
  exact fun s t h e => Out.keepsForm.next (step_keepsForm h) e

end Sys2Proof.Machine
end

section
/-! PROOFS. What an address reaches, the page table walk and the translation caches (R102, R103, R106, R233, R394 to R396). -/
namespace Sys2Proof.Machine

open Sys2Proof

/-! ### What an address reaches (R102, R233) -/

theorem translate_beyond {s : State} {core : Nat} {p : Fin 8} {va : Word} {k : AccessKind} {b : Bool} (h : 0xF000140000000 ≤ va.toNat) :
    translate s core p va k b = .error (.trap 0x07 va) := by
  unfold translate
  simp only [h, if_true, ite_self]

/-- Near memory is reached on the partition's own dies only. -/
theorem translate_near_eq {s : State} {core : Nat} {p : Fin 8} {va : Word} {k : AccessKind} {b : Bool} (calm : s.mgmt.recoveries = [])
    (lo : 0xF000000000000 ≤ va.toNat) (hi : va.toNat < 0xF000140000000) :
    translate s core p va k b = if partHasCore s p ((va.toNat - 0xF000000000000) / 2 ^ 24) then .ok (nearLoc (va.toNat - 0xF000000000000), false)
      else .error (.trap 0x07 va) := by
  have h52 : ¬2 ^ 52 ≤ va.toNat := by omega
  have hhi : ¬0xF000140000000 ≤ va.toNat := by omega
  unfold translate
  simp only [h52, hhi, lo, if_true, if_false, fenced_none calm, Bool.false_eq_true]

section
variable {s : State} {core : Nat} {p : Fin 8} {va : Word} (calm : s.mgmt.recoveries = []) (lo : va.toNat < 0xF000000000000)
include calm lo

/-- An address whose page is not there has the fault record of its walk. -/
theorem translate_missing {level cause : Nat} (hl : leafOf s core p va.toNat = .error (level, cause)) (k : AccessKind) (b : Bool) :
    translate s core p va k b = .error (.missing va level cause) := by
  have h52 : ¬2 ^ 52 ≤ va.toNat := by omega
  have hhi : ¬0xF000140000000 ≤ va.toNat := by omega
  have hlo : ¬0xF000000000000 ≤ va.toNat := by omega
  unfold translate
  simp only [h52, hhi, hlo, if_false, tableFenced_none calm, Bool.false_eq_true, hl]

/-- A mapped address is translated by its leaf. -/
theorem translate_mapped {l : Leaf} (hl : leafOf s core p va.toNat = .ok l) (k : AccessKind) (b : Bool) :
    translate s core p va k b =
      if l.tgt == 2 && !b && (k == .load || k == .engineRead) then .error (.trap 0x07 va)
      else if !leafPermits l k then .error (.trap 0x07 va)
      else if l.tgt == 1 && !s.granted.contains (p, (l.pa + va.toNat % 2 ^ l.bits) / 4096) then
        .error (.ats ((l.pa + va.toNat % 2 ^ l.bits) / 4096))
      else if l.tgt == 0 && decide (farBytes ≤ leafLoc (pasidOf s p) l va.toNat) then .error (.hole (leafLoc (pasidOf s p) l va.toNat))
      else .ok (leafLoc (pasidOf s p) l va.toNat, l.c) := by
  have h52 : ¬2 ^ 52 ≤ va.toNat := by omega
  have hhi : ¬0xF000140000000 ≤ va.toNat := by omega
  have hlo : ¬0xF000000000000 ≤ va.toNat := by omega
  unfold translate
  simp only [h52, hhi, hlo, if_false, fenced_none calm, tableFenced_none calm, Bool.false_eq_true, hl]

end

theorem leafOf_unmapped {s : State} {p : Fin 8} (h : (s.parts[p].ptroot).getLsbD 0 = false) (core va : Nat) :
    leafOf s core p va = .error (4, 3) := by
  unfold leafOf
  simp only [h, beq_self_eq_true, if_true]

/-- The image of an offset in a stack (R106): its stack, its page in the stack and its offset in the page. -/
theorem stackLoc_parts {stack : Nat} (h : stack < 24) (q : Nat) :
    stackLoc stack q / 4096 % 24 = stack ∧ stackLoc stack q / 4096 / 24 = q / 4096 ∧ stackLoc stack q % 4096 = q % 4096 := by
  unfold stackLoc
  omega

theorem stackLoc_lt_farBytes {stack q : Nat} (h : stack < 24) (hq : q < 64 * 2 ^ 30) : stackLoc stack q < farBytes := by
  unfold stackLoc farBytes
  omega

theorem stackLoc_mono (stack : Nat) {p q : Nat} (h : p ≤ q) : stackLoc stack p ≤ stackLoc stack q := by
  unfold stackLoc
  omega

/-! ### The walk (R394 to R396) -/

theorem walkFrom_missing {m : List Host.Cell} {va level table : Nat}
    (hv : (readPte m (table + 8 * (va / 2 ^ (12 + 8 * level) % 256))).v = false) : walkFrom m va level table = .error (level, 1) := by
  rw [walkFrom.eq_def]
  simp only [hv, Bool.not_false, if_true]

theorem walkFrom_malformed {m : List Host.Cell} {va level table : Nat}
    (hv : (readPte m (table + 8 * (va / 2 ^ (12 + 8 * level) % 256))).v = true)
    (hm : (readPte m (table + 8 * (va / 2 ^ (12 + 8 * level) % 256))).malformed level = true) :
    walkFrom m va level table = .error (level, 2) := by
  rw [walkFrom.eq_def]
  simp only [hv, hm, Bool.not_true, Bool.false_eq_true, if_true, if_false]

/-- The leaf of the page that an entry maps: of its CONT group where that agrees, otherwise of the entry alone. -/
def pteLeaf (m : List Host.Cell) (table index level : Nat) (e : Pte) : Leaf :=
  if e.cont && contGroup m table index level e then
    ⟨16 + 8 * level, e.r, e.w, e.x, e.c, e.sl, e.tgt, (readPte m (table + 8 * (index / 16 * 16))).pa, e.stack, e.peer⟩
  else ⟨12 + 8 * level, e.r, e.w, e.x, e.c, e.sl, e.tgt, e.pa, e.stack, e.peer⟩

theorem walkFrom_leaf {m : List Host.Cell} {va level table : Nat}
    (hv : (readPte m (table + 8 * (va / 2 ^ (12 + 8 * level) % 256))).v = true)
    (hm : (readPte m (table + 8 * (va / 2 ^ (12 + 8 * level) % 256))).malformed level = false)
    (hl : (readPte m (table + 8 * (va / 2 ^ (12 + 8 * level) % 256))).leaf = true) :
    walkFrom m va level table =
      .ok (pteLeaf m table (va / 2 ^ (12 + 8 * level) % 256) level (readPte m (table + 8 * (va / 2 ^ (12 + 8 * level) % 256)))) := by
  rw [walkFrom.eq_def]
  simp only [hv, hm, hl, Bool.not_true, Bool.false_eq_true, if_true, if_false]
  exact (apply_ite Except.ok ..).symm

theorem walkFrom_table {m : List Host.Cell} {va n table : Nat}
    (hv : (readPte m (table + 8 * (va / 2 ^ (12 + 8 * (n + 1)) % 256))).v = true)
    (hm : (readPte m (table + 8 * (va / 2 ^ (12 + 8 * (n + 1)) % 256))).malformed (n + 1) = false)
    (hl : (readPte m (table + 8 * (va / 2 ^ (12 + 8 * (n + 1)) % 256))).leaf = false) :
    walkFrom m va (n + 1) table = walkFrom m va n (readPte m (table + 8 * (va / 2 ^ (12 + 8 * (n + 1)) % 256))).pa := by
  rw [walkFrom.eq_def]
  simp only [hv, hm, hl, Bool.not_true, Bool.false_eq_true, if_false]

/-- At the lowest level an entry that is no leaf is malformed. -/
theorem malformed_zero {e : Pte} (hl : e.leaf = false) : e.malformed 0 = true := by
  simp [Pte.malformed, hl]

theorem contGroup_iff (m : List Host.Cell) (table index level : Nat) (e : Pte) :
    contGroup m table index level e = true ↔
      level < 3 ∧ (readPte m (table + 8 * (index / 16 * 16))).pa % 2 ^ (16 + 8 * level) = 0 ∧
      (e.tgt = 0 → leafMeetsDump { e with pa := (readPte m (table + 8 * (index / 16 * 16))).pa } (16 + 8 * level) = false) ∧
      ∀ k, k < 16 → readPte m (table + 8 * (index / 16 * 16 + k)) =
        { e with pa := (readPte m (table + 8 * (index / 16 * 16))).pa + k * 2 ^ (12 + 8 * level) } := by
  unfold contGroup
  simp only [Bool.and_eq_true, decide_eq_true_eq, Bool.not_eq_true', List.all_eq_true, List.mem_range, beq_iff_eq, Bool.and_eq_false_imp, and_assoc]


/-! ### A page's addresses walk alike -/

/-- A part of a page of device far memory that holds a byte of the dump region: the page does. -/
theorem leafMeetsDump_of_part {e : Pte} {pa b : Nat} (hb : 12 ≤ b) (k : Nat) (hk : k < 16)
    (h : leafMeetsDump { e with pa := pa + k * 2 ^ b } b = true) : leafMeetsDump { e with pa := pa } (b + 4) = true := by
  have hp : 2 ^ (b + 4) = 16 * 2 ^ b := by rw [pow_add]; omega
  have hkb : k * 2 ^ b ≤ 15 * 2 ^ b := Nat.mul_le_mul_right _ (by omega)
  have h12 : 2 ^ 12 ≤ 2 ^ b := Nat.pow_le_pow_right (by decide) hb
  unfold leafMeetsDump at h ⊢
  dsimp only at h ⊢
  rw [hp]
  generalize 2 ^ b = n at *
  split at h
  · simp only [Bool.and_eq_true, decide_eq_true_eq] at h ⊢
    rw [if_pos ‹_›]
    simp only [Bool.and_eq_true, decide_eq_true_eq]
    exact ⟨h.1.trans (stackLoc_mono _ (by omega)), by omega⟩
  · rw [if_neg ‹_›]
    simp only [Bool.and_eq_true, decide_eq_true_eq] at h ⊢
    omega

/-- The members of a CONT group that agrees are not malformed. -/
theorem malformed_member {e : Pte} {level base k : Nat} (he : e.malformed level = false) (hb : base % 2 ^ (16 + 8 * level) = 0)
    (hd : e.tgt = 0 → leafMeetsDump { e with pa := base } (16 + 8 * level) = false) (hk : k < 16) :
    ({ e with pa := base + k * 2 ^ (12 + 8 * level) } : Pte).malformed level = false := by
  have hal : (base + k * 2 ^ (12 + 8 * level)) % 2 ^ (12 + 8 * level) = 0 := by
    have hdvd : 2 ^ (12 + 8 * level) ∣ 2 ^ (16 + 8 * level) := Nat.pow_dvd_pow 2 (by omega)
    rw [Nat.add_mul_mod_self_right]
    exact Nat.mod_eq_zero_of_dvd (hdvd.trans (Nat.dvd_of_mod_eq_zero hb))
  have hmeets : e.tgt = 0 → leafMeetsDump { e with pa := base + k * 2 ^ (12 + 8 * level) } (12 + 8 * level) = false := fun ht => by
    by_contra hc
    have := leafMeetsDump_of_part (by omega) k hk (Bool.eq_true_of_not_eq_false hc)
    rw [show 12 + 8 * level + 4 = 16 + 8 * level by omega, hd ht] at this
    cases this
  unfold Pte.malformed at he ⊢
  simp only [Bool.or_eq_false_iff, Bool.and_eq_false_imp, hal, ne_eq, not_true, decide_false, implies_true, and_true] at he ⊢
  exact ⟨he.1.1, fun h => hmeets (beq_iff_eq.1 (Bool.and_eq_true_iff.1 h).2)⟩

/-- Addresses that agree from a bit on have the same index at every level above it. -/
theorem index_eq {va va' b j : Nat} (h : va' / 2 ^ b = va / 2 ^ b) (hj : b ≤ j) : va' / 2 ^ j = va / 2 ^ j := by
  rw [← Nat.add_sub_of_le hj, pow_add, ← Nat.div_div_eq_div_mul, ← Nat.div_div_eq_div_mul, h]

/-- What a walk that found a leaf read at its first table. -/
theorem walkFrom_ok {m : List Host.Cell} {va level table : Nat} {l : Leaf} (h : walkFrom m va level table = .ok l) :
    let e := readPte m (table + 8 * (va / 2 ^ (12 + 8 * level) % 256))
    e.v = true ∧ e.malformed level = false ∧
      ((e.leaf = true ∧ l = pteLeaf m table (va / 2 ^ (12 + 8 * level) % 256) level e) ∨
        (e.leaf = false ∧ ∃ n, level = n + 1 ∧ walkFrom m va n e.pa = .ok l)) := by
  intro e
  cases hv : e.v with
  | false => rw [walkFrom_missing hv] at h; cases h
  | true =>
    cases hm : e.malformed level with
    | true => rw [walkFrom_malformed hv hm] at h; cases h
    | false =>
      refine ⟨rfl, rfl, ?_⟩
      cases hl : e.leaf with
      | true => rw [walkFrom_leaf hv hm hl] at h; cases h; exact .inl ⟨rfl, rfl⟩
      | false =>
        cases level with
        | zero => rw [malformed_zero hl] at hm; cases hm
        | succ n => exact .inr ⟨rfl, n, rfl, (walkFrom_table hv hm hl).symm.trans h⟩

theorem pteLeaf_group {m : List Host.Cell} {table index level : Nat} {e : Pte} (hc : e.cont = true)
    (hg : contGroup m table index level e = true) : pteLeaf m table index level e =
      ⟨16 + 8 * level, e.r, e.w, e.x, e.c, e.sl, e.tgt, (readPte m (table + 8 * (index / 16 * 16))).pa, e.stack, e.peer⟩ :=
  if_pos (Bool.and_eq_true_iff.2 ⟨hc, hg⟩)

theorem pteLeaf_alone {m : List Host.Cell} {table index level : Nat} {e : Pte} (h : ¬(e.cont = true ∧ contGroup m table index level e = true)) :
    pteLeaf m table index level e = ⟨12 + 8 * level, e.r, e.w, e.x, e.c, e.sl, e.tgt, e.pa, e.stack, e.peer⟩ :=
  if_neg fun hc => h (Bool.and_eq_true_iff.1 hc)

theorem pteLeaf_bits_le (m : List Host.Cell) (table index level : Nat) (e : Pte) : (pteLeaf m table index level e).bits ≤ 16 + 8 * level := by
  unfold pteLeaf
  split
  · exact Nat.le_refl _
  · exact Nat.add_le_add_right (by decide) _

theorem walkFrom_bits_le {m : List Host.Cell} {va level table : Nat} {l : Leaf} (h : walkFrom m va level table = .ok l) :
    l.bits ≤ 16 + 8 * level := by
  induction level generalizing table with
  | zero =>
    obtain ⟨-, -, ⟨-, rfl⟩ | ⟨-, n, hn, -⟩⟩ := walkFrom_ok h
    · exact pteLeaf_bits_le ..
    · cases hn
  | succ n ih =>
    obtain ⟨-, -, ⟨-, rfl⟩ | ⟨-, k, hk, hw⟩⟩ := walkFrom_ok h
    · exact pteLeaf_bits_le ..
    · cases hk
      exact (ih hw).trans (by omega)

/-- Two entries of a CONT group that agrees map the same page. -/
theorem walkFrom_group {m : List Host.Cell} {va va' level table : Nat}
    (hpage : va' / 2 ^ (16 + 8 * level) = va / 2 ^ (16 + 8 * level))
    (hv : (readPte m (table + 8 * (va / 2 ^ (12 + 8 * level) % 256))).v = true)
    (hm : (readPte m (table + 8 * (va / 2 ^ (12 + 8 * level) % 256))).malformed level = false)
    (hl : (readPte m (table + 8 * (va / 2 ^ (12 + 8 * level) % 256))).leaf = true)
    (hc : (readPte m (table + 8 * (va / 2 ^ (12 + 8 * level) % 256))).cont = true)
    (hg : contGroup m table (va / 2 ^ (12 + 8 * level) % 256) level (readPte m (table + 8 * (va / 2 ^ (12 + 8 * level) % 256))) = true) :
    walkFrom m va' level table = walkFrom m va level table := by
  have hgroup : va' / 2 ^ (12 + 8 * level) % 256 / 16 * 16 = va / 2 ^ (12 + 8 * level) % 256 / 16 * 16 := by
    have hp : 2 ^ (16 + 8 * level) = 2 ^ (12 + 8 * level) * 16 := by
      rw [show 16 + 8 * level = 12 + 8 * level + 4 by omega, pow_add]; norm_num
    rw [hp, ← Nat.div_div_eq_div_mul, ← Nat.div_div_eq_div_mul] at hpage
    omega
  rw [walkFrom_leaf hv hm hl]
  generalize va / 2 ^ (12 + 8 * level) % 256 = index at hgroup hv hm hl hc hg ⊢
  generalize readPte m (table + 8 * index) = e at hv hm hl hc hg ⊢
  obtain ⟨-, hbase, hdump, hall⟩ := (contGroup_iff ..).1 hg
  have hentry : readPte m (table + 8 * (va' / 2 ^ (12 + 8 * level) % 256)) =
      { e with pa := (readPte m (table + 8 * (index / 16 * 16))).pa + va' / 2 ^ (12 + 8 * level) % 256 % 16 * 2 ^ (12 + 8 * level) } := by
    rw [← hall _ (Nat.mod_lt _ (by decide)), ← hgroup, Nat.div_add_mod']
  have hm' := malformed_member hm hbase hdump (Nat.mod_lt (va' / 2 ^ (12 + 8 * level) % 256) (by decide : 0 < 16))
  rw [← hentry] at hm'
  rw [walkFrom_leaf (by rw [hentry]; exact hv) hm' (by rw [hentry]; exact hl)]
  have hg' : contGroup m table (va' / 2 ^ (12 + 8 * level) % 256) level (readPte m (table + 8 * (va' / 2 ^ (12 + 8 * level) % 256))) = true := by
    rw [hentry]
    rw [contGroup_iff] at hg ⊢
    rw [hgroup]
    exact hg
  have hc' : (readPte m (table + 8 * (va' / 2 ^ (12 + 8 * level) % 256))).cont = true := by rw [hentry]; exact hc
  rw [pteLeaf_group hc' hg', pteLeaf_group hc hg, hgroup, hentry]

/-- An entry that is a leaf gives every address of its page the same leaf. -/
theorem walkFrom_leaf_page {m : List Host.Cell} {va va' level table : Nat}
    (hv : (readPte m (table + 8 * (va / 2 ^ (12 + 8 * level) % 256))).v = true)
    (hm : (readPte m (table + 8 * (va / 2 ^ (12 + 8 * level) % 256))).malformed level = false)
    (hl : (readPte m (table + 8 * (va / 2 ^ (12 + 8 * level) % 256))).leaf = true)
    (hp : let l := pteLeaf m table (va / 2 ^ (12 + 8 * level) % 256) level (readPte m (table + 8 * (va / 2 ^ (12 + 8 * level) % 256)))
      va' / 2 ^ l.bits = va / 2 ^ l.bits) :
    walkFrom m va' level table = walkFrom m va level table := by
  by_cases hc : (readPte m (table + 8 * (va / 2 ^ (12 + 8 * level) % 256))).cont = true ∧
      contGroup m table (va / 2 ^ (12 + 8 * level) % 256) level (readPte m (table + 8 * (va / 2 ^ (12 + 8 * level) % 256))) = true
  · rw [pteLeaf_group hc.1 hc.2] at hp
    exact walkFrom_group hp hv hm hl hc.1 hc.2
  · rw [pteLeaf_alone hc] at hp
    dsimp only at hp
    rw [walkFrom_leaf hv hm hl]
    rw [← hp] at hv hm hl ⊢
    exact walkFrom_leaf hv hm hl

/-- Every address of the page that a walk found walks to the same leaf (R395, R396). -/
theorem walkFrom_page {m : List Host.Cell} {va va' level table : Nat} {l : Leaf} (h : walkFrom m va level table = .ok l)
    (hp : va' / 2 ^ l.bits = va / 2 ^ l.bits) : walkFrom m va' level table = .ok l := by
  induction level generalizing table with
  | zero =>
    obtain ⟨hv, hm, ⟨hl, rfl⟩ | ⟨-, n, hn, -⟩⟩ := walkFrom_ok h
    · exact (walkFrom_leaf_page hv hm hl hp).trans h
    · cases hn
  | succ n ih =>
    obtain ⟨hv, hm, ⟨hl, rfl⟩ | ⟨hl, k, hk, hw⟩⟩ := walkFrom_ok h
    · exact (walkFrom_leaf_page hv hm hl hp).trans h
    · cases hk
      have hi : va' / 2 ^ (12 + 8 * (n + 1)) = va / 2 ^ (12 + 8 * (n + 1)) :=
        index_eq hp ((walkFrom_bits_le hw).trans (by omega))
      rw [← hi] at hv hm hl hw
      rw [walkFrom_table hv hm hl]
      exact ih hw

/-! ### The translation caches (R396) -/

theorem tlbHit_mem {es : List TlbEntry} {owner : Nat} {p : Fin 8} {va : Nat} {l : Leaf} (h : tlbHit es owner p va = some l) :
    ∃ e ∈ es, e.owner = owner ∧ e.part = p ∧ va / 2 ^ e.leaf.bits = e.page ∧ e.leaf = l := by
  obtain ⟨e, he, rfl⟩ := Option.map_eq_some_iff.1 h
  have hm := List.find?_some he
  simp only [Bool.and_eq_true, beq_iff_eq] at hm
  exact ⟨e, List.mem_of_find?_eq_some he, hm.1.1, hm.1.2, hm.2, rfl⟩

theorem tlbHit_head {es : List TlbEntry} {owner : Nat} {p : Fin 8} {va : Nat} {l : Leaf} :
    tlbHit (⟨owner, p, va / 2 ^ l.bits, l⟩ :: es) owner p va = some l := by
  simp [tlbHit]

/-- While the caches hold what walks give, an address of a partition with a page table has the leaf of its walk. -/
theorem leafOf_walk {s : State} (ha : s.cachesAgree) {p : Fin 8} (hr : (s.parts[p].ptroot).getLsbD 0 = true) (core va : Nat) :
    leafOf s core p va = walkFrom s.mem va 4 ((s.parts[p].ptroot).toNat / 2 ^ 12 % 2 ^ 40 * 2 ^ 12) := by
  have hit : ∀ es owner l, (∀ e ∈ es, e ∈ s.tlb ++ s.walkCache) → tlbHit es owner p va = some l →
      Except.ok l = walkFrom s.mem va 4 ((s.parts[p].ptroot).toNat / 2 ^ 12 % 2 ^ 40 * 2 ^ 12) := fun es owner l hsub h => by
    obtain ⟨e, he, -, rfl, hpage, rfl⟩ := tlbHit_mem h
    exact (ha e (hsub e he) va hpage).symm
  unfold leafOf
  simp only [hr, Bool.true_eq_false, beq_iff_eq, if_false]
  split
  · next h => exact hit _ _ _ (fun _ => List.mem_append_left _) h
  split
  · next h => exact hit _ _ _ (fun _ => List.mem_append_right _) h
  · rfl

/-- What a translation that was used leaves in the caches: nothing new, or its leaf for its page, first in the core's TLB. -/
theorem noteTlb_cases (s : State) (core : Nat) (p : Fin 8) (va : Word) :
    noteTlb s core p va = s ∨ ∃ l, ∃ es ws : List TlbEntry, leafOf s core p va.toNat = .ok l ∧ (∀ e ∈ es, e ∈ s.tlb) ∧
      (ws = s.walkCache ∨ ws = ⟨coreDie core, p, va.toNat / 2 ^ l.bits, l⟩ :: s.walkCache) ∧
      noteTlb s core p va = { s with tlb := ⟨core, p, va.toNat / 2 ^ l.bits, l⟩ :: es, walkCache := ws } := by
  unfold noteTlb
  dsimp only
  split
  · exact .inl rfl
  split
  · exact .inl rfl
  split
  · exact .inl rfl
  next l hl =>
    have hsub : ∀ e ∈ (s.tlb.filter fun e => e.owner == core).take 511 ++ s.tlb.filter fun e => e.owner != core, e ∈ s.tlb := fun e he =>
      (List.mem_append.1 he).elim (fun h => List.mem_of_mem_filter (List.mem_of_mem_take h)) List.mem_of_mem_filter
    right
    split
    · exact ⟨l, _, _, hl, hsub, .inl rfl, rfl⟩
    · exact ⟨l, _, _, hl, hsub, .inr rfl, rfl⟩

theorem leafOf_ok_root {s : State} {core va : Nat} {p : Fin 8} {l : Leaf} (h : leafOf s core p va = .ok l) :
    (s.parts[p].ptroot).getLsbD 0 = true := by
  by_contra hc
  rw [leafOf_unmapped (Bool.eq_false_of_not_eq_true hc)] at h
  cases h

/-- A translation used is found again, and its walk is not made again. -/
theorem noteTlb_leaf (s : State) (core : Nat) (p : Fin 8) (va : Word) (hf : tableFenced s core p va.toNat = false) :
    leafOf (noteTlb s core p va) core p va.toNat = leafOf s core p va.toNat ∧
      tableFenced (noteTlb s core p va) core p va.toNat = false := by
  obtain h | ⟨l, es, ws, hl, -, -, h⟩ := noteTlb_cases s core p va
  · rw [h]; exact ⟨rfl, hf⟩
  · rw [h, hl]
    have hr := leafOf_ok_root hl
    constructor
    · simp only [leafOf, hr, tlbHit_head, Bool.true_eq_false, beq_iff_eq, if_false]
    · simp only [tableFenced, tlbHit_head, Option.isNone_some, Bool.and_false, Bool.false_and]

/-- Two states that differ in the translation caches translate an address alike when they give it one leaf and neither waits for the walk. -/
theorem translate_congr {s : State} {es ws : List TlbEntry} {core : Nat} {p : Fin 8} {va : Word}
    (hl : leafOf { s with tlb := es, walkCache := ws } core p va.toNat = leafOf s core p va.toNat)
    (hf : tableFenced { s with tlb := es, walkCache := ws } core p va.toNat = tableFenced s core p va.toNat) (k : AccessKind) (b : Bool) :
    translate { s with tlb := es, walkCache := ws } core p va k b = translate s core p va k b := by
  unfold translate
  dsimp only
  rw [hl, hf]
  rfl

theorem noteTlb_onlyTlb (s : State) (core : Nat) (p : Fin 8) (va : Word) :
    { noteTlb s core p va with tlb := s.tlb, walkCache := s.walkCache } = s := by
  obtain h | ⟨l, es, ws, -, -, -, h⟩ := noteTlb_cases s core p va <;> rw [h]

theorem noteTlb_eq (s : State) (core : Nat) (p : Fin 8) (va : Word) :
    noteTlb s core p va = { s with tlb := (noteTlb s core p va).tlb, walkCache := (noteTlb s core p va).walkCache } := by
  obtain h | ⟨l, es, ws, -, -, -, h⟩ := noteTlb_cases s core p va <;> rw [h]

theorem noteTlb_translate (s : State) (core : Nat) (p : Fin 8) (va : Word) (hf : tableFenced s core p va.toNat = false) (k : AccessKind)
    (b : Bool) : translate (noteTlb s core p va) core p va k b = translate s core p va k b := by
  obtain ⟨hl, hf'⟩ := noteTlb_leaf s core p va hf
  rw [noteTlb_eq] at hl hf' ⊢
  exact translate_congr hl (hf'.trans hf.symm) k b

/-- The leaf of an address is the leaf of every address of its page: the caches go on holding what walks give. -/
theorem noteTlb_cachesAgree {s : State} (ha : s.cachesAgree) (core : Nat) (p : Fin 8) (va : Word) : (noteTlb s core p va).cachesAgree := by
  obtain h | ⟨l, es, ws, hl, hes, hws, h⟩ := noteTlb_cases s core p va
  · rw [h]; exact ha
  rw [h]
  rw [leafOf_walk ha (leafOf_ok_root hl)] at hl
  have hold : ∀ e ∈ s.tlb ++ s.walkCache, ∀ va, va / 2 ^ e.leaf.bits = e.page →
      walkFrom s.mem va 4 ((s.parts[e.part].ptroot).toNat / 2 ^ 12 % 2 ^ 40 * 2 ^ 12) = .ok e.leaf := ha
  intro e he va' hpage
  have hcases : (∃ o, e = ⟨o, p, va.toNat / 2 ^ l.bits, l⟩) ∨ e ∈ s.tlb ++ s.walkCache := by
    rcases hws with rfl | rfl
    all_goals simp only [List.cons_append, List.mem_cons, List.mem_append] at he ⊢
    · obtain he | he | he := he
      exacts [.inl ⟨_, he⟩, .inr (.inl (hes e he)), .inr (.inr he)]
    · obtain he | he | he | he := he
      exacts [.inl ⟨_, he⟩, .inr (.inl (hes e he)), .inl ⟨_, he⟩, .inr (.inr he)]
  obtain ⟨o, rfl⟩ | he := hcases
  · exact walkFrom_page hl hpage
  · exact hold e he va' hpage

theorem noteTlb_translate_all {s : State} (ha : s.cachesAgree) (calm : s.mgmt.recoveries = []) (core : Nat) (p : Fin 8) (va : Word)
    (core' : Nat) (p' : Fin 8) (va' : Word) (k : AccessKind) (b : Bool) :
    translate (noteTlb s core p va) core' p' va' k b = translate s core' p' va' k b := by
  have ha' := noteTlb_cachesAgree ha core p va
  rw [noteTlb_eq] at ha' ⊢
  refine translate_congr ?_ ?_ k b
  · cases hr : (s.parts[p'].ptroot).getLsbD 0 with
    | false => rw [leafOf_unmapped (by exact hr), leafOf_unmapped hr]
    | true => rw [leafOf_walk ha' (by exact hr), leafOf_walk ha hr]
  · rw [tableFenced_none calm, tableFenced_none (by exact calm)]

/-! ### The obligation -/

theorem partHasCore_eq (s : State) (p : Fin 8) (core : Nat) : partHasCore s p core = (s.parts[p].dies).getLsbD (core / 40) := rfl

/-- What an address below near memory reaches through its leaf. -/
theorem translate_leaf {s : State} {core : Nat} {p : Fin 8} {va : Word} {k : AccessKind} {l : Leaf} (calm : s.mgmt.recoveries = [])
    (lo : va.toNat < 0xF000000000000) (hl : leafOf s core p va.toNat = .ok l) :
    (leafPermits l k = false → translate s core p va k false = .error (.trap 0x07 va)) ∧
    (l.tgt = 2 → k = .load → translate s core p va k false = .error (.trap 0x07 va)) ∧
    (leafPermits l k = true → l.tgt = 0 → leafLoc (pasidOf s p) l va.toNat < farBytes →
      translate s core p va k false = .ok (leafLoc (pasidOf s p) l va.toNat, l.c)) ∧
    (leafPermits l k = true → l.tgt = 1 → (p, (l.pa + va.toNat % 2 ^ l.bits) / 4096) ∈ s.granted →
      translate s core p va k false = .ok (leafLoc (pasidOf s p) l va.toNat, l.c)) := by
  rw [translate_mapped calm lo hl]
  refine ⟨fun hp => ?_, fun ht hk => ?_, fun hp ht hfar => ?_, fun hp ht hg => ?_⟩
  · simp only [hp, Bool.not_false, if_true, ite_self]
  · simp [ht, hk]
  · simp [hp, ht, Nat.not_le.2 hfar]
  · simp [hp, ht, hg]

theorem leafLoc_far {l : Leaf} (pasid : BitVec 20) (ht : l.tgt = 0) (hs : l.sl = false) (va : Nat) :
    leafLoc pasid l va = l.pa + va % 2 ^ l.bits := by
  simp [leafLoc, ht, hs]

theorem leafLoc_stackLocal {l : Leaf} (pasid : BitVec 20) (ht : l.tgt = 0) (hs : l.sl = true) (va : Nat) :
    leafLoc pasid l va = stackLoc l.stack (l.pa + va % 2 ^ l.bits) := by
  simp [leafLoc, ht, hs]

theorem leafLoc_host {l : Leaf} (pasid : BitVec 20) (ht : l.tgt = 1) (va : Nat) :
    leafLoc pasid l va = 2 ^ 72 + pasid.toNat * 2 ^ 52 + (l.pa + va % 2 ^ l.bits) := by
  simp [leafLoc, ht, hostLoc]

/-- The page of an entry is that of its CONT group exactly when the group agrees. -/
theorem pteLeaf_page (m : List Host.Cell) (table index level : Nat) (e : Pte) :
    let member := fun (k : Nat) => readPte m (table + 8 * (index / 16 * 16 + k))
    let base := (member 0).pa
    let together := e.cont = true ∧ level < 3 ∧ base % 2 ^ (16 + 8 * level) = 0 ∧
      (∀ k, k < 16 → member k = { e with pa := base + k * 2 ^ (12 + 8 * level) }) ∧
      (e.tgt = 0 → leafMeetsDump { e with pa := base } (16 + 8 * level) = false)
    let l := pteLeaf m table index level e
    (together → l.bits = 16 + 8 * level ∧ l.pa = base) ∧ (¬together → l.bits = 12 + 8 * level ∧ l.pa = e.pa) := by
  intro member base together l
  have hiff : together ↔ e.cont = true ∧ contGroup m table index level e = true := by
    rw [contGroup_iff]
    exact and_congr_right fun _ => and_congr_right fun _ => and_congr_right fun _ => and_comm
  constructor
  · intro ht
    obtain ⟨hc, hg⟩ := hiff.1 ht
    simp only [l, pteLeaf_group hc hg, base, member, Nat.add_zero, and_self]
  · intro ht
    simp only [l, pteLeaf_alone (mt hiff.2 ht), and_self]

theorem pteLeaf_fields (m : List Host.Cell) (table index level : Nat) (e : Pte) :
    let l := pteLeaf m table index level e
    l.tgt = e.tgt ∧ l.r = e.r ∧ l.w = e.w ∧ l.x = e.x ∧ l.c = e.c ∧ l.sl = e.sl ∧ l.stack = e.stack ∧ l.peer = e.peer := by
  unfold pteLeaf
  split <;> exact ⟨rfl, rfl, rfl, rfl, rfl, rfl, rfl, rfl⟩

/-- Settles O15: the leaf of an address is the leaf of every address of its page, by induction on the levels of the walk. -/
theorem translation : Obligations.Translation := by
  unfold Obligations.Translation
  refine ⟨fun s core p va k calm => ⟨translate_beyond, fun lo hi hd => ?_, fun lo hi hd => ?_, fun lo hr => ?_, fun l lo hl => ?_⟩, ?_, ?_⟩
  · rw [translate_near_eq calm lo hi, partHasCore_eq, hd, if_pos rfl]; rfl
  · rw [translate_near_eq calm lo hi, partHasCore_eq, hd]; rfl
  · exact translate_missing calm lo (leafOf_unmapped hr ..) k false
  · obtain ⟨hdeny, hpeer, hfar, hhost⟩ := translate_leaf (k := k) calm lo hl
    refine ⟨hdeny, hpeer, fun hp ht hs hlt => ?_, fun hp ht hs hst hq => ?_, fun hp ht hg => ?_⟩
    · rw [leafLoc_far _ ht hs] at hfar
      exact hfar hp ht hlt
    · rw [leafLoc_stackLocal _ ht hs] at hfar
      exact ⟨_, hfar hp ht (stackLoc_lt_farBytes hst hq), stackLoc_parts hst _⟩
    · rw [← leafLoc_host _ ht]
      exact hhost hp ht hg
  · intro m va level table
    refine ⟨walkFrom_missing, walkFrom_malformed, fun hv hm hl => ?_, fun hv hm hl => ?_⟩
    · obtain ⟨htgt, hr, hw, hx, hc, hsl, hstack, hpeer⟩ := pteLeaf_fields m table (va / 2 ^ (12 + 8 * level) % 256) level
        (readPte m (table + 8 * (va / 2 ^ (12 + 8 * level) % 256)))
      exact ⟨_, walkFrom_leaf hv hm hl, htgt, hr, hw, hx, hc, hsl, hstack, hpeer, pteLeaf_page ..⟩
    · cases level with
      | zero => rw [malformed_zero hl] at hm; cases hm
      | succ n => exact ⟨n, rfl, walkFrom_table hv hm hl⟩
  · intro s core p va k b hf
    exact ⟨noteTlb_onlyTlb s core p va, noteTlb_translate s core p va hf k b, fun ha calm =>
      ⟨noteTlb_cachesAgree ha core p va, noteTlb_translate_all ha calm core p va⟩⟩

end Sys2Proof.Machine
end

section
/-! PROOFS. Scalar accesses on their way: stores performed, lines written back, lines evicted (R107, R323, R324, R334). -/
namespace Sys2Proof.Machine

open Sys2Proof

/-! ### A byte of a list of bytes stored at its offset -/

theorem sliceBytes_one (bs : List Byte) (o : Nat) : sliceBytes bs o 1 = if o < bs.length then [bs.getD o 0] else [] := by
  unfold sliceBytes
  split
  · next h => rw [List.drop_eq_getElem_cons h, List.getD_eq_getElem _ _ h]; rfl
  · next h => rw [List.drop_eq_nil_of_le (Nat.le_of_not_lt h)]; rfl

theorem read_writeAll_slice {m : List Host.Cell} (h : Memory.wf m = true) (loc o a : Nat) (bs : List Byte) :
    Memory.read (Memory.writeAll m (loc + o) (sliceBytes bs o 1)) a =
      if o < bs.length ∧ a = loc + o then bs.getD o 0 else Memory.read m a := by
  rw [sliceBytes_one, Memory.read_writeAll h]
  by_cases ho : o < bs.length
  · by_cases ha : a = loc + o
    · subst ha; simp [ho]
    · rw [if_pos ho, if_neg (by simp only [List.length_singleton]; omega), if_neg (by omega)]
  · rw [if_neg ho, if_neg (by simp only [List.length_nil]; omega), if_neg (by omega)]

/-- Storing a byte of what is stored already changes nothing. -/
theorem writeAll_slice_again {m : List Host.Cell} (h : Memory.wf m = true) (loc o : Nat) (bs : List Byte) :
    Memory.writeAll (Memory.writeAll m loc bs) (loc + o) (sliceBytes bs o 1) = Memory.writeAll m loc bs := by
  have hw := Memory.writeAll_wf h loc bs
  refine Memory.ext (Memory.writeAll_wf hw ..) hw fun a => ?_
  rw [read_writeAll_slice hw]
  split
  · next ha => rw [ha.2, Memory.read_writeAll h, if_pos (by omega), Nat.add_sub_cancel_left]
  · rfl

/-- Which of the bytes of a store are poison is no matter of what they are. -/
theorem storeMarked_mem {s : State} (h : s.memoryOk) (die loc : Nat) (bs : List Byte) (bad : List Nat) :
    (storeMarked s die loc bs bad).mem = Memory.writeAll s.mem loc bs :=
  List.foldlRecOn (motive := fun t : State => t.mem = Memory.writeAll s.mem loc bs) bad _ rfl fun t ht o _ => by
    rw [storeThrough_mem, ht, writeAll_slice_again h]

/-! ### A line written back (R107, R329) -/

/-- Offset o of a line is a stored byte of it. -/
def L1Line.stores (l : L1Line) (o : Nat) : Prop := o ∈ l.dirty ∧ o < l.bytes.length

theorem l1WriteBytes_read {s : State} (h : s.memoryOk) (l : L1Line) (os : List Nat) (a : Nat) :
    Memory.read (l1WriteBytes s l os).mem a =
      if (a - l.line * 64) ∈ os ∧ l.line * 64 ≤ a ∧ a - l.line * 64 < l.bytes.length then l.bytes.getD (a - l.line * 64) 0
      else Memory.read s.mem a := by
  induction os generalizing s with
  | nil => simp [l1WriteBytes]
  | cons o os ih =>
    rw [l1WriteBytes, ih (storeThrough_memoryOk h ..), storeThrough_mem, read_writeAll_slice h]
    by_cases ha : l.line * 64 ≤ a ∧ a - l.line * 64 < l.bytes.length
    · by_cases hx : a - l.line * 64 = o
      · subst hx
        have : a = l.line * 64 + (a - l.line * 64) := by omega
        simp [ha, ← this]
      · have : a ≠ l.line * 64 + o := by omega
        simp [ha, hx, this]
    · have : ¬(o < l.bytes.length ∧ a = l.line * 64 + o) := by omega
      simp [ha, this]

theorem l1Hit_line {s : State} {core line : Nat} {l : L1Line} (h : l1Hit s core line = some l) : l.core = core ∧ l.line = line := by
  have := List.find?_some h
  simpa using this

theorem l1Clean_miss {s : State} {core line : Nat} (h : l1Hit s core line = none) : l1Clean s core line = s := by
  unfold l1Clean
  rw [h]

/-- What a write-back does to memory: the stored bytes, one by one. -/
theorem l1Clean_mem {s : State} {core line : Nat} {l : L1Line} (h : l1Hit s core line = some l) :
    (l1Clean s core line).mem = (l1WriteBytes s l l.dirty).mem := by
  unfold l1Clean
  rw [h]
  dsimp only
  split
  · next hd => rw [List.isEmpty_iff.1 hd]; rfl
  · rfl

theorem l1Clean_read_stored {s : State} (h : s.memoryOk) {core line : Nat} {l : L1Line} (hl : l1Hit s core line = some l) {o : Nat}
    (ho : l.stores o) : Memory.read (l1Clean s core line).mem (line * 64 + o) = l.bytes.getD o 0 := by
  obtain ⟨-, rfl⟩ := l1Hit_line hl
  have hk : l.line * 64 + o - l.line * 64 = o := by omega
  rw [l1Clean_mem hl, l1WriteBytes_read h, hk, if_pos ⟨ho.1, by omega, ho.2⟩]

theorem l1Clean_read_other {s : State} (h : s.memoryOk) {core line a : Nat}
    (ha : ∀ l o, l1Hit s core line = some l → l.stores o → a ≠ line * 64 + o) :
    Memory.read (l1Clean s core line).mem a = Memory.read s.mem a := by
  cases hl : l1Hit s core line with
  | none => rw [l1Clean_miss hl]
  | some l =>
    obtain ⟨-, rfl⟩ := l1Hit_line hl
    rw [l1Clean_mem hl, l1WriteBytes_read h, if_neg]
    rintro ⟨hd, hle, hlen⟩
    exact ha l _ hl ⟨hd, hlen⟩ (by omega)

theorem l1CleanDrop_mem (s : State) (core line : Nat) : (l1CleanDrop s core line).mem = (l1Clean s core line).mem := rfl

theorem l1CleanDrop_hit (s : State) (core line : Nat) : l1Hit (l1CleanDrop s core line) core line = none := by
  rw [l1Hit, List.find?_eq_none]
  intro l hl
  simpa [or_iff_not_imp_left] using (List.mem_filter.1 hl).2

theorem farDrop_hit (s : State) (die line : Nat) : farHit (farDrop s (some die) line) die line = none := by
  rw [farHit, List.find?_eq_none]
  intro l hl hc
  simp only [Bool.and_eq_true, beq_iff_eq] at hc
  have := (List.mem_filter.1 hl).2
  simp [hc.1, hc.2] at this

/-! ### A store performed (R323, R324) -/

/-- Offset o of the line of a store is a byte that the store takes home with it: one stored into the line that the core's L1 holds of it, where
the store is one of the scalar side to far memory. -/
def StoreFlight.takes (f : StoreFlight) (s : State) (core : Nat) (l : L1Line) (o : Nat) : Prop :=
  f.side = .scalar ∧ regionOf f.loc = .far ∧ l1Hit s core (lineOf f.loc) = some l ∧ o ∈ l.dirty ∧ o < l.bytes.length

/-- The state that a store is performed in, the core's line of it written back. -/
def StoreFlight.ahead (f : StoreFlight) (s : State) (core : Nat) : State :=
  match f.side with
  | .vector => s
  | .scalar => passL1 s core f.loc

theorem StoreFlight.ahead_memoryOk (f : StoreFlight) {s : State} (h : s.memoryOk) (core : Nat) : (f.ahead s core).memoryOk := by
  unfold StoreFlight.ahead
  split
  · exact h
  · exact passL1_memoryOk h ..

/-- A store performed puts its bytes at its home, after what it takes with it. -/
theorem landStore_mem {s : State} (h : s.memoryOk) (core : Nat) (f : StoreFlight) :
    (landStore core s f).mem = Memory.writeAll (f.ahead s core).mem f.loc f.data := by
  have ha := f.ahead_memoryOk h core
  unfold landStore StoreFlight.ahead at *
  dsimp only at *
  cases hs : f.side with
  | vector => exact storeMarked_mem h ..
  | scalar => rw [asScalar_mem, storeMarked_mem (by rw [hs] at ha; exact ha)]

theorem StoreFlight.ahead_read_taken {f : StoreFlight} {s : State} (h : s.memoryOk) {core o : Nat} {l : L1Line} (ht : f.takes s core l o) :
    Memory.read (f.ahead s core).mem (lineOf f.loc * 64 + o) = l.bytes.getD o 0 := by
  obtain ⟨hside, hfar, hl, ho⟩ := ht
  simp only [StoreFlight.ahead, hside, passL1, hfar, beq_self_eq_true, if_true]
  exact l1Clean_read_stored h hl ho

theorem StoreFlight.ahead_read_other {f : StoreFlight} {s : State} (h : s.memoryOk) {core a : Nat}
    (ha : ∀ l o, f.takes s core l o → a ≠ lineOf f.loc * 64 + o) : Memory.read (f.ahead s core).mem a = Memory.read s.mem a := by
  unfold StoreFlight.ahead
  cases hside : f.side with
  | vector => rfl
  | scalar =>
    dsimp only
    unfold passL1
    split
    · next hfar => exact l1Clean_read_other h fun l o hl ho => ha l o ⟨hside, beq_iff_eq.1 hfar, hl, ho⟩
    · rfl

theorem StoreFlight.ahead_mem_of_takes_none {f : StoreFlight} {s : State} (h : s.memoryOk) {core : Nat} (hn : ∀ l o, ¬f.takes s core l o) :
    (f.ahead s core).mem = s.mem :=
  Memory.ext (f.ahead_memoryOk h core) h fun _ => ahead_read_other h fun l o ht => (hn l o ht).elim

/-- A store with no earlier one of its side in a word of it is performed. -/
theorem storePerformed_lands {s : State} (calm : s.mgmt.recoveries = []) {i idx : Nat} {h : Hart} {f : StoreFlight} (hi : s.harts[i]? = some h)
    (hf : h.pacer.stores[idx]? = some f) (hn : ∀ g ∈ h.pacer.stores.take idx, storesMeet g f = false) :
    storePerformed s i idx = landStore h.core (modPacer s i fun p => { p with stores := p.stores.eraseIdx idx }) f := by
  have hany : ((h.pacer.stores.take idx).any fun g => storesMeet g f) = false := List.any_eq_false.2 fun g hg => by simp [hn g hg]
  simp only [storePerformed, hi, hf, rangeFenced_none calm, hany, Bool.or_self, Bool.false_eq_true, if_false]

theorem storePerformed_waits {s : State} {i idx : Nat} {h : Hart} {f : StoreFlight} (hi : s.harts[i]? = some h)
    (hf : h.pacer.stores[idx]? = some f) (hm : ∃ g ∈ h.pacer.stores.take idx, storesMeet g f = true) : storePerformed s i idx = s := by
  have hany : ((h.pacer.stores.take idx).any fun g => storesMeet g f) = true := List.any_eq_true.2 hm
  simp only [storePerformed, hi, hf, hany, Bool.or_true, if_true]

theorem exec_accessPerformed (i idx : Nat) (s : State) : exec (.accessPerformed i idx) s = .next (storePerformed s i idx) := rfl

theorem exec_dirtyLineWriteback {s : State} (calm : s.mgmt.recoveries = []) (core line : Nat) :
    exec (.dirtyLineWriteback core line) s = .next (l1CleanDrop s core line) := by
  have : evictLine s core line = l1CleanDrop s core line := by simp only [evictLine, rangeFenced_none calm, Bool.false_eq_true, if_false]
  rw [← this]; rfl

theorem exec_farCacheLineEviction (die line : Nat) (s : State) :
    exec (.farCacheLineEviction die line) s = .next (farDrop s (some die) line) := rfl

/-- Settles O20: what a store takes home with it is written first, byte by byte, and the store's own bytes over it. -/
theorem accessesOnTheirWay : Obligations.AccessesOnTheirWay := by
  unfold Obligations.AccessesOnTheirWay
  intro s i idx h f core line die calm hok
  refine ⟨fun hi hf hn => ?_, fun hi hf hm => ?_, ?_, ?_⟩
  · intro home held
    have hharts : (modPacer s i fun p => { p with stores := p.stores.eraseIdx idx }).harts =
        s.harts.set i { h with pacer := { h.pacer with stores := h.pacer.stores.eraseIdx idx } } :=
      modify_of_getElem? hi _
    have hp : (modPacer s i fun p => { p with stores := p.stores.eraseIdx idx }).memoryOk := hok
    have htakes : ∀ l o, f.takes (modPacer s i fun p => { p with stores := p.stores.eraseIdx idx }) h.core l o ↔ held l o := fun l o => Iff.rfl
    have hmem : (modPacer s i fun p => { p with stores := p.stores.eraseIdx idx }).mem = s.mem := rfl
    rw [exec_accessPerformed, storePerformed_lands calm hi hf hn]
    generalize (modPacer s i fun p => { p with stores := p.stores.eraseIdx idx }) = s1 at hharts hp htakes hmem ⊢
    have hwf := f.ahead_memoryOk hp h.core
    refine ⟨_, rfl, (landStore_sameButMemory ..).harts.trans hharts, ?_, ?_, ?_, ?_⟩
    all_goals rw [landStore_mem hp]
    · intro o ho
      rw [Memory.read_writeAll hwf, if_pos (by omega), Nat.add_sub_cancel_left]
    · intro l o ht ha
      rw [Memory.read_writeAll_outside hwf ha]
      exact StoreFlight.ahead_read_taken hp ((htakes l o).2 ht)
    · intro a ha hne
      rw [Memory.read_writeAll_outside hwf ha, StoreFlight.ahead_read_other hp fun l o ht => hne l o ((htakes l o).1 ht), hmem]
    · intro hn
      rw [StoreFlight.ahead_mem_of_takes_none hp fun l o ht => hn l o ((htakes l o).1 ht), hmem]
  · rw [exec_accessPerformed, storePerformed_waits hi hf hm]
  · refine ⟨_, exec_dirtyLineWriteback calm core line, l1CleanDrop_hit .., fun hl => ?_, fun l hl => ⟨fun o ho hlen => ?_, fun a ha => ?_⟩⟩
    all_goals rw [l1CleanDrop_mem]
    · rw [l1Clean_miss hl]
    · exact l1Clean_read_stored hok hl ⟨ho, hlen⟩
    · refine l1Clean_read_other hok fun l' o hl' ho => ?_
      cases hl.symm.trans hl'
      exact ha o ho.1
  · exact ⟨_, exec_farCacheLineEviction die line s, farDrop_hit s die line, rfl⟩

end Sys2Proof.Machine
end

section
/-! PROOFS. Matrix instructions at commit, and a waiting `MCLAIM` granted (R128, R256 to R264). -/
namespace Sys2Proof.Machine

open Sys2Proof

/-! ### A matrix instruction in the vector unit -/

/-- What is neither a `VFETCH` nor of the V form commits as a matrix instruction. -/
theorem exec_matrixCommit {s : State} {h : Hart} {i : Instr} {u : VUse} (hs : s.performs h) (hu : useOf i = some u) (hv : u.vform = false)
    (hf : ∀ sel off, i ≠ .vfetch sel off) :
    exec i s = .next (matrixCommit s s.cur.hart h (capture h i u none) h.anchor.viq) := by
  obtain ⟨hi, hunit⟩ := hs
  have hr : s.runs h .anchor := ⟨hi, by rw [hunit]; rfl⟩
  rw [exec_vectorInstr hu, vectorInstr, runs_thread hr (allowed_anchor_of_useOf hu), hu]
  simp only [hunit]
  unfold performNow
  dsimp only
  split
  · exact (hf _ _ rfl).elim
  · rw [hv, if_neg Bool.false_ne_true]

theorem matrixCommit_trap {s : State} {i : Nat} {h : Hart} {e : VEntry} {rest : List VEntry} {code : BitVec 8} {fa : Word}
    (hc : matrixCheck s h e = .trap code fa) :
    matrixCommit s i h e rest = deliverTrap s i { code := code, thread := .anchor, iaddr := e.addr, faddr := fa } := by
  simp only [matrixCommit, hc]

theorem matrixCommit_claim {s : State} {i : Nat} {h : Hart} {e : VEntry} {rest : List VEntry} (hc : matrixCheck s h e = .claim)
    (hd : h.anchor.deferredErr = none) : matrixCommit s i h e rest = claimStep s i h rest := by
  simp only [matrixCommit, hc, hd]

theorem matrixCommit_settl {s : State} {i : Nat} {h : Hart} {e : VEntry} {rest : List VEntry} (hc : matrixCheck s h e = .settl)
    (hd : h.anchor.deferredErr = none) : matrixCommit s i h e rest = setHart s i (settlStep h e rest) := by
  simp only [matrixCommit, hc, hd]

/-- The entry of the matrix queue that an instruction makes. -/
def VEntry.queued (e : VEntry) (op : MOp) (shape : Shape) : MEntry := ⟨op, e.addr, e.vl, e.rl, e.scal1, e.scal2, e.scal2, shape⟩

theorem matrixCommit_queue {s : State} {i : Nat} {h : Hart} {e : VEntry} {rest : List VEntry} {op : MOp} (hc : matrixCheck s h e = .queue op)
    (hd : h.anchor.deferredErr = none) (hroom : h.anchor.mqueue.length < 32) (hop : op ≠ .rel) :
    matrixCommit s i h e rest =
      setAnchor s i h { h.anchor with viq := rest, mqueue := h.anchor.mqueue ++ [e.queued op h.anchor.shape] } := by
  simp only [matrixCommit, hc, hd, Nat.not_le.2 hroom, if_false]
  rfl

theorem matrixCommit_rel {s : State} {i : Nat} {h : Hart} {e : VEntry} {rest : List VEntry} (hc : matrixCheck s h e = .queue .rel)
    (hd : h.anchor.deferredErr = none) (hroom : h.anchor.mqueue.length < 32) :
    matrixCommit s i h e rest =
      setAnchor s i h { h.anchor with
        viq := rest, mqueue := h.anchor.mqueue ++ [e.queued .rel h.anchor.shape], claim := false, shape := .zero } := by
  simp only [matrixCommit, hc, hd, Nat.not_le.2 hroom, if_false]
  rfl

/-! ### The checks (R128, R256 to R264) -/

theorem claimHere_of_clear {a : AnchorState} (hd : a.deferredErr = none) : claimHere a = a.claim := by
  simp only [claimHere, hd]

/-- An aligned area in the hart's own slice passes. -/
theorem areaFault_none {core align n : Nat} {y : Word} (hal : y.toNat % align = 0)
    (hin : 0xF000000000000 + core * 2 ^ 24 ≤ y.toNat ∧ y.toNat + n ≤ 0xF000000000000 + (core + 1) * 2 ^ 24) :
    areaFault core y align n = none := by
  have hs : inSlice core y n = true := by
    simp only [inSlice, Bool.and_eq_true, decide_eq_true_eq]
    omega
  simp only [areaFault, hal, hs, ne_eq, not_true, if_true, if_false]

/-- The matrix instructions but `MCLAIM`. -/
def claimedForms (t : Tile) (tt : TileType) (v c1 c2 c3 : Reg) (p : Fin 32) : List Instr :=
  [.settl c1 c2 c3, .mrel, .mzero t, .mma t c1 c2, .mldt t c1 tt, .mstt t c1, .mtov v t c1, .mstageA c1 v p, .mstageB c1 v p]

/-- Each of them is an illegal instruction without a context. -/
theorem matrixCheck_unclaimed {s : State} {h : Hart} {e : VEntry} {t : Tile} {tt : TileType} {v c1 c2 c3 : Reg} {p : Fin 32}
    (hc : claimHere h.anchor = false) (he : e.instr ∈ claimedForms t tt v c1 c2 c3 p) : matrixCheck s h e = .trap 0x01 0 := by
  simp only [claimedForms, List.mem_cons, List.not_mem_nil, or_false] at he
  obtain he | he | he | he | he | he | he | he | he := he <;> simp only [matrixCheck, he, hc, Bool.false_eq_true, if_false]

theorem useOf_claimedForms {i : Instr} {t : Tile} {tt : TileType} {v c1 c2 c3 : Reg} {p : Fin 32} (hi : i ∈ claimedForms t tt v c1 c2 c3 p) :
    ∃ u, useOf i = some u ∧ u.vform = false ∧ ∀ sel off, i ≠ .vfetch sel off := by
  simp only [claimedForms, List.mem_cons, List.not_mem_nil, or_false] at hi
  obtain rfl | rfl | rfl | rfl | rfl | rfl | rfl | rfl | rfl := hi <;> exact ⟨_, rfl, rfl, nofun⟩

/-- A staging of a type that can be staged, in an area of the hart's own slice, passes. -/
theorem stageCheck_queue {h : Hart} {e : VEntry} (isA : Bool) {v : Reg} {p : Nat} {u : ElemType} (hty : h.anchor.vregs[v].ty = some u)
    (hu : u ∈ ([.i8, .i16, .i32, .n8, .n16, .n32, .f16, .bf16, .f32, .qn4] : List ElemType))
    (hq : u = .qn4 → 12 ≤ p ∧ (e.vl + 63) / 64 % 64 = 0 ∧ v ≠ 31 ∧ h.anchor.vregs[(v + 1 : Reg)].ty = some .n8)
    (ha : areaFault h.core e.scal1 256 (((e.vl + 63) / 64 + 63) / 64 * (512 * p + 256)) = none) :
    stageCheck h e isA v p = .queue (.stage isA v p) := by
  have hqn4 : (u == .qn4 && (decide (p < 12) || decide ((e.vl + 63) / 64 % 64 ≠ 0) || v == 31)) = false ∧
      (u == .qn4 && h.anchor.vregs[(v + 1 : Reg)].ty != some .n8) = false := by
    by_cases h4 : u = .qn4
    · obtain ⟨hp, hk, hv, hn⟩ := hq h4
      exact ⟨by simp [hk, hv, Nat.not_lt.2 hp], by rw [hn]; simp⟩
    · simp [h4]
  simp only [stageCheck, hty, ha, hqn4.1, hqn4.2, Bool.false_eq_true, if_false]
  simp only [List.mem_cons, List.not_mem_nil, or_false] at hu
  obtain rfl | rfl | rfl | rfl | rfl | rfl | rfl | rfl | rfl | rfl := hu <;> rfl

/-! ### `MCLAIM` and `SETTL` (R256, R257) -/

theorem relQueued_false {a : AnchorState} (h : ∀ e ∈ a.mqueue, e.op ≠ .rel) : relQueued a = false :=
  List.any_eq_false.2 fun e he => by simp [h e he]

/-- The Anchor that a claim is granted to, with no `MREL` of its own queued. -/
def AnchorState.granted (a : AnchorState) : AnchorState :=
  { a with claim := true, shape := ⟨0, 0, 0⟩, tiles := Vector.replicate 8 ⟨.empty, [], false⟩ }

theorem grantClaim_eq {s : State} {i : Nat} {h : Hart} {rest : List VEntry} (hq : ∀ e ∈ h.anchor.mqueue, e.op ≠ .rel) :
    grantClaim s i h rest = { s with
      contexts := s.contexts ++ [(h.core, i)]
      claimWait := s.claimWait.filter fun c => c.2 != i
      harts := s.harts.set i { h with anchor := { h.anchor.granted with viq := rest } } } := by
  unfold grantClaim
  rw [relQueued_false hq]
  rfl

/-- The first to wait of its core is granted a free context. -/
theorem claimStep_first {s : State} {i : Nat} {h : Hart} {rest : List VEntry}
    (hw : (s.claimWait.find? fun c => c.1 == h.core) = some (h.core, i)) (hfree : (s.contexts.filter fun c => c.1 == h.core).length < 2) :
    claimStep s i h rest = grantClaim s i h rest := by
  have hany : (s.claimWait.any fun c => c.2 == i) = true :=
    List.any_eq_true.2 ⟨_, List.mem_of_find?_eq_some hw, beq_self_eq_true i⟩
  simp only [claimStep, hany, if_true, firstWaiting, hw, contextFree, hfree, Option.map_some, beq_self_eq_true, decide_true, Bool.and_self]

/-- One that waits for nobody takes its place and is granted it at once. -/
theorem claimStep_alone {s : State} {i : Nat} {h : Hart} {rest : List VEntry} (hw : s.claimWait = [])
    (hfree : (s.contexts.filter fun c => c.1 == h.core).length < 2) :
    claimStep s i h rest = grantClaim { s with claimWait := [(h.core, i)] } i h rest := by
  simp [claimStep, hw, firstWaiting, contextFree, hfree]

theorem settlStep_eq {h : Hart} {e : VEntry} {rest : List VEntry} {c1 c2 c3 : Reg} (he : e.instr = .settl c1 c2 c3) :
    settlStep h e rest =
      let m := min e.scal1.toNat 64
      let n := min e.scal2.toNat 64
      let k := min e.scal3.toNat 4096
      let h' := ((h.withScalar c1 (BitVec.ofNat 64 m)).withScalar c2 (BitVec.ofNat 64 n)).withScalar c3 (BitVec.ofNat 64 k)
      { h' with anchor := { h'.anchor with
          th := { h'.anchor.th with lost := ((h.anchor.th.lost.filter (· != c1)).filter (· != c2)).filter (· != c3) }
          shape := ⟨m, n, (k + 63) / 64 * 64⟩
          viq := rest } } := by
  simp only [settlStep, he]
  rfl

/-! ### A waiting `MCLAIM` granted (R256) -/

theorem headConvoy_lone {e : VEntry} {rest : List VEntry} (hj : ∀ x, rest.head? = some x → x.joins = false) :
    headConvoy (e :: rest) = ([e], rest) :=
  headConvoy_append (es := [e]) (List.cons_ne_nil _ _) (fun _ h => nomatch h) hj

theorem commitHead_mclaim {s : State} {i : Nat} {h : Hart} {e : VEntry} {rest : List VEntry} (hv : h.anchor.viq = e :: rest)
    (he : e.instr = .mclaim) (hj : ∀ x, rest.head? = some x → x.joins = false) (ho : h.anchor.openLen = none) (hq : h.anchor.mqueue = []) :
    commitHead s i h = matrixCommit s i h e rest := by
  have hclosed : headClosed h.anchor = true := by simp only [headClosed, ho]
  have huse : useOf .mclaim = some {} := rfl
  have hholds : ([e].any fun x => ((useOf x.instr).map (matrixHolds h.anchor)).getD false) = false := by
    simp [he, huse, matrixHolds, hq]
  unfold commitHead
  rw [hv, headConvoy_lone hj]
  simp only [hclosed, Bool.not_true, Bool.false_eq_true, if_false, he, huse, hholds]

theorem exec_mclaimGrant (i : Nat) (s : State) : exec (.mclaimGrant i) s = .next (claimGrant s i) := rfl

theorem claimGrant_eq_commitStep {s : State} {i : Nat} {h : Hart} {e : VEntry} {rest : List VEntry} (hi : s.harts[i]? = some h)
    (hv : h.anchor.viq = e :: rest) (he : e.instr = .mclaim) (hw : (s.claimWait.any fun c => c.2 == i) = true) :
    claimGrant s i = commitStep s i := by
  simp only [claimGrant, hi, hv, he, hw, beq_self_eq_true, Bool.and_self, if_true]

/-! ### The obligation -/

/-- The vector unit's matrix instructions: what is checked, and what enters the queue. -/
theorem exec_queued {s : State} {h : Hart} {i : Instr} {u : VUse} {op : MOp} (hs : s.performs h) (hd : h.anchor.deferredErr = none)
    (hroom : h.anchor.mqueue.length < 32) (hop : op ≠ .rel) (hu : useOf i = some u) (hv : u.vform = false)
    (hf : ∀ sel off, i ≠ .vfetch sel off) (hc : matrixCheck s h (capture h i u none) = .queue op) :
    exec i s = .next (s.put { h with anchor := { h.anchor with
      mqueue := h.anchor.mqueue ++ [⟨op, h.anchor.th.pc, h.anchor.th.vl.toNat, h.anchor.th.rl.toNat, capScal h u.scal1, capScal h u.scal2,
        capScal h u.scal2, h.anchor.shape⟩] } }) := by
  rw [exec_matrixCommit hs hu hv hf, matrixCommit_queue hc hd hroom hop]
  rfl

theorem exec_illegal {s : State} {h : Hart} {i : Instr} {u : VUse} (hs : s.performs h) (hu : useOf i = some u) (hv : u.vform = false)
    (hf : ∀ sel off, i ≠ .vfetch sel off) (hc : matrixCheck s h (capture h i u none) = .trap 0x01 0) :
    exec i s = .next (deliverTrap s s.cur.hart { code := 0x01, thread := .anchor, iaddr := h.anchor.th.pc }) := by
  rw [exec_matrixCommit hs hu hv hf, matrixCommit_trap hc]
  rfl

/-- `MCLAIM` with a context free and nobody before it. -/
theorem exec_mclaim {s : State} {h : Hart} (hs : s.performs h) (hd : h.anchor.deferredErr = none) (hc : h.anchor.claim = false)
    (hw : s.claimWait = []) (hfree : (s.contexts.filter fun c => c.1 == h.core).length < 2) (hq : ∀ e ∈ h.anchor.mqueue, e.op ≠ .rel) :
    exec .mclaim s =
      .next { s.put { h with anchor := h.anchor.granted } with contexts := s.contexts ++ [(h.core, s.cur.hart)] } := by
  have hcheck : matrixCheck s h (capture h .mclaim {} none) = .claim := by
    have : claimHere h.anchor = false := (claimHere_of_clear hd).trans hc
    simp only [matrixCheck, capture, this, Bool.false_eq_true, if_false]
  rw [exec_matrixCommit hs (i := .mclaim) rfl rfl nofun, matrixCommit_claim hcheck hd, claimStep_alone hw hfree, grantClaim_eq hq]
  simp [State.put, hw, AnchorState.granted]

theorem exec_settl {s : State} {h : Hart} (hs : s.performs h) (hd : h.anchor.deferredErr = none) (hc : h.anchor.claim = true)
    (c1 c2 c3 : Reg) :
    let m := min (h.reg .anchor c1).toNat 64
    let n := min (h.reg .anchor c2).toNat 64
    let k := min (h.reg .anchor c3).toNat 4096
    let h' := ((h.withScalar c1 (BitVec.ofNat 64 m)).withScalar c2 (BitVec.ofNat 64 n)).withScalar c3 (BitVec.ofNat 64 k)
    exec (.settl c1 c2 c3) s = .next (s.put { h' with anchor := { h'.anchor with
      th := { h'.anchor.th with lost := ((h.anchor.th.lost.filter (· != c1)).filter (· != c2)).filter (· != c3) }
      shape := ⟨m, n, (k + 63) / 64 * 64⟩ } }) := by
  intro m n k h'
  have hcheck : matrixCheck s h (capture h (.settl c1 c2 c3) { scal1 := some c1, scal2 := some c2, scal3 := some c3, settl := true } none) =
      .settl := if_pos ((claimHere_of_clear hd).trans hc)
  rw [exec_matrixCommit hs (i := .settl c1 c2 c3) rfl rfl nofun, matrixCommit_settl hcheck hd, settlStep_eq rfl]
  rfl

theorem exec_mrel {s : State} {h : Hart} (hs : s.performs h) (hd : h.anchor.deferredErr = none) (hc : h.anchor.claim = true)
    (hroom : h.anchor.mqueue.length < 32) :
    exec .mrel s = .next (s.put { h with anchor := { h.anchor with
      claim := false, shape := ⟨0, 0, 0⟩
      mqueue := h.anchor.mqueue ++ [⟨.rel, h.anchor.th.pc, h.anchor.th.vl.toNat, h.anchor.th.rl.toNat, 0, 0, 0, h.anchor.shape⟩] } }) := by
  have hcheck : matrixCheck s h (capture h .mrel {} none) = .queue .rel := if_pos ((claimHere_of_clear hd).trans hc)
  rw [exec_matrixCommit hs (i := .mrel) rfl rfl nofun, matrixCommit_rel hcheck hd hroom]
  rfl

/-- A waiting `MCLAIM` at the head of the queue, the first to wait of its core, a context free. -/
theorem exec_mclaimGrant_first {s : State} {i : Nat} {h : Hart} {e : VEntry} {rest : List VEntry} (hi : s.harts[i]? = some h)
    (hm : h.mode = .running) (hst : h.stopHard = false) (hv : h.anchor.viq = e :: rest) (he : e.instr = .mclaim)
    (hj : ∀ x, rest.head? = some x → x.joins = false) (ho : h.anchor.openLen = none) (hc : h.anchor.claim = false)
    (hd : h.anchor.deferredErr = none) (hw : (s.claimWait.find? fun c => c.1 == h.core) = some (h.core, i))
    (hfree : (s.contexts.filter fun c => c.1 == h.core).length < 2) (hq : h.anchor.mqueue = []) :
    exec (.mclaimGrant i) s = .next { s with
      contexts := s.contexts ++ [(h.core, i)]
      claimWait := s.claimWait.filter fun c => c.2 != i
      harts := s.harts.set i { h with anchor := { h.anchor.granted with viq := rest } } } := by
  have hwaits : (s.claimWait.any fun c => c.2 == i) = true :=
    List.any_eq_true.2 ⟨_, List.mem_of_find?_eq_some hw, beq_self_eq_true i⟩
  have hcheck : matrixCheck s h e = .claim := by
    have : claimHere h.anchor = false := (claimHere_of_clear hd).trans hc
    simp only [matrixCheck, he, this, Bool.false_eq_true, if_false]
  have hlt : i < s.harts.length := (List.getElem?_eq_some_iff.1 hi).1
  rw [exec_mclaimGrant, claimGrant_eq_commitStep hi hv he hwaits,
    commitStep_commits hi hm hst (commitHead_mclaim hv he hj ho hq) (h' := { h with anchor := { h.anchor.granted with viq := rest } }) ?_ hd]
  · rw [matrixCommit_claim hcheck hd, claimStep_first hw hfree, grantClaim_eq (by simp [hq])]
  · rw [matrixCommit_claim hcheck hd, claimStep_first hw hfree, grantClaim_eq (by simp [hq])]
    exact List.getElem?_set_self hlt

/-- Settles O34: each matrix instruction by what `matrixCheck` makes of it. -/
theorem matrixCommit_settled : Obligations.MatrixCommit := by
  unfold Obligations.MatrixCommit
  refine ⟨fun s h t tt v c1 c2 c3 p hs hd hroom => ?_, fun s i h e rest hi hm hst hv he hj ho hc hd hw hfree hq =>
    exec_mclaimGrant_first hi hm hst hv he hj ho hc hd hw hfree hq⟩
  intro a x1 x2 illegal entry queued area inSlice
  have hclaim : claimHere h.anchor = a.claim := claimHere_of_clear hd
  refine ⟨fun hc => ?_, fun hc i hi => ?_, fun hc hw hfree hq => exec_mclaim hs hd hc hw hfree hq, fun hc => ⟨exec_settl hs hd hc c1 c2 c3,
    exec_mrel hs hd hc hroom, ?_, fun hal hin => ?_, fun hcap => ?_, fun hal1 hal2 hin1 hin2 => ?_, ?_⟩⟩
  · exact exec_illegal hs (i := .mclaim) rfl rfl nofun (if_pos (hclaim.trans hc))
  · obtain ⟨u, hu, hv, hf⟩ := useOf_claimedForms hi
    exact exec_illegal hs hu hv hf (matrixCheck_unclaimed (hclaim.trans hc) hi)
  · have hcheck : matrixCheck s h (capture h (.mzero t) {} none) = .queue (.zero t) := if_pos (hclaim.trans hc)
    exact exec_queued hs hd hroom (by nofun) rfl rfl (by nofun) hcheck
  · have harea : areaFault h.core (h.reg .anchor c1) 64 16384 = none := areaFault_none hal hin
    have hload : matrixCheck s h (capture h (.mldt t c1 tt) { scal1 := some c1 } none) = .queue (.load t tt) := by
      simp [matrixCheck, capture, capScal, harea, hclaim, hc]
    have hstore : matrixCheck s h (capture h (.mstt t c1) { scal1 := some c1 } none) = .queue (.store t) := by
      simp [matrixCheck, capture, capScal, harea, hclaim, hc]
    exact ⟨exec_queued hs hd hroom (by nofun) rfl rfl (by nofun) hload, exec_queued hs hd hroom (by nofun) rfl rfl (by nofun) hstore⟩
  · have hcheck : matrixCheck s h (capture h (.mtov v t c1) { vwrites := [v], scal1 := some c1 } none) = .queue (.toV v t) := by
      have : ¬capacity h.cls .f32 < 64 * h.anchor.th.rl.toNat := Nat.not_lt.2 hcap
      simp [matrixCheck, capture, this, hclaim, hc]
    exact exec_queued hs hd hroom (by nofun) rfl rfl (by nofun) hcheck
  · have h1 : mmaFault s h (h.reg .anchor c1) = none := areaFault_none hal1 hin1
    have h2 : mmaFault s h (h.reg .anchor c2) = none := areaFault_none hal2 hin2
    have hcheck : matrixCheck s h (capture h (.mma t c1 c2) { scal1 := some c1, scal2 := some c2 } none) = .queue (.mma t) := by
      simp [matrixCheck, capture, capScal, h1, h2, hclaim, hc]
    exact exec_queued hs hd hroom (by nofun) rfl rfl (by nofun) hcheck
  · intro u hty hu kc hqn4 hal hin
    have harea := areaFault_none hal hin
    have hstage : ∀ isA i, stageCheck h (capture h i { vreads := [v, v + 1], scal1 := some c1, scal2 := some v } none) isA v p =
        .queue (.stage isA v p) := fun isA i => stageCheck_queue isA hty hu hqn4 harea
    have hA : matrixCheck s h (capture h (.mstageA c1 v p) { vreads := [v, v + 1], scal1 := some c1, scal2 := some v } none) =
        .queue (.stage true v p) := (if_pos (hclaim.trans hc)).trans (hstage true _)
    have hB : matrixCheck s h (capture h (.mstageB c1 v p) { vreads := [v, v + 1], scal1 := some c1, scal2 := some v } none) =
        .queue (.stage false v p) := (if_pos (hclaim.trans hc)).trans (hstage false _)
    exact ⟨exec_queued hs hd hroom (by nofun) rfl rfl (by nofun) hA, exec_queued hs hd hroom (by nofun) rfl rfl (by nofun) hB⟩

end Sys2Proof.Machine
end

section
/-! PROOFS. Photo-finish and Seam complete (R122, R123, R125 to R127). -/
namespace Sys2Proof.Machine

open Sys2Proof

/-! ### The head of an engine's queue -/

section
variable {s : State} {i : Nat} {h : Hart} (hi : s.harts[i]? = some h) (hm : h.mode = .running)
include hi hm

/-- A started command that waits for nothing runs. -/
theorem withHead_runs {q : Fin 4} {c : EngineCmd} {rest : List EngineCmd} (he : h.pacer.engines[q] = c :: rest) (hst : c.started = true)
    (htok : c.token = none) (go : Hart → EngineCmd → Out) : withHead s i q go = go { h with core := c.core } c := by
  have hhead : headCmd h q = some c := by simp only [headCmd, he, List.head?_cons]
  have hn : noteWaits s h = false := by simp only [noteWaits, hm]; rfl
  simp only [withHead, hi, hhead, hst, htok, hn, Option.isSome_none, Bool.not_true, Bool.or_self, Bool.false_eq_true, if_false]

/-- A command of a running hart completes in its Pacer alone. -/
theorem completeCmd_running (q : Fin 4) (tag : Option (Fin 64)) (err : Bool) (ranges : List (Nat × Nat)) :
    completeCmd s i q tag err ranges = { s with harts := s.harts.set i (h.completed q tag err ranges) } := by
  have hmode : (h.mode == .saved || h.mode == .trapped) = false := by rw [hm]; rfl
  have hmod : ∀ f g : Hart → Hart, (s.harts.modify i f).modify i g = s.harts.set i (g (f h)) := fun f g => by
    rw [modify_of_getElem? hi, modify_set]
  simp only [completeCmd, hi, hmode, Bool.false_eq_true, if_false, modQueue, modPacer, modHart, hmod]
  cases tag <;> rfl

/-- What a completion leaves of a state that has come about since, its harts as they were. -/
theorem completeCmd_after {u : State} (hu : u.harts = s.harts) (q : Fin 4) (tag : Option (Fin 64)) (err : Bool) (ranges : List (Nat × Nat)) :
    (completeCmd u i q tag err ranges).mem = u.mem ∧ (completeCmd u i q tag err ranges).seamSeq = u.seamSeq ∧
      (completeCmd u i q tag err ranges).harts = s.harts.set i (h.completed q tag err ranges) := by
  rw [completeCmd_running (by rw [hu]; exact hi) hm]
  exact ⟨rfl, rfl, by rw [hu]⟩

end

/-! ### Data without poison -/

theorem homeByte_clean {s : State} (hp : s.poison = []) (sp : List Span) (k : Nat) : (homeByte s sp k).2 = false := by
  induction sp generalizing k with
  | nil => rfl
  | cons p sp ih =>
    unfold homeByte
    split
    · simp [hp]
    · exact ih _

theorem homeBytes_clean {s : State} (hp : s.poison = []) (sp : List Span) (k n : Nat) : (homeBytes s sp k n).2 = false := by
  simp [homeBytes, homeByte_clean hp]

/-! ### Photo-finish (R122, R123) -/

/-- Element k of a region. -/
def pfElt (s : State) (t : ElemType) (region : List Span) (k : Nat) : Word :=
  BitVec.ofNat 64 (leNat (homeBytes s region (k * (width t / 8)) (width t / 8)).1)

/-- Whether an element goes into q: no NaN, and in a scan one that meets the condition. -/
def pfQualifies (b : PfBlock) (t : ElemType) (x : Word) : Bool :=
  !isNanElt t x && (b.op != 2 || (eltCond (condOf b.cond) t x (BitVec.ofNat 64 b.thresh)).1)

theorem scanStepPf_clean {s : State} {b : PfBlock} (hp : s.poison = []) (hb : b.mask = false) (t : ElemType) (region mask : List Span)
    (a : Scan) (k : Nat) :
    scanStepPf s b t region mask a k =
      ⟨a.q ++ if pfQualifies b t (pfElt s t region k) then [(pfElt s t region k, k)] else [], a.data,
        a.nans || isNanElt t (pfElt s t region k)⟩ := by
  simp only [scanStepPf, hb, Bool.false_and, Bool.false_eq_true, if_false, homeBytes_clean hp]
  change (if isNanElt t (pfElt s t region k) = true then _ else if (b.op == 2 &&
    !(eltCond (condOf b.cond) t (pfElt s t region k) (BitVec.ofNat 64 b.thresh)).1) = true then _ else
      ({ a with q := a.q ++ [(pfElt s t region k, k)] } : Scan)) = _
  unfold pfQualifies
  by_cases hn : isNanElt t (pfElt s t region k) = true
  · simp [hn]
  · by_cases ho : b.op = 2
    · by_cases hc : (eltCond (condOf b.cond) t (pfElt s t region k) (BitVec.ofNat 64 b.thresh)).1 = true <;> simp [hn, ho, hc]
    · simp [hn, ho]

/-- The scan of a region in its order. -/
theorem scanPf_clean {s : State} {b : PfBlock} (hp : s.poison = []) (hb : b.mask = false) (t : ElemType) (region mask : List Span)
    (ks : List Nat) (a : Scan) :
    ks.foldl (scanStepPf s b t region mask) a =
      ⟨a.q ++ (ks.filter fun k => pfQualifies b t (pfElt s t region k)).map fun k => (pfElt s t region k, k), a.data,
        a.nans || ks.any fun k => isNanElt t (pfElt s t region k)⟩ := by
  induction ks generalizing a with
  | nil => simp
  | cons k ks ih =>
    rw [List.foldl_cons, ih, scanStepPf_clean hp hb, List.filter_cons, List.any_cons, List.append_assoc, Bool.or_assoc]
    split <;> rfl

theorem photoStep_clean {s : State} {i : Nat} {h : Hart} {c : EngineCmd} {rest : List EngineCmd} {b : PfBlock} {t : ElemType}
    {region : List Span} (hi : s.harts[i]? = some h) (hm : h.mode = .running) (calm : s.mgmt.recoveries = [])
    (he : h.pacer.engines[(1 : Fin 4)] = c :: rest) (hst : c.started = true) (htok : c.token = none) (hdec : c.declined = false)
    (hop : c.op = .photo b) (hty : ElemType.ofCode b.ty = some t) (hb : b.mask = false)
    (hr : pfSpans s { h with core := c.core } (cutRange 4096 b.src (b.count * (width t / 8))) = .ok region) :
    let r := photoResult s b t ((List.range b.count).foldl (scanStepPf s b t region []) ⟨[], false, false⟩)
    photoStep s i = .next (completeCmd r.1 i 1 c.tag ((List.range b.count).foldl (scanStepPf s b t region []) ⟨[], false, false⟩).data r.2) := by
  intro r
  rw [photoStep, withHead_runs hi hm he hst htok]
  simp only [hop, hty, rangeFenced_none calm, hdec, hb, hr, Bool.false_eq_true, if_false]
  rfl

/-- The header of a result without poison that could be placed. -/
theorem pfHeader_clean (nrec qual : Nat) (nans trunc : Bool) :
    pfHeader nrec qual nans trunc false false = leBytes 64 (nrec + qual * 2 ^ 32 + bitNat nans 64 + bitNat trunc 65) := by
  simp only [pfHeader, bitNat, Bool.false_eq_true, if_false, Nat.add_zero]

theorem photoResult_harts (s : State) (b : PfBlock) (t : ElemType) (a : Scan) : (photoResult s b t a).1.harts = s.harts := by
  simp only [photoResult, homeWrite_harts]

theorem exec_photoFinishComplete (i : Nat) (s : State) : exec (.photoFinishComplete i) s = photoStep s i := rfl

theorem photoResult_mem (s : State) (b : PfBlock) (t : ElemType) (q : List (Word × Nat)) (nans : Bool) :
    let top := (orderPf b t q).take b.limit
    let dst := 2 ^ 52 + (b.dst - 0xF000000000000)
    let values := top.flatMap fun x => leBytes (width t / 8) x.1.toNat
    let indices := top.flatMap fun x => leBytes 4 x.2
    let r := photoResult s b t ⟨q, false, nans⟩
    r.1.mem = Memory.writeAll (Memory.writeAll (Memory.writeAll s.mem (dst + 64) values) (dst + 64 + pfValueBytes b) indices) dst
        (leBytes 64 (min b.limit (orderPf b t q).length + min (orderPf b t q).length (2 ^ 32 - 1) * 2 ^ 32 + bitNat nans 64 +
          bitNat (b.op == 2 && decide (b.limit < (orderPf b t q).length)) 65)) ∧
      r.2 = [(dst, 64 + values.length), (dst + 64 + pfValueBytes b, indices.length)] := by
  intro top dst values indices r
  have htop : (orderPf b t q).take (min b.limit (orderPf b t q).length) = top := (List.take_eq_take_min ..).symm
  simp only [r, photoResult, htop, homeWrite_mem, pfHeader_clean, nearLoc, dst, values, indices, and_self]

/-! ### The bytes of a list of elements -/

theorem writeAll_append (m : List Host.Cell) (loc : Nat) (bs cs : List Byte) :
    Memory.writeAll m loc (bs ++ cs) = Memory.writeAll (Memory.writeAll m loc bs) (loc + bs.length) cs := by
  induction bs generalizing m loc with
  | nil => rfl
  | cons b bs ih =>
    rw [List.cons_append, Memory.writeAll, ih, Memory.writeAll, List.length_cons, Nat.add_right_comm loc 1, Nat.add_assoc]

/-- A number stored in n bytes reads back from them. -/
theorem leNat_writeAll_leBytes {m : List Host.Cell} (h : Memory.wf m = true) (loc n x : Nat) :
    leNat (Memory.readAll (Memory.writeAll m loc (leBytes n x)) loc n) = x % 256 ^ n := by
  have hr := Memory.readAll_writeAll h loc (leBytes n x)
  rw [length_leBytes] at hr
  rw [hr, leNat_leBytes]

theorem length_flatMap_chunks {α : Type} {f : α → List Byte} {w : Nat} {l : List α} (hf : ∀ x ∈ l, (f x).length = w) :
    (l.flatMap f).length = l.length * w := by
  induction l with
  | nil => simp
  | cons x l ih =>
    rw [List.flatMap_cons, List.length_append, hf x (List.mem_cons_self ..), ih fun y hy => hf y (List.mem_cons_of_mem _ hy), List.length_cons]
    ring

/-- Chunk k of a list of chunks of one length. -/
theorem flatMap_chunk {α : Type} {f : α → List Byte} {w k : Nat} {l : List α} (hf : ∀ x ∈ l, (f x).length = w) (hk : k < l.length) :
    ((l.flatMap f).drop (k * w)).take w = f l[k] := by
  induction l generalizing k with
  | nil => cases hk
  | cons x l ih =>
    have hx := hf x (List.mem_cons_self ..)
    cases k with
    | zero => rw [Nat.zero_mul, List.drop_zero, List.flatMap_cons, List.take_left' hx]; rfl
    | succ k =>
      have hd : (k + 1) * w = (f x).length + k * w := by rw [hx]; ring
      rw [List.flatMap_cons, hd, List.drop_length_add_append, List.getElem_cons_succ]
      exact ih (fun y hy => hf y (List.mem_cons_of_mem _ hy)) _

/-! ### Seam (R125 to R127) -/

/-- An aligned range cut at its own alignment. -/
theorem cutRange_aligned {w loc count : Nat} (hw : 0 < w) (hc : 0 < count) (hal : loc % w = 0) :
    cutRange w loc (count * w) = (List.range count).map fun k => (loc + k * w, w) := by
  obtain ⟨q, rfl⟩ := Nat.dvd_of_mod_eq_zero hal
  have hn : count * w ≠ 0 := (Nat.mul_pos hc hw).ne'
  have hlast : (w * q + count * w - 1) / w - w * q / w + 1 = count := by
    have : w * q + count * w - 1 = w - 1 + w * (q + count - 1) := by
      obtain ⟨n, rfl⟩ := Nat.exists_eq_add_of_lt hc
      obtain ⟨v, rfl⟩ := Nat.exists_eq_add_of_lt hw
      have : q + (0 + n + 1) - 1 = q + n := by omega
      rw [this]
      have e : (0 + v + 1) * q + (0 + n + 1) * (0 + v + 1) = (v + (0 + v + 1) * (q + n)) + 1 := by ring
      rw [e]
      omega
    rw [this, Nat.add_mul_div_left _ _ hw, Nat.div_eq_of_lt (by omega), Nat.mul_div_cancel_left _ hw]
    omega
  unfold cutRange
  rw [if_neg hn, hlast]
  refine List.map_congr_left fun k hk => ?_
  have hkc := List.mem_range.1 hk
  have hlo : (w * q / w + k) * w = w * q + k * w := by rw [Nat.mul_div_cancel_left _ hw]; ring
  have hhi : (w * q / w + k + 1) * w = w * q + k * w + w := by rw [Nat.mul_div_cancel_left _ hw]; ring
  have hle : k * w + w ≤ count * w := by
    have := Nat.mul_le_mul_right w hkc
    rwa [Nat.succ_mul] at this
  rw [hlo, hhi]
  simp only [Prod.mk.injEq]
  omega

theorem seamStore_sameButMemory (w : Nat) (s : State) (ls : List (Nat × Nat × Bool)) (es : List SeamElem) :
    s.sameButMemory (seamStore w s ls es) := by
  induction ls generalizing s es with
  | nil => cases es <;> rfl
  | cons l ls ih =>
    cases es with
    | nil => rfl
    | cons e es =>
      unfold seamStore
      refine State.sameButMemory.trans ?_ (ih _ es)
      rfl

/-- The elements of DST, one after another. -/
theorem seamStore_mem {w : Nat} {s : State} {loc : Nat} {cd : Bool} {es : List SeamElem} (hu : ∀ e ∈ es, e.undef = false) :
    (seamStore w s ((List.range es.length).map fun k => (loc + k * w, w, cd)) es).mem =
      Memory.writeAll s.mem loc (es.flatMap fun e => leBytes w e.bits.toNat) := by
  induction es generalizing s loc with
  | nil => rfl
  | cons e es ih =>
    have hrest : ((List.range es.length).map Nat.succ).map (fun k => (loc + k * w, w, cd)) =
        (List.range es.length).map fun k => (loc + w + k * w, w, cd) := by
      rw [List.map_map]
      refine List.map_congr_left fun k _ => ?_
      simp only [Function.comp_apply, Prod.mk.injEq, and_true]
      rw [Nat.succ_mul]; omega
    rw [List.length_cons, List.range_succ_eq_map, List.map_cons, hrest, seamStore, ih fun x hx => hu x (List.mem_cons_of_mem _ hx),
      List.flatMap_cons, writeAll_append, length_leBytes, hu e (List.mem_cons_self ..), Nat.zero_mul]
    rfl

/-- What DST gets: each element's place and bytes, and every other byte as it was. -/
theorem seamStore_read {w : Nat} {s : State} {loc : Nat} {cd : Bool} {es : List SeamElem} (hok : s.memoryOk)
    (hu : ∀ e ∈ es, e.undef = false) :
    let t := seamStore w s ((List.range es.length).map fun k => (loc + k * w, w, cd)) es
    t.memoryOk ∧
    (∀ k (hk : k < es.length), Memory.readAll t.mem (loc + k * w) w = leBytes w es[k].bits.toNat) ∧
    ∀ x, x < loc ∨ loc + es.length * w ≤ x → Memory.read t.mem x = Memory.read s.mem x := by
  intro t
  have hlen : (es.flatMap fun e => leBytes w e.bits.toNat).length = es.length * w := length_flatMap_chunks fun _ _ => length_leBytes ..
  have hmem : t.mem = Memory.writeAll s.mem loc (es.flatMap fun e => leBytes w e.bits.toNat) := seamStore_mem hu
  refine ⟨?_, fun k hk => ?_, fun x hx => ?_⟩
  · unfold State.memoryOk
    rw [hmem]
    exact Memory.writeAll_wf hok ..
  · have hfit : k * w + w ≤ (es.flatMap fun e => leBytes w e.bits.toNat).length := by
      have := Nat.mul_le_mul_right w hk
      rw [Nat.succ_mul] at this
      rw [hlen]
      exact this
    rw [hmem, Memory.readAll_writeAll_part hok loc (k * w) w hfit, flatMap_chunk (fun _ _ => length_leBytes ..) hk]
  · rw [hmem]
    exact Memory.read_writeAll_outside hok (by rw [hlen]; exact hx)

/-- The ERR bits of elements that are all defined and without poison. -/
theorem seamErr_clean {es : List SeamElem} (hu : ∀ e ∈ es, e.undef = false) (hb : ∀ e ∈ es, e.bad = false) :
    let flags := es.foldl (fun f e => f ||| e.flags) (0 : Flags)
    seamErr es = bitNat (flags &&& flagNV != 0) 4 + bitNat (flags &&& flagOF != 0) 5 := by
  intro flags
  have hbad : es.any SeamElem.bad = false := List.any_eq_false.2 fun e he => by simp [hb e he]
  have hfl : es.foldl (fun f e => if e.undef then f else f ||| e.flags) (0 : Flags) = flags :=
    List.foldl_ext _ _ _ fun f e he => by rw [hu e he]; rfl
  simp only [seamErr, hbad, hfl, bitNat, Bool.false_eq_true, if_false, Nat.zero_add]

theorem seamErr_small (f : Flags) :
    (bitNat (f &&& flagNV != 0) 4 + bitNat (f &&& flagOF != 0) 5) % 16 = 0 ∧
      bitNat (f &&& flagNV != 0) 4 + bitNat (f &&& flagOF != 0) 5 < 2 ^ 16 := by
  unfold bitNat
  split <;> split <;> decide

/-- The flag word fits its eight bytes. -/
theorem flagWord_fits {flagVal err : Nat} (hv : flagVal < 2 ^ 16) (he : err < 2 ^ 16) (seq : BitVec 32) :
    (flagVal + err * 2 ^ 16 + seq.toNat * 2 ^ 32) % 256 ^ 8 = flagVal + err * 2 ^ 16 + seq.toNat * 2 ^ 32 := by
  have := seq.isLt
  exact Nat.mod_eq_of_lt (by omega)

section
variable {s : State} {i : Nat} {h : Hart} (hi : s.harts[i]? = some h) (hm : h.mode = .running)
include hi hm

/-- The flag of a running hart's command. -/
theorem seamFlag_running (c : EngineCmd) (stack : Nat) (b : SeamBlock) (loc err : Nat) (ranges : List (Nat × Nat)) :
    let k : Fin 24 := Fin.ofNat 24 stack
    let seq := s.seamSeq[k] + 1
    let t := seamFlag s i c stack b loc err ranges
    t.mem = Memory.writeAll s.mem loc (leBytes 8 (b.flagVal + err * 2 ^ 16 + seq.toNat * 2 ^ 32)) ∧
      t.seamSeq = s.seamSeq.set k seq ∧
      t.harts = s.harts.set i (h.completed 2 c.tag (decide (err % 16 ≠ 0)) (ranges ++ [(loc, 8)])) := by
  intro k seq t
  exact completeCmd_after hi hm (u := homeWrite (farDrop { s with
      seamSeq := s.seamSeq.set k seq, seams := s.seams.filter fun w => w.hart != i } none (lineOf loc)) loc
    (leBytes 8 (b.flagVal + err * 2 ^ 16 + seq.toNat * 2 ^ 32)) false) rfl ..

variable {c : EngineCmd} {rest : List EngineCmd} {b : SeamBlock} {t : ElemType}

/-- A Seam command none of whose accesses fails combines its buffers and writes its flag. -/
theorem seamStep_combines {bufs : List (List Span)} {dst : List Span} {floc : Nat} (calm : s.mgmt.recoveries = [])
    (he : h.pacer.engines[(2 : Fin 4)] = c :: rest) (hst : c.started = true) (htok : c.token = none) (hdec : c.declined = false)
    (hop : c.op = .seam b) (href : c.refused = false) (hty : ElemType.ofCode b.ty = some t)
    (hflag : flagLoc s { h with core := c.core } b = .ok floc)
    (hbufs : seamBuffers s { h with core := c.core } b (b.count * (width t / 8)) (List.range b.nbuf) = .ok bufs)
    (hdst : probeRange s { h with core := c.core } .engineWrite (BitVec.ofNat 64 b.dst) (b.count * (width t / 8)) = .ok dst)
    (hlocal : ∀ a ∈ ((List.range b.nbuf).map (seamBuffer b) ++ [b.dst]).flatMap
        (fun a => (cutRange 4096 a (b.count * (width t / 8))).map (·.1)),
      localStack s { h with core := c.core } a = some (seamEngine s { h with core := c.core } b)) :
    let es := (List.range b.count).map
      (seamEltAt s b t bufs dst ((s.seams.filter fun x => x.hart == i).flatMap SeamWatch.writes))
    seamStep s i = .next (seamFlag (seamStore (width t / 8) s (cutSpans (width t / 8) dst) es) i
      { c with declined := false, refused := false, failed := false } (seamEngine s { h with core := c.core } b) b floc (seamErr es)
      (dst.map fun p => (p.loc, p.len))) := by
  intro es
  have hall : (((List.range b.nbuf).map (seamBuffer b) ++ [b.dst]).flatMap
      (fun a => (cutRange 4096 a (b.count * (width t / 8))).map (·.1))).all
      (fun a => localStack s { h with core := c.core } a == some (seamEngine s { h with core := c.core } b)) = true :=
    List.all_eq_true.2 fun a ha => by rw [hlocal a ha]; exact beq_self_eq_true _
  rw [seamStep, withHead_runs hi hm he hst htok]
  simp only [hop, hty, tableFenced_none calm, hdec, href, hflag, hbufs, hdst, hall, Bool.false_and, Bool.or_self, Bool.false_eq_true,
    if_false, if_true]
  rfl

end

theorem exec_seamComplete (i : Nat) (s : State) : exec (.seamComplete i) s = seamStep s i := rfl

/-- The element of DST from element e of each buffer, with its exceptions. -/
def seamValue (s : State) (b : SeamBlock) (t : ElemType) (bufs : List (List Span)) (e : Nat) : Word × Flags :=
  seamElt b.op t (bufs.map fun sp => BitVec.ofNat 64 (leNat (homeBytes s sp (e * (width t / 8)) (width t / 8)).1))

theorem seamEltAt_bits (s : State) (b : SeamBlock) (t : ElemType) (bufs : List (List Span)) (dst : List Span) (writes : List (Nat × Nat))
    (e : Nat) : (seamEltAt s b t bufs dst writes e).bits = (seamValue s b t bufs e).1 := by
  simp only [seamEltAt, List.map_map]
  rfl

theorem seamEltAt_flags (s : State) (b : SeamBlock) (t : ElemType) (bufs : List (List Span)) (dst : List Span) (writes : List (Nat × Nat))
    (e : Nat) : (seamEltAt s b t bufs dst writes e).flags = (seamValue s b t bufs e).2 := by
  simp only [seamEltAt, List.map_map]
  rfl

theorem seamEltAt_clean {s : State} (hp : s.poison = []) (b : SeamBlock) (t : ElemType) (bufs : List (List Span)) (dst : List Span)
    (writes : List (Nat × Nat)) (e : Nat) : (seamEltAt s b t bufs dst writes e).bad = false := by
  simp only [seamEltAt, List.any_map]
  exact List.any_eq_false.2 fun sp _ => by simp [homeBytes_clean hp]

/-- The elements of DST that a Seam command writes, and the ERR bits of its flag. -/
theorem seamElems_of_defined {s : State} (hp : s.poison = []) {b : SeamBlock} {t : ElemType} {bufs : List (List Span)} {dst : List Span}
    {writes : List (Nat × Nat)} (hundef : ∀ e, e < b.count → (seamEltAt s b t bufs dst writes e).undef = false) :
    let es := (List.range b.count).map (seamEltAt s b t bufs dst writes)
    let flags := (List.range b.count).foldl (fun f e => f ||| (seamValue s b t bufs e).2) (0 : Flags)
    es.length = b.count ∧ (∀ x ∈ es, x.undef = false) ∧ (∀ e (he : e < es.length), es[e].bits = (seamValue s b t bufs e).1) ∧
      seamErr es = bitNat (flags &&& flagNV != 0) 4 + bitNat (flags &&& flagOF != 0) 5 := by
  intro es flags
  have hu : ∀ x ∈ es, x.undef = false := fun x hx => by
    obtain ⟨e, he, rfl⟩ := List.mem_map.1 hx
    exact hundef e (List.mem_range.1 he)
  have hb : ∀ x ∈ es, x.bad = false := fun x hx => by
    obtain ⟨e, -, rfl⟩ := List.mem_map.1 hx
    exact seamEltAt_clean hp ..
  have hfl : es.foldl (fun f x => f ||| x.flags) (0 : Flags) = flags := by
    rw [List.foldl_map]
    exact List.foldl_ext _ _ _ fun f e _ => by rw [seamEltAt_flags]
  refine ⟨by simp [es], hu, fun e he => ?_, by rw [seamErr_clean hu hb, hfl]⟩
  simp only [es, List.getElem_map, List.getElem_range, seamEltAt_bits]

theorem cutSpans_aligned {w loc count : Nat} (cd : Bool) (hw : 0 < w) (hc : 0 < count) (hal : loc % w = 0) :
    cutSpans w [⟨loc, count * w, cd⟩] = (List.range count).map fun k => (loc + k * w, w, cd) := by
  rw [cutSpans, List.flatMap_singleton, cutRange_aligned hw hc hal, List.map_map]
  rfl

/-- Settles O38: the scan and the combination, each element in its place. -/
theorem nearDataEngines : Obligations.NearDataEngines := by
  unfold Obligations.NearDataEngines
  intro s i h c rest t hi hm calm hp hst htok hdec at' w
  refine ⟨fun b region hop he hty hb hr => ?_, fun b bufs floc dloc cd hop href he hty hw hc hv => ?_⟩
  · intro elt ks q top dst values indices nans header
    have hscan := scanPf_clean hp hb t region [] (List.range b.count) ⟨[], false, false⟩
    rw [List.nil_append, Bool.false_or] at hscan
    obtain ⟨hmem, hranges⟩ := photoResult_mem s b t (ks.map fun k => (elt k, k)) nans
    have hdone := completeCmd_after hi hm (photoResult_harts s b t ⟨ks.map fun k => (elt k, k), false, nans⟩) 1 c.tag false
      (photoResult s b t ⟨ks.map fun k => (elt k, k), false, nans⟩).2
    refine ⟨_, ?_, hdone.1.trans hmem, hdone.2.2.trans ?_⟩
    · rw [exec_photoFinishComplete, photoStep_clean hi hm calm he hst htok hdec hop hty hb hr, hscan]
      rfl
    · rw [hranges]
  · intro n hflag hbufs hdst hal hlocal hundef hapart hok value flags err k
    obtain ⟨hlen, hu, hget, herr⟩ := seamElems_of_defined hp hundef
    replace herr : seamErr _ = err := herr
    set es := (List.range b.count).map
      (seamEltAt s b t bufs [⟨dloc, n, cd⟩] ((s.seams.filter fun x => x.hart == i).flatMap SeamWatch.writes))
    replace hget : ∀ e (he : e < es.length), es[e].bits = (value e).1 := hget
    have hpow : 256 ^ w = 2 ^ (8 * w) := (Nat.pow_mul 2 8 w).symm
    have hcut : cutSpans w [⟨dloc, n, cd⟩] = (List.range es.length).map fun k => (dloc + k * w, w, cd) := by
      rw [hlen]; exact cutSpans_aligned cd hw hc hal
    have hstep : seamStep s i = .next (seamFlag (seamStore w s (cutSpans w [⟨dloc, n, cd⟩]) es) i
        { c with declined := false, refused := false, failed := false } (seamEngine s at' b) b floc (seamErr es) [(dloc, n)]) :=
      seamStep_combines hi hm calm he hst htok hdec hop href hty hflag hbufs hdst hlocal
    obtain ⟨hok', hread, hframe⟩ := seamStore_read (w := w) (loc := dloc) (cd := cd) hok hu
    have hsame := seamStore_sameButMemory w s ((List.range es.length).map fun k => (dloc + k * w, w, cd)) es
    rw [hcut, herr] at hstep
    generalize seamStore w s ((List.range es.length).map fun k => (dloc + k * w, w, cd)) es = s' at hstep hok' hread hframe hsame
    have hseq : s'.seamSeq = s.seamSeq := (congrArg State.seamSeq hsame :)
    obtain ⟨hmem, hseq', hharts⟩ := seamFlag_running (by rw [hsame.harts]; exact hi) hm
      { c with declined := false, refused := false, failed := false } (seamEngine s at' b) b floc err [(dloc, n)]
    obtain ⟨herr16, herrlt⟩ := seamErr_small flags
    have herr0 : decide (err % 16 ≠ 0) = false := decide_eq_false (not_not_intro herr16)
    rw [herr0, hsame.harts] at hharts
    rw [hseq] at hmem hseq'
    refine ⟨_, (exec_seamComplete i s).trans hstep, hseq', hharts, ?_, fun e he' => ?_, fun x hx hf => ?_⟩
    all_goals rw [hmem]
    · exact (leNat_writeAll_leBytes hok' ..).trans (flagWord_fits hv herrlt _)
    · have hfit : e * w + w ≤ n := by
        have := Nat.mul_le_mul_right w he'
        rwa [Nat.succ_mul] at this
      rw [Memory.readAll_writeAll_apart hok' (by rw [length_leBytes]; omega), hread e (by rw [hlen]; exact he'), leNat_leBytes, hget, hpow]
    · rw [Memory.read_writeAll_outside hok' (by rw [length_leBytes]; exact hf), hframe x (by rw [hlen]; exact hx)]

end Sys2Proof.Machine
end

section
/-! PROOFS. Fields of a word and what they name: a reader answers a value exactly on the field that the value is written as (R147, R148,
R150 to R152, R157, R166). -/
namespace Sys2Proof

section

variable {α β : Type} {n k : Nat}

/-! ### Readers in a row -/

@[simp] theorem bind_eq_ok {x : Except Reject α} {g : α → Except Reject β} {b : β} :
    (x >>= g) = .ok b ↔ ∃ a, x = .ok a ∧ g a = .ok b := by
  cases x <;> simp [bind, Except.bind]

@[simp] theorem map_eq_ok {x : Except Reject α} {g : α → β} {b : β} : x.map g = .ok b ↔ ∃ a, x = .ok a ∧ g a = b := by
  cases x <;> simp [Except.map]

theorem ite_eq_ok {c : Prop} [Decidable c] {x : Except Reject α} {e : Reject} {a : α} :
    (if c then x else .error e) = .ok a ↔ c ∧ x = .ok a := by
  split <;> simp [*]

/-! ### Numbers and codes -/

@[simp] theorem reserved0_eq_ok {u : Unit} : reserved0 n = .ok u ↔ n = 0 := by
  simp [reserved0]

@[simp] theorem finOf_eq_ok {a : Fin k} : finOf k n = .ok a ↔ n = a.val := by
  unfold finOf
  split
  · simp [Fin.ext_iff]
  · simp only [reduceCtorEq, false_iff]
    omega

@[simp] theorem named_eq_ok {o : Option α} {a : α} : named o = .ok a ↔ o = some a := by
  cases o <;> simp [named]

@[simp] theorem ElemType.ofCode_eq_some {t : ElemType} : ElemType.ofCode n = some t ↔ n = t.code := by
  constructor
  · unfold ElemType.ofCode
    split <;> rintro ⟨⟩ <;> rfl
  · rintro rfl
    cases t <;> rfl

@[simp] theorem FloatFmt.ofCode_eq_some {t : FloatFmt} : FloatFmt.ofCode n = some t ↔ n = t.code := by
  constructor
  · unfold FloatFmt.ofCode
    split <;> rintro ⟨⟩ <;> rfl
  · rintro rfl
    cases t <;> rfl

@[simp] theorem Scope.ofCode_eq_some {c : Scope} : Scope.ofCode n = some c ↔ n = c.code := by
  constructor
  · unfold Scope.ofCode
    split <;> rintro ⟨⟩ <;> rfl
  · rintro rfl
    cases c <;> rfl

@[simp] theorem VAmoOp.ofCode_eq_some {op : VAmoOp} : VAmoOp.ofCode n = some op ↔ n = op.code := by
  constructor
  · unfold VAmoOp.ofCode
    split <;> rintro ⟨⟩ <;> rfl
  · rintro rfl
    cases op <;> rfl

@[simp] theorem TileType.ofCode_eq_some {t : TileType} : TileType.ofCode n = some t ↔ n = t.code := by
  constructor
  · unfold TileType.ofCode
    split <;> rintro ⟨⟩ <;> rfl
  · rintro rfl
    cases t <;> rfl

@[simp] theorem queueOf_eq_ok {q : ScalarQueue} : queueOf n = .ok q ↔ n = q.code := by
  constructor
  · unfold queueOf
    split <;> rintro ⟨⟩ <;> rfl
  · rintro rfl
    cases q <;> rfl

@[simp] theorem selOf_eq_ok {m : MaskSel} : selOf n = .ok m ↔ n = selCode m := by
  unfold selOf
  cases m with
  | none => split <;> simp [selCode, *]
  | some m =>
    split
    · simp [selCode, *]
    · simp [selCode]
      omega

theorem selCode_none : selCode none = 0 := rfl

/-! ### How large a code is -/

variable {bound : Nat}

@[simp] theorem ElemType.code_lt (t : ElemType) (h : 16 ≤ bound) : t.code < bound :=
  lt_of_lt_of_le (by cases t <;> decide) h

@[simp] theorem FloatFmt.code_lt (t : FloatFmt) (h : 16 ≤ bound) : t.code < bound :=
  lt_of_lt_of_le (by cases t <;> decide) h

@[simp] theorem Scope.code_lt (c : Scope) (h : 8 ≤ bound) : c.code < bound :=
  lt_of_lt_of_le (by cases c <;> decide) h

@[simp] theorem VAmoOp.code_lt (op : VAmoOp) (h : 16 ≤ bound) : op.code < bound :=
  lt_of_lt_of_le (by cases op <;> decide) h

@[simp] theorem TileType.code_lt (t : TileType) (h : 4 ≤ bound) : t.code < bound :=
  lt_of_lt_of_le (by cases t <;> decide) h

@[simp] theorem ScalarQueue.code_lt (q : ScalarQueue) (h : 2 ≤ bound) : q.code < bound :=
  lt_of_lt_of_le (by cases q <;> decide) h

@[simp] theorem selCode_lt (m : MaskSel) (h : 16 ≤ bound) : selCode m < bound := by
  cases m <;> simp only [selCode] <;> omega

@[simp] theorem toNat_lt {w : Nat} (x : BitVec w) (h : 2 ^ w ≤ bound) : x.toNat < bound := lt_of_lt_of_le x.isLt h

@[simp] theorem val_lt (a : Fin k) (h : k ≤ bound) : a.val < bound := Fin.val_lt_of_le a h

/-! ### Bits -/

theorem bit_false : bit false = 0 := rfl

@[simp] theorem bit_lt {bound : Nat} (b : Bool) (h : 2 ≤ bound) : bit b < bound := lt_of_lt_of_le (by cases b <;> decide) h

@[simp] theorem bit_le (b : Bool) : bit b ≤ 1 := by cases b <;> decide

@[simp] theorem bit_beq_one (b : Bool) : (bit b == 1) = b := by cases b <;> rfl

theorem beq_one_eq {c : Nat} (hc : c < 2) {b : Bool} : (c == 1) = b ↔ c = bit b := by
  cases b with
  | false => simp only [bit, beq_eq_false_iff_ne, Bool.false_eq_true, reduceIte]; omega
  | true => simp [bit]

theorem bit_beq_one_of_lt {c : Nat} (hc : c < 2) : bit (c == 1) = c := ((beq_one_eq hc).1 rfl).symm

/-! ### The order of a scalar access (R157) -/

theorem MemOrder.ofCodes_eq_some {o : MemOrder} {scope : Nat} :
    MemOrder.ofCodes n scope = some o ↔ n = o.ordCode ∧ scope = o.scopeCode := by
  constructor
  · unfold MemOrder.ofCodes
    split <;> simp only [Option.map_eq_some_iff, Scope.ofCode_eq_some, Option.ite_none_right_eq_some, Option.some.injEq, reduceCtorEq,
      false_imp_iff]
    · rintro ⟨rfl, rfl⟩
      exact ⟨rfl, rfl⟩
    all_goals
      rintro ⟨c, rfl, rfl⟩
      exact ⟨rfl, rfl⟩
  · rintro ⟨rfl, rfl⟩
    cases o <;> simp [MemOrder.ofCodes, MemOrder.ordCode, MemOrder.scopeCode]

@[simp] theorem orderOf_eq_ok {f : SFields} {o : MemOrder} : orderOf f = .ok o ↔ f.s3 = o.s3 := by
  have hord : o.ordCode < 4 := by cases o <;> simp [MemOrder.ordCode]
  simp only [orderOf, named_eq_ok, MemOrder.ofCodes_eq_some, MemOrder.s3]
  omega

@[simp] theorem MemOrder.s3_lt (o : MemOrder) : o.s3 < 32 := by
  cases o with
  | plain => decide
  | acq c | rel c | acqRel c => cases c <;> decide

/-! ### Operands of the V form (R149 to R152) -/

@[simp] theorem VSrc.field_lt (s : VSrc) : s.field < 32 := by cases s <;> simp only [VSrc.field] <;> omega
@[simp] theorem VSrc.chainBit_le (s : VSrc) : s.chainBit ≤ 1 := by
  cases s with
  | reg r c => cases c <;> simp [VSrc.chainBit]
  | lq q => simp [VSrc.chainBit]
  | vf => simp [VSrc.chainBit]
@[simp] theorem VSrc.qBit_le (s : VSrc) : s.qBit ≤ 1 := by cases s <;> simp [VSrc.qBit]
@[simp] theorem VDst.field_lt (d : VDst) : d.field < 32 := by cases d <;> simp only [VDst.field] <;> omega
@[simp] theorem VDst.qBit_le (d : VDst) : d.qBit ≤ 1 := by cases d <;> simp [VDst.qBit]

theorem VSrc.chainBit_reg (r : Reg) (c : Bool) : (VSrc.reg r c).chainBit = bit c := by cases c <;> rfl

theorem vsrcOf_eq_ok {field h q : Nat} (hh : h < 2) (hq : q < 2) {s : VSrc} :
    vsrcOf field h q = .ok s ↔ field = s.field ∧ h = s.chainBit ∧ q = s.qBit := by
  constructor
  · unfold vsrcOf
    split
    next hreg =>
      simp only [map_eq_ok, finOf_eq_ok]
      rintro ⟨r, hr, rfl⟩
      exact ⟨hr, by rw [VSrc.chainBit_reg, bit_beq_one_of_lt hh], hreg⟩
    next hqueue =>
      have hq1 : q = 1 := by omega
      split
      next h0 =>
        split
        next hvf =>
          rintro ⟨⟩
          exact ⟨hvf, h0, hq1⟩
        next =>
          simp only [map_eq_ok, finOf_eq_ok]
          rintro ⟨l, hl, rfl⟩
          exact ⟨hl, h0, hq1⟩
      next => rintro ⟨⟩
  · rintro ⟨rfl, rfl, rfl⟩
    cases s with
    | reg r c => simp [vsrcOf, VSrc.field, VSrc.chainBit_reg, VSrc.qBit]
    | lq l => simp [vsrcOf, VSrc.field, VSrc.chainBit, VSrc.qBit, l.isLt.ne]
    | vf => rfl

theorem vdstOf_eq_ok {field q : Nat} (hq : q < 2) {d : VDst} : vdstOf field q = .ok d ↔ field = d.field ∧ q = d.qBit := by
  unfold vdstOf
  cases d with
  | reg r => split <;> simp [VDst.field, VDst.qBit, *]
  | sq s =>
    split
    · simp [VDst.qBit, *]
    · simp [VDst.field, VDst.qBit]
      omega

end

end Sys2Proof
end

section
/-! PROOFS. The forms (R149, R156 to R162): the range of every field, the operands apart from the minor opcode, and that a word and its fields
determine each other. -/
namespace Sys2Proof

/-! ### The range of every field but the minor opcode -/

structure SFields.InRange (f : SFields) : Prop where
  d : f.d < 32
  s1 : f.s1 < 32
  s2 : f.s2 < 32
  s3 : f.s3 < 32
  imm : f.imm < 2 ^ 32

structure BFields.InRange (f : BFields) : Prop where
  d : f.d < 32
  s1 : f.s1 < 32
  s2 : f.s2 < 32
  off : f.off < 2 ^ 39

structure LapFields.InRange (f : LapFields) : Prop where
  n : f.n < 32
  ty : f.ty < 16
  pm : f.pm < 16
  p0 : f.p0 < 128
  p1 : f.p1 < 128
  p2 : f.p2 < 128
  p3 : f.p3 < 128
  off : f.off < 2 ^ 17

structure VFields.InRange (f : VFields) : Prop where
  c : f.c < 2
  d : f.d < 32
  s1 : f.s1 < 32
  h1 : f.h1 < 2
  s2 : f.s2 < 32
  h2 : f.h2 < 2
  s3 : f.s3 < 32
  h3 : f.h3 < 2
  mask : f.mask < 16
  z : f.z < 2
  q : f.q < 16
  imm : f.imm < 2 ^ 16

structure EFields.InRange (f : EFields) : Prop where
  tag : f.tag < 64
  e1 : f.e1 < 32
  e2 : f.e2 < 32
  e3 : f.e3 < 32
  e4 : f.e4 < 32
  e5 : f.e5 < 32
  e6 : f.e6 < 32
  e7 : f.e7 < 32
  e8 : f.e8 < 32
  sw : f.sw < 2
  rest : f.rest < 128

structure MFields.InRange (f : MFields) : Prop where
  c1 : f.c1 < 32
  c2 : f.c2 < 32
  c3 : f.c3 < 32
  v : f.v < 32
  t : f.t < 8
  p : f.p < 32
  tt : f.tt < 4
  rest : f.rest < 2 ^ 24

structure YFields.InRange (f : YFields) : Prop where
  d : f.d < 32
  s1 : f.s1 < 32
  s2 : f.s2 < 32
  scope : f.scope < 8
  rest : f.rest < 8
  num : f.num < 4096
  imm : f.imm < 2 ^ 20

theorem SFields.ofWord_inRange (w : Nat) : (ofWord w).InRange := by
  constructor <;> exact Nat.mod_lt _ (by decide)

theorem BFields.ofWord_inRange (w : Nat) : (ofWord w).InRange := by
  constructor <;> exact Nat.mod_lt _ (by decide)

theorem LapFields.ofWord_inRange (w : Nat) : (ofWord w).InRange := by
  constructor <;> exact Nat.mod_lt _ (by decide)

theorem VFields.ofWord_inRange (w : Nat) : (ofWord w).InRange := by
  constructor <;> exact Nat.mod_lt _ (by decide)

theorem EFields.ofWord_inRange (w : Nat) : (ofWord w).InRange := by
  constructor <;> exact Nat.mod_lt _ (by decide)

theorem MFields.ofWord_inRange (w : Nat) : (ofWord w).InRange := by
  constructor <;> exact Nat.mod_lt _ (by decide)

theorem YFields.ofWord_inRange (w : Nat) : (ofWord w).InRange := by
  constructor <;> exact Nat.mod_lt _ (by decide)

/-! ### The operands of a form: its fields with no minor opcode, as the encoders write them -/

def SFields.operands (f : SFields) : SFields := { f with minor := 0 }
def BFields.operands (f : BFields) : BFields := { f with minor := 0 }
def VFields.operands (f : VFields) : VFields := { f with minor := 0 }
def EFields.operands (f : EFields) : EFields := { f with minor := 0 }
def MFields.operands (f : MFields) : MFields := { f with minor := 0 }
def YFields.operands (f : YFields) : YFields := { f with minor := 0 }

/-! ### A word is the word of its fields -/

/-- The lower a + b bits of a number are the b bits above the lower a, and these. -/
theorem mod_two_pow_add (w a b : Nat) : w % 2 ^ (a + b) = w / 2 ^ a % 2 ^ b * 2 ^ a + w % 2 ^ a := by
  rw [Nat.pow_add, Nat.mod_mul, Nat.mul_comm, Nat.add_comm]

section

variable {w major : Nat} (hw : w < 2 ^ 64) (hm : w / 2 ^ 58 % 64 = major)
include hw hm

theorem SFields.toWord_ofWord : (ofWord w).toWord major (ofWord w).minor = w := by
  have e := mod_two_pow_add w
  conv_rhs => rw [← Nat.mod_eq_of_lt hw, e 58 6, e 53 5, e 48 5, e 43 5, e 38 5, e 32 6]
  simp only [toWord, ofWord, Nat.add_assoc, ← hm]
  rfl

theorem BFields.toWord_ofWord : (ofWord w).toWord major (ofWord w).minor = w := by
  have e := mod_two_pow_add w
  conv_rhs => rw [← Nat.mod_eq_of_lt hw, e 58 6, e 53 5, e 48 5, e 43 5, e 39 4]
  simp only [toWord, ofWord, Nat.add_assoc, ← hm]
  rfl

omit hm in
theorem LapFields.toWord_ofWord (hm : w / 2 ^ 58 % 64 = 9) : (ofWord w).toWord = w := by
  have e := mod_two_pow_add w
  conv_rhs => rw [← Nat.mod_eq_of_lt hw, e 58 6, e 53 5, e 49 4, e 45 4, e 38 7, e 31 7, e 24 7, e 17 7]
  simp only [toWord, ofWord, Nat.add_assoc, ← hm]
  rfl

theorem VFields.toWord_ofWord : (ofWord w).toWord major (ofWord w).minor = w := by
  have e := mod_two_pow_add w
  conv_rhs => rw [← Nat.mod_eq_of_lt hw, e 58 6, e 57 1, e 52 5, e 47 5, e 46 1, e 41 5, e 40 1, e 35 5, e 34 1, e 30 4, e 29 1, e 20 9, e 16 4]
  simp only [toWord, ofWord, Nat.add_assoc, ← hm]
  rfl

theorem EFields.toWord_ofWord : (ofWord w).toWord major (ofWord w).minor = w := by
  have e := mod_two_pow_add w
  conv_rhs => rw [← Nat.mod_eq_of_lt hw, e 58 6, e 52 6, e 47 5, e 42 5, e 37 5, e 32 5, e 27 5, e 22 5, e 17 5, e 12 5, e 8 4, e 7 1]
  simp only [toWord, ofWord, Nat.add_assoc, ← hm]
  rfl

theorem MFields.toWord_ofWord : (ofWord w).toWord major (ofWord w).minor = w := by
  have e := mod_two_pow_add w
  conv_rhs => rw [← Nat.mod_eq_of_lt hw, e 58 6, e 53 5, e 48 5, e 43 5, e 38 5, e 35 3, e 31 4, e 26 5, e 24 2]
  simp only [toWord, ofWord, Nat.add_assoc, ← hm]
  rfl

theorem YFields.toWord_ofWord : (ofWord w).toWord major (ofWord w).minor = w := by
  have e := mod_two_pow_add w
  conv_rhs => rw [← Nat.mod_eq_of_lt hw, e 58 6, e 53 5, e 48 5, e 43 5, e 38 5, e 35 3, e 32 3, e 20 12]
  simp only [toWord, ofWord, Nat.add_assoc, ← hm]
  rfl

end

/-! ### The fields of a word are those it was made of -/

theorem BFields.ofWord_toWord {f : BFields} {major minor : Nat} (hf : f.InRange) (hmajor : major < 64) (hminor : minor < 16) :
    f.toWord major minor < 2 ^ 64 ∧ f.toWord major minor / 2 ^ 58 % 64 = major ∧
      ofWord (f.toWord major minor) = { f with minor := minor } := by
  obtain ⟨d, s1, s2, _, off⟩ := f
  obtain ⟨hd, hs1, hs2, hoff⟩ := hf
  simp only [toWord, ofWord, mk.injEq] at *
  constructorm* _ ∧ _ <;> omega

theorem LapFields.ofWord_toWord {f : LapFields} (hf : f.InRange) :
    f.toWord < 2 ^ 64 ∧ f.toWord / 2 ^ 58 % 64 = 9 ∧ ofWord f.toWord = f := by
  obtain ⟨n, ty, pm, p0, p1, p2, p3, off⟩ := f
  obtain ⟨hn, hty, hpm, hp0, hp1, hp2, hp3, hoff⟩ := hf
  simp only [toWord, ofWord, mk.injEq] at *
  constructorm* _ ∧ _ <;> omega

theorem VFields.ofWord_toWord {f : VFields} {major minor : Nat} (hf : f.InRange) (hmajor : major < 64) (hminor : minor < 512) :
    f.toWord major minor < 2 ^ 64 ∧ f.toWord major minor / 2 ^ 58 % 64 = major ∧
      ofWord (f.toWord major minor) = { f with minor := minor } := by
  obtain ⟨c, d, s1, h1, s2, h2, s3, h3, mask, z, _, q, imm⟩ := f
  obtain ⟨hc, hd, hs1, hh1, hs2, hh2, hs3, hh3, hmask, hz, hq, himm⟩ := hf
  simp only [toWord, ofWord, mk.injEq] at *
  constructorm* _ ∧ _ <;> omega

theorem EFields.ofWord_toWord {f : EFields} {major minor : Nat} (hf : f.InRange) (hmajor : major < 64) (hminor : minor < 16) :
    f.toWord major minor < 2 ^ 64 ∧ f.toWord major minor / 2 ^ 58 % 64 = major ∧
      ofWord (f.toWord major minor) = { f with minor := minor } := by
  obtain ⟨tag, e1, e2, e3, e4, e5, e6, e7, e8, _, sw, rest⟩ := f
  obtain ⟨htag, he1, he2, he3, he4, he5, he6, he7, he8, hsw, hrest⟩ := hf
  simp only [toWord, ofWord, mk.injEq] at *
  constructorm* _ ∧ _ <;> omega

theorem MFields.ofWord_toWord {f : MFields} {major minor : Nat} (hf : f.InRange) (hmajor : major < 64) (hminor : minor < 16) :
    f.toWord major minor < 2 ^ 64 ∧ f.toWord major minor / 2 ^ 58 % 64 = major ∧
      ofWord (f.toWord major minor) = { f with minor := minor } := by
  obtain ⟨c1, c2, c3, v, t, _, p, tt, rest⟩ := f
  obtain ⟨hc1, hc2, hc3, hv, ht, hp, htt, hrest⟩ := hf
  simp only [toWord, ofWord, mk.injEq] at *
  constructorm* _ ∧ _ <;> omega

theorem YFields.ofWord_toWord {f : YFields} {major minor : Nat} (hf : f.InRange) (hmajor : major < 64) (hminor : minor < 32) :
    f.toWord major minor < 2 ^ 64 ∧ f.toWord major minor / 2 ^ 58 % 64 = major ∧
      ofWord (f.toWord major minor) = { f with minor := minor } := by
  obtain ⟨d, s1, s2, _, scope, rest, num, imm⟩ := f
  obtain ⟨hd, hs1, hs2, hscope, hrest, hnum, himm⟩ := hf
  simp only [toWord, ofWord, mk.injEq] at *
  constructorm* _ ∧ _ <;> omega

end Sys2Proof
end

section
/-! PROOFS. The operands of the V form (R149 to R152, R164, R165), field by field. -/
namespace Sys2Proof

section

variable {f : VFields} (hf : f.InRange)

theorem VFields.q1_lt (f : VFields) : f.q1 < 2 := Nat.mod_lt _ (by decide)
theorem VFields.q2_lt (f : VFields) : f.q2 < 2 := Nat.mod_lt _ (by decide)
theorem VFields.q3_lt (f : VFields) : f.q3 < 2 := Nat.mod_lt _ (by decide)
theorem VFields.qd_lt (f : VFields) : f.qd < 2 := Nat.mod_lt _ (by decide)

theorem VFields.dst_eq_ok {d : VDst} : f.dst = .ok d ↔ f.d = d.field ∧ f.qd = d.qBit := vdstOf_eq_ok f.qd_lt

theorem VFields.plainD_eq_ok {k : Nat} {a : Fin k} : f.plainD k = .ok a ↔ f.qd = 0 ∧ f.d = a.val := by
  simp [plainD]
theorem VFields.plain1_eq_ok {k : Nat} {a : Fin k} : f.plain1 k = .ok a ↔ (f.h1 = 0 ∧ f.q1 = 0) ∧ f.s1 = a.val := by
  simp [plain1]
theorem VFields.plain2_eq_ok {k : Nat} {a : Fin k} : f.plain2 k = .ok a ↔ (f.h2 = 0 ∧ f.q2 = 0) ∧ f.s2 = a.val := by
  simp [plain2]
theorem VFields.plain3_eq_ok {k : Nat} {a : Fin k} : f.plain3 k = .ok a ↔ (f.h3 = 0 ∧ f.q3 = 0) ∧ f.s3 = a.val := by
  simp [plain3]

theorem VFields.noD_eq_ok {u : Unit} : f.noD = .ok u ↔ f.d = 0 ∧ f.qd = 0 := by
  simp [noD]
theorem VFields.no1_eq_ok {u : Unit} : f.no1 = .ok u ↔ f.s1 = 0 ∧ f.h1 = 0 ∧ f.q1 = 0 := by
  simp [no1, and_assoc]
theorem VFields.no2_eq_ok {u : Unit} : f.no2 = .ok u ↔ f.s2 = 0 ∧ f.h2 = 0 ∧ f.q2 = 0 := by
  simp [no2, and_assoc]
theorem VFields.no3_eq_ok {u : Unit} : f.no3 = .ok u ↔ f.s3 = 0 ∧ f.h3 = 0 ∧ f.q3 = 0 := by
  simp [no3, and_assoc]
theorem VFields.noSel_eq_ok {u : Unit} : f.noSel = .ok u ↔ f.mask = 0 ∧ f.z = 0 := by
  simp [noSel]
theorem VFields.noImm_eq_ok {u : Unit} : f.noImm = .ok u ↔ f.imm = 0 := reserved0_eq_ok

include hf

theorem VFields.src1_eq_ok {s : VSrc} : f.src1 = .ok s ↔ f.s1 = s.field ∧ f.h1 = s.chainBit ∧ f.q1 = s.qBit :=
  vsrcOf_eq_ok hf.h1 f.q1_lt
theorem VFields.src2_eq_ok {s : VSrc} : f.src2 = .ok s ↔ f.s2 = s.field ∧ f.h2 = s.chainBit ∧ f.q2 = s.qBit :=
  vsrcOf_eq_ok hf.h2 f.q2_lt
theorem VFields.src3_eq_ok {s : VSrc} : f.src3 = .ok s ↔ f.s3 = s.field ∧ f.h3 = s.chainBit ∧ f.q3 = s.qBit :=
  vsrcOf_eq_ok hf.h3 f.q3_lt

theorem predOf_eq_ok {p : Pred} : predOf f = .ok p ↔ f.c = bit p.joined ∧ f.mask = selCode p.sel ∧ f.z = bit p.z := by
  obtain ⟨j, sel, z⟩ := p
  simp [predOf, ← beq_one_eq hf.c, ← beq_one_eq hf.z]
  grind

/-- The operands that the encoders of the V form write, field by field; the four Q bits are the digits of the Q field. -/
theorem VFields.operands_eq_mkV {p : Pred} {d qd s1 h1 q1 s2 h2 q2 s3 h3 q3 imm : Nat} (hqd : qd ≤ 1) (hq1 : q1 ≤ 1) (hq2 : q2 ≤ 1)
    (hq3 : q3 ≤ 1) :
    f.operands = mkV p d qd s1 h1 q1 s2 h2 q2 s3 h3 q3 imm ↔
      (f.c = bit p.joined ∧ f.mask = selCode p.sel ∧ f.z = bit p.z) ∧ (f.d = d ∧ f.qd = qd) ∧ (f.s1 = s1 ∧ f.h1 = h1 ∧ f.q1 = q1) ∧
        (f.s2 = s2 ∧ f.h2 = h2 ∧ f.q2 = q2) ∧ (f.s3 = s3 ∧ f.h3 = h3 ∧ f.q3 = q3) ∧ f.imm = imm := by
  have hq := hf.q
  have hdigits : f.q = q1 + 2 * q2 + 4 * q3 + 8 * qd ↔ f.q1 = q1 ∧ f.q2 = q2 ∧ f.q3 = q3 ∧ f.qd = qd := by
    simp only [VFields.q1, VFields.q2, VFields.q3, VFields.qd]
    omega
  simp only [operands, mkV, mk.injEq, hdigits]
  grind

omit hf in
@[simp] theorem Fill.s3_lt (fill : Fill) : fill.s3 < 32 := by cases fill <;> simp [Fill.s3]

/-- The fill of a slide lies in bits 10 and up of imm16 and in s3 (R164, R210). -/
theorem fillOf_eq_ok {fill : Fill} :
    fillOf f = .ok fill ↔ (f.h3 = 0 ∧ f.q3 = 0) ∧ f.s3 = fill.s3 ∧ f.imm / 1024 = fill.imm / 1024 := by
  have himm := hf.imm
  simp only [fillOf, bind_eq_ok, VFields.plain3_eq_ok]
  constructor
  · rintro ⟨r, ⟨hh, hr⟩, e⟩
    split at e
    case h_4 => cases e
    all_goals
      simp only [bind_eq_ok, reserved0_eq_ok, finOf_eq_ok] at e
      grind [Fill.s3, Fill.imm]
  · rintro ⟨hh, hs3, hi⟩
    have hr := fill.s3_lt
    refine ⟨⟨fill.s3, hr⟩, ⟨hh, hs3⟩, ?_⟩
    cases fill with
    | zero =>
      have hkind : f.imm / 1024 = 0 := hi
      have htop : f.imm / 4096 = 0 := by omega
      simp [hkind, htop, Fill.s3]
    | identity c =>
      have hkind : f.imm / 1024 % 4 = 1 := by simp only [Fill.imm] at hi; omega
      have htop : f.imm / 4096 = c.val := by simp only [Fill.imm] at hi; omega
      simp [hkind, htop, Fill.s3]
    | scalar r =>
      have hkind : f.imm / 1024 = 2 := by simpa [Fill.imm] using hi
      have htop : f.imm / 4096 = 0 := by omega
      simp [hkind, htop, Fill.s3]

omit hf in
/-- An output mask of a forest instruction, with its enable bit (R164). -/
theorem fmaskOf_eq_ok {en n : Nat} {m : MaskSel} : fmaskOf en n = .ok m ↔ en % 2 = bit m.isSome ∧ n = fmaskNum m := by
  unfold fmaskOf
  split
  next hen => cases m <;> simp [fmaskNum, bit, hen]
  next hen =>
    have hen : en % 2 = 0 := by omega
    cases m <;> simp [fmaskNum, bit, hen]

omit hf in
theorem fmaskNum_lt (m : MaskSel) : fmaskNum m < 12 := by
  cases m <;> simp [fmaskNum]

/-- The two output masks of a forest instruction fill imm16 (R164). -/
theorem forestOf_eq_ok {fm : ForestMasks} : forestOf f = .ok fm ↔ f.imm = fm.imm := by
  have himm := hf.imm
  have hcyc := fmaskNum_lt fm.cyc
  have hcut := fmaskNum_lt fm.cut
  have hb := bit_le fm.cyc.isSome
  have hb' := bit_le fm.cut.isSome
  obtain ⟨cyc, cut⟩ := fm
  simp only [forestOf, bind_eq_ok, reserved0_eq_ok, fmaskOf_eq_ok, ForestMasks.imm, Except.ok.injEq, ForestMasks.mk.injEq] at *
  constructor
  · rintro ⟨-, h1, -, h2, cyc', ⟨h3, h4⟩, cut', ⟨h5, h6⟩, rfl, rfl⟩
    omega
  · intro h
    exact ⟨(), by omega, (), by omega, cyc, by omega, cut, by omega, rfl, rfl⟩

omit hf in
theorem Fill.imm_le (fill : Fill) : fill.imm ≤ 1024 + 4096 * 5 := by
  cases fill <;> simp only [Fill.imm] <;> omega

omit hf in
@[simp] theorem Fill.imm_lt (fill : Fill) : fill.imm < 65536 := lt_of_le_of_lt fill.imm_le (by decide)

omit hf in
@[simp] theorem ForestMasks.imm_lt (fm : ForestMasks) : fm.imm < 65536 := by
  have hcyc := fmaskNum_lt fm.cyc
  have hcut := fmaskNum_lt fm.cut
  have := bit_le fm.cyc.isSome
  have := bit_le fm.cut.isSome
  simp only [ForestMasks.imm]
  omega

end

/-! ### The Pacer's words: no C, chain bit, z or Q (R149, R165) -/

theorem VFields.pacer_eq_ok {f : VFields} {sel : MaskSel} :
    f.pacer = .ok sel ↔ (f.c = 0 ∧ f.h1 = 0 ∧ f.h2 = 0 ∧ f.h3 = 0 ∧ f.z = 0 ∧ f.q = 0) ∧ f.mask = selCode sel := by
  simp [pacer, and_assoc]

theorem VFields.operands_eq_mkP {f : VFields} {sel : MaskSel} {d s1 s2 s3 imm : Nat} :
    f.operands = mkP sel d s1 s2 s3 imm ↔
      ((f.c = 0 ∧ f.h1 = 0 ∧ f.h2 = 0 ∧ f.h3 = 0 ∧ f.z = 0 ∧ f.q = 0) ∧ f.mask = selCode sel) ∧
        f.d = d ∧ f.s1 = s1 ∧ f.s2 = s2 ∧ f.s3 = s3 ∧ f.imm = imm := by
  simp [operands, mkP, mkV, bit]
  grind

/-! ### The ranges of an encoded word's fields -/

theorem mkV_inRange {p : Pred} {d qd s1 h1 q1 s2 h2 q2 s3 h3 q3 imm : Nat} (hd : d < 32) (hqd : qd ≤ 1) (hs1 : s1 < 32) (hh1 : h1 ≤ 1)
    (hq1 : q1 ≤ 1) (hs2 : s2 < 32) (hh2 : h2 ≤ 1) (hq2 : q2 ≤ 1) (hs3 : s3 < 32) (hh3 : h3 ≤ 1) (hq3 : q3 ≤ 1) (himm : imm < 65536) :
    (mkV p d qd s1 h1 q1 s2 h2 q2 s3 h3 q3 imm).InRange := by
  refine ⟨bit_lt _ le_rfl, hd, hs1, Nat.lt_succ_of_le hh1, hs2, Nat.lt_succ_of_le hh2, hs3, Nat.lt_succ_of_le hh3,
    selCode_lt _ le_rfl, bit_lt _ le_rfl, ?_, himm⟩
  change q1 + 2 * q2 + 4 * q3 + 8 * qd < 16
  omega

theorem mkP_inRange {sel : MaskSel} {d s1 s2 s3 imm : Nat} (hd : d < 32) (hs1 : s1 < 32) (hs2 : s2 < 32) (hs3 : s3 < 32) (himm : imm < 65536) :
    (mkP sel d s1 s2 s3 imm).InRange :=
  mkV_inRange hd (by decide) hs1 (by decide) (by decide) hs2 (by decide) (by decide) hs3 (by decide) (by decide) himm

end Sys2Proof
end

section
/-! PROOFS. The S and B forms and `LAP` (R156 to R159): the decoder of a shape answers just the instructions whose operands its encoder writes. -/
namespace Sys2Proof

/-! ### The S form -/

section

variable {f : SFields} {i : Instr}

theorem decRRR_eq_ok {mk} : decRRR mk f = .ok i ↔ ∃ d s1 s2, mk d s1 s2 = i ∧ f.operands = encRRR d s1 s2 := by
  simp only [decRRR, encRRR, SFields.operands, SFields.mk.injEq, bind_eq_ok, reserved0_eq_ok, finOf_eq_ok]
  grind

theorem decRRRR_eq_ok {mk} : decRRRR mk f = .ok i ↔ ∃ d s1 s2 s3, mk d s1 s2 s3 = i ∧ f.operands = encRRRR d s1 s2 s3 := by
  simp only [decRRRR, encRRRR, SFields.operands, SFields.mk.injEq, bind_eq_ok, reserved0_eq_ok, finOf_eq_ok]
  grind

theorem decRR_eq_ok {mk} : decRR mk f = .ok i ↔ ∃ d s1, mk d s1 = i ∧ f.operands = encRR d s1 := by
  simp only [decRR, encRR, SFields.operands, SFields.mk.injEq, bind_eq_ok, reserved0_eq_ok, finOf_eq_ok]
  grind

theorem decRRI_eq_ok (hf : f.InRange) {mk} : decRRI mk f = .ok i ↔ ∃ d s1 imm, mk d s1 imm = i ∧ f.operands = encRRI d s1 imm := by
  have himm := hf.imm
  simp only [decRRI, encRRI, SFields.operands, SFields.mk.injEq, bind_eq_ok, reserved0_eq_ok, finOf_eq_ok]
  grind

theorem decRRSH_eq_ok {mk} : decRRSH mk f = .ok i ↔ ∃ d s1 sh, mk d s1 sh = i ∧ f.operands = encRRSH d s1 sh := by
  simp only [decRRSH, encRRSH, SFields.operands, SFields.mk.injEq, bind_eq_ok, reserved0_eq_ok, finOf_eq_ok]
  grind

theorem decRI_eq_ok (hf : f.InRange) {mk} : decRI mk f = .ok i ↔ ∃ d imm, mk d imm = i ∧ f.operands = encRI d imm := by
  have himm := hf.imm
  simp only [decRI, encRI, SFields.operands, SFields.mk.injEq, bind_eq_ok, reserved0_eq_ok, finOf_eq_ok]
  grind

theorem decF3_eq_ok {mk} : decF3 mk f = .ok i ↔ ∃ d s1 s2 t, mk d s1 s2 t = i ∧ f.operands = encF3 d s1 s2 t := by
  simp only [decF3, encF3, SFields.operands, SFields.mk.injEq, bind_eq_ok, reserved0_eq_ok, finOf_eq_ok, named_eq_ok, FloatFmt.ofCode_eq_some]
  grind

theorem decF4_eq_ok {mk} : decF4 mk f = .ok i ↔ ∃ d s1 s2 s3 t, mk d s1 s2 s3 t = i ∧ f.operands = encF4 d s1 s2 s3 t := by
  simp only [decF4, encF4, SFields.operands, SFields.mk.injEq, bind_eq_ok, finOf_eq_ok, named_eq_ok, FloatFmt.ofCode_eq_some]
  grind

theorem decFCVT_eq_ok {mk} :
    decFCVT mk f = .ok i ↔ ∃ d s1 s2 dst src, mk d s1 s2 dst src = i ∧ f.operands = encFCVT d s1 s2 dst src := by
  have himm (dst src : ElemType) : f.imm / 256 = 0 ∧ f.imm % 16 = dst.code ∧ f.imm / 16 % 16 = src.code ↔ f.imm = dst.code + 16 * src.code := by
    have hdst := dst.code_lt le_rfl
    have hsrc := src.code_lt le_rfl
    omega
  simp only [decFCVT, encFCVT, SFields.operands, SFields.mk.injEq, bind_eq_ok, reserved0_eq_ok, finOf_eq_ok, named_eq_ok,
    ElemType.ofCode_eq_some, ← himm]
  grind

theorem decGETC_eq_ok {mk} : decGETC mk f = .ok i ↔ ∃ d num, mk d num = i ∧ f.operands = encGETC d num := by
  simp only [decGETC, encGETC, SFields.operands, SFields.mk.injEq, bind_eq_ok, reserved0_eq_ok, finOf_eq_ok]
  grind

theorem decSETC_eq_ok {mk} : decSETC mk f = .ok i ↔ ∃ num s1, mk num s1 = i ∧ f.operands = encSETC num s1 := by
  simp only [decSETC, encSETC, SFields.operands, SFields.mk.injEq, bind_eq_ok, reserved0_eq_ok, finOf_eq_ok]
  grind

theorem decNONE_S_eq_ok {mk} : decNONE_S mk f = .ok i ↔ mk = i ∧ f.operands = encNONE_S := by
  simp only [decNONE_S, encNONE_S, SFields.operands, SFields.mk.injEq, bind_eq_ok, reserved0_eq_ok]
  grind

theorem decSETVL_eq_ok {mk} : decSETVL mk f = .ok i ↔ ∃ d s1 ty, mk d s1 ty = i ∧ f.operands = encSETVL d s1 ty := by
  simp only [decSETVL, encSETVL, SFields.operands, SFields.mk.injEq, bind_eq_ok, reserved0_eq_ok, finOf_eq_ok, named_eq_ok, ElemType.ofCode_eq_some]
  grind

theorem decSETVLM_eq_ok {mk} : decSETVLM mk f = .ok i ↔ ∃ d m, mk d m = i ∧ f.operands = encSETVLM d m := by
  simp only [decSETVLM, encSETVLM, SFields.operands, SFields.mk.injEq, bind_eq_ok, reserved0_eq_ok, finOf_eq_ok]
  grind

theorem decQPUSH_eq_ok {mk} : decQPUSH mk f = .ok i ↔ ∃ q s1, mk q s1 = i ∧ f.operands = encQPUSH q s1 := by
  simp only [decQPUSH, encQPUSH, SFields.operands, SFields.mk.injEq, bind_eq_ok, reserved0_eq_ok, finOf_eq_ok, queueOf_eq_ok]
  grind

theorem decQPOP_eq_ok {mk} : decQPOP mk f = .ok i ↔ ∃ d q, mk d q = i ∧ f.operands = encQPOP d q := by
  simp only [decQPOP, encQPOP, SFields.operands, SFields.mk.injEq, bind_eq_ok, reserved0_eq_ok, finOf_eq_ok, queueOf_eq_ok]
  grind

theorem decLD_eq_ok (hf : f.InRange) {mk} : decLD mk f = .ok i ↔ ∃ d s1 ord off, mk d s1 ord off = i ∧ f.operands = encLD d s1 ord off := by
  have himm := hf.imm
  simp only [decLD, encLD, SFields.operands, SFields.mk.injEq, bind_eq_ok, reserved0_eq_ok, finOf_eq_ok, orderOf_eq_ok]
  grind

theorem decAMO_eq_ok (hf : f.InRange) {mk} :
    decAMO mk f = .ok i ↔ ∃ d s1 s2 ord off, mk d s1 s2 ord off = i ∧ f.operands = encAMO d s1 s2 ord off := by
  have himm := hf.imm
  simp only [decAMO, encAMO, SFields.operands, SFields.mk.injEq, bind_eq_ok, finOf_eq_ok, orderOf_eq_ok]
  grind

end

/-! ### The B form and `LAP` -/

section

variable {f : BFields} {i : Instr}

theorem decBR_eq_ok (hf : f.InRange) {mk} : decBR mk f = .ok i ↔ ∃ s1 s2 off, mk s1 s2 off = i ∧ f.operands = encBR s1 s2 off := by
  have hoff := hf.off
  simp only [decBR, encBR, BFields.operands, BFields.mk.injEq, bind_eq_ok, reserved0_eq_ok, finOf_eq_ok]
  grind

theorem decJAL_eq_ok (hf : f.InRange) {mk} : decJAL mk f = .ok i ↔ ∃ d off, mk d off = i ∧ f.operands = encJAL d off := by
  have hoff := hf.off
  simp only [decJAL, encJAL, BFields.operands, BFields.mk.injEq, bind_eq_ok, reserved0_eq_ok, finOf_eq_ok]
  grind

theorem decJALR_eq_ok (hf : f.InRange) {mk} : decJALR mk f = .ok i ↔ ∃ d s1 off, mk d s1 off = i ∧ f.operands = encJALR d s1 off := by
  have hoff := hf.off
  simp only [decJALR, encJALR, BFields.operands, BFields.mk.injEq, bind_eq_ok, reserved0_eq_ok, finOf_eq_ok]
  grind

theorem decBMSK_eq_ok (hf : f.InRange) {mk} : decBMSK mk f = .ok i ↔ ∃ m off, mk m off = i ∧ f.operands = encBMSK m off := by
  have hoff := hf.off
  simp only [decBMSK, encBMSK, BFields.operands, BFields.mk.injEq, bind_eq_ok, reserved0_eq_ok, finOf_eq_ok]
  grind

theorem decFETCH_eq_ok (hf : f.InRange) {mk} : decFETCH mk f = .ok i ↔ ∃ sel off, mk sel off = i ∧ f.operands = encFETCH sel off := by
  have hoff := hf.off
  simp only [decFETCH, encFETCH, BFields.operands, BFields.mk.injEq, bind_eq_ok, reserved0_eq_ok, selOf_eq_ok]
  grind

theorem decTSTOP_eq_ok {mk} : decTSTOP mk f = .ok i ↔ ∃ sel, mk sel = i ∧ f.operands = encTSTOP sel := by
  simp only [decTSTOP, encTSTOP, BFields.operands, BFields.mk.injEq, bind_eq_ok, reserved0_eq_ok, selOf_eq_ok]
  grind

theorem decVLOOP_eq_ok {mk} : decVLOOP mk f = .ok i ↔ ∃ n, mk n = i ∧ f.operands = encVLOOP n := by
  simp only [decVLOOP, encVLOOP, BFields.operands, BFields.mk.injEq, bind_eq_ok, reserved0_eq_ok, finOf_eq_ok]
  grind

theorem decVLOOPS_eq_ok {mk} : decVLOOPS mk f = .ok i ↔ ∃ n trip stages, mk n trip stages = i ∧ f.operands = encVLOOPS n trip stages := by
  simp only [decVLOOPS, encVLOOPS, BFields.operands, BFields.mk.injEq, bind_eq_ok, reserved0_eq_ok, finOf_eq_ok]
  grind

end

/-- A pointer slot, with its enable bit (R159). -/
theorem slotOf_eq_ok {pm n : Nat} {p : Option LapPtr} : slotOf pm n = .ok p ↔ pm % 2 = bit p.isSome ∧ n = slotCode p := by
  unfold slotOf
  split
  next hpm =>
    cases p with
    | none => simp [bit, hpm]
    | some p =>
      obtain ⟨r, s⟩ := p
      simp [slotCode, bit, hpm]
      omega
  next hpm =>
    have hpm : pm % 2 = 0 := by omega
    cases p <;> simp [slotCode, bit, hpm]

theorem decLAP_eq_ok {f : LapFields} (hf : f.InRange) {i : Instr} :
    decLAP f = .ok i ↔ ∃ n ty p0 p1 p2 p3 off, .lap n ty p0 p1 p2 p3 off = i ∧ f = encLAP n ty p0 p1 p2 p3 off := by
  have hoff := hf.off
  have hpm (b0 b1 b2 b3 : Bool) : f.pm % 2 = bit b0 ∧ f.pm / 2 % 2 = bit b1 ∧ f.pm / 4 % 2 = bit b2 ∧ f.pm / 8 % 2 = bit b3 ↔
      f.pm = bit b0 + 2 * bit b1 + 4 * bit b2 + 8 * bit b3 := by
    have := hf.pm
    have := bit_le b0
    have := bit_le b1
    have := bit_le b2
    have := bit_le b3
    omega
  obtain ⟨n, ty, pm, p0, p1, p2, p3, off⟩ := f
  simp only [decLAP, encLAP, slotOf_eq_ok, bind_eq_ok, finOf_eq_ok, named_eq_ok, ElemType.ofCode_eq_some, LapFields.mk.injEq, ← hpm]
  constructor
  · rintro ⟨n, hn, ty, hty, p0, ⟨hb0, h0⟩, p1, ⟨hb1, h1⟩, p2, ⟨hb2, h2⟩, p3, ⟨hb3, h3⟩, ⟨⟩⟩
    exact ⟨n, ty, p0, p1, p2, p3, _, rfl, hn, hty, ⟨hb0, hb1, hb2, hb3⟩, h0, h1, h2, h3,
      ((BitVec.toNat_ofNat ..).trans (Nat.mod_eq_of_lt hoff)).symm⟩
  · rintro ⟨n, ty, p0, p1, p2, p3, off, rfl, hn, hty, ⟨hb0, hb1, hb2, hb3⟩, h0, h1, h2, h3, rfl⟩
    exact ⟨n, hn, ty, hty, p0, ⟨hb0, h0⟩, p1, ⟨hb1, h1⟩, p2, ⟨hb2, h2⟩, p3, ⟨hb3, h3⟩, by simp⟩

end Sys2Proof
end

section
/-! PROOFS. The shapes of the V form (R164, R165): the decoder of a shape answers just the instructions whose operands its encoder writes. -/
namespace Sys2Proof

/-! ### Arithmetic and compares -/

section

variable {f : VFields} (hf : f.InRange) {i : Instr}
include hf
open VFields

theorem decV2_eq_ok {mk} : decV2 mk f = .ok i ↔ ∃ p d s1 s2, mk p d s1 s2 = i ∧ f.operands = encV2 p d s1 s2 := by
  simp only [decV2, encV2, operands_eq_mkV hf, bind_eq_ok, predOf_eq_ok hf, no3_eq_ok, noImm_eq_ok, dst_eq_ok, src1_eq_ok hf, src2_eq_ok hf,
    VDst.qBit_le, VSrc.qBit_le, Nat.zero_le]
  grind

theorem decV3_eq_ok {mk} : decV3 mk f = .ok i ↔ ∃ p d s1 s2 s3, mk p d s1 s2 s3 = i ∧ f.operands = encV3 p d s1 s2 s3 := by
  simp only [decV3, encV3, operands_eq_mkV hf, bind_eq_ok, predOf_eq_ok hf, noImm_eq_ok, dst_eq_ok, src1_eq_ok hf, src2_eq_ok hf, src3_eq_ok hf,
    VDst.qBit_le, VSrc.qBit_le]
  grind

theorem decV1_eq_ok {mk} : decV1 mk f = .ok i ↔ ∃ p d s1, mk p d s1 = i ∧ f.operands = encV1 p d s1 := by
  simp only [decV1, encV1, operands_eq_mkV hf, bind_eq_ok, predOf_eq_ok hf, no2_eq_ok, no3_eq_ok, noImm_eq_ok, dst_eq_ok, src1_eq_ok hf, VDst.qBit_le,
    VSrc.qBit_le, Nat.zero_le]
  grind

theorem decVCMP_eq_ok {mk} : decVCMP mk f = .ok i ↔ ∃ p m s1 s2, mk p m s1 s2 = i ∧ f.operands = encVCMP p m s1 s2 := by
  simp only [decVCMP, encVCMP, operands_eq_mkV hf, bind_eq_ok, predOf_eq_ok hf, no3_eq_ok, noImm_eq_ok, plainD_eq_ok, src1_eq_ok hf, src2_eq_ok hf,
    VSrc.qBit_le, Nat.zero_le]
  grind

theorem decV2S_eq_ok {mk} : decV2S mk f = .ok i ↔ ∃ p d s1 c, mk p d s1 c = i ∧ f.operands = encV2S p d s1 c := by
  simp only [decV2S, encV2S, operands_eq_mkV hf, bind_eq_ok, predOf_eq_ok hf, no3_eq_ok, noImm_eq_ok, dst_eq_ok, plain2_eq_ok, src1_eq_ok hf,
    VDst.qBit_le, VSrc.qBit_le, Nat.zero_le]
  grind

theorem decV3S_eq_ok {mk} : decV3S mk f = .ok i ↔ ∃ p d s1 c s3, mk p d s1 c s3 = i ∧ f.operands = encV3S p d s1 c s3 := by
  simp only [decV3S, encV3S, operands_eq_mkV hf, bind_eq_ok, predOf_eq_ok hf, noImm_eq_ok, dst_eq_ok, plain2_eq_ok, src1_eq_ok hf, src3_eq_ok hf,
    VDst.qBit_le, VSrc.qBit_le, Nat.zero_le]
  grind

theorem decVCMPS_eq_ok {mk} : decVCMPS mk f = .ok i ↔ ∃ p m s1 c, mk p m s1 c = i ∧ f.operands = encVCMPS p m s1 c := by
  simp only [decVCMPS, encVCMPS, operands_eq_mkV hf, bind_eq_ok, predOf_eq_ok hf, no3_eq_ok, noImm_eq_ok, plainD_eq_ok, plain2_eq_ok, src1_eq_ok hf,
    VSrc.qBit_le, Nat.zero_le]
  grind

theorem decV2I_eq_ok {mk} : decV2I mk f = .ok i ↔ ∃ p d s1 imm, mk p d s1 imm = i ∧ f.operands = encV2I p d s1 imm := by
  have himm := hf.imm
  simp only [decV2I, encV2I, operands_eq_mkV hf, bind_eq_ok, predOf_eq_ok hf, no2_eq_ok, no3_eq_ok, dst_eq_ok, src1_eq_ok hf, VDst.qBit_le,
    VSrc.qBit_le, Nat.zero_le]
  grind

theorem decVCMPI_eq_ok {mk} : decVCMPI mk f = .ok i ↔ ∃ p m s1 imm, mk p m s1 imm = i ∧ f.operands = encVCMPI p m s1 imm := by
  have himm := hf.imm
  simp only [decVCMPI, encVCMPI, operands_eq_mkV hf, bind_eq_ok, predOf_eq_ok hf, no2_eq_ok, no3_eq_ok, plainD_eq_ok, src1_eq_ok hf, VSrc.qBit_le,
    Nat.zero_le]
  grind

end

/-! ### Tags, conversion, the butterfly, mask instructions -/

section

variable {f : VFields} (hf : f.InRange) {i : Instr}
include hf
open VFields

theorem decVTAG_eq_ok {mk} : decVTAG mk f = .ok i ↔ ∃ j v ty, mk j v ty = i ∧ f.operands = encVTAG j v ty := by
  simp only [decVTAG, encVTAG, operands_eq_mkV hf, bind_eq_ok, no1_eq_ok, no2_eq_ok, no3_eq_ok, noSel_eq_ok, plainD_eq_ok, named_eq_ok,
    ElemType.ofCode_eq_some, ← beq_one_eq hf.c, justC, selCode_none, bit_false, Nat.zero_le]
  grind

theorem decVSPLAT_eq_ok {mk} : decVSPLAT mk f = .ok i ↔ ∃ p d c, mk p d c = i ∧ f.operands = encVSPLAT p d c := by
  simp only [decVSPLAT, encVSPLAT, operands_eq_mkV hf, bind_eq_ok, predOf_eq_ok hf, no2_eq_ok, no3_eq_ok, noImm_eq_ok, dst_eq_ok, plain1_eq_ok,
    VDst.qBit_le, Nat.zero_le]
  grind

theorem decVPUSH_eq_ok {mk} : decVPUSH mk f = .ok i ↔ ∃ p q s1, mk p q s1 = i ∧ f.operands = encVPUSH p q s1 := by
  simp only [decVPUSH, encVPUSH, operands_eq_mkV hf, bind_eq_ok, ite_eq_ok, predOf_eq_ok hf, no2_eq_ok, no3_eq_ok, noImm_eq_ok, src1_eq_ok hf,
    finOf_eq_ok, VSrc.qBit_le, Nat.zero_le, le_refl]
  grind

theorem decVCVT_eq_ok {mk} : decVCVT mk f = .ok i ↔ ∃ p d s1 ty, mk p d s1 ty = i ∧ f.operands = encVCVT p d s1 ty := by
  simp only [decVCVT, encVCVT, operands_eq_mkV hf, bind_eq_ok, predOf_eq_ok hf, no2_eq_ok, no3_eq_ok, dst_eq_ok, src1_eq_ok hf, named_eq_ok,
    ElemType.ofCode_eq_some, VDst.qBit_le, VSrc.qBit_le, Nat.zero_le]
  grind

theorem decVQCVT_eq_ok {mk} : decVQCVT mk f = .ok i ↔ ∃ p d s1 c s3 k, mk p d s1 c s3 k = i ∧ f.operands = encVQCVT p d s1 c s3 k := by
  simp only [decVQCVT, encVQCVT, operands_eq_mkV hf, bind_eq_ok, predOf_eq_ok hf, dst_eq_ok, plain2_eq_ok, plain3_eq_ok, src1_eq_ok hf, finOf_eq_ok,
    VDst.qBit_le, VSrc.qBit_le, Nat.zero_le]
  grind

theorem decVDQ_eq_ok {mk} : decVDQ mk f = .ok i ↔ ∃ p d s1 c s3 ty, mk p d s1 c s3 ty = i ∧ f.operands = encVDQ p d s1 c s3 ty := by
  simp only [decVDQ, encVDQ, operands_eq_mkV hf, bind_eq_ok, predOf_eq_ok hf, dst_eq_ok, plain2_eq_ok, src1_eq_ok hf, src3_eq_ok hf, named_eq_ok,
    ElemType.ofCode_eq_some, VDst.qBit_le, VSrc.qBit_le, Nat.zero_le]
  grind

theorem decVBFLY_eq_ok {mk} : decVBFLY mk f = .ok i ↔ ∃ p d s1 dist, mk p d s1 dist = i ∧ f.operands = encVBFLY p d s1 dist := by
  simp only [decVBFLY, encVBFLY, operands_eq_mkV hf, bind_eq_ok, predOf_eq_ok hf, no2_eq_ok, no3_eq_ok, dst_eq_ok, src1_eq_ok hf, finOf_eq_ok,
    VDst.qBit_le, VSrc.qBit_le, Nat.zero_le]
  grind

theorem decVBFLYF_eq_ok {mk} : decVBFLYF mk f = .ok i ↔ ∃ j s1 dist, mk j s1 dist = i ∧ f.operands = encVBFLYF j s1 dist := by
  simp only [decVBFLYF, encVBFLYF, operands_eq_mkV hf, bind_eq_ok, noD_eq_ok, no2_eq_ok, no3_eq_ok, noSel_eq_ok, src1_eq_ok hf, finOf_eq_ok, ←
    beq_one_eq hf.c, justC, selCode_none, bit_false, VSrc.qBit_le, Nat.zero_le]
  grind

theorem decVRAND_eq_ok {mk} : decVRAND mk f = .ok i ↔ ∃ p d, mk p d = i ∧ f.operands = encVRAND p d := by
  simp only [decVRAND, encVRAND, operands_eq_mkV hf, bind_eq_ok, predOf_eq_ok hf, no1_eq_ok, no2_eq_ok, no3_eq_ok, noImm_eq_ok, dst_eq_ok,
    VDst.qBit_le, Nat.zero_le]
  grind

theorem decVUTF8_eq_ok {mk} : decVUTF8 mk f = .ok i ↔ ∃ j d s1 s2 h2, mk j d s1 s2 h2 = i ∧ f.operands = encVUTF8 j d s1 s2 h2 := by
  simp only [decVUTF8, encVUTF8, operands_eq_mkV hf, bind_eq_ok, no3_eq_ok, noSel_eq_ok, noImm_eq_ok, dst_eq_ok, src1_eq_ok hf, reserved0_eq_ok,
    finOf_eq_ok, ← beq_one_eq hf.c, ← beq_one_eq hf.h2, justC, selCode_none, bit_false, VDst.qBit_le, VSrc.qBit_le, Nat.zero_le]
  grind

theorem decMM_eq_ok {mk} : decMM mk f = .ok i ↔ ∃ j m a b, mk j m a b = i ∧ f.operands = encMM j m a b := by
  simp only [decMM, encMM, operands_eq_mkV hf, bind_eq_ok, no3_eq_ok, noSel_eq_ok, noImm_eq_ok, plainD_eq_ok, plain1_eq_ok, plain2_eq_ok,
    ← beq_one_eq
    hf.c, justC, selCode_none, bit_false, Nat.zero_le]
  grind

theorem decMNOT_eq_ok {mk} : decMNOT mk f = .ok i ↔ ∃ j m a, mk j m a = i ∧ f.operands = encMNOT j m a := by
  simp only [decMNOT, encMNOT, operands_eq_mkV hf, bind_eq_ok, no2_eq_ok, no3_eq_ok, noSel_eq_ok, noImm_eq_ok, plainD_eq_ok, plain1_eq_ok, ←
    beq_one_eq hf.c, justC, selCode_none, bit_false, Nat.zero_le]
  grind

theorem decMSET_eq_ok {mk} : decMSET mk f = .ok i ↔ ∃ j m b, mk j m b = i ∧ f.operands = encMSET j m b := by
  have hbit (b : Bool) : f.imm / 2 = 0 ∧ (f.imm % 2 == 1) = b ↔ f.imm = bit b := by
    have := bit_le b
    rw [beq_one_eq (Nat.mod_lt _ (by decide))]
    omega
  simp only [decMSET, encMSET, operands_eq_mkV hf, bind_eq_ok, no1_eq_ok, no2_eq_ok, no3_eq_ok, noSel_eq_ok, plainD_eq_ok, reserved0_eq_ok, ←
    beq_one_eq hf.c, justC, selCode_none, bit_false, Nat.zero_le, ← hbit]
  grind

end

/-! ### Slides, gathers, single elements, reductions and scans -/

section

variable {f : VFields} (hf : f.InRange) {i : Instr}
include hf
open VFields

theorem decSLIDE_eq_ok {mk} : decSLIDE mk f = .ok i ↔ ∃ p d s1 amt fill, mk p d s1 amt fill = i ∧ f.operands = encSLIDE p d s1 amt fill := by
  have himm (fill : Fill) : f.imm % 1024 = 0 ∧ f.imm / 1024 = fill.imm / 1024 ↔ f.imm = fill.imm := by
    cases fill <;> simp only [Fill.imm] <;> omega
  simp only [decSLIDE, encSLIDE, operands_eq_mkV hf, bind_eq_ok, predOf_eq_ok hf, dst_eq_ok, plain2_eq_ok, src1_eq_ok hf, fillOf_eq_ok hf,
    reserved0_eq_ok, VDst.qBit_le, VSrc.qBit_le, Nat.zero_le, ← himm]
  grind

theorem decSLIDEI_eq_ok {mk} : decSLIDEI mk f = .ok i ↔ ∃ p d s1 amt fill, mk p d s1 amt fill = i ∧ f.operands = encSLIDEI p d s1 amt fill := by
  have himm (fill : Fill) (amt : Fin 1024) : f.imm % 1024 = amt.val ∧ f.imm / 1024 = fill.imm / 1024 ↔ f.imm = fill.imm + amt.val := by
    cases fill <;> simp only [Fill.imm] <;> omega
  simp only [decSLIDEI, encSLIDEI, operands_eq_mkV hf, bind_eq_ok, predOf_eq_ok hf, no2_eq_ok, dst_eq_ok, src1_eq_ok hf, fillOf_eq_ok hf, finOf_eq_ok,
    VDst.qBit_le, VSrc.qBit_le, Nat.zero_le, ← himm]
  grind

theorem decVIOTA_eq_ok {mk} : decVIOTA mk f = .ok i ↔ ∃ p d m, mk p d m = i ∧ f.operands = encVIOTA p d m := by
  simp only [decVIOTA, encVIOTA, operands_eq_mkV hf, bind_eq_ok, predOf_eq_ok hf, no2_eq_ok, no3_eq_ok, noImm_eq_ok, dst_eq_ok, plain1_eq_ok,
    VDst.qBit_le, Nat.zero_le]
  grind

theorem decVEXTR_eq_ok {mk} : decVEXTR mk f = .ok i ↔ ∃ j d s1 idx, mk j d s1 idx = i ∧ f.operands = encVEXTR j d s1 idx := by
  simp only [decVEXTR, encVEXTR, operands_eq_mkV hf, bind_eq_ok, no3_eq_ok, noSel_eq_ok, noImm_eq_ok, plainD_eq_ok, plain2_eq_ok, src1_eq_ok hf, ←
    beq_one_eq hf.c, justC, selCode_none, bit_false, VSrc.qBit_le, Nat.zero_le]
  grind

theorem decVEXTRI_eq_ok {mk} : decVEXTRI mk f = .ok i ↔ ∃ j d s1 idx, mk j d s1 idx = i ∧ f.operands = encVEXTRI j d s1 idx := by
  have himm := hf.imm
  simp only [decVEXTRI, encVEXTRI, operands_eq_mkV hf, bind_eq_ok, no2_eq_ok, no3_eq_ok, noSel_eq_ok, plainD_eq_ok, src1_eq_ok hf,
    ← beq_one_eq hf.c,
    justC, selCode_none, bit_false, VSrc.qBit_le, Nat.zero_le]
  grind

theorem decVINS_eq_ok {mk} : decVINS mk f = .ok i ↔ ∃ j d c idx, mk j d c idx = i ∧ f.operands = encVINS j d c idx := by
  simp only [decVINS, encVINS, operands_eq_mkV hf, bind_eq_ok, no3_eq_ok, noSel_eq_ok, noImm_eq_ok, dst_eq_ok, plain1_eq_ok, plain2_eq_ok, ←
    beq_one_eq hf.c, justC, selCode_none, bit_false, VDst.qBit_le, Nat.zero_le]
  grind

theorem decVINSI_eq_ok {mk} : decVINSI mk f = .ok i ↔ ∃ j d c idx, mk j d c idx = i ∧ f.operands = encVINSI j d c idx := by
  have himm := hf.imm
  simp only [decVINSI, encVINSI, operands_eq_mkV hf, bind_eq_ok, no2_eq_ok, no3_eq_ok, noSel_eq_ok, dst_eq_ok, plain1_eq_ok,
    ← beq_one_eq hf.c, justC,
    selCode_none, bit_false, VDst.qBit_le, Nat.zero_le]
  grind

theorem decVRED_eq_ok {mk} : decVRED mk f = .ok i ↔ ∃ j sel d s1 acc, mk j sel d s1 acc = i ∧ f.operands = encVRED j sel d s1 acc := by
  simp only [decVRED, encVRED, operands_eq_mkV hf, bind_eq_ok, no3_eq_ok, noImm_eq_ok, plainD_eq_ok, plain2_eq_ok, src1_eq_ok hf, reserved0_eq_ok,
    selOf_eq_ok, ← beq_one_eq hf.c, bit_false, VSrc.qBit_le, Nat.zero_le]
  grind

theorem decVSCAN_eq_ok {mk} : decVSCAN mk f = .ok i ↔ ∃ p d s1 cin cout, mk p d s1 cin cout = i ∧ f.operands = encVSCAN p d s1 cin cout := by
  simp only [decVSCAN, encVSCAN, operands_eq_mkV hf, bind_eq_ok, predOf_eq_ok hf, noImm_eq_ok, dst_eq_ok, plain2_eq_ok, plain3_eq_ok, src1_eq_ok hf,
    VDst.qBit_le, VSrc.qBit_le, Nat.zero_le]
  grind

theorem decVARG_eq_ok {mk} : decVARG mk f = .ok i ↔ ∃ j sel d s1, mk j sel d s1 = i ∧ f.operands = encVARG j sel d s1 := by
  simp only [decVARG, encVARG, operands_eq_mkV hf, bind_eq_ok, no2_eq_ok, no3_eq_ok, noImm_eq_ok, plainD_eq_ok, src1_eq_ok hf, reserved0_eq_ok,
    selOf_eq_ok, ← beq_one_eq hf.c, bit_false, VSrc.qBit_le, Nat.zero_le]
  grind

theorem decMCNT_eq_ok {mk} : decMCNT mk f = .ok i ↔ ∃ j sel d m, mk j sel d m = i ∧ f.operands = encMCNT j sel d m := by
  simp only [decMCNT, encMCNT, operands_eq_mkV hf, bind_eq_ok, no2_eq_ok, no3_eq_ok, noImm_eq_ok, plainD_eq_ok, plain1_eq_ok, reserved0_eq_ok,
    selOf_eq_ok, ← beq_one_eq hf.c, bit_false, Nat.zero_le]
  grind

end

/-! ### Forests -/

section

variable {f : VFields} (hf : f.InRange) {i : Instr}
include hf
open VFields

theorem decKSET_eq_ok {mk} : decKSET mk f = .ok i ↔ ∃ p k s1, mk p k s1 = i ∧ f.operands = encKSET p k s1 := by
  simp only [decKSET, encKSET, operands_eq_mkV hf, bind_eq_ok, predOf_eq_ok hf, no2_eq_ok, no3_eq_ok, noImm_eq_ok, plainD_eq_ok, src1_eq_ok hf,
    VSrc.qBit_le, Nat.zero_le]
  grind

theorem decKGET_eq_ok {mk} : decKGET mk f = .ok i ↔ ∃ p d k, mk p d k = i ∧ f.operands = encKGET p d k := by
  simp only [decKGET, encKGET, operands_eq_mkV hf, bind_eq_ok, predOf_eq_ok hf, no2_eq_ok, no3_eq_ok, noImm_eq_ok, dst_eq_ok, plain1_eq_ok,
    VDst.qBit_le, Nat.zero_le]
  grind

theorem decKVAL_eq_ok {mk} : decKVAL mk f = .ok i ↔ ∃ p d s1 k fm, mk p d s1 k fm = i ∧ f.operands = encKVAL p d s1 k fm := by
  simp only [decKVAL, encKVAL, operands_eq_mkV hf, bind_eq_ok, predOf_eq_ok hf, no3_eq_ok, dst_eq_ok, plain2_eq_ok, src1_eq_ok hf, forestOf_eq_ok hf,
    VDst.qBit_le, VSrc.qBit_le, Nat.zero_le]
  grind

theorem decKLNK_eq_ok {mk} : decKLNK mk f = .ok i ↔ ∃ p d k fm, mk p d k fm = i ∧ f.operands = encKLNK p d k fm := by
  simp only [decKLNK, encKLNK, operands_eq_mkV hf, bind_eq_ok, predOf_eq_ok hf, no1_eq_ok, no3_eq_ok, dst_eq_ok, plain2_eq_ok, forestOf_eq_ok hf,
    VDst.qBit_le, Nat.zero_le]
  grind

theorem decKANC_eq_ok {mk} : decKANC mk f = .ok i ↔ ∃ p d c k fm, mk p d c k fm = i ∧ f.operands = encKANC p d c k fm := by
  simp only [decKANC, encKANC, operands_eq_mkV hf, bind_eq_ok, predOf_eq_ok hf, no3_eq_ok, dst_eq_ok, plain1_eq_ok, plain2_eq_ok, forestOf_eq_ok hf,
    VDst.qBit_le, Nat.zero_le]
  grind

theorem decKANCIS_eq_ok {mk} : decKANCIS mk f = .ok i ↔ ∃ p m s1 k fm, mk p m s1 k fm = i ∧ f.operands = encKANCIS p m s1 k fm := by
  simp only [decKANCIS, encKANCIS, operands_eq_mkV hf, bind_eq_ok, predOf_eq_ok hf, no3_eq_ok, plainD_eq_ok, plain2_eq_ok, src1_eq_ok hf,
    forestOf_eq_ok hf, VSrc.qBit_le, Nat.zero_le]
  grind

theorem decKCON_eq_ok {mk} : decKCON mk f = .ok i ↔ ∃ p kd k fm, mk p kd k fm = i ∧ f.operands = encKCON p kd k fm := by
  simp only [decKCON, encKCON, operands_eq_mkV hf, bind_eq_ok, predOf_eq_ok hf, no1_eq_ok, no3_eq_ok, plainD_eq_ok, plain2_eq_ok, forestOf_eq_ok hf,
    Nat.zero_le]
  grind

theorem decKCHK_eq_ok {mk} : decKCHK mk f = .ok i ↔ ∃ p m k, mk p m k = i ∧ f.operands = encKCHK p m k := by
  simp only [decKCHK, encKCHK, operands_eq_mkV hf, bind_eq_ok, predOf_eq_ok hf, no1_eq_ok, no3_eq_ok, noImm_eq_ok, plainD_eq_ok, plain2_eq_ok,
    Nat.zero_le]
  grind

end

/-! ### Vector memory (R165) -/

section

variable {f : VFields} {i : Instr}
open VFields

theorem decVLD_eq_ok (hf : f.InRange) {mk} :
    decVLD mk f = .ok i ↔ ∃ sel q base off, mk sel q base off = i ∧ f.operands = encVLD sel q base off := by
  have himm := hf.imm
  simp only [decVLD, encVLD, pacer_eq_ok, operands_eq_mkP, bind_eq_ok, reserved0_eq_ok, finOf_eq_ok]
  grind

theorem decVST_eq_ok (hf : f.InRange) {mk} :
    decVST mk f = .ok i ↔ ∃ sel q base off, mk sel q base off = i ∧ f.operands = encVST sel q base off := by
  have himm := hf.imm
  simp only [decVST, encVST, pacer_eq_ok, operands_eq_mkP, bind_eq_ok, reserved0_eq_ok, finOf_eq_ok]
  grind

theorem decIMGL_eq_ok (hf : f.InRange) {mk} : decIMGL mk f = .ok i ↔ ∃ q base off, mk q base off = i ∧ f.operands = encIMGL q base off := by
  have himm := hf.imm
  simp only [decIMGL, encIMGL, pacer_eq_ok, operands_eq_mkP, bind_eq_ok, reserved0_eq_ok, finOf_eq_ok]
  grind [selCode_none]

theorem decIMGS_eq_ok (hf : f.InRange) {mk} : decIMGS mk f = .ok i ↔ ∃ q base off, mk q base off = i ∧ f.operands = encIMGS q base off := by
  have himm := hf.imm
  simp only [decIMGS, encIMGS, pacer_eq_ok, operands_eq_mkP, bind_eq_ok, reserved0_eq_ok, finOf_eq_ok]
  grind [selCode_none]

theorem decVLDFF_eq_ok (hf : f.InRange) {mk} :
    decVLDFF mk f = .ok i ↔ ∃ sel q base m off, mk sel q base m off = i ∧ f.operands = encVLDFF sel q base m off := by
  have himm := hf.imm
  simp only [decVLDFF, encVLDFF, pacer_eq_ok, operands_eq_mkP, bind_eq_ok, reserved0_eq_ok, finOf_eq_ok]
  grind

theorem decVLDS_eq_ok {mk} : decVLDS mk f = .ok i ↔ ∃ sel q base stride, mk sel q base stride = i ∧ f.operands = encVLDS sel q base stride := by
  simp only [decVLDS, encVLDS, pacer_eq_ok, operands_eq_mkP, bind_eq_ok, reserved0_eq_ok, finOf_eq_ok]
  grind

theorem decVSTS_eq_ok {mk} : decVSTS mk f = .ok i ↔ ∃ sel q base stride, mk sel q base stride = i ∧ f.operands = encVSTS sel q base stride := by
  simp only [decVSTS, encVSTS, pacer_eq_ok, operands_eq_mkP, bind_eq_ok, reserved0_eq_ok, finOf_eq_ok]
  grind

theorem decVLDX_eq_ok {mk} :
    decVLDX mk f = .ok i ↔ ∃ sel q base list sc, mk sel q base list sc = i ∧ f.operands = encVLDX sel q base list sc := by
  simp only [decVLDX, encVLDX, pacer_eq_ok, operands_eq_mkP, bind_eq_ok, reserved0_eq_ok, finOf_eq_ok]
  grind

theorem decVSTX_eq_ok {mk} :
    decVSTX mk f = .ok i ↔ ∃ sel q base list sc, mk sel q base list sc = i ∧ f.operands = encVSTX sel q base list sc := by
  simp only [decVSTX, encVSTX, pacer_eq_ok, operands_eq_mkP, bind_eq_ok, reserved0_eq_ok, finOf_eq_ok]
  grind

/-- The queue that `VAMO` returns to, with its enable bit (R165). -/
theorem vamoReturn_eq_ok {α : Type} {en n : Nat} {g : Option (Fin 4) → Except Reject α} {a : α} :
    (if en % 2 = 1 then (finOf 4 n).map some >>= g else (reserved0 n).map (fun _ => none) >>= g) = .ok a ↔
      ∃ ret, (en % 2 = bit ret.isSome ∧ n = retField ret) ∧ g ret = .ok a := by
  split
  next hen => simp [Option.exists, retField, bit, hen]
  next hen =>
    have hen : en % 2 = 0 := by omega
    simp [Option.exists, retField, bit, hen]

theorem decVAMO_eq_ok (hf : f.InRange) {mk} :
    decVAMO mk f = .ok i ↔ ∃ sel q base list sc op ret, mk sel q base list sc op ret = i ∧
      f.operands = encVAMO sel q base list sc op ret := by
  have himm (sc : Fin 4) (op : VAmoOp) (ret : Option (Fin 4)) : f.imm / 64 % 512 = 0 ∧ f.imm / 32768 % 2 = bit ret.isSome ∧ f.imm % 4 = sc.val ∧
      f.imm / 4 % 16 = op.code ↔ f.imm = sc.val + 4 * op.code + 32768 * bit ret.isSome := by
    have := hf.imm
    have := op.code_lt le_rfl
    have := bit_le ret.isSome
    omega
  simp only [decVAMO, encVAMO, pacer_eq_ok, operands_eq_mkP, bind_eq_ok, vamoReturn_eq_ok, reserved0_eq_ok,
    finOf_eq_ok, named_eq_ok, VAmoOp.ofCode_eq_some, ← himm]
  grind

end

end Sys2Proof
end

section
/-! PROOFS. The E, M and Y forms (R160 to R162): the decoder of a shape answers just the instructions whose operands its encoder writes. -/
namespace Sys2Proof

/-! ### The E form -/

section

variable {f : EFields} {i : Instr}

theorem decCPY_eq_ok {mk} : decCPY mk f = .ok i ↔ ∃ tag dst src n, mk tag dst src n = i ∧ f.operands = encCPY tag dst src n := by
  simp only [decCPY, encCPY, EFields.operands, EFields.mk.injEq, bind_eq_ok, reserved0_eq_ok, finOf_eq_ok]
  grind

theorem decCPY2_eq_ok (hf : f.InRange) {mk} :
    decCPY2 mk f = .ok i ↔ ∃ tag dst src rows rowBytes spitch dpitch sw, mk tag dst src rows rowBytes spitch dpitch sw = i ∧
      f.operands = encCPY2 tag dst src rows rowBytes spitch dpitch sw := by
  simp only [decCPY2, encCPY2, EFields.operands, EFields.mk.injEq, bind_eq_ok, reserved0_eq_ok, finOf_eq_ok, ← beq_one_eq hf.sw]
  constructor
  · rintro ⟨-, h0, tag, htag, e1, h1, e2, h2, e3, h3, e4, h4, e5, h5, e6, h6, ⟨⟩⟩
    exact ⟨tag, e1, e2, e3, e4, e5, e6, _, rfl, htag, h1, h2, h3, h4, h5, h6, by omega, by omega, trivial, rfl, by omega⟩
  · rintro ⟨tag, e1, e2, e3, e4, e5, e6, _, rfl, htag, h1, h2, h3, h4, h5, h6, h7, h8, -, rfl, hrest⟩
    exact ⟨(), by omega, tag, htag, e1, h1, e2, h2, e3, h3, e4, h4, e5, h5, e6, h6, rfl⟩

theorem decCPYX_eq_ok (hf : f.InRange) {mk} :
    decCPYX mk f = .ok i ↔ ∃ tag dst dpitch base tpitch rowBytes list count limit sw,
      mk tag dst dpitch base tpitch rowBytes list count limit sw = i ∧
      f.operands = encCPYX tag dst dpitch base tpitch rowBytes list count limit sw := by
  simp only [decCPYX, encCPYX, EFields.operands, EFields.mk.injEq, bind_eq_ok, reserved0_eq_ok, finOf_eq_ok, ← beq_one_eq hf.sw]
  constructor
  · rintro ⟨-, hrest, tag, htag, e1, h1, e2, h2, e3, h3, e4, h4, e5, h5, e6, h6, e7, h7, e8, h8, ⟨⟩⟩
    exact ⟨tag, e1, e2, e3, e4, e5, e6, e7, e8, _, rfl, htag, h1, h2, h3, h4, h5, h6, h7, h8, trivial, rfl, hrest⟩
  · rintro ⟨tag, e1, e2, e3, e4, e5, e6, e7, e8, _, rfl, htag, h1, h2, h3, h4, h5, h6, h7, h8, -, rfl, hrest⟩
    exact ⟨(), hrest, tag, htag, e1, h1, e2, h2, e3, h3, e4, h4, e5, h5, e6, h6, e7, h7, e8, h8, rfl⟩

theorem decBLK_eq_ok {mk} : decBLK mk f = .ok i ↔ ∃ tag blk, mk tag blk = i ∧ f.operands = encBLK tag blk := by
  simp only [decBLK, encBLK, EFields.operands, EFields.mk.injEq, bind_eq_ok, reserved0_eq_ok, finOf_eq_ok]
  grind

theorem decE2_eq_ok {mk} : decE2 mk f = .ok i ↔ ∃ e1 e2, mk e1 e2 = i ∧ f.operands = encE2 e1 e2 := by
  simp only [decE2, encE2, EFields.operands, EFields.mk.injEq, bind_eq_ok, reserved0_eq_ok, finOf_eq_ok]
  grind

theorem decE1_eq_ok {mk} : decE1 mk f = .ok i ↔ ∃ e1, mk e1 = i ∧ f.operands = encE1 e1 := by
  simp only [decE1, encE1, EFields.operands, EFields.mk.injEq, bind_eq_ok, reserved0_eq_ok, finOf_eq_ok]
  grind

theorem decQF_eq_ok {mk} : decQF mk f = .ok i ↔ ∃ qmask, mk qmask = i ∧ f.operands = encQF qmask := by
  simp only [decQF, encQF, EFields.operands, EFields.mk.injEq, bind_eq_ok, reserved0_eq_ok, finOf_eq_ok]
  grind

end

/-! ### The M form -/

section

variable {f : MFields} {i : Instr}

theorem decC3_eq_ok {mk} : decC3 mk f = .ok i ↔ ∃ c1 c2 c3, mk c1 c2 c3 = i ∧ f.operands = encC3 c1 c2 c3 := by
  simp only [decC3, encC3, MFields.operands, MFields.mk.injEq, bind_eq_ok, reserved0_eq_ok, finOf_eq_ok]
  grind

theorem decM0_eq_ok {mk} : decM0 mk f = .ok i ↔ mk = i ∧ f.operands = encM0 := by
  simp only [decM0, encM0, MFields.operands, MFields.mk.injEq, bind_eq_ok, reserved0_eq_ok]
  grind

theorem decMT_eq_ok {mk} : decMT mk f = .ok i ↔ ∃ t, mk t = i ∧ f.operands = encMT t := by
  simp only [decMT, encMT, MFields.operands, MFields.mk.injEq, bind_eq_ok, reserved0_eq_ok, finOf_eq_ok]
  grind

theorem decSTG_eq_ok {mk} : decSTG mk f = .ok i ↔ ∃ c1 v planes, mk c1 v planes = i ∧ f.operands = encSTG c1 v planes := by
  simp only [decSTG, encSTG, MFields.operands, MFields.mk.injEq, bind_eq_ok, reserved0_eq_ok, finOf_eq_ok]
  grind

theorem decMMA_eq_ok {mk} : decMMA mk f = .ok i ↔ ∃ t c1 c2, mk t c1 c2 = i ∧ f.operands = encMMA t c1 c2 := by
  simp only [decMMA, encMMA, MFields.operands, MFields.mk.injEq, bind_eq_ok, reserved0_eq_ok, finOf_eq_ok]
  grind

theorem decMLDT_eq_ok {mk} : decMLDT mk f = .ok i ↔ ∃ t c1 tt, mk t c1 tt = i ∧ f.operands = encMLDT t c1 tt := by
  simp only [decMLDT, encMLDT, MFields.operands, MFields.mk.injEq, bind_eq_ok, reserved0_eq_ok, finOf_eq_ok, named_eq_ok, TileType.ofCode_eq_some]
  grind

theorem decMSTT_eq_ok {mk} : decMSTT mk f = .ok i ↔ ∃ t c1, mk t c1 = i ∧ f.operands = encMSTT t c1 := by
  simp only [decMSTT, encMSTT, MFields.operands, MFields.mk.injEq, bind_eq_ok, reserved0_eq_ok, finOf_eq_ok]
  grind

theorem decMTOV_eq_ok {mk} : decMTOV mk f = .ok i ↔ ∃ v t c1, mk v t c1 = i ∧ f.operands = encMTOV v t c1 := by
  simp only [decMTOV, encMTOV, MFields.operands, MFields.mk.injEq, bind_eq_ok, reserved0_eq_ok, finOf_eq_ok]
  grind

end

/-! ### The Y form -/

section

variable {f : YFields} {i : Instr}

theorem decFEN_eq_ok {mk} : decFEN mk f = .ok i ↔ ∃ scope, mk scope = i ∧ f.operands = encFEN scope := by
  simp only [decFEN, encFEN, YFields.operands, YFields.mk.injEq, bind_eq_ok, reserved0_eq_ok, named_eq_ok, Scope.ofCode_eq_some]
  grind

theorem decY0_eq_ok {mk} : decY0 mk f = .ok i ↔ mk = i ∧ f.operands = encY0 := by
  simp only [decY0, encY0, YFields.operands, YFields.mk.injEq, bind_eq_ok, reserved0_eq_ok]
  grind

theorem decWM_eq_ok {mk} : decWM mk f = .ok i ↔ ∃ s1 s2, mk s1 s2 = i ∧ f.operands = encWM s1 s2 := by
  simp only [decWM, encWM, YFields.operands, YFields.mk.injEq, bind_eq_ok, reserved0_eq_ok, finOf_eq_ok]
  grind

theorem decGL_eq_ok {mk} : decGL mk f = .ok i ↔ ∃ d s1 s2, mk d s1 s2 = i ∧ f.operands = encGL d s1 s2 := by
  simp only [decGL, encGL, YFields.operands, YFields.mk.injEq, bind_eq_ok, reserved0_eq_ok, finOf_eq_ok]
  grind

theorem decIMM20_eq_ok (hf : f.InRange) {mk} : decIMM20 mk f = .ok i ↔ ∃ imm, mk imm = i ∧ f.operands = encIMM20 imm := by
  have himm := hf.imm
  simp only [decIMM20, encIMM20, YFields.operands, YFields.mk.injEq, bind_eq_ok, reserved0_eq_ok]
  grind

theorem decSG_eq_ok {mk} : decSG mk f = .ok i ↔ ∃ d num, mk d num = i ∧ f.operands = encSG d num := by
  simp only [decSG, encSG, YFields.operands, YFields.mk.injEq, bind_eq_ok, reserved0_eq_ok, finOf_eq_ok]
  grind

theorem decSS_eq_ok {mk} : decSS mk f = .ok i ↔ ∃ num s1, mk num s1 = i ∧ f.operands = encSS num s1 := by
  simp only [decSS, encSS, YFields.operands, YFields.mk.injEq, bind_eq_ok, reserved0_eq_ok, finOf_eq_ok]
  grind

theorem decKP_eq_ok {mk} : decKP mk f = .ok i ↔ ∃ s2, mk s2 = i ∧ f.operands = encKP s2 := by
  simp only [decKP, encKP, YFields.operands, YFields.mk.injEq, bind_eq_ok, reserved0_eq_ok, finOf_eq_ok]
  grind

end

end Sys2Proof
end

section
/-! PROOFS. The fields that an encoder writes lie in their ranges (R147, R148). -/
namespace Sys2Proof

/-! ### The S form -/

theorem encRRR_inRange (d s1 s2 : Reg) : (encRRR d s1 s2).InRange := by
  constructor <;> simp [encRRR]

theorem encRRRR_inRange (d s1 s2 s3 : Reg) : (encRRRR d s1 s2 s3).InRange := by
  constructor <;> simp [encRRRR]

theorem encRR_inRange (d s1 : Reg) : (encRR d s1).InRange := by
  constructor <;> simp [encRR]

theorem encRRI_inRange (d s1 : Reg) (imm : BitVec 32) : (encRRI d s1 imm).InRange := by
  constructor <;> simp [encRRI]

theorem encRRSH_inRange (d s1 : Reg) (sh : Fin 64) : (encRRSH d s1 sh).InRange := by
  constructor <;> simp [encRRSH]

theorem encRI_inRange (d : Reg) (imm : BitVec 32) : (encRI d imm).InRange := by
  constructor <;> simp [encRI]

theorem encF3_inRange (d s1 s2 : Reg) (t : FloatFmt) : (encF3 d s1 s2 t).InRange := by
  constructor <;> simp [encF3]

theorem encF4_inRange (d s1 s2 s3 : Reg) (t : FloatFmt) : (encF4 d s1 s2 s3 t).InRange := by
  constructor <;> simp [encF4]

theorem encFCVT_inRange (d s1 s2 : Reg) (dst src : ElemType) : (encFCVT d s1 s2 dst src).InRange := by
  have hdst := dst.code_lt le_rfl
  have hsrc := src.code_lt le_rfl
  constructor
  case imm => simp only [encFCVT]; omega
  all_goals simp [encFCVT]

theorem encGETC_inRange (d : Reg) (num : Fin 4096) : (encGETC d num).InRange := by
  constructor <;> simp [encGETC]

theorem encSETC_inRange (num : Fin 4096) (s1 : Reg) : (encSETC num s1).InRange := by
  constructor <;> simp [encSETC]

theorem encNONE_S_inRange : (encNONE_S).InRange := by
  constructor <;> simp [encNONE_S]

theorem encSETVL_inRange (d s1 : Reg) (ty : ElemType) : (encSETVL d s1 ty).InRange := by
  constructor <;> simp [encSETVL]

theorem encSETVLM_inRange (d : Reg) (m : MaskReg) : (encSETVLM d m).InRange := by
  constructor <;> simp [encSETVLM]

theorem encQPUSH_inRange (q : ScalarQueue) (s1 : Reg) : (encQPUSH q s1).InRange := by
  constructor <;> simp [encQPUSH]

theorem encQPOP_inRange (d : Reg) (q : ScalarQueue) : (encQPOP d q).InRange := by
  constructor <;> simp [encQPOP]

theorem encLD_inRange (d s1 : Reg) (ord : MemOrder) (off : BitVec 32) : (encLD d s1 ord off).InRange := by
  constructor <;> simp [encLD]

theorem encAMO_inRange (d s1 s2 : Reg) (ord : MemOrder) (off : BitVec 32) : (encAMO d s1 s2 ord off).InRange := by
  constructor <;> simp [encAMO]

/-! ### The B form and `LAP` -/

theorem encBR_inRange (s1 s2 : Reg) (off : BitVec 39) : (encBR s1 s2 off).InRange := by
  constructor <;> simp [encBR]

theorem encJAL_inRange (d : Reg) (off : BitVec 39) : (encJAL d off).InRange := by
  constructor <;> simp [encJAL]

theorem encJALR_inRange (d s1 : Reg) (off : BitVec 39) : (encJALR d s1 off).InRange := by
  constructor <;> simp [encJALR]

theorem encBMSK_inRange (m : MaskReg) (off : BitVec 39) : (encBMSK m off).InRange := by
  constructor <;> simp [encBMSK]

theorem encFETCH_inRange (sel : MaskSel) (off : BitVec 39) : (encFETCH sel off).InRange := by
  constructor <;> simp [encFETCH]

theorem encTSTOP_inRange (sel : MaskSel) : (encTSTOP sel).InRange := by
  constructor <;> simp [encTSTOP]

theorem encVLOOP_inRange (n : Fin 32) : (encVLOOP n).InRange := by
  constructor <;> simp [encVLOOP]

theorem encVLOOPS_inRange (n : Fin 32) (trip : Reg) (stages : Fin 32) : (encVLOOPS n trip stages).InRange := by
  constructor <;> simp [encVLOOPS]

theorem encLAP_inRange (n : Reg) (ty : ElemType) (p0 p1 p2 p3 : Option LapPtr) (off : BitVec 17) : (encLAP n ty p0 p1 p2 p3 off).InRange := by
  have hslot (p : Option LapPtr) : slotCode p < 128 := by cases p <;> simp only [slotCode] <;> omega
  have h0 := bit_le p0.isSome
  have h1 := bit_le p1.isSome
  have h2 := bit_le p2.isSome
  have h3 := bit_le p3.isSome
  exact ⟨n.isLt, ty.code_lt le_rfl, by simp only [encLAP]; omega, hslot p0, hslot p1, hslot p2, hslot p3, off.isLt⟩

/-! ### The V form -/

theorem encV2_inRange (p : Pred) (d : VDst) (s1 s2 : VSrc) : (encV2 p d s1 s2).InRange := by
  apply mkV_inRange <;> simp

theorem encV3_inRange (p : Pred) (d : VDst) (s1 s2 s3 : VSrc) : (encV3 p d s1 s2 s3).InRange := by
  apply mkV_inRange <;> simp

theorem encV1_inRange (p : Pred) (d : VDst) (s1 : VSrc) : (encV1 p d s1).InRange := by
  apply mkV_inRange <;> simp

theorem encVCMP_inRange (p : Pred) (m : MaskReg) (s1 s2 : VSrc) : (encVCMP p m s1 s2).InRange := by
  apply mkV_inRange <;> simp

theorem encV2S_inRange (p : Pred) (d : VDst) (s1 : VSrc) (c : Reg) : (encV2S p d s1 c).InRange := by
  apply mkV_inRange <;> simp

theorem encV3S_inRange (p : Pred) (d : VDst) (s1 : VSrc) (c : Reg) (s3 : VSrc) : (encV3S p d s1 c s3).InRange := by
  apply mkV_inRange <;> simp

theorem encVCMPS_inRange (p : Pred) (m : MaskReg) (s1 : VSrc) (c : Reg) : (encVCMPS p m s1 c).InRange := by
  apply mkV_inRange <;> simp

theorem encV2I_inRange (p : Pred) (d : VDst) (s1 : VSrc) (imm : BitVec 16) : (encV2I p d s1 imm).InRange := by
  apply mkV_inRange <;> simp

theorem encVCMPI_inRange (p : Pred) (m : MaskReg) (s1 : VSrc) (imm : BitVec 16) : (encVCMPI p m s1 imm).InRange := by
  apply mkV_inRange <;> simp

theorem encVTAG_inRange (j : Bool) (v : Reg) (ty : ElemType) : (encVTAG j v ty).InRange := by
  apply mkV_inRange <;> simp

theorem encVSPLAT_inRange (p : Pred) (d : VDst) (c : Reg) : (encVSPLAT p d c).InRange := by
  apply mkV_inRange <;> simp

theorem encVPUSH_inRange (p : Pred) (q : Fin 2) (s1 : VSrc) : (encVPUSH p q s1).InRange := by
  apply mkV_inRange <;> simp

theorem encVCVT_inRange (p : Pred) (d : VDst) (s1 : VSrc) (ty : ElemType) : (encVCVT p d s1 ty).InRange := by
  apply mkV_inRange <;> simp

theorem encVQCVT_inRange (p : Pred) (d : VDst) (s1 : VSrc) (c s3 : Reg) (k : Fin 32) : (encVQCVT p d s1 c s3 k).InRange := by
  apply mkV_inRange <;> simp

theorem encVDQ_inRange (p : Pred) (d : VDst) (s1 : VSrc) (c : Reg) (s3 : VSrc) (ty : ElemType) : (encVDQ p d s1 c s3 ty).InRange := by
  apply mkV_inRange <;> simp

theorem encVBFLY_inRange (p : Pred) (d : VDst) (s1 : VSrc) (dist : Fin 6) : (encVBFLY p d s1 dist).InRange := by
  apply mkV_inRange <;> simp

theorem encVBFLYF_inRange (j : Bool) (s1 : VSrc) (dist : Fin 6) : (encVBFLYF j s1 dist).InRange := by
  apply mkV_inRange <;> simp

theorem encVRAND_inRange (p : Pred) (d : VDst) : (encVRAND p d).InRange := by
  apply mkV_inRange <;> simp

theorem encVUTF8_inRange (j : Bool) (d : VDst) (s1 : VSrc) (s2 : Reg) (h2 : Bool) : (encVUTF8 j d s1 s2 h2).InRange := by
  apply mkV_inRange <;> simp

theorem encMM_inRange (j : Bool) (m a b : MaskReg) : (encMM j m a b).InRange := by
  apply mkV_inRange <;> simp

theorem encMNOT_inRange (j : Bool) (m a : MaskReg) : (encMNOT j m a).InRange := by
  apply mkV_inRange <;> simp

theorem encMSET_inRange (j : Bool) (m : MaskReg) (b : Bool) : (encMSET j m b).InRange := by
  apply mkV_inRange <;> simp

theorem encSLIDE_inRange (p : Pred) (d : VDst) (s1 : VSrc) (amt : Reg) (fill : Fill) : (encSLIDE p d s1 amt fill).InRange := by
  apply mkV_inRange <;> simp

theorem encSLIDEI_inRange (p : Pred) (d : VDst) (s1 : VSrc) (amt : Fin 1024) (fill : Fill) : (encSLIDEI p d s1 amt fill).InRange := by
  have himm := fill.imm_le
  apply mkV_inRange
  case himm => omega
  all_goals simp

theorem encVIOTA_inRange (p : Pred) (d : VDst) (m : MaskReg) : (encVIOTA p d m).InRange := by
  apply mkV_inRange <;> simp

theorem encVEXTR_inRange (j : Bool) (d : Reg) (s1 : VSrc) (idx : Reg) : (encVEXTR j d s1 idx).InRange := by
  apply mkV_inRange <;> simp

theorem encVEXTRI_inRange (j : Bool) (d : Reg) (s1 : VSrc) (idx : BitVec 16) : (encVEXTRI j d s1 idx).InRange := by
  apply mkV_inRange <;> simp

theorem encVINS_inRange (j : Bool) (d : VDst) (c idx : Reg) : (encVINS j d c idx).InRange := by
  apply mkV_inRange <;> simp

theorem encVINSI_inRange (j : Bool) (d : VDst) (c : Reg) (idx : BitVec 16) : (encVINSI j d c idx).InRange := by
  apply mkV_inRange <;> simp

theorem encVRED_inRange (j : Bool) (sel : MaskSel) (d : Reg) (s1 : VSrc) (acc : Reg) : (encVRED j sel d s1 acc).InRange := by
  apply mkV_inRange <;> simp

theorem encVSCAN_inRange (p : Pred) (d : VDst) (s1 : VSrc) (cin cout : Reg) : (encVSCAN p d s1 cin cout).InRange := by
  apply mkV_inRange <;> simp

theorem encVARG_inRange (j : Bool) (sel : MaskSel) (d : Reg) (s1 : VSrc) : (encVARG j sel d s1).InRange := by
  apply mkV_inRange <;> simp

theorem encMCNT_inRange (j : Bool) (sel : MaskSel) (d : Reg) (m : MaskReg) : (encMCNT j sel d m).InRange := by
  apply mkV_inRange <;> simp

theorem encKSET_inRange (p : Pred) (k : TopoReg) (s1 : VSrc) : (encKSET p k s1).InRange := by
  apply mkV_inRange <;> simp

theorem encKGET_inRange (p : Pred) (d : VDst) (k : TopoReg) : (encKGET p d k).InRange := by
  apply mkV_inRange <;> simp

theorem encKVAL_inRange (p : Pred) (d : VDst) (s1 : VSrc) (k : TopoReg) (fm : ForestMasks) : (encKVAL p d s1 k fm).InRange := by
  apply mkV_inRange <;> simp

theorem encKLNK_inRange (p : Pred) (d : VDst) (k : TopoReg) (fm : ForestMasks) : (encKLNK p d k fm).InRange := by
  apply mkV_inRange <;> simp

theorem encKANC_inRange (p : Pred) (d : VDst) (c : Reg) (k : TopoReg) (fm : ForestMasks) : (encKANC p d c k fm).InRange := by
  apply mkV_inRange <;> simp

theorem encKANCIS_inRange (p : Pred) (m : MaskReg) (s1 : VSrc) (k : TopoReg) (fm : ForestMasks) : (encKANCIS p m s1 k fm).InRange := by
  apply mkV_inRange <;> simp

theorem encKCON_inRange (p : Pred) (kd k : TopoReg) (fm : ForestMasks) : (encKCON p kd k fm).InRange := by
  apply mkV_inRange <;> simp

theorem encKCHK_inRange (p : Pred) (m : MaskReg) (k : TopoReg) : (encKCHK p m k).InRange := by
  apply mkV_inRange <;> simp

theorem encVLD_inRange (sel : MaskSel) (q : Fin 4) (base : Reg) (off : BitVec 16) : (encVLD sel q base off).InRange := by
  apply mkP_inRange <;> simp

theorem encVST_inRange (sel : MaskSel) (q : Fin 2) (base : Reg) (off : BitVec 16) : (encVST sel q base off).InRange := by
  apply mkP_inRange <;> simp

theorem encIMGL_inRange (q : Fin 4) (base : Reg) (off : BitVec 16) : (encIMGL q base off).InRange := by
  apply mkP_inRange <;> simp

theorem encIMGS_inRange (q : Fin 2) (base : Reg) (off : BitVec 16) : (encIMGS q base off).InRange := by
  apply mkP_inRange <;> simp

theorem encVLDFF_inRange (sel : MaskSel) (q : Fin 4) (base : Reg) (m : MaskReg) (off : BitVec 16) : (encVLDFF sel q base m off).InRange := by
  apply mkP_inRange <;> simp

theorem encVLDS_inRange (sel : MaskSel) (q : Fin 4) (base stride : Reg) : (encVLDS sel q base stride).InRange := by
  apply mkP_inRange <;> simp

theorem encVSTS_inRange (sel : MaskSel) (q : Fin 2) (base stride : Reg) : (encVSTS sel q base stride).InRange := by
  apply mkP_inRange <;> simp

theorem encVLDX_inRange (sel : MaskSel) (q : Fin 4) (base list : Reg) (sc : Fin 4) : (encVLDX sel q base list sc).InRange := by
  apply mkP_inRange <;> simp

theorem encVSTX_inRange (sel : MaskSel) (q : Fin 2) (base list : Reg) (sc : Fin 4) : (encVSTX sel q base list sc).InRange := by
  apply mkP_inRange <;> simp

theorem encVAMO_inRange (sel : MaskSel) (q : Fin 2) (base list : Reg) (sc : Fin 4) (op : VAmoOp) (ret : Option (Fin 4)) :
    (encVAMO sel q base list sc op ret).InRange := by
  have hop := op.code_lt le_rfl
  have hret := bit_le ret.isSome
  apply mkP_inRange
  case hs3 => cases ret <;> simp [retField]
  case himm => omega
  all_goals simp

/-! ### The E form -/

theorem encCPY_inRange (tag : Fin 64) (dst src n : Reg) : (encCPY tag dst src n).InRange := by
  constructor <;> simp [encCPY]

theorem encCPY2_inRange (tag : Fin 64) (dst src rows rowBytes spitch dpitch : Reg) (sw : Bool) :
    (encCPY2 tag dst src rows rowBytes spitch dpitch sw).InRange := by
  constructor <;> simp [encCPY2]

theorem encCPYX_inRange (tag : Fin 64) (dst dpitch base tpitch rowBytes list count limit : Reg) (sw : Bool) :
    (encCPYX tag dst dpitch base tpitch rowBytes list count limit sw).InRange := by
  constructor <;> simp [encCPYX]

theorem encBLK_inRange (tag : Fin 64) (blk : Reg) : (encBLK tag blk).InRange := by
  constructor <;> simp [encBLK]

theorem encE2_inRange (e1 e2 : Reg) : (encE2 e1 e2).InRange := by
  constructor <;> simp [encE2]

theorem encE1_inRange (e1 : Reg) : (encE1 e1).InRange := by
  constructor <;> simp [encE1]

theorem encQF_inRange (qmask : Fin 16) : (encQF qmask).InRange := by
  constructor <;> simp [encQF]

/-! ### The M form -/

theorem encC3_inRange (c1 c2 c3 : Reg) : (encC3 c1 c2 c3).InRange := by
  constructor <;> simp [encC3]

theorem encM0_inRange : (encM0).InRange := by
  constructor <;> simp [encM0]

theorem encMT_inRange (t : Tile) : (encMT t).InRange := by
  constructor <;> simp [encMT]

theorem encSTG_inRange (c1 v : Reg) (planes : Fin 32) : (encSTG c1 v planes).InRange := by
  constructor <;> simp [encSTG]

theorem encMMA_inRange (t : Tile) (c1 c2 : Reg) : (encMMA t c1 c2).InRange := by
  constructor <;> simp [encMMA]

theorem encMLDT_inRange (t : Tile) (c1 : Reg) (tt : TileType) : (encMLDT t c1 tt).InRange := by
  constructor <;> simp [encMLDT]

theorem encMSTT_inRange (t : Tile) (c1 : Reg) : (encMSTT t c1).InRange := by
  constructor <;> simp [encMSTT]

theorem encMTOV_inRange (v : Reg) (t : Tile) (c1 : Reg) : (encMTOV v t c1).InRange := by
  constructor <;> simp [encMTOV]

/-! ### The Y form -/

theorem encFEN_inRange (scope : Scope) : (encFEN scope).InRange := by
  constructor <;> simp [encFEN]

theorem encY0_inRange : (encY0).InRange := by
  constructor <;> simp [encY0]

theorem encWM_inRange (s1 s2 : Reg) : (encWM s1 s2).InRange := by
  constructor <;> simp [encWM]

theorem encGL_inRange (d s1 s2 : Reg) : (encGL d s1 s2).InRange := by
  constructor <;> simp [encGL]

theorem encIMM20_inRange (imm : BitVec 20) : (encIMM20 imm).InRange := by
  constructor <;> simp [encIMM20]

theorem encSG_inRange (d : Reg) (num : Fin 4096) : (encSG d num).InRange := by
  constructor <;> simp [encSG]

theorem encSS_inRange (num : Fin 4096) (s1 : Reg) : (encSS num s1).InRange := by
  constructor <;> simp [encSS]

theorem encKP_inRange (s2 : Reg) : (encKP s2).InRange := by
  constructor <;> simp [encKP]

end Sys2Proof
end

section
/-! PROOFS. A word that decodes is the word of what it decodes to, point by point (R163). -/
namespace Sys2Proof

section

variable {i : Instr} {major minor : Nat}

theorem encodeNat_of_operands_S {f g : SFields} (e : f.operands = g) (he : encodeNat i = some (g.toWord major minor)) :
    encodeNat i = some (f.toWord major minor) := by
  subst e
  exact he

theorem encodeNat_of_operands_B {f g : BFields} (e : f.operands = g) (he : encodeNat i = some (g.toWord major minor)) :
    encodeNat i = some (f.toWord major minor) := by
  subst e
  exact he

theorem encodeNat_of_operands_V {f g : VFields} (e : f.operands = g) (he : encodeNat i = some (g.toWord major minor)) :
    encodeNat i = some (f.toWord major minor) := by
  subst e
  exact he

theorem encodeNat_of_operands_E {f g : EFields} (e : f.operands = g) (he : encodeNat i = some (g.toWord major minor)) :
    encodeNat i = some (f.toWord major minor) := by
  subst e
  exact he

theorem encodeNat_of_operands_M {f g : MFields} (e : f.operands = g) (he : encodeNat i = some (g.toWord major minor)) :
    encodeNat i = some (f.toWord major minor) := by
  subst e
  exact he

theorem encodeNat_of_operands_Y {f g : YFields} (e : f.operands = g) (he : encodeNat i = some (g.toWord major minor)) :
    encodeNat i = some (f.toWord major minor) := by
  subst e
  exact he

end

/-! ### Major by major

Each proof follows the table of the major's minor opcodes: `case h_n` is its nth row, and the last row, a word at no point, decodes to nothing. -/

theorem encodeNat_of_decodeAnchor01 {f : SFields} {i : Instr} (h : decodeAnchor01 f = .ok i) :
    encodeNat i = some (f.toWord 1 f.minor) := by
  unfold decodeAnchor01 at h
  generalize f.minor = minor at h ⊢
  split at h
  case h_25 =>
    obtain ⟨_, _, _, _, rfl, e⟩ := decRRRR_eq_ok.1 h
    exact encodeNat_of_operands_S e rfl
  case h_26 | h_27 | h_28 =>
    obtain ⟨_, _, rfl, e⟩ := decRR_eq_ok.1 h
    exact encodeNat_of_operands_S e rfl
  case h_29 => cases h
  all_goals
    obtain ⟨_, _, _, rfl, e⟩ := decRRR_eq_ok.1 h
    exact encodeNat_of_operands_S e rfl

theorem encodeNat_of_decodeAnchor02 {f : SFields} (hf : f.InRange) {i : Instr} (h : decodeAnchor02 f = .ok i) :
    encodeNat i = some (f.toWord 2 f.minor) := by
  unfold decodeAnchor02 at h
  generalize f.minor = minor at h ⊢
  split at h
  case h_14 | h_15 | h_16 | h_17 =>
    obtain ⟨_, _, _, rfl, e⟩ := decRRSH_eq_ok.1 h
    exact encodeNat_of_operands_S e rfl
  case h_25 => cases h
  all_goals
    obtain ⟨_, _, _, rfl, e⟩ := (decRRI_eq_ok hf).1 h
    exact encodeNat_of_operands_S e rfl

theorem encodeNat_of_decodeAnchor03 {f : SFields} (hf : f.InRange) {i : Instr} (h : decodeAnchor03 f = .ok i) :
    encodeNat i = some (f.toWord 3 f.minor) := by
  unfold decodeAnchor03 at h
  generalize f.minor = minor at h ⊢
  split at h
  case h_3 => cases h
  all_goals
    obtain ⟨_, _, rfl, e⟩ := (decRI_eq_ok hf).1 h
    exact encodeNat_of_operands_S e rfl

theorem encodeNat_of_decodeAnchor04 {f : SFields} {i : Instr} (h : decodeAnchor04 f = .ok i) :
    encodeNat i = some (f.toWord 4 f.minor) := by
  unfold decodeAnchor04 at h
  generalize f.minor = minor at h ⊢
  split at h
  case h_4 =>
    obtain ⟨_, _, _, _, _, rfl, e⟩ := decF4_eq_ok.1 h
    exact encodeNat_of_operands_S e rfl
  case h_9 =>
    obtain ⟨_, _, _, _, _, rfl, e⟩ := decFCVT_eq_ok.1 h
    exact encodeNat_of_operands_S e rfl
  case h_14 => cases h
  all_goals
    obtain ⟨_, _, _, _, rfl, e⟩ := decF3_eq_ok.1 h
    exact encodeNat_of_operands_S e rfl

theorem encodeNat_of_decodeAnchor05 {f : SFields} {i : Instr} (h : decodeAnchor05 f = .ok i) :
    encodeNat i = some (f.toWord 5 f.minor) := by
  unfold decodeAnchor05 at h
  generalize f.minor = minor at h ⊢
  split at h
  case h_1 =>
    obtain ⟨_, _, rfl, e⟩ := decGETC_eq_ok.1 h
    exact encodeNat_of_operands_S e rfl
  case h_2 =>
    obtain ⟨_, _, rfl, e⟩ := decSETC_eq_ok.1 h
    exact encodeNat_of_operands_S e rfl
  case h_4 => cases h
  case h_3 =>
    obtain ⟨rfl, e⟩ := decNONE_S_eq_ok.1 h
    exact encodeNat_of_operands_S e rfl

theorem encodeNat_of_decodeAnchor06 {f : SFields} {i : Instr} (h : decodeAnchor06 f = .ok i) :
    encodeNat i = some (f.toWord 6 f.minor) := by
  unfold decodeAnchor06 at h
  generalize f.minor = minor at h ⊢
  split at h
  case h_1 =>
    obtain ⟨_, _, _, rfl, e⟩ := decSETVL_eq_ok.1 h
    exact encodeNat_of_operands_S e rfl
  case h_3 => cases h
  case h_2 =>
    obtain ⟨_, _, rfl, e⟩ := decSETVLM_eq_ok.1 h
    exact encodeNat_of_operands_S e rfl

theorem encodeNat_of_decodeAnchor07 {f : SFields} {i : Instr} (h : decodeAnchor07 f = .ok i) :
    encodeNat i = some (f.toWord 7 f.minor) := by
  unfold decodeAnchor07 at h
  generalize f.minor = minor at h ⊢
  split at h
  case h_1 =>
    obtain ⟨_, _, rfl, e⟩ := decQPUSH_eq_ok.1 h
    exact encodeNat_of_operands_S e rfl
  case h_3 => cases h
  case h_2 =>
    obtain ⟨_, _, rfl, e⟩ := decQPOP_eq_ok.1 h
    exact encodeNat_of_operands_S e rfl

theorem encodeNat_of_decodeAnchor08 {f : BFields} (hf : f.InRange) {i : Instr} (h : decodeAnchor08 f = .ok i) :
    encodeNat i = some (f.toWord 8 f.minor) := by
  unfold decodeAnchor08 at h
  generalize f.minor = minor at h ⊢
  split at h
  case h_7 =>
    obtain ⟨_, _, rfl, e⟩ := (decJAL_eq_ok hf).1 h
    exact encodeNat_of_operands_B e rfl
  case h_8 =>
    obtain ⟨_, _, _, rfl, e⟩ := (decJALR_eq_ok hf).1 h
    exact encodeNat_of_operands_B e rfl
  case h_9 | h_10 =>
    obtain ⟨_, _, rfl, e⟩ := (decBMSK_eq_ok hf).1 h
    exact encodeNat_of_operands_B e rfl
  case h_11 => cases h
  all_goals
    obtain ⟨_, _, _, rfl, e⟩ := (decBR_eq_ok hf).1 h
    exact encodeNat_of_operands_B e rfl

theorem encodeNat_of_decodeAnchor0A {f : BFields} (hf : f.InRange) {i : Instr} (h : decodeAnchor0A f = .ok i) :
    encodeNat i = some (f.toWord 10 f.minor) := by
  unfold decodeAnchor0A at h
  generalize f.minor = minor at h ⊢
  split at h
  case h_3 =>
    obtain ⟨_, rfl, e⟩ := decTSTOP_eq_ok.1 h
    exact encodeNat_of_operands_B e rfl
  case h_4 =>
    obtain ⟨_, rfl, e⟩ := decVLOOP_eq_ok.1 h
    exact encodeNat_of_operands_B e rfl
  case h_5 =>
    obtain ⟨_, _, _, rfl, e⟩ := decVLOOPS_eq_ok.1 h
    exact encodeNat_of_operands_B e rfl
  case h_6 => cases h
  all_goals
    obtain ⟨_, _, rfl, e⟩ := (decFETCH_eq_ok hf).1 h
    exact encodeNat_of_operands_B e rfl

theorem encodeNat_of_decodeAnchor10 {f : VFields} (hf : f.InRange) {i : Instr} (h : decodeAnchor10 f = .ok i) :
    encodeNat i = some (f.toWord 16 f.minor) := by
  unfold decodeAnchor10 at h
  generalize f.minor = minor at h ⊢
  split at h
  case h_5 | h_6 | h_26 =>
    obtain ⟨_, _, _, _, _, rfl, e⟩ := (decV3_eq_ok hf).1 h
    exact encodeNat_of_operands_V e rfl
  case h_8 | h_9 | h_10 | h_11 | h_12 | h_15 | h_16 | h_20 =>
    obtain ⟨_, _, _, rfl, e⟩ := (decV1_eq_ok hf).1 h
    exact encodeNat_of_operands_V e rfl
  case h_28 | h_29 | h_30 | h_31 | h_32 | h_33 | h_34 | h_35 =>
    obtain ⟨_, _, _, _, rfl, e⟩ := (decVCMP_eq_ok hf).1 h
    exact encodeNat_of_operands_V e rfl
  case h_36 => cases h
  all_goals
    obtain ⟨_, _, _, _, rfl, e⟩ := (decV2_eq_ok hf).1 h
    exact encodeNat_of_operands_V e rfl

theorem encodeNat_of_decodeAnchor11 {f : VFields} (hf : f.InRange) {i : Instr} (h : decodeAnchor11 f = .ok i) :
    encodeNat i = some (f.toWord 17 f.minor) := by
  unfold decodeAnchor11 at h
  generalize f.minor = minor at h ⊢
  split at h
  case h_5 | h_6 | h_18 =>
    obtain ⟨_, _, _, _, _, rfl, e⟩ := (decV3S_eq_ok hf).1 h
    exact encodeNat_of_operands_V e rfl
  case h_20 | h_21 | h_22 | h_23 | h_24 | h_25 | h_26 | h_27 =>
    obtain ⟨_, _, _, _, rfl, e⟩ := (decVCMPS_eq_ok hf).1 h
    exact encodeNat_of_operands_V e rfl
  case h_28 => cases h
  all_goals
    obtain ⟨_, _, _, _, rfl, e⟩ := (decV2S_eq_ok hf).1 h
    exact encodeNat_of_operands_V e rfl

theorem encodeNat_of_decodeAnchor12 {f : VFields} (hf : f.InRange) {i : Instr} (h : decodeAnchor12 f = .ok i) :
    encodeNat i = some (f.toWord 18 f.minor) := by
  unfold decodeAnchor12 at h
  generalize f.minor = minor at h ⊢
  split at h
  case h_14 | h_15 | h_16 | h_17 | h_18 | h_19 =>
    obtain ⟨_, _, _, _, rfl, e⟩ := (decVCMPI_eq_ok hf).1 h
    exact encodeNat_of_operands_V e rfl
  case h_20 => cases h
  all_goals
    obtain ⟨_, _, _, _, rfl, e⟩ := (decV2I_eq_ok hf).1 h
    exact encodeNat_of_operands_V e rfl

theorem encodeNat_of_decodeAnchor13 {f : VFields} (hf : f.InRange) {i : Instr} (h : decodeAnchor13 f = .ok i) :
    encodeNat i = some (f.toWord 19 f.minor) := by
  unfold decodeAnchor13 at h
  generalize f.minor = minor at h ⊢
  split at h
  case h_3 =>
    obtain ⟨_, _, _, rfl, e⟩ := (decVSPLAT_eq_ok hf).1 h
    exact encodeNat_of_operands_V e rfl
  case h_4 =>
    obtain ⟨_, _, _, rfl, e⟩ := (decVPUSH_eq_ok hf).1 h
    exact encodeNat_of_operands_V e rfl
  case h_5 => cases h
  all_goals
    obtain ⟨_, _, _, rfl, e⟩ := (decVTAG_eq_ok hf).1 h
    exact encodeNat_of_operands_V e rfl

theorem encodeNat_of_decodeAnchor14 {f : VFields} (hf : f.InRange) {i : Instr} (h : decodeAnchor14 f = .ok i) :
    encodeNat i = some (f.toWord 20 f.minor) := by
  unfold decodeAnchor14 at h
  generalize f.minor = minor at h ⊢
  split at h
  case h_3 =>
    obtain ⟨_, _, _, _, _, _, rfl, e⟩ := (decVQCVT_eq_ok hf).1 h
    exact encodeNat_of_operands_V e rfl
  case h_4 =>
    obtain ⟨_, _, _, _, _, _, rfl, e⟩ := (decVDQ_eq_ok hf).1 h
    exact encodeNat_of_operands_V e rfl
  case h_5 =>
    obtain ⟨_, _, _, _, rfl, e⟩ := (decVBFLY_eq_ok hf).1 h
    exact encodeNat_of_operands_V e rfl
  case h_6 =>
    obtain ⟨_, _, _, rfl, e⟩ := (decVBFLYF_eq_ok hf).1 h
    exact encodeNat_of_operands_V e rfl
  case h_7 =>
    obtain ⟨_, _, rfl, e⟩ := (decVRAND_eq_ok hf).1 h
    exact encodeNat_of_operands_V e rfl
  case h_8 =>
    obtain ⟨_, _, _, _, _, rfl, e⟩ := (decVUTF8_eq_ok hf).1 h
    exact encodeNat_of_operands_V e rfl
  case h_9 => cases h
  all_goals
    obtain ⟨_, _, _, _, rfl, e⟩ := (decVCVT_eq_ok hf).1 h
    exact encodeNat_of_operands_V e rfl

theorem encodeNat_of_decodeAnchor15 {f : VFields} (hf : f.InRange) {i : Instr} (h : decodeAnchor15 f = .ok i) :
    encodeNat i = some (f.toWord 21 f.minor) := by
  unfold decodeAnchor15 at h
  generalize f.minor = minor at h ⊢
  split at h
  case h_4 =>
    obtain ⟨_, _, _, rfl, e⟩ := (decMNOT_eq_ok hf).1 h
    exact encodeNat_of_operands_V e rfl
  case h_5 =>
    obtain ⟨_, _, _, rfl, e⟩ := (decMSET_eq_ok hf).1 h
    exact encodeNat_of_operands_V e rfl
  case h_6 => cases h
  all_goals
    obtain ⟨_, _, _, _, rfl, e⟩ := (decMM_eq_ok hf).1 h
    exact encodeNat_of_operands_V e rfl

theorem encodeNat_of_decodeAnchor16 {f : VFields} (hf : f.InRange) {i : Instr} (h : decodeAnchor16 f = .ok i) :
    encodeNat i = some (f.toWord 22 f.minor) := by
  unfold decodeAnchor16 at h
  generalize f.minor = minor at h ⊢
  split at h
  case h_1 | h_2 =>
    obtain ⟨_, _, _, _, _, rfl, e⟩ := (decSLIDE_eq_ok hf).1 h
    exact encodeNat_of_operands_V e rfl
  case h_3 | h_4 =>
    obtain ⟨_, _, _, _, _, rfl, e⟩ := (decSLIDEI_eq_ok hf).1 h
    exact encodeNat_of_operands_V e rfl
  case h_5 =>
    obtain ⟨_, _, _, _, rfl, e⟩ := (decV2_eq_ok hf).1 h
    exact encodeNat_of_operands_V e rfl
  case h_6 =>
    obtain ⟨_, _, _, _, _, rfl, e⟩ := (decV3_eq_ok hf).1 h
    exact encodeNat_of_operands_V e rfl
  case h_9 =>
    obtain ⟨_, _, _, rfl, e⟩ := (decVIOTA_eq_ok hf).1 h
    exact encodeNat_of_operands_V e rfl
  case h_10 =>
    obtain ⟨_, _, _, _, rfl, e⟩ := (decVEXTR_eq_ok hf).1 h
    exact encodeNat_of_operands_V e rfl
  case h_11 =>
    obtain ⟨_, _, _, _, rfl, e⟩ := (decVEXTRI_eq_ok hf).1 h
    exact encodeNat_of_operands_V e rfl
  case h_12 =>
    obtain ⟨_, _, _, _, rfl, e⟩ := (decVINS_eq_ok hf).1 h
    exact encodeNat_of_operands_V e rfl
  case h_13 =>
    obtain ⟨_, _, _, _, rfl, e⟩ := (decVINSI_eq_ok hf).1 h
    exact encodeNat_of_operands_V e rfl
  case h_14 => cases h
  all_goals
    obtain ⟨_, _, _, rfl, e⟩ := (decV1_eq_ok hf).1 h
    exact encodeNat_of_operands_V e rfl

theorem encodeNat_of_decodeAnchor17 {f : VFields} (hf : f.InRange) {i : Instr} (h : decodeAnchor17 f = .ok i) :
    encodeNat i = some (f.toWord 23 f.minor) := by
  unfold decodeAnchor17 at h
  generalize f.minor = minor at h ⊢
  split at h
  case h_1 | h_2 | h_3 | h_4 | h_5 | h_6 =>
    obtain ⟨_, _, _, _, _, rfl, e⟩ := (decVRED_eq_ok hf).1 h
    exact encodeNat_of_operands_V e rfl
  case h_13 | h_14 =>
    obtain ⟨_, _, _, _, rfl, e⟩ := (decVARG_eq_ok hf).1 h
    exact encodeNat_of_operands_V e rfl
  case h_15 | h_16 =>
    obtain ⟨_, _, _, _, rfl, e⟩ := (decMCNT_eq_ok hf).1 h
    exact encodeNat_of_operands_V e rfl
  case h_17 => cases h
  all_goals
    obtain ⟨_, _, _, _, _, rfl, e⟩ := (decVSCAN_eq_ok hf).1 h
    exact encodeNat_of_operands_V e rfl

theorem encodeNat_of_decodeAnchor18 {f : VFields} (hf : f.InRange) {i : Instr} (h : decodeAnchor18 f = .ok i) :
    encodeNat i = some (f.toWord 24 f.minor) := by
  unfold decodeAnchor18 at h
  generalize f.minor = minor at h ⊢
  split at h
  case h_1 =>
    obtain ⟨_, _, _, rfl, e⟩ := (decKSET_eq_ok hf).1 h
    exact encodeNat_of_operands_V e rfl
  case h_2 =>
    obtain ⟨_, _, _, rfl, e⟩ := (decKGET_eq_ok hf).1 h
    exact encodeNat_of_operands_V e rfl
  case h_10 | h_14 =>
    obtain ⟨_, _, _, _, rfl, e⟩ := (decKLNK_eq_ok hf).1 h
    exact encodeNat_of_operands_V e rfl
  case h_11 =>
    obtain ⟨_, _, _, _, _, rfl, e⟩ := (decKANC_eq_ok hf).1 h
    exact encodeNat_of_operands_V e rfl
  case h_12 =>
    obtain ⟨_, _, _, _, _, rfl, e⟩ := (decKANCIS_eq_ok hf).1 h
    exact encodeNat_of_operands_V e rfl
  case h_13 =>
    obtain ⟨_, _, _, _, rfl, e⟩ := (decKCON_eq_ok hf).1 h
    exact encodeNat_of_operands_V e rfl
  case h_15 =>
    obtain ⟨_, _, _, rfl, e⟩ := (decKCHK_eq_ok hf).1 h
    exact encodeNat_of_operands_V e rfl
  case h_16 => cases h
  all_goals
    obtain ⟨_, _, _, _, _, rfl, e⟩ := (decKVAL_eq_ok hf).1 h
    exact encodeNat_of_operands_V e rfl

theorem encodeNat_of_decodeAnchor28 {f : MFields} {i : Instr} (h : decodeAnchor28 f = .ok i) :
    encodeNat i = some (f.toWord 40 f.minor) := by
  unfold decodeAnchor28 at h
  generalize f.minor = minor at h ⊢
  split at h
  case h_1 =>
    obtain ⟨_, _, _, rfl, e⟩ := decC3_eq_ok.1 h
    exact encodeNat_of_operands_M e rfl
  case h_2 | h_3 =>
    obtain ⟨rfl, e⟩ := decM0_eq_ok.1 h
    exact encodeNat_of_operands_M e rfl
  case h_4 =>
    obtain ⟨_, rfl, e⟩ := decMT_eq_ok.1 h
    exact encodeNat_of_operands_M e rfl
  case h_7 =>
    obtain ⟨_, _, _, rfl, e⟩ := decMMA_eq_ok.1 h
    exact encodeNat_of_operands_M e rfl
  case h_8 =>
    obtain ⟨_, _, _, rfl, e⟩ := decMLDT_eq_ok.1 h
    exact encodeNat_of_operands_M e rfl
  case h_9 =>
    obtain ⟨_, _, rfl, e⟩ := decMSTT_eq_ok.1 h
    exact encodeNat_of_operands_M e rfl
  case h_10 =>
    obtain ⟨_, _, _, rfl, e⟩ := decMTOV_eq_ok.1 h
    exact encodeNat_of_operands_M e rfl
  case h_11 => cases h
  all_goals
    obtain ⟨_, _, _, rfl, e⟩ := decSTG_eq_ok.1 h
    exact encodeNat_of_operands_M e rfl

theorem encodeNat_of_decodeAnchor30 {f : YFields} (hf : f.InRange) {i : Instr} (h : decodeAnchor30 f = .ok i) :
    encodeNat i = some (f.toWord 48 f.minor) := by
  unfold decodeAnchor30 at h
  generalize f.minor = minor at h ⊢
  split at h
  case h_5 | h_6 | h_7 =>
    obtain ⟨_, rfl, e⟩ := (decIMM20_eq_ok hf).1 h
    exact encodeNat_of_operands_Y e rfl
  case h_9 =>
    obtain ⟨_, _, rfl, e⟩ := decSG_eq_ok.1 h
    exact encodeNat_of_operands_Y e rfl
  case h_10 =>
    obtain ⟨_, _, rfl, e⟩ := decSS_eq_ok.1 h
    exact encodeNat_of_operands_Y e rfl
  case h_11 => cases h
  all_goals
    obtain ⟨rfl, e⟩ := decY0_eq_ok.1 h
    exact encodeNat_of_operands_Y e rfl

theorem encodeNat_of_decodeMajor20 {f : VFields} (hf : f.InRange) {i : Instr} (h : decodeMajor20 f = .ok i) :
    encodeNat i = some (f.toWord 32 f.minor) := by
  unfold decodeMajor20 at h
  generalize f.minor = minor at h ⊢
  split at h
  case h_1 =>
    obtain ⟨_, _, _, _, rfl, e⟩ := (decVLD_eq_ok hf).1 h
    exact encodeNat_of_operands_V e rfl
  case h_2 =>
    obtain ⟨_, _, _, _, rfl, e⟩ := decVLDS_eq_ok.1 h
    exact encodeNat_of_operands_V e rfl
  case h_3 =>
    obtain ⟨_, _, _, _, _, rfl, e⟩ := decVLDX_eq_ok.1 h
    exact encodeNat_of_operands_V e rfl
  case h_4 =>
    obtain ⟨_, _, _, _, _, rfl, e⟩ := (decVLDFF_eq_ok hf).1 h
    exact encodeNat_of_operands_V e rfl
  case h_5 =>
    obtain ⟨_, _, _, _, rfl, e⟩ := (decVST_eq_ok hf).1 h
    exact encodeNat_of_operands_V e rfl
  case h_6 =>
    obtain ⟨_, _, _, _, rfl, e⟩ := decVSTS_eq_ok.1 h
    exact encodeNat_of_operands_V e rfl
  case h_7 =>
    obtain ⟨_, _, _, _, _, rfl, e⟩ := decVSTX_eq_ok.1 h
    exact encodeNat_of_operands_V e rfl
  case h_8 | h_11 =>
    obtain ⟨_, _, _, rfl, e⟩ := (decIMGL_eq_ok hf).1 h
    exact encodeNat_of_operands_V e rfl
  case h_12 =>
    obtain ⟨_, _, _, _, _, _, _, rfl, e⟩ := (decVAMO_eq_ok hf).1 h
    exact encodeNat_of_operands_V e rfl
  case h_13 => cases h
  all_goals
    obtain ⟨_, _, _, rfl, e⟩ := (decIMGS_eq_ok hf).1 h
    exact encodeNat_of_operands_V e rfl

theorem encodeNat_of_decodeMajor21 {f : SFields} (hf : f.InRange) {i : Instr} (h : decodeMajor21 f = .ok i) :
    encodeNat i = some (f.toWord 33 f.minor) := by
  unfold decodeMajor21 at h
  generalize f.minor = minor at h ⊢
  split at h
  case h_8 => cases h
  all_goals
    obtain ⟨_, _, _, _, rfl, e⟩ := (decLD_eq_ok hf).1 h
    exact encodeNat_of_operands_S e rfl

theorem encodeNat_of_decodeMajor22 {f : SFields} (hf : f.InRange) {i : Instr} (h : decodeMajor22 f = .ok i) :
    encodeNat i = some (f.toWord 34 f.minor) := by
  unfold decodeMajor22 at h
  generalize f.minor = minor at h ⊢
  split at h
  case h_5 => cases h
  all_goals
    obtain ⟨_, _, _, _, rfl, e⟩ := (decLD_eq_ok hf).1 h
    exact encodeNat_of_operands_S e rfl

theorem encodeNat_of_decodeMajor23 {f : SFields} (hf : f.InRange) {i : Instr} (h : decodeMajor23 f = .ok i) :
    encodeNat i = some (f.toWord 35 f.minor) := by
  unfold decodeMajor23 at h
  generalize f.minor = minor at h ⊢
  split at h
  case h_21 | h_22 =>
    obtain ⟨_, _, _, _, rfl, e⟩ := (decLD_eq_ok hf).1 h
    exact encodeNat_of_operands_S e rfl
  case h_23 => cases h
  all_goals
    obtain ⟨_, _, _, _, _, rfl, e⟩ := (decAMO_eq_ok hf).1 h
    exact encodeNat_of_operands_S e rfl

theorem encodeNat_of_decodeMajor24 {f : EFields} (hf : f.InRange) {i : Instr} (h : decodeMajor24 f = .ok i) :
    encodeNat i = some (f.toWord 36 f.minor) := by
  unfold decodeMajor24 at h
  generalize f.minor = minor at h ⊢
  split at h
  case h_1 =>
    obtain ⟨_, _, _, _, rfl, e⟩ := decCPY_eq_ok.1 h
    exact encodeNat_of_operands_E e rfl
  case h_2 =>
    obtain ⟨_, _, _, _, _, _, _, _, rfl, e⟩ := (decCPY2_eq_ok hf).1 h
    exact encodeNat_of_operands_E e rfl
  case h_3 =>
    obtain ⟨_, _, _, _, _, _, _, _, _, _, rfl, e⟩ := (decCPYX_eq_ok hf).1 h
    exact encodeNat_of_operands_E e rfl
  case h_7 | h_8 =>
    obtain ⟨_, _, rfl, e⟩ := decE2_eq_ok.1 h
    exact encodeNat_of_operands_E e rfl
  case h_9 => cases h
  all_goals
    obtain ⟨_, _, rfl, e⟩ := decBLK_eq_ok.1 h
    exact encodeNat_of_operands_E e rfl

theorem encodeNat_of_decodeMajor25 {f : EFields} {i : Instr} (h : decodeMajor25 f = .ok i) :
    encodeNat i = some (f.toWord 37 f.minor) := by
  unfold decodeMajor25 at h
  generalize f.minor = minor at h ⊢
  split at h
  case h_3 =>
    obtain ⟨_, _, rfl, e⟩ := decE2_eq_ok.1 h
    exact encodeNat_of_operands_E e rfl
  case h_5 =>
    obtain ⟨_, rfl, e⟩ := decQF_eq_ok.1 h
    exact encodeNat_of_operands_E e rfl
  case h_6 => cases h
  all_goals
    obtain ⟨_, rfl, e⟩ := decE1_eq_ok.1 h
    exact encodeNat_of_operands_E e rfl

theorem encodeNat_of_decodeMajor30 {f : YFields} (hf : f.InRange) {i : Instr} (h : decodeMajor30 f = .ok i) :
    encodeNat i = some (f.toWord 48 f.minor) := by
  unfold decodeMajor30 at h
  split at h
  case h_1 hm | h_2 hm | h_3 hm | h_4 hm =>
    obtain ⟨_, rfl, e⟩ := decFEN_eq_ok.1 h
    rw [hm]
    exact encodeNat_of_operands_Y e rfl
  case h_5 hm | h_6 hm | h_8 hm =>
    obtain ⟨_, _, rfl, e⟩ := decWM_eq_ok.1 h
    rw [hm]
    exact encodeNat_of_operands_Y e rfl
  case h_7 hm =>
    obtain ⟨_, _, _, rfl, e⟩ := decGL_eq_ok.1 h
    rw [hm]
    exact encodeNat_of_operands_Y e rfl
  case h_9 hm =>
    obtain ⟨_, rfl, e⟩ := decKP_eq_ok.1 h
    rw [hm]
    exact encodeNat_of_operands_Y e rfl
  case h_10 hm =>
    obtain ⟨rfl, e⟩ := decY0_eq_ok.1 h
    rw [hm]
    exact encodeNat_of_operands_Y e rfl
  case h_11 => exact encodeNat_of_decodeAnchor30 hf h

theorem encodeNat_of_decLAP {f : LapFields} (hf : f.InRange) {i : Instr} (h : decLAP f = .ok i) : encodeNat i = some f.toWord := by
  obtain ⟨_, _, _, _, _, _, _, rfl, rfl⟩ := (decLAP_eq_ok hf).1 h
  rfl

/-! ### Every point -/

/-- A word that decodes as one an Anchor may run is the word of what it decodes to. -/
theorem encodeNat_of_decodeAnchorPoint {w : Nat} (hw : w < 2 ^ 64) {i : Instr} (h : decodeAnchorPoint w = .ok i) : encodeNat i = some w := by
  unfold decodeAnchorPoint at h
  split at h
  case h_1 hm => exact (encodeNat_of_decodeAnchor01 h).trans (congrArg some (SFields.toWord_ofWord hw hm))
  case h_2 hm => exact (encodeNat_of_decodeAnchor02 (SFields.ofWord_inRange w) h).trans (congrArg some (SFields.toWord_ofWord hw hm))
  case h_3 hm => exact (encodeNat_of_decodeAnchor03 (SFields.ofWord_inRange w) h).trans (congrArg some (SFields.toWord_ofWord hw hm))
  case h_4 hm => exact (encodeNat_of_decodeAnchor04 h).trans (congrArg some (SFields.toWord_ofWord hw hm))
  case h_5 hm => exact (encodeNat_of_decodeAnchor05 h).trans (congrArg some (SFields.toWord_ofWord hw hm))
  case h_6 hm => exact (encodeNat_of_decodeAnchor06 h).trans (congrArg some (SFields.toWord_ofWord hw hm))
  case h_7 hm => exact (encodeNat_of_decodeAnchor07 h).trans (congrArg some (SFields.toWord_ofWord hw hm))
  case h_8 hm => exact (encodeNat_of_decodeAnchor08 (BFields.ofWord_inRange w) h).trans (congrArg some (BFields.toWord_ofWord hw hm))
  case h_9 hm => exact (encodeNat_of_decLAP (LapFields.ofWord_inRange w) h).trans (congrArg some (LapFields.toWord_ofWord hw hm))
  case h_10 hm => exact (encodeNat_of_decodeAnchor0A (BFields.ofWord_inRange w) h).trans (congrArg some (BFields.toWord_ofWord hw hm))
  case h_11 hm => exact (encodeNat_of_decodeAnchor10 (VFields.ofWord_inRange w) h).trans (congrArg some (VFields.toWord_ofWord hw hm))
  case h_12 hm => exact (encodeNat_of_decodeAnchor11 (VFields.ofWord_inRange w) h).trans (congrArg some (VFields.toWord_ofWord hw hm))
  case h_13 hm => exact (encodeNat_of_decodeAnchor12 (VFields.ofWord_inRange w) h).trans (congrArg some (VFields.toWord_ofWord hw hm))
  case h_14 hm => exact (encodeNat_of_decodeAnchor13 (VFields.ofWord_inRange w) h).trans (congrArg some (VFields.toWord_ofWord hw hm))
  case h_15 hm => exact (encodeNat_of_decodeAnchor14 (VFields.ofWord_inRange w) h).trans (congrArg some (VFields.toWord_ofWord hw hm))
  case h_16 hm => exact (encodeNat_of_decodeAnchor15 (VFields.ofWord_inRange w) h).trans (congrArg some (VFields.toWord_ofWord hw hm))
  case h_17 hm => exact (encodeNat_of_decodeAnchor16 (VFields.ofWord_inRange w) h).trans (congrArg some (VFields.toWord_ofWord hw hm))
  case h_18 hm => exact (encodeNat_of_decodeAnchor17 (VFields.ofWord_inRange w) h).trans (congrArg some (VFields.toWord_ofWord hw hm))
  case h_19 hm => exact (encodeNat_of_decodeAnchor18 (VFields.ofWord_inRange w) h).trans (congrArg some (VFields.toWord_ofWord hw hm))
  case h_20 hm => exact (encodeNat_of_decodeAnchor28 h).trans (congrArg some (MFields.toWord_ofWord hw hm))
  case h_21 hm => exact (encodeNat_of_decodeAnchor30 (YFields.ofWord_inRange w) h).trans (congrArg some (YFields.toWord_ofWord hw hm))
  case h_22 => cases h

/-- A word that decodes is the word of what it decodes to. -/
theorem encodeNat_of_decodePoint {w : Nat} (hw : w < 2 ^ 64) {i : Instr} (h : decodePoint w = .ok i) : encodeNat i = some w := by
  unfold decodePoint at h
  split at h
  case h_1 hm => exact (encodeNat_of_decodeMajor20 (VFields.ofWord_inRange w) h).trans (congrArg some (VFields.toWord_ofWord hw hm))
  case h_2 hm => exact (encodeNat_of_decodeMajor21 (SFields.ofWord_inRange w) h).trans (congrArg some (SFields.toWord_ofWord hw hm))
  case h_3 hm => exact (encodeNat_of_decodeMajor22 (SFields.ofWord_inRange w) h).trans (congrArg some (SFields.toWord_ofWord hw hm))
  case h_4 hm => exact (encodeNat_of_decodeMajor23 (SFields.ofWord_inRange w) h).trans (congrArg some (SFields.toWord_ofWord hw hm))
  case h_5 hm => exact (encodeNat_of_decodeMajor24 (EFields.ofWord_inRange w) h).trans (congrArg some (EFields.toWord_ofWord hw hm))
  case h_6 hm => exact (encodeNat_of_decodeMajor25 h).trans (congrArg some (EFields.toWord_ofWord hw hm))
  case h_7 hm => exact (encodeNat_of_decodeMajor30 (YFields.ofWord_inRange w) h).trans (congrArg some (YFields.toWord_ofWord hw hm))
  case h_8 => exact encodeNat_of_decodeAnchorPoint hw h

end Sys2Proof
end

section
/-! PROOFS. The word of an instruction decodes to it, with every operand at every value (R149 to R165). -/
namespace Sys2Proof

/-! ### The majors (R163) -/

section

variable {w : Nat}

theorem decodePoint_major01 (hm : w / 2 ^ 58 % 64 = 1) : decodePoint w = decodeAnchor01 (SFields.ofWord w) := by
  simp only [decodePoint, decodeAnchorPoint, hm]
theorem decodePoint_major02 (hm : w / 2 ^ 58 % 64 = 2) : decodePoint w = decodeAnchor02 (SFields.ofWord w) := by
  simp only [decodePoint, decodeAnchorPoint, hm]
theorem decodePoint_major03 (hm : w / 2 ^ 58 % 64 = 3) : decodePoint w = decodeAnchor03 (SFields.ofWord w) := by
  simp only [decodePoint, decodeAnchorPoint, hm]
theorem decodePoint_major04 (hm : w / 2 ^ 58 % 64 = 4) : decodePoint w = decodeAnchor04 (SFields.ofWord w) := by
  simp only [decodePoint, decodeAnchorPoint, hm]
theorem decodePoint_major05 (hm : w / 2 ^ 58 % 64 = 5) : decodePoint w = decodeAnchor05 (SFields.ofWord w) := by
  simp only [decodePoint, decodeAnchorPoint, hm]
theorem decodePoint_major06 (hm : w / 2 ^ 58 % 64 = 6) : decodePoint w = decodeAnchor06 (SFields.ofWord w) := by
  simp only [decodePoint, decodeAnchorPoint, hm]
theorem decodePoint_major07 (hm : w / 2 ^ 58 % 64 = 7) : decodePoint w = decodeAnchor07 (SFields.ofWord w) := by
  simp only [decodePoint, decodeAnchorPoint, hm]
theorem decodePoint_major08 (hm : w / 2 ^ 58 % 64 = 8) : decodePoint w = decodeAnchor08 (BFields.ofWord w) := by
  simp only [decodePoint, decodeAnchorPoint, hm]
theorem decodePoint_major0A (hm : w / 2 ^ 58 % 64 = 10) : decodePoint w = decodeAnchor0A (BFields.ofWord w) := by
  simp only [decodePoint, decodeAnchorPoint, hm]
theorem decodePoint_major10 (hm : w / 2 ^ 58 % 64 = 16) : decodePoint w = decodeAnchor10 (VFields.ofWord w) := by
  simp only [decodePoint, decodeAnchorPoint, hm]
theorem decodePoint_major11 (hm : w / 2 ^ 58 % 64 = 17) : decodePoint w = decodeAnchor11 (VFields.ofWord w) := by
  simp only [decodePoint, decodeAnchorPoint, hm]
theorem decodePoint_major12 (hm : w / 2 ^ 58 % 64 = 18) : decodePoint w = decodeAnchor12 (VFields.ofWord w) := by
  simp only [decodePoint, decodeAnchorPoint, hm]
theorem decodePoint_major13 (hm : w / 2 ^ 58 % 64 = 19) : decodePoint w = decodeAnchor13 (VFields.ofWord w) := by
  simp only [decodePoint, decodeAnchorPoint, hm]
theorem decodePoint_major14 (hm : w / 2 ^ 58 % 64 = 20) : decodePoint w = decodeAnchor14 (VFields.ofWord w) := by
  simp only [decodePoint, decodeAnchorPoint, hm]
theorem decodePoint_major15 (hm : w / 2 ^ 58 % 64 = 21) : decodePoint w = decodeAnchor15 (VFields.ofWord w) := by
  simp only [decodePoint, decodeAnchorPoint, hm]
theorem decodePoint_major16 (hm : w / 2 ^ 58 % 64 = 22) : decodePoint w = decodeAnchor16 (VFields.ofWord w) := by
  simp only [decodePoint, decodeAnchorPoint, hm]
theorem decodePoint_major17 (hm : w / 2 ^ 58 % 64 = 23) : decodePoint w = decodeAnchor17 (VFields.ofWord w) := by
  simp only [decodePoint, decodeAnchorPoint, hm]
theorem decodePoint_major18 (hm : w / 2 ^ 58 % 64 = 24) : decodePoint w = decodeAnchor18 (VFields.ofWord w) := by
  simp only [decodePoint, decodeAnchorPoint, hm]
theorem decodePoint_major20 (hm : w / 2 ^ 58 % 64 = 32) : decodePoint w = decodeMajor20 (VFields.ofWord w) := by
  simp only [decodePoint, hm]
theorem decodePoint_major21 (hm : w / 2 ^ 58 % 64 = 33) : decodePoint w = decodeMajor21 (SFields.ofWord w) := by
  simp only [decodePoint, hm]
theorem decodePoint_major22 (hm : w / 2 ^ 58 % 64 = 34) : decodePoint w = decodeMajor22 (SFields.ofWord w) := by
  simp only [decodePoint, hm]
theorem decodePoint_major23 (hm : w / 2 ^ 58 % 64 = 35) : decodePoint w = decodeMajor23 (SFields.ofWord w) := by
  simp only [decodePoint, hm]
theorem decodePoint_major24 (hm : w / 2 ^ 58 % 64 = 36) : decodePoint w = decodeMajor24 (EFields.ofWord w) := by
  simp only [decodePoint, hm]
theorem decodePoint_major25 (hm : w / 2 ^ 58 % 64 = 37) : decodePoint w = decodeMajor25 (EFields.ofWord w) := by
  simp only [decodePoint, hm]
theorem decodePoint_major28 (hm : w / 2 ^ 58 % 64 = 40) : decodePoint w = decodeAnchor28 (MFields.ofWord w) := by
  simp only [decodePoint, decodeAnchorPoint, hm]
theorem decodePoint_major30 (hm : w / 2 ^ 58 % 64 = 48) : decodePoint w = decodeMajor30 (YFields.ofWord w) := by
  simp only [decodePoint, hm]
theorem decodePoint_major09 (hm : w / 2 ^ 58 % 64 = 9) : decodePoint w = decLAP (LapFields.ofWord w) := by
  simp only [decodePoint, decodeAnchorPoint, hm]

end

/-! ### One point of each form -/

/-- The word of i, where it has one, decodes to i. -/
def Decodes (i : Instr) : Prop := ∀ w, encodeNat i = some w → w < 2 ^ 64 ∧ decodePoint w = .ok i

section

variable {i : Instr} {major minor : Nat}

theorem decodes_S {f : SFields} {dec : SFields → Except Reject Instr} (he : encodeNat i = some (f.toWord major minor))
    (hdec : ∀ {w}, w / 2 ^ 58 % 64 = major → decodePoint w = dec (SFields.ofWord w)) (hf : f.InRange)
    (hi : ({ f with minor := minor } : SFields).InRange → dec { f with minor := minor } = .ok i) (hmajor : major < 64 := by decide)
    (hminor : minor < 64 := by decide) : Decodes i := by
  obtain ⟨hlt, hm, hfields⟩ := Machine.SFields.ofWord_toWord hf.d hf.s1 hf.s2 hf.s3 hmajor hminor hf.imm
  have hm : f.toWord major minor / 2 ^ 58 % 64 = major := by rw [hm, Nat.mod_eq_of_lt hmajor]
  rintro w hw
  obtain rfl := Option.some.inj (he.symm.trans hw)
  have hr := SFields.ofWord_inRange (f.toWord major minor)
  rw [hfields] at hr
  exact ⟨hlt, by rw [hdec hm, hfields, hi hr]⟩

theorem decodes_B {f : BFields} {dec : BFields → Except Reject Instr} (he : encodeNat i = some (f.toWord major minor))
    (hdec : ∀ {w}, w / 2 ^ 58 % 64 = major → decodePoint w = dec (BFields.ofWord w)) (hf : f.InRange)
    (hi : ({ f with minor := minor } : BFields).InRange → dec { f with minor := minor } = .ok i) (hmajor : major < 64 := by decide)
    (hminor : minor < 16 := by decide) : Decodes i := by
  obtain ⟨hlt, hm, hfields⟩ := BFields.ofWord_toWord hf hmajor hminor
  rintro w hw
  obtain rfl := Option.some.inj (he.symm.trans hw)
  have hr := BFields.ofWord_inRange (f.toWord major minor)
  rw [hfields] at hr
  exact ⟨hlt, by rw [hdec hm, hfields, hi hr]⟩

theorem decodes_V {f : VFields} {dec : VFields → Except Reject Instr} (he : encodeNat i = some (f.toWord major minor))
    (hdec : ∀ {w}, w / 2 ^ 58 % 64 = major → decodePoint w = dec (VFields.ofWord w)) (hf : f.InRange)
    (hi : ({ f with minor := minor } : VFields).InRange → dec { f with minor := minor } = .ok i) (hmajor : major < 64 := by decide)
    (hminor : minor < 512 := by decide) : Decodes i := by
  obtain ⟨hlt, hm, hfields⟩ := VFields.ofWord_toWord hf hmajor hminor
  rintro w hw
  obtain rfl := Option.some.inj (he.symm.trans hw)
  have hr := VFields.ofWord_inRange (f.toWord major minor)
  rw [hfields] at hr
  exact ⟨hlt, by rw [hdec hm, hfields, hi hr]⟩

theorem decodes_E {f : EFields} {dec : EFields → Except Reject Instr} (he : encodeNat i = some (f.toWord major minor))
    (hdec : ∀ {w}, w / 2 ^ 58 % 64 = major → decodePoint w = dec (EFields.ofWord w)) (hf : f.InRange)
    (hi : ({ f with minor := minor } : EFields).InRange → dec { f with minor := minor } = .ok i) (hmajor : major < 64 := by decide)
    (hminor : minor < 16 := by decide) : Decodes i := by
  obtain ⟨hlt, hm, hfields⟩ := EFields.ofWord_toWord hf hmajor hminor
  rintro w hw
  obtain rfl := Option.some.inj (he.symm.trans hw)
  have hr := EFields.ofWord_inRange (f.toWord major minor)
  rw [hfields] at hr
  exact ⟨hlt, by rw [hdec hm, hfields, hi hr]⟩

theorem decodes_M {f : MFields} {dec : MFields → Except Reject Instr} (he : encodeNat i = some (f.toWord major minor))
    (hdec : ∀ {w}, w / 2 ^ 58 % 64 = major → decodePoint w = dec (MFields.ofWord w)) (hf : f.InRange)
    (hi : ({ f with minor := minor } : MFields).InRange → dec { f with minor := minor } = .ok i) (hmajor : major < 64 := by decide)
    (hminor : minor < 16 := by decide) : Decodes i := by
  obtain ⟨hlt, hm, hfields⟩ := MFields.ofWord_toWord hf hmajor hminor
  rintro w hw
  obtain rfl := Option.some.inj (he.symm.trans hw)
  have hr := MFields.ofWord_inRange (f.toWord major minor)
  rw [hfields] at hr
  exact ⟨hlt, by rw [hdec hm, hfields, hi hr]⟩

theorem decodes_Y {f : YFields} {dec : YFields → Except Reject Instr} (he : encodeNat i = some (f.toWord major minor))
    (hdec : ∀ {w}, w / 2 ^ 58 % 64 = major → decodePoint w = dec (YFields.ofWord w)) (hf : f.InRange)
    (hi : ({ f with minor := minor } : YFields).InRange → dec { f with minor := minor } = .ok i) (hmajor : major < 64 := by decide)
    (hminor : minor < 32 := by decide) : Decodes i := by
  obtain ⟨hlt, hm, hfields⟩ := YFields.ofWord_toWord hf hmajor hminor
  rintro w hw
  obtain rfl := Option.some.inj (he.symm.trans hw)
  have hr := YFields.ofWord_inRange (f.toWord major minor)
  rw [hfields] at hr
  exact ⟨hlt, by rw [hdec hm, hfields, hi hr]⟩

end

/-! ### Every instruction -/

/-- By cases on the instruction: the points of one shape and one major have one argument. -/
theorem decodes (i : Instr) : Decodes i := by
  cases i with
  | add | sub | mul | mulh | mulhn | div | divn | rem | remn | and | or | xor | andn | shl | shr | sra | rot | min | max | minn | maxn | slt | sltn |
    seq =>
    exact decodes_S rfl decodePoint_major01 (encRRR_inRange ..) (fun _ => decRRR_eq_ok.2 ⟨_, _, _, rfl, rfl⟩)
  | cmov =>
    exact decodes_S rfl decodePoint_major01 (encRRRR_inRange ..) (fun _ => decRRRR_eq_ok.2 ⟨_, _, _, _, rfl, rfl⟩)
  | clz | ctz | popc =>
    exact decodes_S rfl decodePoint_major01 (encRR_inRange ..) (fun _ => decRR_eq_ok.2 ⟨_, _, rfl, rfl⟩)
  | addImm | subImm | mulImm | mulhImm | mulhnImm | divImm | divnImm | remImm | remnImm | andImm | orImm | xorImm | andnImm | minImm | maxImm |
    minnImm | maxnImm | sltImm | sltnImm | seqImm =>
    exact decodes_S rfl decodePoint_major02 (encRRI_inRange ..) (fun hf => (decRRI_eq_ok hf).2 ⟨_, _, _, rfl, rfl⟩)
  | shlImm | shrImm | sraImm | rotImm =>
    exact decodes_S rfl decodePoint_major02 (encRRSH_inRange ..) (fun _ => decRRSH_eq_ok.2 ⟨_, _, _, rfl, rfl⟩)
  | li | lih =>
    exact decodes_S rfl decodePoint_major03 (encRI_inRange ..) (fun hf => (decRI_eq_ok hf).2 ⟨_, _, rfl, rfl⟩)
  | fadd | fsub | fmul | fdiv | fsqrt | fmin | fmax | fcmpEq | fcmpLt | fcmpLe | fcmpUn =>
    exact decodes_S rfl decodePoint_major04 (encF3_inRange ..) (fun _ => decF3_eq_ok.2 ⟨_, _, _, _, rfl, rfl⟩)
  | ffma =>
    exact decodes_S rfl decodePoint_major04 (encF4_inRange ..) (fun _ => decF4_eq_ok.2 ⟨_, _, _, _, _, rfl, rfl⟩)
  | fcvt =>
    exact decodes_S rfl decodePoint_major04 (encFCVT_inRange ..) (fun _ => decFCVT_eq_ok.2 ⟨_, _, _, _, _, rfl, rfl⟩)
  | getc =>
    exact decodes_S rfl decodePoint_major05 (encGETC_inRange ..) (fun _ => decGETC_eq_ok.2 ⟨_, _, rfl, rfl⟩)
  | setc =>
    exact decodes_S rfl decodePoint_major05 (encSETC_inRange ..) (fun _ => decSETC_eq_ok.2 ⟨_, _, rfl, rfl⟩)
  | nop =>
    exact decodes_S rfl decodePoint_major05 (encNONE_S_inRange ..) (fun _ => decNONE_S_eq_ok.2 ⟨rfl, rfl⟩)
  | setvl =>
    exact decodes_S rfl decodePoint_major06 (encSETVL_inRange ..) (fun _ => decSETVL_eq_ok.2 ⟨_, _, _, rfl, rfl⟩)
  | setvlm =>
    exact decodes_S rfl decodePoint_major06 (encSETVLM_inRange ..) (fun _ => decSETVLM_eq_ok.2 ⟨_, _, rfl, rfl⟩)
  | qpush =>
    exact decodes_S rfl decodePoint_major07 (encQPUSH_inRange ..) (fun _ => decQPUSH_eq_ok.2 ⟨_, _, rfl, rfl⟩)
  | qpop =>
    exact decodes_S rfl decodePoint_major07 (encQPOP_inRange ..) (fun _ => decQPOP_eq_ok.2 ⟨_, _, rfl, rfl⟩)
  | beq | bne | blt | bge | bltn | bgen =>
    exact decodes_B rfl decodePoint_major08 (encBR_inRange ..) (fun hf => (decBR_eq_ok hf).2 ⟨_, _, _, rfl, rfl⟩)
  | jal =>
    exact decodes_B rfl decodePoint_major08 (encJAL_inRange ..) (fun hf => (decJAL_eq_ok hf).2 ⟨_, _, rfl, rfl⟩)
  | jalr =>
    exact decodes_B rfl decodePoint_major08 (encJALR_inRange ..) (fun hf => (decJALR_eq_ok hf).2 ⟨_, _, _, rfl, rfl⟩)
  | bmskAny | bmskNone =>
    exact decodes_B rfl decodePoint_major08 (encBMSK_inRange ..) (fun hf => (decBMSK_eq_ok hf).2 ⟨_, _, rfl, rfl⟩)
  | lap =>
    rintro w ⟨⟩
    obtain ⟨hlt, hm, hfields⟩ := LapFields.ofWord_toWord (encLAP_inRange ..)
    exact ⟨hlt, by rw [decodePoint_major09 hm, hfields]; exact (decLAP_eq_ok (encLAP_inRange ..)).2 ⟨_, _, _, _, _, _, _, rfl, rfl⟩⟩
  | vfetch | tfetch =>
    exact decodes_B rfl decodePoint_major0A (encFETCH_inRange ..) (fun hf => (decFETCH_eq_ok hf).2 ⟨_, _, rfl, rfl⟩)
  | tstop =>
    exact decodes_B rfl decodePoint_major0A (encTSTOP_inRange ..) (fun _ => decTSTOP_eq_ok.2 ⟨_, rfl, rfl⟩)
  | vloop =>
    exact decodes_B rfl decodePoint_major0A (encVLOOP_inRange ..) (fun _ => decVLOOP_eq_ok.2 ⟨_, rfl, rfl⟩)
  | vloopS =>
    exact decodes_B rfl decodePoint_major0A (encVLOOPS_inRange ..) (fun _ => decVLOOPS_eq_ok.2 ⟨_, _, _, rfl, rfl⟩)
  | vadd | vsub | vmul | vmulh | vdiv | vmin | vmax | vand | vor | vxor | vshl | vshr | vsrr | vadds | vsubs | vsel =>
    exact decodes_V rfl decodePoint_major10 (encV2_inRange ..) (fun hf => (decV2_eq_ok hf).2 ⟨_, _, _, _, rfl, rfl⟩)
  | vfma | vfms | vmac2 =>
    exact decodes_V rfl decodePoint_major10 (encV3_inRange ..) (fun hf => (decV3_eq_ok hf).2 ⟨_, _, _, _, _, rfl, rfl⟩)
  | vsqrt | vrcp | vrsq | vexp2 | vlog2 | vabs | vneg | vnot =>
    exact decodes_V rfl decodePoint_major10 (encV1_inRange ..) (fun hf => (decV1_eq_ok hf).2 ⟨_, _, _, rfl, rfl⟩)
  | vcmpEq | vcmpNe | vcmpLt | vcmpLe | vcmpGt | vcmpGe | vcmpUn | vcmpOd =>
    exact decodes_V rfl decodePoint_major10 (encVCMP_inRange ..) (fun hf => (decVCMP_eq_ok hf).2 ⟨_, _, _, _, rfl, rfl⟩)
  | vaddScalar | vsubScalar | vmulScalar | vmulhScalar | vdivScalar | vminScalar | vmaxScalar | vandScalar | vorScalar | vxorScalar | vshlScalar |
    vshrScalar | vsrrScalar | vaddsScalar | vsubsScalar | vselScalar =>
    exact decodes_V rfl decodePoint_major11 (encV2S_inRange ..) (fun hf => (decV2S_eq_ok hf).2 ⟨_, _, _, _, rfl, rfl⟩)
  | vfmaScalar | vfmsScalar | vmac2Scalar =>
    exact decodes_V rfl decodePoint_major11 (encV3S_inRange ..) (fun hf => (decV3S_eq_ok hf).2 ⟨_, _, _, _, _, rfl, rfl⟩)
  | vcmpEqScalar | vcmpNeScalar | vcmpLtScalar | vcmpLeScalar | vcmpGtScalar | vcmpGeScalar | vcmpUnScalar | vcmpOdScalar =>
    exact decodes_V rfl decodePoint_major11 (encVCMPS_inRange ..) (fun hf => (decVCMPS_eq_ok hf).2 ⟨_, _, _, _, rfl, rfl⟩)
  | vaddImm | vsubImm | vmulImm | vminImm | vmaxImm | vandImm | vorImm | vxorImm | vshlImm | vshrImm | vsrrImm | vaddsImm | vsubsImm =>
    exact decodes_V rfl decodePoint_major12 (encV2I_inRange ..) (fun hf => (decV2I_eq_ok hf).2 ⟨_, _, _, _, rfl, rfl⟩)
  | vcmpEqImm | vcmpNeImm | vcmpLtImm | vcmpLeImm | vcmpGtImm | vcmpGeImm =>
    exact decodes_V rfl decodePoint_major12 (encVCMPI_inRange ..) (fun hf => (decVCMPI_eq_ok hf).2 ⟨_, _, _, _, rfl, rfl⟩)
  | vtag | vretag =>
    exact decodes_V rfl decodePoint_major13 (encVTAG_inRange ..) (fun hf => (decVTAG_eq_ok hf).2 ⟨_, _, _, rfl, rfl⟩)
  | vsplat =>
    exact decodes_V rfl decodePoint_major13 (encVSPLAT_inRange ..) (fun hf => (decVSPLAT_eq_ok hf).2 ⟨_, _, _, rfl, rfl⟩)
  | vpush =>
    exact decodes_V rfl decodePoint_major13 (encVPUSH_inRange ..) (fun hf => (decVPUSH_eq_ok hf).2 ⟨_, _, _, rfl, rfl⟩)
  | vcvt | vcvtS =>
    exact decodes_V rfl decodePoint_major14 (encVCVT_inRange ..) (fun hf => (decVCVT_eq_ok hf).2 ⟨_, _, _, _, rfl, rfl⟩)
  | vqcvt =>
    exact decodes_V rfl decodePoint_major14 (encVQCVT_inRange ..) (fun hf => (decVQCVT_eq_ok hf).2 ⟨_, _, _, _, _, _, rfl, rfl⟩)
  | vdq =>
    exact decodes_V rfl decodePoint_major14 (encVDQ_inRange ..) (fun hf => (decVDQ_eq_ok hf).2 ⟨_, _, _, _, _, _, rfl, rfl⟩)
  | vbfly =>
    exact decodes_V rfl decodePoint_major14 (encVBFLY_inRange ..) (fun hf => (decVBFLY_eq_ok hf).2 ⟨_, _, _, _, rfl, rfl⟩)
  | vbflyF =>
    exact decodes_V rfl decodePoint_major14 (encVBFLYF_inRange ..) (fun hf => (decVBFLYF_eq_ok hf).2 ⟨_, _, _, rfl, rfl⟩)
  | vrand =>
    exact decodes_V rfl decodePoint_major14 (encVRAND_inRange ..) (fun hf => (decVRAND_eq_ok hf).2 ⟨_, _, rfl, rfl⟩)
  | vutf8 =>
    exact decodes_V rfl decodePoint_major14 (encVUTF8_inRange ..) (fun hf => (decVUTF8_eq_ok hf).2 ⟨_, _, _, _, _, rfl, rfl⟩)
  | mand | mor | mxor =>
    exact decodes_V rfl decodePoint_major15 (encMM_inRange ..) (fun hf => (decMM_eq_ok hf).2 ⟨_, _, _, _, rfl, rfl⟩)
  | mnot =>
    exact decodes_V rfl decodePoint_major15 (encMNOT_inRange ..) (fun hf => (decMNOT_eq_ok hf).2 ⟨_, _, _, rfl, rfl⟩)
  | mset =>
    exact decodes_V rfl decodePoint_major15 (encMSET_inRange ..) (fun hf => (decMSET_eq_ok hf).2 ⟨_, _, _, rfl, rfl⟩)
  | vslideup | vslidedn =>
    exact decodes_V rfl decodePoint_major16 (encSLIDE_inRange ..) (fun hf => (decSLIDE_eq_ok hf).2 ⟨_, _, _, _, _, rfl, rfl⟩)
  | vslideupImm | vslidednImm =>
    exact decodes_V rfl decodePoint_major16 (encSLIDEI_inRange ..) (fun hf => (decSLIDEI_eq_ok hf).2 ⟨_, _, _, _, _, rfl, rfl⟩)
  | vrgather =>
    exact decodes_V rfl decodePoint_major16 (encV2_inRange ..) (fun hf => (decV2_eq_ok hf).2 ⟨_, _, _, _, rfl, rfl⟩)
  | vrgather2 =>
    exact decodes_V rfl decodePoint_major16 (encV3_inRange ..) (fun hf => (decV3_eq_ok hf).2 ⟨_, _, _, _, _, rfl, rfl⟩)
  | vcompress | vexpand =>
    exact decodes_V rfl decodePoint_major16 (encV1_inRange ..) (fun hf => (decV1_eq_ok hf).2 ⟨_, _, _, rfl, rfl⟩)
  | viota =>
    exact decodes_V rfl decodePoint_major16 (encVIOTA_inRange ..) (fun hf => (decVIOTA_eq_ok hf).2 ⟨_, _, _, rfl, rfl⟩)
  | vextr =>
    exact decodes_V rfl decodePoint_major16 (encVEXTR_inRange ..) (fun hf => (decVEXTR_eq_ok hf).2 ⟨_, _, _, _, rfl, rfl⟩)
  | vextrImm =>
    exact decodes_V rfl decodePoint_major16 (encVEXTRI_inRange ..) (fun hf => (decVEXTRI_eq_ok hf).2 ⟨_, _, _, _, rfl, rfl⟩)
  | vins =>
    exact decodes_V rfl decodePoint_major16 (encVINS_inRange ..) (fun hf => (decVINS_eq_ok hf).2 ⟨_, _, _, _, rfl, rfl⟩)
  | vinsImm =>
    exact decodes_V rfl decodePoint_major16 (encVINSI_inRange ..) (fun hf => (decVINSI_eq_ok hf).2 ⟨_, _, _, _, rfl, rfl⟩)
  | vredsum | vredmax | vredmin | vredbitAnd | vredbitOr | vredbitXor =>
    exact decodes_V rfl decodePoint_major17 (encVRED_inRange ..) (fun hf => (decVRED_eq_ok hf).2 ⟨_, _, _, _, _, rfl, rfl⟩)
  | vscanSum | vscanMax | vscanMin | vscanSumX | vscanMaxX | vscanMinX =>
    exact decodes_V rfl decodePoint_major17 (encVSCAN_inRange ..) (fun hf => (decVSCAN_eq_ok hf).2 ⟨_, _, _, _, _, rfl, rfl⟩)
  | vargmax | vargmin =>
    exact decodes_V rfl decodePoint_major17 (encVARG_inRange ..) (fun hf => (decVARG_eq_ok hf).2 ⟨_, _, _, _, rfl, rfl⟩)
  | mpopc | mfirst =>
    exact decodes_V rfl decodePoint_major17 (encMCNT_inRange ..) (fun hf => (decMCNT_eq_ok hf).2 ⟨_, _, _, _, rfl, rfl⟩)
  | kset =>
    exact decodes_V rfl decodePoint_major18 (encKSET_inRange ..) (fun hf => (decKSET_eq_ok hf).2 ⟨_, _, _, rfl, rfl⟩)
  | kget =>
    exact decodes_V rfl decodePoint_major18 (encKGET_inRange ..) (fun hf => (decKGET_eq_ok hf).2 ⟨_, _, _, rfl, rfl⟩)
  | kupSum | kupMax | kupMin | kdownSum | kdownMax | kdownMin | kbcast =>
    exact decodes_V rfl decodePoint_major18 (encKVAL_inRange ..) (fun hf => (decKVAL_eq_ok hf).2 ⟨_, _, _, _, _, rfl, rfl⟩)
  | kdepth | kroot =>
    exact decodes_V rfl decodePoint_major18 (encKLNK_inRange ..) (fun hf => (decKLNK_eq_ok hf).2 ⟨_, _, _, _, rfl, rfl⟩)
  | kanc =>
    exact decodes_V rfl decodePoint_major18 (encKANC_inRange ..) (fun hf => (decKANC_eq_ok hf).2 ⟨_, _, _, _, _, rfl, rfl⟩)
  | kancIs =>
    exact decodes_V rfl decodePoint_major18 (encKANCIS_inRange ..) (fun hf => (decKANCIS_eq_ok hf).2 ⟨_, _, _, _, _, rfl, rfl⟩)
  | kcontract =>
    exact decodes_V rfl decodePoint_major18 (encKCON_inRange ..) (fun hf => (decKCON_eq_ok hf).2 ⟨_, _, _, _, rfl, rfl⟩)
  | kcheck =>
    exact decodes_V rfl decodePoint_major18 (encKCHK_inRange ..) (fun hf => (decKCHK_eq_ok hf).2 ⟨_, _, _, rfl, rfl⟩)
  | vld =>
    exact decodes_V rfl decodePoint_major20 (encVLD_inRange ..) (fun hf => (decVLD_eq_ok hf).2 ⟨_, _, _, _, rfl, rfl⟩)
  | vlds =>
    exact decodes_V rfl decodePoint_major20 (encVLDS_inRange ..) (fun _ => decVLDS_eq_ok.2 ⟨_, _, _, _, rfl, rfl⟩)
  | vldx =>
    exact decodes_V rfl decodePoint_major20 (encVLDX_inRange ..) (fun _ => decVLDX_eq_ok.2 ⟨_, _, _, _, _, rfl, rfl⟩)
  | vldff =>
    exact decodes_V rfl decodePoint_major20 (encVLDFF_inRange ..) (fun hf => (decVLDFF_eq_ok hf).2 ⟨_, _, _, _, _, rfl, rfl⟩)
  | vst =>
    exact decodes_V rfl decodePoint_major20 (encVST_inRange ..) (fun hf => (decVST_eq_ok hf).2 ⟨_, _, _, _, rfl, rfl⟩)
  | vsts =>
    exact decodes_V rfl decodePoint_major20 (encVSTS_inRange ..) (fun _ => decVSTS_eq_ok.2 ⟨_, _, _, _, rfl, rfl⟩)
  | vstx =>
    exact decodes_V rfl decodePoint_major20 (encVSTX_inRange ..) (fun _ => decVSTX_eq_ok.2 ⟨_, _, _, _, _, rfl, rfl⟩)
  | vldw | vfil =>
    exact decodes_V rfl decodePoint_major20 (encIMGL_inRange ..) (fun hf => (decIMGL_eq_ok hf).2 ⟨_, _, _, rfl, rfl⟩)
  | vstw | vspl =>
    exact decodes_V rfl decodePoint_major20 (encIMGS_inRange ..) (fun hf => (decIMGS_eq_ok hf).2 ⟨_, _, _, rfl, rfl⟩)
  | vamo =>
    exact decodes_V rfl decodePoint_major20 (encVAMO_inRange ..) (fun hf => (decVAMO_eq_ok hf).2 ⟨_, _, _, _, _, _, _, rfl, rfl⟩)
  | ldB | ldH | ldW | ldD | ldBn | ldHn | ldWn =>
    exact decodes_S rfl decodePoint_major21 (encLD_inRange ..) (fun hf => (decLD_eq_ok hf).2 ⟨_, _, _, _, rfl, rfl⟩)
  | stB | stH | stW | stD =>
    exact decodes_S rfl decodePoint_major22 (encLD_inRange ..) (fun hf => (decLD_eq_ok hf).2 ⟨_, _, _, _, rfl, rfl⟩)
  | amoaddW | amoaddD | amoswapW | amoswapD | amocasW | amocasD | amominW | amominD | amomaxW | amomaxD | amoandW | amoandD | amoorW | amoorD |
    amoxorW | amoxorD | amominWn | amominDn | amomaxWn | amomaxDn =>
    exact decodes_S rfl decodePoint_major23 (encAMO_inRange ..) (fun hf => (decAMO_eq_ok hf).2 ⟨_, _, _, _, _, rfl, rfl⟩)
  | rsadd | rsfin =>
    exact decodes_S rfl decodePoint_major23 (encLD_inRange ..) (fun hf => (decLD_eq_ok hf).2 ⟨_, _, _, _, rfl, rfl⟩)
  | cpy =>
    exact decodes_E rfl decodePoint_major24 (encCPY_inRange ..) (fun _ => decCPY_eq_ok.2 ⟨_, _, _, _, rfl, rfl⟩)
  | cpy2 =>
    exact decodes_E rfl decodePoint_major24 (encCPY2_inRange ..) (fun hf => (decCPY2_eq_ok hf).2 ⟨_, _, _, _, _, _, _, _, rfl, rfl⟩)
  | cpyx =>
    exact decodes_E rfl decodePoint_major24 (encCPYX_inRange ..) (fun hf => (decCPYX_eq_ok hf).2 ⟨_, _, _, _, _, _, _, _, _, _, rfl, rfl⟩)
  | pftopk | pfscan | seam =>
    exact decodes_E rfl decodePoint_major24 (encBLK_inRange ..) (fun _ => decBLK_eq_ok.2 ⟨_, _, rfl, rfl⟩)
  | fcinv | fcwb =>
    exact decodes_E rfl decodePoint_major24 (encE2_inRange ..) (fun _ => decE2_eq_ok.2 ⟨_, _, rfl, rfl⟩)
  | twany | twall | tclr =>
    exact decodes_E rfl decodePoint_major25 (encE1_inRange ..) (fun _ => decE1_eq_ok.2 ⟨_, rfl, rfl⟩)
  | tfirst =>
    exact decodes_E rfl decodePoint_major25 (encE2_inRange ..) (fun _ => decE2_eq_ok.2 ⟨_, _, rfl, rfl⟩)
  | qfence =>
    exact decodes_E rfl decodePoint_major25 (encQF_inRange ..) (fun _ => decQF_eq_ok.2 ⟨_, rfl, rfl⟩)
  | settl =>
    exact decodes_M rfl decodePoint_major28 (encC3_inRange ..) (fun _ => decC3_eq_ok.2 ⟨_, _, _, rfl, rfl⟩)
  | mclaim | mrel =>
    exact decodes_M rfl decodePoint_major28 (encM0_inRange ..) (fun _ => decM0_eq_ok.2 ⟨rfl, rfl⟩)
  | mzero =>
    exact decodes_M rfl decodePoint_major28 (encMT_inRange ..) (fun _ => decMT_eq_ok.2 ⟨_, rfl, rfl⟩)
  | mstageA | mstageB =>
    exact decodes_M rfl decodePoint_major28 (encSTG_inRange ..) (fun _ => decSTG_eq_ok.2 ⟨_, _, _, rfl, rfl⟩)
  | mma =>
    exact decodes_M rfl decodePoint_major28 (encMMA_inRange ..) (fun _ => decMMA_eq_ok.2 ⟨_, _, _, rfl, rfl⟩)
  | mldt =>
    exact decodes_M rfl decodePoint_major28 (encMLDT_inRange ..) (fun _ => decMLDT_eq_ok.2 ⟨_, _, _, rfl, rfl⟩)
  | mstt =>
    exact decodes_M rfl decodePoint_major28 (encMSTT_inRange ..) (fun _ => decMSTT_eq_ok.2 ⟨_, _, rfl, rfl⟩)
  | mtov =>
    exact decodes_M rfl decodePoint_major28 (encMTOV_inRange ..) (fun _ => decMTOV_eq_ok.2 ⟨_, _, _, rfl, rfl⟩)
  | fenceSv | fenceVs | fenceVv | fenceAll =>
    exact decodes_Y rfl decodePoint_major30 (encFEN_inRange ..) (fun _ => decFEN_eq_ok.2 ⟨_, rfl, rfl⟩)
  | gbar | yield | vrel | hexit | eret | ktlbiAll =>
    exact decodes_Y rfl decodePoint_major30 (encY0_inRange ..) (fun _ => decY0_eq_ok.2 ⟨rfl, rfl⟩)
  | waitmEq | waitmNe | ktlbiVa =>
    exact decodes_Y rfl decodePoint_major30 (encWM_inRange ..) (fun _ => decWM_eq_ok.2 ⟨_, _, rfl, rfl⟩)
  | glaunch =>
    exact decodes_Y rfl decodePoint_major30 (encGL_inRange ..) (fun _ => decGL_eq_ok.2 ⟨_, _, _, rfl, rfl⟩)
  | trap | brk | hcall =>
    exact decodes_Y rfl decodePoint_major30 (encIMM20_inRange ..) (fun hf => (decIMM20_eq_ok hf).2 ⟨_, rfl, rfl⟩)
  | sgetc =>
    exact decodes_Y rfl decodePoint_major30 (encSG_inRange ..) (fun _ => decSG_eq_ok.2 ⟨_, _, rfl, rfl⟩)
  | ssetc =>
    exact decodes_Y rfl decodePoint_major30 (encSS_inRange ..) (fun _ => decSS_eq_ok.2 ⟨_, _, rfl, rfl⟩)
  | ktlbiPart =>
    exact decodes_Y rfl decodePoint_major30 (encKP_inRange ..) (fun _ => decKP_eq_ok.2 ⟨_, rfl, rfl⟩)
  | viqCommit | vfetchPass | matrixQueuePerform | mclaimGrant | vectorLoadDelivery | engineCommandStart | shuttleComplete | photoFinishComplete |
    seamComplete | cacheOpComplete | rsaddRenormalise | dirtyLineWriteback | queueDeadlockTrap | gbarComplete | waitmWake | waitmTimeout | hartRetire
    | launchPacketWrite | qcfgWrite | pquantWrite | headPacketCheck | headWaitRecheck | starterRound | preemptionStart | preemptDeadlineExpiry |
    saveComplete | hartResume | gforcePreempt | gforceEnd | tlbinvPage | tlbinvPartition | tlbinvComplete | replayRetry | replayDecline | fqptrWrite |
    priResponse | hostDeviceWrite | hostDeviceRead | hostAtomicop | peerRequest | errorDetected | recoveryComplete | fatalError | dumpComplete |
    thermalTrip | thermalThrottle | plimitWrite | pshapeWrite | fqbaseWrite | elbaseWrite | telemetrySnapshot | telemetrySnapshotDone |
    attestationRequest | attestationDone | firmwareBoot | vfFunctionLevelReset | pfFunctionLevelReset | registerWrite | accessPerformed |
    farCacheLineEviction | powerCapThrottle | powerLoss | trappedHartResume => nofun

end Sys2Proof
end

section
/-! PROOFS. Decoding and encoding agree (R147 to R166); and words written out from the spec. -/
namespace Sys2Proof

theorem decodeWord_eq_ok {w : Word} {i : Instr} : decodeWord w = .ok i ↔ decodePoint w.toNat = .ok i ∧ i.wf = true := by
  simp only [decodeWord, bind_eq_ok, ite_eq_ok, Except.ok.injEq]
  constructor
  · rintro ⟨j, hj, hwf, rfl⟩
    exact ⟨hj, hwf⟩
  · rintro ⟨hi, hwf⟩
    exact ⟨i, hi, hwf, rfl⟩

theorem encode_eq_some {i : Instr} {w : Word} : encode i = some w ↔ encodeNat i = some w.toNat := by
  simp only [encode, Option.map_eq_some_iff]
  constructor
  · rintro ⟨n, hn, rfl⟩
    rw [hn, BitVec.toNat_ofNat, Nat.mod_eq_of_lt (decodes i n hn).1]
  · intro h
    exact ⟨w.toNat, h, by rw [BitVec.ofNat_toNat, BitVec.setWidth_eq]⟩

/-- Settles O56: every point's word is read back by the decoder of its shape, and a word that a shape's decoder takes holds nothing but the
operands that the shape's encoder writes. -/
theorem decodeAndEncodeAgree : Obligations.DecodeAndEncodeAgree := by
  unfold Obligations.DecodeAndEncodeAgree
  refine ⟨fun i w hwf he => ?_, fun i w hd => ?_⟩
  · exact decodeWord_eq_ok.2 ⟨(decodes i _ (encode_eq_some.1 he)).2, hwf⟩
  · obtain ⟨hpoint, hwf⟩ := decodeWord_eq_ok.1 hd
    exact ⟨hwf, encode_eq_some.2 (encodeNat_of_decodePoint w.isLt hpoint)⟩

/-- Settles O60: by evaluation of the decoder on each word. -/
theorem someWordsDecode : Obligations.SomeWordsDecode := by
  unfold Obligations.SomeWordsDecode
  decide +kernel

end Sys2Proof
end

section
/-! PROOFS. Replays and the answers to page requests (R145, R233, R396, R400). -/
namespace Sys2Proof.Machine

open Sys2Proof

/-! ### Who holds a token -/

theorem waiterOf_none {s : State} {tok : BitVec 32} (hw : ∀ w ∈ s.waiters, w.1 ≠ tok) (p : Fin 8) : waiterOf s p tok = none := by
  simp only [waiterOf, Option.map_eq_none_iff, List.find?_eq_none]
  intro w hmem
  simp [hw w hmem]

theorem forgetToken_only {s : State} {tok : BitVec 32} {w : Waiter} (hw : s.waiters = [(tok, w)]) :
    forgetToken s tok = { s with waiters := [] } := by
  simp [forgetToken, hw]

/-- Forgetting some of what waits changes nothing where nothing waits. -/
theorem filter_waiting_none {s : State} (hw : s.waiters = []) (hr : s.requests = []) (f : BitVec 32 × Waiter → Bool) (g : PageRequest → Bool) :
    { s with waiters := s.waiters.filter f, requests := s.requests.filter g } = s := by
  obtain ⟨⟩ := s
  simp_all

section

variable {s : State} {i : Nat} {h : Hart} (hi : s.harts[i]? = some h) {p : Fin 8} (tok : BitVec 32) {code : BitVec 8} (va : Word)
include hi

theorem waiterOf_only {u : ExecUnit} (hp : h.part = p) (hw : s.waiters = [(tok, .thread i u code va)]) :
    waiterOf s p tok = some (.thread i u code va) := by
  simp [waiterOf, hw, Waiter.part, hi, hp]

/-! ### A waiting thread goes on, or takes its trap -/

/-- A thread that waits goes on: it holds the token no more. -/
theorem retryWaiter_thread (u : ExecUnit) :
    retryWaiter s tok (.thread i u code va) = .next { s with harts := s.harts.set i (dropToken h tok) } := by
  rw [retryWaiter, modHart, modify_of_getElem? hi]

/-- A declined access of a Pacer, where nothing else waits, ends as its trap: at the address for a fetch, at the instruction for an access of
data. -/
theorem declineWaiter_pacer (hw : s.waiters = []) (hr : s.requests = []) (hc : code ≠ 0) :
    declineWaiter s tok (.thread i .pacer code va) = deliverTrap { s with
      harts := s.harts.set i { h with pacer := { h.pacer with th := { h.pacer.th with tokens := [] } } } } i
      { code := code, thread := .pacer, iaddr := if code = 0x06 then va else h.pacer.th.pc, faddr := va } := by
  have hcode : (code == 0) = false := beq_false_of_ne hc
  simp only [declineWaiter, declineThread, filter_waiting_none hw hr, hi, hcode]
  by_cases hfetch : code = 0x06 <;> simp [hfetch, setHart, ExecUnit.thread, Hart.th]

end

/-! ### REPLAY and PRI responses -/

section

variable {s : State} {p : Fin 8} {tok : BitVec 32}

theorem exec_replayRetry (hrec : s.mgmt.recov = false) : exec (.replayRetry .pf p tok) s = replayRetry s p tok := by
  change execReplayRetry .pf p tok s = _
  simp [execReplayRetry, Fn.drives, hrec]

theorem exec_replayDecline (hrec : s.mgmt.recov = false) : exec (.replayDecline .pf p tok) s = .next (replayDecline s p tok) := by
  change execReplayDecline .pf p tok s = _
  simp [execReplayDecline, Fn.drives, hrec]

/-- A VF's write of REPLAY does nothing (R368). -/
theorem exec_replay_vf (f : Fin 8) : exec (.replayRetry (.vf f) p tok) s = .next s ∧ exec (.replayDecline (.vf f) p tok) s = .next s :=
  ⟨rfl, rfl⟩

/-- A response to the one request of a page retries or declines its waiter. -/
theorem exec_priResponse_only {page : Nat} {w : Waiter} (hr : s.requests = [⟨p, page, tok, w⟩]) :
    (∀ t, (p, page) ∉ s.granted → retryWaiter { s with requests := [], granted := s.granted ++ [(p, page)] } tok w = .next t →
      exec (.priResponse p page true) s = .next t) ∧
    exec (.priResponse p page false) s = .next (declineWaiter { s with requests := [] } tok w) := by
  constructor
  · intro t hg hretry
    change priAnswer s p page true = _
    simp [priAnswer, hr, hg, answerRequests, hretry]
  · change priAnswer s p page false = _
    simp [priAnswer, hr, answerRequests]

end

/-- Settles O49: the one waiter of a token is found, forgotten, and goes on or ends with its trap. -/
theorem replays : Obligations.Replays := by
  unfold Obligations.Replays
  intro s p tok i h code va hrec hi hp goesOn waiter
  refine ⟨fun hw => ⟨?_, fun hr hc => ?_⟩, fun hw => ⟨?_, ?_⟩, fun f => exec_replay_vf f, fun page hr hg => ⟨?_, fun hw hc => ?_⟩⟩
  · rw [exec_replayRetry hrec, replayRetry, waiterOf_only hi tok va hp hw, forgetToken_only hw]
    exact retryWaiter_thread (s := { s with waiters := [] }) hi tok va .pacer
  · rw [exec_replayDecline hrec, replayDecline, waiterOf_only hi tok va hp hw, forgetToken_only hw]
    exact congrArg _ (declineWaiter_pacer (s := { s with waiters := [] }) hi tok va rfl hr hc)
  · rw [exec_replayRetry hrec, replayRetry, waiterOf_none hw]
  · rw [exec_replayDecline hrec, replayDecline, waiterOf_none hw]
  · exact (exec_priResponse_only hr).1 _ hg
      (retryWaiter_thread (s := { s with requests := [], granted := s.granted ++ [(p, page)] }) hi tok va .pacer)
  · rw [(exec_priResponse_only hr).2]
    exact congrArg _ (declineWaiter_pacer (s := { s with requests := [] }) hi tok va hw rfl hc)

end Sys2Proof.Machine
end

section
/-! PROOFS. A step (R145, R166, R379): the word at which a thread stands is fetched, decoded and run. -/
namespace Sys2Proof.Machine

open Sys2Proof

/-! ### The clock moves on (R379) -/

theorem charge_part (s : State) (dt : Nat) (p : Fin 8) :
    (charge s dt).parts[p] = { s.parts[p] with sinceRound := s.parts[p].sinceRound + dt } := Vector.getElem_map ..

theorem walkFenced_charge (s : State) (dt va level table : Nat) : walkFenced (charge s dt) va level table = walkFenced s va level table := by
  induction level generalizing table with
  | zero => rfl
  | succ l ih => simp only [walkFenced, ih]; rfl

/-- What an address reaches does not depend on the time. -/
theorem translate_charge (s : State) (dt core : Nat) (p : Fin 8) (va : Word) (k : AccessKind) (peer : Bool) :
    translate (charge s dt) core p va k peer = translate s core p va k peer := by
  simp only [translate, tableFenced, leafOf, pasidOf, partHasCore, charge_part, walkFenced_charge]
  rfl

/-- A step is the turn at the head of the agenda (log 1). -/
theorem step_of_agenda {s : State} {dt : Nat} {who : Agent} {rest : List Turn} (ha : s.agenda = ⟨dt, who⟩ :: rest) :
    step s = endTurn (runAgent (charge { s with tick := s.tick + 1, agenda := rest } dt) who) := by
  simp only [step, beginTurn, nextTurn, ha, List.head?_cons, Option.getD_some, List.tail_cons]

/-! ### The eight bytes at a PC (R145) -/

theorem accessFenced_uncached {s : State} {loc n : Nat} (hf : ∀ k < n, fenced s (loc + k) = false) : accessFenced s loc n false = false := by
  simp only [accessFenced, rangeFenced, Bool.false_and, Bool.false_eq_true, if_false, Bool.and_eq_false_iff, List.any_eq_false, List.mem_range]
  exact .inr fun k hk => by rw [hf k hk]; exact Bool.false_ne_true

theorem homeRead_unpoisoned {s : State} {loc n : Nat} (hp : ∀ a ∈ s.poison, a < loc ∨ loc + n ≤ a) :
    homeRead s loc n = (Memory.readAll s.mem loc n, false) := by
  refine Prod.ext rfl (Bool.eq_false_iff.2 fun hbad => ?_)
  obtain ⟨a, ha, hle, hlt⟩ := (homeRead_poison s loc n).1 hbad
  have := hp a ha
  omega

/-- The word that eight bytes of memory make (R145). -/
def wordAt (m : List Host.Cell) (loc : Nat) : Word := BitVec.ofNat 64 (leNat (Memory.readAll m loc 8))

/-- The state once a hart has fetched the word at a PC from a location of a page that is not cached. -/
def afterFetch (s : State) (h : Hart) (pc : Word) (loc : Nat) : State :=
  (dieRead (noteTlb s h.core h.part pc) (coreDie h.core) loc 8 false).1

theorem afterFetch_sameButCaches (s : State) (h : Hart) (pc : Word) (loc : Nat) : s.sameButCaches (afterFetch s h pc loc) :=
  (noteTlb_sameButCaches s ..).trans (dieRead_uncached ..).2.caches

/-- A fetch with nothing in its way gives the bytes at their home. -/
theorem fetchWord_uncached {s : State} {h : Hart} {pc : Word} {loc : Nat} (hpc : pc.toNat < 0xF000000000000)
    (ht : translate s h.core h.part pc .fetch false = .ok (loc, false)) (hf : ∀ k < 8, fenced s (loc + k) = false)
    (hp : ∀ a ∈ s.poison, a < loc ∨ loc + 8 ≤ a) :
    fetchWord s h pc = .ok (afterFetch s h pc loc, wordAt s.mem loc, false) := by
  have hnote := noteTlb_sameButCaches s h.core h.part pc
  have hread : (dieRead (noteTlb s h.core h.part pc) (coreDie h.core) loc 8 false).2 = (Memory.readAll s.mem loc 8, false) := by
    rw [(dieRead_uncached ..).1, homeRead_unpoisoned (by rwa [hnote.poison]), hnote.mem]
  simp only [fetchWord, if_neg (Nat.not_le.2 hpc), ht, accessFenced_uncached hf, Bool.false_eq_true, if_false, hread]
  rfl

/-- Eight bytes decode as the word they make. -/
theorem decodeBytes_readAll (m : List Host.Cell) (loc : Nat) :
    decodeBytes (Memory.readAll m loc 8) = (decodeWord (wordAt m loc)).map fun i => (i, []) := by
  have hlen : (Memory.readAll m loc 8).length = 8 := Memory.length_readAll ..
  simp only [decodeBytes, wordAt, hlen, lt_irrefl, if_false, List.take_of_length_le hlen.le, List.drop_of_length_le hlen.le]
  cases decodeWord (BitVec.ofNat 64 (leNat (Memory.readAll m loc 8))) <;> rfl

theorem decodeWord_of_bytes {m : List Host.Cell} {loc : Nat} {ins : Instr} (h : decodeBytes (Memory.readAll m loc 8) = .ok (ins, [])) :
    decodeWord (wordAt m loc) = .ok ins := by
  rw [decodeBytes_readAll] at h
  cases hdec : decodeWord (wordAt m loc) with
  | error e => rw [hdec] at h; cases h
  | ok i => rw [hdec] at h; cases h; rfl

theorem decodeWord_of_noBytes {m : List Host.Cell} {loc : Nat} {e : Reject} (h : decodeBytes (Memory.readAll m loc 8) = .error e) :
    decodeWord (wordAt m loc) = .error e := by
  rw [decodeBytes_readAll] at h
  cases hdec : decodeWord (wordAt m loc) with
  | error e => rw [hdec] at h; cases h; rfl
  | ok i => rw [hdec] at h; cases h

/-! ### The instruction at which a thread stands -/

theorem runInstr_intact {h : Hart} {u : ExecUnit} (hlost : (h.th u.thread).lost = []) (s : State) (i : Nat) (ins : Instr) :
    runInstr s i h u ins = exec ins { s with cur := ⟨i, u⟩ } := by
  simp [runInstr, readsLost, hlost]

theorem setHart_of_getElem? {s : State} {i : Nat} {h : Hart} (hi : s.harts[i]? = some h) : setHart s i h = s := by
  obtain ⟨hlt, rfl⟩ := List.getElem?_eq_some_iff.1 hi
  simp only [setHart, List.set_getElem_self hlt]

theorem abandonOpen_of_closed {a : AnchorState} (ho : a.openLen = none) (hov : a.overlong = none) : abandonOpen a = a := by
  rw [abandonOpen_closed ho, ← hov]

theorem mayGo_of_idle {h : Hart} {th : ThreadState} (hm : h.mode = .running) (htok : th.tokens = []) (hbar : th.inGbar = false)
    (hexit : th.hexit = false) : mayGo h th = true := by
  simp only [mayGo, hm, (threadStands_iff th).2 ⟨htok, hbar, hexit⟩, BEq.rfl, Bool.and_self]

/-- An instruction that must stand alone writes a scalar (R153). -/
theorem out_of_mustStandAlone {h : Hart} {joins : Bool} {ins : Instr} (hm : mustStandAlone h joins ins = true) :
    ∃ u, useOf ins = some u ∧ u.out ≠ none := by
  rw [mustStandAlone, Bool.and_eq_true] at hm
  obtain ⟨-, hout⟩ := hm
  cases hu : useOf ins with
  | none => rw [hu] at hout; cases hout
  | some u => exact ⟨u, rfl, by simpa [hu, Option.isSome_iff_ne_none] using hout⟩

section

variable {s t : State} {i : Nat} {h : Hart} {w : Word}

/-! ### The Pacer's turn -/

section

variable (hi : s.harts[i]? = some h) (hgo : mayGo h h.pacer.th = true) (hawake : h.pacer.asleep = false) (hwait : h.pacer.waitLoad = none)
  (hfetch : fetchWord s h h.pacer.th.pc = .ok (t, w, false))

include hi hgo hawake hwait hfetch

theorem pacerTurn_runs {ins : Instr} (hdec : decodeWord w = .ok ins) (hlost : h.pacer.th.lost = []) :
    pacerTurn s i = exec ins { t with cur := ⟨i, .pacer⟩ } := by
  simp only [pacerTurn, hi, hgo, hawake, hwait, pacerWord, hfetch, hdec, Bool.not_true, Bool.or_self, Bool.false_eq_true, if_false]
  exact runInstr_intact (u := .pacer) hlost t i ins

theorem pacerTurn_illegal {e : Reject} (hdec : decodeWord w = .error e) :
    pacerTurn s i = .next (deliverTrap t i { code := 0x01, thread := .pacer, iaddr := h.pacer.th.pc }) := by
  simp only [pacerTurn, hi, hgo, hawake, hwait, pacerWord, hfetch, hdec, Bool.not_true, Bool.or_self, Bool.false_eq_true, if_false]
  rfl

end

/-! ### The turn of the front end before which no convoy stands -/

/-- A fetched word of a front end that expects no reply. -/
theorem frontFetched_unexpecting (hah : h.anchor.ahead = none) : frontFetched s i h (.ok (t, w, false)) = frontWord t i h w := by
  have hsame : ({ h with anchor := { h.anchor with ahead := h.anchor.ahead.filter (· == h.anchor.th.pc + 8) } } : Hart) = h := by
    rw [hah, Option.filter_none, ← hah]
  exact congrArg (frontWord t i · w) hsame

theorem anchorTurn_fetched (hi : s.harts[i]? = some h) (hgo : mayGo h h.anchor.th = true) (hv : h.anchor.vtokens = [])
    (hwd : h.anchor.withdrawn = none) (hl : h.anchor.loop = none) (hah : h.anchor.ahead = none)
    (hfetch : fetchWord s h h.anchor.th.pc = .ok (t, w, false)) : anchorTurn s i = frontWord t i h w := by
  have hword : threadWord s h .anchor = .ok (t, w, false) := by simp only [threadWord, inLoop_none hl]; exact hfetch
  have hfront : anchorTurn s i = frontFetched s i h (threadWord s h .anchor) := by
    simp only [anchorTurn, hi, hgo, hv, hwd, inLoop_none hl, List.isEmpty_nil, Bool.not_true, Bool.or_self, Bool.false_eq_true, if_false]
  rw [hfront, hword, frontFetched_unexpecting hah]

section

variable (hviq : h.anchor.viq = []) (ho : h.anchor.openLen = none) (hov : h.anchor.overlong = none) (hi : s.harts[i]? = some h)

include hviq

/-- With an empty VIQ the front end waits for nothing. -/
theorem frontInstr_emptyViq (hlost : h.anchor.th.lost = []) (joins : Bool) (ins : Instr) :
    frontInstr s i h joins ins = exec ins { s with cur := ⟨i, .anchor⟩ } := by
  simp only [frontInstr, scalarPending, batonPending, vlPending, hviq, List.any_nil, Bool.and_false, Bool.false_and, Bool.or_self,
    Bool.false_eq_true, if_false]
  exact runInstr_intact (u := .anchor) hlost s i ins

include ho hov hi

theorem frontWord_illegal {e : Reject} (hdec : decodeWord w = .error e) :
    frontWord s i h w = .next (deliverTrap s i { code := 0x01, thread := .anchor, iaddr := h.anchor.th.pc }) := by
  have hset : setAnchor s i h h.anchor = s := setHart_of_getElem? hi
  simp only [frontWord, closeConvoy_alone ho hov, ite_self, setHart_of_getElem? hi, hdec, refuseWord, abandonOpen_of_closed ho hov, hviq,
    List.isEmpty_nil, if_true, hset]

theorem frontWord_runs {ins : Instr} (hdec : decodeWord w = .ok ins) (hlost : h.anchor.th.lost = [])
    (halone : ∀ u, useOf ins = some u → u.out = none ∨ joinedAhead s h = .alone) :
    frontWord s i h w = exec ins { s with cur := ⟨i, .anchor⟩ } := by
  simp only [frontWord, closeConvoy_alone ho hov, ite_self, setHart_of_getElem? hi, hdec, frontInstr_emptyViq hviq hlost]
  by_cases hmust : mustStandAlone h (joinsWord w) ins = true
  · obtain ⟨u, hu, hout⟩ := out_of_mustStandAlone hmust
    simp only [(halone u hu).resolve_left hout, ite_self]
  · simp only [hmust, Bool.false_eq_true, if_false]

end

end

/-- Settles O59, turn by turn: a turn at a word is its fetch, then what the decoder makes of the word. -/
theorem stepRunsDecoded : Obligations.StepRunsDecoded := by
  intro s dt i h loc pc rest s0 bytes ends
  have hends : ends = endTurn := funext fun o => by cases o <;> rfl
  clear_value ends
  subst hends
  refine ⟨fun e he ha => by rw [step_of_agenda ha, runAgent, he]; rfl, ?_⟩
  intro hi hm hpc htr hpoison hfenced s1 idle
  have hfetch : fetchWord s0 h pc = .ok (s1, wordAt s.mem loc, false) :=
    fetchWord_uncached (s := s0) hpc ((translate_charge ..).trans htr) hfenced hpoison
  have hi0 : s0.harts[i]? = some h := hi
  have hi1 : s1.harts[i]? = some h := (congrArg (·[i]?) (afterFetch_sameButCaches s0 h pc loc).harts).trans hi
  refine ⟨fun ha hidle hawake hwait => ?_, fun ha hidle hwd hl hviq ho hov hv hah => ?_⟩
  all_goals
    obtain ⟨rfl, htok, hbar, hexit, hlost⟩ := hidle
    have hgo := mayGo_of_idle hm htok hbar hexit
    rw [step_of_agenda ha, runAgent]
  · exact ⟨fun ins hb => congrArg endTurn (pacerTurn_runs hi0 hgo hawake hwait hfetch (decodeWord_of_bytes hb) hlost),
      fun e hb => congrArg endTurn (pacerTurn_illegal hi0 hgo hawake hwait hfetch (decodeWord_of_noBytes hb))⟩
  · rw [anchorTurn_fetched hi0 hgo hv hwd hl hah hfetch]
    exact ⟨fun ins hb halone => congrArg endTurn
        (frontWord_runs hviq ho hov hi1 (decodeWord_of_bytes hb) hlost fun u hu => (halone u hu).2),
      fun e hb => congrArg endTurn (frontWord_illegal hviq ho hov hi1 (decodeWord_of_noBytes hb))⟩

end Sys2Proof.Machine
end

section
/-! PROOFS. Scalar integer results (R169 to R172): the register and the immediate forms, the boundary cases of division, constants. -/
namespace Sys2Proof.Machine

open Sys2Proof

/-! ### The results (R169, R170) -/

theorem flagWord_decide (p : Prop) [Decidable p] : flagWord (decide p) = if p then 1 else 0 := by
  simp only [flagWord, decide_eq_true_eq]

/-- Of two words whose measures are equal only where they are, the choice goes by < as by ≤. -/
theorem ite_le_eq_ite_lt {β : Type} [LinearOrder β] {a b : β} {x y : Word} (heq : a = b → x = y) :
    (if a ≤ b then x else y) = if a < b then x else y := by
  rcases lt_trichotomy a b with h | h | h
  · rw [if_pos h.le, if_pos h]
  · rw [heq h, ite_self, ite_self]
  · rw [if_neg h.not_ge, if_neg h.asymm]

section
variable (x y : Word)

theorem alu_min : alu .min x y = if x.toInt < y.toInt then x else y := ite_le_eq_ite_lt BitVec.eq_of_toInt_eq
theorem alu_max : alu .max x y = if x.toInt < y.toInt then y else x := ite_le_eq_ite_lt fun h => (BitVec.eq_of_toInt_eq h).symm
theorem alu_minn : alu .minn x y = if x.toNat < y.toNat then x else y := ite_le_eq_ite_lt BitVec.eq_of_toNat_eq
theorem alu_maxn : alu .maxn x y = if x.toNat < y.toNat then y else x := ite_le_eq_ite_lt fun h => (BitVec.eq_of_toNat_eq h).symm

theorem alu_slt : alu .slt x y = if x.toInt < y.toInt then 1 else 0 := flagWord_decide _
theorem alu_sltn : alu .sltn x y = if x.toNat < y.toNat then 1 else 0 := flagWord_decide _
theorem alu_seq : alu .seq x y = if x = y then 1 else 0 := flagWord_decide (x = y)

/-- A rotation joins what is shifted out at the top to the bottom. -/
theorem alu_rot : alu .rot x y = x <<< (y.toNat % 64) ||| x >>> (64 - y.toNat % 64) := by
  change x.rotateLeft (y.toNat % 64) = _
  rw [BitVec.rotateLeft_def, Nat.mod_mod]

theorem alu_div : alu .div x y = if y = 0 then 0xFFFFFFFFFFFFFFFF else BitVec.ofInt 64 (x.toInt.tdiv y.toInt) := rfl
theorem alu_divn : alu .divn x y = if y = 0 then 0xFFFFFFFFFFFFFFFF else x / y := rfl
theorem alu_rem : alu .rem x y = if y = 0 then x else BitVec.ofInt 64 (x.toInt.tmod y.toInt) := rfl
theorem alu_remn : alu .remn x y = if y = 0 then x else x % y := rfl

end

/-- The one quotient that overflows wraps to the dividend, and leaves no rest (R170). -/
theorem alu_div_overflow : alu .div 0x8000000000000000 0xFFFFFFFFFFFFFFFF = 0x8000000000000000 := by decide
theorem alu_rem_overflow : alu .rem 0x8000000000000000 0xFFFFFFFFFFFFFFFF = 0 := by decide

/-! ### Counts of bits (R169) -/

/-- CLZ counts the zeros above the highest bit that is set. -/
theorem clz_spec (x : Word) : ∃ n : Nat, clz x = BitVec.ofNat 64 n ∧ n ≤ 64 ∧
    (∀ k, 64 - n ≤ k → x.getLsbD k = false) ∧ (n < 64 → x.getLsbD (63 - n) = true) := by
  by_cases hx : x = 0
  · exact ⟨64, if_pos hx, le_rfl, fun k _ => by rw [hx]; exact BitVec.getLsbD_zero, fun h => absurd h (lt_irrefl _)⟩
  · have hne : x.toNat ≠ 0 := fun h => hx (BitVec.eq_of_toNat_eq h)
    have hlog : Nat.log2 x.toNat < 64 := (Nat.log2_lt hne).2 x.isLt
    refine ⟨63 - Nat.log2 x.toNat, if_neg hx, by omega, fun k hk => ?_, fun _ => ?_⟩
    · exact Nat.testBit_lt_two_pow (Nat.lt_log2_self.trans_le (Nat.pow_le_pow_right Nat.two_pos (by omega)))
    · rw [Nat.sub_sub_self (by omega)]
      exact Nat.testBit_log2 hne

/-- CTZ counts the zeros below the lowest bit that is set. -/
theorem ctz_spec (x : Word) : ∃ n : Nat, ctz x = BitVec.ofNat 64 n ∧ n ≤ 64 ∧
    (∀ k, k < n → x.getLsbD k = false) ∧ (n < 64 → x.getLsbD n = true) := by
  unfold ctz
  cases hfind : (List.range 64).find? fun k => x.getLsbD k with
  | none =>
    have hzero := List.find?_range_eq_none.1 hfind
    exact ⟨64, rfl, le_rfl, fun k hk => by simpa using hzero k hk, fun h => absurd h (lt_irrefl _)⟩
  | some n =>
    obtain ⟨hset, hmem, hbelow⟩ := List.find?_range_eq_some.1 hfind
    exact ⟨n, rfl, (List.mem_range.1 hmem).le, fun k hk => by simpa using hbelow k hk, fun _ => hset⟩

theorem popc_eq (x : Word) : popc x = BitVec.ofNat 64 ((List.range 64).countP fun k => x.getLsbD k) := by
  rw [popc, List.countP_eq_length_filter]

/-! ### Immediates and constants (R171, R172) -/

theorem setWidth_signExtend_32 (imm : BitVec 32) : (imm.signExtend 64).setWidth 32 = imm := by
  refine BitVec.eq_of_getLsbD_eq fun k hk => ?_
  have hk64 : k < 64 := by omega
  simp only [BitVec.getLsbD_setWidth, BitVec.getLsbD_signExtend, hk, hk64, decide_true, Bool.true_and, if_true]

theorem signExtend_eq_zero (imm : BitVec 32) : imm.signExtend 64 = 0 ↔ imm = 0 := by
  constructor
  · intro h
    rw [← setWidth_signExtend_32 imm, h]
    rfl
  · rintro rfl
    rfl

/-- A shift amount is read whole. -/
theorem shiftAmount_ofNat (sh : Fin 64) : (BitVec.ofNat 64 sh.val).toNat % 64 = sh.val := by
  rw [BitVec.toNat_ofNat, Nat.mod_mod_of_dvd _ (by decide), Nat.mod_eq_of_lt sh.isLt]

/-- LIH keeps the low half (R172). -/
theorem append_low_half (imm : BitVec 32) (x : Word) :
    imm ++ x.setWidth 32 = BitVec.ofNat 64 (imm.toNat * 2 ^ 32 + x.toNat % 2 ^ 32) := by
  have hlt : x.toNat % 2 ^ 32 < 2 ^ 32 := Nat.mod_lt _ (by decide)
  have hword : imm.toNat * 2 ^ 32 + x.toNat % 2 ^ 32 < 2 ^ 64 := by
    have := imm.isLt
    omega
  apply BitVec.eq_of_toNat_eq
  rw [BitVec.toNat_append, BitVec.toNat_setWidth, ← Nat.shiftLeft_add_eq_or_of_lt hlt, Nat.shiftLeft_eq, BitVec.toNat_ofNat,
    Nat.mod_eq_of_lt hword]

/-- The halves of a word make it again. -/
theorem halves_append (v : Word) : (v >>> 32).setWidth 32 ++ v.setWidth 32 = v := by
  have hhigh : v.toNat / 2 ^ 32 % 2 ^ 32 = v.toNat / 2 ^ 32 := Nat.mod_eq_of_lt (by have := v.isLt; omega)
  have hsplit := Nat.div_add_mod' v.toNat (2 ^ 32)
  apply BitVec.eq_of_toNat_eq
  rw [append_low_half, BitVec.toNat_setWidth, BitVec.toNat_ushiftRight, Nat.shiftRight_eq_div_pow, hhigh, hsplit, BitVec.toNat_ofNat,
    Nat.mod_eq_of_lt v.isLt]

/-! ### The forms in a thread -/

section
variable {s : State} {h : Hart} {t : Thread} (hr : s.runs h t) {i : Instr} (ha : Instr.allowed i t = true) {d s1 s2 : Reg} {o : AluOp}
  {v : Word}
include hr ha

/-- A register form writes what its operation gives (R169). -/
theorem scalar2_writes (hv : alu o (h.reg t s1) (h.reg t s2) = v) :
    scalar2 i o d s1 s2 s = .next (s.put ((h.setReg t d v).advance t)) := by
  rw [scalar2, runs_thread hr ha, hv, writeBack_eq]

/-- An immediate form does what the register form does with the immediate, sign-extended (R171). -/
theorem scalarImm_writes {imm : BitVec 32} (hv : alu o (h.reg t s1) (imm.signExtend 64) = v) :
    scalarImm i o d s1 imm s = .next (s.put ((h.setReg t d v).advance t)) := by
  rw [scalarImm, runs_thread hr ha, signExtend32, hv, writeBack_eq]

theorem scalarShift_writes {sh : Fin 64} (hv : alu o (h.reg t s1) (BitVec.ofNat 64 sh.val) = v) :
    scalarShift i o d s1 sh s = .next (s.put ((h.setReg t d v).advance t)) := by
  rw [scalarShift, runs_thread hr ha, hv, writeBack_eq]

theorem scalar1_writes {f : Word → Word} (hv : f (h.reg t s1) = v) :
    scalar1 i f d s1 s = .next (s.put ((h.setReg t d v).advance t)) := by
  rw [scalar1, runs_thread hr ha, hv, writeBack_eq]

end

section
variable {s : State} {h : Hart} {t : Thread} (hr : s.runs h t) (d : Reg)
include hr

theorem exec_cmov (s1 s2 s3 : Reg) : exec (.cmov d s1 s2 s3) s =
    .next (s.put ((h.setReg t d (if h.reg t s3 ≠ 0 then h.reg t s1 else h.reg t s2)).advance t)) := by
  change execCmov d s1 s2 s3 s = _
  rw [execCmov, runs_thread hr (allowed_of_both rfl rfl t), writeBack_eq]

theorem exec_li (imm : BitVec 32) : exec (.li d imm) s = .next (s.put ((h.setReg t d (imm.signExtend 64)).advance t)) := by
  change execLi d imm s = _
  rw [execLi, runs_thread hr (allowed_of_both rfl rfl t), signExtend32, writeBack_eq]

theorem exec_lih (imm : BitVec 32) :
    exec (.lih d imm) s = .next (s.put ((h.setReg t d (imm ++ (h.reg t d).setWidth 32)).advance t)) := by
  change execLih d imm s = _
  rw [execLih, runs_thread hr (allowed_of_both rfl rfl t), writeBack_eq]

theorem exec_nop : exec .nop s = .next (s.put (h.advance t)) := by
  change execNop s = _
  rw [execNop, runs_thread hr (allowed_of_both rfl rfl t), goOn_eq]

/-- LI of a word's low half and then LIH of its high half load the word (R172). -/
theorem exec_lih_after_li (hd : d ≠ 0) (v : Word) {h' : Hart} (hli : h' = (h.setReg t d ((v.setWidth 32).signExtend 64)).advance t) :
    exec (.lih d ((v >>> 32).setWidth 32)) (s.put h') = .next ((s.put h').put ((h'.setReg t d v).advance t)) := by
  have hreg : h'.reg t d = (v.setWidth 32).signExtend 64 := by rw [hli, reg_advance, reg_setReg, if_pos ⟨rfl, hd⟩]
  rw [exec_lih (runs_put h' hr), hreg, setWidth_signExtend_32, halves_append]

end

/-- Settles O2: a divisor of 0 and the overflowing quotient, by the results of the four divisions. -/
theorem divisionBoundaries : Obligations.DivisionBoundaries := by
  intro s h t d s1 s2 hr
  have hboth {i : Instr} := @allowed_of_both i
  refine ⟨fun hy => ⟨?_, ?_, ?_, ?_⟩, fun hx hy => ⟨?_, ?_⟩⟩
  · exact scalar2_writes hr (hboth rfl rfl t) ((alu_div _ _).trans (if_pos hy))
  · exact scalar2_writes hr (hboth rfl rfl t) ((alu_divn _ _).trans (if_pos hy))
  · exact scalar2_writes hr (hboth rfl rfl t) ((alu_rem _ _).trans (if_pos hy))
  · exact scalar2_writes hr (hboth rfl rfl t) ((alu_remn _ _).trans (if_pos hy))
  · exact scalar2_writes hr (hboth rfl rfl t) ((congrArg₂ (alu .div) hx hy).trans alu_div_overflow)
  · exact scalar2_writes hr (hboth rfl rfl t) ((congrArg₂ (alu .rem) hx hy).trans alu_rem_overflow)

/-- Settles O3: each form writes what its operation gives; a count is told by the bits at and beyond it. -/
theorem scalarRegisterForms : Obligations.ScalarRegisterForms := by
  have hboth {i : Instr} := @allowed_of_both i
  refine ⟨fun s h t d s1 s2 hr => ?_, fun s h t d s1 hr => ⟨?_, ?_, ?_⟩⟩
  · have hform {i : Instr} {o : AluOp} {v : Word} (hp : i.allowed .pacer = true) (ha : i.allowed .anchor = true)
        (hv : alu o (h.reg t s1) (h.reg t s2) = v) := scalar2_writes (d := d) hr (hboth hp ha t) hv
    exact ⟨hform rfl rfl rfl, hform rfl rfl rfl, hform rfl rfl rfl, hform rfl rfl rfl, hform rfl rfl rfl,
      fun hy => hform rfl rfl ((alu_div _ _).trans (if_neg hy)), fun hy => hform rfl rfl ((alu_divn _ _).trans (if_neg hy)),
      fun hy => hform rfl rfl ((alu_rem _ _).trans (if_neg hy)), fun hy => hform rfl rfl ((alu_remn _ _).trans (if_neg hy)),
      hform rfl rfl rfl, hform rfl rfl rfl, hform rfl rfl rfl, hform rfl rfl rfl, hform rfl rfl rfl, hform rfl rfl rfl, hform rfl rfl rfl,
      hform rfl rfl (alu_rot _ _), hform rfl rfl (alu_min _ _), hform rfl rfl (alu_max _ _), hform rfl rfl (alu_minn _ _),
      hform rfl rfl (alu_maxn _ _), hform rfl rfl (alu_slt _ _), hform rfl rfl (alu_sltn _ _), hform rfl rfl (alu_seq _ _),
      exec_cmov hr d s1 s2⟩
  · obtain ⟨n, hn, hspec⟩ := clz_spec (h.reg t s1)
    exact ⟨n, scalar1_writes hr (hboth rfl rfl t) hn, hspec⟩
  · obtain ⟨n, hn, hspec⟩ := ctz_spec (h.reg t s1)
    exact ⟨n, scalar1_writes hr (hboth rfl rfl t) hn, hspec⟩
  · exact scalar1_writes hr (hboth rfl rfl t) (popc_eq _)

/-- Settles O4: an immediate form is its register form on the extended immediate, which is 0 only where the immediate is; the halves of a
constant make it again. -/
theorem scalarImmediatesAndConstants : Obligations.ScalarImmediatesAndConstants := by
  have hboth {i : Instr} := @allowed_of_both i
  refine ⟨fun s h t d s1 imm sh hr => ?_, fun s h t d imm hr => ⟨exec_li hr d imm, ?_, exec_nop hr⟩, fun s s' h t d v hr hd hli => ?_⟩
  · have hform {i : Instr} {o : AluOp} {v : Word} (hp : i.allowed .pacer = true) (ha : i.allowed .anchor = true)
        (hv : alu o (h.reg t s1) (imm.signExtend 64) = v) := scalarImm_writes (d := d) hr (hboth hp ha t) hv
    have hshift {i : Instr} {o : AluOp} {v : Word} (hp : i.allowed .pacer = true) (ha : i.allowed .anchor = true)
        (hv : alu o (h.reg t s1) (BitVec.ofNat 64 sh.val) = v) := scalarShift_writes (d := d) hr (hboth hp ha t) hv
    have hzero := signExtend_eq_zero imm
    have hamount := shiftAmount_ofNat sh
    exact ⟨hform rfl rfl rfl, hform rfl rfl rfl, hform rfl rfl rfl, hform rfl rfl rfl, hform rfl rfl rfl,
      hform rfl rfl ((alu_div _ _).trans (if_congr hzero rfl rfl)), hform rfl rfl ((alu_divn _ _).trans (if_congr hzero rfl rfl)),
      hform rfl rfl ((alu_rem _ _).trans (if_congr hzero rfl rfl)), hform rfl rfl ((alu_remn _ _).trans (if_congr hzero rfl rfl)),
      hform rfl rfl rfl, hform rfl rfl rfl, hform rfl rfl rfl, hform rfl rfl rfl,
      hshift rfl rfl (congrArg (h.reg t s1 <<< ·) hamount), hshift rfl rfl (congrArg (h.reg t s1 >>> ·) hamount),
      hshift rfl rfl (congrArg (h.reg t s1).sshiftRight hamount), hshift rfl rfl ((alu_rot _ _).trans (by rw [hamount])),
      hform rfl rfl (alu_min _ _), hform rfl rfl (alu_max _ _), hform rfl rfl (alu_minn _ _),
      hform rfl rfl (alu_maxn _ _), hform rfl rfl (alu_slt _ _), hform rfl rfl (alu_sltn _ _), hform rfl rfl (alu_seq _ _)⟩
  · rw [exec_lih hr, append_low_half]
  · rw [exec_li hr] at hli
    cases hli
    exact ⟨_, runs_put _ hr, exec_lih_after_li hr d hd v rfl⟩

end Sys2Proof.Machine
end

section
/-! PROOFS. Scalar floats (R80, R173 to R175): a rounded result fits its format's slot, an integer result its type. -/
namespace Sys2Proof.Machine

open Sys2Proof

/-! ### The bits of a rounded result (R75, R76) -/

/-- A sign, an exponent field and a fraction field make a word of the format's width. -/
theorem fields_lt (f : FloatFmt) (neg : Bool) {ex frac : Nat} (hex : ex < 2 ^ FloatFmt.expo f) (hfrac : frac < 2 ^ FloatFmt.frac f) :
    fSign f neg + (ex * 2 ^ FloatFmt.frac f + frac) < 2 ^ FloatFmt.width f := by
  have hsign : fSign f neg ≤ 2 ^ (FloatFmt.frac f + FloatFmt.expo f) := by
    cases neg
    · exact Nat.zero_le _
    · exact le_rfl
  have hwidth : 2 ^ FloatFmt.width f = 2 * 2 ^ (FloatFmt.frac f + FloatFmt.expo f) := pow_succ' ..
  have hrest : ex * 2 ^ FloatFmt.frac f + frac < 2 ^ (FloatFmt.frac f + FloatFmt.expo f) := by
    rw [pow_add]
    nlinarith
  omega

theorem fInf_lt (f : FloatFmt) (neg : Bool) : fInf f neg < 2 ^ FloatFmt.width f :=
  fields_lt f neg (Nat.sub_one_lt (Nat.two_pow_pos _).ne') (Nat.two_pow_pos _)

theorem fNan_lt (f : FloatFmt) : fNan f < 2 ^ FloatFmt.width f := by cases f <;> decide

theorem fSign_lt (f : FloatFmt) (neg : Bool) : fSign f neg < 2 ^ FloatFmt.width f := by
  have h := fields_lt f neg (Nat.two_pow_pos (FloatFmt.expo f)) (Nat.two_pow_pos (FloatFmt.frac f))
  rwa [zero_mul] at h

theorem packFloat_lt {f : FloatFmt} {n : Nat} {q : Int} (hg : OnGrid f n q) (hl : ¬ TooLarge f n q) (neg : Bool) :
    packFloat f neg n q < 2 ^ FloatFmt.width f := by
  by_cases hn : n < 2 ^ FloatFmt.frac f
  · have h := fields_lt f neg (Nat.two_pow_pos (FloatFmt.expo f)) hn
    rw [zero_mul, zero_add] at h
    rwa [packFloat, if_pos hn]
  · obtain ⟨ex, frac, hfrac, -, hex, hpack, -⟩ := pack_normal hg hl neg (not_lt.1 hn)
    rw [hpack]
    exact fields_lt f neg (by omega) hfrac

theorem fRound_lt (f : FloatFmt) (rm : Rounding) (neg : Bool) {m : Nat} (hm : 0 < m) (e : Int) :
    (fRound f rm neg m e false).1 < 2 ^ FloatFmt.width f := by
  obtain ⟨hlarge, hfits⟩ := fRound_eq f rm neg m e
  by_cases hl : TooLarge f (roundTo rm neg (splitAt m e (roundExp f m e) false).1 (splitAt m e (roundExp f m e) false).2) (roundExp f m e)
  · rw [hlarge hl]
    exact fInf_lt f neg
  · obtain ⟨tiny, hround⟩ := hfits hl
    rw [hround]
    exact packFloat_lt (roundTo_onGrid f rm neg hm e _) hl neg

theorem fResult_lt (f : FloatFmt) (rm : Rounding) {v : FVal} (hv : ∀ n m e, v = .fin n m e → 0 < m) :
    (fResult f rm v false).1 < 2 ^ FloatFmt.width f := by
  cases v with
  | nan s => exact fNan_lt f
  | inf n => exact fInf_lt f n
  | zero n => exact fSign_lt f n
  | fin n m e => exact fRound_lt f rm n (hv n m e rfl) e

/-- A float of an integer is finite only where the integer is not 0. -/
theorem pos_of_fOfInt_fin {i e e' : Int} {z n : Bool} {m : Nat} (h : fOfInt i e z = .fin n m e') : 0 < m := by
  unfold fOfInt at h
  split at h
  · cases h
  · next h0 =>
    cases h
    exact Int.natAbs_pos.2 h0

/-! ### The register value of a converted element (R80, R175) -/

/-- What FCVT writes of an element of a type. -/
def cvtWord (t : ElemType) (bits : Word) : Word := if isSigned t then BitVec.ofInt 64 (intVal t bits) else trunc t bits

theorem cvtWord_float {t : ElemType} {f : FloatFmt} (ht : fmtOf t = some f) {b : Nat} (hb : b < 2 ^ FloatFmt.width f) :
    cvtWord t (BitVec.ofNat 64 b) = BitVec.ofNat 64 b := by
  have hfloat : isSigned t = false ∧ width t = FloatFmt.width f := by cases t <;> cases ht <;> decide
  obtain ⟨hunsigned, hwidth⟩ := hfloat
  have hb64 : b < 2 ^ 64 := hb.trans_le (Nat.pow_le_pow_right Nat.two_pos (hwidth ▸ width_le_64 t))
  rw [cvtWord, hunsigned, if_neg Bool.false_ne_true, trunc, hwidth, BitVec.toNat_ofNat, Nat.mod_eq_of_lt hb64, Nat.mod_eq_of_lt hb]

/-- An integer of the type's range is extended by its signedness. -/
theorem cvtWord_int {t : ElemType} {i : Int} (hlo : intLo t ≤ i) (hhi : i ≤ intHi t) : cvtWord t (intBits t i) = extendResult t i := by
  unfold cvtWord extendResult
  cases hs : isSigned t with
  | true => rw [if_pos rfl, if_pos rfl, intVal_intBits hlo hhi]
  | false =>
    have hnn : 0 ≤ i := by simpa [intLo, hs] using hlo
    have hlt : i < 2 ^ width t := by
      simp only [intHi, hs, Bool.false_eq_true, if_false] at hhi
      omega
    rw [if_neg Bool.false_ne_true, if_neg Bool.false_ne_true, trunc, Nat.mod_eq_of_lt (intBits_lt t i), intBits, Int.emod_eq_of_lt hnn hlt,
      BitVec.ofNat_toNat, BitVec.setWidth_eq]

theorem clamped_mem_range {lo hi : Int} (h : lo ≤ hi) (i : Int) (fl : Flags) :
    let r := if i < lo then (lo, flagNV) else if hi < i then (hi, flagNV) else (i, fl)
    lo ≤ r.1 ∧ r.1 ≤ hi := by
  split
  · exact ⟨le_rfl, h⟩
  · split
    · exact ⟨h, le_rfl⟩
    · exact ⟨not_lt.1 ‹_›, not_lt.1 ‹_›⟩

/-- A conversion to an integer stays in its range (R80). -/
theorem fToInt_mem_range (rm : Rounding) {lo hi : Int} (hlo : lo ≤ 0) (hhi : 0 ≤ hi) (x : FVal) :
    lo ≤ (fToInt rm lo hi x).1 ∧ (fToInt rm lo hi x).1 ≤ hi := by
  have hle := hlo.trans hhi
  cases x with
  | nan s => exact ⟨hlo, hhi⟩
  | inf n =>
    cases n
    · exact ⟨hle, le_rfl⟩
    · exact ⟨le_rfl, hle⟩
  | zero n => exact ⟨hlo, hhi⟩
  | fin n m e => exact clamped_mem_range hle _ _

theorem nvOf_pair (x y : FVal) : nvOf [x, y] = if x.isSignalling || y.isSignalling then flagNV else 0 := by
  simp only [nvOf, List.any_cons, List.any_nil, Bool.or_false]

/-! ### The forms in a thread -/

section
variable {s : State} {h : Hart} {t : Thread} (hr : s.runs h t) {i : Instr} (ha : Instr.allowed i t = true) {d s1 s2 s3 : Reg} {f : FloatFmt}
include hr ha

theorem float2_outcome (o : FloatOp) : let r := floatResult o f (roundingOf h t) (slot f (h.reg t s1)) (slot f (h.reg t s2))
    float2 i o d s1 s2 f s = floatOutcome s h t d (BitVec.ofNat 64 r.1) r.2 :=
  (runs_thread hr ha).trans (floatBack_eq s h t d _)

theorem float3_outcome :
    let r := fFmaV f (roundingOf h t) (fDecode f (slot f (h.reg t s1))) (fDecode f (slot f (h.reg t s2))) (fDecode f (slot f (h.reg t s3)))
    float3 i d s1 s2 s3 f s = floatOutcome s h t d (BitVec.ofNat 64 r.1) r.2 :=
  (runs_thread hr ha).trans (floatBack_eq s h t d _)

theorem floatCompare_outcome {c : Cond} {b : Bool} {fl : Flags}
    (hc : fCond c (fDecode f (slot f (h.reg t s1))) (fDecode f (slot f (h.reg t s2))) = (b, fl)) :
    floatCompare i c d s1 s2 f s = floatOutcome s h t d (if b then 1 else 0) fl := by
  rw [floatCompare, runs_thread hr ha, hc, floatBack_eq]
  rfl

theorem floatConvert_outcome {dst src : ElemType} {w : Word} {fl : Flags}
    (hw : cvtWord dst (eltConvert (roundingOf h t) false src dst (h.reg t s1)).bits = w)
    (hfl : (eltConvert (roundingOf h t) false src dst (h.reg t s1)).flags = fl) :
    floatConvert i d s1 dst src s = floatOutcome s h t d w fl := by
  rw [← hw, ← hfl]
  exact (runs_thread hr ha).trans (floatBack_eq s h t d _)

end

section
variable {s : State} {h : Hart} {t : Thread} (hr : s.runs h t) (d s1 s2 : Reg) {dst src : ElemType}
include hr

/-- A float becomes a float: one rounding. -/
theorem exec_fcvt_float_float {f g : FloatFmt} (hf : fmtOf src = some f) (hg : fmtOf dst = some g) :
    let r := fResult g (roundingOf h t) (fDecode f (h.reg t s1).toNat) false
    exec (.fcvt d s1 s2 dst src) s = floatOutcome s h t d (BitVec.ofNat 64 r.1) r.2 := by
  intro r
  have helt : eltConvert (roundingOf h t) false src dst (h.reg t s1) = .ofFloat r := by rw [eltConvert, hf, hg]; rfl
  refine floatConvert_outcome hr (allowed_of_both rfl rfl t) ?_ (congrArg Elt.flags helt)
  rw [helt]
  exact cvtWord_float hg (fResult_lt g _ fun _ _ _ => pos_of_fDecode_fin)

/-- A float becomes an integer of the type's range. -/
theorem exec_fcvt_float_int {f : FloatFmt} (hf : fmtOf src = some f) (hg : fmtOf dst = none) :
    let r := fToInt (roundingOf h t) (intLo dst) (intHi dst) (fDecode f (h.reg t s1).toNat)
    exec (.fcvt d s1 s2 dst src) s = floatOutcome s h t d (extendResult dst r.1) r.2 := by
  intro r
  have helt : eltConvert (roundingOf h t) false src dst (h.reg t s1) = ⟨intBits dst r.1, r.2, false⟩ := by rw [eltConvert, hf, hg]
  obtain ⟨hlo, hhi⟩ := fToInt_mem_range (roundingOf h t) (intLo_nonpos dst) (intHi_nonneg dst) (fDecode f (h.reg t s1).toNat)
  refine floatConvert_outcome hr (allowed_of_both rfl rfl t) ?_ (congrArg Elt.flags helt)
  rw [helt]
  exact cvtWord_int hlo hhi

/-- An integer becomes a float: one rounding. -/
theorem exec_fcvt_int_float {g : FloatFmt} (hf : fmtOf src = none) (hg : fmtOf dst = some g) :
    let r := fFromInt g (roundingOf h t) (intVal src (h.reg t s1))
    exec (.fcvt d s1 s2 dst src) s = floatOutcome s h t d (BitVec.ofNat 64 r.1) r.2 := by
  intro r
  have helt : eltConvert (roundingOf h t) false src dst (h.reg t s1) = .ofFloat r := by rw [eltConvert, hf, hg]
  refine floatConvert_outcome hr (allowed_of_both rfl rfl t) ?_ (congrArg Elt.flags helt)
  rw [helt]
  exact cvtWord_float hg (fResult_lt g _ fun _ _ _ => pos_of_fOfInt_fin)

end

/-- Settles O5: each form rounds and raises as its operation does; what `FCVT` writes of its result is the result, extended. -/
theorem scalarFloats : Obligations.ScalarFloats := by
  have hboth {i : Instr} := @allowed_of_both i
  refine ⟨fun s h t d s1 s2 s3 f hr => ?_, fun s h t d s1 s2 f hr => ?_, fun s h t d s1 s2 dst src hr => ⟨fun f g hf hg => ?_,
    fun f hf _ hg => ?_, fun g _ hf hg => ?_⟩⟩
  · exact ⟨float2_outcome hr (hboth rfl rfl t) .add, float2_outcome hr (hboth rfl rfl t) .sub, float2_outcome hr (hboth rfl rfl t) .mul,
      float3_outcome hr (hboth rfl rfl t), float2_outcome hr (hboth rfl rfl t) .div, float2_outcome hr (hboth rfl rfl t) .sqrt,
      float2_outcome hr (hboth rfl rfl t) .min, float2_outcome hr (hboth rfl rfl t) .max⟩
  · exact ⟨floatCompare_outcome hr (hboth rfl rfl t) (Prod.ext rfl (nvOf_pair _ _)), floatCompare_outcome hr (hboth rfl rfl t) rfl,
      floatCompare_outcome hr (hboth rfl rfl t) rfl, floatCompare_outcome hr (hboth rfl rfl t) (Prod.ext rfl (nvOf_pair _ _))⟩
  · exact exec_fcvt_float_float hr d s1 s2 hf hg
  · exact exec_fcvt_float_int hr d s1 s2 hf hg
  · exact exec_fcvt_int_float hr d s1 s2 hf hg

end Sys2Proof.Machine
end

section
/-! PROOFS. LAP, the end of a strip (R181, R182): what a run of register writes leaves of a thread and of its hart. -/
namespace Sys2Proof.Machine

open Sys2Proof

/-! ### Changes of one thread -/

theorem onlyThread_refl (h : Hart) (t : Thread) : h.onlyThread h t := ⟨fun _ _ => rfl, rfl, rfl, rfl⟩

theorem onlyThread_trans {h h1 h2 : Hart} {t : Thread} (h01 : h.onlyThread h1 t) (h12 : h1.onlyThread h2 t) : h.onlyThread h2 t := by
  obtain ⟨hother, hhart, hpacer, hanchor⟩ := h01
  obtain ⟨hother', hhart', hpacer', hanchor'⟩ := h12
  exact ⟨fun u hu => (hother' u hu).trans (hother u hu),
    (congrArg (fun g : Hart => { g with pacer := h.pacer, anchor := h.anchor }) hhart').trans hhart,
    (congrArg (fun p : PacerState => { p with th := h.pacer.th, fromQa := h.pacer.fromQa }) hpacer').trans hpacer,
    (congrArg (fun a : AnchorState => { a with th := h.anchor.th }) hanchor').trans hanchor⟩

theorem onlyThread_setReg (h : Hart) (t : Thread) (r : Reg) (v : Word) : h.onlyThread (h.setReg t r v) t := by
  refine ⟨fun u hu => th_setReg_other h t u r v hu, ?_, ?_, ?_⟩
  all_goals cases t <;> rfl

theorem onlyThread_setTh (h : Hart) (t : Thread) (x : ThreadState) : h.onlyThread (h.setTh t x) t := by
  refine ⟨fun u hu => th_setTh_other h t u x hu, ?_, ?_, ?_⟩
  all_goals cases t <;> rfl

/-- A grant is told by `vl` and the type in force. -/
theorem th_grantTo (h : Hart) (t : Thread) (ty : ElemType) (g : Nat) :
    (h.grantTo t ty g).th t = { h.th t with vl := BitVec.ofNat 64 g, grant := ty } := th_setTh ..

/-- A thread's state may differ from another in its registers alone, and in which of them are lost. -/
def ThreadState.sameButRegs (a b : ThreadState) : Prop := { b with regs := a.regs, lost := a.lost } = a

theorem sameButRegs_trans {a b c : ThreadState} (hab : a.sameButRegs b) (hbc : b.sameButRegs c) : a.sameButRegs c := by
  unfold ThreadState.sameButRegs at hab hbc ⊢
  exact (congrArg (fun x : ThreadState => { x with regs := a.regs, lost := a.lost }) hbc).trans hab

theorem sameButRegs_setReg (h : Hart) (t : Thread) (r : Reg) (v : Word) : (h.th t).sameButRegs ((h.setReg t r v).th t) := by
  rw [th_setReg]
  rfl

/-! ### The pointers (R181) -/

theorem lapPointers_cons (h : Hart) (t : Thread) (vl : Nat) (p : LapPtr) (ps : List LapPtr) : lapPointers h t vl (p :: ps) =
    lapPointers (h.setReg t p.reg (h.reg t p.reg + BitVec.ofNat 64 (vl * 2 ^ p.size.val))) t vl ps := rfl

theorem onlyThread_lapPointers (h : Hart) (t : Thread) (vl : Nat) (ps : List LapPtr) : h.onlyThread (lapPointers h t vl ps) t := by
  induction ps generalizing h with
  | nil => exact onlyThread_refl h t
  | cons p ps ih => exact onlyThread_trans (onlyThread_setReg h t _ _) (ih _)

theorem sameButRegs_lapPointers (h : Hart) (t : Thread) (vl : Nat) (ps : List LapPtr) :
    (h.th t).sameButRegs ((lapPointers h t vl ps).th t) := by
  induction ps generalizing h with
  | nil => rfl
  | cons p ps ih => exact sameButRegs_trans (sameButRegs_setReg h t _ _) (ih _)

@[simp] theorem lapPointers_cls (h : Hart) (t : Thread) (vl : Nat) (ps : List LapPtr) : (lapPointers h t vl ps).cls = h.cls := by
  induction ps generalizing h with
  | nil => rfl
  | cons p ps ih => rw [lapPointers_cons, ih, setReg_cls]

theorem reg_lapPointers_other (h : Hart) (t : Thread) (vl : Nat) {ps : List LapPtr} {r : Reg} (hr : r ∉ ps.map LapPtr.reg) :
    (lapPointers h t vl ps).reg t r = h.reg t r := by
  induction ps generalizing h with
  | nil => rfl
  | cons p ps ih =>
    rw [List.map_cons, List.mem_cons, not_or] at hr
    obtain ⟨hp, hps⟩ := hr
    rw [lapPointers_cons, ih _ hps, reg_setReg, if_neg fun heq => hp heq.1]

/-- Each pointer goes on by `vl` of its elements, where no two slots name one register. -/
theorem reg_lapPointers_mem (h : Hart) (t : Thread) (vl : Nat) {ps : List LapPtr} (hnodup : (ps.map LapPtr.reg).Nodup)
    (hzero : 0 ∉ ps.map LapPtr.reg) {p : LapPtr} (hp : p ∈ ps) :
    (lapPointers h t vl ps).reg t p.reg = h.reg t p.reg + BitVec.ofNat 64 (vl * 2 ^ p.size.val) := by
  induction ps generalizing h with
  | nil => cases hp
  | cons q ps ih =>
    rw [List.map_cons, List.nodup_cons] at hnodup
    rw [List.map_cons, List.mem_cons, not_or] at hzero
    obtain ⟨hq, hnodup⟩ := hnodup
    obtain ⟨hq0, hzero⟩ := hzero
    rw [lapPointers_cons]
    rcases List.mem_cons.1 hp with rfl | hp
    · rw [reg_lapPointers_other _ t vl hq, reg_setReg, if_pos ⟨rfl, Ne.symm hq0⟩]
    · have hne : p.reg ≠ q.reg := fun heq => hq (heq ▸ List.mem_map_of_mem hp)
      rw [ih _ hnodup hzero hp, reg_setReg, if_neg fun heq => hne heq.1]

/-- What a legal LAP's slots are (R182). -/
theorem lapPtrsOk_iff (n : Reg) (p0 p1 p2 p3 : Option LapPtr) : lapPtrsOk n p0 p1 p2 p3 = true ↔
    let rs := (p0.toList ++ p1.toList ++ p2.toList ++ p3.toList).map LapPtr.reg
    rs.Nodup ∧ n ∉ rs ∧ 0 ∉ rs := by
  have hregs : lapRegs p0 p1 p2 p3 = (p0.toList ++ p1.toList ++ p2.toList ++ p3.toList).map LapPtr.reg := by
    simp only [lapRegs, List.map_append, Option.toList_map]
  simp only [lapPtrsOk, hregs, Bool.and_eq_true, decide_eq_true_eq, Bool.not_eq_true', List.contains_eq_mem, decide_eq_false_iff_not, and_assoc]

/-! ### The instruction -/

/-- The hart at the end of a strip: the count and the pointers, then the grant, then the PC. -/
def Hart.lapped (h : Hart) (t : Thread) (n : Reg) (ty : ElemType) (ps : List LapPtr) (cnt : Nat) (pc : Word) : Hart :=
  ((lapPointers (h.setReg t n (BitVec.ofNat 64 cnt)) t (h.th t).vl.toNat ps).grantTo t ty (grantOf h.cls ty cnt)).goto t pc

theorem exec_lap {s : State} {h : Hart} {t : Thread} (hr : s.runs h t) (n : Reg) (ty : ElemType) (p0 p1 p2 p3 : Option LapPtr)
    (off : BitVec 17) :
    let cnt := (h.reg t n).toNat - (h.th t).vl.toNat
    exec (.lap n ty p0 p1 p2 p3 off) s = .next (s.put (h.lapped t n ty (p0.toList ++ p1.toList ++ p2.toList ++ p3.toList) cnt
      (if cnt ≠ 0 then (h.th t).pc + off.signExtend 64 * 8 else (h.th t).pc + 8))) := by
  have hcnt : (if (h.th t).vl.toNat ≤ (h.reg t n).toNat then (h.reg t n).toNat - (h.th t).vl.toNat else 0) =
      (h.reg t n).toNat - (h.th t).vl.toNat := by
    split <;> omega
  change lapStep _ n ty _ off s = _
  rw [lapStep, runs_thread hr (allowed_of_both rfl rfl t)]
  simp only [hcnt, lapPointers_cls, setReg_cls]
  rfl

section
variable (h : Hart) (t : Thread) (n : Reg) (ty : ElemType) (ps : List LapPtr) (cnt : Nat) (pc : Word)

theorem reg_lapped (r : Reg) :
    (h.lapped t n ty ps cnt pc).reg t r = (lapPointers (h.setReg t n (BitVec.ofNat 64 cnt)) t (h.th t).vl.toNat ps).reg t r := by
  rw [Hart.lapped, reg_goto, Hart.reg, th_grantTo]
  rfl

theorem th_lapped : (h.lapped t n ty ps cnt pc).th t =
    { (lapPointers (h.setReg t n (BitVec.ofNat 64 cnt)) t (h.th t).vl.toNat ps).th t with
      vl := BitVec.ofNat 64 (grantOf h.cls ty cnt), grant := ty, pc := pc } := by
  rw [Hart.lapped, th_goto, th_grantTo]

theorem onlyThread_lapped : h.onlyThread (h.lapped t n ty ps cnt pc) t :=
  onlyThread_trans (onlyThread_trans (onlyThread_trans (onlyThread_setReg h t _ _) (onlyThread_lapPointers _ t _ ps))
    (onlyThread_setTh _ t _)) (onlyThread_setTh _ t _)

/-- Of the thread nothing but its registers, its length and type and its PC changes. -/
theorem th_lapped_frame : { (h.lapped t n ty ps cnt pc).th t with
    pc := (h.th t).pc, regs := (h.th t).regs, vl := (h.th t).vl, grant := (h.th t).grant, lost := (h.th t).lost } = h.th t := by
  have hsame := sameButRegs_trans (sameButRegs_setReg h t n (BitVec.ofNat 64 cnt))
    (sameButRegs_lapPointers _ t (h.th t).vl.toNat ps)
  rw [th_lapped]
  exact congrArg (fun x : ThreadState => { x with pc := (h.th t).pc, vl := (h.th t).vl, grant := (h.th t).grant }) hsame

end

/-- Settles O11: the count is written first and is no pointer, each pointer once; the grant and the PC follow. -/
theorem lapEndsAStrip : Obligations.LapEndsAStrip := by
  intro s h t n ty p0 p1 p2 p3 off hr hok ps vl cnt cap
  obtain ⟨hnodup, hn, hzero⟩ := (lapPtrsOk_iff n p0 p1 p2 p3).1 hok
  have hset (r : Reg) := reg_setReg h t n r (BitVec.ofNat 64 cnt)
  refine ⟨_, exec_lap hr n ty p0 p1 p2 p3 off, ?_, fun p hp => ?_, fun r hrn hrp => ?_, ?_, ?_, ?_, th_lapped_frame .., onlyThread_lapped ..⟩
  · rw [reg_lapped, reg_lapPointers_other _ t _ hn, hset]
    by_cases hn0 : n = 0
    · have hcnt : cnt = 0 := by
        have hread : (h.reg t n).toNat = 0 := by rw [hn0, reg_zero]; rfl
        omega
      rw [if_neg fun heq => heq.2 hn0, hn0, reg_zero, hcnt]
      rfl
    · rw [if_pos ⟨rfl, hn0⟩]
  · have hne : p.reg ≠ n := fun heq => hn (heq ▸ List.mem_map_of_mem hp)
    rw [reg_lapped, reg_lapPointers_mem _ t _ hnodup hzero hp, hset, if_neg fun heq => hne heq.1]
  · rw [reg_lapped, reg_lapPointers_other _ t _ hrp, hset, if_neg fun heq => hrn heq.1]
  · rw [th_lapped]
    rfl
  · rw [th_lapped]
  · rw [th_lapped]

end Sys2Proof.Machine
end

section
/-! PROOFS. The element-wise vector instructions: arithmetic, selects, splats, pushes and conversions (R190 to R192, R195 to R198, R200, R247). -/
namespace Sys2Proof.Machine

open Sys2Proof

/-! ### Runs without poison -/

/-- An element-wise instruction of the vector unit: the sources and the destination that it names, the scalar that it captures, its effect. -/
def isElementwise (i : Instr) (p : Pred) (d : VDst) (srcs : List (Nat × VSrc)) (c : Option Reg) (f : VEffect) : Prop :=
  ∃ k, useOf i = some { pred := p, srcs := srcs, dst := some d, unit := k, scal2 := c, vform := true } ∧ effectOf i = some f

section
variable {s : State} {h : Hart} {i : Instr} {d : VDst} {t : ElemType} {names : List VSrc} {fe : Nat → Elt}
  (hs : s.performs h) (hlt : h.vfirst < h.vlen) (hroom : h.hasRoom d)
include hs hlt hroom

/-- An element-wise run on its own delivers its elements (R191). -/
theorem exec_elementRun {u : VUse} {f : VEffect} {whole : Bool} {p : Pred} {caps : List ElemType} {bad : Nat → Bool} (hu : useOf i = some u)
    (hf : effectOf i = some f) (hv : u.vform = true) (hd : u.dst = some d) (hn : u.names = names)
    (hsrc : ∀ x ∈ names, (h.operand x).isSome = true) (hcap : ∀ v ∈ t :: caps, h.vlen ≤ capacity h.cls v) (hw : whole = true → h.vfirst = 0)
    (hbad : ∀ e, bad e = false)
    (hrun : f (ctxOf h i u) (popped h u) = elementRun whole p d t names caps bad fe (ctxOf h i u) (popped h u)) :
    exec i s = vectorOutcome s ((h.taken names).deliver d t (h.computes p t fe)) (raisedBy (h.computes p t fe))
      (saturatedBy (h.computes p t fe)) := by
  rw [exec_vectorInstr hu]
  exact elt_runs s h i u f names d t p whole caps bad fe hs hu hf hv (allowed_anchor_of_useOf hu) (fun q => hn ▸ mem_lqs_iff u q) hsrc hd hroom
    hrun hlt hcap hw fun e _ => hbad e

variable {p : Pred} {srcs : List (Nat × VSrc)} {c : Option Reg} {f : VEffect} {q : Pred} {vs : List VSource}
  (hi : isElementwise i p d srcs c f) (hn : srcs.map Prod.snd = names) (hsrc : ∀ x ∈ names, (h.operand x).isSome = true)
  (hclean : ∀ v ∈ vs, v.poison = []) (hcap : h.vlen ≤ capacity h.cls t)
  (hrun : ∀ u : VUse, u.names = names → u.scal2 = c →
    f (ctxOf h i u) (popped h u) = elementwise q d t names vs fe (ctxOf h i u) (popped h u))
include hi hn hsrc hclean hcap hrun

theorem exec_elementwise (hcaps : ∀ v ∈ vs, h.vlen ≤ capacity h.cls v.ty) (hw : retypesSource d t names vs = true → h.vfirst = 0) :
    exec i s = vectorOutcome s ((h.taken names).deliver d t (h.computes q t fe)) (raisedBy (h.computes q t fe))
      (saturatedBy (h.computes q t fe)) := by
  obtain ⟨k, hu, hf⟩ := hi
  refine exec_elementRun hs hlt hroom hu hf rfl rfl hn hsrc ?_ hw (fun e => ?_) (hrun _ hn rfl)
  · simpa using ⟨hcap, hcaps⟩
  · rw [List.any_eq_false]
    intro v hv
    simp [hclean v hv]

/-- Sources of the type written neither bound `vl` further nor hold the run to its first element (R194). -/
theorem exec_elementwise_sameType (hty : ∀ v ∈ vs, v.ty = t) :
    exec i s = vectorOutcome s ((h.taken names).deliver d t (h.computes q t fe)) (raisedBy (h.computes q t fe))
      (saturatedBy (h.computes q t fe)) :=
  exec_elementwise hs hlt hroom hi hn hsrc hclean hcap hrun (fun v hv => hty v hv ▸ hcap)
    fun hw => absurd hw (Bool.eq_false_iff.1 (retypesSource_same d names hty))

end

/-! ### Refusals (R195) -/

/-- An instruction on its own finds room for its row. -/
theorem roomFor_lone {h g : Hart} {e : VEntry} {u : VUse} (hu : useOf e.instr = some u) (hsq : g.sq = h.sq)
    (hroom : ∀ q ∈ u.sqs, h.sq[q].length < 8) : roomFor g [e] = true := by
  simp only [roomFor, List.all_eq_true]
  intro q _
  by_cases hq : q ∈ u.sqs
  · simpa [hu, hq, hsq] using Nat.succ_le_of_lt (hroom q hq)
  · simp [hu, hq]

/-- A convoy of one member whose effect traps: nothing is popped and nothing is written (R155). -/
theorem performConvoy_trap {s : State} {x : Nat} {h g : Hart} {e : VEntry} {u : VUse} {f : VEffect} {code : BitVec 8} {rest : List VEntry}
    (hm : memberOf e = some (u, f)) (htrap : f (e.ctx g.anchor.th.vstart.toNat none none 0) g = .trap code) :
    performConvoy s x h g [e] rest none = deliverTrap (setHart s x h) x { code := code, thread := .anchor, iaddr := e.addr } := by
  have hscan : scanMembers g.anchor.th.vstart.toNat ⟨⟨g, none, [], false, none, [], 0⟩, [], [], []⟩ [e] = .error (code, e.addr) := by
    simp only [scanMembers, hm, htrap]
  simp only [performConvoy, convoyRun, hscan]

/-- An instruction on its own whose effect traps. -/
theorem exec_of_trap {s : State} {h : Hart} {i : Instr} {u : VUse} {f : VEffect} {code : BitVec 8} (hs : s.performs h)
    (hsrc : ∀ x ∈ u.names, (h.operand x).isSome = true) (hu : useOf i = some u) (hf : effectOf i = some f) (hv : u.vform = true)
    (hroom : ∀ q ∈ u.sqs, h.sq[q].length < 8) (htrap : f (ctxOf h i u) (popped h u) = .trap code) :
    exec i s = .next (deliverTrap (s.put h) s.cur.hart { code := code, thread := .anchor, iaddr := h.anchor.th.pc }) := by
  obtain ⟨hh, hunit⟩ := hs
  have hr : s.runs h .anchor := ⟨hh, by rw [hunit]; rfl⟩
  have hrows := assign_one h (capture h i u none) u hu rfl fun q hq => lqs_ne_nil hsrc hq
  rw [exec_vectorInstr hu, vectorInstr, runs_thread hr (allowed_anchor_of_useOf hu), hu]
  simp only [hunit]
  unfold performNow
  dsimp only
  split
  · cases hu
    cases hv
  · rw [if_pos hv, hrows]
    refine (if_pos (roomFor_lone hu rfl hroom)).trans (congrArg Host.Outcome.next ?_)
    exact performConvoy_trap (u := u) (by simp only [memberOf, capture, hu, hf]) htrap

theorem exec_elementwise_mismatch {s : State} {h : Hart} {i : Instr} {p : Pred} {d : VDst} {srcs : List (Nat × VSrc)} {c : Option Reg}
    {f : VEffect} {names : List VSrc} (hs : s.performs h) (hroom : h.hasRoom d) (hi : isElementwise i p d srcs c f)
    (hn : srcs.map Prod.snd = names) (hsrc : ∀ x ∈ names, (h.operand x).isSome = true)
    (hrun : ∀ u : VUse, u.names = names → u.scal2 = c → f (ctxOf h i u) (popped h u) = .mismatch) :
    exec i s = .next (deliverTrap (s.put h) s.cur.hart { code := 0x02, thread := .anchor, iaddr := h.anchor.th.pc }) := by
  obtain ⟨k, hu, hf⟩ := hi
  subst hn
  exact exec_of_trap hs hsrc hu hf rfl (sqs_room rfl hroom) (hrun _ rfl rfl)

/-! ### What each effect does with live sources (R195, R196, R198, R200) -/

section
variable {h : Hart} (i : Instr) {u : VUse} (p : Pred) (d : VDst) {s1 s2 s3 : VSrc} {a b z : VSource}

theorem arith1_lone (o : Op1) (hn : u.names = [s1]) (ha : h.operand s1 = some a) :
    arith1 o p d s1 (ctxOf h i u) (popped h u) =
      if o.accepts a.ty then
        elementwise p d a.ty [s1] [a] (fun e => elt1 o (Rounding.ofWord h.anchor.th.frm) a.ty (a.get e)) (ctxOf h i u) (popped h u)
      else .mismatch := by
  rw [arith1, readSource_lone i hn ha]
  rfl

theorem arith2_lone (o : Op2) (hn : u.names = [s1, s2]) (ha : h.operand s1 = some a) (hb : h.operand s2 = some b) :
    arith2 o p d s1 s2 (ctxOf h i u) (popped h u) =
      if b.ty = a.ty ∧ o.accepts a.ty then
        elementwise p d a.ty [s1, s2] [a, b]
          (fun e => elt2 o (Rounding.ofWord h.anchor.th.frm) a.ty (a.get e) (b.get e)) (ctxOf h i u) (popped h u)
      else .mismatch := by
  rw [arith2, readSource_names (by simp [hn]) ha, readSource_names (by simp [hn]) hb]
  simp only [Bool.and_eq_true, decide_eq_true_eq, eq_comm (a := a.ty)]
  rfl

theorem arith2s_lone (o : Op2) {c : Reg} (hn : u.names = [s1]) (hc : u.scal2 = some c) (ha : h.operand s1 = some a) :
    arith2s o p d s1 (ctxOf h i u) (popped h u) =
      if o.accepts a.ty then
        elementwise p d a.ty [s1] [a]
          (fun e => elt2 o (Rounding.ofWord h.anchor.th.frm) a.ty (a.get e) (trunc a.ty (h.reg .anchor c))) (ctxOf h i u) (popped h u)
      else .mismatch := by
  rw [arith2s, readSource_lone i hn ha]
  dsimp only
  rw [scal2_lone h i hc]
  rfl

theorem arith2i_lone (o : Op2) (imm : BitVec 16) (hn : u.names = [s1]) (ha : h.operand s1 = some a) :
    arith2i o p d s1 imm (ctxOf h i u) (popped h u) =
      if o.accepts a.ty ∧ isInt a.ty then
        elementwise p d a.ty [s1] [a]
          (fun e => elt2 o (Rounding.ofWord h.anchor.th.frm) a.ty (a.get e) (trunc a.ty (imm.signExtend 64))) (ctxOf h i u) (popped h u)
      else .mismatch := by
  rw [arith2i, readSource_lone i hn ha]
  simp only [Bool.and_eq_true]
  rfl

theorem arith3_lone (o : Op3) (hn : u.names = [s1, s2, s3]) (ha : h.operand s1 = some a) (hb : h.operand s2 = some b)
    (hz : h.operand s3 = some z) :
    arith3 o p d s1 s2 s3 (ctxOf h i u) (popped h u) =
      if (b.ty = a.ty ∧ z.ty = a.ty) ∧ o.accepts a.ty then
        elementwise p d a.ty [s1, s2, s3] [a, b, z]
          (fun e => elt3 o (Rounding.ofWord h.anchor.th.frm) a.ty (a.get e) (b.get e) (z.get e)) (ctxOf h i u) (popped h u)
      else .mismatch := by
  rw [arith3, readSource_names (by simp [hn]) ha, readSource_names (by simp [hn]) hb, readSource_names (by simp [hn]) hz]
  simp only [Bool.and_eq_true, decide_eq_true_eq, eq_comm (a := a.ty)]
  rfl

theorem arith3s_lone (o : Op3) {c : Reg} (hn : u.names = [s1, s3]) (hc : u.scal2 = some c) (ha : h.operand s1 = some a)
    (hz : h.operand s3 = some z) :
    arith3s o p d s1 s3 (ctxOf h i u) (popped h u) =
      if z.ty = a.ty ∧ o.accepts a.ty then
        elementwise p d a.ty [s1, s3] [a, z]
          (fun e => elt3 o (Rounding.ofWord h.anchor.th.frm) a.ty (a.get e) (trunc a.ty (h.reg .anchor c)) (z.get e)) (ctxOf h i u) (popped h u)
      else .mismatch := by
  rw [arith3s, readSource_names (by simp [hn]) ha, readSource_names (by simp [hn]) hz]
  simp only [Bool.and_eq_true, decide_eq_true_eq, eq_comm (a := a.ty), scal2_lone h i hc]
  rfl

/-- A select reads its mask as an operand: no element is inactive (R198). -/
theorem select2_lone (names : List VSrc) (bs : List VSource) (g : Nat → Word) :
    select2 p d s1 a names bs g (ctxOf h i u) (popped h u) =
      elementwise ⟨p.joined, none, false⟩ d a.ty (s1 :: names) (a :: bs)
        (fun e => .quiet (if h.picks p.sel e = true then trunc a.ty (a.get e) else g e)) (ctxOf h i u) (popped h u) := by
  simp only [select2, maskBit_lone]

theorem selectVV_lone (hn : u.names = [s1, s2]) (ha : h.operand s1 = some a) (hb : h.operand s2 = some b) (hbt : b.ty = a.ty) :
    selectVV p d s1 s2 (ctxOf h i u) (popped h u) =
      elementwise ⟨p.joined, none, false⟩ d a.ty [s1, s2] [a, b]
        (fun e => .quiet (if h.picks p.sel e = true then trunc a.ty (a.get e) else b.get e)) (ctxOf h i u) (popped h u) := by
  rw [selectVV, readSource_names (by simp [hn]) ha, readSource_names (by simp [hn]) hb]
  exact (if_pos hbt.symm).trans (select2_lone ..)

theorem selectVS_lone {c : Reg} (hn : u.names = [s1]) (hc : u.scal2 = some c) (ha : h.operand s1 = some a) :
    selectVS p d s1 (ctxOf h i u) (popped h u) =
      elementwise ⟨p.joined, none, false⟩ d a.ty [s1] [a]
        (fun e => .quiet (if h.picks p.sel e = true then trunc a.ty (a.get e) else trunc a.ty (h.reg .anchor c))) (ctxOf h i u) (popped h u) := by
  rw [selectVS, readSource_lone i hn ha, ← scal2_lone h i hc]
  exact select2_lone ..

theorem push_lone (q : Fin 2) (hn : u.names = [s1]) (ha : h.operand s1 = some a) :
    push p q s1 (ctxOf h i u) (popped h u) =
      elementRun true p (.sq q) a.ty [s1] [a.ty] (fun e => a.poison.contains e) (fun e => .quiet (trunc a.ty (a.get e)))
        (ctxOf h i u) (popped h u) := by
  rw [push, readSource_lone i hn ha]

theorem convert_lone (sat : Bool) (t : ElemType) (hn : u.names = [s1]) (ha : h.operand s1 = some a) (hq : a.ty ≠ .qn4)
    (hsat : sat = true → isInt a.ty = true) :
    convert sat p d s1 t (ctxOf h i u) (popped h u) =
      elementwise p d t [s1] [a] (fun e => eltConvert (Rounding.ofWord h.anchor.th.frm) sat a.ty t (a.get e)) (ctxOf h i u) (popped h u) := by
  have hok : (decide (a.ty ≠ .qn4) && (!sat || isInt a.ty)) = true := by
    cases sat with
    | false => simpa using hq
    | true => simpa [hsat rfl] using hq
  rw [convert, readSource_lone i hn ha]
  exact if_pos hok

end

/-- A conversion on its own: where the type changes, its destination is no source or it starts at its first element (R194, R200). -/
theorem exec_convert {s : State} {h : Hart} {i : Instr} {p : Pred} {d : VDst} {s1 : VSrc} {a : VSource} {t : ElemType} {sat : Bool}
    (hs : s.performs h) (hlt : h.vfirst < h.vlen) (hroom : h.hasRoom d) (hi : isElementwise i p d [(0, s1)] none (convert sat p d s1 t))
    (ha : h.operand s1 = some a) (hpa : a.poison = []) (hcap : h.vlen ≤ capacity h.cls a.ty) (hcapt : h.vlen ≤ capacity h.cls t)
    (hq : a.ty ≠ .qn4) (hsat : sat = true → isInt a.ty = true) (hm : t = a.ty ∨ h.mayResume d [s1]) :
    let es := h.computes p t fun e => eltConvert (Rounding.ofWord h.anchor.th.frm) sat a.ty t (a.get e)
    exec i s = vectorOutcome s ((h.taken [s1]).deliver d t es) (raisedBy es) (saturatedBy es) := by
  refine exec_elementwise (vs := [a]) hs hlt hroom hi rfl (by simp [ha]) (by simp [hpa]) hcapt
    (fun u hn _ => convert_lone _ p d sat t hn ha hq hsat) (by simpa using hcap) fun hw => ?_
  rcases hm with rfl | hm
  · exact absurd hw (Bool.eq_false_iff.1 (retypesSource_same d [s1] (by simp)))
  · exact vfirst_of_mayResume hm hw

/-- Settles O25: each instruction by its effect, with live sources and no poison; its type mismatches from live sources alone. -/
theorem vectorElementwise : Obligations.VectorElementwise := by
  refine ⟨fun s h p d s1 s2 c imm a hs ha => ?_, fun s h p d s1 s2 s3 c a b z u q hs ha hpa hcap hlt hroom => ?_⟩
  · intro t scal vv vs vi mismatch traps
    have hsrc : ∀ x ∈ [s1], (h.operand x).isSome = true := by simp [ha]
    have hsrc2 {b : VSource} (hb : h.operand s2 = some b) : ∀ x ∈ [s1, s2], (h.operand x).isSome = true := by simp [ha, hb]
    have hvv : ∀ x ∈ vv, isElementwise x.1 p d [(0, s1), (1, s2)] none (arith2 x.2 p d s1 s2) := by
      intro x hx
      simp only [vv] at hx
      fin_cases hx <;> exact ⟨_, rfl, rfl⟩
    have hvs : ∀ x ∈ vs, isElementwise x.1 p d [(0, s1)] (some c) (arith2s x.2 p d s1) := by
      intro x hx
      simp only [vs] at hx
      fin_cases hx <;> exact ⟨_, rfl, rfl⟩
    have hvi : ∀ x ∈ vi, isElementwise x.1 p d [(0, s1)] none (arith2i x.2 p d s1 imm) := by
      intro x hx
      simp only [vi] at hx
      fin_cases hx <;> exact ⟨_, rfl, rfl⟩
    refine ⟨fun hroom hcap hlt hpa => ⟨fun b hb hbt hpb x hx hk => ?_, fun x hx hk => ?_, fun hint x hx hk => ?_⟩,
      fun hroom => ⟨fun b hb x hx hbad => ?_, fun x hx hbad => ?_, fun x hx hbad => ?_⟩⟩
    · exact exec_elementwise_sameType (vs := [a, b]) hs hlt hroom (hvv x hx) rfl (hsrc2 hb) (by simp [hpa, hpb]) hcap
        (fun u hn _ => (arith2_lone _ p d x.2 hn ha hb).trans (if_pos ⟨hbt, hk⟩)) (by simp [hbt, t])
    · exact exec_elementwise_sameType (vs := [a]) hs hlt hroom (hvs x hx) rfl hsrc (by simp [hpa]) hcap
        (fun u hn hc => (arith2s_lone _ p d x.2 hn hc ha).trans (if_pos hk)) (by simp [t])
    · exact exec_elementwise_sameType (vs := [a]) hs hlt hroom (hvi x hx) rfl hsrc (by simp [hpa]) hcap
        (fun u hn _ => (arith2i_lone _ p d x.2 imm hn ha).trans (if_pos ⟨hk, hint⟩)) (by simp [t])
    · exact exec_elementwise_mismatch hs hroom (hvv x hx) rfl (hsrc2 hb) fun u hn _ =>
        (arith2_lone _ p d x.2 hn ha hb).trans (if_neg fun hok => hbad.elim (· hok.1) (Bool.eq_false_iff.1 · hok.2))
    · exact exec_elementwise_mismatch hs hroom (hvs x hx) rfl hsrc fun u hn hc =>
        (arith2s_lone _ p d x.2 hn hc ha).trans (if_neg (Bool.eq_false_iff.1 hbad))
    · exact exec_elementwise_mismatch hs hroom (hvi x hx) rfl hsrc fun u hn _ =>
        (arith2i_lone _ p d x.2 imm hn ha).trans (if_neg fun hok =>
          hbad.elim (Bool.eq_false_iff.1 · hok.1) (Bool.eq_false_iff.1 · hok.2))
  · intro t rm scal does
    have hsrc : ∀ x ∈ [s1], (h.operand x).isSome = true := by simp [ha]
    refine ⟨fun x hx hk => ?_, fun hb hbt hpb hz hzt hpz x hx hk => ?_, fun hz hzt hpz x hx hk => ?_, fun hb hbt hpb => ?_, ?_,
      fun hgrant => ?_, fun hq h0 => ?_, fun hqn4 hcapu hm => ?_⟩
    · have hi : isElementwise x.1 p d [(0, s1)] none (arith1 x.2 p d s1) := by
        fin_cases hx <;> exact ⟨_, rfl, rfl⟩
      exact exec_elementwise_sameType (vs := [a]) hs hlt hroom hi rfl hsrc (by simp [hpa]) hcap
        (fun u hn _ => (arith1_lone _ p d x.2 hn ha).trans (if_pos hk)) (by simp [t])
    · have hi : isElementwise x.1 p d [(0, s1), (1, s2), (2, s3)] none (arith3 x.2 p d s1 s2 s3) := by
        fin_cases hx <;> exact ⟨_, rfl, rfl⟩
      exact exec_elementwise_sameType (vs := [a, b, z]) hs hlt hroom hi rfl (by simp [ha, hb, hz]) (by simp [hpa, hpb, hpz]) hcap
        (fun u hn _ => (arith3_lone _ p d x.2 hn ha hb hz).trans (if_pos ⟨⟨hbt, hzt⟩, hk⟩)) (by simp [hbt, hzt, t])
    · have hi : isElementwise x.1 p d [(0, s1), (2, s3)] (some c) (arith3s x.2 p d s1 s3) := by
        fin_cases hx <;> exact ⟨_, rfl, rfl⟩
      exact exec_elementwise_sameType (vs := [a, z]) hs hlt hroom hi rfl (by simp [ha, hz]) (by simp [hpa, hpz]) hcap
        (fun u hn hc => (arith3s_lone _ p d x.2 hn hc ha hz).trans (if_pos ⟨hzt, hk⟩)) (by simp [hzt, t])
    · exact exec_elementwise_sameType (vs := [a, b]) hs hlt hroom ⟨_, rfl, rfl⟩ rfl (by simp [ha, hb]) (by simp [hpa, hpb]) hcap
        (fun u hn _ => selectVV_lone _ p d hn ha hb hbt) (by simp [hbt, t])
    · exact exec_elementwise_sameType (vs := [a]) hs hlt hroom ⟨_, rfl, rfl⟩ rfl hsrc (by simp [hpa]) hcap
        (fun u hn hc => selectVS_lone _ p d hn hc ha) (by simp [t])
    · exact exec_elementRun (caps := []) hs hlt hroom rfl rfl rfl rfl rfl (List.forall_mem_nil _) (by simpa using hgrant)
        (by cases d <;> nofun) (fun _ => rfl) rfl
    · exact exec_elementRun (d := .sq q) hs hlt hq rfl rfl rfl rfl rfl hsrc (by simpa [t] using hcap) (fun _ => h0) (by simp [hpa])
        (push_lone _ p q rfl ha)
    · exact ⟨exec_convert (sat := false) hs hlt hroom ⟨_, rfl, rfl⟩ ha hpa hcap hcapu hqn4 nofun hm,
        fun hint => exec_convert (sat := true) hs hlt hroom ⟨_, rfl, rfl⟩ ha hpa hcap hcapu hqn4 (fun _ => hint) hm⟩

end Sys2Proof.Machine
end

section
/-! PROOFS. Slides, gathers, compress and expand, and single elements in the vector unit (R207 to R217). -/
namespace Sys2Proof.Machine

open Sys2Proof

/-! ### Runs of moved elements (R207) -/

/-- A destination that is no source lets the move start anywhere (R61, R207). -/
theorem vfirst_of_namesSource {h : Hart} {d : VDst} {names : List VSrc} (hm : h.mayResume d names) (hw : namesSource d names = true) :
    h.vfirst = 0 := by
  rcases hm with h0 | hno
  · simp [Hart.vfirst, h0]
  · cases d with
    | sq q => cases hw
    | reg r =>
      obtain ⟨x, hx, hr⟩ := List.any_eq_true.1 hw
      cases x with
      | lq _ | vf => cases hr
      | reg r' z =>
        obtain rfl : r' = r := by simpa using hr
        exact absurd hx (hno r' z rfl)

/-- A move of elements that meets no poison, on its own. -/
theorem exec_move {s : State} {h : Hart} {i : Instr} {u : VUse} {f : VEffect} {p : Pred} {d : VDst} {t : ElemType} {names : List VSrc}
    {caps : List ElemType} {bad : Nat → Bool} {g : Nat → Word} (hs : s.performs h) (hlt : h.vfirst < h.vlen) (hroom : h.hasRoom d)
    (hm : h.mayResume d names) (hu : useOf i = some u) (hf : effectOf i = some f) (hv : u.vform = true) (hd : u.dst = some d)
    (hn : u.names = names) (hsrc : ∀ x ∈ names, (h.operand x).isSome = true) (hcap : ∀ v ∈ t :: caps, h.vlen ≤ capacity h.cls v)
    (hbad : ∀ e, bad e = false)
    (hrun : f (ctxOf h i u) (popped h u) =
      elementRun (namesSource d names) p d t names caps bad (fun e => .quiet (g e)) (ctxOf h i u) (popped h u)) :
    exec i s = vectorOutcome s ((h.taken names).deliver d t (h.computes p t fun e => .quiet (g e))) 0 false := by
  have hexec := exec_elementRun hs hlt hroom hu hf hv hd hn hsrc hcap (vfirst_of_namesSource hm) hbad hrun
  rwa [raisedBy_quiet, saturatedBy_quiet] at hexec

/-! ### What the moves write (R209 to R217) -/

/-- The element that a slide writes: the one it reads, or the fill. -/
abbrev slid (up : Bool) (n vl : Nat) (a : VSource) (w : Word) (e : Nat) : Word := (slideFrom up n vl e).elim w a.get

theorem slid_up (n vl : Nat) (a : VSource) (w : Word) : slid true n vl a w = fun e => if n ≤ e then a.get (e - n) else w := by
  funext e
  by_cases hn : n ≤ e <;> simp [slid, slideFrom, hn]

theorem slid_down (n vl : Nat) (a : VSource) (w : Word) : slid false n vl a w = fun e => if e + n < vl then a.get (e + n) else w := by
  funext e
  by_cases hn : e + n < vl <;> simp [slid, slideFrom, hn]

/-- The picked elements, packed. -/
abbrev Hart.packs (h : Hart) (sel : MaskSel) (a : VSource) : List Word := ((List.range h.vlen).filter (h.picks sel)).map a.get

/-- The hart after `VCOMPRESS`: the packed elements delivered, `vl` their number. -/
abbrev Hart.compressed (h : Hart) (p : Pred) (d : VDst) (s1 : VSrc) (a : VSource) : Hart :=
  setAnchorVl ((h.taken [s1]).deliver d a.ty ((h.packs p.sel a).map fun w => some (.quiet w))) (h.packs p.sel a).length

/-- The scalar of element k, 0 of the type outside the vector. -/
abbrev Hart.scalarAt (h : Hart) (a : VSource) (k : Nat) : Word := eltScalar a.ty (if k < h.vlen then a.get k else zeroOf a.ty)

/-- The type that `VINS` writes: the destination's tag, or the grant type. -/
abbrev Hart.insertTag (h : Hart) (d : VDst) : ElemType :=
  match d with
  | .reg r => (h.anchor.vregs[r].ty).getD h.anchor.th.grant
  | .sq _ => h.anchor.th.grant

/-- One element, k, is written. -/
abbrev Hart.onlyAt (h : Hart) (k : Nat) (w : Word) : List (Option Elt) :=
  (List.range h.vlen).map fun e => if e = k then some (.quiet w) else none

theorem bits_onlyAt (h : Hart) (k : Nat) (w : Word) :
    (h.onlyAt k w).map (Option.map Elt.bits) = (List.range h.vlen).map fun e => if e = k then some w else none := by
  rw [List.map_map]
  refine List.map_congr_left fun e _ => ?_
  by_cases he : e = k <;> simp [he, Elt.quiet]

/-! ### What an instruction on its own runs with (R23, R217) -/

theorem scal1_lone (h : Hart) (i : Instr) {u : VUse} {r : Reg} (hr : u.scal1 = some r) : (ctxOf h i u).scal1 = h.reg .anchor r := by
  change capScal h u.scal1 = _
  rw [hr]
  rfl

theorem insertType_lone (h : Hart) (i : Instr) (u : VUse) (d : VDst) : insertType (ctxOf h i u) (popped h u) d = h.insertTag d := by
  cases d <;> rfl

section
variable {s : State} {h : Hart} {i : Instr} {u : VUse} {p : Pred} {d : VDst} {s1 s2 s3 : VSrc} {a b x : VSource} (hs : s.performs h)
  (hlt : h.vfirst < h.vlen) (hroom : h.hasRoom d) (ha : h.operand s1 = some a) (hpa : a.poison = []) (hcap : h.vlen ≤ capacity h.cls a.ty)

section
variable (hu : useOf i = some u) (hv : u.vform = true) (hd : u.dst = some d)
include hs hlt hroom ha hpa hcap hu hv hd

/-! ### Slides (R209, R210) -/

/-- A slide by n, its fill taken from the scalar that it captured. -/
theorem exec_slide (hn : u.names = [s1]) {up : Bool} {amount : VCtx → Nat} {n : Nat} {fill : Fill} {w : Word}
    (hf : effectOf i = some (slide up p d s1 amount fill)) (hamount : amount (ctxOf h i u) = n)
    (hw : fillValue fill a.ty (capScal h u.scal3) = some w) (hm : h.mayResume d [s1]) :
    exec i s = vectorOutcome s ((h.taken [s1]).deliver d a.ty (h.computes p a.ty fun e => .quiet (slid up n h.vlen a w e))) 0 false := by
  refine exec_move (bad := ?bad) hs hlt hroom hm hu hf hv hd hn (by simp [ha]) (caps := [a.ty]) (by simpa using hcap) ?clean ?run
  case run =>
    rw [slide, readSource_lone i hn ha]
    dsimp only
    rw [show fillValue fill a.ty (ctxOf h i u).scal3 = some w from hw, hamount, vl_lone]
    refine congrArg (fun g => elementRun _ p d a.ty [s1] [a.ty] _ g _ _) (funext fun e => congrArg Elt.quiet ?_)
    rw [slid]
    cases slideFrom up n h.vlen e <;> rfl
  case clean =>
    intro e
    split
    · simp [hpa]
    · rfl

/-! ### Gathers (R211, R212) -/

theorem exec_gather (hn : u.names = [s1, s2]) (hf : effectOf i = some (gather p d s1 s2)) (hb : h.operand s2 = some b) (hpb : b.poison = [])
    (hcapb : h.vlen ≤ capacity h.cls b.ty) (hint : isInt b.ty = true) (hm : h.mayResume d [s1, s2]) :
    exec i s = vectorOutcome s ((h.taken [s1, s2]).deliver d a.ty (h.computes p a.ty fun e =>
      .quiet (if natIndex b.ty (b.get e) < h.vlen then a.get (natIndex b.ty (b.get e)) else zeroOf a.ty))) 0 false := by
  refine exec_move (bad := ?bad) hs hlt hroom hm hu hf hv hd hn (by simp [ha, hb]) (caps := [a.ty, b.ty]) (by simpa using ⟨hcap, hcapb⟩) ?clean ?run
  case run =>
    rw [gather, readSource_names (by simp [hn]) ha, readSource_names (by simp [hn]) hb]
    exact if_pos hint
  case clean => exact fun e => by simp [hpa, hpb]

/-- Indices below `vl` read the first source, those from `vl` below 2·`vl` the second. -/
theorem exec_gather2 (hn : u.names = [s1, s2, s3]) (hf : effectOf i = some (gather2 p d s1 s2 s3)) (hb : h.operand s2 = some b)
    (hpb : b.poison = []) (hty : b.ty = a.ty) (hx : h.operand s3 = some x) (hpx : x.poison = []) (hcapx : h.vlen ≤ capacity h.cls x.ty)
    (hint : isInt x.ty = true) (hm : h.mayResume d [s1, s2, s3]) :
    exec i s = vectorOutcome s ((h.taken [s1, s2, s3]).deliver d a.ty (h.computes p a.ty fun e =>
      .quiet (if natIndex x.ty (x.get e) < h.vlen then a.get (natIndex x.ty (x.get e))
        else if natIndex x.ty (x.get e) < 2 * h.vlen then b.get (natIndex x.ty (x.get e) - h.vlen) else zeroOf a.ty))) 0 false := by
  refine exec_move (bad := ?bad) hs hlt hroom hm hu hf hv hd hn (by simp [ha, hb, hx]) (caps := [a.ty, x.ty]) (by simpa using ⟨hcap, hcapx⟩)
    ?clean ?run
  case run =>
    rw [gather2, readSource_names (by simp [hn]) ha, readSource_names (by simp [hn]) hb, readSource_names (by simp [hn]) hx]
    have hok : (decide (a.ty = b.ty) && isInt x.ty) = true := by simp [hty, hint]
    exact if_pos hok
  case clean => exact fun e => by simp [hpa, hpb, hpx]

/-! ### Expand and compress (R213, R214) -/

/-- An element reads the source at the number of picked elements below it. -/
theorem exec_expand (hn : u.names = [s1]) (hf : effectOf i = some (expand p d s1)) (hm : h.mayResume d [s1]) :
    exec i s = vectorOutcome s ((h.taken [s1]).deliver d a.ty (h.computes p a.ty fun e =>
      .quiet (a.get ((List.range e).filter (h.picks p.sel)).length))) 0 false := by
  refine exec_move (bad := ?bad) hs hlt hroom hm hu hf hv hd hn (by simp [ha]) (caps := [a.ty]) (by simpa using hcap) ?clean ?run
  case run =>
    rw [expand, readSource_lone i hn ha]
    dsimp only
    rw [funext (maskBit_lone h i u p.sel)]
  case clean => exact fun e => by simp [hpa]

end

variable (h0 : h.vfirst = 0)
include hs hlt hroom ha hpa hcap h0 in
theorem exec_vcompress : exec (.vcompress p d s1) s = vectorOutcome s (h.compressed p d s1 a) 0 false := by
  have hsrc : ∀ y ∈ [s1], (h.operand y).isSome = true := by simp [ha]
  let u : VUse := { pred := p, srcs := [(0, s1)], dst := some d, unit := .prm, setsVl := true, vform := true }
  refine exec_whole (u := u) (caps := [a.ty]) (names := [s1]) (nothing := some (d, a.ty)) (bad := ?bad) (body := ?body) (vf := none) (part := [])
    hs rfl rfl rfl hsrc (sqs_room rfl hroom) (h0 ▸ hlt) h0 (by simpa using hcap) ?clean ?run ?ends
    ((deliver_keepsPlace (h.taken [s1]) d a.ty _).trans ⟨rfl, rfl, rfl⟩)
  case run => rw [compress, readSource_lone _ rfl ha]
  case clean => exact fun e _ => by simp [hpa]
  case ends =>
    dsimp only
    rw [funext (maskBit_lone h _ u p.sel), popQueues_lone (u := u) (names := [s1]) _ rfl hsrc, vl_lone]
    cases d <;> simp [Hart.compressed, Hart.deliver, Function.comp_def, Elt.quiet]

/-! ### Single elements (R216, R217) -/

include hs hlt ha hpa hcap h0 in
theorem exec_extract {r : Reg} {index : VCtx → Nat} {k : Nat} (hu : useOf i = some u) (hf : effectOf i = some (extract r s1 index))
    (hv : u.vform = true) (hn : u.names = [s1]) (hdst : u.dst = none) (hk : index (ctxOf h i u) = k) :
    exec i s = vectorOutcome s ((h.taken [s1]).withScalar r (h.scalarAt a k)) 0 false := by
  have hsrc : ∀ y ∈ [s1], (h.operand y).isSome = true := by simp [ha]
  refine exec_whole (caps := [a.ty]) (names := [s1]) (nothing := none) (bad := ?bad) (body := ?body) (vf := none) (part := []) hs hu hf hv
    (hn ▸ hsrc) (sqs_none_room h hdst) (h0 ▸ hlt) h0 (by simpa using hcap) ?clean ?run ?ends ⟨rfl, rfl, rfl⟩
  case run => rw [extract, readSource_lone i hn ha]
  case clean => exact fun e _ => by simp [hpa]
  case ends =>
    dsimp only
    rw [hk, popQueues_lone i hn hsrc, vl_lone]
    rfl

include hs hlt hroom h0 in
theorem exec_insert {r : Reg} {index : VCtx → Nat} {k : Nat} (hu : useOf i = some u) (hf : effectOf i = some (insert d index))
    (hv : u.vform = true) (hsrcs : u.srcs = []) (hd : u.dst = some d) (hr : u.scal1 = some r) (hk : index (ctxOf h i u) = k)
    (hcapd : h.vlen ≤ capacity h.cls (h.insertTag d)) :
    exec i s = vectorOutcome s (h.deliver d (h.insertTag d) (h.onlyAt k (trunc (h.insertTag d) (h.reg .anchor r)))) 0 false := by
  refine exec_whole (caps := [h.insertTag d]) (names := []) (nothing := some (d, h.insertTag d)) (bad := fun _ => false) (body := ?body) (vf := none)
    (part := []) hs hu hf hv (names_none_live h hsrcs) (sqs_room hd hroom) (h0 ▸ hlt) h0 (by simpa using hcapd) (fun _ _ => rfl) ?run ?ends
    (deliver_keepsPlace h d _ _)
  case run => rw [insert, insertType_lone]
  case ends =>
    dsimp only
    rw [hk, scal1_lone h i hr, vl_lone, ← bits_onlyAt, writeDst_lone _ _ _ _ _ _ (by simp), popped_none h hsrcs]

end

/-- Settles O28: slides, gathers and `VEXPAND` as element-wise runs, `VCOMPRESS`, `VEXTR` and `VINS` as whole instructions. -/
theorem elementMoves : Obligations.ElementMoves := by
  intro s h j p d s1 s2 s3 r c n idx fill a hs ha hpa hcap hlt hroom t vl does up dn k scalar dt puts
  refine ⟨fun w hw => ?_, fun b hb hpb hcapb => ⟨fun hint => ?_, fun x hx hpx hcapx hint hty => ?_⟩, ?_, fun h0 => ⟨?_, ?_, ?_, ?_, ?_⟩⟩
  · have hfill : fillValue fill t (capScal h (fillReg fill)) = some w := by cases fill <;> exact hw
    have hup (n : Nat) : slid true n vl a w = up n w := slid_up n vl a w
    have hdown (n : Nat) : slid false n vl a w = dn n w := slid_down n vl a w
    simp only [does, ← hup, ← hdown]
    exact ⟨exec_slide hs hlt hroom ha hpa hcap rfl rfl rfl rfl rfl (congrArg BitVec.toNat (scal2_lone h _ rfl)) hfill,
      exec_slide hs hlt hroom ha hpa hcap rfl rfl rfl rfl rfl (congrArg BitVec.toNat (scal2_lone h _ rfl)) hfill,
      exec_slide hs hlt hroom ha hpa hcap rfl rfl rfl rfl rfl rfl hfill,
      exec_slide hs hlt hroom ha hpa hcap rfl rfl rfl rfl rfl rfl hfill⟩
  · exact exec_gather hs hlt hroom ha hpa hcap rfl rfl rfl rfl rfl hb hpb hcapb hint
  · exact exec_gather2 hs hlt hroom ha hpa hcap rfl rfl rfl rfl rfl hb hpb hty hx hpx hcapx hint
  · exact exec_expand hs hlt hroom ha hpa hcap rfl rfl rfl rfl rfl
  · exact exec_vcompress hs hlt hroom ha hpa hcap h0
  · exact exec_extract hs hlt ha hpa hcap h0 rfl rfl rfl rfl rfl (congrArg BitVec.toNat (scal2_lone h _ rfl))
  · exact exec_extract hs hlt ha hpa hcap h0 rfl rfl rfl rfl rfl rfl
  · exact exec_insert hs hlt hroom h0 rfl rfl rfl rfl rfl rfl (congrArg BitVec.toNat (scal2_lone h _ rfl))
  · exact exec_insert hs hlt hroom h0 rfl rfl rfl rfl rfl rfl rfl

end Sys2Proof.Machine
end

section
/-! PROOFS. Scalar loads, and the alignment of every scalar access (R107, R232, R233, R236, R327). -/
namespace Sys2Proof.Machine

open Sys2Proof

/-! ### An item's bytes as a register value (R232) -/

theorem leNat_lt (bs : List Byte) : leNat bs < 256 ^ bs.length := by
  induction bs with
  | nil => simp [leNat]
  | cons b bs ih =>
    have hb := b.isLt
    rw [leNat, List.length_cons, pow_succ']
    omega

/-- At most n bytes make a number of n bytes. -/
theorem leNat_lt_item {bs : List Byte} {n : Nat} (h : bs.length ≤ n) : leNat bs < 2 ^ (8 * n) := by
  have hpow : 2 ^ (8 * n) = 256 ^ n := by rw [pow_mul]; norm_num
  rw [hpow]
  exact (leNat_lt bs).trans_le (Nat.pow_le_pow_right (by decide) h)

theorem extendItem_natural (n : Nat) (bs : List Byte) : extendItem false n bs = BitVec.ofNat 64 (leNat bs) := rfl

/-- A signed item is sign-extended. -/
theorem extendItem_signed {n : Nat} (hn : 0 < n) {bs : List Byte} (h : bs.length ≤ n) :
    extendItem true n bs = (BitVec.ofNat (8 * n) (leNat bs)).signExtend 64 := by
  have hlt := leNat_lt_item h
  have hhalf : 2 ^ (8 * n) = 2 * 2 ^ (8 * n - 1) := by rw [← pow_succ']; congr 1; omega
  rw [BitVec.signExtend, BitVec.toInt_eq_toNat_cond, BitVec.toNat_ofNat, Nat.mod_eq_of_lt hlt]
  simp only [extendItem, Bool.true_and, decide_eq_true_eq]
  by_cases hneg : 2 ^ (8 * n - 1) ≤ leNat bs
  · rw [if_pos hneg, if_neg (by omega)]; push_cast; rfl
  · rw [if_neg hneg, if_pos (by omega)]; rfl

/-- The low bytes of an extended item are the item. -/
theorem extendItem_low {n : Nat} (hn : 0 < n) (hn8 : n ≤ 8) (signed : Bool) {bs : List Byte} (h : bs.length ≤ n) :
    (extendItem signed n bs).toNat % 2 ^ (8 * n) = leNat bs := by
  have hlt : (leNat bs : Int) < 2 ^ (8 * n) := by exact_mod_cast leNat_lt_item h
  have hdvd : (2 : Int) ^ (8 * n) ∣ 2 ^ 64 := pow_dvd_pow 2 (by omega)
  have hofInt {i : Int} (hi : i % 2 ^ (8 * n) = leNat bs) : (BitVec.ofInt 64 i).toNat % 2 ^ (8 * n) = leNat bs := by
    have hmod : ((BitVec.ofInt 64 i).toNat : Int) % 2 ^ (8 * n) = leNat bs := by
      rw [BitVec.toNat_ofInt, Int.toNat_of_nonneg (Int.emod_nonneg _ (by norm_num)), ← hi]
      exact Int.emod_emod_of_dvd i hdvd
    exact_mod_cast hmod
  have hself : (leNat bs : Int) % 2 ^ (8 * n) = leNat bs := Int.emod_eq_of_lt (Int.natCast_nonneg _) hlt
  unfold extendItem
  dsimp only
  split
  · exact hofInt (by rw [Int.sub_emod_right, hself])
  · exact hofInt (i := leNat bs) hself

/-! ### What a scalar read gives (R107, R323, R327) -/

theorem sliceBytes_length_le (bs : List Byte) (off n : Nat) : (sliceBytes bs off n).length ≤ n := by
  rw [sliceBytes, List.length_take]; exact Nat.min_le_left ..

theorem dieRead_length_le (s : State) (die loc n : Nat) (cached : Bool) : (dieRead s die loc n cached).2.1.length ≤ n := by
  unfold dieRead
  split
  · split
    · exact sliceBytes_length_le ..
    · exact (Memory.length_readAll ..).le
  · exact (Memory.length_readAll ..).le

theorem scalarRead_length_le (s : State) (core loc n : Nat) (cached : Bool) : (scalarRead s core loc n cached).2.1.length ≤ n := by
  unfold scalarRead
  split
  · exact sliceBytes_length_le ..
  · exact dieRead_length_le ..

theorem acquireRead_length_le (s : State) (core loc n : Nat) (cached : Bool) (sc : Scope) :
    (acquireRead s core loc n cached sc).2.1.length ≤ n := by
  unfold acquireRead
  split
  · exact dieRead_length_le ..
  · exact scalarRead_length_le ..

theorem loadValue_length_le (s : State) (core loc n : Nat) (cached : Bool) (o : MemOrder) :
    (loadValue s core loc n cached o).2.1.length ≤ n := by
  unfold loadValue
  split
  · exact acquireRead_length_le ..
  · exact scalarRead_length_le ..

/-- Where the core's L1 holds no stored byte of the line, an access that passes the L1 by changes no more than its copy. -/
theorem passL1_clean {s : State} {core loc : Nat} (h : ∀ l, l1Hit s core (lineOf loc) = some l → l.dirty = []) :
    s.sameButLines (passL1 s core loc) := by
  unfold passL1 l1CleanDrop
  rw [l1Clean_clean _ _ h]
  split <;> rfl

/-- A scalar read of a page that is not cached gives the bytes at their home. -/
theorem scalarRead_uncached {s : State} {core loc n : Nat} (h : ∀ l, l1Hit s core (lineOf loc) = some l → l.dirty = [])
    (hp : ∀ p ∈ s.poison, p < loc ∨ loc + n ≤ p) :
    ∃ t : State, scalarRead s core loc n false = (t, Memory.readAll s.mem loc n, false) ∧ s.sameButLines t := by
  have hpass := passL1_clean h
  obtain ⟨hread, hfar⟩ := dieRead_uncached (passL1 s core loc) (coreDie core) loc n
  have hmem : (passL1 s core loc).mem = s.mem := (congrArg State.mem hpass :)
  have hpoison : (passL1 s core loc).poison = s.poison := (congrArg State.poison hpass :)
  rw [homeRead_unpoisoned (hpoison ▸ hp), hmem] at hread
  refine ⟨(dieRead (passL1 s core loc) (coreDie core) loc n false).1, ?_,
    hpass.trans (congrArg (fun x : State => { x with l1 := (passL1 s core loc).l1 }) hfar)⟩
  unfold scalarRead
  exact Prod.ext rfl hread

theorem modHart_sameButLines {s t : State} (h : s.sameButLines t) (i : Nat) (f : Hart → Hart) :
    { modHart t i f with l1 := s.l1, farCache := s.farCache } = modHart s i f := congrArg (fun x : State => modHart x i f) h

/-! ### A load at its instruction (R232, R233) -/

section
variable {s : State} {h : Hart} (hr : s.runs h .pacer) {d s1 s2 : Reg} {ord : MemOrder} {off : BitVec 32}
include hr

/-- A load that meets no poison writes d and goes on. -/
theorem scalarLoad_next {s' : State} {loc n : Nat} {cached : Bool} {bs : List Byte} (hrec : s.mgmt.recoveries = [])
    (ht : translate s h.core h.part (scalarVa h s1 off) .load false = .ok (loc, cached)) (hal : (scalarVa h s1 off).toNat % n = 0)
    (hv : loadValue (noteAcquire (settleSide (noteTlb s h.core h.part (scalarVa h s1 off)) s.cur.hart .scalar loc n) s.cur.hart ord loc n)
      h.core loc n cached ord = (s', bs, false)) (signed : Bool) :
    scalarLoad n signed d s1 ord off s =
      .next (modHart s' s.cur.hart fun h' => (h'.setReg .pacer d (extendItem signed n bs)).advance .pacer) := by
  have hwaits : acquireWaits (noteTlb s h.core h.part (scalarVa h s1 off)) h ord = false := by
    rw [acquireWaits, dirtyFenced_none (by rwa [(noteTlb_sameButCaches ..).mgmt]), Bool.and_false]
  rw [scalarLoad, runs_pacer hr]
  dsimp only
  rw [scalarAccess_ok s _ h _ _ _ _ loc cached _ hal ht (accessFenced_none hrec ..)]
  simp only [hwaits, hv, Bool.false_eq_true, if_false, loadBack]

/-! ### A misaligned access (R233, R236) -/

theorem scalarLoad_misaligned {n : Nat} (signed : Bool) (hal : (scalarVa h s1 off).toNat % n ≠ 0) :
    scalarLoad n signed d s1 ord off s = .next (trapAt s s.cur.hart h .pacer 0x09 (scalarVa h s1 off)) := by
  rw [scalarLoad, runs_pacer hr]
  exact scalarAccess_misaligned (hn := hal) ..

theorem scalarStore_misaligned {n : Nat} (hal : (scalarVa h s1 off).toNat % n ≠ 0) :
    scalarStore n d s1 ord off s = .next (trapAt s s.cur.hart h .pacer 0x09 (scalarVa h s1 off)) := by
  rw [scalarStore, runs_pacer hr]
  exact scalarAccess_misaligned (hn := hal) ..

theorem atomic_misaligned {n : Nat} (op : AmoOp) (natural : Bool) (hal : (scalarVa h s1 off).toNat % n ≠ 0) :
    atomic op n natural d s1 s2 ord off s = .next (trapAt s s.cur.hart h .pacer 0x09 (scalarVa h s1 off)) := by
  rw [atomic, runs_pacer hr]
  exact scalarAccess_misaligned (hn := hal) ..

theorem accAdd_misaligned (hal : (scalarVa h s1 off).toNat % 32 ≠ 0) :
    accAdd d s1 ord off s = .next (trapAt s s.cur.hart h .pacer 0x09 (scalarVa h s1 off)) := by
  rw [accAdd, runs_pacer hr]
  exact scalarAccess_misaligned (hn := hal) ..

theorem accFinish_misaligned (hal : (scalarVa h s1 off).toNat % 32 ≠ 0) :
    accFinish d s1 ord off s = .next (trapAt s s.cur.hart h .pacer 0x09 (scalarVa h s1 off)) := by
  rw [accFinish, runs_pacer hr]
  exact scalarAccess_misaligned (hn := hal) ..

end

/-! ### The obligation -/

/-- The plain loads, each with its bytes and whether it extends the sign. -/
theorem plainLoad_exec {d s1 : Reg} {off : BitVec 32} {i : Instr} {n : Nat}
    (hi : (i, n) ∈ [(Instr.ldB d s1 .plain off, 1), (.ldBn d s1 .plain off, 1), (.ldH d s1 .plain off, 2), (.ldHn d s1 .plain off, 2),
      (.ldW d s1 .plain off, 4), (.ldWn d s1 .plain off, 4), (.ldD d s1 .plain off, 8)]) (s : State) :
    0 < n ∧ n ≤ 8 ∧ ∃ signed, exec i s = scalarLoad n signed d s1 .plain off s := by
  simp only [List.mem_cons, List.not_mem_nil, or_false, Prod.mk.injEq] at hi
  rcases hi with ⟨rfl, rfl⟩ | ⟨rfl, rfl⟩ | ⟨rfl, rfl⟩ | ⟨rfl, rfl⟩ | ⟨rfl, rfl⟩ | ⟨rfl, rfl⟩ | ⟨rfl, rfl⟩ <;>
    exact ⟨by decide, by decide, _, rfl⟩

/-- Settles O16: a load writes its item, extended; on a page that is not cached it changes lines alone; an access checks its alignment first. -/
theorem scalarLoads : Obligations.ScalarLoads := by
  unfold Obligations.ScalarLoads
  refine ⟨?_, ?_, ?_⟩
  · intro s s' h d s1 ord off loc n cached bs hr va k hrec ht hal hv loads u
    have hlen : bs.length ≤ n := by
      have := loadValue_length_le (noteAcquire (settleSide (noteTlb s h.core h.part va) k .scalar loc n) k ord loc n) h.core loc n cached ord
      rwa [hv] at this
    have hnext (signed : Bool) := scalarLoad_next (d := d) hr hrec ht hal hv signed
    have hsigned (hn : 0 < n) := extendItem_signed hn hlen ▸ hnext true
    have hnatural := extendItem_natural n bs ▸ hnext false
    refine ⟨?_, ?_, ?_, ?_⟩ <;> rintro rfl
    · exact ⟨hsigned (by decide), hnatural⟩
    · exact ⟨hsigned (by decide), hnatural⟩
    · exact ⟨hsigned (by decide), hnatural⟩
    · exact BitVec.signExtend_eq (BitVec.ofNat 64 u) ▸ hsigned (by decide)
  · intro s h d s1 off loc n i hr va hrec ht hal hst hp hclean hi
    obtain ⟨hn, hn8, signed, hexec⟩ := plainLoad_exec hi s
    have htlb := noteTlb_onlyTlb s h.core h.part va
    have hharts : (noteTlb s h.core h.part va).harts = s.harts := (congrArg State.harts htlb :)
    have hpoison : (noteTlb s h.core h.part va).poison = s.poison := (congrArg State.poison htlb :)
    have hl1 : (noteTlb s h.core h.part va).l1 = s.l1 := (congrArg State.l1 htlb :)
    have hfar : (noteTlb s h.core h.part va).farCache = s.farCache := (congrArg State.farCache htlb :)
    have hsettle : settleSide (noteTlb s h.core h.part va) s.cur.hart .scalar loc n = noteTlb s h.core h.part va :=
      drainStores_none (hharts ▸ hr.1) hst _
    obtain ⟨t, hread, hlines⟩ := scalarRead_uncached (s := noteTlb s h.core h.part va) (core := h.core) (loc := loc) (n := n)
      (by rw [l1Hit, hl1]; exact hclean) (hpoison ▸ hp)
    rw [noteTlb_mem] at hread
    have hnext := scalarLoad_next (d := d) (ord := .plain) hr hrec ht hal (hsettle.symm ▸ hread) signed
    refine ⟨_, _, hexec.trans hnext, ?_, extendItem_low hn hn8 signed (Memory.length_readAll ..).le, fun a => ?_⟩
    · rw [← hl1, ← hfar]
      refine (modHart_sameButLines hlines ..).trans ?_
      rw [modHart, hharts, modify_of_getElem? hr.1]
    · have : t.mem = s.mem := (congrArg State.mem hlines :).trans (noteTlb_mem ..)
      rw [modHart_mem, this]
  · intro s h d s1 s2 ord off hr va traps
    have load {n : Nat} (signed : Bool) {i : Instr} (hi : exec i s = scalarLoad n signed d s1 ord off s) : traps n i := fun hal =>
      hi.trans (scalarLoad_misaligned hr signed hal)
    have store {n : Nat} {i : Instr} (hi : exec i s = scalarStore n d s1 ord off s) : traps n i := fun hal =>
      hi.trans (scalarStore_misaligned hr hal)
    have amo {n : Nat} (op : AmoOp) (natural : Bool) {i : Instr} (hi : exec i s = atomic op n natural d s1 s2 ord off s) : traps n i := fun hal =>
      hi.trans (atomic_misaligned hr op natural hal)
    exact ⟨load true rfl, load true rfl, load true rfl, load false rfl, load false rfl, store rfl, store rfl, store rfl,
      amo .add false rfl, amo .add false rfl, amo .swap false rfl, amo .swap false rfl, amo .cas false rfl, amo .cas false rfl,
      amo .min false rfl, amo .min false rfl, amo .max false rfl, amo .max false rfl, amo .and false rfl, amo .and false rfl,
      amo .or false rfl, amo .or false rfl, amo .xor false rfl, amo .xor false rfl, amo .minn true rfl, amo .minn true rfl,
      amo .maxn true rfl, amo .maxn true rfl, accAdd_misaligned hr, accFinish_misaligned hr⟩

end Sys2Proof.Machine
end

section
/-! PROOFS. What the scalar side of a core reads where it has stored (R107, R324, R329). -/
namespace Sys2Proof.Machine

open Sys2Proof

/-! ### Bytes that a line holds -/

/-- From an offset on a line holds some bytes, none of them poison. -/
structure lineHolds (bytes : List Byte) (poison : List Nat) (off : Nat) (bs : List Byte) : Prop where
  bytes_eq : ∀ k < bs.length, bytes.getD (off + k) 0 = bs.getD k 0
  clean : ∀ p ∈ poison, p < off ∨ off + bs.length ≤ p

theorem lineHolds.read {bytes bs : List Byte} {poison : List Nat} {off : Nat} (h : lineHolds bytes poison off bs)
    (hlen : off + bs.length ≤ bytes.length) : sliceBytes bytes off bs.length = bs ∧ poisonIn poison off bs.length = false := by
  constructor
  · refine List.ext_getElem (by simp only [sliceBytes, List.length_take, List.length_drop]; omega) fun k _ hk => ?_
    have := h.bytes_eq k hk
    rw [List.getD_eq_getElem _ _ hk, List.getD_eq_getElem _ _ (by omega)] at this
    rw [← this]
    simp [sliceBytes]
  · simp only [poisonIn, List.any_eq_false, Bool.and_eq_true, decide_eq_true_eq]
    intro p hp
    have := h.clean p hp
    omega

theorem homeBytesIn_length (s : State) (line : Nat) (bs : List Byte) (p : Nat → Bool) : (homeBytesIn s line bs p).length = 64 := by
  simp [homeBytesIn]

theorem homeBytesIn_getD (s : State) (line : Nat) (bs : List Byte) (p : Nat → Bool) {o : Nat} (ho : o < 64) :
    (homeBytesIn s line bs p).getD o 0 = if p o = true then Memory.read s.mem (line * 64 + o) else bs.getD o 0 := by
  rw [List.getD_eq_getElem _ _ (by rw [homeBytesIn_length]; exact ho)]
  simp [homeBytesIn]

/-- The offsets that are poison where some have been taken from the home. -/
theorem mem_homePoisonIn {s : State} {line : Nat} {ps : List Nat} {p : Nat → Bool} {o : Nat} (h : o ∈ homePoisonIn s line ps p) :
    if p o = true then line * 64 + o ∈ s.poison ∧ o < 64 else o ∈ ps := by
  simp only [homePoisonIn, homePoison, List.mem_append, List.mem_filter, List.mem_map, Bool.not_eq_true', beq_iff_eq] at h
  rcases h with ⟨ho, hp⟩ | ⟨⟨a, ⟨ha, hline⟩, rfl⟩, hp⟩
  · rw [if_neg (by simp [hp])]; exact ho
  · have hloc : line * 64 + a % 64 = a := by rw [← hline, lineOf]; omega
    rw [if_pos hp, hloc]
    exact ⟨ha, Nat.mod_lt _ (by decide)⟩

/-- Taking other bytes of a line from their home leaves what it holds. -/
theorem lineHolds.refresh {s : State} {l : L1Line} {off : Nat} {bs : List Byte} (h : lineHolds l.bytes l.poison off bs)
    (hlen : off + bs.length ≤ 64) {p : Nat → Bool} (hp : ∀ k < bs.length, (p (off + k) && !l.dirty.contains (off + k)) = false) :
    lineHolds (l.refresh s p).bytes (l.refresh s p).poison off bs := by
  refine ⟨fun k hk => ?_, fun o ho => ?_⟩
  · rw [L1Line.refresh, homeBytesIn_getD _ _ _ _ (by omega), hp k hk]
    exact h.bytes_eq k hk
  · have hmem := mem_homePoisonIn ho
    by_cases hin : off ≤ o ∧ o < off + bs.length
    · obtain ⟨k, rfl⟩ := Nat.exists_eq_add_of_le hin.1
      rw [hp k (by omega)] at hmem
      exact h.clean _ hmem
    · omega

/-! ### What a core reads after its store -/

/-- Bytes that a store of a core has put at their home: no copy that the core reads is older. -/
structure State.homeHolds (s : State) (core loc : Nat) (bs : List Byte) : Prop where
  mem_eq : Memory.readAll s.mem loc bs.length = bs
  clean : ∀ p ∈ s.poison, p < loc ∨ loc + bs.length ≤ p
  noLine : regionOf loc = .far → l1Hit s core (lineOf loc) = none
  copy : ∀ l, farHit s (coreDie core) (lineOf loc) = some l → lineHolds l.bytes l.poison (loc % 64) bs

/-- Bytes that a store of a core has put into its L1. -/
def State.lineHeld (s : State) (core loc : Nat) (bs : List Byte) : Prop :=
  ∃ l, l1Hit s core (lineOf loc) = some l ∧ lineHolds l.bytes l.poison (loc % 64) bs ∧ ∀ k < bs.length, loc % 64 + k ∈ l.dirty

/-- Bytes that a core has stored, as it reads them: at their home, or in its L1 where the page is cacheable far memory. -/
def State.sees (s : State) (core loc : Nat) (cached : Bool) (bs : List Byte) : Prop :=
  s.homeHolds core loc bs ∨ (cached && regionOf loc == .far) = true ∧ s.lineHeld core loc bs

/-- t holds the bytes that s does, at their homes and in the caches of data. -/
structure State.sameBytes (s t : State) : Prop where
  mem : t.mem = s.mem
  poison : t.poison = s.poison
  l1 : t.l1 = s.l1
  farCache : t.farCache = s.farCache

theorem State.sameBytes.trans {s t u : State} (h : s.sameBytes t) (h' : t.sameBytes u) : s.sameBytes u :=
  ⟨h'.mem.trans h.mem, h'.poison.trans h.poison, h'.l1.trans h.l1, h'.farCache.trans h.farCache⟩

theorem modHart_sameBytes (s : State) (i : Nat) (f : Hart → Hart) : s.sameBytes (modHart s i f) := ⟨rfl, rfl, rfl, rfl⟩

theorem noteTlb_sameBytes (s : State) (core : Nat) (p : Fin 8) (va : Word) : s.sameBytes (noteTlb s core p va) := by
  have h := noteTlb_onlyTlb s core p va
  exact ⟨(congrArg State.mem h :), (congrArg State.poison h :), (congrArg State.l1 h :), (congrArg State.farCache h :)⟩

theorem State.sees.congr {s t : State} {core loc : Nat} {cached : Bool} {bs : List Byte} (h : s.sees core loc cached bs)
    (hst : s.sameBytes t) : t.sees core loc cached bs := by
  obtain ⟨hmem, hpoison, hl1, hfar⟩ := hst
  rcases h with h | ⟨hc, hline⟩
  · exact .inl ⟨hmem ▸ h.mem_eq, hpoison ▸ h.clean, by rw [l1Hit, hl1]; exact h.noLine, by rw [farHit, hfar]; exact h.copy⟩
  · exact .inr ⟨hc, by rw [State.lineHeld, l1Hit, hl1]; exact hline⟩

theorem readAll_getD {m : List Host.Cell} {loc n k : Nat} (hk : k < n) : (Memory.readAll m loc n).getD k 0 = Memory.read m (loc + k) := by
  rw [List.getD_eq_getElem _ _ (by rw [Memory.length_readAll]; exact hk), Memory.getElem_readAll]

/-- The far cache that a store has gone through holds its bytes where it holds their line (R108, R329). -/
theorem farRefresh_holds {s : State} {die loc : Nat} {bs : List Byte} (hmem : Memory.readAll s.mem loc bs.length = bs)
    (hclean : ∀ p ∈ s.poison, p < loc ∨ loc + bs.length ≤ p) (hin : loc % 64 + bs.length ≤ 64) {l : FarLine}
    (hl : farHit (farRefresh s die loc bs.length) die (lineOf loc) = some l) : lineHolds l.bytes l.poison (loc % 64) bs := by
  have hhit := List.find?_some hl
  obtain ⟨m, -, rfl⟩ := List.mem_map.1 (List.mem_of_find?_eq_some hl)
  have hline : lineOf loc * 64 + loc % 64 = loc := by rw [lineOf]; omega
  by_cases hempty : bs.length = 0
  · exact ⟨fun k hk => absurd hk (by omega), fun p _ => by omega⟩
  have hmeets : rangesMeet (lineOf loc * 64) 64 loc bs.length = true := by
    simp only [rangesMeet, Bool.and_eq_true, decide_eq_true_eq]; omega
  have hword {k : Nat} (hk : k < bs.length) : inWords loc bs.length (lineOf loc * 64 + (loc % 64 + k)) = true := by
    simp only [inWords, Bool.and_eq_true, decide_eq_true_eq]; omega
  split at hhit
  next hmet =>
    simp only [Bool.and_eq_true, beq_iff_eq] at hhit
    obtain ⟨-, hm⟩ := hhit
    rw [if_pos hmet]
    refine ⟨fun k hk => ?_, fun o ho => ?_⟩
    · have hloc : lineOf loc * 64 + (loc % 64 + k) = loc + k := by omega
      rw [homeBytesIn_getD _ _ _ _ (by omega), hm, if_pos (hword hk), hloc, ← readAll_getD hk, hmem]
    · have ho' := mem_homePoisonIn ho
      rw [hm] at ho'
      by_cases hin : loc % 64 ≤ o ∧ o < loc % 64 + bs.length
      · obtain ⟨k, rfl⟩ := Nat.exists_eq_add_of_le hin.1
        rw [if_pos (hword (by omega))] at ho'
        have := hclean _ ho'.1
        omega
      · omega
  next hmet =>
    simp only [Bool.and_eq_true, beq_iff_eq] at hhit
    obtain ⟨hdie, hm⟩ := hhit
    simp [hdie, hm, hmeets] at hmet

theorem readAll_writeAll_self {m : List Host.Cell} (h : Memory.wf m = true) (loc : Nat) (bs : List Byte) :
    Memory.readAll (Memory.writeAll m loc bs) loc bs.length = bs := by
  have := Memory.readAll_writeAll_part h loc 0 bs.length (bs := bs) (by omega)
  simpa using this

/-- A store that has gone through to its home, past the core's L1. -/
theorem storeThrough_homeHolds {s : State} (hs : s.memoryOk) {core loc : Nat} {bs : List Byte} (hin : loc % 64 + bs.length ≤ 64)
    (hline : regionOf loc = .far → l1Hit s core (lineOf loc) = none) : (storeThrough s (coreDie core) loc bs false).homeHolds core loc bs := by
  have hmem : Memory.readAll (homeWrite s loc bs false).mem loc bs.length = bs := readAll_writeAll_self hs loc bs
  have hclean : ∀ p ∈ (homeWrite s loc bs false).poison, p < loc ∨ loc + bs.length ≤ p := fun p hp => by
    have := (List.mem_filter.1 hp).2
    simpa using this
  exact ⟨hmem, hclean, hline, fun l hl => farRefresh_holds hmem hclean hin hl⟩

/-! ### A scalar read of what the core has stored -/

theorem l1Room_data (s : State) (core : Nat) : { l1Room s core with l1 := s.l1 } = s := by
  unfold l1Room l1Drop
  repeat' split
  all_goals rfl

/-- A die's copy of the line of bytes that their home holds has them, filled now or before. -/
theorem farFill_holds {s : State} {core loc : Nat} {bs : List Byte} (h : s.homeHolds core loc bs) (hin : loc % 64 + bs.length ≤ 64)
    {t : State} (ht : { t with l1 := s.l1 } = s) :
    lineHolds (farFill t (coreDie core) (lineOf loc)).2.bytes (farFill t (coreDie core) (lineOf loc)).2.poison (loc % 64) bs := by
  have hfar : t.farCache = s.farCache := (congrArg State.farCache ht :)
  have hmem : t.mem = s.mem := (congrArg State.mem ht :)
  have hpoison : t.poison = s.poison := (congrArg State.poison ht :)
  unfold farFill
  split
  next l hl => exact h.copy l (by rw [farHit, ← hfar]; exact hl)
  next =>
    have hroom := farRoom_sameButLines t (coreDie core)
    have hmem' : (farRoom t (coreDie core)).mem = s.mem := (congrArg State.mem hroom :).trans hmem
    have hpoison' : (farRoom t (coreDie core)).poison = s.poison := (congrArg State.poison hroom :).trans hpoison
    have hloc : lineOf loc * 64 + loc % 64 = loc := by rw [lineOf]; omega
    refine ⟨fun k hk => ?_, fun p hp => ?_⟩
    · have hk' : lineOf loc * 64 + (loc % 64 + k) = loc + k := by omega
      rw [readAll_getD (by omega), hk', hmem', ← readAll_getD hk, h.mem_eq]
    · simp only [homePoison, hpoison', List.mem_map, List.mem_filter, beq_iff_eq] at hp
      obtain ⟨a, ⟨ha, hline⟩, rfl⟩ := hp
      have := h.clean a ha
      simp only [lineOf] at hline
      omega

/-- A line that the L1 is filled with holds what the home does. -/
theorem l1Fill_holds {s : State} {core loc : Nat} {bs : List Byte} (h : s.homeHolds core loc bs) (hin : loc % 64 + bs.length ≤ 64)
    (hfar : regionOf loc = .far) :
    lineHolds (l1Fill s core (lineOf loc)).2.bytes (l1Fill s core (lineOf loc)).2.poison (loc % 64) bs ∧
      (l1Fill s core (lineOf loc)).2.dirty = [] := by
  unfold l1Fill
  rw [h.noLine hfar]
  exact ⟨farFill_holds h hin (l1Room_data s core), rfl⟩

theorem l1Fill_hit {s : State} {core line : Nat} {l : L1Line} (h : l1Hit s core line = some l) : l1Fill s core line = (s, l) := by
  unfold l1Fill
  rw [h]

/-- The line that a scalar read goes through. -/
theorem scalarRead_line {s : State} {core loc : Nat} {cached : Bool} {bs : List Byte} (hc : (cached && regionOf loc == .far) = true)
    (hin : loc % 64 + bs.length ≤ 64)
    (hl : lineHolds (l1Fill s core (lineOf loc)).2.bytes (l1Fill s core (lineOf loc)).2.poison (loc % 64) bs)
    (hq : ∀ k < bs.length, ((l1Fill s core (lineOf loc)).2.stored (loc % 64 + k) &&
      !(l1Fill s core (lineOf loc)).2.dirty.contains (loc % 64 + k)) = false) :
    (scalarRead s core loc bs.length cached).2 = (bs, false) := by
  have hread := (hl.refresh (s := (l1Fill s core (lineOf loc)).1) hin hq).read (by rw [L1Line.refresh, homeBytesIn_length]; exact hin)
  unfold scalarRead
  rw [if_pos hc]
  exact Prod.ext hread.1 hread.2

theorem passL1_home {s : State} {core loc : Nat} (h : regionOf loc = .far → l1Hit s core (lineOf loc) = none) :
    (passL1 s core loc).mem = s.mem ∧ (passL1 s core loc).poison = s.poison := by
  unfold passL1
  split
  next hfar =>
    rw [l1CleanDrop, l1Clean_miss (h (eq_of_beq hfar))]
    exact ⟨rfl, rfl⟩
  next => exact ⟨rfl, rfl⟩

/-- A core reads what it has stored (R324). -/
theorem scalarRead_sees {s : State} {core loc : Nat} {cached : Bool} {bs : List Byte} (h : s.sees core loc cached bs)
    (hin : loc % 64 + bs.length ≤ 64) : (scalarRead s core loc bs.length cached).2 = (bs, false) := by
  rcases h with h | ⟨hc, l, hl, hholds, hdirty⟩
  · by_cases hc : (cached && regionOf loc == .far) = true
    · obtain ⟨hholds, hclean⟩ := l1Fill_holds h hin (eq_of_beq (Bool.and_eq_true_iff.1 hc).2)
      exact scalarRead_line hc hin hholds fun k _ => by rw [L1Line.stored, hclean]; rfl
    · obtain ⟨hmem, hpoison⟩ := passL1_home h.noLine
      unfold scalarRead
      rw [if_neg hc, (dieRead_uncached ..).1, homeRead_unpoisoned (hpoison ▸ h.clean), hmem, h.mem_eq]
  · have hfill := l1Fill_hit hl
    exact scalarRead_line hc hin (by rw [hfill]; exact hholds) fun k hk => by
      rw [hfill, List.contains_iff_mem.2 (hdirty k hk), Bool.not_true, Bool.and_false]

/-! ### A scalar read changes lines and what their write-back stores -/

theorem State.sameButLines.memory {s t : State} (h : s.sameButLines t) : s.sameButMemory t :=
  (congrArg (fun x : State => { x with mem := s.mem, poison := s.poison, staged := s.staged, accs := s.accs, seams := s.seams,
                                       earlier := s.earlier, watchers := s.watchers }) h :)

theorem l1Fill_sameButLines (s : State) (core line : Nat) : s.sameButLines (l1Fill s core line).1 := by
  have hroom : s.sameButLines (l1Room s core) := (congrArg (fun x : State => { x with farCache := s.farCache }) (l1Room_data s core) :)
  have hfill := hroom.trans (farFill_sameButLines (l1Room s core) (coreDie core) line)
  unfold l1Fill
  split
  · rfl
  · dsimp only
    split <;> exact hfill

theorem dieRead_sameButLines (s : State) (die loc n : Nat) (cached : Bool) : s.sameButLines (dieRead s die loc n cached).1 := by
  unfold dieRead
  split
  · split
    · exact farFill_sameButLines ..
    · rfl
  · rfl

theorem scalarRead_sameButMemory (s : State) (core loc n : Nat) (cached : Bool) : s.sameButMemory (scalarRead s core loc n cached).1 := by
  unfold scalarRead
  split
  · exact (l1Fill_sameButLines ..).memory
  · exact (passL1_sameButMemory s core loc).trans (dieRead_sameButLines ..).memory

/-! ### A scalar store into the L1 (R107) -/

theorem l1Hit_l1Put (s : State) (l : L1Line) : l1Hit (l1Put s l) l.core l.line = some l := by
  simp [l1Hit, l1Put]

theorem l1Fill_place (s : State) (core line : Nat) : (l1Fill s core line).2.core = core ∧ (l1Fill s core line).2.line = line := by
  unfold l1Fill
  split
  next l hl => exact l1Hit_line hl
  next => exact ⟨rfl, rfl⟩

theorem patchBytes_getD {bs new : List Byte} {off k : Nat} (hlen : off + new.length ≤ bs.length) (hk : k < new.length) :
    (patchBytes bs off new).getD (off + k) 0 = new.getD k 0 := by
  have htake : (bs.take off).length = off := by rw [List.length_take]; omega
  rw [patchBytes, List.append_assoc, List.getD_append_right _ _ _ _ (by omega), htake, Nat.add_sub_cancel_left, List.getD_append _ _ _ _ hk]

/-- A line with bytes stored into it from an offset on, as a scalar store leaves it. -/
def L1Line.patched (l : L1Line) (off : Nat) (bs : List Byte) : L1Line :=
  let offs := (List.range bs.length).map (off + ·)
  { l with
    bytes := patchBytes l.bytes off bs
    dirty := offs ++ l.dirty.filter (fun o => !offs.contains o)
    poison := l.poison.filter fun o => !offs.contains o }

theorem L1Line.patched_holds {l : L1Line} {off : Nat} {bs : List Byte} (hlen : off + bs.length ≤ l.bytes.length) :
    lineHolds (l.patched off bs).bytes (l.patched off bs).poison off bs ∧ ∀ k < bs.length, off + k ∈ (l.patched off bs).dirty := by
  refine ⟨⟨fun k hk => patchBytes_getD hlen hk, fun p hp => ?_⟩, fun k hk =>
    List.mem_append_left _ (List.mem_map.2 ⟨k, List.mem_range.2 hk, rfl⟩)⟩
  have hout := (List.mem_filter.1 hp).2
  by_contra hin
  obtain ⟨k, rfl⟩ := Nat.exists_eq_add_of_le (show off ≤ p by omega)
  have : bs.length ≤ k := by simpa using hout
  omega

/-- A store into the L1 is seen there, or at its home where its line does not stay. -/
theorem l1Store_sees {s : State} (hs : s.memoryOk) {core loc : Nat} {cached : Bool} {bs : List Byte} (hin : loc % 64 + bs.length ≤ 64)
    (hc : (cached && regionOf loc == .far) = true) : (l1Store s core loc bs).sees core loc cached bs := by
  have hfill : (l1Fill s core (lineOf loc)).1.memoryOk := memoryOk_of_mem hs (l1Fill_mem ..)
  obtain ⟨hcore, hline⟩ := l1Fill_place s core (lineOf loc)
  unfold l1Store
  dsimp only
  split
  next =>
    let l := (l1Fill s core (lineOf loc)).2.refresh (l1Fill s core (lineOf loc)).1 (inWords (loc % 64) bs.length)
    have hhit := l1Hit_l1Put (l1Fill s core (lineOf loc)).1 (l.patched (loc % 64) bs)
    have hplace : (l.patched (loc % 64) bs).core = core ∧ (l.patched (loc % 64) bs).line = lineOf loc := ⟨hcore, hline⟩
    rw [hplace.1, hplace.2] at hhit
    exact .inr ⟨hc, _, hhit, l.patched_holds (by rw [show l.bytes.length = 64 from homeBytesIn_length ..]; exact hin)⟩
  next hmiss =>
    have hnone : l1Hit (l1Fill s core (lineOf loc)).1 core (lineOf loc) = none := by
      rw [← Option.not_isSome_iff_eq_none]; exact hmiss
    have hholds := storeThrough_homeHolds hfill (core := core) hin fun _ => hnone
    exact .inl ⟨hholds.mem_eq, hholds.clean, hholds.noLine, hholds.copy⟩

end Sys2Proof.Machine
end

section
/-! PROOFS. Scalar stores, and the load after one (R107, R232, R323, R324, R327). -/
namespace Sys2Proof.Machine

open Sys2Proof

/-! ### Where a scalar store goes -/

/-- What a scalar store does beside its release: to the home at once, into the L1, or on its way. -/
def placeStore (s : State) (x core loc n : Nat) (cached : Bool) (bs : List Byte) : State :=
  if accOrdered s x .scalar loc n then
    asScalar (dropForHome s x core loc n) core (wordNumbers loc n) fun s => storeOrdered s core loc bs []
  else if cached && regionOf loc == .far then l1Store (settleSide s x .scalar loc n) core loc bs
  else modPacer (passL1 s core loc) x fun p => { p with stores := p.stores ++ [⟨.scalar, loc, bs, [], false⟩] }

theorem modHart_modHart (s : State) (i : Nat) (f g : Hart → Hart) : modHart (modHart s i f) i g = modHart s i fun h => g (f h) := by
  simp only [modHart, List.modify_modify_eq]; rfl

section
variable {s : State} {h : Hart} (hr : s.runs h .pacer) {d s1 : Reg} {ord : MemOrder} {off : BitVec 32} {loc n : Nat} {cached : Bool}
include hr

theorem scalarStore_next (hrec : s.mgmt.recoveries = [])
    (ht : translate s h.core h.part (scalarVa h s1 off) .store false = .ok (loc, cached)) (hal : (scalarVa h s1 off).toNat % n = 0) :
    scalarStore n d s1 ord off s = .next (modHart
      (placeStore (noteRelease (releaseFor (noteTlb s h.core h.part (scalarVa h s1 off)) s.cur.hart h.core ord) s.cur.hart ord loc n)
        s.cur.hart h.core loc n cached (leBytes n (h.reg .pacer d).toNat)) s.cur.hart fun h => h.advance .pacer) := by
  have hrec' : (noteTlb s h.core h.part (scalarVa h s1 off)).mgmt.recoveries = [] := by rwa [(noteTlb_sameButCaches ..).mgmt]
  have hwaits : releaseWaits (noteTlb s h.core h.part (scalarVa h s1 off)) h ord = false := by
    simp [releaseWaits, scalarSettles, storesFenced_none hrec', dirtyFenced_none hrec']
  rw [scalarStore, runs_pacer hr]
  dsimp only
  rw [scalarAccess_ok s _ h _ _ _ _ loc cached _ hal ht (accessFenced_none hrec ..)]
  simp only [hwaits, Bool.false_eq_true, if_false, placeStore]

end

section
variable {s : State} {x core loc n : Nat} {cached : Bool} {bs : List Byte}

/-- One over an accumulator that it comes after is performed at once, behind the hart's scalar stores to its words. -/
theorem placeStore_ordered_sameButMemory (ho : accOrdered s x .scalar loc n = true) :
    (settleSide s x .scalar loc n).sameButMemory (placeStore s x core loc n cached bs) := by
  rw [placeStore, if_pos ho]
  exact l1Clean_sameButMemory (settleSide s x .scalar loc n) core (lineOf loc)

theorem placeStore_ordered_mem (ho : accOrdered s x .scalar loc n = true) :
    (placeStore s x core loc n cached bs).mem = Memory.writeAll (dropForHome s x core loc n).mem loc bs := by
  rw [placeStore, if_pos ho]
  rfl

theorem placeStore_line (ho : accOrdered s x .scalar loc n = false) (hc : (cached && regionOf loc == .far) = true) :
    placeStore s x core loc n cached bs = l1Store (settleSide s x .scalar loc n) core loc bs := by
  rw [placeStore, if_neg (by simp [ho]), if_pos hc]

theorem placeStore_onItsWay (ho : accOrdered s x .scalar loc n = false) (hc : (cached && regionOf loc == .far) = false) :
    placeStore s x core loc n cached bs =
      modPacer (passL1 s core loc) x fun p => { p with stores := p.stores ++ [⟨.scalar, loc, bs, [], false⟩] } := by
  rw [placeStore, if_neg (by simp [ho]), if_neg (by simp [hc])]

end

theorem regionOf_eq_far {loc : Nat} : regionOf loc = .far ↔ loc < 2 ^ 52 := by
  unfold regionOf
  by_cases h : loc < 2 ^ 52
  · rw [if_pos h]
    exact ⟨fun _ => h, fun _ => rfl⟩
  · rw [if_neg h]
    split_ifs <;> exact ⟨nofun, fun h' => absurd h' h⟩

theorem l1Store_sameButMemory (s : State) (core loc : Nat) (bs : List Byte) : s.sameButMemory (l1Store s core loc bs) := by
  have hfill := (l1Fill_sameButLines s core (lineOf loc)).memory
  unfold l1Store
  dsimp only
  split <;> exact hfill

/-! ### The load after the store (R324) -/

/-- Where none of its stores is picked, nothing is performed. -/
theorem drainStores_unpicked {s : State} {i : Nat} {h : Hart} (hi : s.harts[i]? = some h) {p : StoreFlight → Bool}
    (hp : ∀ f ∈ h.pacer.stores, p f = false) : drainStores s i p = s := by
  have hnone : h.pacer.stores.filter p = [] := List.filter_eq_nil_iff.2 fun f hf => by simp [hp f hf]
  have hall : h.pacer.stores.filter (!p ·) = h.pacer.stores := List.filter_eq_self.2 fun f hf => by simp [hp f hf]
  have hset : s.harts.modify i (fun h => { h with pacer := { h.pacer with stores := h.pacer.stores.filter (!p ·) } }) = s.harts := by
    obtain ⟨hlt, hget⟩ := List.getElem?_eq_some_iff.1 hi
    rw [modify_of_getElem? hi, hall, ← hget, List.set_getElem_self hlt]
  simp only [drainStores, hi, hnone, List.foldl_nil, modPacer, modHart, hset]

/-- The scalar stores that an access of n bytes comes after in its hart (R324). -/
abbrev scalarMeets (loc n : Nat) (f : StoreFlight) : Bool := f.side == .scalar && wordsMeet loc n f.loc f.data.length

/-- A store on its way that is the hart's last to its words is seen once they are settled. -/
theorem settleSide_sees {s : State} (hs : s.memoryOk) {i : Nat} {h : Hart} (hi : s.harts[i]? = some h) {fs : List StoreFlight} {loc : Nat}
    {cached : Bool} {bs : List Byte} (hin : loc % 64 + bs.length ≤ 64) (hbs : 0 < bs.length)
    (hfs : h.pacer.stores = fs ++ [⟨.scalar, loc, bs, [], false⟩]) :
    (settleSide s i .scalar loc bs.length).sees h.core loc cached bs := by
  have hmeets : scalarMeets loc bs.length ⟨.scalar, loc, bs, [], false⟩ = true := by
    simp only [scalarMeets, wordsMeet, beq_self_eq_true, Bool.true_and, Bool.and_self, decide_eq_true_eq]
    omega
  have hlast : h.pacer.stores.filter (scalarMeets loc bs.length) = fs.filter (scalarMeets loc bs.length) ++ [⟨.scalar, loc, bs, [], false⟩] := by
    rw [hfs, List.filter_append, List.filter_cons_of_pos hmeets, List.filter_nil]
  simp only [settleSide, drainStores, hi]
  rw [hlast, List.foldl_append, List.foldl_cons, List.foldl_nil]
  generalize hu : List.foldl (landStore h.core) _ _ = u
  have hok : u.memoryOk := hu ▸ foldl_memoryOk (fun _ f ht => landStore_memoryOk ht h.core f) _ hs
  have hline : regionOf loc = .far → l1Hit (passL1 u h.core loc) h.core (lineOf loc) = none := fun hfar => by
    rw [passL1, hfar]; exact l1CleanDrop_hit ..
  have hholds := storeThrough_homeHolds (passL1_memoryOk hok h.core loc) hin hline
  exact .inl ⟨hholds.mem_eq, hholds.clean, hholds.noLine, hholds.copy⟩

/-- A hart with other stores on its way. -/
abbrev Hart.withStores (h : Hart) (fs : List StoreFlight) : Hart := { h with pacer := { h.pacer with stores := fs } }

/-- Whatever way a scalar store goes, the hart's next access to its bytes sees it. -/
theorem placeStore_sees {s : State} (hs : s.memoryOk) {i : Nat} {h : Hart} (hi : s.harts[i]? = some h) {loc : Nat} {cached : Bool}
    {bs : List Byte} (hin : loc % 64 + bs.length ≤ 64) (hbs : 0 < bs.length) :
    ∃ fs : List StoreFlight, State.sameButMemory { s with harts := s.harts.set i (h.withStores fs) }
        (placeStore s i h.core loc bs.length cached bs) ∧
      ∀ (u : State) (g : Hart), (placeStore s i h.core loc bs.length cached bs).sameBytes u → u.harts[i]? = some g → g.core = h.core →
        g.pacer.stores = fs → (settleSide u i .scalar loc bs.length).sees h.core loc cached bs := by
  have hsettled := drainStores_sameButMemory hi (scalarMeets loc bs.length)
  have hunpicked {u : State} {g : Hart} (hg : u.harts[i]? = some g)
      (hgs : g.pacer.stores = h.pacer.stores.filter (!scalarMeets loc bs.length ·)) : settleSide u i .scalar loc bs.length = u :=
    drainStores_unpicked hg fun f hf => by
      rw [hgs] at hf
      simpa only [Bool.not_eq_true'] using (List.mem_filter.1 hf).2
  cases ho : accOrdered s i .scalar loc bs.length with
  | true =>
    refine ⟨_, hsettled.trans (placeStore_ordered_sameButMemory ho), fun u g hu hg _ hgs => ?_⟩
    rw [hunpicked hg hgs]
    have hok : (dropForHome s i h.core loc bs.length).memoryOk := l1CleanDrop_memoryOk (settleSide_memoryOk hs ..) ..
    have hholds := storeThrough_homeHolds hok (core := h.core) hin fun _ => l1CleanDrop_hit ..
    have hseen : (placeStore s i h.core loc bs.length cached bs).sees h.core loc cached bs := by
      rw [placeStore, if_pos ho]
      exact .inl ⟨hholds.mem_eq, hholds.clean, hholds.noLine, hholds.copy⟩
    exact hseen.congr hu
  | false =>
    cases hc : cached && regionOf loc == .far with
    | true =>
      rw [placeStore_line ho hc]
      refine ⟨_, hsettled.trans (l1Store_sameButMemory ..), fun u g hu hg _ hgs => ?_⟩
      rw [hunpicked hg hgs]
      exact (l1Store_sees (settleSide_memoryOk hs ..) hin hc).congr hu
    | false =>
      rw [placeStore_onItsWay ho hc]
      refine ⟨h.pacer.stores ++ [⟨.scalar, loc, bs, [], false⟩], ?_, fun u g hu hg hcore hgs => ?_⟩
      · have hpass := congrArg (fun x : State => modPacer x i fun p => { p with stores := p.stores ++ [⟨.scalar, loc, bs, [], false⟩] })
          (passL1_sameButMemory s h.core loc)
        refine Eq.trans hpass ?_
        rw [modPacer, modHart, modify_of_getElem? hi]
      · rw [← hcore]
        exact settleSide_sees (memoryOk_of_mem (passL1_memoryOk hs h.core loc) hu.mem) hg hin hbs hgs

/-- A hart that is still there after an access goes on executing. -/
theorem runs_modHart {s u : State} {h g : Hart} {x : Thread} (hr : s.runs h x) (hg : u.harts[s.cur.hart]? = some g) (hcur : u.cur = s.cur)
    (f : Hart → Hart) : (modHart u s.cur.hart f).runs (f g) x := by
  have hlt := (List.getElem?_eq_some_iff.1 hg).1
  refine ⟨?_, ?_⟩
  · rw [modHart_harts, modHart_cur, hcur, modify_of_getElem? hg, List.getElem?_set_self hlt]
  · rw [modHart_cur, hcur]; exact hr.2

/-- A scalar load of what the hart's last store to its bytes has stored gives its bytes. -/
theorem scalarLoad_sees {s : State} {h : Hart} (hr : s.runs h .pacer) (hrec : s.mgmt.recoveries = []) {d s1 : Reg} {off : BitVec 32}
    {loc n : Nat} {cached : Bool} {bs : List Byte} (hd : d ≠ 0) (hlen : bs.length = n) (hin : loc % 64 + n ≤ 64)
    (ht : translate s h.core h.part (scalarVa h s1 off) .load false = .ok (loc, cached)) (hal : (scalarVa h s1 off).toNat % n = 0)
    (hsees : (settleSide (noteTlb s h.core h.part (scalarVa h s1 off)) s.cur.hart .scalar loc n).sees h.core loc cached bs)
    (signed : Bool) :
    ∃ t h', scalarLoad n signed d s1 .plain off s = .next t ∧ t.runs h' .pacer ∧ h'.reg .pacer d = extendItem signed n bs := by
  subst hlen
  have htlb := noteTlb_onlyTlb s h.core h.part (scalarVa h s1 off)
  have hharts : (noteTlb s h.core h.part (scalarVa h s1 off)).harts = s.harts := (congrArg State.harts htlb :)
  have hcur : (noteTlb s h.core h.part (scalarVa h s1 off)).cur = s.cur := (congrArg State.cur htlb :)
  have hsettled := drainStores_sameButMemory (hharts ▸ hr.1) (scalarMeets loc bs.length)
  have hframe := hsettled.trans (scalarRead_sameButMemory
    (settleSide (noteTlb s h.core h.part (scalarVa h s1 off)) s.cur.hart .scalar loc bs.length) h.core loc bs.length cached)
  have hread := scalarRead_sees hsees hin
  have hnext := scalarLoad_next (d := d) (ord := .plain) hr hrec ht hal (Prod.ext rfl hread) signed
  have hlt : s.cur.hart < (noteTlb s h.core h.part (scalarVa h s1 off)).harts.length := by
    rw [hharts]; exact (List.getElem?_eq_some_iff.1 hr.1).1
  have hgoes := runs_modHart hr ((congrArg (·[s.cur.hart]?) hframe.harts).trans (List.getElem?_set_self hlt))
    ((congrArg State.cur hframe :).trans hcur) fun h' => (h'.setReg .pacer d (extendItem signed bs.length bs)).advance .pacer
  exact ⟨_, _, hnext, hgoes, by rw [reg_advance, reg_setReg, if_pos ⟨rfl, hd⟩]⟩

/-- Once a hart has gone on past a plain store, its next access to the bytes sees them; beside its stores on their way the hart is as it was. -/
theorem stored_sees {s s' : State} {h : Hart} (hr : s.runs h .pacer) (hs : s.memoryOk) {va : Word} {loc n : Nat} {cached : Bool}
    {bs : List Byte} (hlen : bs.length = n) (hin : loc % 64 + n ≤ 64) (hn : 0 < n)
    (hs' : s' = modHart (placeStore (noteTlb s h.core h.part va) s.cur.hart h.core loc n cached bs) s.cur.hart fun h => h.advance .pacer) :
    ∃ fs : List StoreFlight, s'.runs ((h.withStores fs).advance .pacer) .pacer ∧ s'.cur = s.cur ∧ s'.mgmt = s.mgmt ∧
      ∀ va', (settleSide (noteTlb s' h.core h.part va') s.cur.hart .scalar loc n).sees h.core loc cached bs := by
  subst hlen
  have htlb := noteTlb_onlyTlb s h.core h.part va
  have hharts : (noteTlb s h.core h.part va).harts = s.harts := (congrArg State.harts htlb :)
  have hlt : s.cur.hart < (noteTlb s h.core h.part va).harts.length := by
    rw [hharts]; exact (List.getElem?_eq_some_iff.1 hr.1).1
  obtain ⟨fs, hplaced, hsees⟩ := placeStore_sees (cached := cached) (memoryOk_of_mem hs (noteTlb_mem s h.core h.part va)) (hharts ▸ hr.1) hin hn
  have hcur : (placeStore (noteTlb s h.core h.part va) s.cur.hart h.core loc bs.length cached bs).cur = s.cur :=
    (congrArg State.cur hplaced :).trans (congrArg State.cur htlb :)
  have hmgmt : (placeStore (noteTlb s h.core h.part va) s.cur.hart h.core loc bs.length cached bs).mgmt = s.mgmt :=
    (congrArg State.mgmt hplaced :).trans (congrArg State.mgmt htlb :)
  have hput : s'.runs ((h.withStores fs).advance .pacer) .pacer :=
    hs' ▸ runs_modHart hr ((congrArg (·[s.cur.hart]?) hplaced.harts).trans (List.getElem?_set_self hlt)) hcur _
  have hcur' : s'.cur = s.cur := by rw [hs', modHart_cur, hcur]
  have hbytes : (placeStore (noteTlb s h.core h.part va) s.cur.hart h.core loc bs.length cached bs).sameBytes s' := by
    rw [hs']; exact modHart_sameBytes ..
  refine ⟨fs, hput, hcur', by rw [hs', modHart_mgmt, hmgmt], fun va' => ?_⟩
  have hthere : s'.harts[s.cur.hart]? = some ((h.withStores fs).advance .pacer) := by rw [← hcur']; exact hput.1
  exact hsees _ ((h.withStores fs).advance .pacer) (hbytes.trans (noteTlb_sameBytes ..))
    ((congrArg (·.harts[s.cur.hart]?) (noteTlb_onlyTlb s' h.core h.part va')).trans hthere) rfl rfl

/-- The eight bytes of a register, read back. -/
theorem extendItem_leBytes (v : Word) : extendItem true 8 (leBytes 8 v.toNat) = v := by
  have hv := v.isLt
  rw [extendItem_signed (by decide) (length_leBytes ..).le, leNat_leBytes, Nat.mod_eq_of_lt (by omega), BitVec.ofNat_toNat,
    BitVec.setWidth_eq, BitVec.signExtend_eq]

/-- Settles O17: a store goes home, into the L1 or on its way, and the next load of its bytes sees it there. -/
theorem scalarStores : Obligations.ScalarStores := by
  unfold Obligations.ScalarStores
  refine ⟨?_, ?_⟩
  · intro s h d s1 ord off loc n cached hr va k hrec ht hal s' stores
    have place {i : Instr} (hi : exec i s = scalarStore n d s1 ord off s) : stores i := by
      have hnext : exec i s = .next (modHart (placeStore s' k h.core loc n cached (leBytes n (h.reg .pacer d).toNat)) k fun h =>
          h.advance .pacer) := hi.trans (scalarStore_next hr hrec ht hal)
      refine ⟨fun ho hc => ?_, fun ho hc hfar => ?_, fun ho => ⟨_, hnext, ?_, fun hs o hon => ?_⟩⟩
      · have hc' : (cached && regionOf loc == .far) = false := by
          rcases hc with rfl | hc
          · rfl
          · rw [Bool.and_eq_false_iff, beq_eq_false_iff_ne, ne_eq, regionOf_eq_far]; exact .inr (by omega)
        rw [hnext, placeStore_onItsWay ho hc', modPacer, modHart_modHart]
      · rw [hnext, placeStore_line ho (by rw [hc, regionOf_eq_far.2 hfar]; rfl)]
      · rw [modHart_harts, (placeStore_ordered_sameButMemory ho).harts]
      · have hs' : s'.memoryOk := noteRelease_memoryOk (releaseFor_memoryOk (memoryOk_of_mem hs (noteTlb_mem ..)) ..) ..
        have hin : loc ≤ loc + o ∧ loc + o < loc + (leBytes n (h.reg .pacer d).toNat).length := by rw [length_leBytes]; omega
        rw [modHart_mem, placeStore_ordered_mem ho, Memory.read_writeAll (dropForHome_memoryOk hs' ..), if_pos hin, Nat.add_sub_cancel_left]
    refine ⟨?_, ?_, ?_, ?_⟩ <;> rintro rfl <;> exact place rfl
  · intro s s' h h' d d' s1 off loc cached hr hs hrec va _ _ hloc hal ht hst hr' ht' hd
    have hlen : (leBytes 8 (h.reg .pacer d).toNat).length = 8 := length_leBytes ..
    have hnext := scalarStore_next (d := d) (n := 8) (ord := .plain) hr hrec ht hal
    obtain ⟨fs, hput, hcur, hmgmt, hsees⟩ := stored_sees hr hs (loc := loc) hlen (by omega) (by decide)
      (Host.Outcome.next.inj (hst.symm.trans hnext))
    obtain rfl : h' = (h.withStores fs).advance .pacer := Option.some.inj (hr'.1.symm.trans hput.1)
    have hva : scalarVa ((h.withStores fs).advance .pacer) s1 off = va := by rw [scalarVa, reg_advance]; rfl
    have hload := scalarLoad_sees hr' (hmgmt ▸ hrec) (loc := loc) (d := d') (s1 := s1) (off := off) hd hlen (by omega)
      (by rw [hva]; exact ht') (by rw [hva]; exact hal) (by rw [hva, hcur]; exact hsees va) true
    rw [extendItem_leBytes] at hload
    exact hload

end Sys2Proof.Machine
end

section
/-! PROOFS. Scalar atomics (R234, R235). -/
namespace Sys2Proof.Machine

open Sys2Proof

/-! ### The new value of an item (R234) -/

/-- Memory once an atomic on an item of n bytes has written its new value, if it writes one. -/
def itemAfter (m : List Host.Cell) (loc n : Nat) : Option Nat → List Host.Cell
  | some v => Memory.writeAll m loc (leBytes n v)
  | none => m

theorem amoNew_cas (n m x expected : Nat) : amoNew .cas n m x expected = if m = expected then some x else none := rfl

/-- An item of n bytes as a signed number. -/
theorem signedItem_eq {n v : Nat} (hn : 0 < n) (hv : v < 2 ^ (8 * n)) :
    (BitVec.ofNat (8 * n) v).toInt = if 2 ^ (8 * n) / 2 ≤ v then (v : Int) - (2 ^ (8 * n) : Nat) else v := by
  have hhalf : 2 ^ (8 * n) = 2 * 2 ^ (8 * n - 1) := by rw [← pow_succ']; congr 1; omega
  rw [BitVec.toInt_eq_toNat_cond, BitVec.toNat_ofNat, Nat.mod_eq_of_lt hv]
  by_cases hpos : 2 * v < 2 ^ (8 * n)
  · rw [if_pos hpos, if_neg (by omega)]
  · rw [if_neg hpos, if_pos (by omega)]

section
variable {n m x : Nat} (hn : 0 < n) (hm : m < 2 ^ (8 * n)) (hx : x < 2 ^ (8 * n))
include hn hm hx

theorem amoNew_min (e : Nat) :
    amoNew .min n m x e = some (if (BitVec.ofNat (8 * n) m).toInt ≤ (BitVec.ofNat (8 * n) x).toInt then m else x) := by
  rw [signedItem_eq hn hm, signedItem_eq hn hx]; rfl

theorem amoNew_max (e : Nat) :
    amoNew .max n m x e = some (if (BitVec.ofNat (8 * n) m).toInt ≤ (BitVec.ofNat (8 * n) x).toInt then x else m) := by
  rw [signedItem_eq hn hm, signedItem_eq hn hx]; rfl

end

theorem mem_itemAfter {m : List Host.Cell} (h : Memory.wf m = true) {loc n a : Nat} (ha : a < loc ∨ loc + n ≤ a) (new : Option Nat) :
    Memory.read (itemAfter m loc n new) a = Memory.read m a := by
  cases new with
  | none => rfl
  | some v => exact Memory.read_writeAll_outside h (by rwa [length_leBytes])

/-! ### An atomic at its home (R235) -/

/-- What an atomic does to the state that it has read its item in: the new value is stored, at once where the accumulators are ordered before
it (log 19). -/
def storeItem (s : State) (x core loc n : Nat) (new : Option Nat) : State :=
  match new with
  | some v =>
    asScalar s core (wordNumbers loc n) fun s =>
      if accOrdered s x .scalar loc n then storeOrdered s core loc (leBytes n v) [] else storeThrough s (coreDie core) loc (leBytes n v) false
  | none => s

/-- Storing an item changes memory at the item, no hart and no register of a partition. -/
theorem storeItem_stores (s : State) (x core loc n : Nat) (new : Option Nat) :
    (storeItem s x core loc n new).mem = itemAfter s.mem loc n new ∧ (storeItem s x core loc n new).harts = s.harts ∧
      (storeItem s x core loc n new).parts = s.parts := by
  cases new with
  | none => exact ⟨rfl, rfl, rfl⟩
  | some v =>
    simp only [storeItem]
    by_cases ho : accOrdered s x .scalar loc n = true
    · simp only [asScalar, ho, if_true]; exact ⟨rfl, rfl, rfl⟩
    · simp only [asScalar, ho, if_false, Bool.false_eq_true]; exact ⟨rfl, rfl, rfl⟩

section
variable {s : State} {h : Hart} (hr : s.runs h .pacer) {d s1 s2 : Reg} {ord : MemOrder} {off : BitVec 32} {loc n : Nat} {cached : Bool}
  (hrec : s.mgmt.recoveries = []) (ht : translate s h.core h.part (scalarVa h s1 off) .atomic false = .ok (loc, cached))
  (hal : (scalarVa h s1 off).toNat % n = 0)
include hr hrec ht hal

/-- Host memory has no atomic but add, swap and compare and swap (R235). -/
theorem atomic_refused {op : AmoOp} (hhost : regionOf loc = .host) (hop : op.hostOk = false) (natural : Bool) :
    atomic op n natural d s1 s2 ord off s =
      .next (trapAt (noteTlb s h.core h.part (scalarVa h s1 off)) s.cur.hart h .pacer 0x07 (scalarVa h s1 off)) := by
  rw [atomic, runs_pacer hr]
  dsimp only
  rw [scalarAccess_ok s _ h _ _ _ _ loc cached _ hal ht (accessFenced_none hrec ..)]
  simp only [hhost, hop, beq_self_eq_true, Bool.not_false, Bool.and_self, if_true]

/-- An atomic on a quiet scalar side takes its item at the home, stores the new value and gives back the old one. -/
theorem atomic_updates {op : AmoOp} (hq : s.scalarQuiet s.cur.hart h) (hp : ∀ p ∈ s.poison, p < loc ∨ loc + n ≤ p)
    (hop : regionOf loc ≠ .host ∨ op.hostOk = true) (natural : Bool) :
    ∃ t : State, atomic op n natural d s1 s2 ord off s = .next t ∧
      t.harts = s.harts.set s.cur.hart ((h.setReg .pacer d (extendItem (!natural) n (Memory.readAll s.mem loc n))).advance .pacer) ∧
      t.mem = itemAfter s.mem loc n (amoNew op n (leNat (Memory.readAll s.mem loc n)) ((h.reg .pacer s2).toNat % 2 ^ (8 * n))
        ((h.reg .pacer d).toNat % 2 ^ (8 * n))) ∧ t.parts = s.parts := by
  have hhost : (regionOf loc == .host && !op.hostOk) = false := by
    rcases hop with hop | hop <;> simp [hop]
  have htlb := (noteTlb_sameButCaches s h.core h.part (scalarVa h s1 off)).order
  have hqt := noteTlb_quiet hq h.core h.part (scalarVa h s1 off)
  have hrel := noteRelease_sameButAdds (noteTlb s h.core h.part (scalarVa h s1 off)) s.cur.hart ord loc n
  have hacq := noteAcquire_sameButAdds (noteRelease (noteTlb s h.core h.part (scalarVa h s1 off)) s.cur.hart ord loc n) s.cur.hart ord loc n
  have hnoted := htlb.trans (hrel.order.trans hacq.order)
  obtain ⟨t, hread, hst⟩ := readForHome_quiet (hacq.quiet (hrel.quiet hqt)) (loc := loc) (n := n) (by rwa [hnoted.poison])
  have hall := hnoted.trans hst
  rw [hnoted.mem] at hread
  generalize hnew : amoNew op n (leNat (Memory.readAll s.mem loc n)) ((h.reg .pacer s2).toNat % 2 ^ (8 * n))
    ((h.reg .pacer d).toNat % 2 ^ (8 * n)) = new
  obtain ⟨hmem, hharts, hparts⟩ := storeItem_stores t s.cur.hart h.core loc n new
  have hcache := acquiredBy_sameButOrder ord h.core (storeItem t s.cur.hart h.core loc n new)
  refine ⟨modHart (acquiredBy ord h.core (storeItem t s.cur.hart h.core loc n new)) s.cur.hart fun g =>
    (g.setReg .pacer d (extendItem (!natural) n (Memory.readAll s.mem loc n))).advance .pacer, ?_, ?_, ?_, ?_⟩
  · rw [atomic, runs_pacer hr]
    dsimp only
    rw [scalarAccess_ok s _ h _ _ _ _ loc cached _ hal ht (accessFenced_none hrec ..), homeWaits_none (by rwa [htlb.mgmt]),
      releaseFor_quiet hqt, hread]
    simp only [hhost, hnew, Bool.false_eq_true, if_false, loadBack]
    cases new <;> rfl
  · rw [modHart_harts, hcache.harts, hharts, hall.harts, modify_of_getElem? hr.1]
  · rw [modHart_mem, hcache.mem, hmem, hall.mem]
  · rw [modHart_parts, hcache.parts, hparts, hall.parts]

end

/-! ### The obligation -/

/-- Settles O18: each form is `atomic` with its operation, which has the new value that the statement names. -/
theorem scalarAtomics : Obligations.ScalarAtomics := by
  unfold Obligations.ScalarAtomics
  intro s h d s1 s2 ord off loc n cached hr hok hrec va ht hal hst hclean hp m x old signed add cas least most forms
  have hq : s.scalarQuiet s.cur.hart h := ⟨hr.1, hst, hclean⟩
  have hx : x < 2 ^ (8 * n) := Nat.mod_lt _ (Nat.two_pow_pos _)
  have hm : m < 2 ^ (8 * n) := leNat_lt_item (Memory.length_readAll ..).le
  have hform : ∀ f ∈ forms, ∃ op : AmoOp, exec f.1 s = atomic op n f.2.1 d s1 s2 ord off s ∧ op.hostOk = f.2.2.1 ∧
      amoNew op n m x ((h.reg .pacer d).toNat % 2 ^ (8 * n)) = f.2.2.2 ∧ 0 < n := by
    have hleast (hn : 0 < n) : amoNew .min n m x ((h.reg .pacer d).toNat % 2 ^ (8 * n)) = least := amoNew_min hn hm hx _
    have hmost (hn : 0 < n) : amoNew .max n m x ((h.reg .pacer d).toNat % 2 ^ (8 * n)) = most := amoNew_max hn hm hx _
    have hcas : amoNew .cas n m x ((h.reg .pacer d).toNat % 2 ^ (8 * n)) = cas := amoNew_cas ..
    simp only [forms]
    split_ifs
    case neg => exact List.forall_mem_nil _
    all_goals
      subst n
      simp only [List.forall_mem_cons]
      exact ⟨⟨.add, rfl, rfl, rfl, by decide⟩, ⟨.swap, rfl, rfl, rfl, by decide⟩, ⟨.cas, rfl, rfl, hcas, by decide⟩,
        ⟨.min, rfl, rfl, hleast (by decide), by decide⟩, ⟨.max, rfl, rfl, hmost (by decide), by decide⟩, ⟨.and, rfl, rfl, rfl, by decide⟩,
        ⟨.or, rfl, rfl, rfl, by decide⟩, ⟨.xor, rfl, rfl, rfl, by decide⟩, ⟨.minn, rfl, rfl, rfl, by decide⟩,
        ⟨.maxn, rfl, rfl, rfl, by decide⟩, List.forall_mem_nil _⟩
  intro f hf
  obtain ⟨op, hexec, hhost, hnew, hn⟩ := hform f hf
  rw [hexec, ← hhost]
  refine ⟨fun hop => ?_, fun hregion hop => atomic_refused hr hrec ht hal hregion hop _⟩
  obtain ⟨t, hnext, hharts, hmem, hparts⟩ := atomic_updates (d := d) (s2 := s2) (ord := ord) hr hrec ht hal hq hp hop f.2.1
  have hold : extendItem (!f.2.1) n (Memory.readAll s.mem loc n) = old f.2.1 := by
    cases f.2.1 with
    | false => exact extendItem_signed hn (Memory.length_readAll ..).le
    | true => exact extendItem_natural ..
  rw [hold] at hharts
  have hitem : t.mem = itemAfter s.mem loc n f.2.2.2 := hmem.trans (congrArg (itemAfter s.mem loc n) hnew)
  refine ⟨t, hnext, hharts, hitem.trans ?_, hparts, fun a ha => ?_⟩
  · cases f.2.2.2 <;> rfl
  · rw [hitem, mem_itemAfter hok ha]

end Sys2Proof.Machine
end

section
/-! PROOFS. Images of whole entries (R242, R243). -/
namespace Sys2Proof.Machine

open Sys2Proof

/-! ### Packed elements and the lane layout (R50, R54) -/

/-- Elements that fit their type's width (R48). -/
abbrev elemsFit (t : ElemType) (es : List Word) : Prop := ∀ w ∈ es, w.toNat < 2 ^ width t

theorem packElems_lt (t : ElemType) (es : List Word) : packElems t es < 2 ^ (es.length * width t) := by
  induction es with
  | nil => simp [packElems]
  | cons w es ih =>
    have hw : w.toNat % 2 ^ width t < 2 ^ width t := Nat.mod_lt _ (by positivity)
    have hstep : packElems t (w :: es) = w.toNat % 2 ^ width t + 2 ^ width t * packElems t es := rfl
    have hpow : 2 ^ ((w :: es).length * width t) = 2 ^ width t * 2 ^ (es.length * width t) := by
      rw [List.length_cons, Nat.succ_mul, Nat.pow_add, Nat.mul_comm]
    rw [hstep, hpow]
    calc w.toNat % 2 ^ width t + 2 ^ width t * packElems t es
      _ < 2 ^ width t * (packElems t es + 1) := by rw [Nat.mul_succ]; omega
      _ ≤ 2 ^ width t * 2 ^ (es.length * width t) := Nat.mul_le_mul_left _ ih

theorem unpackElems_packElems {t : ElemType} {es : List Word} (h : elemsFit t es) : unpackElems t es.length (packElems t es) = es := by
  induction es with
  | nil => rfl
  | cons w es ih =>
    have hw : w.toNat % 2 ^ width t = w.toNat := Nat.mod_eq_of_lt (h w (List.mem_cons_self ..))
    have hlt : w.toNat < 2 ^ width t := h w (List.mem_cons_self ..)
    have hstep : packElems t (w :: es) = w.toNat + 2 ^ width t * packElems t es := congrArg (· + _) hw
    have hlow : (w.toNat + 2 ^ width t * packElems t es) % 2 ^ width t = w.toNat := by
      rw [Nat.add_mul_mod_self_left, hw]
    have hhigh : (w.toNat + 2 ^ width t * packElems t es) / 2 ^ width t = packElems t es := by
      rw [Nat.add_mul_div_left _ _ (by positivity), Nat.div_eq_of_lt hlt, Nat.zero_add]
    rw [hstep, List.length_cons, unpackElems, hlow, hhigh, ih fun x hx => h x (List.mem_cons_of_mem _ hx), BitVec.ofNat_toNat,
      BitVec.setWidth_eq]

/-- A body with room for its packed elements holds them all. -/
theorem leNat_leBytes_packElems {t : ElemType} {es : List Word} {n : Nat} (h : es.length * width t ≤ 8 * n) :
    leNat (leBytes n (packElems t es)) = packElems t es := by
  rw [leNat_leBytes]
  refine Nat.mod_eq_of_lt ((packElems_lt t es).trans_le ?_)
  calc 2 ^ (es.length * width t)
    _ ≤ 2 ^ (8 * n) := Nat.pow_le_pow_right (by decide) h
    _ = 256 ^ n := by rw [pow_mul]; norm_num

theorem unpackElems_leBytes {t : ElemType} {es : List Word} {n : Nat} (h : elemsFit t es) (hn : es.length * width t ≤ 8 * n) :
    unpackElems t es.length (leNat (leBytes n (packElems t es))) = es := by
  rw [leNat_leBytes_packElems hn, unpackElems_packElems h]

/-- The places of a body in the lane layout, each with the element it holds. -/
abbrev lanes (n : Nat) (t : ElemType) (es : List Word) : List Word :=
  List.ofFn fun i : Fin (8 * n / width t) => es.getD (Config.laneOrder n (width t) i).val 0

theorem elemsFit.getD {t : ElemType} {es : List Word} (h : elemsFit t es) (k : Nat) : (es.getD k 0).toNat < 2 ^ width t := by
  by_cases hk : k < es.length
  · rw [List.getD_eq_getElem _ _ hk]
    exact h _ (List.getElem_mem hk)
  · rw [List.getD_eq_default _ _ (Nat.le_of_not_lt hk)]
    exact Nat.two_pow_pos _

theorem lanes_fit {n : Nat} {t : ElemType} {es : List Word} (h : elemsFit t es) : elemsFit t (lanes n t es) := by
  intro w hw
  obtain ⟨i, rfl⟩ := (List.mem_ofFn' _ _).1 hw
  exact h.getD _

/-- An element's place holds it, whatever the layout is. -/
theorem lanes_lanePlace {n : Nat} {t : ElemType} {es : List Word} {e : Nat} (he : e < 8 * n / width t) :
    (lanes n t es).getD (lanePlace n t e) 0 = es.getD e 0 := by
  have hlt : (((Config.laneOrder n (width t)).symm ⟨e, he⟩).val) < (lanes n t es).length := by rw [List.length_ofFn]; exact Fin.isLt _
  rw [lanePlace, dif_pos he, List.getD_eq_getElem _ _ hlt, List.getElem_ofFn]
  simp only [Fin.eta, Equiv.apply_symm_apply]

theorem unlane_laneBytes {t : ElemType} {es : List Word} {n : Nat} (h : elemsFit t es) (hn : es.length * width t ≤ 8 * n) :
    unlane t es.length (laneBytes n t es) = es := by
  have hlen : (laneBytes n t es).length = n := length_leBytes ..
  have hplaces : (lanes n t es).length = lanePlaces n t := List.length_ofFn
  have hroom : (lanes n t es).length * width t ≤ 8 * n := by rw [hplaces]; exact Nat.div_mul_le_self ..
  have hbody : unpackElems t (lanePlaces n t) (leNat (laneBytes n t es)) = lanes n t es := by
    rw [← hplaces]; exact unpackElems_leBytes (lanes_fit h) hroom
  simp only [unlane, hlen, hbody]
  refine List.ext_getElem (by simp) fun e h1 h2 => ?_
  have he : e < 8 * n / width t := h2.trans_le ((Nat.le_div_iff_mul_le (width_pos t)).2 hn)
  rw [List.getElem_map, List.getElem_range, lanes_lanePlace he, List.getD_eq_getElem _ _ h2]

/-! ### Stores of images (R242, R243) -/

/-- An image store that commits after the caches have been used: `vstart` stays as it is. -/
theorem commitImage_sent {s s1 : State} (hc : s.sameButCaches s1) {h : Hart} (hi : s.harts[s.cur.hart]? = some h) (q : Fin 2)
    (fs : List StoreFlight) : s.sent (commitStore s1 s.cur.hart q fs true none) h q fs true := by
  refine ⟨⟨s1, hc, rfl, rfl⟩, fun hno => ?_⟩
  have hi1 : s1.harts[s.cur.hart]? = some h := by rw [hc.harts]; exact hi
  have hsend : sendStores s1 s.cur.hart fs = (s1, fs) :=
    sendStores_unordered (fun f hf => (accOrdered_caches hc ..).trans (hno f hf)) hi1
  refine ⟨?_, ?_⟩
  · simp only [commitStore, hsend, modHart_mem, hc.mem]
  · simp only [commitStore, hsend, modHart_harts]
    rw [modify_of_getElem? hi1, hc.harts]
    rfl

/-- The size of the body of an image: what the packed elements need for a spill, a whole register otherwise. -/
def imageSize (spill : Bool) (cls : Fin 6) (r : Row) : Nat := if spill then spillBytes r.ty r.elems.length else rlenOf cls

/-- The body of an image: packed by a spill, in the lane layout otherwise. -/
def imageBytes (spill : Bool) (cls : Fin 6) (r : Row) : List Byte :=
  headerBytes r.ty r.elems.length (if spill then 0 else (Config.laneLayout (rlenOf cls)).toNat) ++
    if spill then leBytes (imageSize spill cls r) (packElems r.ty r.elems) else laneBytes (rlenOf cls) r.ty r.elems

/-- The oldest entry, clean, leaves as an image over pages that are there. -/
theorem imageStore_sent {s : State} {h : Hart} {q : Fin 2} {base : Reg} {off : BitVec 16} {spill : Bool} {r : Row} {at' : Nat → Nat × Bool}
    (hs : s.runs h .pacer) (hv : h.pacer.th.vrel = false) (hq : h.sq[q].head? = some r) (hl : h.pacer.loads = []) (hp : r.poison = [])
    (hal : (h.reg .pacer base + off.signExtend 64).toNat % 64 = 0)
    (hok : ∀ t ∈ pieces (h.reg .pacer base + off.signExtend 64) (64 + imageSize spill h.cls r),
      translate s h.core h.part t.va .store false = .ok (at' t.elem)) :
    ∃ t : State, imageStore q base off spill s = .next t ∧ s.sent t h q (imageFlights (imageBytes spill h.cls r) (fun _ => false)
      ((pieces (h.reg .pacer base + off.signExtend 64) (64 + imageSize spill h.cls r)).map fun t => (t, at' t.elem))) true := by
  refine ⟨_, ?_, commitImage_sent
    (noteAll_sameButCaches s h (pieces (h.reg .pacer base + off.signExtend 64) (64 + imageSize spill h.cls r))) hs.1 q _⟩
  rw [imageStore, runs_pacer hs]
  simp only [hv, hq, hal, hp, List.any_nil, Bool.and_false, Bool.false_eq_true, if_false, ne_eq, not_true_eq_false]
  exact (withProbe_ok hok s.cur.hart 0x05 id _).trans (afterLoads_none hl ..)

/-! ### Headers (R242, R243) -/

theorem readAll_word (m : List Host.Cell) (loc n : Nat) :
    Memory.readAll m loc (8 * (n + 1)) = Memory.readAll m loc 8 ++ Memory.readAll m (loc + 8) (8 * n) := rfl

/-- Settled words without poison, on a page that is not cached, are read as they stand at their home. -/
theorem readHeader_settled (i die : Nat) (n : Nat) {loc : Nat} {s : State} (hset : s.settled i loc (8 * n))
    (hclean : ∀ p ∈ s.poison, p < loc ∨ loc + 8 * n ≤ p) :
    ∃ t, s.sameButFar t ∧ readHeader i die s ((List.range n).map fun k => (loc + 8 * k, false)) =
      (t, Memory.readAll s.mem loc (8 * n), false) := by
  induction n generalizing loc s with
  | zero => exact ⟨s, rfl, rfl⟩
  | succ n ih =>
    obtain ⟨hread, hfar⟩ := dieRead_uncached s die loc 8
    have hbad : (s.poison.any fun p => decide (loc ≤ p) && decide (p < loc + 8)) = false := by
      simp only [List.any_eq_false, Bool.and_eq_true, decide_eq_true_eq]
      intro p hp
      have := hclean p hp
      omega
    have hset8 : s.settled i loc 8 := fun w hw hi => by
      have := hset w hw hi
      omega
    simp only [homeRead, hbad] at hread
    obtain ⟨t, ht, hrest⟩ := ih (loc := loc + 8) (s := (dieRead s die loc 8 false).1)
      (fun w hw hi => by
        have := hset w (hfar.caches.earlier ▸ hw) hi
        omega)
      (fun p hp => by
        have := hclean p (hfar.caches.poison ▸ hp)
        omega)
    have hlocs : (List.range (n + 1)).map (fun k => (loc + 8 * k, false)) =
        (loc, false) :: (List.range n).map fun k => (loc + 8 + 8 * k, false) := by
      rw [List.range_succ_eq_map, List.map_cons, List.map_map]
      refine congrArg (_ :: ·) (List.map_congr_left fun k _ => ?_)
      simp only [Function.comp_apply, Prod.mk.injEq, and_true]
      omega
    refine ⟨t, hfar.trans ht, ?_⟩
    rw [hfar.caches.mem] at hrest
    rw [hlocs, readHeader, vectorRead_settled (by decide) hset8, readAll_word]
    generalize dieRead s die loc 8 false = r at hread hrest
    obtain ⟨u, v⟩ := r
    cases hread
    simp only [hrest, Bool.or_false]

/-- A header is taken when it is the one of a type and of a count within its capacity, under the identifier asked for. -/
theorem imageHeader_eq_some {cls : Fin 6} {layout : Nat} {bs : List Byte} {ty : ElemType} {count : Nat} :
    imageHeader cls layout bs = some (ty, count) ↔
      count < 2 ^ 16 ∧ count ≤ capacity cls ty ∧ leNat bs = ty.code + count * 2 ^ 16 + layout * 2 ^ 48 := by
  have hcode : ty.code < 16 := by cases ty <;> decide
  unfold imageHeader
  constructor
  · dsimp only
    split
    · intro h; cases h
    · next ty' hty =>
      rw [ElemType.ofCode_eq_some] at hty
      split
      · next hall =>
        rintro ⟨⟩
        exact ⟨Nat.mod_lt _ (by decide), hall.2, hty ▸ hall.1⟩
      · intro h; cases h
  · rintro ⟨hlt, hcap, hn⟩
    have hlow : leNat bs % 16 = ty.code := by omega
    have hcount : leNat bs / 2 ^ 16 % 2 ^ 16 = count := by omega
    have hty : ElemType.ofCode (leNat bs % 16) = some ty := by rw [hlow, ElemType.ofCode_eq_some]
    simp only [hty, hcount]
    rw [if_pos ⟨by rw [hlow]; exact hn, hcap⟩]

/-- A header that is no type's and count's is refused. -/
theorem imageHeader_eq_none {cls : Fin 6} {layout : Nat} {bs : List Byte}
    (h : ∀ (ty : ElemType) (count : Nat), count < 2 ^ 16 → count ≤ capacity cls ty → leNat bs ≠ ty.code + count * 2 ^ 16 + layout * 2 ^ 48) :
    imageHeader cls layout bs = none := by
  rw [Option.eq_none_iff_forall_ne_some]
  rintro ⟨ty, count⟩ hsome
  obtain ⟨hlt, hcap, hn⟩ := imageHeader_eq_some.1 hsome
  exact h ty count hlt hcap hn

/-! ### Loads of images (R242, R243) -/

/-- The pieces of an image: its header and the whole pieces of its body. -/
theorem pieces_header (va : Word) (n : Nat) : pieces va (64 + n) = (List.range (n / 64 + 1)).map fun k => ⟨k, va + BitVec.ofNat 64 (64 * k)⟩ := by
  rw [pieces, Nat.add_div_left _ (by decide)]

section
variable {s : State} {h : Hart} {q : Fin 4} {va : Word} {at' : Nat → Nat} (hart : s.harts[s.cur.hart]? = some h)
  (hv : h.pacer.th.vrel = false) (hslip : slipCount h q < h.pacer.slip.toNat) (hst : h.pacer.stores = []) (hal : va.toNat % 64 = 0)
  (hrec : s.mgmt.recoveries = []) (hloads : ∀ g ∈ h.pacer.loads, g.reads (at' 0) 64 = false)
  (hclean : ∀ p ∈ s.poison, p < at' 0 ∨ at' 0 + 64 ≤ p) (hset : s.settled s.cur.hart (at' 0) 64)
include hart hv hslip hst hal hrec hloads hclean hset

/-- A load of an image reads its header at its home, beside the caches nothing changes, and goes on by what the header says. -/
theorem withHeader_reads (w : WaitingLoad) (layout n : Nat) (go : State → ElemType → Nat → Out)
    (hok : ∀ k < n / 64 + 1, translate s h.core h.part (va + BitVec.ofNat 64 (64 * k)) .load false = .ok (at' k, false)) :
    ∃ t, (noteAll s h (pieces va (64 + n))).sameButFar t ∧ withHeader true s s.cur.hart h w q va layout (64 + n) go =
      (imageHeader h.cls layout (Memory.readAll s.mem (at' 0) 64)).elim (trapHere t s.cur.hart h .pacer 0x02) fun x => go t x.1 x.2 := by
  have hnote := noteAll_sameButCaches s h (pieces va (64 + n))
  have hok' : ∀ t ∈ pieces va (64 + n), translate s h.core h.part t.va .load false = .ok (at' t.elem, false) := fun t ht => by
    rw [pieces_header] at ht
    obtain ⟨k, hk, rfl⟩ := List.mem_map.1 ht
    exact hok k (List.mem_range.1 hk)
  have hhead : ((pieces va (64 + n)).map fun t => (t, at' t.elem, false)).take 1 = [(⟨0, va + BitVec.ofNat 64 (64 * 0)⟩, at' 0, false)] := by
    rw [pieces_header, List.range_succ_eq_map]; rfl
  have hmeet : loadsMeet h [((⟨0, va + BitVec.ofNat 64 (64 * 0)⟩ : Touch), at' 0, false)] 64 = false := by
    simp only [loadsMeet, List.any_eq_false, List.any_cons, List.any_nil, Bool.or_false, Bool.not_eq_true]
    exact hloads
  obtain ⟨t, ht, hread⟩ := readHeader_settled s.cur.hart (coreDie h.core) 8 (loc := at' 0) (s := noteAll s h (pieces va (64 + n)))
    (fun w hw hi => hset w (hnote.earlier ▸ hw) hi) (fun p hp => hclean p (hnote.poison ▸ hp))
  refine ⟨t, ht, ?_⟩
  have hfull : slipFull h q = false := by simp [slipFull, hslip]
  have hfence : accessFenced (noteAll s h (pieces va (64 + n))) (at' 0) 64 false = false := accessFenced_none (hnote.mgmt ▸ hrec) ..
  simp only [withHeader, hv, hfull, hal, Bool.and_false, Bool.false_eq_true, if_false, ne_eq, not_true_eq_false]
  rw [withProbe_ok hok']
  simp only [hhead, List.any_cons, List.any_nil, Bool.or_false, hfence, afterLoads, hmeet, Bool.false_eq_true, if_false,
    settleTouches_none (hnote.harts ▸ hart) hst, List.flatMap_cons, List.flatMap_nil, List.append_nil]
  rw [hread]
  simp only [Bool.false_eq_true, if_false, hnote.mem]
  cases imageHeader h.cls layout (Memory.readAll s.mem (at' 0) 64) <;> rfl

end

/-- Touches whose translations are known, each with what its own gave. -/
theorem withProbe_placed {s : State} {h : Hart} {k : AccessKind} {es : List Nat} {touch : Nat → Touch} {loc : Nat → Nat × Bool}
    (hok : ∀ e ∈ es, translate s h.core h.part (touch e).va k false = .ok (loc e)) (i : Nat) (d : BitVec 8) (mark : State → State)
    (go : State → List (Touch × Nat × Bool) → Out) :
    withProbe s i h d k mark (es.map touch) go = go (noteAll s h (es.map touch)) (es.map fun e => (touch e, loc e)) := by
  have hprobe : probeAll s h k (es.map touch) = es.map fun e => (touch e, .ok (loc e)) := by
    rw [probeAll, List.map_map]
    exact List.map_congr_left fun e he => congrArg (Prod.mk _) (hok e he)
  have hend : probeEnd s i h d k (probeAll s h k (es.map touch)) = .clear := by
    rw [probeEnd, hprobe]
    simp [List.filterMap_map]
  have hlocs : probed (probeAll s h k (es.map touch)) = es.map fun e => (touch e, loc e) := by
    rw [hprobe]
    simp [probed, List.filterMap_map, List.filterMap_eq_map']
  simp only [withProbe, hend, hlocs]

/-- A load of an image has been issued by the hart that executes: `vstart` stays as it is. -/
def State.issuesImage (s : State) (h : Hart) (q : Fin 4) (ty : ElemType) (srcs : List ElemSource) (o : Out) : Prop :=
  ∃ (t : State) (xs : List ElemSource), o = .next t ∧ t.mem = s.mem ∧
    t.harts = s.harts.set s.cur.hart (h.afterLoad ⟨q, ty, xs⟩ true) ∧ s.issues s.cur.hart ty srcs xs

theorem issueLoad_issuesImage {s t : State} (hst : s.sameButCaches t) {h : Hart} (hr : s.harts[s.cur.hart]? = some h) (q : Fin 4)
    (ty : ElemType) (srcs : List ElemSource) :
    s.issuesImage h q ty srcs (.next (issueLoad true t s.cur.hart ⟨q, ty, srcs⟩ true)) := by
  obtain ⟨hafter, hlen, hiss⟩ := issueElems_spec s.cur.hart ty t srcs
  have hharts : (issueElems s.cur.hart ty t srcs).1.harts = t.harts := (congrArg State.harts hafter.1 :)
  have hmem : (issueElems s.cur.hart ty t srcs).1.mem = t.mem := (congrArg State.mem hafter.1 :)
  refine ⟨_, _, rfl, hmem.trans hst.mem, ?_, hlen, fun k a x ha hx => State.mayIssue_mono (fun w hw => hst.earlier ▸ hw) (hiss k a x ha hx)⟩
  simp only [issueLoad, modHart_harts, hharts, hst.harts]
  rw [modify_of_getElem? hr]
  rfl

/-- Where the elements of an image come from. -/
abbrev imageSources (ty : ElemType) (count : Nat) (place : Nat → Nat) (at' : Nat → Nat × Bool) : List ElemSource :=
  (List.range count).map fun e => if ty = .qn4 then .nibble (at' e).1 (decide (place e % 2 = 1)) (at' e).2 else .bytes (at' e).1 (at' e).2

theorem imageBody_issues {s t : State} (hst : s.sameButCaches t) {h : Hart} (hr : s.harts[s.cur.hart]? = some h)
    (hstores : h.pacer.stores = []) (w : WaitingLoad) (q : Fin 4) {va : Word} {ty : ElemType} {count : Nat} {place : Nat → Nat}
    {at' : Nat → Nat × Bool}
    (hok : ∀ e < count, translate t h.core h.part (elemVa (.unit 64) ty va 0 (place e) 0) .load false = .ok (at' e)) :
    s.issuesImage h q ty (imageSources ty count place at') (imageBody true t s.cur.hart h w q va ty count place) := by
  have hnote := hst.trans (noteAll_sameButCaches t h
    ((List.range count).map fun e => ⟨place e, elemVa (.unit 64) ty va 0 (place e) 0⟩))
  rw [imageBody, withProbe_placed fun e he => hok e (List.mem_range.1 he), settleTouches_none (hnote.harts ▸ hr) hstores, List.map_map]
  have hsrc : imageSources ty count place at' = (List.range count).map
      ((fun l : Touch × Nat × Bool => sourceOf ty l.1 l.2.1 l.2.2) ∘ fun e => (⟨place e, elemVa (.unit 64) ty va 0 (place e) 0⟩, at' e)) :=
    List.map_congr_left fun e _ => by simp only [Function.comp_apply, sourceOf, beq_iff_eq]
  rw [hsrc]
  exact issueLoad_issuesImage hnote hr q ty _

section
variable {s : State} {h : Hart} {q : Fin 4} {va : Word} {at' : Nat → Nat} (hart : s.harts[s.cur.hart]? = some h)
  (hv : h.pacer.th.vrel = false) (hslip : slipCount h q < h.pacer.slip.toNat) (hst : h.pacer.stores = []) (hal : va.toNat % 64 = 0)
  (hrec : s.mgmt.recoveries = []) (hloads : ∀ g ∈ h.pacer.loads, g.reads (at' 0) 64 = false)
  (hclean : ∀ p ∈ s.poison, p < at' 0 ∨ at' 0 + 64 ≤ p) (hset : s.settled s.cur.hart (at' 0) 64)
include hart hv hslip hst hal hrec hloads hclean hset

/-- A header of a type and a count gives a load of that type and count. -/
theorem image_issues (w : WaitingLoad) (layout n : Nat) (place : ElemType → Nat → Nat)
    (hok : ∀ k < n / 64 + 1, translate s h.core h.part (va + BitVec.ofNat 64 (64 * k)) .load false = .ok (at' k, false))
    {ty : ElemType} {count : Nat} (hlt : count < 2 ^ 16) (hcap : count ≤ capacity h.cls ty)
    (hheader : leNat (Memory.readAll s.mem (at' 0) 64) = ty.code + count * 2 ^ 16 + layout * 2 ^ 48) {at2 : Nat → Nat × Bool}
    (hbody : ∀ e < count, translate (noteAll s h (pieces va (64 + n))) h.core h.part
      (elemVa (.unit 64) ty va 0 (place ty e) 0) .load false = .ok (at2 e)) :
    s.issuesImage h q ty (imageSources ty count (place ty) at2)
      (withHeader true s s.cur.hart h w q va layout (64 + n) fun t ty count => imageBody true t s.cur.hart h w q va ty count (place ty)) := by
  obtain ⟨t, ht, hrun⟩ := withHeader_reads hart hv hslip hst hal hrec hloads hclean hset w layout n
    (fun t ty count => imageBody true t s.cur.hart h w q va ty count (place ty)) hok
  have hcaches := (noteAll_sameButCaches s h (pieces va (64 + n))).trans ht.caches
  rw [hrun, imageHeader_eq_some.2 ⟨hlt, hcap, hheader⟩]
  refine imageBody_issues hcaches hart hst w q fun e he => ?_
  rw [translate_sameButFar ht]
  exact hbody e he

/-- Any other header is a type mismatch. -/
theorem image_refused (w : WaitingLoad) (layout n : Nat) (go : State → ElemType → Nat → Out)
    (hok : ∀ k < n / 64 + 1, translate s h.core h.part (va + BitVec.ofNat 64 (64 * k)) .load false = .ok (at' k, false))
    (hheader : ∀ (ty : ElemType) (count : Nat), count < 2 ^ 16 → count ≤ capacity h.cls ty →
      leNat (Memory.readAll s.mem (at' 0) 64) ≠ ty.code + count * 2 ^ 16 + layout * 2 ^ 48) :
    ∃ far, withHeader true s s.cur.hart h w q va layout (64 + n) go =
      .next (trapAt { noteAll s h (pieces va (64 + n)) with farCache := far } s.cur.hart h .pacer 0x02 0) := by
  obtain ⟨t, ht, hrun⟩ := withHeader_reads hart hv hslip hst hal hrec hloads hclean hset w layout n go hok
  refine ⟨t.farCache, ?_⟩
  have hback : ({ noteAll s h (pieces va (64 + n)) with farCache := t.farCache } : State) = t :=
    (congrArg (fun x : State => { x with farCache := t.farCache }) ht).symm
  rw [hrun, imageHeader_eq_none hheader, hback]
  rfl

end

section
variable {s : State} {h : Hart} (hr : s.runs h .pacer)
include hr

theorem exec_vldw (q : Fin 4) (base : Reg) (off : BitVec 16) : ∃ word, exec (.vldw q base off) s =
    imageLoad true s s.cur.hart h (h.captured (.lanes q off) word base none none) q (off.signExtend 64) :=
  ⟨_, loadHere_runs hr ..⟩

theorem exec_vfil (q : Fin 4) (base : Reg) (off : BitVec 16) : ∃ word, exec (.vfil q base off) s =
    fillLoad true s s.cur.hart h (h.captured (.packed q off) word base none none) q (off.signExtend 64) :=
  ⟨_, loadHere_runs hr ..⟩

end

/-- Settles O23: an image store sends its header and body, a load of one goes by the header it reads, and a body gives back the elements it
was made of. -/
theorem images : Obligations.Images := by
  refine ⟨?stores, ?loads, fun ty es n hfit hn => ⟨unlane_laneBytes hfit hn, unpackElems_leBytes hfit hn⟩⟩
  case stores =>
    intro s h q base off r rest at' hs th va rl count hv hq hl hp hal stores
    have hhead : h.sq[q].head? = some r := by rw [hq]; rfl
    have hsent (spill : Bool) (hok : ∀ k < (64 + imageSize spill h.cls r) / 64,
        translate s h.core h.part (va + BitVec.ofNat 64 (64 * k)) .store false = .ok (at' k)) :=
      imageStore_sent hs hv hhead hl hp hal (spill := spill) (at' := at') fun t ht => by
        obtain ⟨k, hk, rfl⟩ := List.mem_map.1 ht
        exact hok k (List.mem_range.1 hk)
    simp only [pieces, List.map_map] at hsent
    exact ⟨hsent false, hsent true⟩
  case loads =>
    intro s h q base off at' hs th va rl piece header s1 hv hslip hst hal hrec hloads hclean hset
    obtain ⟨wordw, hvldw⟩ := exec_vldw hs q base off
    obtain ⟨wordf, hvfil⟩ := exec_vfil hs q base off
    have hpieces (n : Nat) : noteAll s h (pieces va (64 + n)) = s1 (n / 64 + 1) := by rw [pieces_header]
    have hissues := image_issues hs.1 hv hslip hst hal hrec hloads hclean hset
    have hrefused := image_refused hs.1 hv hslip hst hal hrec hloads hclean hset
    have hfirst (htr : translate s h.core h.part va .load false = .ok (at' 0, false)) :
        ∀ k < 0 / 64 + 1, translate s h.core h.part (va + BitVec.ofNat 64 (64 * k)) .load false = .ok (at' k, false) := fun k hk => by
      obtain rfl : k = 0 := by omega
      simpa using htr
    rw [hvldw, hvfil]
    refine ⟨fun ty count hlt hcap => ⟨fun hheader hok at2 hbody => ?_, fun hheader htr at2 hbody => ?_⟩, fun hheader htr => ?_,
      fun hheader hok => ?_⟩
    · exact hissues _ _ rl (lanePlace rl) hok hlt hcap hheader (by rw [hpieces]; exact hbody)
    · exact hissues _ 0 0 (fun _ => id) (hfirst htr) hlt hcap (by simpa using hheader) (by rw [hpieces]; exact hbody)
    · obtain ⟨far, hfar⟩ := hrefused (h.captured (.packed q off) wordf base none none) 0 0
        (fun t ty count => imageBody true t s.cur.hart h (h.captured (.packed q off) wordf base none none) q va ty count id) (hfirst htr)
        (by simpa using hheader)
      exact ⟨far, by rw [← hpieces 0]; exact hfar⟩
    · obtain ⟨far, hfar⟩ := hrefused (h.captured (.lanes q off) wordw base none none) (Config.laneLayout rl).toNat rl
        (fun t ty count => imageBody true t s.cur.hart h (h.captured (.lanes q off) wordw base none none) q va ty count (lanePlace rl ty)) hok
        hheader
      exact ⟨far, by rw [← hpieces]; exact hfar⟩

end Sys2Proof.Machine
end

section
/-! PROOFS. Vector atomics (R244). -/
namespace Sys2Proof.Machine

open Sys2Proof

/-! ### The items one after another -/

/-- No `VAMO` takes QN4. -/
theorem vamoTakes_bytes {o : VAmoOp} {t : ElemType} (h : vamoTakes o t = true) : t ≠ .qn4 := by
  rintro rfl
  cases h

theorem zeroOf_bytes {t : ElemType} (ht : t ≠ .qn4) : zeroOf t = 0 := by
  cases t with
  | qn4 => exact absurd rfl ht
  | _ => rfl

/-- The entry of a list of touched elements that belongs to one of them. -/
theorem find?_touched {acts : List Nat} {e : Nat} (he : e ∈ acts) (va : Nat → Word) (at' : Nat → Nat × Bool) :
    (acts.map fun e => ((⟨e, va e⟩ : Touch), at' e)).find? (fun l => l.1.elem == e) = some (⟨e, va e⟩, at' e) := by
  have hself : acts.find? (fun a => a == e) = some e := by
    obtain ⟨a, ha⟩ := Option.isSome_iff_exists.1 ((List.find?_isSome (p := fun a => a == e)).2 ⟨e, he, beq_self_eq_true e⟩)
    have hae := List.find?_some (p := fun a => a == e) ha
    rw [ha, eq_of_beq hae]
  rw [List.find?_map]
  exact congrArg (Option.map _) hself

section
variable {o : VAmoOp} {r : Row} (ht : vamoTakes o r.ty = true) (hr : r.poison = []) (die : Nat) (list : Word)
  (va : Nat → Word) (at' : Nat → Nat × Bool) (idx : Nat → Nat)
include ht hr

/-- The items (location, operand) of some elements. -/
abbrev Row.items (r : Row) (at' : Nat → Nat × Bool) (es : List Nat) : List (Nat × Nat) :=
  es.map fun e => ((at' e).1, (r.elems.getD e 0).toNat % 2 ^ width r.ty)

/-- Without poison every element is updated at its home, each from what the ones before have left; beside memory nothing changes but what
records stores. -/
theorem amoElems_inOrder {acts es : List Nat} (hes : ∀ e ∈ es, e ∈ acts) {s : State} (hs : s.poison = []) (old : List (Nat × Word)) :
    ∃ t : State, s.sameButMemory t ∧
      t.mem = (atomicsInOrder (width r.ty / 8) (vamoNew o r.ty) s.mem (r.items at' es)).2 ∧
      amoElems die o r list (acts.map fun e => (⟨e, va e⟩, at' e)) ⟨s, old, none⟩ (es.map fun e => (e, some (idx e))) =
        ⟨t, old ++ (es.zip (atomicsInOrder (width r.ty / 8) (vamoNew o r.ty) s.mem (r.items at' es)).1).map fun x =>
          (x.1, BitVec.ofNat 64 x.2), none⟩ := by
  induction es generalizing s old with
  | nil => exact ⟨s, rfl, rfl, by simp [amoElems]⟩
  | cons e es ih =>
    have hclean := homeRead_clean hs (at' e).1 (width r.ty / 8)
    have hbytes : (homeRead s (at' e).1 (width r.ty / 8)).1 = Memory.readAll s.mem (at' e).1 (width r.ty / 8) := rfl
    generalize hv : vamoNew o r.ty (leNat (Memory.readAll s.mem (at' e).1 (width r.ty / 8))) ((r.elems.getD e 0).toNat % 2 ^ width r.ty) = v
    have hpoison : (storeThrough s die (at' e).1 (leBytes (width r.ty / 8) v) false).poison = [] := by
      have : (storeThrough s die (at' e).1 (leBytes (width r.ty / 8) v) false).poison =
        poisonAfter s.poison (at' e).1 (leBytes (width r.ty / 8) v).length false := rfl
      rw [this, hs]; rfl
    obtain ⟨t, hst, hmem, hrun⟩ := ih (fun e' he' => hes e' (List.mem_cons_of_mem _ he')) hpoison
      (old ++ [(e, BitVec.ofNat 64 (leNat (Memory.readAll s.mem (at' e).1 (width r.ty / 8))))])
    rw [storeThrough_mem] at hmem hrun
    refine ⟨t, (storeThrough_sameButMemory ..).trans hst, ?_, ?_⟩
    · simp only [Row.items, List.map_cons, atomicsInOrder, hv]; exact hmem
    · simp only [List.map_cons, amoElems, find?_touched (hes e (List.mem_cons_self ..)), hclean, hbytes, hr, rowGet,
        zeroOf_bytes (vamoTakes_bytes ht), hv, hrun, Row.items, atomicsInOrder, List.zip_cons_cons, List.append_assoc, List.contains_nil, Bool.or_self, Bool.false_eq_true, if_false,
        List.singleton_append]

end

/-! ### The end of a `VAMO` -/

/-- The Pacer after a whole `VAMO` (R244): its operands are popped, and the old values are at the end of the queue that was asked for. -/
def Hart.afterAtomic (h : Hart) (q : Fin 2) (ret : Option (Fin 4)) (row : Row) : Hart :=
  let h' := h.afterStore q [] false
  match ret with
  | none => h'
  | some p => { h' with lq := h'.lq.set p (h'.lq[p] ++ [row]) }

theorem endAtomic_whole {s : State} {i : Nat} {h : Hart} (hi : s.harts[i]? = some h) (hv : h.pacer.vamoRet = none) (q : Fin 2) (t : ElemType)
    (ret : Option (Fin 4)) (vl : Nat) (old : List (Nat × Word)) :
    (endAtomic q t ret vl none [] s i old).mem = s.mem ∧
      (endAtomic q t ret vl none [] s i old).harts = s.harts.set i (h.afterAtomic q ret ⟨t, returned [] old vl, []⟩) := by
  have hsend : sendStores s i [] = (s, []) := sendStores_unordered (fun _ hf => (List.not_mem_nil hf).elim) hi
  have hlt : i < s.harts.length := (List.getElem?_eq_some_iff.1 hi).1
  refine ⟨by simp only [endAtomic, commitStore, hsend, modHart_mem], ?_⟩
  simp only [endAtomic, commitStore, hsend, modHart_harts]
  rw [modify_of_getElem? hi, modify_of_getElem? (List.getElem?_set_self hlt), List.set_set]
  cases ret <;> simp [Hart.afterAtomic, Hart.afterStore, hv]

/-- The old values by element, 0 where an element has none. -/
theorem returned_zip (acts : List Nat) (olds : List Nat) (n : Nat) :
    returned [] ((acts.zip olds).map fun x => (x.1, BitVec.ofNat 64 x.2)) n =
      (List.range n).map fun e => (((acts.zip olds).find? fun x => x.1 == e).map fun x => BitVec.ofNat 64 x.2).getD 0 := by
  refine List.map_congr_left fun e _ => ?_
  rw [List.find?_map, Option.map_map]
  rfl

/-! ### `VAMO` at its instruction -/

/-- An outcome that leaves a memory and, of the harts, replaces the one that executes. -/
def State.updates (s : State) (m : List Host.Cell) (h' : Hart) (o : Out) : Prop :=
  ∃ t : State, o = .next t ∧ t.mem = m ∧ t.harts = s.harts.set s.cur.hart h'

/-- What holds of an instruction's outcome once its index list is read holds of it where the list can be read as it stands. -/
theorem withIndices_reads {s : State} {h : Hart} (hart : s.harts[s.cur.hart]? = some h) (hst : h.pacer.stores = [])
    (hloads : h.pacer.loads = []) (hrec : s.mgmt.recoveries = []) (hp : s.poison = []) {d : BitVec 8} {mark : State → State} {list : Word}
    {acts : List Nat} {li : Nat → Nat} {go : State → List (Nat × Option Nat) → Out}
    (hok : ∀ e ∈ acts, (list + BitVec.ofNat 64 (4 * e)).toNat % 4 = 0 ∧
      translate s h.core h.part (list + BitVec.ofNat 64 (4 * e)) .load false = .ok (li e, false) ∧ s.settled s.cur.hart (li e) 4)
    {P : Out → Prop}
    (hgo : ∀ t, (noteAll s h (acts.map fun e => ⟨e, list + BitVec.ofNat 64 (4 * e)⟩)).sameButFar t →
      P (go t (acts.map fun e => (e, some (leNat (Memory.readAll s.mem (li e) 4)))))) :
    P (withIndices s s.cur.hart h d mark list acts go) := by
  obtain ⟨t, hfar, hread⟩ := withIndices_read hart hst d mark list acts li go hrec (by simp [hloads]) fun e he => by
    obtain ⟨hal, htr, hset⟩ := hok e he
    exact ⟨hal, htr, by simp [hp], hset⟩
  rw [hread]
  exact hgo t hfar

section
variable {s : State} {h : Hart} {q : Fin 2} {r : Row} (hs : StoreReady s h q r) {o : VAmoOp} (ht : vamoTakes o r.ty = true)
include hs ht

/-- What a `VAMO` comes to, past the checks that stop or refuse it: its elements are active or none is. -/
theorem StoreReady.atomic_updates {sel : MaskSel} {base list : Reg} {sc : Fin 4} {ret : Option (Fin 4)} {li : Nat → Nat}
    {at' : Nat → Nat × Bool} (hdet : h.det = true → vamoRefusedDet o r.ty = false) (hst : h.pacer.stores = []) (hvr : h.pacer.vamoRet = none)
    (hrec : s.mgmt.recoveries = []) (hp : s.poison = []) (hrp : r.poison = []) (hslip : ∀ p, ret = some p → slipCount h p < h.pacer.slip.toNat)
    (hlist : ∀ e ∈ h.activesBelow sel h.pacer.th.vl.toNat, (h.reg .pacer list + BitVec.ofNat 64 (4 * e)).toNat % 4 = 0 ∧
      translate s h.core h.part (h.reg .pacer list + BitVec.ofNat 64 (4 * e)) .load false = .ok (li e, false) ∧ s.settled s.cur.hart (li e) 4)
    (hok : ∀ e ∈ h.activesBelow sel h.pacer.th.vl.toNat,
      (elemVa (.indexed sc.val) r.ty (h.reg .pacer base) 0 e (leNat (Memory.readAll s.mem (li e) 4))).toNat % elemAlign r.ty = 0 ∧
      translate (noteAll s h (h.touches sel h.pacer.th.vl.toNat fun e => h.reg .pacer list + BitVec.ofNat 64 (4 * e))) h.core h.part
        (elemVa (.indexed sc.val) r.ty (h.reg .pacer base) 0 e (leNat (Memory.readAll s.mem (li e) 4))) .atomic false = .ok (at' e) ∧
      (regionOf (at' e).1 = .host → vamoHostOk o r.ty = true)) :
    let acts := h.activesBelow sel h.pacer.th.vl.toNat
    let did := atomicsInOrder (width r.ty / 8) (vamoNew o r.ty) s.mem (r.items at' acts)
    s.updates did.2 (h.afterAtomic q ret ⟨r.ty, (List.range h.pacer.th.vl.toNat).map fun e =>
      (((acts.zip did.1).find? fun x => x.1 == e).map fun x => BitVec.ofNat 64 x.2).getD 0, []⟩)
      (vectorAtomic sel q base list sc o ret s) := by
  intro acts did
  have hdet' : (h.det && vamoRefusedDet o r.ty) = false := by
    cases hd : h.det with
    | false => rfl
    | true => exact hdet hd
  rw [vectorAtomic, runs_pacer hs.runs]
  simp only [atomicRun, hs.holds, hs.head, ht, hvr, Nat.not_lt.2 hs.fits, hdet', vectorSettles_none hrec, actives_pacerMask,
    Bool.not_true, Bool.false_eq_true, if_false]
  rw [if_neg (by cases ret with | none => exact Bool.false_ne_true | some p => simp [slipFull, hslip p rfl])]
  split
  next hnone =>
    rw [deliverAll_none hs.runs.1 hs.noLoads]
    obtain ⟨hmem, hharts⟩ := endAtomic_whole hs.runs.1 hvr q r.ty ret h.pacer.th.vl.toNat []
    have hacts : acts = [] := List.isEmpty_iff.1 hnone
    refine ⟨_, rfl, ?_, ?_⟩
    · rw [hmem]; simp only [did, hacts]; rfl
    · rw [hharts, ← returned_zip]; simp only [did, hacts]; rfl
  next =>
    refine withIndices_reads (P := s.updates did.2 _) hs.runs.1 hst hs.noLoads hrec hp hlist fun t hfar => ?_
    have hcaches := (noteAll_sameButCaches s h _).trans hfar.caches
    let va := fun e => elemVa (.indexed sc.val) r.ty (h.reg .pacer base) 0 e (leNat (Memory.readAll s.mem (li e) 4))
    have hts : (acts.map fun e => (e, some (leNat (Memory.readAll s.mem (li e) 4)))).filterMap
        (fun x => x.2.map fun idx => (⟨x.1, elemVa (.indexed sc.val) r.ty (h.reg .pacer base) 0 x.1 idx⟩ : Touch)) =
        acts.map fun e => ⟨e, va e⟩ := by
      simp [List.filterMap_map, va]
    have hok' : ∀ x ∈ acts.map fun e => (⟨e, va e⟩ : Touch), x.va.toNat % elemAlign r.ty = 0 ∧
        translate t h.core h.part x.va .atomic false = .ok (at' x.elem) ∧ (regionOf (at' x.elem).1 = .host → vamoHostOk o r.ty = true) :=
      fun x hx => by
        obtain ⟨e, he, rfl⟩ := List.mem_map.1 hx
        rw [translate_sameButFar hfar]
        exact hok e he
    have hpages : ∀ x ∈ acts.map fun e => (⟨e, va e⟩ : Touch), translate t h.core h.part x.va .atomic false = .ok (at' x.elem) :=
      fun x hx => (hok' x hx).2.1
    have hkept {f : Probe → Probe} (hf : ∀ x ∈ acts.map fun e => (⟨e, va e⟩ : Touch), f (x, .ok (at' x.elem)) = (x, .ok (at' x.elem))) :
        (probeAll t h .atomic (acts.map fun e => ⟨e, va e⟩)).map f = probeAll t h .atomic (acts.map fun e => ⟨e, va e⟩) := by
      rw [probeAll_ok hpages, List.map_map]
      exact List.map_congr_left hf
    have hlocs : (acts.map fun e => (⟨e, va e⟩ : Touch)).map (fun x => (x, at' x.elem)) = acts.map fun e => (⟨e, va e⟩, at' e) := by
      rw [List.map_map]; rfl
    have hnote := hcaches.trans (noteAll_sameButCaches t h (acts.map fun e => ⟨e, va e⟩))
    have hquiet := settleVector_none (hnote.harts ▸ hs.runs.1) hs.noLoads hst
    obtain ⟨u, hu, hmem, hrun⟩ := amoElems_inOrder ht hrp (coreDie h.core) (h.reg .pacer list) va at'
      (fun e => leNat (Memory.readAll s.mem (li e) 4)) (acts := acts) (fun _ he => he) (s := noteAll t h (acts.map fun e => ⟨e, va e⟩))
      (hnote.poison.trans hp) []
    rw [hts]
    rw [hkept fun x hx => ?_]
    simp only [misaligned_none fun x hx => (hok' x hx).1, probeEnd_ok hpages, probed_ok hpages, hlocs, filter_belowStop_none, hquiet]
    · have hcalm : (acts.map fun e => ((⟨e, va e⟩ : Touch), at' e)).any (fun l => rangeFenced t l.2.1 (elemAlign r.ty)) = false :=
        List.any_eq_false.2 fun l _ => by simp [rangeFenced_none (hcaches.mgmt ▸ hrec)]
      have hall : (acts.map fun e => (e, some (leNat (Memory.readAll s.mem (li e) 4)))).filter (fun x => belowStop none x.1) =
          acts.map fun e => (e, some (leNat (Memory.readAll s.mem (li e) 4))) := List.filter_eq_self.2 fun _ _ => rfl
      simp only [hcalm, hall, acts, Bool.false_eq_true, if_false] at hrun ⊢
      simp only [hrun, List.nil_append]
      generalize hes : List.map _ (List.filter _ _) = es
      have hharts : (addConflicts u es).harts = s.harts :=
        ((addConflicts_sameButCaches u es).harts.trans hu.harts).trans hnote.harts
      obtain ⟨hendMem, hendHarts⟩ := endAtomic_whole (hharts ▸ hs.runs.1) hvr q r.ty ret h.pacer.th.vl.toNat
        ((acts.zip did.1).map fun x => (x.1, BitVec.ofNat 64 x.2))
      rw [hnote.mem] at hmem
      rw [hnote.mem]
      refine ⟨_, rfl, ?_, ?_⟩
      · rw [hendMem, (addConflicts_sameButCaches u es).mem, hmem]
      · rw [hendHarts, hharts, returned_zip]
    · obtain ⟨_, _, hhost⟩ := hok' x hx
      have : (regionOf (at' x.elem).1 == .host && !vamoHostOk o r.ty) = false := by
        cases hreg : regionOf (at' x.elem).1 == .host with
        | false => rfl
        | true => simp [hhost (eq_of_beq hreg)]
      simp only [this, Bool.false_eq_true, if_false]

end

/-- Settles O24: the items are updated at their homes one after another, and the old values go back as an entry. -/
theorem vectorAtomics : Obligations.VectorAtomics := by
  intro s h sel q base list sc op ret r rest li at' hruns th vl n acts entry idx va s' did hvrel hq hfits htakes hdet hloads hst hvr hrec hp hrp
    hslip hok
  have hn : elemAlign r.ty = n := elemAlign_bytes (vamoTakes_bytes htakes)
  have hready : StoreReady s h q r := ⟨hruns, hvrel, by rw [hq]; rfl, hfits, hloads⟩
  obtain ⟨t, hout, hmem, hharts⟩ := hready.atomic_updates htakes (base := base) (list := list) (sc := sc) hdet hst hvr hrec hp hrp hslip
    (fun e he => by
      obtain ⟨hal, htr, hset, -⟩ := hok e he
      exact ⟨hal, htr, hset⟩)
    (fun e he => by
      obtain ⟨-, -, -, hal, htr, hhost⟩ := hok e he
      exact ⟨hn ▸ hal, htr, hhost⟩)
  refine ⟨t, hout, hmem, ?_⟩
  rw [hharts]
  cases ret <;> rfl

end Sys2Proof.Machine
end

section
/-! PROOFS. Accesses of the host and of peers (R130, R142, R235, R331, R368, R370, R409). -/
namespace Sys2Proof.Machine

open Sys2Proof

/-! ### Who waits, and who performs at once (R130, R331) -/

/-- A request behind one of its own that waits, or one that meets a fenced unit, waits. -/
theorem outsideRequest_waits {s : State} {who : Outsider} {r : PeerReq}
    (h : (∃ x ∈ s.outside, x.1 = who) ∨ ∃ k < (reqRange r).2, fenced s ((reqRange r).1 + k) = true) :
    outsideRequest s who r = { s with outside := s.outside ++ [(who, .mem r)] } := by
  have hwaits : ((s.outside.any fun x => x.1 == who) || rangeFenced s (reqRange r).1 (reqRange r).2) = true := by
    rw [Bool.or_eq_true]
    rcases h with ⟨x, hx, hwho⟩ | ⟨k, hk, hf⟩
    · exact .inl (List.any_eq_true.2 ⟨x, hx, beq_iff_eq.2 hwho⟩)
    · have hrec : s.mgmt.recoveries ≠ [] := fun hnone => by rw [fenced_none hnone] at hf; cases hf
      exact .inr (Bool.and_eq_true_iff.2 ⟨by simpa using hrec, List.any_eq_true.2 ⟨k, List.mem_range.2 hk, hf⟩⟩)
  rw [outsideRequest, if_pos hwaits]

/-- With no unit under recovery and nothing waiting a request performs. -/
theorem outsideRequest_performs {s : State} (hrec : s.mgmt.recoveries = []) (hout : s.outside = []) (who : Outsider) (r : PeerReq) :
    outsideRequest s who r = performRequest s who r := by
  simp only [outsideRequest, hout, List.any_nil, rangeFenced_none hrec, Bool.or_self, Bool.false_eq_true, if_false]

/-- In recovery mode device memory is not exposed (R409). -/
theorem performRequest_recovery {s : State} (h : s.mgmt.recov = true) (who : Outsider) (r : PeerReq) : performRequest s who r = s := by
  simp only [performRequest, h, if_true]

theorem performRequest_peer {s : State} (h : s.mgmt.recov = false) (peer : Fin 16) (r : PeerReq) :
    performRequest s (.peer peer) r = peerAccess s r := by
  simp only [performRequest, h, Bool.false_eq_true, if_false]

/-- A launch write behind a request of its function that waits, waits with the EN and CLASS of its receipt (R142, R370). -/
theorem launchWrite_waits {s : State} {fn : Fn} (h : ∃ x ∈ s.outside, x.1 = .function fn) (p : Fin 8) (q : Fin 64) (off : Nat) (data : List Byte) :
    launchWrite s fn p q off data =
      { s with outside := s.outside ++ [(.function fn, .launch p q off data (queueAt s p q).en (queueAt s p q).cls)] } := by
  obtain ⟨x, hx, hfn⟩ := h
  have hany : (s.outside.any fun x => x.1 == .function fn) = true := List.any_eq_true.2 ⟨x, hx, beq_iff_eq.2 hfn⟩
  rw [launchWrite, launchQueued, if_pos hany]

/-! ### At the home (R331, R368) -/

theorem inDevice_iff {loc n : Nat} :
    inDevice loc n = true ↔ loc + n ≤ farBytes ∨ 2 ^ 52 ≤ loc ∧ loc + n ≤ 2 ^ 52 + nearBytes := by
  rw [inDevice, Bool.or_eq_true, Bool.and_eq_true, decide_eq_true_eq, decide_eq_true_eq, decide_eq_true_eq]

/-- Bytes in far memory lie in device memory. -/
theorem inDevice_far {loc n : Nat} (h : loc + n ≤ farBytes) : inDevice loc n = true := inDevice_iff.2 (.inl h)

/-- What ends within far memory begins there. -/
theorem regionOf_far {loc n : Nat} (h : loc + n ≤ farBytes) : regionOf loc = .far := if_pos (by rw [farBytes] at h; omega)

/-- An outside store changes its own bytes of memory, no hart and no register of a partition. -/
theorem outsideStore_stores {s : State} (hok : s.memoryOk) {loc : Nat} {data : List Byte} (hdev : inDevice loc data.length = true) :
    (outsideStore s loc data).harts = s.harts ∧ (outsideStore s loc data).parts = s.parts ∧
      Memory.readAll (outsideStore s loc data).mem loc data.length = data ∧
      ∀ a, a < loc ∨ loc + data.length ≤ a → Memory.read (outsideStore s loc data).mem a = Memory.read s.mem a := by
  rw [outsideStore, if_pos hdev]
  exact ⟨rfl, rfl, Memory.readAll_writeAll hok loc data, fun a ha => Memory.read_writeAll_outside hok ha⟩

/-- An outside read of bytes without poison answers what stands at the home. -/
theorem outsideRead_reads {s : State} {loc n : Nat} (hdev : inDevice loc n = true) (hp : ∀ a ∈ s.poison, a < loc ∨ loc + n ≤ a) :
    outsideRead s loc n = { s with reads := s.reads ++ [Memory.readAll s.mem loc n] } := by
  simp only [outsideRead, hdev, if_true, homeRead_unpoisoned hp, Bool.false_eq_true, if_false]

/-- A peer's 8-byte atomic on far memory without poison answers the item and stores the new value, if there is one (R234, R235). -/
theorem peerAccess_atomic {s : State} {loc : Nat} (hfar : loc + 8 ≤ farBytes) (hal : loc % 8 = 0)
    (hp : ∀ a ∈ s.poison, a < loc ∨ loc + 8 ≤ a) {op : Fin 10} {x y : Word} {new : Option Nat}
    (hnew : amoNew (peerOp op) 8 (leNat (Memory.readAll s.mem loc 8)) x.toNat y.toNat = new) :
    ∃ t : State, peerAccess s (.atomic loc op true x y) = t ∧ t.harts = s.harts ∧ t.reads = s.reads ++ [Memory.readAll s.mem loc 8] ∧
      t.mem = itemAfter s.mem loc 8 new := by
  have hx : x.toNat % 2 ^ (8 * 8) = x.toNat := Nat.mod_eq_of_lt x.isLt
  have hy : y.toNat % 2 ^ (8 * 8) = y.toNat := Nat.mod_eq_of_lt y.isLt
  refine ⟨_, rfl, ?_⟩
  simp only [peerAccess, if_true, hal, inDevice_far hfar, regionOf_far hfar, homeRead_unpoisoned hp, hx, hy, hnew, ne_eq, not_true_eq_false,
    decide_false, Bool.not_true, bne_self_eq_false, Bool.or_self, Bool.false_eq_true, if_false]
  cases new <;> exact ⟨rfl, rfl, rfl⟩

/-! ### The obligation -/

/-- Settles O50: a request waits or performs by `outsideRequest`; one that performs is a store, a read or an atomic at the home. -/
theorem outsideAccesses : Obligations.OutsideAccesses := by
  unfold Obligations.OutsideAccesses
  refine ⟨fun s fn loc data hwaits => ?_, fun s fn p q off data hwaits => ?_, fun s fn loc n data peer hrecov hrec hout => ?_, ?_⟩
  · exact congrArg Host.Outcome.next (outsideRequest_waits (r := .store loc data) hwaits)
  · exact congrArg Host.Outcome.next (launchWrite_waits hwaits p q off data)
  · have hkept (who : Outsider) (r : PeerReq) : (Host.Outcome.next (outsideRequest s who r) : Out) = .next s := by
      rw [outsideRequest_performs hrec hout, performRequest_recovery hrecov]
    exact ⟨hkept .., hkept .., hkept ..⟩
  · intro s fn loc data n peer hrec hout hrecov hok hp far inDev stores reads
    have hdev {k : Nat} (h : inDev k) : inDevice loc k = true := inDevice_iff.2 h
    have hhost (r : PeerReq) : outsideRequest s (.function fn) r = performRequest s (.function fn) r := outsideRequest_performs hrec hout ..
    have hpeer (r : PeerReq) : outsideRequest s (.peer peer) r = peerAccess s r := by
      rw [outsideRequest_performs hrec hout, performRequest_peer hrecov]
    refine ⟨fun hd => ?_, fun hd => ?_, fun hfar _ => ?_, fun hfar _ => ?_, rfl, ?_⟩
    · refine ⟨outsideStore s loc data, congrArg Host.Outcome.next ((hhost (.store loc data)).trans ?_), outsideStore_stores hok (hdev hd)⟩
      simp only [performRequest, hrecov, Bool.false_eq_true, if_false]
    · refine congrArg Host.Outcome.next ((hhost (.copyRead loc n)).trans ?_)
      simp only [performRequest, hrecov, Bool.false_eq_true, if_false]
      exact outsideRead_reads (hdev hd) hp
    · refine ⟨outsideStore s loc data, congrArg Host.Outcome.next ((hpeer (.store loc data)).trans ?_),
        outsideStore_stores hok (inDevice_far hfar)⟩
      simp only [peerAccess, regionOf_far hfar, beq_self_eq_true, if_true]
    · refine congrArg Host.Outcome.next ((hpeer (.copyRead loc n)).trans ?_)
      simp only [peerAccess, regionOf_far hfar, beq_self_eq_true, if_true]
      exact outsideRead_reads (inDevice_far hfar) hp
    · intro x y hn hfar hal m amo
      subst hn
      have hamo (op : Fin 10) {new : Option Nat} (hnew : amoNew (peerOp op) 8 m x.toNat y.toNat = new) : amo op new := by
        obtain ⟨t, ht, hharts, hreads, hmem⟩ := peerAccess_atomic hfar hal hp hnew
        exact ⟨t, congrArg Host.Outcome.next ((hpeer _).trans ht), hharts, hreads, hmem.trans (by cases new <;> rfl)⟩
      have hcas := hamo 2 (amoNew_cas ..)
      exact ⟨hamo 0 rfl, hamo 1 rfl, hcas⟩

end Sys2Proof.Machine
end
